-- ==== Sys2Proof/Word.lean ====
section
/-!
DEFINITION. Word.lean: the word types, the binary time units of Table 0.4, and the plainest
arithmetic of register fields.
-/
namespace Sys2Proof

/-- A register of BAR0 (R4, R473). -/
abbrev Word := BitVec 32
abbrev Byte := BitVec 8
/-- A node UID, 48 bits (R478). -/
abbrev Uid := BitVec 48
/-- An Ethernet MAC address, 48 bits. -/
abbrev Mac := BitVec 48
/-- A binary instant: ticks since the PTP epoch on the train timescale (R14). -/
abbrev Instant := BitVec 64

/-- A sparse table: entries (key, value), keys strictly rising; an unlisted key holds the default its reader names. -/
abbrev Tab (α : Type) := List (Nat × α)

/-- One perf, 2^10 ticks (Table 0.4). -/
abbrev pf : Nat := 1024
/-- One frame, 2^20 ticks (Table 0.4). -/
abbrev fr : Nat := 1048576
/-- One reel, 2^32 ticks (Table 0.4). -/
abbrev rl : Nat := 4294967296

/-- A natural number as a register word, modulo 2^32. -/
abbrev word (n : Nat) : Word := BitVec.ofNat 32 n

end Sys2Proof
end

