-- ==== Sys2Proof/Types.lean ====
section
/-!
DEFINITION. Types.lean: the small named types that both the commands and the state use: lines, ends,
domains, node states, sessions, dictionary requests, frames.
-/
namespace Sys2Proof

/-- The two backbone lines (Table 1.1). -/
inductive Line | a | b
deriving DecidableEq, Repr

/-- The two coupler ends of the car (Table 1.1). -/
inductive End | fore | aft
deriving DecidableEq, Repr

/-- Who makes a register or aperture access: the PCIe host or a core of the application cluster (R408). -/
inductive Requester | host | core
deriving DecidableEq, Repr

/-- What the measurement of a coupler-sense channel shows (R395): the loop resistance in Ω, whether the terminal is above 30 V, and
whether the level it gives has held for its debounce (R79). -/
structure SenseIn where
  res     : BitVec 16
  above   : Bool := false
  settled : Bool := true
deriving DecidableEq, Repr

/-- The power domains of Table 1.4; D9 by its two sub-rails (R24). -/
inductive Dom | d0 | d1 | d2 | d3 | d4 | d5 | d6 | d7 | d8 | d9a | d9b | d10 | d11 | d12
deriving DecidableEq, Repr

/-- The node states, in the order of their codes (Table 3.10). -/
inductive NodeState | off | dawn | joining | member | dusk | asleep | exit | fault
deriving DecidableEq, Repr

/-- Where the dictionary's 19 sessions lie (Table 11.2): 0 SDO 1, 1 SDO 2, 2 Host, 3 to 18 DAM 1 to 16. -/
abbrev Session := Fin 19

/-- The Host session (Table 11.2). -/
abbrev hostSession : Session := 2

/-- A dictionary value: a scalar as its bit pattern, or a byte string (R291). -/
inductive Val
  | num (n : Nat)
  | bytes (l : List Byte)
deriving DecidableEq, Repr

/-- One dictionary request as it executes (Table 11.6): the fields READ and WRITE use. -/
structure Req where
  reqId  : Nat := 0
  index  : Nat := 0
  sub    : Nat := 0
  offset : Nat := 0
  /-- TOTAL_LEN: the whole value's length on a WRITE, the most bytes wanted on a READ. -/
  total  : Nat := 0
  data   : List Byte := []
  /-- The whole payload of the DAM_REQ that carried it: what a repeat must equal in every byte (R312). -/
  raw    : List Byte := []
  /-- The MAC source address and the port of that DAM_REQ, where its answer goes (R308). -/
  via    : Option (Mac × Nat) := none
deriving DecidableEq, Repr

/-- The operations of Table 11.8. -/
inductive DictOp | read | write | slate | print | scrap | close
deriving DecidableEq, Repr

/-- The causes of a node reset (Table 18.1, codes 2 to 8). -/
inductive ResetCause | busLow | host | dictionary | pair0Restart | pair0Watchdog | exitCancel | faultRecovery
deriving DecidableEq, Repr

/-- What pair 0 finds when it checks an image (R416): whether the signature over the digest is one of the signing key, the SHA-384 digest of
that key, and the security version. -/
structure ImageCheck where
  signatureOk : Bool
  key : List Byte
  version : Fin 64
deriving DecidableEq, Repr

/-- The FCS a received frame carries (R120): good, bad, or the marked FCS. -/
inductive Fcs | good | bad | marked
deriving DecidableEq, Repr

/-- The SecTAG of a frame that is sent protected (R419, Table 16.5): whether it is confidential too, and its packet number. -/
structure SecTag where
  confidential : Bool
  pn : Word
deriving DecidableEq, Repr

/-- An Ethernet frame (R62, R117): addresses, the PCP of its outermost tag, EtherType, payload without trailer,
the redundancy trailer's sequence and line with its bytes as Table 2.10 lays them out (`trailer`), and its length as it stands on the port. -/
structure Frame where
  dst : Mac := 0
  src : Mac := 0
  pcp : Option Nat := none
  etherType : Nat := 0
  payload : List Byte := []
  rct : Option (BitVec 16 × Line) := none
  trailer : List Byte := []
  len : Nat := 64
  /-- The transmit queue a NIC descriptor names (Table 16.3). -/
  txQueue : Option (Fin 8) := none
  /-- The protection it has on the wire of a backbone port: SecTAG, and an ICV behind it (R419, R420). -/
  sec : Option SecTag := none
deriving DecidableEq, Repr

/-- The MACsec side of a received frame (R420, R422): its packet number, whether its ICV passed, and whether it is protected
under the SA before the last rekey. -/
structure SecInfo where
  pn : Word
  icvOk : Bool
  old : Bool := false
deriving DecidableEq, Repr

/-- What the MAC merge sublayer finds of what ends at a MAC (R139, R141, R146): an express frame; a preemptable frame sent
whole; the first fragment of one; a later fragment with more to come; the last; a continuation whose count is out of order; an
mPacket with an unknown SMD. -/
inductive MPacket
  | express | whole | first | middle | last | outOfOrder | unknownSmd
deriving DecidableEq, Repr

/-- What a MAC finds about a frame, or a fragment of one, that it receives (R120, R124, R146, R420). For a fragment with more to
come, `fcs` is what its mCRC shows. -/
structure RxInfo where
  fcs : Fcs := .good
  /-- The frame contains a PCS code or FEC-uncorrectable error. -/
  codeErr : Bool := false
  /-- Frame memory or the receive FIFO cannot hold it (R124). -/
  full : Bool := false
  mm : MPacket := .express
  /-- None for an unprotected frame. -/
  sec : Option SecInfo := none
deriving DecidableEq, Repr

/-- A Bulis frame (Table 7.3): header fields, payload, check. -/
structure Bulis where
  version : Nat := 1
  type : Nat := 0
  flags : Nat := 0
  stream : Nat := 0
  src : Uid := 0
  dst : Uid := 0
  seq : Word := 0
  csc : Word := 0
  /-- PAYLOAD_LEN. -/
  plen : Nat := 0
  tag : Nat := 0
  attempt : Nat := 0
  status : Nat := 0
  payload : List Byte := []
  check : Word := 0
deriving DecidableEq, Repr

/-- A NEIGHBOUR message (Table 3.4). -/
structure Neighbour where
  aft : Bool := false
  lineB : Bool := false
  uid : Uid := 0
  peerSeen : Uid := 0
  csc : Word := 0
  digest : Word := 0
  node : Nat := 0
  flags : Nat := 0
  epoch : BitVec 16 := 0
deriving DecidableEq, Repr

/-- A RECORD message (Table 3.5). -/
structure Record where
  epoch : BitVec 16 := 0
  uid : Uid := 0
  fore : Uid := 0
  aft : Uid := 0
  consist : Word := 0
  leaving : Bool := false
  inhibit : Bool := false
  cabFore : Bool := false
  cabAft : Bool := false
  aIn : Bool := false
  bIn : Bool := false
  node : Nat := 0
  csc : Word := 0
  pos : Nat := 0
deriving DecidableEq, Repr

/-- A grandmaster's data set, as Announce carries it (R167, R182). -/
structure GmData where
  priority1 : Nat := 128
  clockClass : Nat := 248
  accuracy : Nat := 0xFE
  variance : Nat := 0xFFFF
  priority2 : Nat := 128
  id : BitVec 64 := 0
  steps : Nat := 0
  /-- The clockIdentity of the clock that sent it, which the topology part of the comparison uses. -/
  sender : BitVec 64 := 0
  utc : Option Nat := none
deriving DecidableEq, Repr

/-- A Sync as it arrives, with its Follow_Up: domain, grandmaster identity, and the origin timestamp plus correctionField
(R173). -/
structure SyncIn where
  domain : Nat := 0
  id : BitVec 64 := 0
  origin : Instant := 0
  malformed : Bool := false
  /-- Its Follow_Up has come with it: its origin is the Follow_Up's (R166). -/
  twoStep : Bool := false
  /-- Its logMessageInterval (R169). -/
  log : Int := -5
deriving DecidableEq, Repr

/-- An Announce as it arrives (R167). -/
structure AnnounceIn where
  domain : Nat := 0
  gm : GmData := {}
  malformed : Bool := false
  /-- Its logMessageInterval (R169). -/
  log : Int := 0
deriving DecidableEq, Repr

/-- A take message (Tables 12.2, 12.3): the common header, then the fields of its type. -/
structure TakeMsg where
  kind : Nat := 1
  reply : Bool := false
  coord : Uid := 0
  num : Word := 0
  instant : Instant := 0
  /-- PREPARE. -/
  level : Nat := 0
  part : Nat := 0
  parts : Nat := 1
  bodyCsc : Word := 0
  shareLen : Nat := 0
  voteBy : Instant := 0
  content : List Byte := []
  /-- VOTE: 1 YES, 2 NO, 3 QUERY. -/
  vote : Nat := 0
  /-- VOTE and SCRAP. -/
  reason : Nat := 0
  firstIndex : Nat := 0
  firstSub : Nat := 0
deriving DecidableEq, Repr

/-- A consent ring frame (Table 13.3). -/
structure RingMsg where
  phase : Nat := 1
  vetoCount : Nat := 0
  firstReason : Nat := 0
  origin : Uid := 0
  firstPos : Nat := 0
  ringId : Word := 0
  csc : Word := 0
  consent : BitVec 64 := 0
deriving DecidableEq, Repr

/-- How a command that has both a register and an object came: a register write, or a dictionary WRITE of a session. -/
inductive Via
  | reg (who : Requester)
  | obj (sess : Session) (reqId : Nat)
deriving DecidableEq, Repr

/-- The AMO instructions of RV64GC (R213). -/
inductive AmoOp | swap | add | xor | and | or | min | max | minu | maxu
deriving DecidableEq, Repr

/-- A core's access to its physical map (R213, R406, R410). -/
inductive CoreAccess
  | load (size : Nat)
  | store (data : List Byte)
  /-- An AMO on so many bytes (R213, R410). -/
  | amo (op : AmoOp) (size : Nat) (operand : BitVec 64)
  /-- LR or SC. -/
  | lrSc
deriving DecidableEq, Repr

/-- An SDO or USDO frame of a client (R305), its encodings read as CiA 301 and CiA 1301 give them: with how many bytes an
expedited answer, or a segment, may carry in the frame format used. -/
inductive SdoReq
  /-- Initiate download: whole (expedited), or the announced size of a segmented one. -/
  | download (index sub : Nat) (data : List Byte)
  | downloadStart (index sub : Nat) (size : Option Nat)
  | downloadSeg (toggle : Bool) (data : List Byte) (last : Bool)
  | upload (index sub room : Nat)
  | uploadSeg (toggle : Bool) (room : Nat)
  | abort
  /-- A command specifier that is unknown, or that asks for block transfer. -/
  | other
deriving DecidableEq, Repr

/-- A request frame as it arrives: its identifier, whether it is a USDO in an FD frame, and what it asks (R305). -/
structure SdoIn where
  ext : Bool := false
  id : BitVec 29
  usdo : Bool := false
  req : SdoReq
deriving DecidableEq, Repr

/-- The two take slots (R318). -/
inductive TakeSlot | user | sys
deriving DecidableEq, Repr

/-- What may report DRAINED in the splice bridge (R237). -/
inductive SpliceUnit
  | bridge
  | window (w : Fin 64)
  | region (r : Fin 64)
  | stream (n : Fin 16)
deriving DecidableEq, Repr

/-- What the supply measures at an event (Tables 17.7, 17.8): train input in 2.5 mV counts, bank in 10 mV, intermediate bus
in mV, input power in 10 mW. -/
structure Supply where
  input : BitVec 16 := 0
  bank : BitVec 16 := 0
  bus : BitVec 16 := 0
  power : BitVec 16 := 0
deriving DecidableEq, Repr

/-- A relay coil's current, in mA, as it has been for 4 pf (Table 20.4). -/
structure CoilIn where
  line : Line
  current : BitVec 16
deriving DecidableEq, Repr

/-- An MKA frame as pair 0 takes it (R419 to R422): whether it verifies under the port's own CAK, whether this node wins the
key-server election, whether it brings a SAK this node does not have, and whether the peer reports its receive SA. -/
structure MkaIn where
  cakOk : Bool
  keyServer : Bool
  newSak : Bool
  peerRx : Bool
deriving DecidableEq, Repr

/-- The kind of a CAN frame (R273): a data frame, classical or FD, or a classical remote frame. -/
inductive CanKind | data | fd | remote
deriving DecidableEq, Repr

/-- An MVB master frame beside the address it asks for (R275): its F-code, and the line it was missing or corrupted on, if any. -/
structure MvbPoll where
  fcode : Fin 16
  bad : Option (Fin 2) := none
deriving DecidableEq, Repr

/-- A receive descriptor handed to a NIC ring (Table 16.3): buffer address and size, and whether its completion interrupts. -/
structure NicRx where
  addr : BitVec 64 := 0
  size : BitVec 16
  irq : Bool
deriving DecidableEq, Repr

/-- A transmit descriptor handed to a NIC ring (Table 16.3). -/
structure NicTx where
  addr : BitVec 64 := 0
  frame : Frame
  queue : Fin 8
  irq : Bool
deriving DecidableEq, Repr

end Sys2Proof
end

