-- ==== Sys2Proof/Syntax.lean ====
section
/-!
DEFINITION. Syntax.lean: the commands the block takes, one constructor for each row of the opcode table, with its operands.
A command is a register or dictionary access, a frame or message that arrives, an event of a connector or a measured value,
or the end of a time the block has armed.
-/
namespace Sys2Proof

/-- The commands (R6, R448, R465 and the rules named beside each). -/
inductive Instr
  /-- A write to a BAR0 register that has no row of its own; each field acts by its access code. (R6) -/
  | registerWrite (who : Requester) (a : BitVec 20) (be : BitVec 4) (v : Word)
  /-- A coupler-sense channel's new level holds for its mate or unmate debounce, and the channel changes its logical state. (R79) -/
  | couplerSenseChange (c : Fin 4) (m : SenseIn)
  /-- SENSE_ERROR has lasted 1 fr: the end's sense fault bit is set and bit 14 is raised. (R79) -/
  | senseErrorPersist (e : End)
  /-- The D0 comparator sees a coupler close: it powers that end's PHYs and signals pre-inauguration, or wakes the node with cause 4. (R29) -/
  | d0CouplerClose (e : End)
  /-- Supervisor pair 1 detects a fault in the common fabric and takes the node to FAULT, releasing both relays. (R25) -/
  | commonFabricFault
  /-- A returning plane, loaded with current tables and missed takes, rejoins at a frame boundary and its line is inserted. (R37) -/
  | planeRejoin (l : Line)
  /-- A regulator leaves its limits: the domain and its dependants switch off, DOM_FAULT is set and bit 16 is raised. (R438) -/
  | domainFault (d : Dom)
  /-- 1 rl after a domain fault the node tries the domain once more; a second fault within 16 rl keeps it off. (R438) -/
  | domainRetry (d : Dom)
  /-- A W1C write to DOM_FAULT releases a domain held off after a repeated fault. (R438) -/
  | domFaultClear (mask : Word)
  /-- Training of a port completes and it enters UP-STANDARD or UP-EXTENDED, raising bit 0. (R50) -/
  | linkTrainingDone (p : Fin 17) (mode : Fin 8) (ext : Bool) (native : Bool)
  /-- No auto-negotiation partner answers within the attempt time and the port alternates between Clause 98 and Clause 28. (R43) -/
  | anAttemptTimeout (p : Fin 17)
  /-- Loss of signal or FEC lock is detected on an UP port: DOWN_CAUSE is set, bit 0 raised and re-acquisition tried. (R46) -/
  | linkLost (p : Fin 17) (phyFault : Bool) (energy : Option (BitVec 32))
  /-- Re-acquisition completes with the old mode and rate, and the port is UP again. (R47) -/
  | reacquisitionDone (p : Fin 4)
  /-- Re-acquisition has not completed within 5 fr and the port falls back to full training. (R47) -/
  | reacquisitionTimeout (p : Fin 4)
  /-- Every 16 pf the equaliser loop senses margin and moves its taps, setting SATURATED at an end stop. (R48) -/
  | eqLoopSample (p : Fin 4) (margin : Byte) (saturated : Bool)
  /-- Margin has been below 1.50 dB for 1 fr: MARGIN_LOW is set and MARGIN_LOW_CNT counts. (R48) -/
  | marginLow (p : Fin 4)
  /-- A write of 1 to LINK_CTRL.RESTART restarts training, with DOWN_CAUSE 8 if the port was UP. (R50) -/
  | linkRestart (p : Fin 17)
  /-- The loop check of a released line completes, setting or clearing LOOP_OK, with a domain fault on failure. (R53) -/
  | loopCheckDone (l : Line) (ok : Bool)
  /-- A line's ports are not UP within the insertion timeout: the line is released and CONTACT_FAULT set. (R55) -/
  | insertionTimeout (l : Line)
  /-- A relay stagger ends and the next relay switch of the insertion or release sequence is made. (R56) -/
  | relayStaggerExpiry
  /-- Once the other line passes the check, the line is energised at the first permitted frame boundary. (R506) -/
  | singleLineInsert (l : Line)
  /-- 7 fr after the second line is released, RELAY_STATUS.REL_DONE is set. (R56) -/
  | relDoneTimer
  /-- A deferred controlled switch reaches the relay defer limit and proceeds, counting STAGGER_VIOLATION_CNT. (R58) -/
  | relayDeferExpiry
  /-- The other line becomes WHOLE or BYPASSED again and the deferred relay switch proceeds. (R58) -/
  | deferredSwitchResume
  /-- 4 fr after a port leaves UP the loss is classified as none, a junction fault or an uncoupling. (R72) -/
  | linkLossClassify (p : Fin 4)
  /-- Software clears a CONTACT_FAULT bit and the line's insertion is retried. (R505) -/
  | contactFaultClear (l : Line)
  /-- Once the line A ports are UP and the fast stagger has passed, the take's link parameters apply to line B. (R60) -/
  | modeMaskLineBApply
  /-- A frame ends at a MAC; it is classified by FCS and length, counted and handed on or discarded. (R120) -/
  | macFrameReceive (p : Fin 17) (f : Frame) (r : RxInfo)
  /-- A transmit sequence counter idle for 17 rl may be evicted. (R63) -/
  | dupTxSrcEvict (m : Mac)
  /-- A receive source unseen for 16 rl is forgotten by the duplicator. (R65) -/
  | dupRxSrcForget (m : Mac)
  /-- Each supervision interval the node sends a PRP supervision frame for itself. (R68) -/
  | supervisionFrameSend
  /-- After the duplicator is disabled, the last trailered frame leaves and DRAINED is set. (R70) -/
  | dupDrained
  /-- A transmit FIFO empties inside a frame and the MAC ends it with a marked FCS. (R122) -/
  | transmitUnderrun (p : Fin 17)
  /-- A PAUSE frame is received and loads or clears the pause timer, or is ignored. (R126) -/
  | pauseReceive (p : Fin 17) (time : BitVec 16)
  /-- The pause timer reaches 0 and transmission may resume. (R126) -/
  | pauseTimerExpiry (p : Fin 17)
  /-- Half the last sent pause time has passed with occupancy above XON, and the PAUSE is repeated. (R124) -/
  | pauseRefreshTimer (p : Fin 17)
  /-- The pause watchdog reaches its limit: the timer clears, WD_IGNORING is set and bit 2 is raised. (R128) -/
  | pauseWatchdogExpiry (p : Fin 17)
  /-- The port has been unpaused for a full 1 fr and the pause watchdog resets. (R128) -/
  | pauseWatchdogReset (p : Fin 17)
  /-- 1 rl after the watchdog fired, WD_IGNORING clears and PAUSE is honoured again. (R128) -/
  | wdIgnoringExpiry (p : Fin 17)
  /-- FORCE_STOP clears both MAC enables, marks a frame on the wire and abandons a preempted remainder. (R129) -/
  | macForceStop (p : Fin 17)
  /-- After a MAC enable is cleared, the partly sent or received frame ends and TX_DRAINED or RX_DRAINED is set. (R129) -/
  | macDrained (p : Fin 17) (tx : Bool)
  /-- A queued frame starts when its gate is open, the pause timer is 0 and it fits the window. (R151) -/
  | frameTransmitStart (p : Fin 17) (q : Fin 8)
  /-- An express frame becomes ready while a preemptable frame is on the wire, and the fragment is ended. (R141) -/
  | expressPreempt (p : Fin 17) (q : Fin 8)
  /-- A verify mPacket is received and answered with a respond mPacket. (R141) -/
  | verifyMpacketReceive (p : Fin 17)
  /-- A respond mPacket ends verification SUCCEEDED and activates preemption. (R144) -/
  | verifyRespondReceive (p : Fin 17)
  /-- The verify time passes: another verify mPacket is sent, or verification ends FAILED. (R142) -/
  | verifyTimer (p : Fin 17)
  /-- A write of VERIFY_CTRL.RESTART on an UP port restarts verification. (R144) -/
  | verifyRestart (p : Fin 17)
  /-- The partner's Additional Ethernet Capabilities TLV says no preemption and verification ends FAILED. (R142) -/
  | preemptTlvReceive (p : Fin 17) (supported : Bool)
  /-- A cut-through frame is preempted at ingress and the egress fragments or marks and later resends it. (R147) -/
  | cutThroughIngressPreempt (ingress : Fin 17) (o : Fin 17)
  /-- The operational gate list moves to its next entry. (R150) -/
  | gateEntryBoundary (p : Fin 17)
  /-- At its switch instant the pending gate list becomes operational, PENDING clears and bit 11 is raised. (R155) -/
  | scheduleSwitch (p : Fin 17)
  /-- The NEIGHBOUR interval passes and a NEIGHBOUR is sent on the port. (R83) -/
  | neighbourSendTimer (p : Fin 4)
  /-- A NEIGHBOUR is received, naming the partner across the junction. (R83) -/
  | neighbourReceive (p : Fin 4) (n : Neighbour)
  /-- No NEIGHBOUR for three neighbour intervals and the port counts as having no partner. (R83) -/
  | neighbourPartnerTimeout (p : Fin 4)
  /-- TTDP HELLO arrives without NEIGHBOUR and the junction becomes a legacy junction. (R109) -/
  | ttdpHelloReceive (p : Fin 4) (mac : Mac)
  /-- The settle time ends and the node broadcasts its RECORD and enters COLLECT. (R96) -/
  | settleTimeExpiry
  /-- A RECORD is received and replaces, refreshes or is discarded against the held record. (R84) -/
  | recordReceive (r : Record) (mac : Mac)
  /-- The record refresh interval passes and the node broadcasts its RECORD. (R84) -/
  | recordRefreshTimer
  /-- A record unrefreshed for three refresh intervals is forgotten. (R84) -/
  | recordForget (u : Uid)
  /-- The chain has been consistent for the quiet time and the node builds its proposal. (R85) -/
  | quietTimeExpiry
  /-- At the activation instant the new Call Sheet becomes active, holds lift and learned entries are flushed. (R99) -/
  | callSheetActivation
  /-- 8 fr after an unwarned loss classed as uncoupling, the neighbour changes its RECORD. (R98) -/
  | uncouplingWaitExpiry (e : End)
  /-- A JOINING node with no port UP for the join wait forms a one-node Call Sheet. (R104) -/
  | joinWaitExpiry
  /-- 1 rl after a joining node released its first line, it tries the insertion again. (R105) -/
  | joinRetryTimer
  /-- A write of INA_CTRL.INHIBIT sets or clears INHIBIT in the node's RECORD. (R106) -/
  | inhibitWrite (v : Bool)
  /-- A write of INA_CTRL.RESTART or 0x240D scraps the attempt, or returns TOO_LATE once PRINT is held. (R503) -/
  | inaRestart (via : Via)
  /-- TIME_NS wraps, REEL_NUM changes and bit 4 is raised. (R163) -/
  | reelWrap
  /-- A Sync is received: it is forwarded with correction and its offset updates the servo. (R176) -/
  | syncReceive (p : Fin 17) (m : SyncIn)
  /-- The grandmaster originates Sync on all its backbone ports at the Sync interval. (R173) -/
  | syncOriginate
  /-- The Announce interval passes and an Announce is sent. (R169) -/
  | announceSend
  /-- An Announce is received and the BMCA is evaluated. (R167) -/
  | announceReceive (p : Fin 17) (m : AnnounceIn)
  /-- A peer-delay request is sent; three missing responses clear PDELAY_VALID. (R170) -/
  | pdelayRequestTimer (p : Fin 17)
  /-- A peer-delay response updates the link delay and may set PDELAY_VALID. (R170) -/
  | pdelayResponseReceive (p : Fin 17) (delay : BitVec 32) (nrr : BitVec 32)
  /-- The active time line delivers no Sync for three intervals and the time path switches line. (R174) -/
  | timeLineFail
  /-- No valid Sync on either line for three intervals, or grandmaster lost, and the servo enters HOLDOVER. (R177) -/
  | syncLossHoldover (gmLost : Bool)
  /-- 2 rl in STEP-SUSPECT pass and re-qualification decides to slew, step or wait again. (R177) -/
  | stepSuspectExpiry
  /-- Each frame in HOLDOVER or STEP-SUSPECT HOLD_ERR_EST is updated, with HOLD_LIMIT above the limit. (R181) -/
  | holdEstimateUpdate
  /-- A slew has removed its offset and SLEWING clears. (R180) -/
  | slewDone
  /-- A time-pulse output reaches its edge instant and emits, or skips, a pulse. (R185) -/
  | pulseEdge (k : Fin 4)
  /-- A selected edge on a capture input is timestamped into the FIFO, or dropped. (R188) -/
  | captureEdge (k : Fin 4) (rising : Bool)
  /-- A read of CAP_TS returns and removes the oldest capture entry. (R188) -/
  | capTsRead (who : Requester) (k : Fin 4)
  /-- A host write TLP to BAR2 or BAR4 is divided into posted or non-posted splice operations. (R201) -/
  | hostApertureWrite (bar4 : Bool) (a : BitVec 30) (d : List Byte)
  /-- A host read request to BAR2 or BAR4 is divided into operations and completed in address order. (R470) -/
  | hostApertureRead (bar4 : Bool) (a : BitVec 30) (len : Fin 4097)
  /-- A PCIe AtomicOp to an aperture is sent as a semaphore-operation frame. (R213) -/
  | hostAtomicOp (bar4 : Bool) (a : BitVec 30) (op : Fin 3) (wide : Bool) (operand : BitVec 64) (compare : BitVec 64)
  /-- A core load, store or AMO to a splice aperture becomes one splice operation; one to the rest of the cores' physical map acts there,
  with an uncorrectable error of application DRAM where there is one. (R406, R407, R410) -/
  | coreSpliceAccess (hart : Fin 8) (ecc : Bool) (a : BitVec 56) (x : CoreAccess)
  /-- A write to WIN_DOORBELL sends a doorbell on the window's stream. (R207) -/
  | winDoorbellWrite (who : Requester) (w : Fin 64) (v : Word)
  /-- A write of 1 to WIN_SEM starts a semaphore acquire try sequence. (R210) -/
  | winSemAcquire (who : Requester) (w : Fin 64)
  /-- A write of 2 to WIN_SEM sends a posted semaphore release. (R211) -/
  | winSemRelease (who : Requester) (w : Fin 64)
  /-- A Bulis frame arrives and is checked, sequenced and applied, held or discarded. (R225) -/
  | bulisFrameReceive (port : Fin 20) (mac : Mac) (b : Bulis) (agree : Bool) (ecc : List Word)
  /-- An ACK closes the acknowledged posted operations, or is late and counted. (R226) -/
  | bulisAckReceive (b : Bulis)
  /-- A COMPLETION matching an ISSUED record closes it; any other is late. (R233) -/
  | completionReceive (b : Bulis)
  /-- The acknowledgement timeout passes and the unicast operation is retransmitted. (R227) -/
  | bulisAckTimeout (u : Uid) (stream : Byte) (q : Word)
  /-- The retry budget ends: an unanswered posted operation or control frame closes with TIMEOUT. (R227) -/
  | retryBudgetExpiry (u : Uid) (stream : Byte) (q : Option Word)
  /-- A non-posted operation's completion timeout expires and it closes with TIMEOUT. (R234) -/
  | completionTimeout (tag : BitVec 9)
  /-- 16 pf after SEM_HELD the requester sends the next acquire try. (R210) -/
  | semRetryTimer (tag : BitVec 9)
  /-- The acquire timeout passes and the acquire completes with SEMAPHORE_TIMEOUT. (R210) -/
  | semAcquireTimeout (tag : BitVec 9)
  /-- A semaphore held for the hold limit is freed, counting SEM_BREAK_CNT. (R212) -/
  | semHoldLimit (n : Fin 64)
  /-- Unused prefetched data outlives its lifetime and is discarded. (R215) -/
  | prefetchLifetimeExpiry
  /-- A retained completion is released after the retry budget plus 64 pf. (R228) -/
  | completionRetentionExpiry (u : Uid) (stream : Byte) (q : Word)
  /-- A source and stream silent for 16 rl is forgotten by the receiver. (R225) -/
  | bulisRxForget (u : Uid) (stream : Byte)
  /-- After a bridge, window or region disable, the last operation closes and DRAINED is set. (R237) -/
  | spliceDrained (x : SpliceUnit)
  /-- A write of CE_POP removes the completion-error entry read. (R236) -/
  | cePop (who : Requester)
  /-- A read of DB_VALUE returns and removes the oldest doorbell entry. (R207) -/
  | dbValueRead (who : Requester)
  /-- A fence is requested for a stream: refused while its log holds entries, otherwise the stream becomes FENCED. (R245) -/
  | stmFence (who : Requester) (mask : BitVec 16)
  /-- No operation of the FENCED stream is left in flight and fence frames go to each target. (R246) -/
  | fenceFramesSend (n : Fin 16)
  /-- A write of PWF_POP removes the oldest posted-failure entry. (R249) -/
  | pwfPop (who : Requester)
  /-- ABORT_CTRL.GO aborts a window's non-posted operations, each decided by its record. (R253) -/
  | abortGo (w : Fin 64)
  /-- FORCE_DISABLE of the bridge closes every ISSUED record with WINDOW_CLOSED. (R256) -/
  | splForceDisable
  /-- A WIN_FORCE bit closes the window's ISSUED records with WINDOW_CLOSED. (R256) -/
  | winForceDisable (w : Fin 64)
  /-- An STM_FORCE bit closes the stream's ISSUED records with WINDOW_CLOSED. (R256) -/
  | stmForceDisable (n : Fin 16)
  /-- CHK_CTRL.START opens a streaming run and processes the prefix. (R267) -/
  | chkStart (who : Requester)
  /-- A write to CHK_DATA processes four bytes of an open run. (R267) -/
  | chkData (who : Requester) (v : Word)
  /-- A write to CHK_DATA8 processes one byte of an open run. (R267) -/
  | chkData8 (who : Requester) (b : Byte)
  /-- CHK_CTRL.FINISH applies the final XOR, stores CHK_RESULT and sets DONE. (R267) -/
  | chkFinish (who : Requester)
  /-- CHK_CTRL.GO starts a descriptor run over DRAM. (R267) -/
  | chkGo (who : Requester)
  /-- A descriptor run ends with a result, or with ERR on an ECC error or D10 loss. (R267) -/
  | chkDescriptorDone (eccError : Bool) (data : List Byte)
  /-- Clearing CHK_CTRL.ENABLE closes an open streaming run and sets DRAINED. (R268) -/
  | chkDisable (who : Requester)
  /-- A CAN frame is taken by the lowest accepting receive object, or discarded. (R274) -/
  | canFrameReceive (c : Fin 2) (ext : Bool) (id : BitVec 29) (kind : CanKind) (d : List Byte) (errs : Byte) (tec : BitVec 9) (rec_ : Byte)
  /-- A CAN port enters bus-off; transmit objects keep only their latest content. (R274) -/
  | canBusOff (c : Fin 2)
  /-- 128 occurrences of 11 recessive bits end bus-off under automatic recovery. (R274) -/
  | canBusOffRecovery (c : Fin 2)
  /-- A write to CAN_RECOVER ends bus-off under manual recovery. (R274) -/
  | canRecover (mask : BitVec 2)
  /-- A master poll for a configured source port is answered from its buffer. (R279) -/
  | mvbPoll (addr : BitVec 12) (poll : MvbPoll)
  /-- A sink-port value arrives on the MVB and becomes a source update. (R275) -/
  | mvbSinkReceive (addr : BitVec 12) (d : List Byte) (bad : Option (Fin 2))
  /-- No valid master frame for the silence limit sets SILENT. (R275) -/
  | mvbSilence
  /-- A due sink is assembled from the latest source values and emitted. (R278) -/
  | sinkEmission (kind : Fin 5) (i : Fin 64)
  /-- A source's freshness limit passes without arrival and it becomes STALE. (R280) -/
  | sourceStale (n : Fin 256)
  /-- A process-data frame is accepted by a subscription or rejected and counted. (R283) -/
  | pdFrameReceive (b : List Byte)
  /-- PDB FORCE_STOP clears ENABLE and discards queued frames not yet started. (R284) -/
  | pdbForceStop
  /-- After the bridge is disabled its last queued frame leaves and DRAINED is set. (R284) -/
  | pdbDrained
  /-- A DAM_REQ is accepted or refused by ingress, acknowledged and its payload checked. (R310) -/
  | damRequestReceive (port : Fin 20) (mac : Mac) (b : Bulis)
  /-- An SDO or USDO request frame is received by a CAN SDO server. (R305) -/
  | sdoRequestReceive (c : Fin 2) (m : SdoIn)
  /-- The next SDO segment does not arrive in time and the transfer is aborted. (R306) -/
  | sdoSegmentTimeout (c : Fin 2)
  /-- The producer heartbeat time passes and a heartbeat is sent. (R307) -/
  | heartbeatProduce (c : Fin 2)
  /-- Dictionary READ returns the value, or a segment from a snapshot. (R311) -/
  | read (i : Session) (q : Req)
  /-- Dictionary WRITE is checked and executes at once, staged, or run as its own take. (R290) -/
  | write (i : Session) (q : Req)
  /-- SLATE opens a local take owned by the session. (R319) -/
  | slate (i : Session) (reqId : Word)
  /-- PRINT validates the take and prints it locally or starts the train-wide PREPARE. (R323) -/
  | print (i : Session) (reqId : Word) (instant : Option Instant)
  /-- SCRAP scraps the session's take, or returns TOO_LATE after its instant. (R326) -/
  | scrap (i : Session) (reqId : Word)
  /-- CLOSE frees the session, drops its level and scraps its take. (R310) -/
  | close (i : Session) (reqId : Word)
  /-- A read of 0x2002.01 produces a new challenge and voids the previous one. (R296) -/
  | challengeRead (i : Session) (reqId : Word)
  /-- A write to 0x2002.02 names the wanted level, or drops the level to 0. (R295) -/
  | levelRequest (i : Session) (reqId : Word) (level : Byte)
  /-- A response to 0x2002.03 raises the level or is refused, possibly locking the session. (R295) -/
  | responseWrite (i : Session) (reqId : Word) (response : BitVec 128)
  /-- A level key is written to secure storage at once. (R297) -/
  | keyWrite (i : Session) (reqId : Word) (maintainer : Bool) (k : BitVec 256)
  /-- A write of the store signature to 0x1010 starts a store of applied values. (R303) -/
  | storeParameters (i : Session) (reqId : Word) (sub : Byte) (signature : Word)
  /-- The store writes its valid mark and is answered, or stops under sag. (R303) -/
  | storeDone (ok : Bool)
  /-- A write of the restore signature to 0x1011 voids stored values of its group. (R302) -/
  | restoreDefaults (i : Session) (reqId : Word) (sub : Byte) (signature : Word)
  /-- A session idle for the idle time falls to level 0, or 2 for Host. (R298) -/
  | sessionIdleExpiry (i : Session)
  /-- 16 rl after a lock, level raising is allowed again. (R296) -/
  | authLockExpiry (i : Option Session)
  /-- A segmented-read snapshot unused for 16 fr is dropped. (R311) -/
  | snapshotExpiry (i : Session)
  /-- A remembered request and response are forgotten 16 fr after the response. (R312) -/
  | reqIdExpiry (i : Session) (reqId : Word)
  /-- An OPEN take with no request from its owner for 16 rl is scrapped. (R322) -/
  | takeIdleExpiry
  /-- At the apply instant every staged value of the take becomes applied in one step. (R325) -/
  | takeApply
  /-- Once the out-of-service line is BYPASSED, its PHY domain, sub-rail and plane domain switch off. (R439) -/
  | planeDomainsOff (l : Line)
  /-- A member receives a PREPARE of a user, inauguration or dusk take and votes. (R331) -/
  | takePrepareReceive (src : Uid) (m : TakeMsg)
  /-- The coordinator receives a vote and sends PRINT when all YES or SCRAP on a NO. (R332) -/
  | takeVoteReceive (src : Uid) (m : TakeMsg)
  /-- The vote window ends without every YES and the coordinator sends SCRAP. (R332) -/
  | takeVoteWindowExpiry (slot : TakeSlot)
  /-- Every 256 pf until I the coordinator repeats PRINT. (R332) -/
  | takePrintRepeat (slot : TakeSlot)
  /-- The coordinator repeats SCRAP at 256 pf intervals, three times in all. (R332) -/
  | takeScrapRepeat (slot : TakeSlot)
  /-- A PREPARED member receives PRINT and the take becomes PRINTED. (R333) -/
  | takePrintReceive (m : TakeMsg)
  /-- A PREPARED member receives SCRAP and scraps, recording LAST_RESULT. (R333) -/
  | takeScrapReceive (m : TakeMsg)
  /-- A member still PREPARED at I + 8 fr is in doubt and starts sending QUERY. (R334) -/
  | takeDoubtTimer (slot : TakeSlot)
  /-- An in-doubt member repeats QUERY every 256 pf. (R334) -/
  | takeQueryRepeat (slot : TakeSlot)
  /-- A node holding a matching outcome record answers QUERY with a REPLY. (R334) -/
  | takeQueryReceive (src : Uid) (m : TakeMsg)
  /-- The first REPLY decides the doubt: late apply on PRINT, scrap on SCRAP. (R334) -/
  | takeReplyReceive (print : Bool) (m : TakeMsg)
  /-- No reply by I + 16 fr and the in-doubt member scraps. (R334) -/
  | takeDoubtExpiry (slot : TakeSlot)
  /-- A take outcome record is dropped after 16 rl. (R334) -/
  | takeOutcomeExpiry (kind : Fin 4) (coord : Uid) (num : Word)
  /-- The node at position 1 starts a consent ring. (R345) -/
  | ringStart
  /-- A member marks consent or veto in a ring frame and forwards it. (R347) -/
  | ringFrameReceive (m : RingMsg)
  /-- The ring timeout passes without the return and the ring fails. (R348) -/
  | ringTimeout
  /-- At the first frame boundary after a successful ring the origin sends the dusk PREPARE. (R349) -/
  | duskPrepareSend
  /-- A member's consent stops holding after a YES vote, and it sends a withdrawing NO vote. (R351) -/
  | consentLost
  /-- At I − 8 fr the line inserted second is released. (R352) -/
  | duskSecondLineRelease
  /-- At the dusk instant the other line is released and a sleep indication is given. (R353) -/
  | duskInstant
  /-- Pair 0 completes the drain and D0 takes the node to ASLEEP. (R353) -/
  | sleepReady
  /-- No SLEEP_READY by I + 8 fr and D0 forces the ASLEEP domains. (R353) -/
  | forcedSleep
  /-- A write of STAY_AWAKE latches a wake in DUSK or keeps the consist awake. (R353) -/
  | stayAwake
  /-- No port has held the consist network for the idle time and a sleep indication is given. (R356) -/
  | consistIdleExpiry
  /-- 8 fr after the indication without STAY_AWAKE the consist PHYs go to listen. (R356) -/
  | consistSleep
  /-- Link energy on a wake-enabled port wakes the sleeping consist network. (R357) -/
  | consistWake (p : Fin 17)
  /-- A wake event arrives: in ASLEEP the node dawns, in DUSK the wake is latched. (R358) -/
  | wakeEvent (cause : Fin 7) (src : BitVec 5)
  /-- The wake timer expires and wakes the node with cause 5. (R358) -/
  | wakeTimerExpiry
  /-- The wake output ends after the wake pulse width. (R359) -/
  | wakePulseEnd
  /-- In DAWN the domains are on; the node drives the wake line and starts insertion. (R342) -/
  | dawnDomainsOn (levels : List (BitVec 16))
  /-- With D1 off, a watched input held above threshold for 64 pf is a wake event. (R396) -/
  | d0WakeWatch (level : BitVec 16)
  /-- A write to REC_TRIG or 0x2A10 fires a software recorder source. (R366) -/
  | recTrigWrite (via : Via) (source : BitVec 6) (sev : Fin 8) (data : BitVec 64)
  /-- The head entry starts writing once pages are free, voiding victims or being refused. (R379) -/
  | entryWriteStart
  /-- A NAND page program of an entry completes and the next page or the read-back follows. (R372) -/
  | pageProgramDone (ok : Bool)
  /-- The valid mark is written and the entry exists. (R372) -/
  | markProgramDone
  /-- Between entries, void blocks are erased and live entries copied. (R378) -/
  | reclamation
  /-- Sag outlasts the last-words delay, or hold-up ends, and the last-words entry is written. (R382) -/
  | lastWords
  /-- Cursor FIRST loads the oldest qualifying entry. (R383) -/
  | cursorFirst (minSev : Fin 8) (page : Fin 16)
  /-- Cursor LAST loads the newest qualifying entry. (R383) -/
  | cursorLast (minSev : Fin 8) (page : Fin 16)
  /-- Cursor NEXT loads the next higher qualifying entry. (R383) -/
  | cursorNext (minSev : Fin 8) (page : Fin 16)
  /-- Cursor PREV loads the next lower qualifying entry. (R383) -/
  | cursorPrev (minSev : Fin 8) (page : Fin 16)
  /-- Cursor SEEK loads the entry of CUR_SEQ or the next higher one. (R383) -/
  | cursorSeek (minSev : Fin 8) (page : Fin 16)
  /-- Cursor PAGE loads another page of the current entry, or sets RANGE. (R383) -/
  | cursorPage (page : Fin 16)
  /-- A clear writes a RECORDER_CLEAR entry and voids older entries up to the ceiling. (R386) -/
  | recorderClear (via : Via) (c : Fin 8)
  /-- An abort of a running clear is decided by the clear record's mark. (R387) -/
  | recAbort
  /-- Recorder FORCE_STOP clears ENABLE and discards queued entries. (R388) -/
  | recForceStop
  /-- With the recorder disabled its queue empties and DRAINED is set. (R388) -/
  | recDrained
  /-- An input's samples stay past a threshold for the debounce time and its state changes. (R393) -/
  | debounceRunComplete (i : Fin 16) (above : Bool) (ts : Word) (level : BitVec 16)
  /-- At each frame boundary the threshold loop updates HI_EST, LO_EST and the thresholds. (R394) -/
  | thresholdUpdate (i : Fin 16) (whole : Bool) (samples : List (BitVec 16))
  /-- Swing below 0.2 Un for 64 fr sets SWING_LOW and freezes the thresholds. (R394) -/
  | swingLowTimer (i : Fin 16) (recovered : Bool)
  /-- An input above 160 V for 1 fr sets OVERRANGE. (R392) -/
  | inputOverrange (i : Fin 16) (level : BitVec 16)
  /-- A coupler-sense terminal above 30 V for 64 pf sets OVERVOLT. (R395) -/
  | csOvervolt (c : Fin 4)
  /-- An output in current limit for the trip time opens and sets TRIPPED. (R397) -/
  | outputTrip (k : Fin 8) (current : BitVec 16)
  /-- After the retry interval a tripped output closes again if commanded on. (R397) -/
  | outputRetry (k : Fin 8)
  /-- A W1C write to OUT_STATUS.TRIPPED clears a latched trip. (R397) -/
  | tripClear (k : Fin 8)
  /-- A commanded-on output below the open-load threshold for 8 fr reports OPEN_LOAD. (R398) -/
  | openLoad (k : Fin 8) (current : BitVec 16)
  /-- A commanded-off output above the threshold for 8 fr reports STUCK_ON. (R398) -/
  | stuckOn (k : Fin 8) (current : BitVec 16)
  /-- A write of OUT_CMD or 0x2B20 sets software-mode outputs within 32 pf. (R399) -/
  | outCmdWrite (via : Via) (v : Byte)
  /-- A follow rule's on or off delay ends and its output changes. (R400) -/
  | followDelayExpiry (k : Fin 8)
  /-- The isolation link carries no data for 64 pf; LINK_LOST is set and outputs go safe. (R401) -/
  | isoLinkLost
  /-- The isolation link returns and outputs leave the safe condition at the next frame boundary. (R401) -/
  | isoLinkReturn
  /-- TLN_CTRL.FORCE_SAFE puts the outputs in the safe condition. (R401) -/
  | forceSafe
  /-- TLN_CTRL.RESUME ends FORCE_SAFE. (R401) -/
  | resume
  /-- A read of EVT_TS returns and removes the oldest edge entry. (R402) -/
  | evtTsRead (who : Requester)
  /-- mtime reaches mtimecmp and a core timer interrupt is raised. (R412) -/
  | mtimecmpMatch (hart : Fin 8) (cmp : BitVec 64)
  /-- A write of NIC_TAIL hands transmit descriptors to the device for port 17. (R413) -/
  | nicTailWrite (core : Fin 8) (tail : Word) (rx : List NicRx) (tx : List NicTx)
  /-- A supervisor member mismatch is settled by self-checks and the failing member isolated. (R415) -/
  | pairMismatch (pair : Fin 2) (fail0 : Bool) (fail1 : Bool)
  /-- Every 1 fr each supervisor member runs its self-checks. (R415) -/
  | pairSelfCheck (pair : Fin 2) (member : Fin 2) (ok : Bool)
  /-- Secure boot verifies a firmware slot, falls back, or leaves the node in FAULT. (R416) -/
  | firmwareVerified (active : ImageCheck) (other : ImageCheck)
  /-- A write of 0x2C20 stores and verifies an image in the inactive slot. (R417) -/
  | firmwareImageWrite (i : Session) (reqId : Word) (image : List Byte) (check : ImageCheck)
  /-- A write of 0x2C21 makes the inactive slot active at the next reset. (R417) -/
  | slotActivate (i : Session) (reqId : Word)
  /-- A write of 0x2C10 saves the application public key for the next reset. (R418) -/
  | appKeyEnrol (i : Session) (reqId : Word) (k : List Byte)
  /-- The application image is verified and the harts are released, or D8 stays off. (R418) -/
  | appImageVerified (ok : Bool)
  /-- An MKA frame is processed by pair 0 and may install receive and transmit SAs. (R421) -/
  | mkaFrameReceive (p : Fin 4) (x : MkaIn)
  /-- A write of 0x2C31 stores the CAK and CKN in secure storage. (R423) -/
  | cakWrite (i : Session) (reqId : Word) (p : Fin 4) (k : List Byte)
  /-- The PN threshold or rekey interval is reached and the key server distributes a new SAK. (R422) -/
  | rekeyTrigger (p : Fin 4)
  /-- An SA reaches packet number 0xFFFF_FFFF and transmission on the port stops. (R422) -/
  | pnExhausted (p : Fin 4)
  /-- MKA life time expires and bit 18 is raised. (R422) -/
  | mkaLifetimeExpiry (p : Fin 4)
  /-- CPU_CTRL.FORCE_STOP halts the harts and force-closes their splice operations. (R425) -/
  | cpuForceStop (who : Requester)
  /-- With the cluster disabled its last splice operation closes and DRAINED is set. (R425) -/
  | cpuDrained
  /-- The train input falls below 14.0 V and the hold-up bank is connected. (R431) -/
  | holdupSwitchClose (m : Supply)
  /-- The input rises above 15.5 V and the hold-up switch opens. (R431) -/
  | holdupSwitchOpen (m : Supply)
  /-- The bank recharges above 150 V and BANK_OK is set. (R432) -/
  | bankOk (m : Supply)
  /-- The bank falls below 64 V and HOLDUP_LOW signals end of hold-up. (R433) -/
  | holdupLow (m : Supply)
  /-- The intermediate bus falls below 9.5 V and every logic-side domain resets. (R434) -/
  | busLow (m : Supply)
  /-- The sag condition begins; new NAND programs stop and bit 15 is raised. (R435) -/
  | sagBegin (input : Bool) (bus : Bool) (m : Supply)
  /-- The sag condition ends and NAND writers resume. (R435) -/
  | sagEnd (m : Supply)
  /-- Every 1 pf a core-voltage loop moves its supply toward the occupancy target or rate floor. (R441) -/
  | loopUpdate (k : Fin 8) (occ : Fin 101) (completions : Word) (floorV : BitVec 10)
  /-- At 0.95 V with occupancy above target for 1 fr, SAT_HIGH is set. (R441) -/
  | loopSaturation (k : Fin 8)
  /-- Saturation on a plane loop lasts 1 rl and a recorder entry is written. (R443) -/
  | loopSatLong (k : Fin 4)
  /-- The case leaves −55 °C to +125 °C; 0x1001 bit 3 is set and TEMPERATURE fires. (R445) -/
  | tempExcursion (t : BitVec 16)
  /-- The case is above 135 °C for 16 fr and the node enters FAULT. (R445) -/
  | thermalFault (t : BitVec 16)
  /-- D0 starts once supply and both SEATED contacts have held, and the node leaves OFF. (R452) -/
  | powerOn (handleLocked : Bool)
  /-- The bus is in range; supervisor pairs leave reset and the boot ROM runs. (R453) -/
  | busInRange
  /-- DRAM ready and stored values restored; the node enters DAWN and starts loop checks. (R453) -/
  | poweronDawn
  /-- A node reset resets the logic side and D1, keeping D0 state. (R451) -/
  | nodeReset (c : ResetCause)
  /-- The EJECT switch opens and gives a removal warning. (R458) -/
  | ejectOpen
  /-- HPL_CTRL.EXIT_REQ with the key gives a removal warning from source 2. (R458) -/
  | exitReq (k : Byte)
  /-- A write of 0x2140 gives a removal warning from source 3. (R458) -/
  | exitRequestObject (i : Session) (reqId : Word)
  /-- A SEATED contact opens without warning and both relays release at once. (R458) -/
  | seatedOpen (hv : Bool)
  /-- At the next frame boundary in EXIT the release sequence starts. (R458) -/
  | exitReleaseStart
  /-- The recorder drains or its drain limit passes; domains switch off and SAFE_TO_REMOVE is set. (R458) -/
  | recorderDrainLimit
  /-- HPL_CTRL.HOST_DONE ends the host hold; D12 goes off. (R463) -/
  | hostDone
  /-- The host hold time passes after SAFE_TO_REMOVE and D12 goes off. (R458) -/
  | hostHoldExpiry
  /-- After SAFE_TO_REMOVE the handle is locked and seated for 16 fr and the node resets. (R459) -/
  | exitCancel
  /-- HPL_CTRL.NODE_RESET runs the exit path and resets at SAFE_TO_REMOVE. (R459) -/
  | nodeResetRequest (k : Byte)
  /-- A write of 0x2141 runs the exit path and resets at SAFE_TO_REMOVE. (R459) -/
  | nodeResetObject (i : Session) (reqId : Word)
  /-- FAULT has lasted the recovery delay and the node resets. (R450) -/
  | faultRecoveryExpiry
  /-- Pair 1's watchdog gets no service from pair 0 for 64 fr and the node resets. (R450) -/
  | pair0WatchdogExpiry
  /-- A PCIe reset or link-down resets the endpoint and Host session and closes host operations. (R462) -/
  | pcieReset
  /-- The endpoint stops answering Retry Status once stored values are restored. (R461) -/
  | endpointReady
  /-- Bus Master Enable or a return to D0 releases held MSI-X messages. (R469) -/
  | busMasterEnable (on : Bool) (toD0 : Bool)
  /-- A W1C write to IRQ_CAUSE clears bits, re-setting held causes whose condition remains. (R483) -/
  | irqCauseClear (mask : Word)
  /-- Setting an IRQ_MASK bit while its cause is set makes a message due. (R482) -/
  | irqMaskWrite (v : Word)
  /-- Writing a different vector for a set, unmasked cause makes a message due on it. (R482) -/
  | irqVecWrite (b : Fin 23) (v : Fin 64)
  /-- 68 fr after D0 starts the lamp test ends and each LED shows its state. (R493) -/
  | lampTestEnd
  /-- The relay coil current leaves its limits for 4 pf: the drive is cut, COIL_FAULT is set, bit 16 is raised and the line stays released. (R489) -/
  | relayCoilFault (l : CoilIn)
  /-- D0 loses its supply and the node goes to OFF with both relays released. (R434) -/
  | d0SupplyLost
  /-- After its recovery delay, a thermal FAULT waits until the case cools below 125 °C and then resets. (R451) -/
  | thermalResetCooled (t : BitVec 16)
  /-- The boundary clock sends Sync on each PTP-enabled consist master port at the consist Sync interval. (R168) -/
  | consistSyncSend (p : Fin 17)
  /-- Each MKA hello time, pair 0 sends an MKA frame on each MACsec port. (R419) -/
  | mkaHelloSend
  /-- On a legacy junction, the node sends TTDP HELLO at its slow or fast timing. (R109) -/
  | ttdpHelloSend (p : Fin 4)
  /-- A TTDP TOPOLOGY frame is received in LEGACY and updates the ETB topology counter and TTDP result. (R110) -/
  | ttdpTopologyReceive (etb : Word) (numbering : List (Uid × Bool × Bool))
  /-- The host puts the function in D3hot; memory requests get Unsupported Request and MSI-X messages are held. (R469) -/
  | d3hotEntry
  /-- The host enables MSI-X in configuration space and pending messages are sent. (R484) -/
  | msixEnable (on : Bool) (funcMask : Bool)
  /-- The ejector handle is locked again; in ASLEEP the REMOVE LED goes off at once. (R493) -/
  | ejectClose
  /-- D0 advances the operating time by one reel at each reel boundary, through ASLEEP. (R371) -/
  | opTimeReelTick
  /-- A read of EQ_STATUS returns MARGIN_MIN and clears it. (R475) -/
  | eqStatusRead (who : Requester) (p : Fin 4)
  /-- A read of TEMP_STATUS returns the highest temperature and clears it. (R475) -/
  | tempStatusRead (who : Requester)
  /-- A read of LOOP_STATUS returns the highest and lowest supply and clears them. (R475) -/
  | loopStatusRead (who : Requester) (k : Fin 8)
  /-- A domain being switched off has not drained within its limit (1 fr for D8, 2 fr for D11, completion timeout plus 1 fr for D12), and the forced stop or forced disable is applied. (R437) -/
  | domainOffDrainTimeout (d : Dom)
deriving DecidableEq, Repr

end Sys2Proof
end

