-- ==== Sys2Proof/WellFormed.lean ====
section
/-!
DEFINITION. WellFormed.lean: the commands a sender can spell. An operand whose Lean type is wider than its field of the spec lies within
the field, and lists have the lengths the spec's tables give them.
-/
namespace Sys2Proof

/-- A frame's PCP has 3 bits, its EtherType 16 (R62). -/
def Frame.wf (f : Frame) : Bool :=
  decide (f.etherType < 2 ^ 16) && (match f.pcp with
    | some c => decide (c < 8)
    | none => true)

/-- The header fields of a Bulis frame have the widths of Table 7.3. -/
def Bulis.wf (b : Bulis) : Bool :=
  decide (b.version < 256 ∧ b.type < 256 ∧ b.flags < 256 ∧ b.stream < 256)
    && decide (b.plen < 2 ^ 16 ∧ b.tag < 2 ^ 16 ∧ b.attempt < 256 ∧ b.status < 256)

/-- The fields of a NEIGHBOUR have the widths of Table 3.4. -/
def Neighbour.wf (n : Neighbour) : Bool := decide (n.node < 256 ∧ n.flags < 256)

/-- Those of a RECORD have the widths of Table 3.5. -/
def Record.wf (r : Record) : Bool := decide (r.node < 256 ∧ r.pos < 256)

/-- The fields of a grandmaster's data set have the widths of an Announce (R167). -/
def GmData.wf (g : GmData) : Bool :=
  decide (g.priority1 < 256 ∧ g.clockClass < 256 ∧ g.accuracy < 256 ∧ g.variance < 2 ^ 16 ∧ g.priority2 < 256 ∧ g.steps < 2 ^ 16)
    && (match g.utc with
      | some u => decide (u < 2 ^ 16)
      | none => true)

/-- The fields of a take message have the widths of Tables 12.2 and 12.3; a part carries at most 976 bytes. -/
def TakeMsg.wf (m : TakeMsg) : Bool :=
  decide (m.kind < 256 ∧ m.level < 256 ∧ m.part < 2 ^ 16 ∧ m.parts < 2 ^ 16 ∧ m.shareLen < 2 ^ 32 ∧ m.content.length ≤ 976)
    && decide (m.vote < 256 ∧ m.reason < 256 ∧ m.firstIndex < 2 ^ 16 ∧ m.firstSub < 256)

/-- The fields of a ring frame have the widths of Table 13.3. -/
def RingMsg.wf (m : RingMsg) : Bool := decide (m.phase < 256 ∧ m.vetoCount < 256 ∧ m.firstReason < 256 ∧ m.firstPos < 256)

/-- The fields of a request have the widths of Table 11.6. -/
def Req.wf (q : Req) : Bool :=
  decide (q.reqId < 2 ^ 32 ∧ q.index < 2 ^ 16 ∧ q.sub < 256 ∧ q.offset < 2 ^ 32 ∧ q.total < 2 ^ 32)

/-- A REQ_ID has 32 bits. -/
def Via.wf : Via → Bool
  | .reg _ => true
  | .obj _ reqId => decide (reqId < 2 ^ 32)

/-- A load or store of a core has 1 to 8 bytes (R410). -/
def CoreAccess.wf : CoreAccess → Bool
  | .load n => decide (1 ≤ n ∧ n ≤ 8)
  | .store d => decide (1 ≤ d.length ∧ d.length ≤ 8)
  | .amo _ n _ => decide (1 ≤ n ∧ n ≤ 8)
  | .lrSc => true

/-- An index has 16 bits, a sub-index 8 (R305). -/
def SdoReq.wf : SdoReq → Bool
  | .download i j _ => decide (i < 2 ^ 16 ∧ j < 256)
  | .downloadStart i j _ => decide (i < 2 ^ 16 ∧ j < 256)
  | .downloadSeg _ _ _ => true
  | .upload i j _ => decide (i < 2 ^ 16 ∧ j < 256)
  | .uploadSeg _ _ => true
  | .abort => true
  | .other => true

def SdoIn.wf (m : SdoIn) : Bool := m.req.wf

/-- A command is well formed. The operands of a command without a check of its own have types that spell nothing else. -/
def Instr.wf : Instr → Bool
  | .registerWrite _ _ _ _ => true
  | .couplerSenseChange _ _ => true
  | .senseErrorPersist _ => true
  | .d0CouplerClose _ => true
  | .commonFabricFault => true
  | .planeRejoin _ => true
  | .domainFault _ => true
  | .domainRetry _ => true
  | .domFaultClear _ => true
  | .linkTrainingDone _ _ _ _ => true
  | .anAttemptTimeout _ => true
  | .linkLost _ _ _ => true
  | .reacquisitionDone _ => true
  | .reacquisitionTimeout _ => true
  | .eqLoopSample _ _ _ => true
  | .marginLow _ => true
  | .linkRestart _ => true
  | .loopCheckDone _ _ => true
  | .insertionTimeout _ => true
  | .relayStaggerExpiry => true
  | .singleLineInsert _ => true
  | .relDoneTimer => true
  | .relayDeferExpiry => true
  | .deferredSwitchResume => true
  | .linkLossClassify _ => true
  | .contactFaultClear _ => true
  | .modeMaskLineBApply => true
  | .macFrameReceive _ f _ => f.wf
  | .dupTxSrcEvict _ => true
  | .dupRxSrcForget _ => true
  | .supervisionFrameSend => true
  | .dupDrained => true
  | .transmitUnderrun _ => true
  | .pauseReceive _ _ => true
  | .pauseTimerExpiry _ => true
  | .pauseRefreshTimer _ => true
  | .pauseWatchdogExpiry _ => true
  | .pauseWatchdogReset _ => true
  | .wdIgnoringExpiry _ => true
  | .macForceStop _ => true
  | .macDrained _ _ => true
  | .frameTransmitStart _ _ => true
  | .expressPreempt _ _ => true
  | .verifyMpacketReceive _ => true
  | .verifyRespondReceive _ => true
  | .verifyTimer _ => true
  | .verifyRestart _ => true
  | .preemptTlvReceive _ _ => true
  | .cutThroughIngressPreempt _ _ => true
  | .gateEntryBoundary _ => true
  | .scheduleSwitch _ => true
  | .neighbourSendTimer _ => true
  | .neighbourReceive _ n => n.wf
  | .neighbourPartnerTimeout _ => true
  | .ttdpHelloReceive _ _ => true
  | .settleTimeExpiry => true
  | .recordReceive r _ => r.wf
  | .recordRefreshTimer => true
  | .recordForget _ => true
  | .quietTimeExpiry => true
  | .callSheetActivation => true
  | .uncouplingWaitExpiry _ => true
  | .joinWaitExpiry => true
  | .joinRetryTimer => true
  | .inhibitWrite _ => true
  | .inaRestart via => via.wf
  | .reelWrap => true
  | .syncReceive _ m => decide (m.domain < 256)
  | .syncOriginate => true
  | .announceSend => true
  | .announceReceive _ m => decide (m.domain < 256) && m.gm.wf
  | .pdelayRequestTimer _ => true
  | .pdelayResponseReceive _ _ _ => true
  | .timeLineFail => true
  | .syncLossHoldover _ => true
  | .stepSuspectExpiry => true
  | .holdEstimateUpdate => true
  | .slewDone => true
  | .pulseEdge _ => true
  | .captureEdge _ _ => true
  | .capTsRead _ _ => true
  | .hostApertureWrite _ _ d => decide (1 ≤ d.length ∧ d.length ≤ 4096)
  | .hostApertureRead _ _ len => decide (1 ≤ len.val)
  | .hostAtomicOp _ _ _ _ _ _ => true
  | .coreSpliceAccess _ _ _ x => x.wf
  | .winDoorbellWrite _ _ _ => true
  | .winSemAcquire _ _ => true
  | .winSemRelease _ _ => true
  | .bulisFrameReceive _ _ b _ _ => b.wf
  | .bulisAckReceive b => b.wf && b.type == 6
  | .completionReceive b => b.wf && b.type == 4
  | .bulisAckTimeout _ _ _ => true
  | .retryBudgetExpiry _ _ _ => true
  | .completionTimeout _ => true
  | .semRetryTimer _ => true
  | .semAcquireTimeout _ => true
  | .semHoldLimit _ => true
  | .prefetchLifetimeExpiry => true
  | .completionRetentionExpiry _ _ _ => true
  | .bulisRxForget _ _ => true
  | .spliceDrained _ => true
  | .cePop _ => true
  | .dbValueRead _ => true
  | .stmFence _ _ => true
  | .fenceFramesSend _ => true
  | .pwfPop _ => true
  | .abortGo _ => true
  | .splForceDisable => true
  | .winForceDisable _ => true
  | .stmForceDisable _ => true
  | .chkStart _ => true
  | .chkData _ _ => true
  | .chkData8 _ _ => true
  | .chkFinish _ => true
  | .chkGo _ => true
  | .chkDescriptorDone _ data => decide (data.length ≤ 67108864)
  | .chkDisable _ => true
  | .canFrameReceive _ ext id kind d _ _ _ => decide (d.length ≤ if kind = .fd then 64 else 8) && (ext || decide (id.toNat < 2048))
  | .canBusOff _ => true
  | .canBusOffRecovery _ => true
  | .canRecover _ => true
  | .mvbPoll _ _ => true
  | .mvbSinkReceive _ d _ => decide (d.length ≤ 32)
  | .mvbSilence => true
  | .sinkEmission _ _ => true
  | .sourceStale _ => true
  | .pdFrameReceive b => decide (b.length ≤ 65535)
  | .pdbForceStop => true
  | .pdbDrained => true
  | .damRequestReceive _ _ b => b.wf && b.type == 0x10
  | .sdoRequestReceive _ m => m.wf
  | .sdoSegmentTimeout _ => true
  | .heartbeatProduce _ => true
  | .read _ q => q.wf && q.data.isEmpty
  | .write _ q => q.wf
  | .slate _ _ => true
  | .print _ _ _ => true
  | .scrap _ _ => true
  | .close _ _ => true
  | .challengeRead _ _ => true
  | .levelRequest _ _ _ => true
  | .responseWrite _ _ _ => true
  | .keyWrite _ _ _ _ => true
  | .storeParameters _ _ _ _ => true
  | .storeDone _ => true
  | .restoreDefaults _ _ _ _ => true
  | .sessionIdleExpiry _ => true
  | .authLockExpiry _ => true
  | .snapshotExpiry _ => true
  | .reqIdExpiry _ _ => true
  | .takeIdleExpiry => true
  | .takeApply => true
  | .planeDomainsOff _ => true
  | .takePrepareReceive _ m => m.wf
  | .takeVoteReceive _ m => m.wf
  | .takeVoteWindowExpiry _ => true
  | .takePrintRepeat _ => true
  | .takeScrapRepeat _ => true
  | .takePrintReceive m => m.wf
  | .takeScrapReceive m => m.wf
  | .takeDoubtTimer _ => true
  | .takeQueryRepeat _ => true
  | .takeQueryReceive _ m => m.wf
  | .takeReplyReceive _ m => m.wf
  | .takeDoubtExpiry _ => true
  | .takeOutcomeExpiry _ _ _ => true
  | .ringStart => true
  | .ringFrameReceive m => m.wf
  | .ringTimeout => true
  | .duskPrepareSend => true
  | .consentLost => true
  | .duskSecondLineRelease => true
  | .duskInstant => true
  | .sleepReady => true
  | .forcedSleep => true
  | .stayAwake => true
  | .consistIdleExpiry => true
  | .consistSleep => true
  | .consistWake _ => true
  | .wakeEvent _ _ => true
  | .wakeTimerExpiry => true
  | .wakePulseEnd => true
  | .dawnDomainsOn levels => decide (levels.length = 16)
  | .d0WakeWatch _ => true
  | .recTrigWrite via _ _ _ => via.wf
  | .entryWriteStart => true
  | .pageProgramDone _ => true
  | .markProgramDone => true
  | .reclamation => true
  | .lastWords => true
  | .cursorFirst _ _ => true
  | .cursorLast _ _ => true
  | .cursorNext _ _ => true
  | .cursorPrev _ _ => true
  | .cursorSeek _ _ => true
  | .cursorPage _ => true
  | .recorderClear via _ => via.wf
  | .recAbort => true
  | .recForceStop => true
  | .recDrained => true
  | .debounceRunComplete _ _ _ _ => true
  | .thresholdUpdate _ _ _ => true
  | .swingLowTimer _ _ => true
  | .inputOverrange _ _ => true
  | .csOvervolt _ => true
  | .outputTrip _ _ => true
  | .outputRetry _ => true
  | .tripClear _ => true
  | .openLoad _ _ => true
  | .stuckOn _ _ => true
  | .outCmdWrite via _ => via.wf
  | .followDelayExpiry _ => true
  | .isoLinkLost => true
  | .isoLinkReturn => true
  | .forceSafe => true
  | .resume => true
  | .evtTsRead _ => true
  | .mtimecmpMatch _ _ => true
  | .nicTailWrite _ _ _ tx => tx.all (fun d => d.frame.wf)
  | .pairMismatch _ _ _ => true
  | .pairSelfCheck _ _ _ => true
  | .firmwareVerified _ _ => true
  | .firmwareImageWrite _ _ _ _ => true
  | .slotActivate _ _ => true
  | .appKeyEnrol _ _ _ => true
  | .appImageVerified _ => true
  | .mkaFrameReceive _ _ => true
  | .cakWrite _ _ _ _ => true
  | .rekeyTrigger _ => true
  | .pnExhausted _ => true
  | .mkaLifetimeExpiry _ => true
  | .cpuForceStop _ => true
  | .cpuDrained => true
  | .holdupSwitchClose _ => true
  | .holdupSwitchOpen _ => true
  | .bankOk _ => true
  | .holdupLow _ => true
  | .busLow _ => true
  | .sagBegin _ _ _ => true
  | .sagEnd _ => true
  | .loopUpdate _ _ _ _ => true
  | .loopSaturation _ => true
  | .loopSatLong _ => true
  | .tempExcursion _ => true
  | .thermalFault _ => true
  | .powerOn _ => true
  | .busInRange => true
  | .poweronDawn => true
  | .nodeReset _ => true
  | .ejectOpen => true
  | .exitReq _ => true
  | .exitRequestObject _ _ => true
  | .seatedOpen _ => true
  | .exitReleaseStart => true
  | .recorderDrainLimit => true
  | .hostDone => true
  | .hostHoldExpiry => true
  | .exitCancel => true
  | .nodeResetRequest _ => true
  | .nodeResetObject _ _ => true
  | .faultRecoveryExpiry => true
  | .pair0WatchdogExpiry => true
  | .pcieReset => true
  | .endpointReady => true
  | .busMasterEnable _ _ => true
  | .irqCauseClear _ => true
  | .irqMaskWrite _ => true
  | .irqVecWrite _ _ => true
  | .lampTestEnd => true
  | .relayCoilFault _ => true
  | .d0SupplyLost => true
  | .thermalResetCooled _ => true
  | .consistSyncSend _ => true
  | .mkaHelloSend => true
  | .ttdpHelloSend _ => true
  | .ttdpTopologyReceive _ numbering => decide (numbering.length ≤ 64)
  | .d3hotEntry => true
  | .msixEnable _ _ => true
  | .ejectClose => true
  | .opTimeReelTick => true
  | .eqStatusRead _ _ => true
  | .tempStatusRead _ => true
  | .loopStatusRead _ _ => true
  | .domainOffDrainTimeout _ => true

end Sys2Proof
end

