-- ==== Sys2Proof/Decode.lean ====
section
/-!
DEFINITION. Decode.lean: the command a word spells by the bits of the opcode table.
-/
namespace Sys2Proof

/-- The command a word spells. The opcode table gives no row any bits: its commands are register and dictionary accesses, frames, pins
and expiries, none of which is a coded word, so no word spells one (log 11). -/
def decodeTableWord (_nbits _w : Nat) : Option Instr := none

end Sys2Proof
end

