-- ==== Sys2Proof/Config.lean ====
section
/-!
DEFINITION. Config.lean: what the spec leaves to an implementation or leaves open. Every constant here
is opaque: nothing can be proved about its value, so a statement holds for every value of it.
Each but the ETB counter and the two of an output is applied to the counter State.free, which the step that uses it advances (log 6).
-/
namespace Sys2Proof.Config

/-- A byte from the random source of supervisor pair 0 (R296). -/
opaque randomByte : Nat → Byte
/-- The level-3 key set by Abfasa, one per module (R297). -/
opaque level3Key : List Byte
/-- Codes the spec names without numbers: the cause byte of NODE_FAULT (Table 14.2), the kind byte of BUS_FAULT. -/
opaque code : Nat → Byte
/-- A value the spec leaves open, as a natural number. -/
opaque value : Nat → Nat
/-- The ETB topology counter of a TTDP numbering (Table 3.10): its computation is that of IEC 61375-2-5 and is not stated. -/
opaque etbCounter : List (Uid × Bool × Bool) → Word

/-- The current in mA and the voltage in 100 mV that output k shows in the n-th period of 16 pf: the train's own loop gives them (R398). -/
opaque outCurrent : Nat → Nat → Nat
opaque outVolt : Nat → Nat → Nat
/-- The operation code on the wire of a RISC-V AMO for which Table 7.7 has none (log 167). -/
opaque amoCode : Nat → Nat

end Sys2Proof.Config
end

