-- ==== Sys2Proof/Machine/State.lean ====
section
/-!
DEFINITION. Machine/State.lean: everything the spec gives the block, as plain data, and the state after reset.
A field's default value is its reset value; a sparse table lists only what has left its default.
-/
namespace Sys2Proof.Machine

/-! ### Interrupts (chapter 19) -/

/-- The IRQ block and the endpoint's MSI-X and power state (R469, R480 to R484). -/
structure IrqSt where
  /-- IRQ_CAUSE [22:0] (Table 19.6). -/
  cause : BitVec 23 := 0
  /-- IRQ_MASK [22:0]. -/
  mask : BitVec 23 := 0
  /-- IRQ_LINK_PORTS [16:0]. -/
  linkPorts : BitVec 17 := 0
  /-- IRQ_PWD_PORTS [16:0]. -/
  pwdPorts : BitVec 17 := 0
  /-- IRQ_VEC_b, the vector of cause b; unlisted b holds vector b (Table 19.5). -/
  vec : Tab Nat := []
  /-- The MSI-X table by doubleword; unlisted: Vector Control masked, all else 0 (R484). -/
  table : Tab Word := []
  /-- The pending bits of the 64 vectors. -/
  pba : BitVec 64 := 0
  /-- MSI-X Enable of the capability. -/
  msixOn : Bool := false
  /-- Function Mask of the capability. -/
  funcMask : Bool := false
  /-- Bus Master Enable (R469). -/
  busMaster : Bool := false
  /-- The function is in D3hot (R469). -/
  d3hot : Bool := false
  /-- Configuration requests get Retry Status until the stored values are restored (R461). -/
  retryStatus : Bool := true
deriving DecidableEq, Repr

/-! ### Power (chapter 17) -/

/-- One power domain or D9 sub-rail (R32, R438). -/
structure DomSt where
  on : Bool := false
  /-- Its DOM_FAULT bit. -/
  fault : Bool := false
  /-- Held off after a second fault within 16 rl (R438). -/
  heldOff : Bool := false
  /-- When it last faulted, in ticks of `up`. -/
  lastFault : Option Nat := none
  /-- When the one retry falls due. -/
  retryAt : Option Nat := none
  /-- A normal disable is draining: the limit after which force is applied (Table 17.1). -/
  drainBy : Option Nat := none
  /-- Powered at its level of ASLEEP only (Table 1.5): D2 in burst mode, the PHYs of D5, D6 and D7 for link-energy detection. -/
  low : Bool := false
deriving DecidableEq, Repr

/-- One core-voltage loop (R441, Table 17.7). Voltages in units of 0.5 mV so that 2.5 mV steps stay whole. -/
structure LoopSt where
  /-- Supply now, half millivolts; reset 0x320 mV. -/
  now : Nat := 1600
  /-- Highest since the last read, half millivolts; 0 none. -/
  hi : Nat := 0
  /-- Lowest since the last read, half millivolts; 0 none. -/
  lo : Nat := 0
  floor : Bool := false
  satHigh : Bool := false
  /-- LOOP_RATE: completions in the last pf. -/
  rate : Nat := 0
  /-- The supply held by mode 1, while the rate floor is active (Table 17.6). -/
  held : Option Nat := none
  /-- Since when the loop stands at 0.95 V with occupancy above target. -/
  satSince : Option Nat := none
  /-- This saturation has been counted, and recorded as a long one. -/
  satCounted : Bool := false
  satNoted : Bool := false
deriving DecidableEq, Repr

/-- The supply, the domains and the loops (R429 to R448). -/
structure PwrSt where
  /-- Domains by index: 0 to 8 and 10 to 12 as numbered, 16 and 17 the D9 sub-rails A and B. Reset: D0, D1, D2 on (Table 17.7). -/
  dom : Tab DomSt := [(0, { on := true }), (1, { on := true }), (2, { on := true })]
  sag : Bool := false
  /-- When the sag condition began. -/
  sagAt : Nat := 0
  sagInput : Bool := false
  sagBus : Bool := false
  holdupOn : Bool := false
  holdupLow : Bool := false
  bankOk : Bool := false
  /-- INPUT_LEVEL, 2.5 mV counts. -/
  inputLevel : Nat := 0
  /-- Bank voltage, 10 mV. -/
  bank : Nat := 0
  /-- Intermediate bus, mV. -/
  bus : Nat := 0
  /-- INPUT_POWER, 10 mW. -/
  inputPower : Nat := 0
  /-- Case temperature, 0.5 °C. -/
  tempNow : Int := 0
  /-- Highest since the last read, 0.5 °C; none after a read. -/
  tempMax : Option Int := none
  /-- The case is outside the operating range (R445). -/
  tempOut : Bool := false
  loops : Tab LoopSt := []
  /-- Planes being taken out of service whose release has not ended yet (R439): bit 0 A, bit 1 B. -/
  outPending : BitVec 2 := 0
  /-- Planes out of service and switched off (R439). -/
  outDone : BitVec 2 := 0
  /-- Planes powered again that wait to rejoin at a frame boundary (R37). -/
  returning : BitVec 2 := 0
  /-- Planes that count as lost (Table 1.7). -/
  planeLost : BitVec 2 := 0
  /-- The FAULT was caused by temperature (R445, R451). -/
  thermal : Bool := false
deriving DecidableEq, Repr

/-! ### Start-up and hot plug (chapter 18) -/

/-- How far a start has come (Table 18.2). -/
inductive Boot | none | started | busInRange | verified | dawned
  /-- A wake from ASLEEP: D1 and D2 are on and the other domains are not yet (Table 13.1). -/
  | waking
deriving DecidableEq, Repr

/-- Where the exit path stands (Table 18.4). -/
inductive ExitStage | none | warned | releasing | relDone | safe | hostGone
deriving DecidableEq, Repr

/-- The HPL block and the start and exit sequences (R450 to R466). -/
structure HplSt where
  seatedHv : Bool := false
  seatedLv : Bool := false
  handleLocked : Bool := false
  safeToRemove : Bool := false
  hostHold : Bool := false
  warn : Bool := false
  warnSrc : Nat := 0
  /-- RESET_CAUSE [7:0]; reset 1. -/
  cause : Nat := 1
  /-- RESET_CAUSE [15:8]. -/
  prevCause : Nat := 0
  bootTime : Word := 0
  exitTime : Word := 0
  boot : Boot := .none
  exit : ExitStage := .none
  /-- t0 of the start in progress (R454), in ticks of `up`. -/
  t0 : Nat := 0
  /-- MEMBER has been reached since t0 (R454). -/
  memberSeen : Bool := false
  /-- When the warning came. -/
  warnAt : Nat := 0
  /-- The frame boundary at which the release starts: the first after the event that took the node to EXIT (R15, Table 18.4). -/
  releaseAt : Instant := 0
  /-- REL_DONE plus the recorder drain limit. -/
  recDrainBy : Option Nat := none
  /-- SAFE_TO_REMOVE plus the host hold time. -/
  hostHoldBy : Option Nat := none
  /-- Since when the handle is locked with both SEATED contacts closed after SAFE_TO_REMOVE (R459). -/
  lockedFrom : Option Nat := none
  /-- A PCIe reset during EXIT has ended the host hold before it began (Table 18.5). -/
  noHold : Bool := false
  /-- A node reset asked for by HOST or DICTIONARY, to be made at SAFE_TO_REMOVE (R459). -/
  resetAsked : Option ResetCause := none
  /-- End of the FAULT recovery delay (R450). -/
  faultRecoverBy : Option Nat := none
  /-- Its delay has expired and the case is still hot (R451). -/
  waitCool : Bool := false
  /-- The lamp test of R493 runs until this time. -/
  lampTestBy : Option Nat := none
  /-- REMOVE LED lit in ASLEEP (R493). -/
  removeLed : Bool := false
deriving DecidableEq, Repr

/-! ### The event recorder (chapter 14) -/

/-- A latched recorder entry (Table 14.4). -/
structure RecEntry where
  source : Nat := 0
  sev : Nat := 0
  list : Nat := 0
  /-- ENTRY_SEQ, once the first page has started (R370). -/
  seq : Option Word := none
  opTime : Nat := 0
  powerCycle : Nat := 0
  instant : Instant := 0
  coalesced : Nat := 0
  lost : Nat := 0
  refused : Nat := 0
  csc : Word := 0
  timeValid : Bool := false
  underSag : Bool := false
  rewritten : Bool := false
  nodeState : Nat := 0
  /-- EVENT_DATA, bytes 48 to 55. -/
  data : List Byte := []
  /-- The item records: code and captured value (R369). -/
  items : List (Word × List Byte) := []
  /-- When it was triggered, in ticks of `up` (R375). -/
  at_ : Nat := 0
deriving DecidableEq, Repr

/-- An entry in the partition that has its valid mark. -/
structure RecStored where
  entry : RecEntry
  pages : Nat
  /-- Its mark's void byte has been programmed (R379, R386). -/
  void : Bool := false
deriving DecidableEq, Repr

/-- What the NAND is doing for the head entry (R372). -/
inductive RecPhase
  /-- This many pages are programmed; the next one is being programmed. -/
  | page (done : Nat)
  /-- All pages are programmed and compared; the mark is being programmed. -/
  | mark
deriving DecidableEq, Repr

/-- The event recorder (R365 to R390). -/
structure RecSt where
  /-- The trigger queue, oldest first, at most 64 (R374). -/
  queue : List RecEntry := []
  /-- What is being programmed for the head of the queue. -/
  writing : Option RecPhase := none
  /-- The head was stopped by sag and keeps its sequence (R380). -/
  stopped : Bool := false
  /-- The entries of the partition, oldest first. -/
  store : List RecStored := []
  /-- Pages programmed that belong to no entry with a mark and are not yet reclaimed. -/
  junkPages : Nat := 0
  /-- The next ENTRY_SEQ. -/
  nextSeq : Word := 0
  /-- The lost-trigger count (R376). -/
  lost : Nat := 0
  /-- Entries refused since the previous entry (R379). -/
  refusedCount : Nat := 0
  refusedBit : Bool := false
  lostBit : Bool := false
  /-- RECORDER_FULL has been queued since power-on or clear (R379). -/
  fullNoted : Bool := false
  lastWordsDone : Bool := false
  /-- The last words of this sag came while no trigger is latched, and were counted as lost (R377). -/
  lastWordsLost : Bool := false
  /-- Last words were the end of the previous power cycle (Table 14.2, source 0). -/
  prevLastWords : Bool := false
  /-- A FORCE_STOP waits for the page program in progress (R388). -/
  forceStop : Bool := false
  /-- Ceiling of the running clear, if one runs (R386). -/
  clear : Option Nat := none
  clrDone : Bool := false
  clrResult : Nat := 0
  /-- OP_TIME, 40 bits (R371). -/
  opTime : BitVec 40 := 0
  /-- POWER_CYCLE, 24 bits (R371). -/
  powerCycle : BitVec 24 := 0
  /-- CUR_SEQ. -/
  curSeq : Word := 0
  /-- The entry loaded by the cursor, as loaded (R384). -/
  cur : Option RecEntry := none
  curReady : Bool := false
  curGone : Bool := false
  curEnd : Bool := false
  curRange : Bool := false
  curPage : Nat := 0
  /-- The 4 KiB window as loaded; bytes beyond the list read 0. -/
  window : List Byte := []
deriving DecidableEq, Repr

/-! ### The object dictionary (chapter 11) -/

/-- A value being assembled from segments (R311). -/
structure Partial where
  key : Nat
  total : Nat
  data : List Byte
deriving DecidableEq, Repr

/-- A snapshot held for a segmented read (R311). -/
structure Snapshot where
  key : Nat
  data : List Byte
  lastRead : Nat
deriving DecidableEq, Repr

/-- An answer of the dictionary (Table 11.7). -/
structure Rsp where
  op : DictOp
  reqId : Nat := 0
  index : Nat := 0
  sub : Nat := 0
  more : Bool := false
  offset : Nat := 0
  /-- The OP of a request whose OP is not in Table 11.8 (R310). -/
  rawOp : Option Byte := none
  /-- ABORT: 0 or a code of Table 11.11. -/
  abort : Word := 0
  data : List Byte := []
  objLen : Nat := 0
deriving DecidableEq, Repr

/-- A remembered request and its answer (R312). -/
structure Remembered where
  op : DictOp
  req : Req
  rsp : Rsp
  at_ : Nat
deriving DecidableEq, Repr

/-- One dictionary session (Table 11.2, R294 to R312). -/
structure Sess where
  /-- DAM sessions: in use, and whose. -/
  used : Bool := false
  uid : Uid := 0
  client : Nat := 0
  /-- The MAC source address and the port of its last request (R308). -/
  mac : Mac := 0
  port : Nat := 18
  level : Nat := 0
  /-- The wanted level of 0x2002.02. -/
  want : Nat := 0
  challenge : Option (List Byte × Nat) := none
  /-- Consecutive refusals (R296). -/
  refusals : Nat := 0
  lockUntil : Option Nat := none
  /-- Time of its last request. -/
  lastReq : Nat := 0
  partialV : Option Partial := none
  snap : Option Snapshot := none
  remembered : List Remembered := []
  /-- A take of this session was scrapped and it has not been told (R322). -/
  scrapUntold : Bool := false
  /-- The recorder cursor 0x2A21; none is its default, the oldest (R385). -/
  cursor : Option Word := none
deriving DecidableEq, Repr

/-- A write answered only when its own take applies (R290), or a train-wide PRINT (R330). -/
structure Pending where
  sess : Session
  op : DictOp
  req : Req
  /-- The length of the whole value. -/
  len : Nat := 0
deriving DecidableEq, Repr

/-- One SDO transfer in progress on a CAN port (R305, R306). -/
structure Sdo where
  download : Bool
  index : Nat
  sub : Nat
  toggle : Bool := false
  total : Option Nat := none
  data : List Byte := []
  deadline : Nat := 0
  /-- By USDO, in FD frames (R305). -/
  usdo : Bool := false
deriving DecidableEq, Repr

/-- A store in progress (R303). -/
structure Storing where
  sess : Session
  req : Req
  /-- The values being written to the copy that is not current. -/
  values : Tab Val
  /-- Its session is lost: the store goes on, and nobody is answered (R294). -/
  gone : Bool := false
deriving DecidableEq, Repr

/-- One of the two copies of the stored values in the boot partition, with its Clapper check, its valid mark and its store count
(R303). -/
structure StoredCopy where
  values : Tab Val := []
  check : Word := 0
  mark : Bool := false
  count : Nat := 0
deriving DecidableEq, Repr

/-- The dictionary: applied and stored values, sessions, keys, mailbox (R288 to R316). -/
structure OdSt where
  /-- Applied values by key index × 256 + sub-index (register-only fields above 2^24); unlisted: the default. -/
  applied : Tab Val := []
  /-- The two stored copies (R302, R303). -/
  copyA : StoredCopy := {}
  copyB : StoredCopy := {}
  storing : Option Storing := none
  /-- Values saved for the next reset (R289). -/
  saved : Tab Val := []
  /-- A stored value was replaced by a default (R302, 0x1001 bit 7). -/
  replaced : Bool := false
  sess : Tab Sess := [(2, { level := 2 })]
  /-- Requests that wait for execution, in the order of arrival (R299). -/
  queue : List (Nat × DictOp × Req) := []
  /-- Repeats of requests that wait or execute, each to be answered once more (R312). -/
  repeats : List (Nat × DictOp × Req) := []
  /-- Writes and PRINTs executed and not yet answered. -/
  unanswered : List Pending := []
  /-- The keys of levels 1 and 2, where set (R297). -/
  keys : Tab (List Byte) := []
  /-- Times of refusals on the node (R296). -/
  refusals : List Nat := []
  /-- Every session except Host is locked until then (R296). -/
  nodeLock : Option Nat := none
  /-- 0x2010.01 to .08. -/
  counters : Tab Word := []
  sdo : Tab Sdo := []
  /-- The last SDO request of CAN port c came by USDO, and its answers go so (R305). -/
  sdoFd : BitVec 2 := 0
  /-- When the next heartbeat of CAN port c is due (R305). -/
  hbAt : Tab Nat := []
  mbxBusy : Bool := false
  mbxDone : Bool := false
  mbxMore : Bool := false
  mbxCollision : Bool := false
  mbxAbort : Word := 0
  mbxObjLen : Nat := 0
  /-- MBX_DATA, by byte. -/
  mbxData : Tab Byte := []
deriving DecidableEq, Repr

/-! ### Takes (chapter 12) -/

/-- A take slot's state, in the order of its codes (R318). -/
inductive SlotState | idle | open_ | prepared | printed | scrapped
deriving DecidableEq, Repr

/-- A PREPARE being collected or held: the common header and the share (Tables 12.2, 12.3). -/
structure UserSlot where
  state : SlotState := .idle
  /-- KIND: 0 none, 1 local, 2 train-wide. -/
  kind : Nat := 0
  /-- OWNER code of Table 12.7. -/
  owner : Nat := 0
  num : Word := 0
  coord : Uid := 0
  instant : Instant := 0
  /-- The owner of a take that has been applied, until the next take enters (R326). -/
  appliedOwner : Nat := 0
  /-- The staged values by key. -/
  staged : Tab Val := []
  /-- Time of the owner's last take request (R322). -/
  lastReq : Nat := 0
  /-- This node coordinates the train-wide take. -/
  isCoord : Bool := false
  level : Nat := 0
  voteBy : Instant := 0
  /-- Members that have voted YES (coordinator). -/
  votes : List Uid := []
  /-- The members the coordinator asked. -/
  members : List Uid := []
  doubt : Bool := false
  /-- When PRINT or QUERY last went out (R332, R334). -/
  sentAt : Nat := 0
deriving DecidableEq, Repr

/-- The system slot (R318, R335). -/
structure SysSlot where
  state : SlotState := .idle
  /-- SYS_KIND: 0 none, 2 inauguration, 3 dusk. -/
  kind : Nat := 0
  num : Word := 0
  coord : Uid := 0
  instant : Instant := 0
  content : List Byte := []
  isCoord : Bool := false
  voteBy : Instant := 0
  votes : List Uid := []
  members : List Uid := []
  doubt : Bool := false
  /-- A withdrawing NO vote has been sent (R351). -/
  withdrawn : Bool := false
  /-- When PRINT or QUERY last went out (R332, R334). -/
  sentAt : Nat := 0
deriving DecidableEq, Repr

/-- The parts of a PREPARE that have arrived (R331). -/
structure Parts where
  src : Uid
  coord : Uid
  num : Word
  level : Nat
  instant : Instant
  voteBy : Instant
  csc : Word
  shareLen : Nat
  count : Nat
  received : Tab (List Byte)
  at_ : Nat
deriving DecidableEq, Repr

/-- The outcome of a train-wide take (R334). -/
structure Outcome where
  kind : Nat
  coord : Uid
  num : Word
  instant : Instant
  /-- PRINT, or SCRAP with this REASON. -/
  scrap : Option Nat
  at_ : Nat
deriving DecidableEq, Repr

/-- A SCRAP the coordinator is still repeating (R332). -/
structure ScrapRun where
  kind : Nat
  num : Word
  instant : Instant
  reason : Nat
  left : Nat
  /-- When SCRAP last went out. -/
  sentAt : Nat
deriving DecidableEq, Repr

/-- The TAK block (R318 to R340). -/
structure TakSt where
  user : UserSlot := {}
  sys : SysSlot := {}
  /-- The 32-bit take number of the node (R319). -/
  num : Word := 0
  /-- TAK_SYS_NUM (R335). -/
  sysNum : Word := 0
  rwtReject : Bool := false
  latePrint : Bool := false
  lastResult : Nat := 0
  /-- PREPAREs of which parts have arrived and not all. -/
  parts : List Parts := []
  outcomes : List Outcome := []
  userScrap : Option ScrapRun := none
  sysScrap : Option ScrapRun := none
  /-- First frames already acted on, by kind, coordinator, number and type (a QUERY also by sender), newest first (R337). -/
  seen : List (Nat × Uid × Word × Nat) := []
deriving DecidableEq, Repr

/-! ### Sleep and wake (chapter 13) -/

/-- A sleep indication that awaits its 8 fr (R353). -/
inductive SleepInd | none | dusk | consist
deriving DecidableEq, Repr

/-- The WAK block and D0's wake state (R342 to R363). -/
structure WakSt where
  /-- WAK_CTRL.HOLD. -/
  hold : Bool := false
  /-- WAK_CTRL.SLEEP_ALLOW, 0x2901. -/
  sleepAllow : Bool := false
  cause : Nat := 0
  src : Nat := 0
  sleepInd : SleepInd := .none
  /-- When the consist indication's 8 fr end. -/
  sleepIndBy : Nat := 0
  latched : Option (Nat × Nat) := none
  /-- A wake while the dusk take was PREPARED: it is latched if the dusk stands (R351). -/
  pendWake : Option (Nat × Nat) := none
  forced : Bool := false
  /-- FORCED of the last sleep, to be recorded at the next dawn (R353). -/
  forcedNote : Bool := false
  /-- RING_STATUS fields. -/
  ringResult : Nat := 0
  firstVetoPos : Nat := 0
  firstVetoReason : Nat := 0
  vetoCount : Nat := 0
  /-- RING_ID: the last ring started or consented to. -/
  ringId : Word := 0
  /-- Own ring's number counter (R345). -/
  ringNext : Word := 0
  /-- Own ring running: its start. -/
  ringStart : Option Nat := none
  lastRing : Option Nat := none
  /-- Ring consented to on the outbound pass, and on both (R347). -/
  consentOut : Option Word := none
  consentBoth : Option Word := none
  /-- A successful ring whose dusk PREPARE is due, and P (R349). -/
  duskDue : Option (Word × Instant) := none
  /-- The dusk instant of the dusk in progress. -/
  duskAt : Option Instant := none
  /-- The splice-bridge and process-data enables as they were before dusk (R342). -/
  duskSpl : Bool := false
  duskPdb : Bool := false
  /-- The second line has been released in this dusk. -/
  duskOneOff : Bool := false
  /-- When the node last became MEMBER (R344). -/
  memberAt : Nat := 0
  /-- CONSIST_AWAKE. -/
  consistAwake : Bool := true
  /-- When each port last held the consist network awake. -/
  lastKeepAlive : Tab Nat := []
  /-- When the network was last held or woken. -/
  idleFrom : Nat := 0
  sleepAt : Nat := 0
  sleepLast : Word := 0
  /-- The wake output is driven until then (R359). -/
  pulseBy : Option Nat := none
  /-- The wake came from D0's input watch: its cause is decided at DAWN (R396). -/
  watched : Bool := false
  /-- The wake timer is due then (R358). -/
  timerAt : Option Nat := none
deriving DecidableEq, Repr

/-! ### Train lines (chapter 15) -/

/-- One train-line input (R392 to R394). -/
structure InSt where
  high : Bool := false
  level : Nat := 0
  /-- HI_EST and LO_EST, in 1/128 of a count (log 21). -/
  hiEst : Nat := 0
  loEst : Nat := 0
  hiKnown : Bool := false
  /-- TH_H and TH_L in use since a frame boundary; before the first one, none. -/
  th : Option (Nat × Nat) := none
  clamped : Bool := false
  frozen : Bool := false
  /-- The swing is too low: the thresholds are frozen until it has recovered (Table 15.1). -/
  swingLow : Bool := false
  /-- Since when the swing has been below 0.2 Un, or has recovered while it is too low. -/
  swingFrom : Option Nat := none
  /-- IN_FAULT bits (W1C). -/
  fSwing : Bool := false
  overrange : Bool := false
  /-- Its state for the follow rules: the last one it had without a fault (R400). -/
  ruleHigh : Bool := false
  edges : Nat := 0
deriving DecidableEq, Repr

/-- One train-line output (R397 to R401). -/
structure OutSt where
  tripped : Bool := false
  latched : Bool := false
  /-- Trips without 1 rl of clean conduction between them. -/
  trips : Nat := 0
  /-- Since when it has been driven, and how long it was driven since its last trip before that (R397). -/
  cleanFrom : Nat := 0
  clean : Nat := 0
  retryAt : Option Nat := none
  /-- OUT_FAULT bits (W1C). -/
  fTripped : Bool := false
  fOpen : Bool := false
  fStuck : Bool := false
  /-- The last measurement that a command reported, and its period of 16 pf (R398). -/
  current : Nat := 0
  volt : Nat := 0
  measured : Option Nat := none
  /-- The output's state by the follow rule. -/
  follow : Bool := false
  /-- A follow change that waits: the new result and its time. -/
  followNext : Option (Bool × Nat) := none
  /-- The driver state when the safe condition began (SAFE_STATE 2). -/
  heldOn : Bool := false
deriving DecidableEq, Repr

/-- One coupler-sense channel (R395, R79). -/
structure CsSt where
  res : Nat := 65535
  /-- CLOSED before debounce. -/
  closed : Bool := false
  overvolt : Bool := false
  /-- The debounced logical state (R79). -/
  logical : Bool := false
deriving DecidableEq, Repr

/-- An edge FIFO entry (R402). -/
structure EdgeEv where
  input : Nat
  rising : Bool
  ts : Word
deriving DecidableEq, Repr

/-- The train-line unit (R392 to R404). -/
structure TlnSt where
  ins : Tab InSt := []
  outs : Tab OutSt := []
  cs : Tab CsSt := []
  edgeStatus : BitVec 16 := 0
  edgeMask : BitVec 16 := 0
  /-- OUT_CMD, 0x2B20. -/
  outCmd : BitVec 8 := 0
  /-- The writes of OUT_CMD of the last 64 pf, newest first, each with the value before it: lost where the link had stopped
  (Table 15.3). -/
  cmdPast : List (Nat × BitVec 8) := []
  fifo : List EdgeEv := []
  overflow : Bool := false
  linkLost : Bool := false
  forceSafe : Bool := false
  outDrained : Bool := false
  inDrained : Bool := false
deriving DecidableEq, Repr

/-! ### Cores, supervisors, security (chapter 16) -/

/-- A NIC descriptor (Table 16.3). -/
structure Desc where
  addr : Nat := 0
  len : Nat := 0
  own : Bool := false
  irq : Bool := false
  err : Bool := false
  queue : Nat := 0
  ts : Word := 0
deriving DecidableEq, Repr

/-- The rings of one core (R413). -/
structure NicSt where
  txBase : BitVec 64 := 0
  rxBase : BitVec 64 := 0
  /-- +0x10: [28:16] receive, [12:0] transmit descriptors; reset 0x0010_0000. -/
  size : Word := 0x00100000
  /-- +0x14: [28:16] receive, [12:0] transmit tail; reset 0x0010_0000 (Table 16.7). -/
  tail : Word := 0x00100000
  /-- Heads of the device. -/
  txHead : Nat := 0
  rxHead : Nat := 0
  /-- Completions reported to the core. -/
  irq : Bool := false
deriving DecidableEq, Repr

/-- An image in a slot of the boot partition, and what its verification finds (R416, R417). -/
structure SlotImage where
  image : List Byte := []
  check : ImageCheck
deriving DecidableEq, Repr

/-- MACsec on one backbone port (R419 to R423). -/
structure MacsecSt where
  rxSa : Bool := false
  txSa : Bool := false
  keyServer : Bool := false
  txPn : Word := 0
  /-- Highest packet number received. -/
  rxPn : Word := 0
  /-- The same for the SA before the last rekey. -/
  oldPn : Word := 0
  /-- When the present SAK was installed. -/
  sakAt : Nat := 0
  rekeying : Bool := false
  /-- Transmission stopped by an exhausted SA (R422). -/
  exhausted : Bool := false
  /-- When MKA was last heard; none: no peer. -/
  mkaAt : Option Nat := none
  /-- Times of ICV and replay failures within 1 rl (R424). -/
  icvFails : List Nat := []
  replayFails : List Nat := []
  /-- The CAK and CKN in secure storage (R423). -/
  cak : List Byte := []
deriving DecidableEq, Repr

/-- Cores, supervisor pairs, secure boot and MACsec (R406 to R427). -/
structure CpuSt where
  /-- Harts running. -/
  running : BitVec 8 := 0
  imgOk : Bool := false
  drained : Bool := false
  irqStatus : BitVec 23 := 0
  irqMask : BitVec 23 := 0
  /-- PAIR_STATUS; reset 0xF. -/
  pairs : BitVec 4 := 0xF
  nics : Tab NicSt := []
  /-- Application DRAM, from its base 0x08_0000_0000 on, the rings' descriptors in it; canonical, unlisted 0 (R406, R413, log 215). -/
  dram : List Host.Cell := []
  /-- mtimecmp per hart (R412); unlisted: all ones. -/
  mtimecmp : Tab Instant := []
  /-- Software interrupt pending, per hart (R406). -/
  swIrq : BitVec 8 := 0
  /-- Registers of the PLIC, by offset, and the sources that are claimed (R406, R411). -/
  plic : Tab Word := []
  claimed : List Nat := []
  /-- Machine timer interrupt pending, per hart. -/
  timerIrq : BitVec 8 := 0
  /-- SEC_STATUS fields. -/
  bootFail : Bool := false
  fallback : Bool := false
  activeSlot : Bool := false
  /-- The slot chosen by 0x2C21 for the next reset (R417). -/
  nextSlot : Option Bool := none
  fusedVersion : Nat := 0
  revoked : BitVec 3 := 0
  appKey : Bool := false
  /-- Security version of the image that runs, and whether it has yet reached MEMBER (R417). -/
  runVersion : Nat := 0
  fusePending : Bool := false
  /-- The three fused key digests (R416, log 218). -/
  keyDigests : List (List Byte) := [List.replicate 48 1, List.replicate 48 2, List.replicate 48 3]
  /-- Images written to the slots, 0 A and 1 B (R417). -/
  slots : Tab SlotImage := []
  /-- An image write that waits for the sag condition to end (R436). -/
  imageWait : Option SlotImage := none
  /-- When MKA hellos were last sent (R419). -/
  helloAt : Option Nat := none
  macsec : Tab MacsecSt := []
deriving DecidableEq, Repr

/-! ### Backbone, consist and service links (chapters 2 and 4) -/

/-- The port states, in the order of their codes (R50). -/
inductive PortState | down | bypassed | training | upStd | upExt
deriving DecidableEq, Repr

/-- The link of port 0 to 16 (R50, R51, R116). -/
structure LinkSt where
  st : PortState := .down
  /-- DOWN_CAUSE. -/
  cause : Nat := 0
  /-- The mode code that runs or ran last (Table 2.2). -/
  mode : Nat := 0
  native : Bool := false
  /-- Extended reach runs, or ran last. -/
  ext : Bool := false
  /-- The auto-negotiation attempt runs Clause 28 (R43). -/
  clause28 : Bool := false
  attemptBy : Option Nat := none
  /-- Re-acquisition runs until then (R47). -/
  reacqBy : Option Nat := none
  /-- Start of the present training or re-acquisition. -/
  trainFrom : Nat := 0
  upAt : Nat := 0
  marginNow : Nat := 0
  /-- Lowest margin since the last read of EQ_STATUS. -/
  marginMin : Option Nat := none
  saturated : Bool := false
  marginLow : Bool := false
  /-- Since when the margin is below 1.50 dB. -/
  lowFrom : Option Nat := none
  /-- End of the 4 fr of R72. -/
  classifyAt : Option Nat := none
deriving DecidableEq, Repr

/-- A line's relay (R53, R54, R505). -/
structure LineSt where
  energised : Bool := false
  loopOk : Bool := false
  coilFault : Bool := false
  contactFault : Bool := false
  /-- A loop check runs. -/
  checking : Bool := false
  lastSwitch : Option Nat := none
  /-- LINE_STATUS code (Table 2.12). -/
  code : Nat := 3
  /-- End of the insertion timeout that runs (R55, R506). -/
  insertBy : Option Nat := none
  /-- A single-line insertion waits for its loop check, the check of R58 or its frame boundary (R506). -/
  single : Bool := false
  /-- An insertion of the line was asked for while another relay sequence ran: it starts when that one ends (R502, R505). -/
  waiting : Bool := false
  /-- It was not BROKEN when the other line was released in a controlled way, and neither has been inserted since: its own release waits
  for its own state too (Table 2.17, first row). -/
  sound : Bool := false
deriving DecidableEq, Repr

/-- Where the relay sequence of R55 or R56 stands. -/
inductive RelaySeq
  | none
  /-- The first line is energised and its ports are waited for. -/
  | insertFirst (l : Line)
  /-- The second line l is energised after a stagger that ends at `at_`. -/
  | insertNext (l : Line) (at_ : Nat)
  /-- The second line is energised and its ports are waited for. -/
  | insertSecond (l : Line)
  /-- The joining node's second line waits for a Call Sheet that lists it (R105). -/
  | insertJoin (l : Line) (by_ : Nat)
  /-- Line l is released after a stagger that ends at `at_`; with `both` the other line follows it, with `own` its own state is
  looked at too (Table 2.17, first row). -/
  | releaseNext (l : Line) (at_ : Nat) (both own : Bool)
  /-- REL_DONE falls due. -/
  | relDone (at_ : Nat)
deriving DecidableEq, Repr

/-- Why a controlled switch is made: to insert a line in the order of R55, or on its own (R506); to release it, in a release of
both lines or not (R56); or to release a line whose ports have not come UP (R55, R506). -/
inductive SwitchWhy
  | insert | single
  | release (both : Bool)
  | failed
deriving DecidableEq, Repr

/-- A controlled switch deferred under R58. -/
structure Deferred where
  line : Line
  why : SwitchWhy
  /-- It waits for the line's own state too (Table 2.17, first row). -/
  own : Bool := false
  by_ : Nat
deriving DecidableEq, Repr

/-- The backbone: links, relays, line states (R40 to R60, R71, R72). -/
structure BbSt where
  links : Tab LinkSt := []
  a : LineSt := {}
  b : LineSt := {}
  seq : RelaySeq := .none
  /-- The switches that are deferred, oldest first, at most one of a line. -/
  deferred : List Deferred := []
  relDone : Bool := false
  /-- The line inserted second. -/
  second : Option Line := none
  /-- Line B keeps its old link parameters until released (R60): the values in force, and the earliest time. -/
  bOld : Tab Val := []
  bApplyAt : Option Nat := none
  /-- Retry of a joining node's insertion (R105). -/
  joinRetryAt : Option Nat := none
deriving DecidableEq, Repr

/-- A PTP message the node sends (R167 to R170, R173). -/
inductive PtpMsg
  /-- A Sync with the grandmaster's identity, its corrected origin (origin timestamp plus correctionField), its
  logMessageInterval and whether it is two-step. -/
  | sync (id : BitVec 64) (origin : Instant) (log : Int) (twoStep : Bool)
  /-- The Follow_Up of a two-step Sync with its precise origin: the Sync's departure where this node made it, what came with it where it is
  forwarded (R166, R173). -/
  | followUp (id : BitVec 64) (origin : Instant) (log : Int)
  | announce (gm : GmData) (log : Int)
  | pdelayReq (log : Int)
  /-- The answer to a neighbour's request (R170). -/
  | pdelayResp
  /-- Delay request-response, in profile 1: a slave's request and a master's answer (Table 6.1). -/
  | delayReq (log : Int)
  | delayResp
deriving DecidableEq, Repr

/-- A frame held in frame memory (R138). -/
structure QFrame where
  /-- Copies of one received frame share a number. -/
  id : Nat
  frame : Frame
  ingress : Nat
  /-- The plane it is held in; none for both. -/
  plane : Option Line := none
  /-- Forwarded cut-through (R38). -/
  cut : Bool := false
  /-- How it ends: 0 with its FCS, 1 with a marked FCS (R122), 2 truncated and marked (R121). -/
  mark : Nat := 0
  /-- The PTP message it is, of those the node makes or forwards itself (R137, R169, R173), and when it was made or received; of any
  frame, when it came to its queue. -/
  ptp : Option PtpMsg := none
  at_ : Nat := 0
deriving DecidableEq, Repr

/-- A frame on the wire, or a preempted remainder. -/
structure Wire where
  q : QFrame
  queue : Nat
  express : Bool
  /-- When its last octet will have been sent. -/
  endAt : Nat
  startAt : Nat
  fragments : Nat := 0
deriving DecidableEq, Repr

/-- The MAC of a port (R115 to R135). -/
structure MacSt where
  halfLo : Word := 0
  halfHi : Word := 0
  maskLo : Word := 0xFFFFFFFF
  maskHi : Word := 0x001FFFFF
  /-- The pause timer runs until then. -/
  pauseUntil : Option Nat := none
  /-- A pause of this many quanta takes effect when the frame on the wire ends (R126). -/
  pauseNext : Option Nat := none
  /-- Since when transmission is held, for TX_PAUSED_TIME. -/
  heldFrom : Option Nat := none
  /-- When the watchdog started (R128). -/
  wdFrom : Option Nat := none
  /-- Since when the port is unpaused while the watchdog runs. -/
  idleFrom : Option Nat := none
  /-- WD_IGNORING until then. -/
  ignoreUntil : Option Nat := none
  /-- XOFF_ACTIVE: when the PAUSE is repeated. -/
  xoffAt : Option Nat := none
  /-- A PAUSE of this many quanta waits for the frame on the wire, or for its next fragment boundary, to be sent (R127). -/
  pauseTx : Option Nat := none
  /-- MAX_LEN before its last change, and when it changed: a frame that began before keeps it (Table 4.3). -/
  oldLimit : Option (Nat × Nat) := none
  /-- Frames cut short by an ingress preemption, with their queues: sent again when their last fragment has been received (R147). -/
  resend : List (QFrame × Nat) := []
  /-- The frame received in fragments now whose cut-through copies have begun: it is in frame memory since its first octets (R147). -/
  awaited : Option Nat := none
  /-- When RX_ENABLE was cleared: a frame that began before is still received (R129). -/
  rxOffAt : Option Nat := none
  txDrained : Bool := false
  rxDrained : Bool := false
  queues : Tab (List QFrame) := []
  wire : Option Wire := none
  rest : Option Wire := none
  /-- Fragments held of a preemptable frame that is being reassembled (R141, R146). -/
  rxFrags : Nat := 0
deriving DecidableEq, Repr

/-- A gate list (R148, Table 5.3): base, cycle in pf, entries (gates, interval in pf). -/
structure GateList where
  base : Instant := 0
  cycle : Nat := 1024
  entries : List (BitVec 8 × Nat) := []
deriving DecidableEq, Repr

/-- Scheduling of a port (R140 to R157). -/
structure SchedSt where
  /-- VERIFY_STATUS: 0 DISABLED, 1 INITIAL, 2 VERIFYING, 3 SUCCEEDED, 4 FAILED. -/
  ver : Nat := 1
  verSent : Nat := 0
  verAt : Option Nat := none
  /-- Preemption settings have changed while a preemptable frame is partly sent: verification starts afresh after it; until then
  ADD_FRAG_SIZE is this (Table 5.2). -/
  restart : Option Nat := none
  guard : Nat := 0
  oper : GateList := {}
  /-- The pending list and its switch instant. -/
  next : Option (GateList × Instant) := none
  /-- Frames already counted as held in the present window (R151). -/
  heldIds : List Nat := []
deriving DecidableEq, Repr

/-- A receive record of the duplicator (R65). -/
structure RxSrc where
  h : BitVec 16
  /-- The sequences of the window seen, with the lines (1 A, 2 B, 3 both). -/
  seen : Tab Nat
  lastSeen : Nat
deriving DecidableEq, Repr

/-- A transmit counter of the duplicator (R63). -/
structure TxSrc where
  next : BitVec 16
  lastUse : Nat
deriving DecidableEq, Repr

/-- A forwarding entry learned on a port, in one plane (R20, R99). -/
structure FdbEntry where
  plane : Line
  mac : Mac
  port : Nat
deriving DecidableEq, Repr

/-- Planes, MACs, queues and the duplicator (chapters 1, 2, 4, 5). -/
structure NetSt where
  macs : Tab MacSt := []
  sched : Tab SchedSt := []
  fallback : BitVec 17 := 0
  fallbackMask : BitVec 17 := 0x1FFFF
  fdb : List FdbEntry := []
  nextId : Nat := 0
  rx : Tab RxSrc := []
  tx : Tab TxSrc := []
  dupDrained : Bool := false
  supSeq : BitVec 16 := 0
  supAt : Nat := 0
deriving DecidableEq, Repr

/-! ### Inauguration (chapter 3) -/

/-- The inauguration states, in the order of their codes (R107). -/
inductive InaState | stable | pre | settle | collect | voting | printed | held | legacy
deriving DecidableEq, Repr

/-- An entry of a Call Sheet (Table 3.7). -/
structure SheetEntry where
  uid : Uid
  consist : Nat
  consistPos : Nat
  inverse : Bool := false
  legacy : Bool := false
  cabFore : Bool := false
  cabAft : Bool := false
  aIn : Bool := false
  bIn : Bool := false
deriving DecidableEq, Repr

/-- A Call Sheet (Table 3.7). -/
structure Sheet where
  legacyMode : Bool := false
  refRule : Nat := 0
  csc : Word := 0
  base : Word := 0
  instant : Instant := 0
  coord : Uid := 0
  entries : List SheetEntry := []
deriving DecidableEq, Repr

/-- A record held for a node (R84), with the MAC source address learned from it (R218). -/
structure HeldRec where
  rec_ : Record
  at_ : Nat
deriving DecidableEq, Repr

/-- What a backbone port knows of its partner (R81, R83, R109). -/
structure NbSt where
  /-- The partner named by the last NEIGHBOUR, or a legacy partner's MAC address, since UP. -/
  partner : Option Uid := none
  /-- It counts as no partner for RECORD (R83). -/
  gone : Bool := false
  /-- A NEIGHBOUR, or a HELLO of a legacy junction, has been received since UP. -/
  heard : Bool := false
  /-- A NEIGHBOUR naming this node as PEER_SEEN has been received. -/
  seen : Bool := false
  lastAt : Nat := 0
  sentAt : Nat := 0
  legacy : Bool := false
  /-- Where MACsec is required, when its association was installed since UP (R95). -/
  secAt : Option Nat := none
deriving DecidableEq, Repr

/-- The INA block (chapter 3). -/
structure InaSt where
  st : InaState := .stable
  /-- Since when an end is in SENSE_ERROR: fore, aft. -/
  errFore : Option Nat := none
  errAft : Option Nat := none
  foreFault : Bool := false
  aftFault : Bool := false
  inhibit : Bool := false
  epoch : BitVec 16 := 0
  /-- The content of the last own RECORD, with epoch 0. -/
  own : Record := {}
  /-- Own RECORD sent last. -/
  sentAt : Nat := 0
  recs : List HeldRec := []
  /-- MAC addresses learned from RECORDs, by UID (R218). -/
  macs : Tab Mac := []
  nbs : Tab NbSt := []
  /-- An end whose loss is not yet recognised keeps its neighbour until then (R97, R98): fore, aft. -/
  lossFore : Option Nat := none
  lossAft : Option Nat := none
  sheet : Option Sheet := none
  prevSheet : Option Sheet := none
  prevCsc : Word := 0
  late : Bool := false
  tooMany : Bool := false
  coord : Bool := false
  proposal : Option Sheet := none
  quietAt : Option Nat := none
  settleBy : Option Nat := none
  /-- The ends whose junction is settling: their neighbour stands in the RECORD until SETTLE ends (R96). -/
  settleFore : Bool := false
  settleAft : Bool := false
  /-- Ends that have entered MATED, started pre-inauguration and have had no port UP since (R80). -/
  preFore : Bool := false
  preAft : Bool := false
  /-- Records changed after the proposal was built or the vote was sent (R92, R107). -/
  changed : Bool := false
  scraps : Nat := 0
  /-- First trigger of the attempt, for INA_TIME_LAST. -/
  trigger : Option Nat := none
  joinWaitBy : Option Nat := none
  /-- 0x2421. -/
  etb : Word := 0
  /-- The TTDP numbering: UIDs and orientation (R110). -/
  ttdp : List (Uid × Bool × Bool) := []
  /-- The last TTDP TOPOLOGY frame carried the counter of the node's own numbering: the quiet time of LEGACY may run (R110). -/
  etbSame : Bool := false
deriving DecidableEq, Repr

/-! ### Time (chapter 6) -/

/-- The servo states, in the order of their codes (R177). -/
inductive ServoState | free | acquiring | locked | holdover | stepSuspect
deriving DecidableEq, Repr

/-- PTP on a port (R170, R192). -/
structure PtpSt where
  delay : Nat := 0
  nrr : Int := 0
  valid : Bool := false
  /-- Consecutive exchanges that have agreed, and the last measured delay. -/
  agreed : Nat := 0
  /-- Exchanges since UP. -/
  done : Nat := 0
  lost : Nat := 0
  /-- A request awaits its response. -/
  waiting : Bool := false
  nextReq : Nat := 0
  /-- The delays of the last exchanges, newest first, at most 4. -/
  recent : List Nat := []
  nextAnnounce : Nat := 0
  /-- The last Sync on this port, in ticks of `up`. -/
  lastSync : Option Nat := none
  nextSync : Nat := 0
deriving DecidableEq, Repr

/-- One pulse output (R185 to R187). -/
structure PpsSt where
  armed : Bool := false
  missed : Bool := false
  suppressed : Bool := false
  /-- The next leading edge. -/
  next : Instant := 0
  /-- When the last edge was emitted, in ticks of `up` (R187). -/
  lastEdge : Option Nat := none
deriving DecidableEq, Repr

/-- One capture input (R188, R189). -/
structure CapSt where
  fifo : List (Bool × Word) := []
  overflow : Bool := false
  lastEdge : Option Nat := none
deriving DecidableEq, Repr

/-- The TIM block (R162 to R193). -/
structure TimSt where
  servo : ServoState := .free
  /-- 0 A, 1 B, 3 none. -/
  line : Nat := 3
  isGm : Bool := false
  offset : Int := 0
  /-- FREQ_ADJ, 0.001 ppb. -/
  freq : Int := 0
  lineDiffHigh : Bool := false
  /-- Syncs in a row with LINE_DIFF high, and low. -/
  diffHigh : Nat := 0
  diffLow : Nat := 0
  holdLimit : Bool := false
  holdErr : Nat := 0
  /-- Entry into HOLDOVER or STEP-SUSPECT, and E0. -/
  holdAt : Nat := 0
  e0 : Nat := 0
  /-- The 2 rl timer of STEP-SUSPECT; none while it waits for the first Sync of a new grandmaster. -/
  suspectAt : Option Nat := none
  slewing : Bool := false
  /-- The rate before the slew; the offset left when the slewing rate was last set, when that was, and when the slew will be done
  (R180). -/
  settled : Int := 0
  slewOff : Int := 0
  slewFrom : Nat := 0
  slewEnd : Nat := 0
  /-- Offsets of the active line since its last switch or change of grandmaster, newest first, at most 16. -/
  hist : List Int := []
  /-- The last 16 offsets of whichever line was active, newest first (R181). -/
  recent : List Int := []
  /-- The last 16 offsets of each line, newest first. -/
  offA : List Int := []
  offB : List Int := []
  /-- Syncs from the grandmaster in HOLDOVER. -/
  holdSyncs : Nat := 0
  gm : GmData := {}
  /-- The Announce data set seen across each held port, acted on from I (R102). -/
  heldGm : Tab GmData := []
  haveGm : Bool := false
  /-- The grandmaster is reached through the reference port (R168). -/
  viaRef : Bool := false
  pulses : Tab PpsSt := []
  caps : Tab CapSt := []
  ptp : Tab PtpSt := []
deriving DecidableEq, Repr

/-! ### Splice and Bulis transport (chapters 7, 8) -/

/-- Kinds of operation. -/
inductive OpKind | write | writeNp | read | atomic (op : Nat) | acquire | release | doorbell | fence | message (type : Nat)
deriving DecidableEq, Repr

/-- An operation the node has accepted and not yet closed (R216, R224, R233). -/
structure Op where
  /-- Its number, one for each operation accepted. -/
  id : Nat := 0
  kind : OpKind
  who : Requester := .host
  window : Nat := 0
  stream : Nat := 0
  target : Uid := 0
  region : Nat := 0
  /-- Offset within the region. -/
  offset : Nat := 0
  /-- Offset within the window. -/
  woff : Nat := 0
  len : Nat := 0
  data : List Byte := []
  last : Bool := true
  prefetch : Bool := false
  tag : Option Nat := none
  /-- Its sequence, once transmitted; of a try sequence, that of the try that is outstanding. -/
  seq : Option Word := none
  /-- The last sequence it was transmitted with. -/
  lastSeq : Option Word := none
  first : Bool := false
  prio : Nat := 0
  /-- Retransmissions that count against the retry limit, and all of them (R227). -/
  attempts : Nat := 0
  resends : Nat := 0
  accepted : Nat := 0
  firstTx : Nat := 0
  lastTx : Nat := 0
  /-- The CSCs it has been transmitted with (R222). -/
  cscs : List Word := []
  /-- A try sequence: when its first try was sent (R210), and when the next one is due. -/
  tryFrom : Option Nat := none
  retryAt : Option Nat := none
  /-- Set when the acquire timeout has passed with a try outstanding (Table 8.6). -/
  expired : Bool := false
  /-- The MAC address an answer or request goes to, where it is not learned (R308). -/
  mac : Option Mac := none
  /-- The consist or service port a DAM_RSP leaves from (R308). -/
  port : Option Nat := none
  csc0 : Bool := false
  /-- Accepted while its stream was FENCED: held in the bridge (R245). -/
  held : Bool := false
  /-- The host read request it belongs to (R470). -/
  req : Option Nat := none
  /-- It goes where it was made for, whatever its window names when it is accepted: the release of a late grant (Table 8.6). -/
  bound : Bool := false
  payload : List Byte := []
deriving DecidableEq, Repr

/-- A part of a host read request: one operation, or bytes that need none; its result, once closed, is a code, whether
that fails the whole request (ERR_CA), and the bytes (R470). -/
structure ReadPart where
  op : Nat := 0
  window : Nat := 0
  stream : Nat := 0
  /-- The tag that its closed record holds until the read is delivered (R216, R233). -/
  tag : Option Nat := none
  result : Option (Nat × Bool × List Byte) := none
deriving DecidableEq, Repr

/-- A host read request (R470). -/
structure HostRead where
  id : Nat
  window : Nat
  parts : List ReadPart
deriving DecidableEq, Repr

/-- A sender's state for one target and stream (R224). -/
structure SendSt where
  uid : Uid
  stream : Nat
  next : Word
  /-- No operation since the fence that removed the state: where the new one starts is all that is kept, and its first operation carries
  FIRST (R224, R246). -/
  first : Bool := true
deriving DecidableEq, Repr

/-- A receiver's state for one source and stream (R225). -/
structure RecvSt where
  uid : Uid
  stream : Nat
  /-- The next expected sequence N. -/
  next : Word
  /-- Answered sequences before N with their status, newest first, at most 1,024. -/
  past : List (Word × Nat) := []
  held : List Bulis := []
  poisoned : Bool := false
  lastAt : Nat := 0
  /-- The MAC source address and the port of the last frame, to which answers go (R308). -/
  mac : Mac := 0
  port : Nat := 18
deriving DecidableEq, Repr

/-- A completion kept for duplicates (R228). -/
structure Kept where
  uid : Uid
  stream : Nat
  seq : Word
  frame : Bulis
  until_ : Nat
deriving DecidableEq, Repr

/-- A posted-failure entry (R249). -/
structure Pwf where
  window : Nat
  uid : Uid
  region : Nat
  offset : Nat
  len : Nat
  stream : Nat
  seq : Word
  cause : Nat
  time : Word
deriving DecidableEq, Repr

/-- A completion-error entry (R236). -/
structure Ce where
  window : Nat
  stream : Nat
  kind : Nat
  offset : Nat
  seq : Word
  code : Nat
deriving DecidableEq, Repr

/-- A doorbell entry (R207). -/
structure Db where
  src : Uid
  stream : Nat
  region : Nat
  value : Word
deriving DecidableEq, Repr

/-- A prefetch-discard entry (R257). -/
structure Pdl where
  window : Nat
  stream : Nat
  offset : Nat
  len : Nat
  seq : Word
  time : Word
deriving DecidableEq, Repr

/-- Read-ahead data that has arrived (R215). -/
structure Prefetched where
  window : Nat
  stream : Nat
  offset : Nat
  data : List Byte
  seq : Word
  arrived : Nat
  /-- Where it was read from: the target, its region, the offset there. -/
  target : Uid
  region : Nat
  roff : Nat
deriving DecidableEq, Repr

/-- A held semaphore (R209). -/
structure Sem where
  uid : Uid
  stream : Nat
  since : Nat
deriving DecidableEq, Repr

/-- A stream's state (Table 8.1). -/
inductive StreamState | open_ | poisoned | fenced
deriving DecidableEq, Repr

/-- The SPL and STM blocks (chapters 7, 8). -/
structure SplSt where
  /-- Operations accepted and not closed, in the order of acceptance. -/
  ops : List Op := []
  /-- Operations of requesters that are back-pressured, in the order in which they came: posted ones for a slot, non-posted ones for a tag
  (R217). -/
  waiting : List Op := []
  nextOp : Nat := 0
  /-- Host read requests not yet completed. -/
  reads : List HostRead := []
  senders : List SendSt := []
  receivers : List RecvSt := []
  kept : List Kept := []
  streams : Tab StreamState := []
  /-- Fence frames have been sent for the FENCED stream. -/
  fencing : Tab Bool := []
  /-- SEM_STATE of each window: 1 trying, 2 HELD, 3 TIMEOUT. -/
  semState : Tab Nat := []
  sems : Tab Sem := []
  db : List Db := []
  dbOverflow : Bool := false
  ce : List Ce := []
  ceLost : Bool := false
  pwf : List Pwf := []
  pwfLost : Bool := false
  pdl : Tab Pdl := []
  pdlHead : Nat := 0
  fetched : List Prefetched := []
  /-- Back-pressure stands (R217). -/
  bpPosted : Bool := false
  bpNonPosted : Bool := false
  abortDone : Bool := false
  aborted : Nat := 0
  tooLate : Nat := 0
  /-- DRAINED of the bridge, the windows, the streams and the regions. -/
  drained : Bool := false
  winDrained : BitVec 64 := 0
  stmDrained : BitVec 16 := 0
  regDrained : BitVec 64 := 0
  /-- Check disagreements within 1 rl (R266). -/
  disagree : List Nat := []
  /-- DRAM bytes with an uncorrectable error are named by the command that meets them; the export area's bytes,
  by offset in the export area; unlisted bytes read 0 (R437). -/
  mem : List Host.Cell := []
deriving DecidableEq, Repr

/-! ### Check unit (chapter 9) -/

/-- What the software engine is doing. -/
inductive ChkRun | idle | stream | descriptor
deriving DecidableEq, Repr

/-- The CHK block (R267 to R270). -/
structure ChkSt where
  enable : Bool := true
  prefixEn : Bool := true
  irqEn : Bool := true
  err : Bool := false
  collision : Bool := false
  done : Bool := false
  run : ChkRun := .idle
  crc : Word := 0
  count : Nat := 0
  result : Word := 0
  dst : Uid := 0
  src : Uid := 0
  seq : Word := 0
  csc : Word := 0
  addr : BitVec 33 := 0
  len : Nat := 0
deriving DecidableEq, Repr

/-! ### Legacy buses and process data (chapter 10) -/

/-- A source's value (R276, R280, R281). -/
structure SrcSt where
  data : List Byte := []
  /-- Its source instant, where anything has arrived (R281). -/
  instant : Option Instant := none
  /-- Arrived since enable and not STALE. -/
  fresh : Bool := false
  lastAt : Nat := 0
  /-- The number of its latest update: new data, or a change between fresh and STALE (R278). -/
  update : Nat := 0
deriving DecidableEq, Repr

/-- A sink (R278, R282). -/
structure SinkSt where
  /-- How many updates of sources there had been at its last emission (R278). -/
  seen : Nat := 0
  lastAt : Option Nat := none
  /-- Content of the last emission. -/
  data : List Byte := []
  seq : Word := 0
  restart : Bool := true
deriving DecidableEq, Repr

/-- What a CAN frame of the node carries: a transmit object's data, an SDO or USDO answer, the state byte of a heartbeat (R274, R305). -/
inductive CanLoad
  | object (i : Nat) (data : List Byte)
  | sdo (usdo : Bool) (rsp : Rsp)
  | heartbeat (state : Nat)
deriving DecidableEq, Repr

/-- A CAN frame of the node, with its identifier and whether that has 29 bits. -/
structure CanTx where
  ext : Bool := false
  id : Nat
  load : CanLoad
deriving DecidableEq, Repr

/-- A CAN port (R273, R274). -/
structure CanSt where
  /-- 0 error active, 1 error passive, 2 bus-off, 3 stopped. -/
  state : Nat := 3
  tec : Nat := 0
  rec_ : Nat := 0
  /-- Frames queued, in identifier order, a transmit object with its latest content (R274). -/
  queue : List CanTx := []
  /-- The frame on the bus, and when it ends (R284). -/
  bus : Option (CanTx × Nat) := none
deriving DecidableEq, Repr

/-- The PDB block (R273 to R287). -/
structure PdbSt where
  errStatus : BitVec 9 := 0
  errMask : BitVec 9 := 0x1FF
  cans : Tab CanSt := []
  silent : Bool := false
  line1 : Bool := false
  line2 : Bool := false
  mvbLast : Nat := 0
  srcs : Tab SrcSt := []
  /-- By 64 × kind + index, kind 4 published datasets. -/
  sinks : Tab SinkSt := []
  /-- Last accepted sequence by subscription × 2^48 + source UID (R283). -/
  lastSeq : Tab Word := []
  /-- How many updates of sources there have been (R278). -/
  updates : Nat := 0
  drained : Bool := false
deriving DecidableEq, Repr
/-! ### What the node emits -/

/-- Something the node has put on a connector or answered (log 7). -/
inductive Out
  /-- An MSI-X message on a vector: address low, address high, data (R482). -/
  | msix (vector : Nat) (lo hi data : Word)
  /-- The value a register read with a side effect returned (R475). -/
  | readData (who : Requester) (addr : Nat) (data : Word)
  /-- An answer of the dictionary to a session (Tables 11.7, 11.9, R305). -/
  | answer (sess : Session) (rsp : Rsp)
  /-- A frame that has come to port 19: for the process-data bridge, or for supervisor pair 0 (R20, R61). -/
  | port19 (toPd : Bool) (f : Frame)
  /-- A frame sent on the wire of port 0 to 16, with its FCS (R122). -/
  | frame (port : Nat) (f : Frame) (fcs : Fcs)
  /-- A verify (false) or respond (true) mPacket (R142). -/
  | mpacket (port : Nat) (respond : Bool)
  /-- The result of a host or core access through the bridge: the data, or a code of Table 7.8 (R202). -/
  | spliceResult (who : Requester) (window : Nat) (code : Nat) (data : List Byte)
  /-- A host read or atomic in D3hot is answered with Unsupported Request (R469). -/
  | unsupported
  /-- A core gets an access fault (R196, R202, R406, R408). -/
  | coreFault
  /-- The data of a core's load or AMO outside the registers and the apertures (R406). -/
  | coreData (hart : Nat) (data : List Byte)
  /-- A PTP message sent on a port, in queue 7 (R169). -/
  | ptp (port : Nat) (m : PtpMsg)
  /-- A pulse's leading edge on output k, with its width in ticks (R185). -/
  | pulse (k : Nat) (width : Nat)
  /-- A CAN frame sent on a port: an object, an SDO answer, a heartbeat (R274, R305). -/
  | can (port : Nat) (f : CanTx)
  /-- An MVB poll answered: entry, data. -/
  | mvb (entry : Nat) (data : List Byte)
deriving DecidableEq, Repr
/-- The state of the block. -/
structure State where
  /-- Commands that wait, first in, first out. -/
  pending : List Instr := []
  /-- Meridian local time: REEL_NUM in [63:32], TIME_NS in [31:0] (R14, R162). -/
  now : Instant := 0
  /-- Ticks of the TCXO since the start, by which durations are measured (log 7). -/
  up : Nat := 0
  /-- How far local time has advanced beyond its last whole tick, in 10^-12 ticks (R162). -/
  frac : Nat := 0
  /-- How many free values have been used (log 6). -/
  free : Nat := 0
  /-- What the node has emitted, oldest first (log 7). -/
  out : List Out := []
  /-- The node state (Table 1.5, Table 3.10); reset DAWN (NODE_STATUS, Table 19.4). -/
  node : NodeState := .dawn
  /-- Per-module identity (R478), log 4. -/
  uid : Uid := 0x02417C001003
  baseMac : Mac := 0x00ABFA000000
  serial : Word := 1
  hwRev : BitVec 16 := 1
  fwVersion : Word := 0x01000000
  /-- Counters and registers that are plain storage, by BAR0 address; unlisted 0 (R477). -/
  reg : Tab Word := []
  irq : IrqSt := {}
  pwr : PwrSt := {}
  hpl : HplSt := {}
  log : RecSt := {}
  od : OdSt := {}
  tak : TakSt := {}
  wak : WakSt := {}
  tln : TlnSt := {}
  bb : BbSt := {}
  net : NetSt := {}
  ina : InaSt := {}
  tim : TimSt := {}
  spl : SplSt := {}
  chk : ChkSt := {}
  pdb : PdbSt := {}
  cpu : CpuSt := {}
deriving DecidableEq, Repr

/-- Why a command could fault. No command of this block faults (log 10): every error of the spec is an effect on the state. -/
inductive Fault
deriving DecidableEq, Repr

/-- Why a command has no meaning. Safe: the machine stops where the block goes on. -/
inductive Refusal
  /-- A command whose meaning is not written yet; raised by an arm of exec only. Safe. -/
  | notModelled (mnemonic : String)
deriving DecidableEq, Repr

/-- The machine right after reset: every field at its reset value. -/
def State.reset : State := {}

end Sys2Proof.Machine
end

