-- ==== Sys2Proof/Machine/Ops.lean ====
section
/-!
DEFINITION. Machine/Ops.lean: the operations every family of commands shares: sparse tables, register
fields, time, counters, interrupts, what the node emits, free values.
-/
namespace Sys2Proof.Machine

/-! ### Sparse tables -/

/-- The value at key k, or d where k is not listed. -/
def tget {α : Type} : Tab α → Nat → α → α
  | [], _, d => d
  | (a, x) :: r, k, d => if a = k then x else tget r k d

/-- Whether key k is listed, and its value. -/
def tfind {α : Type} : Tab α → Nat → Option α
  | [], _ => none
  | (a, x) :: r, k => if a = k then some x else tfind r k

/-- Key k holds x; keys stay rising. -/
def tset {α : Type} : Tab α → Nat → α → Tab α
  | [], k, x => [(k, x)]
  | (a, y) :: r, k, x =>
    if k < a then (k, x) :: (a, y) :: r
    else if a = k then (k, x) :: r
    else (a, y) :: tset r k x

/-- Key k is no longer listed. -/
def tdel {α : Type} : Tab α → Nat → Tab α
  | [], _ => []
  | (a, y) :: r, k => if a = k then r else (a, y) :: tdel r k

/-! ### Register fields -/

/-- Bits [hi:lo] of a word. -/
def bitsOf (w : Word) (hi lo : Nat) : Nat := w.toNat / 2 ^ lo % 2 ^ (hi + 1 - lo)

/-- Bit i of a word. -/
def bitOf (w : Word) (i : Nat) : Bool := w.getLsbD i

/-- The value v placed at bit lo with the given width. -/
def fieldAt (lo width v : Nat) : Word := word (v % 2 ^ width * 2 ^ lo)

/-- The flag b placed at bit i. -/
def flagAt (i : Nat) (b : Bool) : Word := if b then word (2 ^ i) else 0

/-- The same as a number. -/
def bit (i : Nat) (b : Bool) : Nat := if b then 2 ^ i else 0

/-- One bit of a bit vector set or cleared. -/
def putBit {n : Nat} (v : BitVec n) (i : Nat) (b : Bool) : BitVec n :=
  if b then v ||| BitVec.ofNat n (2 ^ i) else v &&& ~~~ BitVec.ofNat n (2 ^ i)

/-- W1C: the bits written as 1 are cleared (Table 0.3). -/
def w1c {n : Nat} (old : BitVec n) (w : Nat) : BitVec n := old &&& ~~~ BitVec.ofNat n w

/-- Serial arithmetic (R500): a is later than b among n-bit numbers. -/
def laterThan (n : Nat) (a b : Nat) : Bool :=
  let d := (a + 2 ^ n - b % 2 ^ n) % 2 ^ n
  decide (1 ≤ d ∧ d ≤ 2 ^ (n - 1) - 1)

/-- The latest of n-bit numbers (R500): the highest of those than which none is later, or of all where each has a later one; 0 for
none. -/
def latestOf (n : Nat) (l : List Nat) : Nat :=
  let top := l.filter (fun a => !l.any (fun b => laterThan n b a))
  (if top.isEmpty then l else top).foldl max 0

/-! ### Bytes -/

/-- The k low bytes of n, most significant first (R4). -/
def beBytes : Nat → Nat → List Byte
  | 0, _ => []
  | k + 1, n => BitVec.ofNat 8 (n / 256 ^ k) :: beBytes k n

/-- The number a big-endian byte string spells. -/
def beNat (l : List Byte) : Nat := l.foldl (fun acc b => acc * 256 + b.toNat) 0

/-- The number a little-endian byte string spells. -/
def leNat : List Byte → Nat
  | [] => 0
  | b :: r => b.toNat + 256 * leNat r

/-- The k low bytes of n, least significant first. -/
def leBytes : Nat → Nat → List Byte
  | 0, _ => []
  | k + 1, n => BitVec.ofNat 8 n :: leBytes k (n / 256)

/-- l cut or padded with zero bytes to n bytes. -/
def padTo (n : Nat) (l : List Byte) : List Byte := (l ++ List.replicate (n - l.length) 0).take n

/-- Bytes padded with zeros to a multiple of 4. -/
def pad4 (l : List Byte) : List Byte := l ++ List.replicate ((4 - l.length % 4) % 4) 0

/-! ### What the node emits, counters, free values -/

/-- The node emits o. -/
def emit (o : Out) (s : State) : State := { s with out := s.out ++ [o] }

/-- A counter register counts n more, wrapping at 2^32 (R477). -/
def bumpBy (a n : Nat) (s : State) : State := { s with reg := tset s.reg a (tget s.reg a 0 + word n) }

/-- A counter register counts one. -/
def bump (a : Nat) (s : State) : State := bumpBy a 1 s

/-- A register that is plain storage takes a value. -/
def setReg (a : Nat) (w : Word) (s : State) : State := { s with reg := tset s.reg a w }

/-- The next free value's number, and the counter advanced (log 6). -/
def nextFree (s : State) : Nat × State := (s.free, { s with free := s.free + 1 })

/-! ### Interrupts (R480 to R484) -/

/-- A message on vector v is sent when MSI-X is enabled and nothing masks or holds it (R482, R469). -/
def msixSendable (q : IrqSt) (v : Nat) : Bool :=
  q.msixOn && !q.funcMask && !(bitOf (tget q.table (4 * v + 3) 1) 0) && q.busMaster && !q.d3hot

/-- A message falls due on vector v: it is sent and counted, or held in the PBA (R482). -/
def msixDue (v : Nat) (s : State) : State :=
  if msixSendable s.irq v then
    bump 0x1040 (emit (.msix v (tget s.irq.table (4 * v) 0) (tget s.irq.table (4 * v + 1) 0) (tget s.irq.table (4 * v + 2) 0)) s)
  else { s with irq.pba := putBit s.irq.pba v true }

/-- The vector of cause bit b. -/
def vecOf (q : IrqSt) (b : Nat) : Nat := tget q.vec b b

/-- IRQ_CAUSE bit b rises (R482). A bit already set sends nothing. -/
def riseCause (b : Nat) (s : State) : State :=
  if s.irq.cause.getLsbD b then s
  else
    let s := { s with irq.cause := putBit s.irq.cause b true }
    if s.irq.mask.getLsbD b then msixDue (vecOf s.irq b) s else s

/-- An event of cause b: its IRQ_CAUSE bit rises, with the same bit of CPU_IRQ_STATUS (R411, R482). -/
def raiseIrq (b : Nat) (s : State) : State := riseCause b { s with cpu.irqStatus := putBit s.cpu.irqStatus b true }

/-- Every held message that may now be sent is sent, lowest vector first (R469, R482). -/
def flushPba (s : State) : State :=
  (List.range 64).foldl (fun s v =>
    if s.irq.pba.getLsbD v && msixSendable s.irq v then
      msixDue v { s with irq.pba := putBit s.irq.pba v false }
    else s) s

/-- What a command answers. -/
abbrev Ans := Host.Outcome State Fault Refusal

/-! ### Time (R14, R163) -/

/-- Local time becomes t; a change of REEL_NUM raises bit 4 (R163). -/
def setNow (t : Instant) (s : State) : State :=
  let wrap := t.toNat / rl ≠ s.now.toNat / rl
  let s := { s with now := t }
  if wrap then raiseIrq 4 s else s

/-- How fast local time runs, in 10^-12 ticks per tick of the TCXO: FREQ_ADJ counts units of 0.001 ppb (R162, Table 6.3). -/
def rate (s : State) : Nat := ((1000000000000 : Int) + s.tim.freq).toNat

/-- What d ticks of the TCXO bring local time, with the part of a tick it holds, in 10^-12 ticks. -/
def advanceIn (s : State) (d : Nat) : Nat := d * rate s + s.frac

/-- The whole ticks by which local time advances in d ticks of the TCXO. -/
def ticksIn (s : State) (d : Nat) : Nat := advanceIn s d / 1000000000000

/-- The fewest ticks of the TCXO in which local time advances by k. -/
def ticksFor (s : State) (k : Nat) : Nat := (k * 1000000000000 - s.frac + rate s - 1) / rate s

/-- d ticks of the TCXO pass in which local time advances by k whole ticks and a part of one. OP_TIME advances at each reel boundary
while D0 is powered (R371). -/
def passBy (d k part : Nat) (s : State) : State :=
  let n := if s.node = .off then 0 else (s.now.toNat + k) / rl - s.now.toNat / rl
  setNow (s.now + BitVec.ofNat 64 k) { s with up := s.up + d, frac := part, log.opTime := s.log.opTime + BitVec.ofNat 40 n }

/-- Time passes until `up` reaches u; nothing where it already has (log 2). Local time runs at its rate (R162). -/
def passTo (u : Nat) (s : State) : State :=
  if u ≤ s.up then s else passBy (u - s.up) (ticksIn s (u - s.up)) (advanceIn s (u - s.up) % 1000000000000) s

/-- Time passes until local time reaches the instant t; nothing where it already has (log 2). -/
def passToInstant (t : Instant) (s : State) : State :=
  if t.toNat ≤ s.now.toNat then s
  else
    let k := t.toNat - s.now.toNat
    passBy (ticksFor s k) k (advanceIn s (ticksFor s k) - k * 1000000000000) s

/-- The first frame boundary after the instant t (R15). -/
def nextFrame (t : Instant) : Instant := BitVec.ofNat 64 ((t.toNat / fr + 1) * fr)

/-- The first perf boundary after the instant t (R15). -/
def nextPerf (t : Instant) : Instant := BitVec.ofNat 64 ((t.toNat / pf + 1) * pf)

/-- Time passes until a frame boundary, none where local time is at one. -/
def toFrame (s : State) : State := if s.now.toNat % fr = 0 then s else passToInstant (nextFrame s.now) s

/-- TIME_NS: the low 32 bits of local time. -/
def timeNs (s : State) : Word := BitVec.ofNat 32 s.now.toNat

end Sys2Proof.Machine
end

