-- ==== Sys2Proof/Machine/Memory.lean ====
section
/-!
DEFINITION. Machine/Memory.lean: an area of DRAM, the export area or that of the applications, as a canonical list of cells: addresses
strictly rising, no byte equal to 0, which is what an unlisted byte reads (R197, R406, R437, log 5).
-/
namespace Sys2Proof.Machine

/-- The byte at an offset of the area. -/
def memGet : List Host.Cell → Nat → Byte
  | [], _ => 0
  | (a, b) :: r, k => if a = k then b else memGet r k

/-- The memory with one byte written. -/
def memPut : List Host.Cell → Nat → Byte → List Host.Cell
  | [], k, v => if v = 0 then [] else [(k, v)]
  | (a, b) :: r, k, v =>
    if k < a then (if v = 0 then (a, b) :: r else (k, v) :: (a, b) :: r)
    else if k = a then (if v = 0 then r else (k, v) :: r)
    else (a, b) :: memPut r k v

/-- n bytes from an offset on. -/
def memRead (m : List Host.Cell) (k : Nat) : Nat → List Byte
  | 0 => []
  | n + 1 => memGet m k :: memRead m (k + 1) n

/-- Bytes written from an offset on. -/
def memWrite (m : List Host.Cell) (k : Nat) : List Byte → List Host.Cell
  | [] => m
  | b :: r => memWrite (memPut m k b) (k + 1) r

/-- Every address is above a bound, they rise strictly, and no listed byte is 0. -/
def memAbove : Nat → List Host.Cell → Bool
  | _, [] => true
  | lo, (a, b) :: r => decide (lo ≤ a) && b != 0 && memAbove (a + 1) r

/-- The canonical form. -/
def Memory.wf (m : List Host.Cell) : Bool := memAbove 0 m

end Sys2Proof.Machine
end

