-- ==== Sys2Proof/Machine/Bytes.lean ====
section
/-!
DEFINITION. Machine/Bytes.lean: the byte computations of the spec: CRC-32C with its prefix (R263, R264), SHA-256
and HMAC (R295).
-/
namespace Sys2Proof.Machine

/-! ### CRC-32C (R263) -/

/-- One bit of the reflected CRC-32C division. -/
def crcStep (c : Word) : Word := if c.getLsbD 0 then (c >>> 1) ^^^ 0x82F63B78 else c >>> 1

/-- One byte processed. -/
def crcByte (c : Word) (b : Byte) : Word :=
  crcStep (crcStep (crcStep (crcStep (crcStep (crcStep (crcStep (crcStep (c ^^^ b.setWidth 32))))))))

/-- Bytes processed in order. -/
def crcBytes (c : Word) (l : List Byte) : Word := l.foldl crcByte c

/-- The start value of a run. -/
abbrev crcStart : Word := 0xFFFFFFFF

/-- The check after the final XOR. -/
def crc32c (l : List Byte) : Word := crcBytes crcStart l ^^^ 0xFFFFFFFF

/-- The 20-byte check prefix: DESTINATION, SOURCE, SEQUENCE, CSC (R263, R264). -/
def checkPrefix (dst src : Uid) (seq csc : Word) : List Byte :=
  beBytes 6 dst.toNat ++ beBytes 6 src.toNat ++ beBytes 4 seq.toNat ++ beBytes 4 csc.toNat

/-- The check over a prefix and a content. -/
def checkOf (dst src : Uid) (seq csc : Word) (l : List Byte) : Word := crc32c (checkPrefix dst src seq csc ++ l)

/-! ### SHA-256 and HMAC (R295) -/

/-- The greatest r below 2^n with r^k ≤ x, found bit by bit. -/
def rootOf (k x : Nat) : Nat → Nat
  | 0 => 0
  | n + 1 =>
    -- the bits above n of the root, then bit n
    let r := 2 * rootOf k (x / 2 ^ k) n
    if (r + 1) ^ k ≤ x then r + 1 else r

/-- The first primes: those below 312 are the 64 that FIPS 180-4 takes its constants from. -/
def shaPrimes : List Nat := (List.range 312).filter (fun n => decide (2 ≤ n) && (List.range n).all (fun d => decide (d < 2) || n % d != 0))

/-- The first 32 bits of the fractional parts of the k-th roots of the first primes: FIPS 180-4 names its constants so, cube roots for the
rounds, square roots for the start. -/
def rootBits (k n : Nat) : List Word := (shaPrimes.take n).map (fun p => word (rootOf k (p * 2 ^ (32 * k)) 40))

/-- A word turned right by each of some distances, summed modulo 2. -/
def turned (x : Word) (l : List Nat) : Word := (l.map x.rotateRight).foldl (· ^^^ ·) 0

/-- The word that follows a window of sixteen, oldest first. -/
def shaNext (w : List Word) : Word :=
  let x := w.getD 1 0
  let y := w.getD 14 0
  w.headD 0 + (turned x [7, 18] ^^^ x >>> 3) + w.getD 9 0 + (turned y [17, 19] ^^^ y >>> 10)

/-- The eight working words after a round that adds `kw`. -/
def shaStep (kw : Word) (v : List Word) : List Word :=
  let at_ (i : Nat) : Word := v.getD i 0
  -- the bits of the sixth and seventh word that the fifth selects; the majority of the first three
  let sel := at_ 6 ^^^ (at_ 4 &&& (at_ 5 ^^^ at_ 6))
  let maj := (at_ 0 &&& at_ 1) ||| (at_ 2 &&& (at_ 0 ||| at_ 1))
  let add := kw + at_ 7 + sel + turned (at_ 4) [6, 11, 25]
  (add + maj + turned (at_ 0) [2, 13, 22]) :: v.take 3 ++ (at_ 3 + add) :: (v.drop 4).take 3

/-- A round for each constant, the window of message words moving on by one. -/
def shaRun : List Word → List Word → List Word → List Word
  | [], _, v => v
  | k :: r, w, v => shaRun r (w.drop 1 ++ [shaNext w]) (shaStep (k + w.headD 0) v)

/-- Words of a byte string, big-endian; fuel bounds the count. -/
def beWords : Nat → List Byte → List Word
  | 0, _ => []
  | n + 1, l => word (beNat (l.take 4)) :: beWords n (l.drop 4)

/-- The digest words after n blocks of 64 bytes. -/
def shaDigest (l : List Byte) : Nat → List Word
  | 0 => rootBits 2 8
  | n + 1 =>
    let v := shaDigest l n
    List.zipWith (· + ·) v (shaRun (rootBits 3 64) (beWords 16 (l.drop (64 * n))) v)

/-- SHA-256 of a byte string: padded with a 1 bit, zeros and its length in bits, to whole blocks. -/
def sha256 (l : List Byte) : List Byte :=
  let body := l ++ [0x80]
  let fill := (120 - body.length % 64) % 64
  (shaDigest (body ++ List.replicate fill 0 ++ beBytes 8 (8 * l.length)) ((body.length + fill + 8) / 64)).flatMap (fun w => beBytes 4 w.toNat)

/-- HMAC-SHA-256 (R295). -/
def hmac (k m : List Byte) : List Byte :=
  let k := padTo 64 (if k.length > 64 then sha256 k else k)
  sha256 (k.map (· ^^^ 0x5C) ++ sha256 (k.map (· ^^^ 0x36) ++ m))

end Sys2Proof.Machine
end

