-- ==== Sys2Proof/Machine/Objects.lean ====
section
/-!
DEFINITION. Machine/Objects.lean: the object dictionary's entry tables (chapters 2 to 18) as rows, the
lookups over them, and the applied value of an object.
-/
namespace Sys2Proof.Machine

/-- The data types of Table 11.1 that the entry tables use. -/
inductive Ty
  | bool
  /-- UNSIGNED of n bytes. -/
  | uint (n : Nat)
  /-- INTEGER of n bytes, two's complement. -/
  | int (n : Nat)
  /-- OCTET_STRING of n bytes. -/
  | oct (n : Nat)
  | str
  /-- DOMAIN of at most n bytes. -/
  | dom (n : Nat)
deriving DecidableEq, Repr

/-- The right of an object (R289). -/
inductive Acc | ro | rw | wo
deriving DecidableEq, Repr

/-- The Take column (R289). -/
inductive TakeKind | yes | no | nextReset
deriving DecidableEq, Repr

/-- One row of an entry table: index and sub-index ranges, type, right, level, range, default, Take,
and the allowed values where the range is a list of values. -/
structure Obj where
  idxLo : Nat
  idxHi : Nat
  subLo : Nat
  subHi : Nat
  ty : Ty
  acc : Acc
  level : Nat
  lo : Int
  hi : Int
  dflt : Nat
  take : TakeKind
  allowed : List Int
deriving DecidableEq, Repr

/-- Entry table rows: Backbone mode mask, ports 0–3, Equaliser loop mode, Equaliser margin target, Auto-negotiation attempt time, Insertion timeout, Link status, ports 0–3, Duplicated priorities, Preferred line, Fast relay stagger, Full relay stagger, First line inserted, Supervision interval, Forced bypass, Relay defer limit, Bypass delay limit, standard and extended-reach mode, Duplicator and relay counters, Consist ID. -/
def objRows0 : List Obj := [
  ⟨0x2201, 0x2201, 0x1, 0x4, .uint 1, .rw, 1, 0, 63, 62, .yes, []⟩,
  ⟨0x2202, 0x2202, 0x1, 0x4, .uint 1, .rw, 2, 0, 2, 0, .yes, []⟩,
  ⟨0x2203, 0x2203, 0x1, 0x4, .uint 1, .rw, 2, 8, 32, 16, .yes, []⟩,
  ⟨0x2204, 0x2204, 0x0, 0x0, .uint 4, .rw, 1, 16, 1024, 64, .yes, []⟩,
  ⟨0x2205, 0x2205, 0x0, 0x0, .uint 4, .rw, 1, 168, 4095, 256, .yes, []⟩,
  ⟨0x2206, 0x2206, 0x1, 0x4, .uint 4, .ro, 0, 0, 4294967295, 0, .no, []⟩,
  ⟨0x2301, 0x2301, 0x0, 0x0, .uint 1, .rw, 1, 0, 255, 255, .yes, []⟩,
  ⟨0x2302, 0x2302, 0x0, 0x0, .uint 1, .rw, 1, 0, 1, 0, .yes, []⟩,
  ⟨0x2304, 0x2304, 0x0, 0x0, .uint 4, .rw, 2, 8, 64, 12, .yes, []⟩,
  ⟨0x2305, 0x2305, 0x0, 0x0, .uint 4, .rw, 2, 168, 4095, 192, .yes, []⟩,
  ⟨0x2306, 0x2306, 0x0, 0x0, .uint 1, .rw, 2, 0, 1, 0, .yes, []⟩,
  ⟨0x2307, 0x2307, 0x0, 0x0, .uint 4, .rw, 1, 256, 16384, 2048, .yes, []⟩,
  ⟨0x2308, 0x2308, 0x0, 0x0, .uint 1, .rw, 2, 0, 3, 0, .yes, []⟩,
  ⟨0x2309, 0x2309, 0x0, 0x0, .uint 4, .rw, 2, 1, 16, 1, .yes, []⟩,
  ⟨0x230a, 0x230a, 0x1, 0x1, .uint 4, .rw, 2, 10, 1000, 75, .yes, []⟩,
  ⟨0x230a, 0x230a, 0x2, 0x2, .uint 4, .rw, 2, 10, 1000, 200, .yes, []⟩,
  ⟨0x2310, 0x2310, 0x1, 0x9, .uint 4, .ro, 0, 0, 4294967295, 0, .no, []⟩,
  ⟨0x2401, 0x2401, 0x0, 0x0, .uint 4, .rw, 2, 0, 4294967295, 0, .yes, []⟩]

/-- Entry table rows: Cab input, fore and aft, Renumber on cab change, Settle time, Quiet time, Commit margin of the consist map change, Inhibit, Mate debounce, Unmate debounce, Neighbour interval, Record refresh interval, Join wait, Restart, Active consist map counter, Previous consist map counter, Own position, Consist map image, Activation instant, Inauguration counters. -/
def objRows1 : List Obj := [
  ⟨0x2402, 0x2402, 0x1, 0x2, .uint 1, .rw, 2, 0, 16, 0, .yes, []⟩,
  ⟨0x2403, 0x2403, 0x0, 0x0, .bool, .rw, 2, 0, 1, 0, .yes, []⟩,
  ⟨0x2404, 0x2404, 0x0, 0x0, .uint 4, .rw, 2, 0, 24, 16, .yes, []⟩,
  ⟨0x2405, 0x2405, 0x0, 0x0, .uint 4, .rw, 2, 256, 768, 512, .yes, []⟩,
  ⟨0x2406, 0x2406, 0x0, 0x0, .uint 4, .rw, 2, 16, 64, 16, .yes, []⟩,
  ⟨0x2407, 0x2407, 0x0, 0x0, .bool, .rw, 1, 0, 1, 0, .no, []⟩,
  ⟨0x2408, 0x2408, 0x0, 0x0, .uint 4, .rw, 2, 16, 1024, 64, .yes, []⟩,
  ⟨0x2409, 0x2409, 0x0, 0x0, .uint 4, .rw, 2, 16, 1024, 256, .yes, []⟩,
  ⟨0x240a, 0x240a, 0x0, 0x0, .uint 4, .rw, 2, 1, 64, 4, .yes, []⟩,
  ⟨0x240b, 0x240b, 0x0, 0x0, .uint 4, .rw, 2, 64, 4096, 1024, .yes, []⟩,
  ⟨0x240c, 0x240c, 0x0, 0x0, .uint 4, .rw, 2, 64, 4095, 512, .yes, []⟩,
  ⟨0x240d, 0x240d, 0x0, 0x0, .uint 1, .wo, 2, 1, 1, 0, .no, []⟩,
  ⟨0x2410, 0x2410, 0x0, 0x0, .uint 4, .ro, 0, 0, 4294967295, 0, .no, []⟩,
  ⟨0x2411, 0x2411, 0x0, 0x0, .uint 4, .ro, 0, 0, 4294967295, 0, .no, []⟩,
  ⟨0x2412, 0x2412, 0x0, 0x0, .uint 1, .ro, 0, 0, 255, 0, .no, []⟩,
  ⟨0x2413, 0x2413, 0x0, 0x0, .dom 800, .ro, 0, 0, 0, 0, .no, []⟩,
  ⟨0x2414, 0x2414, 0x0, 0x0, .uint 8, .ro, 0, 0, 18446744073709551615, 0, .no, []⟩,
  ⟨0x2415, 0x2415, 0x1, 0x7, .uint 4, .ro, 0, 0, 4294967295, 0, .no, []⟩]

/-- Entry table rows: TTDP on legacy junctions, ETB topology counter, Maximum frame length, Pause receive enable, Pause transmit enable, Pause transmit time, XOFF threshold, XON threshold, Pause watchdog limit, Consist mode mask, MAC counters, ports 0–19, Scheduling mode, Express queues, Preemption enable, Additional fragment size. -/
def objRows2 : List Obj := [
  ⟨0x2420, 0x2420, 0x0, 0x0, .bool, .rw, 2, 0, 1, 1, .yes, []⟩,
  ⟨0x2421, 0x2421, 0x0, 0x0, .uint 4, .ro, 0, 0, 4294967295, 0, .no, []⟩,
  ⟨0x2210, 0x2210, 0x1, 0x4, .uint 2, .rw, 1, 1518, 9222, 1528, .yes, []⟩,
  ⟨0x2210, 0x2210, 0x5, 0x11, .uint 2, .rw, 1, 1512, 9216, 1522, .yes, []⟩,
  ⟨0x2211, 0x2211, 0x1, 0x4, .bool, .rw, 1, 0, 1, 0, .yes, []⟩,
  ⟨0x2211, 0x2211, 0x5, 0x11, .bool, .rw, 1, 0, 1, 1, .yes, []⟩,
  ⟨0x2212, 0x2212, 0x5, 0x11, .bool, .rw, 1, 0, 1, 1, .yes, []⟩,
  ⟨0x2213, 0x2213, 0x5, 0x11, .uint 2, .rw, 2, 256, 65535, 65535, .yes, []⟩,
  ⟨0x2214, 0x2214, 0x5, 0x11, .uint 2, .rw, 2, 32, 1024, 192, .yes, []⟩,
  ⟨0x2215, 0x2215, 0x5, 0x11, .uint 2, .rw, 2, 16, 1008, 128, .yes, []⟩,
  ⟨0x2216, 0x2216, 0x1, 0x11, .uint 4, .rw, 2, 8, 4095, 64, .yes, []⟩,
  ⟨0x2217, 0x2217, 0x5, 0x10, .uint 1, .rw, 1, 1, 7, 7, .yes, []⟩,
  ⟨0x2217, 0x2217, 0x11, 0x11, .uint 1, .rw, 1, 1, 3, 3, .yes, []⟩,
  ⟨0x2220, 0x2233, 0x1, 0x35, .uint 4, .ro, 0, 0, 4294967295, 0, .no, []⟩,
  ⟨0x2501, 0x2501, 0x1, 0x11, .uint 1, .rw, 1, 0, 2, 0, .yes, []⟩,
  ⟨0x2502, 0x2502, 0x1, 0x11, .uint 1, .rw, 1, 128, 255, 192, .yes, []⟩,
  ⟨0x2503, 0x2503, 0x1, 0x11, .bool, .rw, 1, 0, 1, 1, .yes, []⟩,
  ⟨0x2504, 0x2504, 0x1, 0x11, .uint 1, .rw, 2, 0, 3, 0, .yes, []⟩]

/-- Entry table rows: Verify disable, Verify time, Verify limit, PCP-to-queue map, Verify restart, Queue limit, queue 0–7, Administrative base time, Administrative cycle, Administrative length, Administrative entries, Operational base time, Operational cycle, Operational length, Operational entries, Scheduling status, Guard band, Fallback ports, Scheduling counters, ports 0–16. -/
def objRows3 : List Obj := [
  ⟨0x2505, 0x2505, 0x1, 0x11, .bool, .rw, 2, 0, 1, 0, .yes, []⟩,
  ⟨0x2506, 0x2506, 0x1, 0x11, .uint 4, .rw, 2, 1, 122, 10, .yes, []⟩,
  ⟨0x2507, 0x2507, 0x1, 0x11, .uint 1, .rw, 2, 1, 8, 3, .yes, []⟩,
  ⟨0x2508, 0x2508, 0x1, 0x11, .uint 4, .rw, 1, 14680064, 134217727, 16434824, .yes, []⟩,
  ⟨0x2509, 0x2509, 0x1, 0x11, .uint 1, .wo, 1, 1, 1, 0, .no, []⟩,
  ⟨0x2510, 0x2517, 0x1, 0x11, .uint 2, .rw, 2, 16, 4096, 128, .yes, []⟩,
  ⟨0x2520, 0x2530, 0x1, 0x1, .uint 8, .rw, 1, 0, 18446744073709551615, 0, .yes, []⟩,
  ⟨0x2520, 0x2530, 0x2, 0x2, .uint 4, .rw, 1, 16, 4194304, 1024, .yes, []⟩,
  ⟨0x2520, 0x2530, 0x3, 0x3, .uint 2, .rw, 1, 0, 256, 0, .yes, []⟩,
  ⟨0x2520, 0x2530, 0x4, 0x4, .dom 1024, .rw, 1, 0, 0, 0, .yes, []⟩,
  ⟨0x2540, 0x2550, 0x1, 0x1, .uint 8, .ro, 0, 0, 0, 0, .no, []⟩,
  ⟨0x2540, 0x2550, 0x2, 0x2, .uint 4, .ro, 0, 0, 0, 0, .no, []⟩,
  ⟨0x2540, 0x2550, 0x3, 0x3, .uint 2, .ro, 0, 0, 0, 0, .no, []⟩,
  ⟨0x2540, 0x2550, 0x4, 0x4, .dom 1024, .ro, 0, 0, 0, 0, .no, []⟩,
  ⟨0x2560, 0x2560, 0x1, 0x11, .uint 4, .ro, 0, 0, 4294967295, 0, .no, []⟩,
  ⟨0x2561, 0x2561, 0x1, 0x11, .uint 4, .ro, 0, 0, 4294967295, 0, .no, []⟩,
  ⟨0x2562, 0x2562, 0x0, 0x0, .uint 4, .ro, 0, 0, 4294967295, 0, .no, []⟩,
  ⟨0x2570, 0x2580, 0x1, 0xb, .uint 4, .ro, 0, 0, 4294967295, 0, .no, []⟩]

/-- Entry table rows: Backbone domain number, Grandmaster capable, Priority1, priority2, Reference source, Reference port, Preferred time line, Backbone Sync interval, Announce interval, Peer-delay interval, Step threshold, Step limit, Allow step, Slew limit, Holdover linear term, Holdover quadratic term, Holdover limit, Servo enable, Pulse mode, outputs 1–4. -/
def objRows4 : List Obj := [
  ⟨0x2601, 0x2601, 0x0, 0x0, .uint 1, .rw, 2, 0, 127, 0, .yes, []⟩,
  ⟨0x2602, 0x2602, 0x0, 0x0, .bool, .rw, 2, 0, 1, 1, .yes, []⟩,
  ⟨0x2603, 0x2603, 0x1, 0x2, .uint 1, .rw, 2, 0, 254, 128, .yes, []⟩,
  ⟨0x2604, 0x2604, 0x0, 0x0, .uint 1, .rw, 2, 0, 1, 0, .yes, []⟩,
  ⟨0x2605, 0x2605, 0x0, 0x0, .uint 1, .rw, 2, 4, 16, 4, .yes, []⟩,
  ⟨0x2606, 0x2606, 0x0, 0x0, .uint 1, .rw, 2, 0, 1, 0, .yes, []⟩,
  ⟨0x2607, 0x2607, 0x0, 0x0, .uint 4, .rw, 2, 8, 1024, 32, .yes, []⟩,
  ⟨0x2608, 0x2608, 0x0, 0x0, .uint 4, .rw, 2, 256, 16384, 1024, .yes, []⟩,
  ⟨0x2609, 0x2609, 0x0, 0x0, .uint 4, .rw, 2, 64, 4096, 256, .yes, []⟩,
  ⟨0x260a, 0x260a, 0x0, 0x0, .uint 4, .rw, 2, 64, 65535, 256, .yes, []⟩,
  ⟨0x260b, 0x260b, 0x0, 0x0, .uint 4, .rw, 2, 1, 1048576, 16, .yes, []⟩,
  ⟨0x260c, 0x260c, 0x0, 0x0, .bool, .rw, 2, 0, 1, 1, .yes, []⟩,
  ⟨0x260d, 0x260d, 0x0, 0x0, .uint 4, .rw, 2, 10, 10000, 500, .yes, []⟩,
  ⟨0x260e, 0x260e, 0x1, 0x1, .uint 4, .rw, 2, 0, 100000, 215, .yes, []⟩,
  ⟨0x260e, 0x260e, 0x2, 0x2, .uint 4, .rw, 2, 0, 100000, 21, .yes, []⟩,
  ⟨0x260e, 0x260e, 0x3, 0x3, .uint 4, .rw, 1, 64, 1000000000, 1000, .yes, []⟩,
  ⟨0x260f, 0x260f, 0x0, 0x0, .bool, .rw, 2, 0, 1, 1, .yes, []⟩,
  ⟨0x2610, 0x2613, 0x1, 0x1, .uint 1, .rw, 1, 0, 2, 0, .yes, []⟩]

/-- Entry table rows: Pulse start instant, Pulse period, Pulse width, Pulse active low, Pulse only when time valid, Capture enable, inputs 1–4, Capture edge, Default asymmetry, ports 0–3, Asymmetry partner UID, entries 0–7, Asymmetry value, entries 0–7, PTP profile, ports 4–16, PTP domain, ports 4–16, Consist Sync interval, Servo status, Offset, Line difference, Holdover error estimate, Grandmaster identity. -/
def objRows5 : List Obj := [
  ⟨0x2610, 0x2613, 0x2, 0x2, .uint 8, .rw, 1, 0, 18446744073709551615, 0, .yes, []⟩,
  ⟨0x2610, 0x2613, 0x3, 0x3, .uint 4, .rw, 1, 1000, 4294967295, 1000000000, .yes, []⟩,
  ⟨0x2610, 0x2613, 0x4, 0x4, .uint 4, .rw, 1, 8, 4294967295, 1048576, .yes, []⟩,
  ⟨0x2610, 0x2613, 0x5, 0x5, .bool, .rw, 1, 0, 1, 0, .yes, []⟩,
  ⟨0x2610, 0x2613, 0x6, 0x6, .bool, .rw, 1, 0, 1, 1, .yes, []⟩,
  ⟨0x2614, 0x2617, 0x1, 0x1, .bool, .rw, 1, 0, 1, 0, .yes, []⟩,
  ⟨0x2614, 0x2617, 0x2, 0x2, .uint 1, .rw, 1, 1, 3, 1, .yes, []⟩,
  ⟨0x2620, 0x2623, 0x1, 0x1, .int 4, .rw, 2, -100000, 100000, 0, .yes, []⟩,
  ⟨0x2620, 0x2623, 0x2, 0x9, .uint 6, .rw, 2, 0, 281474976710655, 0, .yes, []⟩,
  ⟨0x2620, 0x2623, 0xa, 0x11, .int 4, .rw, 2, -100000, 100000, 0, .yes, []⟩,
  ⟨0x2630, 0x2630, 0x5, 0x11, .uint 1, .rw, 1, 0, 3, 0, .yes, []⟩,
  ⟨0x2631, 0x2631, 0x5, 0x11, .uint 1, .rw, 1, 0, 127, 0, .yes, []⟩,
  ⟨0x2632, 0x2632, 0x5, 0x11, .uint 4, .rw, 1, 8, 1024, 32, .yes, []⟩,
  ⟨0x2638, 0x2638, 0x0, 0x0, .uint 4, .ro, 0, 0, 4294967295, 0, .no, []⟩,
  ⟨0x2639, 0x2639, 0x0, 0x0, .int 4, .ro, 0, -2147483648, 2147483647, 0, .no, []⟩,
  ⟨0x263a, 0x263a, 0x0, 0x0, .int 4, .ro, 0, -2147483648, 2147483647, 0, .no, []⟩,
  ⟨0x263b, 0x263b, 0x0, 0x0, .uint 4, .ro, 0, 0, 4294967295, 0, .no, []⟩,
  ⟨0x263c, 0x263c, 0x0, 0x0, .uint 8, .ro, 0, 0, 18446744073709551615, 0, .no, []⟩]

/-- Entry table rows: Time counters, Memory-window bridge enable, Acknowledgement timeout, Retry limit, Export area size, Semaphore acquire timeout, Semaphore hold limit, Prefetch depth, Prefetch lifetime, Stream enable, Stream priority, Stream status, streams 0–15, Window enable, Window base offset, Window size, Target UID, Target region, Prefetchable. -/
def objRows6 : List Obj := [
  ⟨0x2640, 0x2640, 0x1, 0x6, .uint 4, .ro, 0, 0, 4294967295, 0, .no, []⟩,
  ⟨0x2701, 0x2701, 0x0, 0x0, .bool, .rw, 1, 0, 1, 1, .yes, []⟩,
  ⟨0x2702, 0x2702, 0x0, 0x0, .uint 4, .rw, 2, 16, 1024, 256, .yes, []⟩,
  ⟨0x2703, 0x2703, 0x0, 0x0, .uint 1, .rw, 2, 0, 3, 3, .yes, []⟩,
  ⟨0x2704, 0x2704, 0x0, 0x0, .uint 4, .rw, 2, 0, 2048, 512, .nextReset, []⟩,
  ⟨0x2705, 0x2705, 0x0, 0x0, .uint 4, .rw, 2, 16, 65536, 256, .yes, []⟩,
  ⟨0x2706, 0x2706, 0x0, 0x0, .uint 4, .rw, 2, 1, 4096, 64, .yes, []⟩,
  ⟨0x2707, 0x2707, 0x0, 0x0, .uint 2, .rw, 2, 0, 4096, 1024, .yes, []⟩,
  ⟨0x2708, 0x2708, 0x0, 0x0, .uint 4, .rw, 2, 1, 1024, 16, .yes, []⟩,
  ⟨0x2710, 0x271f, 0x1, 0x1, .bool, .rw, 1, 0, 1, 1, .yes, []⟩,
  ⟨0x2710, 0x271f, 0x2, 0x2, .uint 1, .rw, 1, 0, 6, 4, .yes, []⟩,
  ⟨0x2720, 0x2720, 0x1, 0x10, .uint 4, .ro, 0, 0, 4294967295, 0, .no, []⟩,
  ⟨0x2740, 0x277f, 0x1, 0x1, .bool, .rw, 1, 0, 1, 0, .yes, []⟩,
  ⟨0x2740, 0x277f, 0x2, 0x2, .uint 4, .rw, 1, 0, 4294967295, 0, .yes, []⟩,
  ⟨0x2740, 0x277f, 0x3, 0x3, .uint 1, .rw, 1, 12, 30, 12, .yes, []⟩,
  ⟨0x2740, 0x277f, 0x4, 0x4, .uint 6, .rw, 1, 0, 281474976710655, 0, .yes, []⟩,
  ⟨0x2740, 0x277f, 0x5, 0x5, .uint 1, .rw, 1, 0, 63, 0, .yes, []⟩,
  ⟨0x2740, 0x277f, 0x6, 0x6, .bool, .rw, 1, 0, 1, 0, .yes, []⟩]

/-- Entry table rows: Target offset, Stream, Non-posted mask, Completion timeout, Prefetch audit, Error response, Region enable, Region base, Region size, Read enable, Write enable, Source filter, Semaphore, Doorbell enable, Memory-window bridge counters, Semaphore states, Fence streams, Force stream disable. -/
def objRows7 : List Obj := [
  ⟨0x2740, 0x277f, 0x7, 0x7, .uint 4, .rw, 1, 0, 4294967295, 0, .yes, []⟩,
  ⟨0x2740, 0x277f, 0x8, 0x8, .uint 1, .rw, 1, 0, 15, 0, .yes, []⟩,
  ⟨0x2740, 0x277f, 0x9, 0x9, .uint 2, .rw, 1, 0, 65535, 0, .yes, []⟩,
  ⟨0x2740, 0x277f, 0xa, 0xa, .uint 4, .rw, 1, 1088, 1048576, 4096, .yes, []⟩,
  ⟨0x2740, 0x277f, 0xb, 0xb, .bool, .rw, 1, 0, 1, 0, .yes, []⟩,
  ⟨0x2740, 0x277f, 0xc, 0xc, .uint 1, .rw, 1, 0, 1, 0, .yes, []⟩,
  ⟨0x2780, 0x27bf, 0x1, 0x1, .bool, .rw, 1, 0, 1, 0, .yes, []⟩,
  ⟨0x2780, 0x27bf, 0x2, 0x2, .uint 4, .rw, 1, 0, 4294967295, 0, .yes, []⟩,
  ⟨0x2780, 0x27bf, 0x3, 0x3, .uint 4, .rw, 1, 65536, 2147483648, 65536, .yes, []⟩,
  ⟨0x2780, 0x27bf, 0x4, 0x4, .bool, .rw, 1, 0, 1, 1, .yes, []⟩,
  ⟨0x2780, 0x27bf, 0x5, 0x5, .bool, .rw, 1, 0, 1, 1, .yes, []⟩,
  ⟨0x2780, 0x27bf, 0x6, 0x6, .uint 6, .rw, 1, 0, 281474976710655, 0, .yes, []⟩,
  ⟨0x2780, 0x27bf, 0x7, 0x7, .uint 1, .rw, 1, 0, 255, 255, .yes, []⟩,
  ⟨0x2780, 0x27bf, 0x8, 0x8, .bool, .rw, 1, 0, 1, 0, .yes, []⟩,
  ⟨0x27c0, 0x27c0, 0x1, 0x11, .uint 4, .ro, 0, 0, 4294967295, 0, .no, []⟩,
  ⟨0x27c1, 0x27c1, 0x1, 0x40, .uint 4, .ro, 0, 0, 4294967295, 0, .no, []⟩,
  ⟨0x27c2, 0x27c2, 0x0, 0x0, .uint 2, .wo, 1, 0, 65535, 0, .no, []⟩,
  ⟨0x27c3, 0x27c3, 0x0, 0x0, .uint 2, .wo, 2, 0, 65535, 0, .no, []⟩]

/-- Entry table rows: Force window disable, Posted-failure log, Posted-failure pop, Posted-failure status, Prefetch-discard log, Recovery counters, Abort window, Abort result, Bridge enable, CAN nominal rate, CAN data rate, CAN manual recovery, CAN listen-only, CAN termination, MVB device address, MVB silence limit, CAN 1 object identifier, CAN 1 object mask. -/
def objRows8 : List Obj := [
  ⟨0x27c4, 0x27c4, 0x0, 0x0, .uint 8, .wo, 2, 0, 18446744073709551615, 0, .no, []⟩,
  ⟨0x27c5, 0x27c5, 0x1, 0x1, .dom 1792, .ro, 0, 0, 0, 0, .no, []⟩,
  ⟨0x27c5, 0x27c5, 0x2, 0x2, .uint 1, .wo, 1, 1, 1, 0, .no, []⟩,
  ⟨0x27c5, 0x27c5, 0x3, 0x3, .uint 4, .ro, 0, 0, 4294967295, 0, .no, []⟩,
  ⟨0x27c6, 0x27c6, 0x0, 0x0, .dom 512, .ro, 0, 0, 0, 0, .no, []⟩,
  ⟨0x27c7, 0x27c7, 0x1, 0x8, .uint 4, .ro, 0, 0, 4294967295, 0, .no, []⟩,
  ⟨0x27c8, 0x27c8, 0x0, 0x0, .uint 1, .wo, 1, 0, 63, 0, .no, []⟩,
  ⟨0x27c9, 0x27c9, 0x0, 0x0, .uint 4, .ro, 0, 0, 4294967295, 0, .no, []⟩,
  ⟨0x2801, 0x2801, 0x0, 0x0, .bool, .rw, 1, 0, 1, 1, .yes, []⟩,
  ⟨0x2802, 0x2802, 0x1, 0x2, .uint 2, .rw, 2, 0, 65535, 500, .yes, [125, 250, 500, 1000]⟩,
  ⟨0x2803, 0x2803, 0x1, 0x2, .uint 2, .rw, 2, 0, 65535, 2000, .yes, [0, 1000, 2000, 5000]⟩,
  ⟨0x2805, 0x2805, 0x1, 0x2, .bool, .rw, 2, 0, 1, 0, .yes, []⟩,
  ⟨0x2806, 0x2806, 0x1, 0x2, .bool, .rw, 2, 0, 1, 0, .yes, []⟩,
  ⟨0x2807, 0x2807, 0x1, 0x2, .bool, .rw, 2, 0, 1, 0, .yes, []⟩,
  ⟨0x2808, 0x2808, 0x0, 0x0, .uint 2, .rw, 2, 0, 4095, 0, .yes, []⟩,
  ⟨0x280a, 0x280a, 0x0, 0x0, .uint 4, .rw, 2, 2, 1024, 8, .yes, []⟩,
  ⟨0x2810, 0x2810, 0x1, 0x40, .uint 4, .rw, 1, 0, 4294967295, 0, .yes, []⟩,
  ⟨0x2811, 0x2811, 0x1, 0x40, .uint 4, .rw, 1, 0, 536870911, 536870911, .yes, []⟩]

/-- Entry table rows: CAN 1 object format, CAN 1 minimum interval, CAN 1 refresh interval, CAN 1 freshness limit, MVB port entry, MVB sink freshness limit, Published dataset ID, Published length, Destination MAC, Dataset PCP, Published minimum interval, Published refresh interval, Subscribed dataset ID, Subscription source filter, Subscription freshness limit, Subscription length, Signal map, Error status. -/
def objRows9 : List Obj := [
  ⟨0x2812, 0x2812, 0x1, 0x40, .uint 1, .rw, 1, 0, 255, 8, .yes, []⟩,
  ⟨0x2813, 0x2813, 0x1, 0x40, .uint 4, .rw, 1, 1, 4194304, 1024, .yes, []⟩,
  ⟨0x2814, 0x2814, 0x1, 0x40, .uint 4, .rw, 1, 0, 4096, 0, .yes, []⟩,
  ⟨0x2815, 0x2815, 0x1, 0x40, .uint 4, .rw, 1, 0, 4096, 128, .yes, []⟩,
  ⟨0x2820, 0x2820, 0x1, 0x40, .uint 4, .rw, 1, 0, 4294967295, 0, .yes, []⟩,
  ⟨0x2821, 0x2821, 0x1, 0x40, .uint 4, .rw, 1, 0, 4096, 128, .yes, []⟩,
  ⟨0x2830, 0x2830, 0x1, 0x40, .uint 4, .rw, 1, 0, 4294967295, 0, .yes, []⟩,
  ⟨0x2831, 0x2831, 0x1, 0x40, .uint 2, .rw, 1, 0, 256, 0, .yes, []⟩,
  ⟨0x2832, 0x2832, 0x1, 0x40, .uint 6, .rw, 1, 0, 281474976710655, 4037168605184, .yes, []⟩,
  ⟨0x2833, 0x2833, 0x1, 0x40, .uint 1, .rw, 1, 0, 6, 5, .yes, []⟩,
  ⟨0x2834, 0x2834, 0x1, 0x40, .uint 4, .rw, 1, 1, 4194304, 1024, .yes, []⟩,
  ⟨0x2835, 0x2835, 0x1, 0x40, .uint 4, .rw, 1, 0, 4096, 64, .yes, []⟩,
  ⟨0x2838, 0x2838, 0x1, 0x40, .uint 4, .rw, 1, 0, 4294967295, 0, .yes, []⟩,
  ⟨0x2839, 0x2839, 0x1, 0x40, .uint 6, .rw, 1, 0, 281474976710655, 0, .yes, []⟩,
  ⟨0x283a, 0x283a, 0x1, 0x40, .uint 4, .rw, 1, 0, 4096, 128, .yes, []⟩,
  ⟨0x283b, 0x283b, 0x1, 0x40, .uint 2, .rw, 1, 0, 256, 0, .yes, []⟩,
  ⟨0x2840, 0x2840, 0x0, 0x0, .dom 24576, .rw, 1, 0, 0, 0, .yes, []⟩,
  ⟨0x2860, 0x2860, 0x0, 0x0, .uint 4, .ro, 0, 0, 4294967295, 0, .no, []⟩]

/-- CAN 2's rows (R287): identifier, mask, format, minimum interval, refresh interval, freshness limit, as those of CAN 1. -/
def objRowsCan2 : List Obj := [
  ⟨0x2818, 0x2818, 0x1, 0x40, .uint 4, .rw, 1, 0, 4294967295, 0, .yes, []⟩,
  ⟨0x2819, 0x2819, 0x1, 0x40, .uint 4, .rw, 1, 0, 536870911, 536870911, .yes, []⟩,
  ⟨0x281a, 0x281a, 0x1, 0x40, .uint 1, .rw, 1, 0, 255, 8, .yes, []⟩,
  ⟨0x281b, 0x281b, 0x1, 0x40, .uint 4, .rw, 1, 1, 4194304, 1024, .yes, []⟩,
  ⟨0x281c, 0x281c, 0x1, 0x40, .uint 4, .rw, 1, 0, 4096, 0, .yes, []⟩,
  ⟨0x281d, 0x281d, 0x1, 0x40, .uint 4, .rw, 1, 0, 4096, 128, .yes, []⟩]

/-- Entry table rows: Stale sources, Process-data counters, Device type, Error register, Device name, Store parameters, Restore defaults, Producer heartbeat time, Vendor ID, Product code, Revision number, Serial number, SDO server, CAN 1: request and answer COB-IDs, SDO server, CAN 2, Node UID, Base MAC address, Hardware revision, Firmware version. -/
def objRows10 : List Obj := [
  ⟨0x2861, 0x2861, 0x1, 0x8, .uint 4, .ro, 0, 0, 4294967295, 0, .no, []⟩,
  ⟨0x2862, 0x2862, 0x1, 0x15, .uint 4, .ro, 0, 0, 4294967295, 0, .no, []⟩,
  ⟨0x1000, 0x1000, 0x0, 0x0, .uint 4, .ro, 0, 0, 4294967295, 0, .no, []⟩,
  ⟨0x1001, 0x1001, 0x0, 0x0, .uint 1, .ro, 0, 0, 255, 0, .no, []⟩,
  ⟨0x1008, 0x1008, 0x0, 0x0, .str, .ro, 0, 0, 0, 0, .no, []⟩,
  ⟨0x1010, 0x1010, 0x1, 0x3, .uint 4, .rw, 2, 0, 4294967295, 1, .no, []⟩,
  ⟨0x1011, 0x1011, 0x1, 0x3, .uint 4, .rw, 2, 0, 4294967295, 1, .no, []⟩,
  ⟨0x1017, 0x1017, 0x0, 0x0, .uint 4, .rw, 1, 0, 65535, 0, .yes, []⟩,
  ⟨0x1018, 0x1018, 0x1, 0x1, .uint 4, .ro, 0, 0, 4294967295, 0, .no, []⟩,
  ⟨0x1018, 0x1018, 0x2, 0x2, .uint 4, .ro, 0, 0, 4294967295, 0, .no, []⟩,
  ⟨0x1018, 0x1018, 0x3, 0x3, .uint 4, .ro, 0, 0, 4294967295, 0, .no, []⟩,
  ⟨0x1018, 0x1018, 0x4, 0x4, .uint 4, .ro, 0, 0, 4294967295, 0, .no, []⟩,
  ⟨0x1200, 0x1200, 0x1, 0x2, .uint 4, .ro, 0, 0, 4294967295, 0, .no, []⟩,
  ⟨0x1201, 0x1201, 0x1, 0x2, .uint 4, .ro, 0, 0, 4294967295, 0, .no, []⟩,
  ⟨0x2000, 0x2000, 0x1, 0x1, .uint 6, .ro, 0, 0, 281474976710655, 0, .no, []⟩,
  ⟨0x2000, 0x2000, 0x2, 0x2, .uint 6, .ro, 0, 0, 281474976710655, 0, .no, []⟩,
  ⟨0x2000, 0x2000, 0x3, 0x3, .uint 2, .ro, 0, 0, 65535, 0, .no, []⟩,
  ⟨0x2000, 0x2000, 0x4, 0x4, .uint 4, .ro, 0, 0, 4294967295, 0, .no, []⟩]

/-- Entry table rows: Challenge, Requested level, Response, Session level, Operator key, Maintainer key, Key status, Session idle time, SDO node-ID, CAN 1 and CAN 2, SDO segment timeout, DAM from consist ports, DAM from the service port, Dictionary counters, Sessions in use, Transaction status, Transaction number, Apply instant. -/
def objRows11 : List Obj := [
  ⟨0x2002, 0x2002, 0x1, 0x1, .oct 16, .ro, 0, 0, 0, 0, .no, []⟩,
  ⟨0x2002, 0x2002, 0x2, 0x2, .uint 1, .wo, 0, 0, 3, 0, .no, []⟩,
  ⟨0x2002, 0x2002, 0x3, 0x3, .oct 16, .wo, 0, 0, 0, 0, .no, []⟩,
  ⟨0x2002, 0x2002, 0x4, 0x4, .uint 1, .ro, 0, 0, 255, 0, .no, []⟩,
  ⟨0x2003, 0x2003, 0x1, 0x1, .oct 32, .wo, 2, 0, 0, 0, .no, []⟩,
  ⟨0x2003, 0x2003, 0x2, 0x2, .oct 32, .wo, 2, 0, 0, 0, .no, []⟩,
  ⟨0x2003, 0x2003, 0x3, 0x3, .uint 1, .ro, 0, 0, 255, 0, .no, []⟩,
  ⟨0x2005, 0x2005, 0x0, 0x0, .uint 4, .rw, 2, 1, 4096, 256, .no, []⟩,
  ⟨0x2009, 0x2009, 0x1, 0x1, .uint 1, .rw, 2, 0, 127, 127, .yes, []⟩,
  ⟨0x2009, 0x2009, 0x2, 0x2, .uint 1, .rw, 2, 0, 127, 0, .yes, []⟩,
  ⟨0x200a, 0x200a, 0x0, 0x0, .uint 4, .rw, 2, 16, 16384, 1024, .yes, []⟩,
  ⟨0x200c, 0x200c, 0x1, 0x1, .bool, .rw, 2, 0, 1, 0, .yes, []⟩,
  ⟨0x200c, 0x200c, 0x2, 0x2, .bool, .rw, 2, 0, 1, 1, .yes, []⟩,
  ⟨0x2010, 0x2010, 0x1, 0x8, .uint 4, .ro, 0, 0, 4294967295, 0, .no, []⟩,
  ⟨0x2011, 0x2011, 0x0, 0x0, .uint 1, .ro, 0, 0, 255, 0, .no, []⟩,
  ⟨0x2f01, 0x2f01, 0x0, 0x0, .uint 4, .ro, 0, 0, 4294967295, 0, .no, []⟩,
  ⟨0x2f02, 0x2f02, 0x0, 0x0, .uint 4, .ro, 0, 0, 4294967295, 0, .no, []⟩,
  ⟨0x2f03, 0x2f03, 0x0, 0x0, .uint 8, .ro, 0, 0, 18446744073709551615, 0, .no, []⟩]

/-- Entry table rows: System transaction number, Vote window, Commit margin, Train-wide content, Staged amount, Transaction counters, Sleep allowed, Minimum awake time, Ring interval, Ring timeout, Wake line input, Wake line output, Wake pulse width, Wake-input mask, Wake timer, Keep-alive mode, Consist idle time. -/
def objRows12 : List Obj := [
  ⟨0x2f04, 0x2f04, 0x0, 0x0, .uint 4, .ro, 0, 0, 4294967295, 0, .no, []⟩,
  ⟨0x2f05, 0x2f05, 0x0, 0x0, .uint 4, .rw, 2, 2, 256, 8, .no, []⟩,
  ⟨0x2f06, 0x2f06, 0x0, 0x0, .uint 4, .rw, 2, 16, 256, 16, .no, []⟩,
  ⟨0x2f10, 0x2f10, 0x0, 0x0, .dom 262144, .rw, 2, 0, 0, 0, .yes, []⟩,
  ⟨0x2f11, 0x2f11, 0x0, 0x0, .uint 4, .ro, 0, 0, 4294967295, 0, .no, []⟩,
  ⟨0x2f12, 0x2f12, 0x1, 0x8, .uint 4, .ro, 0, 0, 4294967295, 0, .no, []⟩,
  ⟨0x2901, 0x2901, 0x0, 0x0, .bool, .rw, 1, 0, 1, 0, .no, []⟩,
  ⟨0x2902, 0x2902, 0x0, 0x0, .uint 4, .rw, 2, 1, 4096, 4, .yes, []⟩,
  ⟨0x2903, 0x2903, 0x0, 0x0, .uint 4, .rw, 2, 256, 16384, 1024, .yes, []⟩,
  ⟨0x2904, 0x2904, 0x0, 0x0, .uint 4, .rw, 2, 4, 256, 64, .yes, []⟩,
  ⟨0x2905, 0x2905, 0x0, 0x0, .uint 1, .rw, 2, 0, 16, 0, .yes, []⟩,
  ⟨0x2906, 0x2906, 0x0, 0x0, .uint 1, .rw, 2, 0, 8, 0, .yes, []⟩,
  ⟨0x2907, 0x2907, 0x0, 0x0, .uint 4, .rw, 2, 8, 1024, 32, .yes, []⟩,
  ⟨0x2908, 0x2908, 0x0, 0x0, .uint 2, .rw, 2, 0, 65535, 0, .yes, []⟩,
  ⟨0x2909, 0x2909, 0x0, 0x0, .uint 4, .rw, 2, 0, 65535, 0, .yes, []⟩,
  ⟨0x2910, 0x2910, 0x5, 0x10, .uint 1, .rw, 1, 0, 1, 1, .yes, []⟩,
  ⟨0x2910, 0x2910, 0x11, 0x11, .uint 1, .rw, 1, 2, 2, 2, .yes, []⟩,
  ⟨0x2911, 0x2911, 0x0, 0x0, .uint 4, .rw, 1, 1, 256, 2, .yes, []⟩]

/-- Entry table rows: Keep-alive address, Wake on link energy, Sleep status, Ring status, Sleep counters, Stay awake, Recorder enable, Source snapshot list. -/
def objRows13 : List Obj := [
  ⟨0x2912, 0x2912, 0x0, 0x0, .uint 6, .rw, 2, 0, 281474976710655, 4037168605440, .yes, []⟩,
  ⟨0x2913, 0x2913, 0x5, 0x11, .bool, .rw, 1, 0, 1, 1, .yes, []⟩,
  ⟨0x2920, 0x2920, 0x0, 0x0, .uint 4, .ro, 0, 0, 4294967295, 0, .no, []⟩,
  ⟨0x2921, 0x2921, 0x0, 0x0, .uint 4, .ro, 0, 0, 4294967295, 0, .no, []⟩,
  ⟨0x2922, 0x2922, 0x1, 0x9, .uint 4, .ro, 0, 0, 4294967295, 0, .no, []⟩,
  ⟨0x2923, 0x2923, 0x0, 0x0, .uint 1, .wo, 1, 1, 1, 0, .no, []⟩,
  ⟨0x2a01, 0x2a01, 0x0, 0x0, .bool, .rw, 2, 0, 1, 1, .yes, []⟩,
  ⟨0x2a02, 0x2a02, 0x1, 0x1, .uint 1, .rw, 2, 0, 32, 1, .yes, []⟩,
  ⟨0x2a02, 0x2a02, 0x2, 0x2, .uint 1, .rw, 2, 33, 33, 33, .yes, []⟩,
  ⟨0x2a02, 0x2a02, 0x3, 0x6, .uint 1, .rw, 2, 0, 32, 2, .yes, []⟩,
  ⟨0x2a02, 0x2a02, 0x7, 0x7, .uint 1, .rw, 2, 0, 32, 3, .yes, []⟩,
  ⟨0x2a02, 0x2a02, 0x8, 0x9, .uint 1, .rw, 2, 0, 32, 4, .yes, []⟩,
  ⟨0x2a02, 0x2a02, 0xa, 0xb, .uint 1, .rw, 2, 0, 32, 3, .yes, []⟩,
  ⟨0x2a02, 0x2a02, 0xc, 0xf, .uint 1, .rw, 2, 0, 32, 5, .yes, []⟩,
  ⟨0x2a02, 0x2a02, 0x10, 0x11, .uint 1, .rw, 2, 0, 32, 6, .yes, []⟩,
  ⟨0x2a02, 0x2a02, 0x12, 0x13, .uint 1, .rw, 2, 0, 32, 7, .yes, []⟩,
  ⟨0x2a02, 0x2a02, 0x14, 0x17, .uint 1, .rw, 2, 0, 32, 8, .yes, []⟩,
  ⟨0x2a02, 0x2a02, 0x18, 0x1a, .uint 1, .rw, 2, 0, 32, 9, .yes, []⟩]

/-- Entry table rows: Source snapshot list, Train-line source severity, Train-line source enable, Last-words delay, Interrupt severity, Software trigger, Clear, Cursor, Entry at cursor, Recorder status, Recorder counters, Operating time. -/
def objRows14 : List Obj := [
  ⟨0x2a02, 0x2a02, 0x1b, 0x1c, .uint 1, .rw, 2, 0, 32, 10, .yes, []⟩,
  ⟨0x2a02, 0x2a02, 0x1d, 0x1d, .uint 1, .rw, 2, 0, 32, 8, .yes, []⟩,
  ⟨0x2a02, 0x2a02, 0x1e, 0x1e, .uint 1, .rw, 2, 0, 32, 11, .yes, []⟩,
  ⟨0x2a02, 0x2a02, 0x1f, 0x1f, .uint 1, .rw, 2, 0, 32, 10, .yes, []⟩,
  ⟨0x2a02, 0x2a02, 0x20, 0x28, .uint 1, .rw, 2, 0, 32, 0, .yes, []⟩,
  ⟨0x2a02, 0x2a02, 0x29, 0x38, .uint 1, .rw, 2, 0, 32, 12, .yes, []⟩,
  ⟨0x2a02, 0x2a02, 0x39, 0x40, .uint 1, .rw, 2, 0, 32, 0, .yes, []⟩,
  ⟨0x2a03, 0x2a03, 0x29, 0x38, .uint 1, .rw, 2, 0, 7, 3, .yes, []⟩,
  ⟨0x2a04, 0x2a04, 0x29, 0x38, .bool, .rw, 2, 0, 1, 0, .yes, []⟩,
  ⟨0x2a05, 0x2a05, 0x0, 0x0, .uint 4, .rw, 2, 1, 16, 8, .yes, []⟩,
  ⟨0x2a06, 0x2a06, 0x0, 0x0, .uint 1, .rw, 1, 0, 7, 4, .yes, []⟩,
  ⟨0x2a10, 0x2a10, 0x0, 0x0, .oct 10, .wo, 1, 0, 0, 0, .no, []⟩,
  ⟨0x2a20, 0x2a20, 0x0, 0x0, .uint 1, .wo, 2, 0, 7, 0, .no, []⟩,
  ⟨0x2a21, 0x2a21, 0x0, 0x0, .uint 4, .rw, 0, 0, 4294967295, 0, .no, []⟩,
  ⟨0x2a22, 0x2a22, 0x0, 0x0, .dom 65536, .ro, 0, 0, 0, 0, .no, []⟩,
  ⟨0x2a23, 0x2a23, 0x0, 0x0, .uint 4, .ro, 0, 0, 4294967295, 0, .no, []⟩,
  ⟨0x2a24, 0x2a24, 0x1, 0x7, .uint 4, .ro, 0, 0, 4294967295, 0, .no, []⟩,
  ⟨0x2a25, 0x2a25, 0x0, 0x0, .uint 8, .ro, 0, 0, 18446744073709551615, 0, .no, []⟩]

/-- Entry table rows: Power-cycle count, Snapshot lists 1–32, Input enable, Nominal voltage, Debounce, Threshold loop mode, High fraction, Low fraction, Fixed high threshold, Fixed low threshold, Input invert, Output mode, Output safe state, Follow input mask, Follow function, On delay, Off delay, Trip time. -/
def objRows15 : List Obj := [
  ⟨0x2a26, 0x2a26, 0x0, 0x0, .uint 4, .ro, 0, 0, 4294967295, 0, .no, []⟩,
  ⟨0x2a40, 0x2a5f, 0x0, 0x0, .dom 1024, .rw, 2, 0, 0, 0, .yes, []⟩,
  ⟨0x2b01, 0x2b01, 0x1, 0x10, .bool, .rw, 1, 0, 1, 1, .yes, []⟩,
  ⟨0x2b02, 0x2b02, 0x1, 0x10, .uint 1, .rw, 2, 0, 255, 110, .yes, [24, 36, 48, 72, 96, 110]⟩,
  ⟨0x2b03, 0x2b03, 0x1, 0x10, .uint 4, .rw, 1, 16, 65535, 2048, .yes, []⟩,
  ⟨0x2b04, 0x2b04, 0x1, 0x10, .uint 1, .rw, 2, 0, 2, 0, .yes, []⟩,
  ⟨0x2b05, 0x2b05, 0x1, 0x10, .uint 1, .rw, 2, 50, 90, 60, .yes, []⟩,
  ⟨0x2b06, 0x2b06, 0x1, 0x10, .uint 1, .rw, 2, 10, 50, 40, .yes, []⟩,
  ⟨0x2b07, 0x2b07, 0x1, 0x10, .uint 2, .rw, 2, 0, 64000, 0, .yes, []⟩,
  ⟨0x2b08, 0x2b08, 0x1, 0x10, .uint 2, .rw, 2, 0, 64000, 0, .yes, []⟩,
  ⟨0x2b09, 0x2b09, 0x1, 0x10, .bool, .rw, 1, 0, 1, 0, .yes, []⟩,
  ⟨0x2b10, 0x2b10, 0x1, 0x8, .uint 1, .rw, 1, 0, 2, 1, .yes, []⟩,
  ⟨0x2b11, 0x2b11, 0x1, 0x8, .uint 1, .rw, 2, 0, 2, 0, .yes, []⟩,
  ⟨0x2b12, 0x2b12, 0x1, 0x8, .uint 2, .rw, 1, 0, 65535, 0, .yes, []⟩,
  ⟨0x2b13, 0x2b13, 0x1, 0x8, .uint 1, .rw, 1, 0, 3, 0, .yes, []⟩,
  ⟨0x2b14, 0x2b14, 0x1, 0x8, .uint 4, .rw, 1, 0, 4096, 0, .yes, []⟩,
  ⟨0x2b15, 0x2b15, 0x1, 0x8, .uint 4, .rw, 1, 0, 4096, 0, .yes, []⟩,
  ⟨0x2b16, 0x2b16, 0x1, 0x8, .uint 4, .rw, 2, 1, 63, 8, .yes, []⟩]

/-- Entry table rows: Retry interval, Open-load threshold, Output command, Coupler close resistance, Coupler open resistance, Train-line status, Input level, Output status, Train-line counters, Cluster enable, Function ownership, Application public key, Firmware image, inactive slot, Activate inactive slot, Security status, MACsec mode, CAK and CKN, MKA hello time. -/
def objRows16 : List Obj := [
  ⟨0x2b17, 0x2b17, 0x1, 0x8, .uint 4, .rw, 2, 0, 15, 1, .yes, []⟩,
  ⟨0x2b18, 0x2b18, 0x1, 0x8, .uint 1, .rw, 2, 1, 100, 5, .yes, []⟩,
  ⟨0x2b20, 0x2b20, 0x0, 0x0, .uint 1, .rw, 1, 0, 255, 0, .no, []⟩,
  ⟨0x2b21, 0x2b21, 0x0, 0x0, .uint 2, .rw, 2, 100, 2000, 500, .yes, []⟩,
  ⟨0x2b22, 0x2b22, 0x0, 0x0, .uint 2, .rw, 2, 3000, 20000, 5000, .yes, []⟩,
  ⟨0x2b30, 0x2b30, 0x0, 0x0, .uint 4, .ro, 0, 0, 4294967295, 0, .no, []⟩,
  ⟨0x2b31, 0x2b31, 0x1, 0x10, .uint 2, .ro, 0, 0, 65535, 0, .no, []⟩,
  ⟨0x2b32, 0x2b32, 0x1, 0x8, .uint 4, .ro, 0, 0, 4294967295, 0, .no, []⟩,
  ⟨0x2b33, 0x2b33, 0x1, 0x8, .uint 4, .ro, 0, 0, 4294967295, 0, .no, []⟩,
  ⟨0x2c01, 0x2c01, 0x0, 0x0, .bool, .rw, 2, 0, 1, 1, .yes, []⟩,
  ⟨0x2c02, 0x2c02, 0x0, 0x0, .uint 1, .rw, 2, 0, 63, 0, .yes, []⟩,
  ⟨0x2c10, 0x2c10, 0x0, 0x0, .oct 97, .wo, 3, 0, 0, 0, .nextReset, []⟩,
  ⟨0x2c20, 0x2c20, 0x0, 0x0, .dom 67108864, .wo, 2, 0, 0, 0, .no, []⟩,
  ⟨0x2c21, 0x2c21, 0x0, 0x0, .uint 1, .wo, 2, 1, 1, 0, .nextReset, []⟩,
  ⟨0x2c22, 0x2c22, 0x0, 0x0, .uint 4, .ro, 0, 0, 4294967295, 0, .no, []⟩,
  ⟨0x2c30, 0x2c30, 0x1, 0x4, .uint 1, .rw, 2, 0, 2, 0, .yes, []⟩,
  ⟨0x2c31, 0x2c31, 0x1, 0x4, .dom 64, .wo, 2, 0, 0, 0, .no, []⟩,
  ⟨0x2c32, 0x2c32, 0x0, 0x0, .uint 4, .rw, 2, 64, 2048, 512, .yes, []⟩]

/-- Entry table rows: Rekey interval, Replay window, Pair status, Pair fault count, Nominal voltage, Sag threshold, Sag hysteresis, Domain enables, Plane out of service, Loop mode, Occupancy target, Loop lower limit, Supply status, Bus and bank voltage, Case temperature, Input power, Domain status, Domain faults. -/
def objRows17 : List Obj := [
  ⟨0x2c33, 0x2c33, 0x0, 0x0, .uint 4, .rw, 2, 16, 65535, 1024, .yes, []⟩,
  ⟨0x2c34, 0x2c34, 0x1, 0x4, .uint 1, .rw, 2, 0, 255, 64, .yes, []⟩,
  ⟨0x2c35, 0x2c35, 0x0, 0x0, .uint 1, .ro, 0, 0, 255, 0, .no, []⟩,
  ⟨0x2c36, 0x2c36, 0x0, 0x0, .uint 4, .ro, 0, 0, 4294967295, 0, .no, []⟩,
  ⟨0x2101, 0x2101, 0x0, 0x0, .uint 1, .rw, 2, 0, 255, 110, .yes, [24, 36, 48, 72, 96, 110]⟩,
  ⟨0x2102, 0x2102, 0x0, 0x0, .uint 1, .rw, 2, 50, 80, 60, .yes, []⟩,
  ⟨0x2103, 0x2103, 0x0, 0x0, .uint 1, .rw, 2, 2, 15, 5, .yes, []⟩,
  ⟨0x2104, 0x2104, 0x0, 0x0, .uint 2, .rw, 2, 0, 65535, 7552, .yes, []⟩,
  ⟨0x2105, 0x2105, 0x0, 0x0, .uint 1, .rw, 2, 0, 3, 0, .yes, []⟩,
  ⟨0x2110, 0x2110, 0x1, 0x8, .uint 1, .rw, 2, 0, 2, 0, .yes, []⟩,
  ⟨0x2111, 0x2111, 0x1, 0x8, .uint 1, .rw, 2, 10, 50, 25, .yes, []⟩,
  ⟨0x2112, 0x2112, 0x1, 0x8, .uint 2, .rw, 2, 620, 800, 620, .yes, []⟩,
  ⟨0x2120, 0x2120, 0x0, 0x0, .uint 4, .ro, 0, 0, 4294967295, 0, .no, []⟩,
  ⟨0x2121, 0x2121, 0x0, 0x0, .uint 4, .ro, 0, 0, 4294967295, 0, .no, []⟩,
  ⟨0x2122, 0x2122, 0x0, 0x0, .int 2, .ro, 0, -32768, 32767, 0, .no, []⟩,
  ⟨0x2123, 0x2123, 0x0, 0x0, .uint 2, .ro, 0, 0, 65535, 0, .no, []⟩,
  ⟨0x2124, 0x2124, 0x0, 0x0, .uint 4, .ro, 0, 0, 4294967295, 0, .no, []⟩,
  ⟨0x2125, 0x2125, 0x0, 0x0, .uint 4, .ro, 0, 0, 4294967295, 0, .no, []⟩]

/-- Entry table rows: Loop status, Power counters, Exit request, Node reset, Host hold time, FAULT recovery delay, Recorder drain limit, Reset cause, Hot-plug status, Hot-plug counters. -/
def objRows18 : List Obj := [
  ⟨0x2126, 0x2126, 0x1, 0x8, .uint 4, .ro, 0, 0, 4294967295, 0, .no, []⟩,
  ⟨0x2130, 0x2130, 0x1, 0x4, .uint 4, .ro, 0, 0, 4294967295, 0, .no, []⟩,
  ⟨0x2140, 0x2140, 0x0, 0x0, .uint 1, .wo, 2, 1, 1, 0, .no, []⟩,
  ⟨0x2141, 0x2141, 0x0, 0x0, .uint 1, .wo, 2, 1, 1, 0, .no, []⟩,
  ⟨0x2142, 0x2142, 0x0, 0x0, .uint 4, .rw, 2, 0, 1024, 64, .yes, []⟩,
  ⟨0x2143, 0x2143, 0x0, 0x0, .uint 4, .rw, 2, 0, 4096, 16, .yes, []⟩,
  ⟨0x2144, 0x2144, 0x0, 0x0, .uint 4, .rw, 2, 8, 256, 64, .yes, []⟩,
  ⟨0x2145, 0x2145, 0x0, 0x0, .uint 4, .ro, 0, 0, 4294967295, 0, .no, []⟩,
  ⟨0x2146, 0x2146, 0x0, 0x0, .uint 4, .ro, 0, 0, 4294967295, 0, .no, []⟩,
  ⟨0x2147, 0x2147, 0x1, 0x3, .uint 4, .ro, 0, 0, 4294967295, 0, .no, []⟩]

/-- RWT register fields that no object mirrors, at index numbers beyond 16 bits: TLN_CTRL.IN_ENABLE, TLN_CTRL.OUT_ENABLE, LINK_CTRL.ENABLE, MAC_CTRL.TX_ENABLE, MAC_CTRL.RX_ENABLE, DUP_CTRL.ENABLE, PTP_PORT_CTRL.TWO_STEP_TX, PAUSE_CTRL.TX_TIME of ports 0 to 3. -/
def objRowsRegisterOnly : List Obj := [
  ⟨0x10010, 0x10010, 0x1, 0x1, .bool, .rw, 0, 0, 1, 1, .yes, []⟩,
  ⟨0x10010, 0x10010, 0x2, 0x2, .bool, .rw, 0, 0, 1, 1, .yes, []⟩,
  ⟨0x10011, 0x10011, 0x1, 0x11, .bool, .rw, 0, 0, 1, 1, .yes, []⟩,
  ⟨0x10012, 0x10012, 0x1, 0x11, .bool, .rw, 0, 0, 1, 1, .yes, []⟩,
  ⟨0x10013, 0x10013, 0x1, 0x11, .bool, .rw, 0, 0, 1, 1, .yes, []⟩,
  ⟨0x10014, 0x10014, 0x1, 0x1, .bool, .rw, 0, 0, 1, 1, .yes, []⟩,
  ⟨0x10015, 0x10015, 0x5, 0x11, .bool, .rw, 0, 0, 1, 0, .yes, []⟩,
  ⟨0x10016, 0x10016, 0x1, 0x4, .uint 2, .rw, 0, 256, 65535, 65535, .yes, []⟩]

/-- Every row of the entry tables. -/
def objRows : List Obj :=
  objRowsCan2 ++ objRows0 ++ objRows1 ++ objRows2 ++ objRows3 ++ objRows4 ++ objRows5 ++ objRows6 ++ objRows7 ++ objRows8 ++ objRows9 ++ objRows10 ++ objRows11 ++ objRows12 ++ objRows13 ++ objRows14 ++ objRows15 ++ objRows16 ++ objRows17 ++ objRows18 ++ objRowsRegisterOnly

/-- The key of an object: index × 256 + sub-index. -/
def key (idx sub : Nat) : Nat := idx * 256 + sub

/-- Row r defines the object (idx, sub). -/
def Obj.covers (r : Obj) (idx sub : Nat) : Bool :=
  decide (r.idxLo ≤ idx ∧ idx ≤ r.idxHi ∧ r.subLo ≤ sub ∧ sub ≤ r.subHi)

/-- The row of an object, where it exists (R315). -/
def objRow (idx sub : Nat) : Option Obj := objRows.find? (fun r => r.covers idx sub)

/-- The row of a key. -/
def keyRow (k : Nat) : Option Obj := objRow (k / 256) (k % 256)

/-- The index exists (R315); the vendor range 0x5000 to 0x5FFF is not documented and holds nothing here (log 30). -/
def indexExists (idx : Nat) : Bool :=
  decide (idx < 0x10000) && objRows.any (fun r => decide (r.idxLo ≤ idx ∧ idx ≤ r.idxHi))

/-- The highest sub-index in use at an index (R288). -/
def highestSub (idx : Nat) : Nat :=
  objRows.foldl (fun m r => if r.idxLo ≤ idx ∧ idx ≤ r.idxHi then max m r.subHi else m) 0

/-- An index is a simple variable: sub-index 0 only (R288). -/
def isSimple (idx : Nat) : Bool := objRows.any (fun r => decide (r.idxLo ≤ idx ∧ idx ≤ r.idxHi ∧ r.subLo = 0))

/-- The size of a type in bytes; 0 for a DOMAIN or string, whose length varies (Table 11.1). -/
def Ty.size : Ty → Nat
  | .bool => 1
  | .uint n => n
  | .int n => n
  | .oct n => n
  | .str => 0
  | .dom _ => 0

/-- A scalar type (R311). -/
def Ty.isScalar : Ty → Bool
  | .bool => true
  | .uint _ => true
  | .int _ => true
  | _ => false

/-- The default of a row (R302): a scalar's bit pattern, or the empty byte string. -/
def Obj.default (r : Obj) : Val := if r.ty.isScalar then .num r.dflt else .bytes []

/-- A value as a number (a byte string counts 0). -/
def valNum : Val → Nat
  | .num n => n
  | .bytes _ => 0

/-- A value as a byte string (a number counts as empty). -/
def valBytes : Val → List Byte
  | .num _ => []
  | .bytes l => l

/-- The applied value of a key: as applied last, or its default (R289, R302). -/
def valOf (s : State) (k : Nat) : Val :=
  match tfind s.od.applied k with
  | some v => v
  | none => ((keyRow k).map Obj.default).getD (.num 0)

/-- The applied number of the object (idx, sub). -/
def cfg (s : State) (idx sub : Nat) : Nat := valNum (valOf s (key idx sub))

/-- The applied number of the object as a truth value. -/
def cfgOn (s : State) (idx sub : Nat) : Bool := cfg s idx sub != 0

/-- The applied number of an INTEGER object, signed. -/
def cfgInt (s : State) (idx sub : Nat) : Int :=
  let n := cfg s idx sub
  match objRow idx sub with
  | some r => match r.ty with
    | .int k => if n < 2 ^ (8 * k - 1) then n else (n : Int) - 2 ^ (8 * k)
    | _ => n
  | none => n

/-- Applied values change for a list of keys, all in one step (R325). -/
def applyVals (l : Tab Val) (s : State) : State :=
  { s with od.applied := l.foldl (fun t kv => tset t kv.1 kv.2) s.od.applied }

end Sys2Proof.Machine
end

