-- ==== Sys2Proof/Machine/Status.lean ====
section
/-!
DEFINITION. Machine/Status.lean: the conditions and status words of the backbone, the planes, the MACs, the gates,
inauguration, time, the splice bridge, the check unit and the process-data bridge (chapters 1 to 10).
-/
namespace Sys2Proof.Machine

/-! ### Domains (R448) -/

/-- The index a domain has in PwrSt.dom, which is its DOM_FAULT bit. -/
def domIx : Dom → Nat
  | .d0 => 0 | .d1 => 1 | .d2 => 2 | .d3 => 3 | .d4 => 4 | .d5 => 5 | .d6 => 6 | .d7 => 7 | .d8 => 8
  | .d9a => 16 | .d9b => 17 | .d10 => 10 | .d11 => 11 | .d12 => 12

/-- The number that names a domain in EVENT_DATA (Table 14.2): a D9 sub-rail counts as domain 9. -/
def domNumber : Dom → Nat
  | .d9a => 9
  | .d9b => 9
  | d => domIx d

/-- A domain's state. -/
def domSt (s : State) (d : Dom) : DomSt := tget s.pwr.dom (domIx d) {}

/-- A domain is on. -/
def domOn (s : State) (d : Dom) : Bool := (domSt s d).on

/-! ### Ports and lines (R40, R71) -/

/-- The line of a backbone port (Table 2.1). -/
def lineOf (p : Nat) : Line := if p < 2 then .a else .b

/-- The backbone ports of a line. -/
def portsOf : Line → List Nat
  | .a => [0, 1]
  | .b => [2, 3]

/-- The other line. -/
def other : Line → Line
  | .a => .b
  | .b => .a

/-- A line's number: 0 A, 1 B. -/
def lineIx : Line → Nat
  | .a => 0
  | .b => 1

/-- The coupler end of a backbone port (Table 2.1). -/
def endOf (p : Nat) : End := if p % 2 = 0 then .fore else .aft

/-- The backbone ports of an end: line A, line B. -/
def portsAt : End → List Nat
  | .fore => [0, 2]
  | .aft => [1, 3]

def linkSt (s : State) (p : Nat) : LinkSt := tget s.bb.links p {}
def setLink (p : Nat) (x : LinkSt) (s : State) : State := { s with bb.links := tset s.bb.links p x }
def lineSt (s : State) : Line → LineSt
  | .a => s.bb.a
  | .b => s.bb.b
def setLine (l : Line) (x : LineSt) (s : State) : State :=
  match l with
  | .a => { s with bb.a := x }
  | .b => { s with bb.b := x }
def macSt (s : State) (p : Nat) : MacSt := tget s.net.macs p {}
def setMac (p : Nat) (x : MacSt) (s : State) : State := { s with net.macs := tset s.net.macs p x }
def schedSt (s : State) (p : Nat) : SchedSt := tget s.net.sched p {}
def setSched (p : Nat) (x : SchedSt) (s : State) : State := { s with net.sched := tset s.net.sched p x }
def nbSt (s : State) (p : Nat) : NbSt := tget s.ina.nbs p {}
def setNb (p : Nat) (x : NbSt) (s : State) : State := { s with ina.nbs := tset s.ina.nbs p x }
def ptpSt (s : State) (p : Nat) : PtpSt := tget s.tim.ptp p {}
def setPtp (p : Nat) (x : PtpSt) (s : State) : State := { s with tim.ptp := tset s.tim.ptp p x }

/-- The address of offset o in the PRT/MAC block of port p (R39). -/
def prt (p o : Nat) : Nat := 0x10000 + 0x1000 * p + o

/-- The port is UP, standard or extended. -/
def portUp (s : State) (p : Nat) : Bool := (linkSt s p).st = .upStd || (linkSt s p).st = .upExt

/-- The PHY domain of a port (Table 2.1, Table 1.4). -/
def phyDom (p : Nat) : Dom := if p < 2 then .d5 else if p < 4 then .d6 else .d7

/-- The plane domain, PHY domain and sub-rail of a line are all on (R33). -/
def planeComplete (s : State) : Line → Bool
  | .a => domOn s .d3 && domOn s .d5 && domOn s .d9a
  | .b => domOn s .d4 && domOn s .d6 && domOn s .d9b

/-- The logical state of coupler-sense channel c, from 0 (R79). -/
def sensed (s : State) (c : Nat) : Bool := (tget s.tln.cs c {}).logical

/-- The code of a coupler end's state (Table 3.2). -/
def endCode (s : State) (e : End) : Nat :=
  let c := match e with
    | .fore => 0
    | .aft => 2
  match sensed s c, sensed s (c + 1) with
  | false, false => 0
  | true, false => 1
  | true, true => 2
  | false, true => 3

/-- The end counts as mated under R72 (Table 3.2). -/
def endMated (s : State) (e : End) : Bool := 2 ≤ endCode s e

/-- The line state that Table 2.12 gives now: a released relay is BYPASSED. -/
def lineCode (s : State) (l : Line) : Nat :=
  if !(lineSt s l).energised then 3
  else if !planeComplete s l then 2
  else if (portsOf l).all (fun p => !endMated s (endOf p) || portUp s p) then 0 else 1

/-- A line is neither BROKEN nor LOST (R58). -/
def linePasses (s : State) (l : Line) : Bool := (lineSt s l).code = 0 || (lineSt s l).code = 3

/-- A line is energised. -/
def lineEnergised (s : State) (l : Line) : Bool := (lineSt s l).energised

/-- A line is BROKEN or LOST (0x1001 bit 4). -/
def lineNotWhole (s : State) : Bool := s.bb.a.code = 1 || s.bb.a.code = 2 || s.bb.b.code = 1 || s.bb.b.code = 2

/-- LINE_STATUS (Table 2.13). -/
def lineStatusWord (s : State) : Word := fieldAt 4 4 s.bb.b.code ||| fieldAt 0 4 s.bb.a.code

/-- A relay sequence runs (Table 2.14). -/
def seqBusy (s : State) : Bool := s.bb.seq ≠ .none || !s.bb.deferred.isEmpty || s.bb.a.single || s.bb.b.single

/-- RELAY_STATUS (Table 2.14). -/
def relayStatusWord (s : State) : Word :=
  flagAt 15 (seqBusy s) ||| flagAt 14 s.bb.relDone ||| flagAt 11 s.bb.b.contactFault ||| flagAt 10 s.bb.b.coilFault
    ||| flagAt 9 s.bb.a.contactFault ||| flagAt 8 s.bb.a.coilFault ||| flagAt 5 s.bb.b.loopOk ||| flagAt 4 s.bb.a.loopOk
    ||| flagAt 1 s.bb.b.energised ||| flagAt 0 s.bb.a.energised

/-- The code of a port state (R50). -/
def portCode : PortState → Nat
  | .down => 0 | .bypassed => 1 | .training => 2 | .upStd => 3 | .upExt => 4

/-- LINK_STATUS (Table 2.8). -/
def linkStatusWord (s : State) (p : Nat) : Word :=
  let k := linkSt s p
  fieldAt 24 8 k.cause ||| flagAt 17 k.marginLow ||| flagAt 16 (k.native && decide (p < 4))
    ||| fieldAt 8 4 (if portUp s p then k.mode else 0) ||| fieldAt 0 3 (portCode k.st)

/-- EQ_STATUS (Table 2.8). -/
def eqStatusWord (s : State) (p : Nat) : Word :=
  let k := linkSt s p
  flagAt 31 k.saturated ||| fieldAt 8 8 (k.marginMin.getD 0) ||| fieldAt 0 8 k.marginNow

/-- The value in force of a link parameter of port p: line B keeps its old one until R60 releases it. -/
def linkCfg (s : State) (idx p : Nat) : Nat :=
  match tfind s.bb.bOld (key idx (p + 1)) with
  | some v => valNum v
  | none => cfg s idx (p + 1)

/-- The mode mask of a port: 0x2201 or 0x2217 (R43, R116). -/
def modeMask (s : State) (p : Nat) : Nat := if p < 4 then linkCfg s 0x2201 p else cfg s 0x2217 (p + 1)

/-- The mask allows a mode (Tables 2.7, 4.8): extended reach needs bit 5 and bit 4. -/
def maskAllows (p mask mode : Nat) (ext : Bool) : Bool :=
  if p < 4 then
    (match mode with
     | 1 => mask.testBit 4 && (!ext || mask.testBit 5)
     | 2 => mask.testBit 3
     | 3 => mask.testBit 2
     | 4 => mask.testBit 1
     | 5 => mask.testBit 0
     | _ => false)
  else
    (match mode with
     | 6 => mask.testBit 2
     | 7 => mask.testBit 1
     | 5 => mask.testBit 0
     | _ => false)

/-- A bit time of a mode, in tenths of a nanosecond (Tables 2.2, 4.2). -/
def bitTime (mode : Nat) : Nat :=
  match mode with
  | 1 => 1
  | 2 => 2
  | 3 => 4
  | 6 => 4
  | 4 => 10
  | 7 => 10
  | _ => 100

/-- Ticks that n octets take on a port, rounded up. -/
def octetTicks (s : State) (p n : Nat) : Nat := (n * 8 * bitTime (linkSt s p).mode + 9) / 10

/-! ### The duplicator (R73) -/

/-- DUP_CTRL.ENABLE. -/
def dupEnabled (s : State) : Bool := cfgOn s 0x10014 1

/-- DUP_STATUS. Which table SRC_TABLE_FULL means is not stated; DESIGN CHOICE: the transmit counters of R63, all 4,096 in use
(log 147). -/
def dupStatusWord (s : State) : Word := flagAt 8 (4096 ≤ s.net.tx.length) ||| flagAt 0 s.net.dupDrained

/-- The line that frames sent on one line take: the preferred one, or the other while that is not WHOLE (R61). -/
def sendLine (s : State) : Line :=
  let l := if cfgOn s 0x2302 0 then Line.b else .a
  if (lineSt s l).code = 0 then l else other l

/-! ### MAC status (Table 4.7) -/

/-- The pause timer in quanta of 512 bit times. -/
def pauseRemain (s : State) (p : Nat) : Nat :=
  match (macSt s p).pauseUntil with
  | some u => (u - s.up) * 10 / (512 * bitTime (linkSt s p).mode)
  | none => 0

/-- The perfs for which transmission has been held by the pause that runs, not yet in TX_PAUSED_TIME. -/
def heldPerfs (s : State) (p : Nat) : Nat :=
  match (macSt s p).heldFrom with
  | some t => (s.up - t) / pf
  | none => 0

/-- Transmission is held by pause now. -/
def paused (s : State) (p : Nat) : Bool :=
  match (macSt s p).pauseUntil with
  | some u => decide (s.up < u)
  | none => false

/-- MAC_STATUS. -/
def macStatusWord (s : State) (p : Nat) : Word :=
  let m := macSt s p
  fieldAt 16 16 (pauseRemain s p) ||| flagAt 9 m.rxDrained ||| flagAt 8 m.txDrained ||| flagAt 5 m.xoffAt.isSome
    ||| flagAt 4 (paused s p) ||| flagAt 3 m.ignoreUntil.isSome

/-- TX_PAUSED_TIME of a port now: what is counted, and a pause that runs. -/
def pausedTime (s : State) (p : Nat) : Word := tget s.reg (prt p 0x1C4) 0 + word (heldPerfs s p)

/-- HALF_STATUS_HI of a port, with the half-range event that a running pause has brought TX_PAUSED_TIME, counter 49, past (R130, R132). -/
def halfHiNow (s : State) (p : Nat) : Word :=
  let m := macSt s p
  if p < 17 && bitOf (pausedTime s p) 31 != bitOf (tget s.reg (prt p 0x1C4) 0) 31 then putBit m.halfHi 17 true else m.halfHi

/-- HALF_PORTS (R132). -/
def halfPortsWord (s : State) : Word :=
  (List.range 20).foldl (fun w p =>
    let m := macSt s p
    if m.halfLo &&& m.maskLo != 0 || halfHiNow s p &&& m.maskHi != 0 then w ||| word (2 ^ p) else w) 0

/-- The frames queued in queue q of port p. -/
def queueOf (s : State) (p q : Nat) : List QFrame := tget (macSt s p).queues q []

/-- Bytes queued in queue q of port p. -/
def queueDepth (s : State) (p q : Nat) : Nat := ((queueOf s p q).map (·.frame.len)).sum

/-! ### Gates (R148 to R152) -/

/-- The place of an instant in a list's cycle, in ticks (R150). -/
def cyclePos (g : GateList) (t : Nat) : Nat :=
  (((t : Int) - (g.base.toNat : Int)) % ((max g.cycle 1 * pf : Nat) : Int)).toNat

/-- The entry at place `pos` (ticks): its index, gates, and start and end; the last one lasts to the cycle's end. -/
def entryAt (cycleEnd : Nat) : List (BitVec 8 × Nat) → Nat → Nat → Nat → Nat × BitVec 8 × Nat × Nat
  | [], _, i, start => (i, 0xFF, start, cycleEnd)
  | [(g, _)], _, i, start => (i, g, start, cycleEnd)
  | (g, n) :: r, pos, i, start =>
    if pos < start + n * pf then (i, g, start, start + n * pf) else entryAt cycleEnd r pos (i + 1) (start + n * pf)

/-- The operational entry of port p at an instant: index, gates, and the instant the next entry starts. -/
def gateNow (s : State) (p t : Nat) : Nat × BitVec 8 × Nat :=
  let g := (schedSt s p).oper
  let pos := cyclePos g t
  let (i, gates, _, fin) := entryAt (max g.cycle 1 * pf) g.entries pos 0 0
  (i, gates, t + (fin - pos))

/-- The applied scheduling of a mode in a verification state, with an empty list or not: 0 STRICT, 1 INSERT, 2 SHUTTER (Table 5.5). -/
def appliedMode (mode ver : Nat) (empty : Bool) : Nat :=
  let active := ver = 0 || ver = 3
  let shutter := if empty then 0 else 2
  match mode with
  | 0 => if active then 1 else shutter
  | 1 => shutter
  | _ => if active then 1 else 0

/-- The applied scheduling of port p (R152). -/
def schedMode (s : State) (p : Nat) : Nat := appliedMode (cfg s 0x2501 (p + 1)) (schedSt s p).ver (schedSt s p).oper.entries.isEmpty

/-- SCHED_STATUS (Table 5.8). -/
def schedStatusWord (s : State) (p : Nat) : Word :=
  let (i, gates, _) := gateNow s p s.now.toNat
  fieldAt 24 8 gates.toNat ||| fieldAt 16 8 i ||| flagAt 12 (schedSt s p).next.isSome
    ||| fieldAt 8 3 (schedSt s p).ver ||| fieldAt 4 2 (schedMode s p)

/-- SCH_PENDING. -/
def schPendingWord (s : State) : Word :=
  (List.range 17).foldl (fun w p => if (schedSt s p).next.isSome then w ||| word (2 ^ p) else w) 0

/-! ### Inauguration (R113) -/

/-- The active CSC, 0 for none. -/
def activeCsc (s : State) : Word := (s.ina.sheet.map (·.csc)).getD 0

/-- The UIDs of the active Call Sheet in position order. -/
def callSheetUids (s : State) : List Uid := ((s.ina.sheet.map (·.entries)).getD []).map (·.uid)

/-- N of the active Call Sheet. -/
def callSheetLen (s : State) : Nat := (callSheetUids s).length

/-- The position of a UID in a list of UIDs, from 1; 0 where it is absent. -/
def positionIn : List Uid → Uid → Nat
  | [], _ => 0
  | x :: r, u => if x = u then 1 else (match positionIn r u with
    | 0 => 0
    | n => n + 1)

/-- Own position in the active Call Sheet. -/
def ownPosition (s : State) : Nat := positionIn (callSheetUids s) s.uid

/-- A UID is a member of the active Call Sheet. -/
def isMemberUid (s : State) (u : Uid) : Bool := (callSheetUids s).contains u

/-- An entry of the image (Table 3.7). -/
def sheetEntryBytes (e : SheetEntry) (pos : Nat) : List Byte :=
  let b (i : Nat) (x : Bool) := if x then 2 ^ i else 0
  beBytes 6 e.uid.toNat ++ beBytes 1 pos ++ beBytes 1 e.consist ++ beBytes 1 e.consistPos
    ++ beBytes 1 (b 7 e.inverse + b 6 e.legacy + b 5 e.cabFore + b 4 e.cabAft + b 3 e.aIn + b 2 e.bIn) ++ [0, 0]

/-- The entries of the image from a position on. -/
def sheetEntriesBytes : List SheetEntry → Nat → List Byte
  | [], _ => []
  | e :: r, pos => sheetEntryBytes e pos ++ sheetEntriesBytes r (pos + 1)

/-- DIGEST (R90). -/
def sheetDigest (x : Sheet) : Word := crc32c (List.replicate 20 0 ++ sheetEntriesBytes x.entries 1)

/-- The number of consists of a sheet. -/
def consistCount (x : Sheet) : Nat := x.entries.foldl (fun m e => max m e.consist) 0

/-- The Call Sheet image (Table 3.7). -/
def sheetBytes (x : Sheet) : List Byte :=
  [1] ++ beBytes 1 ((if x.legacyMode then 128 else 0) + x.refRule * 16) ++ beBytes 1 x.entries.length
    ++ beBytes 1 (consistCount x) ++ beBytes 4 x.csc.toNat ++ beBytes 4 x.base.toNat ++ beBytes 8 x.instant.toNat
    ++ beBytes 6 x.coord.toNat ++ [0, 0] ++ beBytes 4 (sheetDigest x).toNat ++ sheetEntriesBytes x.entries 1

/-- A backbone port is held (R81). -/
def heldPort (s : State) (p : Nat) : Bool :=
  let n := nbSt s p
  p < 4 && portUp s p && (!n.heard || (match n.partner with
    | some u => !isMemberUid s u
    | none => true))

/-- The code of an inauguration state (R107). -/
def inaCode : InaState → Nat
  | .stable => 0 | .pre => 1 | .settle => 2 | .collect => 3 | .voting => 4 | .printed => 5 | .held => 6 | .legacy => 7

/-- The code of a node state (Table 3.10). -/
def nodeCode : NodeState → Nat
  | .off => 0 | .dawn => 1 | .joining => 2 | .member => 3 | .dusk => 4 | .asleep => 5 | .exit => 6 | .fault => 7

/-- INA_STATUS (Table 3.12). -/
def inaStatusWord (s : State) : Word :=
  fieldAt 24 8 (ownPosition s) ||| fieldAt 16 8 (callSheetLen s) ||| flagAt 15 ((List.range 4).any (heldPort s))
    ||| flagAt 14 (s.ina.st = .held) ||| flagAt 13 (s.ina.st = .legacy) ||| flagAt 12 s.ina.coord ||| flagAt 11 s.ina.late
    ||| fieldAt 8 3 (nodeCode s.node) ||| flagAt 7 s.ina.tooMany ||| fieldAt 0 3 (inaCode s.ina.st)

/-- COUPLER_STATUS (Table 3.13). -/
def couplerWord (s : State) : Word :=
  flagAt 17 s.ina.aftFault ||| flagAt 16 s.ina.foreFault ||| fieldAt 8 2 (endCode s .aft) ||| fieldAt 0 2 (endCode s .fore)

/-- The inauguration state is STABLE (R344). -/
def inaStable (s : State) : Bool := s.ina.st = .stable

/-- The active Call Sheet has LEGACY_MODE (R111). -/
def legacyActive (s : State) : Bool := (s.ina.sheet.map (·.legacyMode)).getD false

/-! ### Time (R191, R192) -/

/-- The code of a servo state (R177). -/
def servoCode : ServoState → Nat
  | .free => 0 | .acquiring => 1 | .locked => 2 | .holdover => 3 | .stepSuspect => 4

/-- TIME_VALID (R177). -/
def timeValid (s : State) : Bool :=
  match s.tim.servo with
  | .locked => true
  | .holdover => true
  | .stepSuspect => true
  | .free => s.tim.isGm
  | .acquiring => false

/-- SERVO_STATUS (Table 6.10). REF_OK: locked to the reference port. -/
def servoStatusWord (s : State) : Word :=
  flagAt 23 s.tim.lineDiffHigh ||| flagAt 22 s.tim.holdLimit ||| flagAt 21 s.tim.slewing ||| flagAt 20 (timeValid s)
    ||| flagAt 19 s.tim.isGm ||| flagAt 18 (s.tim.viaRef && s.tim.servo = .locked) ||| fieldAt 16 2 s.tim.line ||| fieldAt 0 3 (servoCode s.tim.servo)

/-- A signed number as a register word. -/
def intWord (n : Int) : Word := BitVec.ofInt 32 n

/-- The mean of a list of offsets, rounded down (log 135); 0 for none. -/
def mean (l : List Int) : Int := if l.isEmpty then 0 else l.sum / (l.length : Int)

/-- HOLD_TIME: fr since entry into HOLDOVER or STEP-SUSPECT. -/
def holdTime (s : State) : Nat :=
  if s.tim.servo = .holdover || s.tim.servo = .stepSuspect then (s.up - s.tim.holdAt) / fr else 0

/-- The PTP profile of a port: fixed 2 on the backbone (Table 6.11). -/
def ptpProfile (s : State) (p : Nat) : Nat := if p < 4 then 2 else cfg s 0x2630 (p + 1)

/-- The reference port: PTP runs there and 0x2604 selects it (R168). -/
def isRefPort (s : State) (p : Nat) : Bool := decide (4 ≤ p) && cfg s 0x2604 0 == 1 && cfg s 0x2605 0 == p

/-- The domain PTP runs in on a port. -/
def ptpDomain (s : State) (p : Nat) : Nat := if p < 4 then cfg s 0x2601 0 else cfg s 0x2631 (p + 1)

/-- The clockIdentity of a UID (R167). -/
def clockId (u : Uid) : BitVec 64 := u.extractLsb' 24 24 ++ (0xFFFE : BitVec 16) ++ u.extractLsb' 0 24

/-- A PTP message is discarded and counted: wrong domain, malformed, or from this node's own clockIdentity (Table 6.11). -/
def ptpDiscards (s : State) (p domain : Nat) (id : BitVec 64) (malformed : Bool) : Bool :=
  malformed || decide (domain ≠ ptpDomain s p) || decide (id = clockId s.uid)

/-- PTP runs on an UP port. -/
def ptpRuns (s : State) (p : Nat) : Bool := portUp s p && decide (ptpProfile s p ≠ 0)

/-- The ticks in which a port loses its Sync: three intervals of the backbone, or of the consist port (R174, Table 6.2). -/
def syncLossTicks (s : State) (p : Nat) : Nat := 3 * (if p < 4 then cfg s 0x2607 0 else cfg s 0x2632 (p + 1)) * fr

/-- The port by which a line's Sync arrives at this node, where one delivers it. -/
def syncPort (s : State) (l : Line) : Option Nat := (portsOf l).find? (fun p => (ptpSt s p).lastSync.isSome)

/-- A line delivers a usable Sync: its Sync port is UP with PDELAY_VALID, and the last Sync is not three intervals old (R174). -/
def lineDelivers (s : State) (l : Line) : Bool :=
  match syncPort s l with
  | none => false
  | some p => portUp s p && (ptpSt s p).valid && (match (ptpSt s p).lastSync with
    | some t => decide (s.up < t + syncLossTicks s p)
    | none => false)

/-- LINE_DIFF is valid: both lines deliver Sync (R175). -/
def lineDiffValid (s : State) : Bool := lineDelivers s .a && lineDelivers s .b && !s.tim.offA.isEmpty && !s.tim.offB.isEmpty

/-- LINE_DIFF (R175); 0 while it is not valid. -/
def lineDiff (s : State) : Int := if lineDiffValid s then mean s.tim.offB - mean s.tim.offA else 0

/-- The asymmetry of a backbone port in use: the entry of its partner's UID, or the default (R171). -/
def asymNow (s : State) (p : Nat) : Int :=
  if 4 ≤ p then 0
  else
    let n := 0x2620 + p
    match (nbSt s p).partner with
    | some u =>
      (match (List.range 8).find? (fun e => u != 0 && cfg s n (2 + e) == u.toNat) with
       | some e => cfgInt s n (10 + e)
       | none => cfgInt s n 1)
    | none => cfgInt s n 1

/-- portState of a port, as IEEE 1588 encodes it (R167, R168, log 134): 3 DISABLED, 4 LISTENING, 6 MASTER, 7 PASSIVE,
8 UNCALIBRATED, 9 SLAVE. -/
def ptpPortState (s : State) (p : Nat) : Nat :=
  let slave := if s.tim.servo = .locked then 9 else 8
  if !portUp s p || ptpProfile s p == 0 then 3
  else if p < 4 then
    if s.tim.isGm || s.tim.viaRef then 6
    else if s.tim.line = lineIx (lineOf p) && syncPort s (lineOf p) = some p then slave
    else if s.tim.haveGm then 7 else 4
  else if isRefPort s p then (if s.tim.viaRef then slave else 4)
  else 6

/-- PTP_PORT_STATUS. -/
def ptpStatusWord (s : State) (p : Nat) : Word :=
  let x := ptpSt s p
  let src := p < 4 && s.tim.line = lineIx (lineOf p) && syncPort s (lineOf p) = some p
  flagAt 10 src ||| flagAt 9 (p < 4 && portUp s p) ||| flagAt 8 x.valid ||| fieldAt 0 4 (ptpPortState s p)

/-- Pulse output k, capture input k. -/
def ppsSt (s : State) (k : Nat) : PpsSt := tget s.tim.pulses k {}
def capSt (s : State) (k : Nat) : CapSt := tget s.tim.caps k {}

/-- CAP_META. -/
def capMetaWord (s : State) (k : Nat) : Word :=
  match (capSt s k).fifo with
  | [] => 0
  | (r, _) :: _ => flagAt 31 true ||| flagAt 30 r ||| fieldAt 0 5 (capSt s k).fifo.length

/-! ### Splice (R239, R240, R261) -/

/-- A posted operation (R201, R216). -/
def Op.posted (o : Op) : Bool :=
  match o.kind with
  | .write => true
  | .release => true
  | .doorbell => true
  | _ => false

/-- A non-posted operation (R201, R216). -/
def Op.nonPosted (o : Op) : Bool :=
  match o.kind with
  | .writeNp => true
  | .read => true
  | .atomic _ => true
  | .acquire => true
  | _ => false

/-- Operations accepted and not closed that satisfy p. -/
def countOps (s : State) (p : Op → Bool) : Nat := (s.spl.ops.filter p).length

/-- Closed records of host reads that still hold their tag: their read has not been delivered (R216, R233). -/
def recordsHeld (s : State) (p : ReadPart → Bool) : Nat := (s.spl.reads.map (fun r => (r.parts.filter (fun x => x.tag.isSome && p x)).length)).sum

/-- SPL_STATUS: the operations that hold a slot, and those that hold a tag (R216). -/
def splStatusWord (s : State) : Word :=
  fieldAt 20 12 (countOps s Op.posted) ||| fieldAt 10 10 (countOps s Op.nonPosted + recordsHeld s (fun _ => true)) ||| flagAt 0 s.spl.drained

/-- The code of a stream state (R240). -/
def streamCode : StreamState → Nat
  | .open_ => 0 | .poisoned => 1 | .fenced => 2

/-- The state of a stream. -/
def streamSt (s : State) (n : Nat) : StreamState := tget s.spl.streams n .open_

/-- STREAM_STATUS of stream n. -/
def streamWord (s : State) (n : Nat) : Word :=
  fieldAt 20 12 (countOps s (fun o => o.posted && o.stream == n)) ||| 
    fieldAt 10 10 (countOps s (fun o => o.nonPosted && o.stream == n) + recordsHeld s (fun x => x.stream == n))
    ||| flagAt 8 (s.spl.stmDrained.getLsbD n) ||| fieldAt 0 2 (streamCode (streamSt s n))

/-- WIN_STATUS of window w. -/
def winStatusWord (s : State) (w : Nat) : Word :=
  fieldAt 8 2 (tget s.spl.semState w 0) ||| flagAt 0 (s.spl.winDrained.getLsbD w)

/-- SEM_STATE of semaphore n. -/
def semWord (s : State) (n : Nat) : Word :=
  match tfind s.spl.sems n with
  | none => 0
  | some x => flagAt 31 true ||| fieldAt 16 4 x.stream ||| fieldAt 0 8 (positionIn (callSheetUids s) x.uid)

/-- DB_META. -/
def dbMetaWord (s : State) : Word :=
  match s.spl.db with
  | [] => 0
  | d :: _ => flagAt 31 true ||| fieldAt 24 6 d.region ||| fieldAt 20 4 d.stream

/-- DB_STATUS. -/
def dbStatusWord (s : State) : Word := flagAt 31 s.spl.dbOverflow ||| fieldAt 0 9 s.spl.db.length

/-- CE_META. -/
def ceMetaWord (s : State) : Word :=
  match s.spl.ce with
  | [] => 0
  | c :: _ => flagAt 31 true ||| fieldAt 24 4 c.stream ||| fieldAt 16 6 c.window ||| fieldAt 8 2 c.kind ||| fieldAt 0 4 c.code

/-- CE_STATUS. -/
def ceStatusWord (s : State) : Word := flagAt 31 s.spl.ceLost ||| fieldAt 0 7 s.spl.ce.length

/-- The seven words of a posted-failure entry, PWF_META to PWF_TIME (Table 8.7). -/
def pwfWords (e : Pwf) : List Word :=
  [flagAt 31 true ||| fieldAt 24 4 e.stream ||| fieldAt 16 6 e.window ||| fieldAt 8 6 e.region ||| fieldAt 0 4 e.cause,
   word e.offset, word e.uid.toNat, word (e.uid.toNat / 2 ^ 32), e.seq, word e.len, e.time]

/-- PWF_STATUS. -/
def pwfStatusWord (s : State) : Word := flagAt 31 s.spl.pwfLost ||| fieldAt 0 7 s.spl.pwf.length

/-- ABORT_RESULT. -/
def abortWord (s : State) : Word := flagAt 31 s.spl.abortDone ||| fieldAt 16 10 s.spl.aborted ||| fieldAt 0 10 s.spl.tooLate

/-- The four words of a prefetch-discard entry (Table 8.7). -/
def pdlWords (e : Pdl) : List Word :=
  [flagAt 31 true ||| fieldAt 24 4 e.stream ||| fieldAt 16 6 e.window ||| fieldAt 0 9 e.len, word e.offset, e.seq, e.time]

/-! ### Check unit (R269) -/

/-- CHK_CTRL as it reads. -/
def chkCtrlWord (s : State) : Word := flagAt 2 s.chk.irqEn ||| flagAt 1 s.chk.prefixEn ||| flagAt 0 s.chk.enable

/-- CHK_STATUS. -/
def chkStatusWord (s : State) : Word :=
  flagAt 31 s.chk.err ||| flagAt 30 s.chk.collision ||| flagAt 29 s.chk.done ||| flagAt 28 (s.chk.run ≠ .idle)
    ||| flagAt 27 (!s.chk.enable && s.chk.run = .idle) ||| fieldAt 0 27 s.chk.count

/-! ### Process data (R286) -/

/-- CAN port c, source n, sink n. -/
def canSt (s : State) (c : Nat) : CanSt := tget s.pdb.cans c {}
def srcSt (s : State) (n : Nat) : SrcSt := tget s.pdb.srcs n {}
def sinkSt (s : State) (n : Nat) : SinkSt := tget s.pdb.sinks n {}

/-- A CAN port is in bus-off (0x1001 bit 4). -/
def canBusOffAny (s : State) : Bool := (canSt s 0).state = 2 || (canSt s 1).state = 2

/-- CANx_STATUS. -/
def canWord (s : State) (c : Nat) : Word :=
  fieldAt 16 9 (canSt s c).tec ||| fieldAt 8 8 (canSt s c).rec_ ||| fieldAt 0 2 (canSt s c).state

/-- MVB_STATUS. -/
def mvbWord (s : State) : Word := flagAt 8 s.pdb.silent ||| flagAt 1 s.pdb.line2 ||| flagAt 0 s.pdb.line1

/-- SRC_STALE word k. -/
def staleWord (s : State) (k : Nat) : Word :=
  (List.range 32).foldl (fun w j => if (srcSt s (32 * k + j)).fresh then w else w ||| word (2 ^ j)) 0

/-! ### Access to the registers (R408, R409, R463) -/

/-- The non-owner of a single-consumer function accesses it (R409): bit n of FEAT_OWN gives it to the cores. -/
def featDenied (s : State) (who : Requester) (n : Nat) : Bool :=
  ((cfg s 0x2C02 0).testBit n) != (who = .core)

/-- An access to BAR0 reaches the node: the host's while D12 is on and the function is not in D3hot (R463, R469),
a core's while D8 is on and a hart runs. -/
def reaches (s : State) : Requester → Bool
  | .host => domOn s .d12 && !s.irq.d3hot
  | .core => domOn s .d8 && s.cpu.running != 0

/-- A read or an atomic that does not reach the node: the function answers the host's with Unsupported Request in D3hot (R469). -/
def turnedAway (who : Requester) (s : State) : State :=
  if who = .host && domOn s .d12 && s.irq.d3hot then emit .unsupported s else s

end Sys2Proof.Machine
end

