-- ==== Sys2Proof/Machine/Flags.lean ====
section
/-!
DEFINITION. Machine/Flags.lean: every computed register word: status registers, error register, held
interrupt conditions, and the one function that reads a BAR0 register.
-/
namespace Sys2Proof.Machine

/-! ### Domains (R448) -/

/-- DOM_STATUS (Table 17.7): D9 reads on while either sub-rail is on. -/
def domStatusWord (s : State) : Word :=
  let b (i : Nat) (d : Dom) := flagAt (16 + i) (domOn s d)
  b 0 .d0 ||| b 1 .d1 ||| b 2 .d2 ||| b 3 .d3 ||| b 4 .d4 ||| b 5 .d5 ||| b 6 .d6 ||| b 7 .d7 ||| b 8 .d8
    ||| flagAt 25 (domOn s .d9a || domOn s .d9b) ||| b 10 .d10 ||| b 11 .d11 ||| b 12 .d12
    ||| flagAt 1 (domOn s .d9b) ||| flagAt 0 (domOn s .d9a)

/-- DOM_FAULT (Table 17.7): a sub-rail's fault sets its own bit and bit 9 (R24). -/
def domFaultWord (s : State) : Word :=
  let f (d : Dom) := (domSt s d).fault
  let b (d : Dom) := flagAt (domIx d) (f d)
  b .d0 ||| b .d1 ||| b .d2 ||| b .d3 ||| b .d4 ||| b .d5 ||| b .d6 ||| b .d7 ||| b .d8
    ||| flagAt 9 (f .d9a || f .d9b) ||| b .d10 ||| b .d11 ||| b .d12 ||| b .d9a ||| b .d9b

/-- SUPPLY_STATUS (Table 17.8). -/
def supplyWord (s : State) : Word :=
  flagAt 31 s.pwr.sag ||| flagAt 30 s.pwr.sagInput ||| flagAt 29 s.pwr.sagBus ||| flagAt 28 s.pwr.holdupOn
    ||| flagAt 27 s.pwr.holdupLow ||| flagAt 26 s.pwr.bankOk ||| fieldAt 0 16 s.pwr.inputLevel

/-- BUS_STATUS. -/
def busWord (s : State) : Word := fieldAt 16 16 s.pwr.bank ||| fieldAt 0 16 s.pwr.bus

/-- A signed number in 16 bits. -/
def int16 (n : Int) : Nat := (BitVec.ofInt 16 n).toNat

/-- TEMP_STATUS. -/
def tempWord (s : State) : Word := fieldAt 16 16 (int16 (s.pwr.tempMax.getD 0)) ||| fieldAt 0 16 (int16 s.pwr.tempNow)

/-- Loop k. -/
def loopSt (s : State) (k : Nat) : LoopSt := tget s.pwr.loops k {}

/-- LOOP_STATUS of loop k (Table 17.7); millivolts, half millivolts cut off. -/
def loopWord (s : State) (k : Nat) : Word :=
  let l := loopSt s k
  flagAt 31 l.satHigh ||| flagAt 30 l.floor ||| fieldAt 20 10 (l.hi / 2) ||| fieldAt 10 10 (l.lo / 2)
    ||| fieldAt 0 10 (l.now / 2)

/-! ### Start-up (R465) -/

/-- HPL_STATUS (Table 18.7). -/
def hplWord (s : State) : Word :=
  flagAt 31 s.hpl.seatedHv ||| flagAt 30 s.hpl.seatedLv ||| flagAt 29 s.hpl.handleLocked
    ||| flagAt 28 (s.node = .exit) ||| flagAt 27 s.hpl.safeToRemove ||| flagAt 26 s.hpl.hostHold
    ||| flagAt 8 s.hpl.warn ||| fieldAt 0 3 s.hpl.warnSrc

/-- RESET_CAUSE. -/
def resetCauseWord (s : State) : Word := fieldAt 8 8 s.hpl.prevCause ||| fieldAt 0 8 s.hpl.cause

/-! ### The recorder (R390) -/

/-- Length of an item record: code, LENGTH, reserved, padded value (R369). -/
def itemLen (l : List Byte) : Nat := 8 + (l.length + 3) / 4 * 4

/-- ENTRY_LEN (R369). -/
def entryLen (e : RecEntry) : Nat := 68 + (e.items.map (fun i => itemLen i.2)).sum

/-- Pages an entry takes (R372). -/
def entryPages (e : RecEntry) : Nat := (entryLen e + 4095) / 4096

/-- Existing entries: marked and not void (R372). -/
def existing (s : State) : List RecEntry := (s.log.store.filter (fun r => !r.void)).map (·.entry)

/-- Pages held by existing and not yet reclaimed entries (Table 14.6). -/
def usedPages (s : State) : Nat := (s.log.store.map (·.pages)).sum + s.log.junkPages

/-- Entry pages of the partition (R378). -/
abbrev capPages : Nat := 6029312

/-- Free pages. -/
def freePages (s : State) : Nat := capPages - usedPages s

/-- DRAINED: ENABLE is 0 and the queue is empty (Table 14.7). -/
def recDrained (s : State) : Bool := !(cfgOn s 0x2A01 0) && s.log.queue.isEmpty

/-- REC_STATUS (Table 14.7). -/
def recWord (s : State) : Word :=
  flagAt 31 (freePages s < 16) ||| flagAt 30 s.pwr.sag ||| flagAt 29 s.log.lastWordsDone
    ||| flagAt 28 s.log.refusedBit ||| flagAt 27 s.log.lostBit ||| fieldAt 8 7 s.log.queue.length
    ||| flagAt 1 s.log.writing.isSome ||| flagAt 0 (recDrained s)

/-- The sequence of an entry, 0 before it has one. -/
def seqOf (e : RecEntry) : Word := e.seq.getD 0

/-- CLR_STATUS. -/
def clrWord (s : State) : Word :=
  flagAt 31 s.log.clrDone ||| flagAt 30 s.log.clear.isSome ||| fieldAt 0 4 s.log.clrResult

/-- CUR_STATUS (Table 14.6). -/
def curWord (s : State) : Word :=
  flagAt 31 s.log.curReady ||| flagAt 30 s.log.cur.isSome ||| flagAt 29 s.log.curGone ||| flagAt 28 s.log.curEnd
    ||| flagAt 27 s.log.curRange ||| fieldAt 0 4 s.log.curPage

/-! ### Takes (R340) -/

/-- The code of a slot state (R318). -/
def slotCode : SlotState → Nat
  | .idle => 0 | .open_ => 1 | .prepared => 2 | .printed => 3 | .scrapped => 4

/-- TAK_STATUS (Table 12.7). -/
def takWord (s : State) : Word :=
  flagAt 31 s.tak.rwtReject ||| flagAt 30 s.tak.latePrint ||| fieldAt 24 4 s.tak.lastResult
    ||| fieldAt 16 5 s.tak.user.owner ||| fieldAt 10 2 s.tak.user.kind ||| fieldAt 8 2 s.tak.sys.kind
    ||| fieldAt 4 3 (slotCode s.tak.sys.state) ||| fieldAt 0 3 (slotCode s.tak.user.state)

/-- Bytes a staged value counts (R320). -/
def valBytesLen (k : Nat) : Val → Nat
  | .num _ => ((keyRow k).map (fun r => r.ty.size)).getD 0
  | .bytes l => l.length

/-- Bytes staged. -/
def stagedBytes (t : Tab Val) : Nat := (t.map (fun kv => valBytesLen kv.1 kv.2)).sum

/-- TAK_STAGED. -/
def stagedWord (s : State) : Word :=
  fieldAt 19 13 s.tak.user.staged.length ||| fieldAt 0 19 (stagedBytes s.tak.user.staged)

/-- TAK_INSTANT: the apply instant, 0 while OPEN (Table 12.6). -/
def takInstant (s : State) : Instant := if s.tak.user.state = .open_ then 0 else s.tak.user.instant

/-! ### Train lines (R404) -/

/-- Input i, from 0. -/
def inSt (s : State) (i : Nat) : InSt := tget s.tln.ins i {}
/-- Output k, from 0. -/
def outSt (s : State) (k : Nat) : OutSt := tget s.tln.outs k {}
/-- Coupler-sense channel c, from 0. -/
def csSt (s : State) (c : Nat) : CsSt := tget s.tln.cs c {}

/-- IN_ENABLE and OUT_ENABLE (Table 15.4). -/
def inEnable (s : State) : Bool := cfgOn s 0x10010 1
def outEnable (s : State) : Bool := cfgOn s 0x10010 2

/-- Un of input i in counts of 2.5 mV. -/
def inUn (s : State) (i : Nat) : Nat := cfg s 0x2B02 (i + 1) * 400

/-- The fixed thresholds of input i; 0 means 0.6 Un and 0.4 Un (Table 15.1). -/
def fixedTh (s : State) (i : Nat) : Nat × Nat :=
  let h := cfg s 0x2B07 (i + 1)
  let l := cfg s 0x2B08 (i + 1)
  (if h = 0 then inUn s i * 6 / 10 else h, if l = 0 then inUn s i * 4 / 10 else l)

/-- The thresholds in use at input i (Table 15.1): what the last frame boundary set, the fixed ones before the first. -/
def thOf (s : State) (i : Nat) : Nat × Nat := (inSt s i).th.getD (fixedTh s i)

/-- The safe condition (R401). -/
def safeCond (s : State) : Bool := s.tln.linkLost || s.node = .fault || s.tln.forceSafe

/-- The result of the follow rule of output k (R400): ANY or ALL of the inputs in its mask, possibly inverted; an input
with a fault has its last state. -/
def ruleResult (s : State) (k : Nat) : Bool :=
  let mask := cfg s 0x2B12 (k + 1)
  let f := cfg s 0x2B13 (k + 1)
  let picked := (List.range 16).filter (fun i => mask.testBit i)
  let r := if f.testBit 0 then picked.all (fun i => (inSt s i).ruleHigh) else picked.any (fun i => (inSt s i).ruleHigh)
  r != f.testBit 1

/-- The wake pulse of R359 runs on output k. -/
def wakePulseOn (s : State) (k : Nat) : Bool := s.wak.pulseBy.isSome && cfg s 0x2906 0 == k + 1

/-- What lines 5 to 7 of Table 15.2 give output k. -/
def outCommanded (s : State) (k : Nat) : Bool :=
  if wakePulseOn s k then true
  else if cfg s 0x2B10 (k + 1) = 1 then s.tln.outCmd.getLsbD k
  else (outSt s k).follow

/-- Output k is commanded on: in a mode, with OUT_ENABLE set (R398). -/
def outOrdered (s : State) (k : Nat) : Bool := outEnable s && cfg s 0x2B10 (k + 1) != 0 && outCommanded s k

/-- The driver state of output k: the first applicable line of Table 15.2 (R399). -/
def outDriven (s : State) (k : Nat) : Bool :=
  let o := outSt s k
  if !domOn s .d1 then false
  else if !outEnable s || cfg s 0x2B10 (k + 1) == 0 then false
  else if o.latched || o.retryAt.isSome then false
  else if safeCond s then
    (match cfg s 0x2B11 (k + 1) with
     | 0 => false
     | 1 => true
     | _ => o.heldOn)
  else outCommanded s k

/-- The period of 16 pf in which an output's current and voltage are measured (R398). -/
def outPeriod (s : State) : Nat := s.up / (16 * pf)

/-- OUT_CURRENT of output k, at most the current limit of 900 mA, and OUT_VOLT (R397, R398): what a command has reported in this period,
else what the loop shows (log 132); nothing while D1 is off. -/
def outMeasured (s : State) (k : Nat) : Nat × Nat :=
  let o := outSt s k
  if !domOn s .d1 then (0, 0)
  else if o.measured = some (outPeriod s) then (o.current, o.volt)
  else (Config.outCurrent k (outPeriod s) % 901, Config.outVolt k (outPeriod s) % 65536)

/-- A word with bit i set where p i holds, for i below n, shifted up by lo. -/
def bitsWhere (n lo : Nat) (p : Nat → Bool) : Word :=
  (List.range n).foldl (fun w i => if p i then w ||| word (2 ^ (i + lo)) else w) 0

/-- TLN_STATUS (Table 15.4). -/
def tlnWord (s : State) : Word :=
  flagAt 31 s.tln.linkLost ||| flagAt 30 (safeCond s) ||| flagAt 29 s.tln.outDrained ||| flagAt 28 s.tln.inDrained
    ||| bitsWhere 8 16 (outDriven s) ||| bitsWhere 16 0 (fun i => (inSt s i).high)

/-- IN_FAULT. -/
def inFaultWord (s : State) : Word :=
  bitsWhere 16 16 (fun i => (inSt s i).fSwing) ||| bitsWhere 16 0 (fun i => (inSt s i).overrange)

/-- OUT_FAULT. -/
def outFaultWord (s : State) : Word :=
  bitsWhere 8 16 (fun k => (outSt s k).fStuck) ||| bitsWhere 8 8 (fun k => (outSt s k).fOpen)
    ||| bitsWhere 8 0 (fun k => (outSt s k).fTripped)

/-- EVT_META: the oldest edge (Table 15.4). -/
def evtMetaWord (s : State) : Word :=
  match s.tln.fifo with
  | [] => 0
  | e :: _ => flagAt 31 true ||| flagAt 30 e.rising ||| fieldAt 16 4 e.input ||| fieldAt 0 7 s.tln.fifo.length

/-- OUT_STATUS of output k; its OPEN_LOAD and STUCK_ON show the bits of OUT_FAULT (log 133). -/
def outStatusWord (s : State) (k : Nat) : Word :=
  let o := outSt s k
  flagAt 3 o.latched ||| flagAt 2 o.fStuck ||| flagAt 1 o.fOpen ||| flagAt 0 o.tripped

/-- IN_LOOP_STATUS of input i. -/
def inLoopWord (s : State) (i : Nat) : Word :=
  let x := inSt s i
  fieldAt 16 16 x.edges ||| flagAt 2 x.hiKnown ||| flagAt 1 x.clamped ||| flagAt 0 x.frozen

/-! ### Sleep (R363) -/

/-- Port p holds the consist network awake now (R355). -/
def holdsNet (s : State) (p : Nat) (linkUp : Bool) : Bool :=
  match cfg s 0x2910 (p + 1) with
  | 0 => false
  | 1 => match tfind s.wak.lastKeepAlive p with
    | some t => decide (s.up < t + cfg s 0x2911 0 * rl)
    | none => false
  | _ => linkUp

/-- Until when the network is held, as long as no link holds it (R355, R356): the end of the last keep-alive hold, or the restart of the
idle time that came after it. -/
def heldUntil (s : State) : Nat :=
  let kept (p : Nat) : Nat := if cfg s 0x2910 (p + 1) = 1 then ((tfind s.wak.lastKeepAlive p).map (· + cfg s 0x2911 0 * rl)).getD 0 else 0
  (List.range 13).foldl (fun t i => max t (kept (i + 4))) s.wak.idleFrom

/-- When the idle time ends, as long as no link holds the network (R356). -/
def idleExpiry (s : State) : Nat := heldUntil s + cfg s 0x2911 0 * rl

/-- IDLE_REMAIN (Table 13.7): frames until consist idle expiry; all of the idle time while a link holds the network, none while the
network sleeps or the node is off. -/
def idleRemain (s : State) (linkHolds : Bool) : Word :=
  if !s.wak.consistAwake || s.node = .off then 0 else word ((if linkHolds then cfg s 0x2911 0 * rl else idleExpiry s - s.up) / fr)

/-- The wake line or a masked input is active (Table 13.2, reason 3). -/
def wakeInputActive (s : State) : Bool :=
  let line := cfg s 0x2905 0
  (line != 0 && (inSt s (line - 1)).high)
    || (List.range 16).any (fun i => (cfg s 0x2908 0).testBit i && (inSt s i).high)

/-- The lowest-numbered veto reason that applies, 0 for none (R344, Table 13.2; reason 8 is a ring frame's only). -/
def vetoReason (s : State) : Nat :=
  if !s.wak.sleepAllow then 1
  else if s.wak.hold then 2
  else if wakeInputActive s then 3
  else if s.wak.consistAwake then 4
  else if s.up < s.wak.memberAt + cfg s 0x2902 0 * rl then 5
  else if s.tak.user.state = .prepared || s.tak.user.state = .printed || s.tak.sys.state = .prepared
      || s.tak.sys.state = .printed || !inaStable s then 6
  else if s.node ≠ .member || legacyActive s then 7
  else 0

/-- CONSENT (R344). -/
def consent (s : State) : Bool := vetoReason s == 0

/-- The veto reason apart from the dusk take's own system slot, for the vote and its withdrawal (R350, R351). -/
def consentForDusk (s : State) : Bool :=
  vetoReason { s with tak.sys.state := .idle } == 0

/-- WAK_STATUS (Table 13.8). -/
def wakWord (s : State) : Word :=
  fieldAt 28 4 s.wak.cause ||| fieldAt 16 5 s.wak.src ||| flagAt 15 (s.wak.sleepInd ≠ .none)
    ||| flagAt 14 s.wak.latched.isSome ||| flagAt 13 (consent s) ||| flagAt 12 s.wak.consistAwake
    ||| fieldAt 8 4 (vetoReason s) ||| flagAt 7 s.wak.forced

/-- RING_STATUS. -/
def ringWord (s : State) : Word :=
  fieldAt 24 8 s.wak.ringResult ||| fieldAt 16 8 s.wak.firstVetoPos ||| fieldAt 8 4 s.wak.firstVetoReason
    ||| fieldAt 0 8 s.wak.vetoCount

/-! ### Cores and security (R427) -/

/-- Application DRAM in MiB (R407). -/
def appSize (s : State) : Nat := 8192 - 1024 - 64 - cfg s 0x2704 0

/-- CPU_STATUS. -/
def cpuWord (s : State) : Word :=
  fieldAt 16 8 s.cpu.running.toNat ||| flagAt 8 s.cpu.imgOk ||| flagAt 0 s.cpu.drained

/-- SEC_STATUS. -/
def secWord (s : State) : Word :=
  flagAt 31 s.cpu.bootFail ||| flagAt 16 s.cpu.appKey ||| fieldAt 8 6 s.cpu.fusedVersion
    ||| fieldAt 4 3 s.cpu.revoked.toNat ||| flagAt 1 s.cpu.fallback ||| flagAt 0 s.cpu.activeSlot

/-- MACsec of backbone port n. -/
def msSt (s : State) (n : Nat) : MacsecSt := tget s.cpu.macsec n {}

/-- MS_STATUS of port n. -/
def msWord (s : State) (n : Nat) : Word :=
  flagAt 8 (msSt s n).keyServer ||| flagAt 1 (msSt s n).rxSa ||| flagAt 0 (msSt s n).txSa

/-! ### Identity and the error register (R316, R478) -/

/-- The error register 0x1001 (R316). -/
def errorRegister (s : State) : Nat :=
  let b2 := s.pwr.sag
  let b3 := s.pwr.tempOut
  let b4 := lineNotWhole s || canBusOffAny s
  let b7 := domFaultWord s != 0 || s.node = .fault || s.od.replaced
  (if b2 || b3 || b4 || b7 then 1 else 0) + (if b2 then 4 else 0) + (if b3 then 8 else 0) + (if b4 then 16 else 0)
    + (if b7 then 128 else 0)

/-- NODE_STATUS (Table 19.4). -/
def nodeWord (s : State) : Word :=
  fieldAt 16 3 (nodeCode s.node) ||| flagAt 8 (errorRegister s != 0) ||| fieldAt 0 8 (errorRegister s)

/-! ### The mailbox (R313) -/

/-- A session. -/
def sessOf (s : State) (i : Session) : Sess := tget s.od.sess i.val {}

/-- MBX_STATUS (Table 11.10). -/
def mbxWord (s : State) : Word :=
  flagAt 31 s.od.mbxBusy ||| flagAt 30 s.od.mbxDone ||| flagAt 29 s.od.mbxMore ||| flagAt 28 (s.od.mbxAbort != 0)
    ||| flagAt 27 s.od.mbxCollision

end Sys2Proof.Machine
end

