-- ==== Sys2Proof/Machine/Registers.lean ====
section
/-!
DEFINITION. Machine/Registers.lean: BAR0 as it reads. The RWT fields of every register with the object
each mirrors, the computed words, and regRead, the word at a register address (R472).
-/
namespace Sys2Proof.Machine

/-- An RWT field: its low bit, its width, the key of the object it mirrors (R321) and where in the object's value it
lies; in a gate list's entries (a DOMAIN), which entry. -/
structure RwtField where
  lo : Nat
  width : Nat
  key : Nat
  shift : Nat := 0
  entry : Option Nat := none
deriving DecidableEq, Repr

/-- RWT fields of the PRT/MAC block of port p (Tables 2.6, 4.5, 5.7, 6.11), by offset. -/
def rwtPrt (p o : Nat) : List RwtField :=
  let k := p + 1
  let bb := decide (p < 4)
  if o = 0x000 then
    (if bb then [⟨8, 6, key 0x2201 k, 0, none⟩] else [⟨8, if p = 16 then 2 else 3, key 0x2217 k, 0, none⟩]) ++ [⟨0, 1, key 0x10011 k, 0, none⟩]
  else if o = 0x008 then
    (if bb then [⟨8, 2, key 0x2202 k, 0, none⟩, ⟨0, 8, key 0x2203 k, 0, none⟩] else [])
  else if o = 0x040 then [⟨1, 1, key 0x10013 k, 0, none⟩, ⟨0, 1, key 0x10012 k, 0, none⟩]
  else if o = 0x048 then [⟨0, 16, key 0x2210 k, 0, none⟩]
  else if o = 0x04C then
    (if bb then [⟨16, 16, key 0x10016 k, 0, none⟩] else [⟨16, 16, key 0x2213 k, 0, none⟩, ⟨2, 1, key 0x2212 k, 0, none⟩])
      ++ [⟨1, 1, key 0x2211 k, 0, none⟩]
  else if o = 0x050 then (if bb then [] else [⟨16, 16, key 0x2214 k, 0, none⟩, ⟨0, 16, key 0x2215 k, 0, none⟩])
  else if o = 0x054 then [⟨0, 16, key 0x2216 k, 0, none⟩]
  else if o = 0x200 then
    [⟨24, 7, key 0x2502 k, 0, none⟩, ⟨8, 2, key 0x2501 k, 0, none⟩, ⟨4, 2, key 0x2504 k, 0, none⟩, ⟨1, 1, key 0x2505 k, 0, none⟩,
     ⟨0, 1, key 0x2503 k, 0, none⟩]
  else if o = 0x208 then [⟨16, 4, key 0x2507 k, 0, none⟩, ⟨0, 7, key 0x2506 k, 0, none⟩]
  else if o = 0x20C then [⟨24, 3, key 0x2508 k, 24, none⟩, ⟨0, 21, key 0x2508 k, 0, none⟩]
  else if 0x250 ≤ o ∧ o < 0x270 then [⟨0, 16, key (0x2510 + (o - 0x250) / 4) k, 0, none⟩]
  else if o = 0x300 then
    (if bb then [] else [⟨12, 1, key 0x10015 k, 0, none⟩, ⟨8, 3, key 0x2630 k, 0, none⟩, ⟨0, 8, key 0x2631 k, 0, none⟩])
  else []

/-- RWT fields of the SCH block (Table 5.9). -/
def rwtSch (o : Nat) : List RwtField :=
  if 0x100 ≤ o ∧ o < 0x320 then
    let n := 0x2520 + (o - 0x100) / 32
    match (o - 0x100) % 32 with
    | 0x00 => [⟨0, 32, key n 1, 0, none⟩]
    | 0x04 => [⟨0, 32, key n 1, 32, none⟩]
    | 0x08 => [⟨0, 23, key n 2, 0, none⟩]
    | 0x0C => [⟨0, 9, key n 3, 0, none⟩]
    | _ => []
  else if 0x1000 ≤ o ∧ o < 0x5400 then
    let n := 0x2520 + (o - 0x1000) / 0x400
    let e := (o - 0x1000) % 0x400 / 4
    [⟨24, 8, key n 4, 24, some e⟩, ⟨0, 23, key n 4, 0, some e⟩]
  else []

/-- RWT fields of the TIM block (Tables 6.9, 6.10). -/
def rwtTim (o : Nat) : List RwtField :=
  if o = 0x000 then
    [⟨16, 5, key 0x2605 0, 0, none⟩, ⟨8, 2, key 0x2604 0, 0, none⟩, ⟨4, 1, key 0x2606 0, 0, none⟩, ⟨2, 1, key 0x260C 0, 0, none⟩,
     ⟨1, 1, key 0x2602 0, 0, none⟩, ⟨0, 1, key 0x260F 0, 0, none⟩]
  else if o = 0x024 then [⟨0, 16, key 0x260A 0, 0, none⟩]
  else if o = 0x028 then [⟨0, 21, key 0x260B 0, 0, none⟩]
  else if o = 0x02C then [⟨0, 14, key 0x260D 0, 0, none⟩]
  else if 0x100 ≤ o ∧ o < 0x180 then
    let n := 0x2610 + (o - 0x100) / 32
    match (o - 0x100) % 32 with
    | 0x00 => [⟨5, 1, key n 6, 0, none⟩, ⟨4, 1, key n 5, 0, none⟩, ⟨0, 2, key n 1, 0, none⟩]
    | 0x04 => [⟨0, 32, key n 2, 0, none⟩]
    | 0x08 => [⟨0, 32, key n 2, 32, none⟩]
    | 0x0C => [⟨0, 32, key n 3, 0, none⟩]
    | 0x10 => [⟨0, 32, key n 4, 0, none⟩]
    | _ => []
  else if 0x200 ≤ o ∧ o < 0x280 ∧ o % 32 = 0 then
    let n := 0x2614 + (o - 0x200) / 32
    [⟨1, 2, key n 2, 0, none⟩, ⟨0, 1, key n 1, 0, none⟩]
  else if 0x400 ≤ o ∧ o < 0x800 then
    let n := 0x2620 + (o - 0x400) / 0x100
    let q := (o - 0x400) % 0x100
    if q = 0 then [⟨0, 32, key n 1, 0, none⟩]
    else if 0x10 ≤ q ∧ q < 0x90 then
      let e := (q - 0x10) / 16
      match (q - 0x10) % 16 with
      | 0 => [⟨0, 32, key n (2 + e), 0, none⟩]
      | 4 => [⟨0, 16, key n (2 + e), 32, none⟩]
      | 8 => [⟨0, 32, key n (10 + e), 0, none⟩]
      | _ => []
    else []
  else []

/-- RWT fields of the INA block (Tables 3.11, 3.12). -/
def rwtIna (o : Nat) : List RwtField :=
  if o = 0x000 then [⟨8, 1, key 0x2403 0, 0, none⟩]
  else if o = 0x020 then [⟨16, 16, key 0x2409 0, 0, none⟩, ⟨0, 16, key 0x2408 0, 0, none⟩]
  else if o = 0x024 then [⟨24, 8, key 0x2406 0, 0, none⟩, ⟨16, 8, key 0x2404 0, 0, none⟩, ⟨0, 10, key 0x2405 0, 0, none⟩]
  else []

/-- RWT fields of the SPL block (Tables 7.10 to 7.12). -/
def rwtSpl (o : Nat) : List RwtField :=
  if o = 0x000 then [⟨0, 1, key 0x2701 0, 0, none⟩]
  else if o = 0x008 then [⟨16, 2, key 0x2703 0, 0, none⟩, ⟨0, 11, key 0x2702 0, 0, none⟩]
  else if o = 0x00C then [⟨0, 17, key 0x2705 0, 0, none⟩]
  else if o = 0x010 then [⟨0, 13, key 0x2706 0, 0, none⟩]
  else if o = 0x014 then [⟨16, 11, key 0x2708 0, 0, none⟩, ⟨0, 13, key 0x2707 0, 0, none⟩]
  else if 0x1000 ≤ o ∧ o < 0x2000 then
    let n := 0x2740 + (o - 0x1000) / 64
    match (o - 0x1000) % 64 with
    | 0x00 => [⟨24, 5, key n 3, 0, none⟩, ⟨16, 6, key n 5, 0, none⟩, ⟨8, 4, key n 8, 0, none⟩, ⟨4, 1, key n 12, 0, none⟩,
        ⟨3, 1, key n 11, 0, none⟩, ⟨2, 1, key n 6, 0, none⟩, ⟨0, 1, key n 1, 0, none⟩]
    | 0x04 => [⟨0, 30, key n 2, 0, none⟩]
    | 0x08 => [⟨0, 31, key n 7, 0, none⟩]
    | 0x0C => [⟨0, 32, key n 4, 0, none⟩]
    | 0x10 => [⟨0, 16, key n 4, 32, none⟩]
    | 0x14 => [⟨0, 16, key n 9, 0, none⟩]
    | 0x18 => [⟨0, 21, key n 10, 0, none⟩]
    | _ => []
  else if 0x2000 ≤ o ∧ o < 0x2800 then
    let n := 0x2780 + (o - 0x2000) / 32
    match (o - 0x2000) % 32 with
    | 0x00 => [⟨8, 8, key n 7, 0, none⟩, ⟨3, 1, key n 8, 0, none⟩, ⟨2, 1, key n 5, 0, none⟩, ⟨1, 1, key n 4, 0, none⟩, ⟨0, 1, key n 1, 0, none⟩]
    | 0x04 => [⟨16, 15, key n 2, 16, none⟩]
    | 0x08 => [⟨16, 16, key n 3, 16, none⟩]
    | 0x0C => [⟨0, 32, key n 6, 0, none⟩]
    | 0x10 => [⟨0, 16, key n 6, 32, none⟩]
    | _ => []
  else []

/-- RWT fields of the STM block (Table 7.13). -/
def rwtStm (o : Nat) : List RwtField :=
  if o < 0x200 ∧ o % 32 = 0 then
    let n := 0x2710 + o / 32
    [⟨4, 3, key n 2, 0, none⟩, ⟨0, 1, key n 1, 0, none⟩]
  else []

/-- RWT fields of the PDB block (Table 10.6). -/
def rwtPdb (o : Nat) : List RwtField := if o = 0x000 then [⟨0, 1, key 0x2801 0, 0, none⟩] else []

/-- RWT fields of the SW block (Table 2.13). -/
def rwtSw (o : Nat) : List RwtField :=
  if o = 0x000 then [⟨8, 8, key 0x2301 0, 0, none⟩, ⟨4, 1, key 0x2302 0, 0, none⟩, ⟨0, 1, key 0x10014 1, 0, none⟩]
  else if o = 0x00C then [⟨8, 2, key 0x2308 0, 0, none⟩, ⟨0, 1, key 0x2306 0, 0, none⟩]
  else if o = 0x014 then [⟨16, 16, key 0x2305 0, 0, none⟩, ⟨0, 16, key 0x2304 0, 0, none⟩]
  else if o = 0x018 then [⟨0, 32, key 0x2309 0, 0, none⟩]
  else if o = 0x01C then [⟨16, 16, key 0x230A 2, 0, none⟩, ⟨0, 16, key 0x230A 1, 0, none⟩]
  else []

/-- RWT fields of the PWR block (Table 17.7), by offset. -/
def rwtPwr (o : Nat) : List RwtField :=
  if o = 0x000 then [⟨10, 3, key 0x2104 0, 10, none⟩, ⟨7, 2, key 0x2104 0, 7, none⟩]
  else if o = 0x00C then [⟨0, 2, key 0x2105 0, 0, none⟩]
  else if o = 0x01C then [⟨8, 8, key 0x2103 0, 0, none⟩, ⟨0, 8, key 0x2102 0, 0, none⟩]
  else if 0x100 ≤ o ∧ o < 0x180 ∧ o % 16 = 0 then
    let k := (o - 0x100) / 16 + 1
    [⟨16, 10, key 0x2112 k, 0, none⟩, ⟨8, 2, key 0x2110 k, 0, none⟩, ⟨0, 7, key 0x2111 k, 0, none⟩]
  else []

/-- RWT fields of the REC block (Table 14.7). -/
def rwtRec (o : Nat) : List RwtField :=
  if o = 0x000 then [⟨16, 3, key 0x2A06 0, 0, none⟩, ⟨0, 1, key 0x2A01 0, 0, none⟩] else []

/-- RWT fields of the TLN block (Tables 15.4 to 15.6). -/
def rwtTln (o : Nat) : List RwtField :=
  if o = 0x000 then [⟨1, 1, key 0x10010 2, 0, none⟩, ⟨0, 1, key 0x10010 1, 0, none⟩]
  else if 0x100 ≤ o ∧ o < 0x300 then
    let k := (o - 0x100) / 32 + 1
    match (o - 0x100) % 32 with
    | 0 => [⟨16, 16, key 0x2B03 k, 0, none⟩, ⟨8, 2, key 0x2B04 k, 0, none⟩, ⟨4, 1, key 0x2B09 k, 0, none⟩, ⟨0, 1, key 0x2B01 k, 0, none⟩]
    | 4 => [⟨16, 16, key 0x2B07 k, 0, none⟩, ⟨0, 16, key 0x2B08 k, 0, none⟩]
    | 8 => [⟨8, 8, key 0x2B05 k, 0, none⟩, ⟨0, 8, key 0x2B06 k, 0, none⟩]
    | _ => []
  else if 0x400 ≤ o ∧ o < 0x500 then
    let k := (o - 0x400) / 32 + 1
    match (o - 0x400) % 32 with
    | 0 => [⟨24, 8, key 0x2B18 k, 0, none⟩, ⟨20, 4, key 0x2B17 k, 0, none⟩, ⟨14, 6, key 0x2B16 k, 0, none⟩, ⟨4, 2, key 0x2B11 k, 0, none⟩, ⟨0, 2, key 0x2B10 k, 0, none⟩]
    | 4 => [⟨16, 2, key 0x2B13 k, 0, none⟩, ⟨0, 16, key 0x2B12 k, 0, none⟩]
    | 8 => [⟨16, 16, key 0x2B15 k, 0, none⟩, ⟨0, 16, key 0x2B14 k, 0, none⟩]
    | _ => []
  else []

/-- RWT fields of the CPU block (Table 16.7). -/
def rwtCpu (o : Nat) : List RwtField :=
  if o = 0x000 then [⟨0, 1, key 0x2C01 0, 0, none⟩]
  else if o = 0x014 then [⟨0, 6, key 0x2C02 0, 0, none⟩]
  else []

/-- RWT fields of the SEC block (Table 16.7). -/
def rwtSec (o : Nat) : List RwtField :=
  if 0x100 ≤ o ∧ o < 0x200 ∧ o % 64 = 0 then
    let k := (o - 0x100) / 64 + 1
    [⟨16, 8, key 0x2C34 k, 0, none⟩, ⟨0, 2, key 0x2C30 k, 0, none⟩]
  else []

/-- The RWT fields of the register at BAR0 address a. -/
def rwtFields (a : Nat) : List RwtField :=
  let o := a % 0x1000
  if a / 0x1000 = 0x2 then rwtPwr o
  else if 0x10000 ≤ a ∧ a < 0x21000 then rwtPrt ((a - 0x10000) / 0x1000) o
  else if a / 0x10000 = 0x3 then rwtSch (a % 0x10000)
  else if a / 0x8000 = 0x8 then rwtTim (a % 0x8000)
  else if a / 0x8000 = 0x9 then rwtIna (a % 0x8000)
  else if a / 0x8000 = 0xA then rwtSpl (a % 0x8000)
  else if a / 0x8000 = 0xB then rwtStm (a % 0x8000)
  else if a / 0x8000 = 0xD then rwtPdb (a % 0x8000)
  else if a / 0x10000 = 0x7 then rwtRec (a % 0x10000)
  else if a / 0x10000 = 0x8 then rwtTln (a % 0x10000)
  else if a / 0x10000 = 0x9 then rwtCpu (a % 0x10000)
  else if a / 0x10000 = 0xA then rwtSec (a % 0x10000)
  else if a / 0x10000 = 0xB then rwtSw (a % 0x10000)
  else []

/-- Entry e of a gate list's bytes (Table 5.3); an entry never written has all gates open and interval 0. -/
def gateEntryNat (l : List Byte) (e : Nat) : Nat :=
  if 4 * e + 4 ≤ l.length then beNat ((l.drop (4 * e)).take 4) else 0xFF000000

/-- The entry as it reads: bit 23 is reserved and reads 0 (R5, Table 5.3). -/
def gateEntryRead (l : List Byte) (e : Nat) : Nat :=
  let n := gateEntryNat l e
  n / 2 ^ 24 * 2 ^ 24 + n % 2 ^ 23

/-- The number an RWT field takes its bits from. REF_PORT reads 0 until a reference port has been applied (Table 6.10). -/
def rwtSource (s : State) (f : RwtField) : Nat :=
  match f.entry with
  | some e => gateEntryNat (valBytes (valOf s f.key)) e
  | none =>
    if f.key = key 0x2605 0 ∧ (tfind s.od.applied f.key).isNone then 0 else valNum (valOf s f.key)

/-- The applied values of the RWT fields of a register, in place. -/
def rwtWord (s : State) (a : Nat) : Word :=
  (rwtFields a).foldl (fun w f => w ||| fieldAt f.lo f.width (rwtSource s f / 2 ^ f.shift)) 0

/-- The ID and IRQ blocks (Tables 19.4, 19.5). -/
def readIdIrq (s : State) (a : Nat) : Option Word :=
  if a = 0x000 then some 0x4B465832
  else if a = 0x004 then some (fieldAt 16 16 s.hwRev.toNat ||| 1)
  else if a = 0x008 then some s.fwVersion
  else if a = 0x00C then some s.serial
  else if a = 0x010 then some (word s.uid.toNat)
  else if a = 0x014 then some (word (s.uid.toNat / 2 ^ 32))
  else if a = 0x018 then some (word s.baseMac.toNat)
  else if a = 0x01C then some (word (s.baseMac.toNat / 2 ^ 32))
  else if a = 0x020 then some (nodeWord s)
  else if a = 0x1000 then some (word s.irq.cause.toNat)
  else if a = 0x1004 then some (word s.irq.mask.toNat)
  else if a = 0x1008 then some (word s.irq.linkPorts.toNat)
  else if a = 0x100C then some (word s.irq.pwdPorts.toNat)
  else if 0x1100 ≤ a ∧ a < 0x115C then some (word (vecOf s.irq ((a - 0x1100) / 4)))
  else if 0x1800 ≤ a ∧ a < 0x1C00 then some (tget s.irq.table ((a - 0x1800) / 4) (if (a - 0x1800) / 4 % 4 = 3 then 1 else 0))
  else if a = 0x1C00 then some (word s.irq.pba.toNat)
  else if a = 0x1C04 then some (word (s.irq.pba.toNat / 2 ^ 32))
  else none

/-- The PWR block (Table 17.7). -/
def readPwr (s : State) (o : Nat) : Option Word :=
  if o = 0x004 then some (domStatusWord s)
  else if o = 0x008 then some (domFaultWord s)
  else if o = 0x010 then some (supplyWord s)
  else if o = 0x014 then some (busWord s)
  else if o = 0x018 then some (tempWord s)
  else if o = 0x020 then some (word (s.pwr.inputPower % 65536))
  else if 0x100 ≤ o ∧ o < 0x180 ∧ o % 16 = 4 then some (loopWord s ((o - 0x100) / 16))
  else if 0x100 ≤ o ∧ o < 0x180 ∧ o % 16 = 8 then some (word (loopSt s ((o - 0x100) / 16)).rate)
  else none

/-- The HPL block (Table 18.6). -/
def readHpl (s : State) (o : Nat) : Option Word :=
  if o = 0x004 then some (hplWord s)
  else if o = 0x008 then some (resetCauseWord s)
  else if o = 0x00C then some s.hpl.bootTime
  else if o = 0x010 then some s.hpl.exitTime
  else none

/-- The WAK block (Table 13.7). -/
def readWak (s : State) (o : Nat) : Option Word :=
  if o = 0x000 then some (flagAt 1 s.wak.hold ||| flagAt 0 s.wak.sleepAllow)
  else if o = 0x004 then some (wakWord s)
  else if o = 0x008 then some (ringWord s)
  else if o = 0x00C then some s.wak.ringId
  else if o = 0x010 then some (flagAt 31 s.wak.consistAwake ||| bitsWhere 13 0 (fun i => holdsNet s (i + 4) (portUp s (i + 4))))
  else if o = 0x014 then some (idleRemain s ((List.range 13).any (fun i => cfg s 0x2910 (i + 5) = 2 && portUp s (i + 4))))
  else if o = 0x018 then some s.wak.sleepLast
  else none

/-- The ODX block (Table 11.9). -/
def readOdx (s : State) (o : Nat) : Option Word :=
  if o = 0x014 then some (mbxWord s)
  else if o = 0x018 then some s.od.mbxAbort
  else if o = 0x01C then some (word s.od.mbxObjLen)
  else if o = 0x020 then some (word (sessOf s hostSession).level)
  else if 0x400 ≤ o ∧ o < 0x800 then
    some (word (leNat ((List.range 4).map (fun i => tget s.od.mbxData (o - 0x400 + i) 0))))
  else none

/-- The TAK block (Table 12.6). -/
def readTak (s : State) (o : Nat) : Option Word :=
  if o = 0x000 then some (takWord s)
  else if o = 0x004 then some s.tak.user.num
  else if o = 0x008 then some (word s.tak.user.coord.toNat)
  else if o = 0x00C then some (word (s.tak.user.coord.toNat / 2 ^ 32))
  else if o = 0x010 then some (word (takInstant s).toNat)
  else if o = 0x014 then some (word ((takInstant s).toNat / 2 ^ 32))
  else if o = 0x018 then some (stagedWord s)
  else if o = 0x01C then some s.tak.sysNum
  else none

/-- The REC block (Table 14.6). -/
def readRec (s : State) (o : Nat) : Option Word :=
  if o = 0x004 then some (recWord s)
  else if o = 0x008 then some (((existing s).getLast?.map seqOf).getD 0)
  else if o = 0x00C then some (((existing s).head?.map seqOf).getD 0)
  else if o = 0x010 then some (word (usedPages s))
  else if o = 0x014 then some (word capPages)
  else if o = 0x018 then some (word s.log.opTime.toNat)
  else if o = 0x01C then some (word (s.log.opTime.toNat / 2 ^ 32))
  else if o = 0x020 then some (word s.log.powerCycle.toNat)
  else if o = 0x038 then some (clrWord s)
  else if o = 0x104 then some s.log.curSeq
  else if o = 0x108 then some (curWord s)
  else if o = 0x10C then some (word ((s.log.cur.map entryLen).getD 0))
  else if 0x1000 ≤ o ∧ o < 0x2000 then
    some (word (leNat (padTo 4 (s.log.window.drop ((o - 0x1000) / 4 * 4)))))
  else none

/-- The TLN block (Tables 15.4 to 15.6). -/
def readTln (s : State) (o : Nat) : Option Word :=
  if o = 0x004 then some (tlnWord s)
  else if o = 0x008 then some (inFaultWord s)
  else if o = 0x00C then some (outFaultWord s)
  else if o = 0x010 then some (word s.tln.edgeStatus.toNat)
  else if o = 0x014 then some (word s.tln.edgeMask.toNat)
  else if o = 0x018 then some (word s.tln.outCmd.toNat)
  else if o = 0x020 then some (evtMetaWord s)
  else if o = 0x024 then some ((s.tln.fifo.head?.map (·.ts)).getD 0)
  else if o = 0x028 then some (flagAt 0 s.tln.overflow)
  else if 0x100 ≤ o ∧ o < 0x300 then
    let i := (o - 0x100) / 32
    let x := inSt s i
    match (o - 0x100) % 32 with
    | 0xC => some (word x.level)
    | 0x10 => some (word (if x.hiKnown then x.hiEst / 128 else 0))
    | 0x14 => some (word (x.loEst / 128))
    | 0x18 => some (fieldAt 16 16 (x.th.getD (0, 0)).1 ||| fieldAt 0 16 (x.th.getD (0, 0)).2)
    | 0x1C => some (inLoopWord s i)
    | _ => none
  else if 0x400 ≤ o ∧ o < 0x500 then
    let k := (o - 0x400) / 32
    match (o - 0x400) % 32 with
    | 0xC => some (word (outMeasured s k).1)
    | 0x10 => some (word (outMeasured s k).2)
    | 0x14 => some (outStatusWord s k)
    | _ => none
  else if 0x600 ≤ o ∧ o < 0x640 then
    let c := csSt s ((o - 0x600) / 16)
    match (o - 0x600) % 16 with
    | 0 => some (word (min c.res 65535))
    | 4 => some (flagAt 8 c.overvolt ||| flagAt 0 c.closed)
    | _ => none
  else none

/-- NIC ring of core c. -/
def nicSt (s : State) (c : Nat) : NicSt := tget s.cpu.nics c {}

/-- The CPU block (Table 16.7). -/
def readCpu (s : State) (o : Nat) : Option Word :=
  if o = 0x004 then some (cpuWord s)
  else if o = 0x008 then some (word (appSize s))
  else if o = 0x00C then some (word s.cpu.irqStatus.toNat)
  else if o = 0x010 then some (word s.cpu.irqMask.toNat)
  else if o = 0x018 then some (word s.cpu.pairs.toNat)
  else if 0x100 ≤ o ∧ o < 0x200 then
    let n := nicSt s ((o - 0x100) / 32)
    match (o - 0x100) % 32 with
    | 0x00 => some (word n.txBase.toNat)
    | 0x04 => some (word (n.txBase.toNat / 2 ^ 32))
    | 0x08 => some (word n.rxBase.toNat)
    | 0x0C => some (word (n.rxBase.toNat / 2 ^ 32))
    | 0x10 => some n.size
    | 0x14 => some n.tail
    | _ => none
  else none

/-- The SEC block (Table 16.7). -/
def readSec (s : State) (o : Nat) : Option Word :=
  if o = 0x000 then some (secWord s)
  else if 0x100 ≤ o ∧ o < 0x200 then
    let n := (o - 0x100) / 64
    match (o - 0x100) % 64 with
    | 4 => some (msWord s n)
    | 8 => some (msSt s n).txPn
    | _ => none
  else none

/-- The BAR0 address of counter i of port p. -/
def macCounter (p i : Nat) : Nat := if p < 17 then prt p (0x100 + 4 * i) else 0xB0100 + (p - 17) * 0x100 + 4 * i

/-- The PRT/MAC block of port p, but for its stored counters (Tables 2.6, 4.5, 5.7, 6.11). -/
def readPrt (s : State) (p o : Nat) : Option Word :=
  let m := macSt s p
  if o = 0x004 then some (linkStatusWord s p)
  else if o = 0x00C then some (if p < 4 then eqStatusWord s p else 0)
  else if o = 0x044 then some (macStatusWord s p)
  else if o = 0x060 then some m.halfLo
  else if o = 0x064 then some (halfHiNow s p)
  else if o = 0x068 then some m.maskLo
  else if o = 0x06C then some m.maskHi
  else if o = 0x070 then some (word (s.baseMac.toNat + p))
  else if o = 0x074 then some (word ((s.baseMac.toNat + p) / 2 ^ 32))
  else if o = 0x1C4 then some (pausedTime s p)
  else if o = 0x200 then some (flagAt 31 true)
  else if o = 0x204 then some (schedStatusWord s p)
  else if o = 0x20C then some (fieldAt 21 3 7)
  else if o = 0x210 then some (word (schedSt s p).guard)
  else if 0x270 ≤ o ∧ o < 0x290 then some (word (queueDepth s p ((o - 0x270) / 4)))
  else if o = 0x300 then some (if p < 4 then fieldAt 8 3 2 ||| fieldAt 0 8 (cfg s 0x2601 0) else 0)
  else if o = 0x304 then some (ptpStatusWord s p)
  else if o = 0x308 then some (word (ptpSt s p).delay)
  else if o = 0x30C then some (intWord (ptpSt s p).nrr)
  else if o = 0x310 then some (intWord (asymNow s p))
  else none

/-- The SCH block (Table 5.9). -/
def readSch (s : State) (o : Nat) : Option Word :=
  if o = 0x000 then some (schPendingWord s)
  else if o = 0x004 then some (word s.net.fallback.toNat)
  else if o = 0x008 then some (word s.net.fallbackMask.toNat)
  else if 0x100 ≤ o ∧ o < 0x320 then
    let g := (schedSt s ((o - 0x100) / 32)).oper
    match (o - 0x100) % 32 with
    | 0x10 => some (word g.base.toNat)
    | 0x14 => some (word (g.base.toNat / 2 ^ 32))
    | 0x18 => some (word g.cycle)
    | 0x1C => some (word g.entries.length)
    | _ => none
  else if 0x8000 ≤ o ∧ o < 0xC400 then
    match (schedSt s ((o - 0x8000) / 0x400)).oper.entries[(o - 0x8000) % 0x400 / 4]? with
    | some (g, n) => some (fieldAt 24 8 g.toNat ||| fieldAt 0 23 n)
    | none => some 0xFF000000
  else none

/-- The TIM block, but for its stored counters (Table 6.9). -/
def readTim (s : State) (o : Nat) : Option Word :=
  if o = 0x004 then some (servoStatusWord s)
  else if o = 0x008 then some (timeNs s)
  else if o = 0x00C then some (word (s.now.toNat / 2 ^ 32))
  else if o = 0x010 then some (intWord s.tim.offset)
  else if o = 0x014 then some (intWord s.tim.freq)
  else if o = 0x018 then some (intWord (lineDiff s))
  else if o = 0x01C then some (word s.tim.holdErr)
  else if o = 0x020 then some (word (holdTime s))
  else if o = 0x030 then some (word s.tim.gm.id.toNat)
  else if o = 0x034 then some (word (s.tim.gm.id.toNat / 2 ^ 32))
  else if o = 0x038 then some (match s.tim.gm.utc with
    | some u => flagAt 16 true ||| fieldAt 0 16 u
    | none => 0)
  else if 0x100 ≤ o ∧ o < 0x180 then
    let x := ppsSt s ((o - 0x100) / 32)
    match (o - 0x100) % 32 with
    | 0x14 => some (flagAt 2 x.suppressed ||| flagAt 1 x.missed ||| flagAt 0 x.armed)
    | 0x1C => some (word x.next.toNat)
    | _ => none
  else if 0x200 ≤ o ∧ o < 0x280 then
    let k := (o - 0x200) / 32
    match (o - 0x200) % 32 with
    | 0x04 => some (capMetaWord s k)
    | 0x08 => some (((capSt s k).fifo.head?.map (·.2)).getD 0)
    | 0x0C => some (flagAt 0 (capSt s k).overflow)
    | _ => none
  else none

/-- The INA block, but for its stored counters (Table 3.11). -/
def readIna (s : State) (o : Nat) : Option Word :=
  let img := (s.ina.sheet.map sheetBytes).getD []
  if o = 0x000 then some (flagAt 0 s.ina.inhibit)
  else if o = 0x004 then some (inaStatusWord s)
  else if o = 0x008 then some (activeCsc s)
  else if o = 0x00C then some s.ina.prevCsc
  else if o = 0x010 then some (word ((s.ina.sheet.map Sheet.instant).getD 0).toNat)
  else if o = 0x014 then some (word (((s.ina.sheet.map Sheet.instant).getD 0).toNat / 2 ^ 32))
  else if o = 0x018 then some ((s.ina.sheet.map sheetDigest).getD 0)
  else if o = 0x01C then some (couplerWord s)
  else if 0x400 ≤ o ∧ o < 0x720 then some (word (leNat (padTo 4 (img.drop ((o - 0x400) / 4 * 4)))))
  else none

/-- The SPL block, but for its stored counters (Tables 7.10 to 7.12). -/
def readSpl (s : State) (o : Nat) : Option Word :=
  if o = 0x004 then some (splStatusWord s)
  else if o = 0x018 then some (word (cfg s 0x2704 0))
  else if 0x1000 ≤ o ∧ o < 0x2000 ∧ o % 64 = 0x1C then some (winStatusWord s ((o - 0x1000) / 64))
  else if 0x2000 ≤ o ∧ o < 0x2800 ∧ o % 32 = 0x14 then some (flagAt 0 (s.spl.regDrained.getLsbD ((o - 0x2000) / 32)))
  else if 0x3000 ≤ o ∧ o < 0x3100 then some (semWord s ((o - 0x3000) / 4))
  else if o = 0x3100 then some (dbMetaWord s)
  else if o = 0x3104 then some ((s.spl.db.head?.map (fun d => word d.src.toNat)).getD 0)
  else if o = 0x3108 then some ((s.spl.db.head?.map (fun d => word (d.src.toNat / 2 ^ 32))).getD 0)
  else if o = 0x310C then some ((s.spl.db.head?.map (·.value)).getD 0)
  else if o = 0x3110 then some (dbStatusWord s)
  else if o = 0x3200 then some (ceMetaWord s)
  else if o = 0x3204 then some ((s.spl.ce.head?.map (fun c => word c.offset)).getD 0)
  else if o = 0x3208 then some ((s.spl.ce.head?.map (·.seq)).getD 0)
  else if o = 0x3210 then some (ceStatusWord s)
  else none

/-- The STM block, but for its stored counters (Tables 7.13, 8.7). -/
def readStm (s : State) (o : Nat) : Option Word :=
  if o < 0x200 ∧ o % 32 = 4 then some (streamWord s (o / 32))
  else if 0x400 ≤ o ∧ o < 0x41C then
    some (match s.spl.pwf with
      | [] => 0
      | e :: _ => (pwfWords e).getD ((o - 0x400) / 4) 0)
  else if o = 0x420 then some (pwfStatusWord s)
  else if o = 0x444 then some (abortWord s)
  else if o = 0x480 then some (word s.spl.pdlHead)
  else if 0x500 ≤ o ∧ o < 0x700 then
    some (match tfind s.spl.pdl ((o - 0x500) / 16) with
      | none => 0
      | some e => (pdlWords e).getD ((o - 0x500) % 16 / 4) 0)
  else none

/-- The CHK block, but for its stored counters (Table 9.3). -/
def readChk (s : State) (o : Nat) : Option Word :=
  if o = 0x000 then some (chkCtrlWord s)
  else if o = 0x004 then some (chkStatusWord s)
  else if o = 0x008 then some (word s.chk.dst.toNat)
  else if o = 0x00C then some (word (s.chk.dst.toNat / 2 ^ 32))
  else if o = 0x010 then some (word s.chk.src.toNat)
  else if o = 0x014 then some (word (s.chk.src.toNat / 2 ^ 32))
  else if o = 0x018 then some s.chk.seq
  else if o = 0x01C then some s.chk.csc
  else if o = 0x028 then some s.chk.result
  else if o = 0x030 then some (word s.chk.addr.toNat)
  else if o = 0x034 then some (word (s.chk.addr.toNat / 2 ^ 32))
  else if o = 0x038 then some (word s.chk.len)
  else none

/-- The PDB block, but for its stored counters (Table 10.6). -/
def readPdb (s : State) (o : Nat) : Option Word :=
  if o = 0x004 then some (flagAt 8 s.pdb.drained)
  else if o = 0x008 then some (word s.pdb.errStatus.toNat)
  else if o = 0x00C then some (word s.pdb.errMask.toNat)
  else if o = 0x010 then some (canWord s 0)
  else if o = 0x014 then some (canWord s 1)
  else if o = 0x01C then some (mvbWord s)
  else if 0x020 ≤ o ∧ o < 0x040 then some (staleWord s ((o - 0x020) / 4))
  else none

/-- The SW block, but for its stored counters (Tables 2.13, R132, R135). -/
def readSw (s : State) (o : Nat) : Option Word :=
  if o = 0x004 then some (dupStatusWord s)
  else if o = 0x008 then some (lineStatusWord s)
  else if o = 0x010 then some (relayStatusWord s)
  else if o = 0x080 then some (halfPortsWord s)
  else if 0x100 ≤ o ∧ o < 0x400 then
    let m := macSt s (17 + (o - 0x100) / 0x100)
    match o % 0x100 with
    | 0xF0 => some m.halfLo
    | 0xF4 => some m.halfHi
    | 0xF8 => some m.maskLo
    | 0xFC => some m.maskHi
    | _ => none
  else none

/-- The computed word at a BAR0 address, where the register there is computed from other state. -/
def readComputed (s : State) (a : Nat) : Option Word :=
  if a < 0x2000 then readIdIrq s a
  else if a < 0x3000 then readPwr s (a - 0x2000)
  else if a < 0x4000 then readHpl s (a - 0x3000)
  else if a < 0x8000 then readWak s (a - 0x4000)
  else if a < 0x9000 then readOdx s (a - 0x8000)
  else if a < 0x10000 then readTak s (a - 0x9000)
  else if a < 0x21000 then readPrt s ((a - 0x10000) / 0x1000) (a % 0x1000)
  else if a < 0x30000 then none
  else if a < 0x40000 then readSch s (a - 0x30000)
  else if a < 0x48000 then readTim s (a - 0x40000)
  else if a < 0x50000 then readIna s (a - 0x48000)
  else if a < 0x58000 then readSpl s (a - 0x50000)
  else if a < 0x60000 then readStm s (a - 0x58000)
  else if a < 0x68000 then readChk s (a - 0x60000)
  else if a < 0x70000 then readPdb s (a - 0x68000)
  else if 0x70000 ≤ a ∧ a < 0x80000 then readRec s (a - 0x70000)
  else if 0x80000 ≤ a ∧ a < 0x90000 then readTln s (a - 0x80000)
  else if 0x90000 ≤ a ∧ a < 0xA0000 then readCpu s (a - 0x90000)
  else if 0xA0000 ≤ a ∧ a < 0xB0000 then readSec s (a - 0xA0000)
  else if 0xB0000 ≤ a ∧ a < 0xC0000 then readSw s (a - 0xB0000)
  else none

/-- The word at BAR0 address a, without the side effect a software read may have (R368, R472, R475):
the applied RWT fields, with the computed word or the stored word of the other fields. -/
def regRead (s : State) (a : Nat) : Word :=
  rwtWord s a ||| (readComputed s a).getD (tget s.reg a 0)

end Sys2Proof.Machine
end

