-- ==== Sys2Proof/Machine/Operands.lean ====
section
/-!
DEFINITION. Machine/Operands.lean: the byte forms of recorder entries (R369), and the value an object reads
as (R289).
-/
namespace Sys2Proof.Machine

/-! ### Recorder entries (R369) -/

/-- The 64-byte header (Table 14.4). -/
def entryHeader (s : State) (e : RecEntry) : List Byte :=
  [0x01, BitVec.ofNat 8 (e.sev % 8), BitVec.ofNat 8 e.source, BitVec.ofNat 8 e.list]
    ++ beBytes 4 (entryLen e) ++ beBytes 4 (seqOf e).toNat ++ beBytes 5 e.opTime ++ beBytes 3 e.powerCycle
    ++ beBytes 8 e.instant.toNat ++ beBytes 2 e.coalesced ++ beBytes 2 (min e.lost 65535)
    ++ beBytes 2 (min e.refused 65535) ++ beBytes 2 e.items.length ++ beBytes 4 e.csc.toNat ++ beBytes 6 s.uid.toNat
    ++ [BitVec.ofNat 8 ((if e.timeValid then 128 else 0) + (if e.underSag then 64 else 0) + (if e.rewritten then 32 else 0)),
        BitVec.ofNat 8 e.nodeState]
    ++ padTo 8 e.data ++ List.replicate 8 0

/-- One item record. -/
def itemBytes (i : Word × List Byte) : List Byte :=
  beBytes 4 i.1.toNat ++ beBytes 2 i.2.length ++ [0, 0] ++ pad4 i.2

/-- The whole entry, with its check (R369). -/
def entryBytes (s : State) (e : RecEntry) : List Byte :=
  let body := entryHeader s e ++ e.items.flatMap itemBytes
  body ++ beBytes 4 (checkOf s.uid s.uid (seqOf e) 0 body).toNat

/-- The first existing entry whose sequence is at least q; entries stand oldest first. -/
def entryFrom (s : State) (q : Word) : Option RecEntry :=
  (existing s).find? (fun e => decide (q.toNat ≤ (seqOf e).toNat))

/-! ### The value an object reads as (R289) -/

/-- A number as the byte string of the object's type, most significant byte first (R292). -/
def encodeVal (k : Nat) : Val → List Byte
  | .num n => beBytes (((keyRow k).map (fun r => r.ty.size)).getD 0) n
  | .bytes l => l

/-- RO objects that mirror a BAR0 register: first index and sub-index, last sub-index, first address, address step. -/
def mirrors : List (Nat × Nat × Nat × Nat × Nat) := [
  (0x2120, 0, 0, 0x2010, 0), (0x2121, 0, 0, 0x2014, 0), (0x2123, 0, 0, 0x2020, 0), (0x2124, 0, 0, 0x2004, 0),
  (0x2125, 0, 0, 0x2008, 0), (0x2126, 1, 8, 0x2104, 0x10), (0x2130, 1, 4, 0x2040, 4), (0x2145, 0, 0, 0x3008, 0),
  (0x2146, 0, 0, 0x3004, 0), (0x2147, 1, 3, 0x3040, 4), (0x2920, 0, 0, 0x4004, 0), (0x2921, 0, 0, 0x4008, 0),
  (0x2922, 1, 9, 0x4040, 4), (0x2A23, 0, 0, 0x70004, 0), (0x2A24, 1, 7, 0x70040, 4), (0x2A26, 0, 0, 0x70020, 0),
  (0x2B30, 0, 0, 0x80004, 0), (0x2B31, 1, 16, 0x8010C, 0x20), (0x2B33, 1, 8, 0x80040, 4), (0x2C22, 0, 0, 0xA0000, 0),
  (0x2C35, 0, 0, 0x90018, 0), (0x2C36, 0, 0, 0x90048, 0), (0x2F01, 0, 0, 0x9000, 0), (0x2F02, 0, 0, 0x9004, 0),
  (0x2F04, 0, 0, 0x901C, 0), (0x2F11, 0, 0, 0x9018, 0), (0x2F12, 1, 8, 0x9040, 4),
  (0x2206, 1, 4, 0x10004, 0x1000), (0x2310, 1, 9, 0xB0020, 4), (0x2410, 0, 0, 0x48008, 0), (0x2411, 0, 0, 0x4800C, 0),
  (0x2415, 1, 7, 0x48030, 4), (0x2560, 1, 17, 0x10204, 0x1000), (0x2561, 1, 17, 0x10210, 0x1000),
  (0x2638, 0, 0, 0x40004, 0), (0x2639, 0, 0, 0x40010, 0), (0x263A, 0, 0, 0x40018, 0),
  (0x263B, 0, 0, 0x4001C, 0), (0x2640, 1, 6, 0x40040, 4), (0x2720, 1, 16, 0x58004, 0x20), (0x27C0, 1, 17, 0x50040, 4),
  (0x27C1, 1, 64, 0x53000, 4), (0x27C5, 3, 3, 0x58420, 0), (0x27C7, 1, 8, 0x58460, 4), (0x27C9, 0, 0, 0x58444, 0),
  (0x2860, 0, 0, 0x68008, 0), (0x2861, 1, 8, 0x68020, 4)]

/-- The register that the object (idx, sub) mirrors. -/
def mirrorOf (idx sub : Nat) : Option Nat :=
  (mirrors.find? (fun m => m.1 = idx && decide (m.2.1 ≤ sub ∧ sub ≤ m.2.2.1))).map
    (fun m => m.2.2.2.1 + (sub - m.2.1) * m.2.2.2.2)

/-- The register behind a counter object whose registers are not evenly spaced, or that has one index per port: the MAC
and scheduling counters (R136, R161) and the process-data counters (R287). -/
def counterReg (idx sub : Nat) : Option Nat :=
  if 0x2220 ≤ idx ∧ idx < 0x2231 ∧ 1 ≤ sub ∧ sub ≤ 53 then some (prt (idx - 0x2220) (0x100 + 4 * (sub - 1)))
  else if 0x2231 ≤ idx ∧ idx < 0x2234 ∧ 1 ≤ sub ∧ sub ≤ 53 then some (0xB0100 + (idx - 0x2231) * 0x100 + 4 * (sub - 1))
  else if 0x2570 ≤ idx ∧ idx < 0x2581 ∧ 1 ≤ sub ∧ sub ≤ 11 then some (prt (idx - 0x2570) (0x220 + 4 * (sub - 1)))
  else if idx = 0x2862 ∧ 1 ≤ sub ∧ sub ≤ 21 then
    some (if sub ≤ 5 then 0x68040 + 4 * (sub - 1) else if sub ≤ 10 then 0x68060 + 4 * (sub - 6) else 0x68080 + 4 * (sub - 11))
  else none

/-- ISO 646 characters of the device name (Table 11.13). -/
def deviceName : List Byte := "Kiord FX-2440".toList.map (fun c => BitVec.ofNat 8 c.toNat)

/-- COB-IDs of the SDO server of CAN port c (Table 11.13): bit 31 set while off. -/
def sdoCobId (s : State) (c base : Nat) : Nat :=
  let n := cfg s 0x2009 (c + 1)
  base + n + (if n = 0 then 2 ^ 31 else 0)

/-- Sessions in use: the two SDO, the Host, and the DAM sessions (0x2011). -/
def sessionsInUse (s : State) : Nat := 3 + (s.od.sess.filter (fun p => decide (3 ≤ p.1) && p.2.used)).length

/-- A gate list's bytes of `n` entries, as a DOMAIN (R161). -/
def gateBytes (g : List (BitVec 8 × Nat)) : List Byte := g.flatMap (fun e => beBytes 1 e.1.toNat ++ beBytes 3 e.2)

/-- Objects of chapters 3, 5, 6, 7 and 8 that are computed, beyond those that mirror a register. -/
def objSpecialB (s : State) (idx sub : Nat) : Option Val :=
  if idx = 0x2407 then some (.num (if s.ina.inhibit then 1 else 0))
  else if idx = 0x2412 then some (.num (ownPosition s))
  else if idx = 0x2413 then some (.bytes ((s.ina.sheet.map sheetBytes).getD []))
  else if idx = 0x2414 then some (.num ((s.ina.sheet.map Sheet.instant).getD 0).toNat)
  else if idx = 0x2421 then some (.num s.ina.etb.toNat)
  else if 0x2520 ≤ idx ∧ idx ≤ 0x2530 ∧ sub = 4 then
    some (.bytes ((List.range (cfg s idx 3)).flatMap (fun e => beBytes 4 (gateEntryRead (valBytes (valOf s (key idx 4))) e))))
  else if 0x2540 ≤ idx ∧ idx ≤ 0x2550 then
    let g := (schedSt s (idx - 0x2540)).oper
    some (match sub with
      | 1 => .num g.base.toNat
      | 2 => .num g.cycle
      | 3 => .num g.entries.length
      | _ => .bytes (gateBytes g.entries))
  else if idx = 0x2562 then
    -- R153: bit 1 shows that mode 0 has fallen back on at least one port
    some (.num (s.net.fallback.toNat ||| (if s.net.fallback = 0 then 0 else 2)))
  else if idx = 0x263C then some (.num s.tim.gm.id.toNat)
  else if idx = 0x27C5 ∧ sub = 1 then
    some (.bytes (s.spl.pwf.flatMap (fun e => (pwfWords e).flatMap (fun w => beBytes 4 w.toNat))))
  else if idx = 0x27C6 then
    -- oldest first: from the head on, around the ring (R257, R262)
    some (.bytes ((List.range 32).flatMap (fun i => match tfind s.spl.pdl ((s.spl.pdlHead + i) % 32) with
      | none => []
      | some e => (pdlWords e).flatMap (fun w => beBytes 4 w.toNat))))
  else none

/-- What an RO object, or an RW object that is not held among the applied values, reads as for a session (R289, R316). -/
def objSpecial (s : State) (i : Session) (idx sub : Nat) : Option Val :=
  match (mirrorOf idx sub).or (counterReg idx sub) with
  | some a => some (.num (regRead s a).toNat)
  | none =>
    if idx = 0x1000 then some (.num 0)
    else if idx = 0x1001 then some (.num (errorRegister s))
    else if idx = 0x1008 then some (.bytes deviceName)
    else if idx = 0x1010 ∨ idx = 0x1011 then some (.num 1)
    else if idx = 0x1018 then some (.num (match sub with
      | 1 => 0x0B5A
      | 2 => 0x2440
      | 3 => s.hwRev.toNat * 65536 + s.fwVersion.toNat % 65536
      | _ => s.serial.toNat))
    else if idx = 0x1200 ∨ idx = 0x1201 then
      some (.num (sdoCobId s (idx - 0x1200) (if sub = 1 then 0x600 else 0x580)))
    else if idx = 0x2000 then some (.num (match sub with
      | 1 => s.uid.toNat
      | 2 => s.baseMac.toNat
      | 3 => s.hwRev.toNat
      | _ => s.fwVersion.toNat))
    else if idx = 0x2002 then
      (if sub = 4 then some (.num (sessOf s i).level)
       else some (.bytes (((sessOf s i).challenge.map (·.1)).getD [])))
    else if idx = 0x2003 then some (.num ((if (tfind s.od.keys 1).isSome then 1 else 0) + (if (tfind s.od.keys 2).isSome then 2 else 0)))
    else if idx = 0x2010 then some (.num (tget s.od.counters sub 0).toNat)
    else if idx = 0x2011 then some (.num (sessionsInUse s))
    else if idx = 0x2122 then some (.num (int16 s.pwr.tempNow))
    else if idx = 0x2901 then some (.num (if s.wak.sleepAllow then 1 else 0))
    else if idx = 0x2A21 then
      some (.num (match (sessOf s i).cursor with
        | some q => q
        | none => ((existing s).head?.map seqOf).getD 0).toNat)
    else if idx = 0x2A22 then
      some (.bytes (((match (sessOf s i).cursor with
        | some q => entryFrom s q
        | none => (existing s).head?).map (entryBytes s)).getD []))
    else if idx = 0x2A25 then some (.num s.log.opTime.toNat)
    else if idx = 0x2B20 then some (.num s.tln.outCmd.toNat)
    else if idx = 0x2B32 then
      some (.num ((fieldAt 16 16 (outMeasured s (sub - 1)).1 ||| outStatusWord s (sub - 1)).toNat))
    else if idx = 0x2F03 then some (.num (takInstant s).toNat)
    else objSpecialB s idx sub

/-- What the object (idx, sub) reads as for a session: an array's sub-index 0 gives the highest in use (R288). -/
def objValue (s : State) (i : Session) (idx sub : Nat) : Val :=
  if sub = 0 ∧ !isSimple idx then .num (highestSub idx)
  else match objSpecial s i idx sub with
    | some v => v
    | none =>
      -- a "No; next reset" object reads the value written last (R289)
      match tfind s.od.saved (key idx sub) with
      | some v => v
      | none => valOf s (key idx sub)

/-- The value as a byte string. -/
def objBytes (s : State) (i : Session) (idx sub : Nat) : List Byte :=
  match objValue s i idx sub with
  | .bytes l => l
  | .num n => if sub = 0 ∧ !isSimple idx then beBytes 1 n else beBytes (((objRow idx sub).map (fun r => r.ty.size)).getD 4) n

end Sys2Proof.Machine
end

