-- ==== Sys2Proof/Machine/Recorder.lean ====
section
/-!
DEFINITION. Machine/Recorder.lean: the event recorder (chapter 14): triggers, the queue, the write order,
overwrite, last words, the cursor, clears.
-/
namespace Sys2Proof.Machine

/-! ### Triggers (R366 to R377) -/

/-- Triggers are latched: the recorder is enabled and D10 and D11 are on (R377). -/
def recLatching (s : State) : Bool := cfgOn s 0x2A01 0 && domOn s .d10 && domOn s .d11 && (domSt s .d11).drainBy.isNone

/-- n triggers or queued entries are lost (R376, R377). -/
def loseN (n : Nat) (s : State) : State :=
  if n = 0 then s
  else raiseIrq 13 (bumpBy 0x70048 n { s with log.lost := s.log.lost + n, log.lostBit := true })

/-- The items of the built-in last-words list 33 (R367). -/
def lastWordsItems : List Word := [0x2010, 0x2004, 0x2008, 0xB0008, 0x48004, 0x40004, 0x9000]

/-- The item codes of list L (R367): 0 none, 33 built in, else 0x2A40 + (L - 1). -/
def listItems (s : State) (l : Nat) : List Word :=
  if l = 0 then []
  else if l = 33 then lastWordsItems
  else
    let b := valBytes (valOf s (key (0x2A40 + (l - 1)) 0))
    beWords (b.length / 4) b

/-- One item captured (R368): 4 bytes of a register, a scalar's type size, at most 256 bytes of a string. -/
def captureItem (s : State) (w : Word) : Word × List Byte :=
  if bitsOf w 31 30 = 0 then (w, beBytes 4 (regRead s (bitsOf w 23 0)).toNat)
  else (w, (objBytes s hostSession (bitsOf w 23 8) (bitsOf w 7 0)).take 256)

/-- The entry a trigger latches (R368, Table 14.4). -/
def latchEntry (src sev : Nat) (data : List Byte) (s : State) : RecEntry :=
  let l := cfg s 0x2A02 (src + 1)
  { source := src, sev := sev, list := l, opTime := s.log.opTime.toNat, powerCycle := s.log.powerCycle.toNat,
    instant := s.now, csc := activeCsc s, timeValid := timeValid s, nodeState := nodeCode s.node,
    data := padTo 8 data, items := (listItems s l).map (captureItem s), at_ := s.up }

/-- Whether a queued entry takes a coalesced trigger (R375). -/
def coalesces (src sev up : Nat) (e : RecEntry) : Bool :=
  e.source == src && e.sev == sev && decide (up < e.at_ + fr) && e.seq.isNone

/-- The first entry that satisfies p counts one more coalesced trigger. -/
def coalesceFirst (p : RecEntry → Bool) : List RecEntry → List RecEntry
  | [] => []
  | e :: r => if p e then { e with coalesced := min (e.coalesced + 1) 65535 } :: r else e :: coalesceFirst p r

/-- The last entry that satisfies p is dropped. -/
def dropLast (p : RecEntry → Bool) (l : List RecEntry) : List RecEntry :=
  (l.reverse.eraseP p).reverse

/-- The lowest severity among entries whose writing has not started; 8 where there is none. -/
def lowestSev (l : List RecEntry) : Nat :=
  l.foldl (fun m e => if e.seq.isNone then min m e.sev else m) 8

/-- A clear whose record has been lost before its mark voids nothing, and ends as an aborted one does (R387, log 51). -/
def clearLost (s : State) : State :=
  if s.log.clear.isSome && !s.log.queue.any (fun e => e.source == 31) then { s with log.clear := none, log.clrDone := true, log.clrResult := 2 }
  else s

/-- A trigger of a source: latched, coalesced, or lost (R374 to R377). -/
def fire (src sev : Nat) (data : List Byte) (s : State) : State :=
  if !recLatching s then loseN 1 s
  else if s.log.queue.any (coalesces src sev s.up) then
    bump 0x70044 { s with log.queue := coalesceFirst (coalesces src sev s.up) s.log.queue }
  else if s.log.queue.length < 64 then { s with log.queue := s.log.queue ++ [latchEntry src sev data s] }
  else
    let low := lowestSev s.log.queue
    if low = 8 ∨ sev ≤ low then loseN 1 s
    else
      let q := dropLast (fun e => e.seq.isNone && e.sev == low) s.log.queue
      clearLost (loseN 1 { s with log.queue := q ++ [latchEntry src sev data s] })

/-! ### Space (R378, R379) -/

/-- Void entries and pages without a mark are erased (R378). -/
def reclaim (s : State) : State :=
  { s with log.store := s.log.store.filter (fun r => !r.void), log.junkPages := 0 }

/-- The entry the cursor holds has been voided (R384). -/
def noteGone (p : RecEntry → Bool) (s : State) : State :=
  match s.log.cur with
  | some e => if p e then { s with log.curGone := true } else s
  | none => s

/-- Eligible victims for an entry of severity v (R379): severity at most v and not 7. -/
def eligible (v : Nat) (r : RecStored) : Bool := !r.void && decide (r.entry.sev ≤ v) && r.entry.sev != 7

/-- Victims are voided, oldest first, until `need` more pages are free; how many, and the store. -/
def voidVictims (v : Nat) : Nat → List RecStored → Nat × List RecStored
  | _, [] => (0, [])
  | need, r :: rest =>
    if need = 0 then (0, r :: rest)
    else if eligible v r then
      let (n, l) := voidVictims v (need - r.pages) rest
      (n + 1, { r with void := true } :: l)
    else
      let (n, l) := voidVictims v need rest
      (n, r :: l)

/-- Room for `need` pages for an entry of severity v: none where it is refused (R379). -/
def makeRoom (v need : Nat) (s : State) : Option State :=
  if need ≤ freePages s then some s
  else
    let s := reclaim s
    if need ≤ freePages s then some s
    else
      let s := { s with log.fullNoted := true }
      let avail := freePages s + ((s.log.store.filter (eligible v)).map (·.pages)).sum
      if avail < need then none
      else
        let (n, st) := voidVictims v (need - freePages s) s.log.store
        let gone := st.filterMap (fun r => if r.void then r.entry.seq else none)
        let s := noteGone (fun e => gone.contains (seqOf e)) s
        some (reclaim (bumpBy 0x70050 n { s with log.store := st }))

/-- The first time the free pages have run out since power-on or a clear, a RECORDER_FULL entry is queued;
`before` is the state before room was made (R379). -/
def noteFull (before s : State) : State :=
  if s.log.fullNoted && !before.log.fullNoted then
    fire 32 3 (padTo 4 [] ++ beBytes 4 (((existing before).head?.map seqOf).getD 0).toNat) s
  else s

/-- A refused entry leaves room as it was, but the free pages have run out (R379). -/
def ranOut (s : State) : State := { s with log.fullNoted := true }

/-- The entry at the head is refused (R379). -/
def refuseHead (s : State) : State :=
  let wasClear := match s.log.queue.head? with
    | some e => e.source == 31 && s.log.clear.isSome
    | none => false
  let s := { s with log.queue := s.log.queue.tail, log.refusedCount := s.log.refusedCount + 1,
                    log.refusedBit := true, log.stopped := false }
  let s := if wasClear then { s with log.clear := none, log.clrDone := true, log.clrResult := 4 } else s
  raiseIrq 13 (bump 0x7004C s)

/-! ### Write order (R370 to R373) -/

/-- Entry x has the lower sequence. -/
def olderThan (e x : RecEntry) : Bool := decide ((seqOf x).toNat < (seqOf e).toNat)

/-- How many entries a clear with ceiling c voids, by its record (R386). -/
def clearCount (rec : RecEntry) (c : Nat) (s : State) : Nat := ((existing s).filter (fun e => decide (e.sev ≤ c) && olderThan rec e)).length

/-- The recorder may start a NAND program (R372, R380). -/
def nandReady (s : State) : Bool := domOn s .d10 && domOn s .d11 && !s.pwr.sag

/-- The head's first page program starts (R370, R376, R379, R381): it takes its sequence and the counts of
what was lost and refused; a stopped entry keeps its sequence and sets FLAGS bit 5. -/
def startHead (e : RecEntry) (s : State) : State :=
  let again := e.seq.isSome
  let e := if again then { e with rewritten := true }
    else { e with seq := some s.log.nextSeq, lost := s.log.lost, refused := s.log.refusedCount }
  let e := match s.log.clear with
    | some c => if e.source = 31 then { e with data := e.data.take 4 ++ beBytes 4 (clearCount e c s) } else e
    | none => e
  let s := if again then s
    else { s with log.nextSeq := s.log.nextSeq + 1, log.lost := 0, log.refusedCount := 0 }
  { s with log.queue := e :: s.log.queue.tail, log.writing := some (.page 0), log.stopped := false }

/-- The head starts writing once pages are free, voiding victims or being refused (R379). -/
def entryWriteStart (s : State) : State :=
  match s.log.queue, s.log.writing with
  | e :: _, none =>
    if nandReady s then
      match makeRoom e.sev (entryPages e) s with
      | some s' => noteFull s (startHead e s')
      | none => noteFull s (refuseHead (ranOut s))
    else s
  | _, _ => s

/-- The entry being written stops: its pages have no mark; it keeps its slot at the head (R380). -/
def stopHead (pages : Nat) (s : State) : State :=
  { s with log.writing := none, log.stopped := true, log.junkPages := s.log.junkPages + pages }

/-- The head is dropped for good. -/
def dropHead (pages : Nat) (s : State) : State :=
  { s with log.writing := none, log.stopped := false, log.queue := s.log.queue.tail,
           log.junkPages := s.log.junkPages + pages, log.forceStop := false }

/-- A page program of the head completes; after the last one, the read-back (R372). -/
def pageDone (readbackOk : Bool) (s : State) : State :=
  match s.log.queue, s.log.writing with
  | e :: _, some (.page done) =>
    let n := done + 1
    if s.log.forceStop then clearLost (dropHead n s)
    else if s.pwr.sag then stopHead n s
    else if n < entryPages e then { s with log.writing := some (.page n) }
    else if readbackOk then { s with log.writing := some .mark }
    else bump 0x70058 { s with log.writing := some (.page 0), log.junkPages := s.log.junkPages + n }
  | _, _ => s

/-- The partition with one more entry, in the order of the sequences: an entry that sag stopped is written after the last words and has
the lower one (R381). -/
def storeEntry (r : RecStored) (l : List RecStored) : List RecStored :=
  let newer := (l.reverse.takeWhile (fun x => olderThan x.entry r.entry)).length
  l.take (l.length - newer) ++ r :: l.drop (l.length - newer)

/-- An entry's mark is written: it exists (R372, R373). -/
def entryExists (e : RecEntry) (s : State) : State :=
  let s := bump 0x70040 { s with log.store := storeEntry { entry := e, pages := entryPages e } s.log.store }
  if cfg s 0x2A06 0 ≤ e.sev then raiseIrq 13 s else s

/-- The clear's record has its mark: older entries up to the ceiling are void (R386). -/
def applyClear (e : RecEntry) (c : Nat) (s : State) : State :=
  let hit (x : RecEntry) := decide (x.sev ≤ c) && olderThan e x
  let s := noteGone hit s
  { s with log.store := s.log.store.map (fun r => if hit r.entry then { r with void := true } else r),
           log.clear := none, log.clrDone := true, log.clrResult := 1, log.fullNoted := false }

/-- The mark program completes (R372). -/
def markDone (s : State) : State :=
  match s.log.queue, s.log.writing with
  | e :: q, some .mark =>
    let s := { s with log.queue := q, log.writing := none, log.stopped := false, log.forceStop := false }
    let s := entryExists e s
    (match s.log.clear with
     | some c => if e.source = 31 then applyClear e c s else s
     | none => s)
  | _, _ => s

/-- A program in progress completes (R382). -/
def finishProgram (s : State) : State :=
  match s.log.writing with
  | some (.page _) => pageDone true s
  | some .mark => markDone s
  | none => s

/-! ### Last words (R382) -/

/-- When the last words come (R382): the last-words delay has passed, or hold-up ends. -/
def toLastWords (s : State) : State := if s.pwr.holdupLow then s else passTo (s.pwr.sagAt + cfg s 0x2A05 0 * fr) s

/-- The last-words entry is written (R382); where nothing is latched, its trigger is lost once (R377). -/
def lastWords (s : State) : State :=
  if !s.pwr.sag || s.log.lastWordsDone || s.log.lastWordsLost then s
  else if !recLatching s then loseN 1 { toLastWords s with log.lastWordsLost := true }
  else
    let s := toLastWords s
    let latched := latchEntry 1 6 [] s
    let s := finishProgram s
    let stopped := match s.log.queue.head? with
      | some e => if s.log.stopped then seqOf e else 0
      | none => 0
    let data := [BitVec.ofNat 8 s.log.queue.length, 0] ++ beBytes 2 (min s.log.lost 65535) ++ beBytes 4 stopped.toNat
    let e := { latched with data := data, underSag := true, seq := some s.log.nextSeq, lost := s.log.lost,
                            refused := s.log.refusedCount }
    match makeRoom 6 (entryPages e) s with
    | none => noteFull s (raiseIrq 13 (bump 0x7004C (ranOut { s with log.refusedBit := true, log.refusedCount := s.log.refusedCount + 1 })))
    | some t =>
      let t := { t with log.nextSeq := t.log.nextSeq + 1, log.lost := 0, log.refusedCount := 0,
                        log.lastWordsDone := true }
      noteFull s (bump 0x70054 (entryExists e t))

/-- D11 or D10 is lost: every queued entry is discarded and counted as lost (R377). -/
def recLost (s : State) : State :=
  let pages := match s.log.writing with
    | some (.page done) => done + 1
    | some .mark => (s.log.queue.head?.map entryPages).getD 0
    | none => 0
  let n := s.log.queue.length
  loseN n { s with log.queue := [], log.writing := none, log.stopped := false, log.forceStop := false,
                   log.junkPages := s.log.junkPages + pages, log.clear := none,
                   log.clrDone := s.log.clrDone || s.log.clear.isSome,
                   log.clrResult := if s.log.clear.isSome then 2 else s.log.clrResult }

/-! ### The cursor (R383) -/

/-- A page of an entry is loaded into the window. -/
def loadPage (e : RecEntry) (page : Nat) (s : State) : State :=
  { s with log.cur := some e, log.curSeq := seqOf e, log.curReady := true, log.curGone := false, log.curEnd := false,
           log.curRange := false, log.curPage := page, log.window := ((entryBytes s e).drop (4096 * page)).take 4096 }

/-- No entry qualifies: END, and the window reads 0. -/
def cursorEnd (s : State) : State :=
  { s with log.cur := none, log.curReady := true, log.curGone := false, log.curEnd := true, log.curRange := false,
           log.window := [] }

/-- The entry a cursor command selects, loaded, or END. -/
def cursorTo (sel : List RecEntry → Option RecEntry) (minSev page : Nat) (s : State) : State :=
  match sel ((existing s).filter (fun e => decide (minSev ≤ e.sev))) with
  | some e => loadPage e page s
  | none => cursorEnd s

/-- The sequence the cursor stands at. -/
def cursorSeq (s : State) : Nat :=
  match s.log.cur with
  | some e => (seqOf e).toNat
  | none => s.log.curSeq.toNat

/-- PAGE (R383): another page of the current entry, RANGE beyond it, END when none is current. -/
def cursorPage (page : Nat) (s : State) : State :=
  match s.log.cur with
  | none => { s with log.curReady := true, log.curEnd := true }
  | some e =>
    if page < entryPages e then
      { s with log.curReady := true, log.curRange := false, log.curPage := page,
               log.window := ((entryBytes s e).drop (4096 * page)).take 4096 }
    else { s with log.curReady := true, log.curRange := true, log.window := [] }

/-! ### Clearing and disable (R386 to R388) -/

/-- A clear may start now: no sag, the recorder latches triggers, and no clear runs. -/
def clearAllowed (s : State) : Bool := !s.pwr.sag && recLatching s && s.log.clear.isNone

/-- A clear with ceiling c starts: its record is queued; `kind` is the channel kind of Table 11.3 (R386). -/
def clearStart (c kind : Nat) (s : State) : State :=
  let n := s.log.queue.length
  let s := fire 31 6 [BitVec.ofNat 8 c, BitVec.ofNat 8 kind] s
  if s.log.queue.length = n ∧ !(s.log.queue.any (fun e => e.source == 31 && e.seq.isNone)) then
    { s with log.clrDone := true, log.clrResult := 4 }
  else { s with log.clear := some c, log.clrDone := false, log.clrResult := 0 }

/-- An abort of a clear (R387). -/
def clearAbort (s : State) : State :=
  match s.log.clear with
  | none => if s.log.clrResult = 1 then { s with log.clrResult := 3 } else s
  | some _ =>
    let s := { s with log.clear := none, log.clrDone := true, log.clrResult := 2 }
    match s.log.queue with
    | e :: _ =>
      if e.source = 31 then
        (match s.log.writing with
         | some (.page done) => dropHead (done + 1) s
         | some .mark => dropHead (entryPages e) s
         | none => dropHead 0 s)
      else { s with log.queue := s.log.queue.filter (fun x => x.source != 31) }
    | [] => s

/-- FORCE_STOP of the recorder (R388). -/
def recForceStop (s : State) : State :=
  let s := applyVals [(key 0x2A01 0, .num 0)] s
  clearLost (match s.log.writing with
  | some .mark =>
    -- the current program is the mark's: the entry stops without it
    let n := s.log.queue.length - 1
    loseN n (dropHead ((s.log.queue.head?.map entryPages).getD 0) { s with log.queue := s.log.queue.take 1 })
  | some (.page _) =>
    loseN (s.log.queue.length - 1) { s with log.queue := s.log.queue.take 1, log.forceStop := true }
  | none => loseN s.log.queue.length { s with log.queue := [], log.stopped := false })

/-- What remains of a forced stop: the page program in progress completes and the entry does not exist (R388). -/
def recDrain (s : State) : State := if s.log.forceStop then pageDone true s else s

end Sys2Proof.Machine
end

