-- ==== Sys2Proof/Machine/Net.lean ====
section
/-!
DEFINITION. Machine/Net.lean: frames through the node: MAC counters, queues, the frame on the wire, PAUSE, the planes'
forwarding, and the duplicator (chapters 1, 2, 4, 5).
-/
namespace Sys2Proof.Machine

/-! ### MAC counters (R131, R132, R135) -/

/-- Counters that count no event on an internal port (R135). -/
def notInternal (i : Nat) : Bool := i = 5 || i = 6 || (15 ≤ i && i ≤ 21) || i = 37 || (46 ≤ i && i ≤ 51)

/-- Counter i of port p counts n; a change of its bit 31 is a half-range event (R132). -/
def countMac (p i n : Nat) (s : State) : State :=
  if 17 ≤ p && notInternal i then s
  else
    let a := macCounter p i
    let old := tget s.reg a 0
    let s := bumpBy a n s
    if bitOf old 31 = bitOf (tget s.reg a 0) 31 then s
    else
      let m := macSt s p
      if i < 32 then
        let s := setMac p { m with halfLo := putBit m.halfLo i true } s
        if m.maskLo.getLsbD i then raiseIrq 1 s else s
      else
        let s := setMac p { m with halfHi := putBit m.halfHi (i - 32) true } s
        if m.maskHi.getLsbD (i - 32) then raiseIrq 1 s else s

/-- A group address: bit 0 of its first octet. -/
def isGroup (m : Mac) : Bool := m.getLsbD 40

/-- The size bin of a frame length, 0 to 6 (Table 4.6). -/
def sizeBin (n : Nat) : Nat :=
  if n ≤ 64 then 0 else if n ≤ 127 then 1 else if n ≤ 255 then 2 else if n ≤ 511 then 3 else if n ≤ 1023 then 4
  else if n ≤ 1518 then 5 else 6

/-- Cast, tag and size counters of a good frame; `c` is the index of the unicast counter, `v` of the tagged one, `b` of
the first size bin. -/
def countKinds (p c v b : Nat) (f : Frame) (s : State) : State :=
  let s := countMac p (if f.dst = 0xFFFFFFFFFFFF then c + 2 else if isGroup f.dst then c + 1 else c) 1 s
  let s := if f.pcp.isSome then countMac p v 1 s else s
  countMac p (b + sizeBin f.len) 1 s

/-- A good frame is received (R131). -/
def countRx (p : Nat) (f : Frame) (s : State) : State := countKinds p 2 7 8 f (countMac p 1 1 (countMac p 0 f.len s))

/-- A frame is sent with a correct FCS (R131). -/
def countTx (p : Nat) (f : Frame) (s : State) : State := countKinds p 34 38 39 f (countMac p 33 1 (countMac p 32 f.len s))

/-- A good frame comes to an internal port from its block (R135): with no MAC in between, every octet counts in RX_OCTETS_ALL too. -/
def countIn (p : Nat) (f : Frame) (s : State) : State := countRx p f (countMac p 23 f.len s)

/-! ### Frames -/

/-- EtherTypes and addresses of the spec. -/
abbrev etPtp : Nat := 0x88F7
abbrev etBulis : Nat := 0x88B5
abbrev etPd : Nat := 0x88B6
abbrev etLldp : Nat := 0x88CC
abbrev etEapol : Nat := 0x888E
abbrev etMacCtrl : Nat := 0x8808
/-- TTDP TOPOLOGY as IEC 61375-2-5 frames it. PRESUMED (log 44): its EtherType and group address; TTDP HELLO is carried in LLDP. -/
abbrev etTtdp : Nat := 0x894C
abbrev ttdpGroup : Mac := 0x0180C2000010
abbrev bulisGroup : Mac := 0x03ABFA002400
abbrev linkLocalMac : Mac := 0x0180C200000E

/-- The length of a frame of n payload bytes, untagged or tagged, without trailer (R117, R119). -/
def frameLen (tagged : Bool) (n : Nat) : Nat := max 64 (18 + n + (if tagged then 4 else 0))

/-- Link-local control frames (R61): PTP, LLDP, TTDP, EAPOL and MAC control, by EtherType. -/
def linkControl (f : Frame) : Bool :=
  f.etherType = etPtp || f.etherType = etLldp || f.etherType = etTtdp || f.etherType = etEapol || f.etherType = etMacCtrl

/-- Link-local frames (R61): link-local control frames, and those sent to the reserved range. -/
def linkLocal (f : Frame) : Bool := linkControl f || f.dst.toNat / 16 = 0x0180C200000

/-- The Bulis type of a Bulis frame (Table 7.3). -/
def frameBulisType (f : Frame) : Nat := (f.payload.getD 1 0).toNat

/-- The frames a held port passes (R81): link-local control frames, inauguration frames, take frames of KIND 2, and ACKs on
stream 0x81 whose CSC is 0. The KIND of a take frame is its payload's byte 1. -/
def passesHold (f : Frame) : Bool :=
  linkControl f
    || (f.etherType = etBulis
        && (frameBulisType f = 0x40
            || (0x20 ≤ frameBulisType f && frameBulisType f ≤ 0x23 && (f.payload.getD 33 0).toNat = 2)
            || (frameBulisType f = 0x06 && f.payload.getD 3 0 = 0x81 && beNat ((f.payload.drop 20).take 4) = 0)))

/-! ### Queues (R137, R138) -/

/-- The queue PCP_MAP gives priority c on port p; priority 7 always has queue 7. -/
def pcpQueue (s : State) (p c : Nat) : Nat := if c = 7 then 7 else cfg s 0x2508 (p + 1) / 2 ^ (3 * c) % 8

/-- The queue of a frame on port p (R137, R221). -/
def queueFor (s : State) (p : Nat) (f : Frame) : Nat :=
  if let some q := f.txQueue then q.val
  else if f.etherType = etPtp then 7
  else if f.etherType = etBulis then pcpQueue s p ((f.payload.getD 2 0).toNat % 8)
  else pcpQueue s p (f.pcp.getD (cfg s 0x2508 (p + 1) / 2 ^ 24 % 8))

/-- MACsec of a backbone port is required. -/
def secMode (s : State) (p : Nat) : Nat := if p < 4 then cfg s 0x2C30 (p + 1) else 0

/-- A frame may not pass the port before its SAs are installed (R421). -/
def secBlocks (s : State) (p : Nat) (f : Frame) : Bool :=
  secMode s p ≠ 0 && f.etherType ≠ etEapol && !((msSt s p).txSa && (msSt s p).rxSa)

/-- A frame is protected on the wire of the port (R419): MACsec is required, and it is no EAPOL frame. -/
def secProtects (s : State) (p : Nat) (f : Frame) : Bool := secMode s p ≠ 0 && f.etherType ≠ etEapol

/-- Octets of a frame on the wire, with preamble and gap: 24 more where it is protected (R420). -/
def wireOctets (s : State) (p : Nat) (f : Frame) : Nat := f.len + 20 + (if secProtects s p f then 24 else 0)

/-- The transmit SA of the port has used its last packet number: transmission is stopped (R422). -/
def secExhausted (s : State) (p : Nat) : Bool := secMode s p ≠ 0 && ((msSt s p).exhausted || (msSt s p).txPn = 0xFFFFFFFF)

/-- MAC_CTRL.TX_ENABLE and RX_ENABLE. -/
def txEnabled (s : State) (p : Nat) : Bool := cfgOn s 0x10012 (p + 1)
def rxEnabled (s : State) (p : Nat) : Bool := cfgOn s 0x10013 (p + 1)

/-- A frame enters its queue on port p: discarded where the port is down, disabled, exhausted or its queue is full
(R129, R138, R422); held ports and ports without SAs discard it by their own rules (R81, R421). -/
def enqueue (p : Nat) (q : QFrame) (s : State) : State :=
  if heldPort s p && !passesHold q.frame then bump 0x48040 s
  else if secBlocks s p q.frame then bump (0xA0118 + 0x40 * p) s
  else if !portUp s p || !txEnabled s p || secExhausted s p then countMac p 52 1 s
  else
    let n := queueFor s p q.frame
    if queueDepth s p n + q.frame.len > cfg s (0x2510 + n) (p + 1) * 1024 then countMac p 52 1 s
    else
      let m := macSt s p
      setMac p { m with queues := tset m.queues n (tget m.queues n [] ++ [{ q with at_ := s.up }]) } s

/-- A new frame number. -/
def newId (s : State) : Nat × State := (s.net.nextId, { s with net.nextId := s.net.nextId + 1 })

/-- A frame of the node itself is queued on one port. -/
def sendOn (p ingress : Nat) (f : Frame) (s : State) : State :=
  let (i, s) := newId s
  enqueue p { id := i, frame := f, ingress := ingress } s

/-- Supervisor pair 0 sends a frame on one port, from port 19 (Table 1.3, R135). -/
def pairSend (p : Nat) (f : Frame) (s : State) : State := sendOn p 19 f (countIn 19 f s)

/-- Distinct numbers' lengths summed. -/
def distinctBytes : List Nat → List QFrame → Nat
  | _, [] => 0
  | seen, q :: r => if seen.contains q.id then distinctBytes seen r else q.frame.len + distinctBytes (q.id :: seen) r

/-- The frames a MAC holds for sending: queued, on the wire, or waiting in parts. -/
def heldFrames (m : MacSt) : List QFrame :=
  m.queues.flatMap (·.2) ++ (m.wire.map (·.q)).toList ++ (m.rest.map (·.q)).toList ++ m.resend.map (·.1)

/-- Bytes that the frame memory of plane l holds of frames of a kind that have not been sent. -/
def planeHeld (s : State) (l : Line) (kind : QFrame → Bool) : Nat :=
  distinctBytes [] ((s.net.macs.flatMap (fun m => heldFrames m.2)).filter (fun q => kind q && q.plane ≠ some (other l)))

/-- The ingress occupancy of a port: bytes held for frames received on it and not yet sent, in the plane with more (R124). -/
def occupancy (s : State) (p : Nat) : Nat :=
  let mine (q : QFrame) : Bool := q.ingress = p
  max (planeHeld s .a mine) (planeHeld s .b mine)

/-- The 32 MiB of frame memory of a plane that a frame of port p enters cannot hold it (Table 1.3, R124). -/
def memoryFull (s : State) (p : Nat) (f : Frame) : Bool :=
  (if p < 4 then [lineOf p] else [Line.a, .b]).any (fun l => 33554432 < planeHeld s l (fun _ => true) + f.len)

/-! ### Verification (R142 to R144) -/

/-- A verify mPacket is sent (R142). -/
def verifySend (p : Nat) (s : State) : State :=
  let x := schedSt s p
  setSched p { x with ver := 2, verSent := x.verSent + 1, verAt := some (s.up + cfg s 0x2506 (p + 1) * fr) } (emit (.mpacket p false) s)

/-- Verification starts, or does not, as at UP (R143, Table 5.2; in mode 1 it never starts, R152). -/
def verifyStart (p : Nat) (s : State) : State :=
  let s := setSched p { schedSt s p with ver := 1, verSent := 0, verAt := none, restart := none, heldIds := [] } s
  if !cfgOn s 0x2503 (p + 1) then s
  else if cfgOn s 0x2505 (p + 1) then setSched p { schedSt s p with ver := 0 } s
  else if cfg s 0x2501 (p + 1) = 1 then s
  else verifySend p s

/-! ### PAUSE (R124 to R128) -/

/-- Ticks of n pause quanta on port p. -/
def quantaTicks (s : State) (p n : Nat) : Nat := (n * 512 * bitTime (linkSt s p).mode + 9) / 10

/-- A frame is on the wire and has not ended. -/
def onWire (s : State) (p : Nat) : Option Wire :=
  match (macSt s p).wire with
  | some w => if s.up < w.endAt then some w else none
  | none => none

/-- A PAUSE frame leaves with a time: XOFF_ACTIVE follows it, and half of that time later it is repeated (R124, R127, log 155). -/
def pauseOut (p time : Nat) (s : State) : State :=
  let f : Frame := { dst := 0x0180C2000001, src := s.baseMac + BitVec.ofNat 48 p, etherType := etMacCtrl,
                     payload := beBytes 2 1 ++ beBytes 2 time ++ List.replicate 42 0, len := 64 }
  let s := emit (.frame p f .good) (countMac p 37 1 (countTx p f s))
  setMac p { macSt s p with pauseTx := none, xoffAt := if time = 0 then none else some (s.up + quantaTicks s p time / 2) } s

/-- A PAUSE that waited for the wire leaves. -/
def pauseFlush (p : Nat) (s : State) : State :=
  match (macSt s p).pauseTx with
  | some t => pauseOut p t s
  | none => s

/-- A PAUSE frame is to be sent: express, ahead of every queue, at the end of the frame on the wire or at the next fragment boundary of a
preemptable one (R127). -/
def pauseSend (p time : Nat) (s : State) : State :=
  if (onWire s p).isSome then setMac p { macSt s p with pauseTx := some time } s else pauseOut p time s

/-- The last PAUSE sent, or about to be sent, has a non-zero time. -/
def xoffOn (m : MacSt) : Bool :=
  match m.pauseTx with
  | some t => t ≠ 0
  | none => m.xoffAt.isSome

/-- The occupancy or the thresholds of a port have changed: XOFF above its threshold, XON below it (R124). -/
def flowCheck (p : Nat) (s : State) : State :=
  if p < 4 || 17 ≤ p || !cfgOn s 0x2212 (p + 1) || !portUp s p then s
  else
    let o := occupancy s p
    if xoffOn (macSt s p) then
      if o < cfg s 0x2215 (p + 1) * 1024 then pauseSend p 0 s else s
    else if o > cfg s 0x2214 (p + 1) * 1024 then pauseSend p (cfg s 0x2213 (p + 1)) s
    else s

/-- The occupancy of every port may have changed. -/
def flowAll (s : State) : State := (List.range 17).foldl (fun s p => flowCheck p s) s

/-- Flow-control settings have changed at an apply instant: a MAC that may no longer send PAUSE keeps none active (R124, log 156). -/
def flowApply (p : Nat) (s : State) : State :=
  if cfgOn s 0x2212 (p + 1) then flowCheck p s else setMac p { macSt s p with xoffAt := none, pauseTx := none } s

/-- The pause timer starts with a time, in quanta, at the instant transmission stopped (R126, R128). -/
def pauseStart (p time at_ : Nat) (s : State) : State :=
  let m := macSt s p
  setMac p { m with pauseUntil := some (at_ + quantaTicks s p time), pauseNext := none,
                    heldFrom := m.heldFrom.or (some at_), wdFrom := m.wdFrom.or (some at_), idleFrom := none } s

/-- The whole perfs for which transmission has been held until an instant are counted (R131). -/
def pauseCount (p until_ : Nat) (s : State) : State :=
  match (macSt s p).heldFrom with
  | some t =>
    let n := (until_ - t) / pf
    let s := countMac p 49 n s
    setMac p { macSt s p with heldFrom := some (t + n * pf) } s
  | none => s

/-- Transmission is no longer held, since the timer reached 0 or from now: the time held is counted, the watchdog's 1 fr begins
(R128). -/
def pauseEnd (p : Nat) (s : State) : State :=
  let at_ := min s.up ((macSt s p).pauseUntil.getD s.up)
  let s := pauseCount p at_ s
  let m := macSt s p
  setMac p { m with pauseUntil := none, pauseNext := none, heldFrom := none,
                    idleFrom := if m.wdFrom.isSome then some at_ else none } s

/-- The octets of a minimum fragment, its mCRC among them (R141). -/
def minFragment (s : State) (p : Nat) : Nat := 64 * (1 + (schedSt s p).restart.getD (cfg s 0x2504 (p + 1)))

/-- When the octets of the frame that make a minimum fragment with their mCRC have been sent: 8 octets of preamble go before them. -/
def leastSent (s : State) (p : Nat) (w : Wire) : Nat := w.startAt + octetTicks s p (8 + minFragment s p - 4)

/-- The frame on the wire stops where it is and its fragment ends with its mCRC: what remains waits, to go on behind a preamble of its own
(R141); a PAUSE that waited leaves (R127). -/
def fragment (p : Nat) (w : Wire) (s : State) : State :=
  let rest : Wire := { w with startAt := s.up, endAt := w.endAt + octetTicks s p 8, fragments := w.fragments + 1 }
  pauseFlush p (bump (prt p 0x220) (setMac p { macSt s p with wire := none, rest := some rest } (passTo (s.up + octetTicks s p 4) s)))

/-- Where a preemptable frame on the wire may be stopped, where preemption is active: after a minimum fragment, and where 64 octets or more
of it remain for its last one, its FCS among them and the gap of 12 octets behind it not (R126, R141). -/
def fragmentEnd (s : State) (p : Nat) (w : Wire) : Option Nat :=
  let t := max s.up (leastSent s p w)
  if w.express || schedMode s p ≠ 1 || decide (w.endAt < t + octetTicks s p 76) then none else some t

/-- Link lost: flow state is cleared (R128, Table 4.3). -/
def flowReset (p : Nat) (s : State) : State :=
  let s := if (macSt s p).heldFrom.isSome then pauseEnd p s else s
  setMac p { macSt s p with pauseUntil := none, pauseNext := none, wdFrom := none, idleFrom := none, ignoreUntil := none,
                            xoffAt := none, pauseTx := none } s

/-! ### The frame on the wire (R120 to R122, R141) -/

/-- The wire of a port is free since an instant: a PAUSE that waited is sent (R127), one received starts (R126), and verification starts
afresh where changed settings waited for the preemptable frame (Table 5.2). -/
def wireFree (p at_ : Nat) (s : State) : State :=
  let s := pauseFlush p s
  let s := match (macSt s p).pauseNext with
    | some t => pauseStart p t at_ s
    | none => s
  if (schedSt s p).restart.isSome && (macSt s p).rest.isNone then verifyStart p s else s

/-! ### PTP messages of the node (R137, R166, R169) -/

/-- The octets of a PTP message, from its address to its FCS. PRESUMED (log 157): as IEEE 1588 lays out each, over Ethernet or, in the
profiles of IEEE 1588, over UDP and IPv4. -/
def ptpLen (udp : Bool) (m : PtpMsg) : Nat :=
  max 64 (18 + (if udp then 28 else 0) + (match m with
    | .sync _ _ _ _ => 44
    | .followUp _ _ _ => 44
    | .delayReq _ => 44
    | .announce _ _ => 64
    | _ => 54))

/-- A PTP message is placed in queue 7 of a port (R137, R169): one of the node, from its islet (20), or one that came in at a port. The
transport of profiles 1 and 2 is not stated; DESIGN CHOICE: UDP over IPv4 (log 194). -/
def ptpQueue (p ingress : Nat) (cut : Bool) (m : PtpMsg) (s : State) : State :=
  let (i, s) := newId s
  let udp := decide (4 ≤ p) && (ptpProfile s p = 1 || ptpProfile s p = 2)
  let f : Frame := { dst := linkLocalMac, src := s.baseMac + BitVec.ofNat 48 p, etherType := etPtp, len := ptpLen udp m }
  enqueue p { id := i, frame := f, ingress := ingress, plane := if ingress < 4 then some (lineOf ingress) else none, cut := cut, ptp := some m } s

/-- A PTP message of the node is placed in queue 7 of a port. -/
def ptpSend (p : Nat) (m : PtpMsg) (s : State) : State := ptpQueue p 20 false m s

/-- A PTP message has been sent with its frame (R169). A two-step Sync of the node on a consist port is followed by its Follow_Up, with the
instant it left (R166). -/
def ptpSent (p : Nat) (m : PtpMsg) (s : State) : State :=
  emit (.ptp p m) (match m with
    | .sync id o log two =>
      let s := bump (prt p 0x318) s
      if two && 4 ≤ p then ptpSend p (.followUp id o log) s else s
    | .pdelayReq _ => bump (prt p 0x31C) s
    | _ => s)

/-- The frame on the wire ends: it is counted and leaves (R121, R122). -/
def wireEnd (p : Nat) (s : State) : State :=
  match (macSt s p).wire with
  | none => s
  | some w =>
    let f := { w.q.frame with txQueue := none }
    let s := match w.q.mark with
      | 0 => (match w.q.ptp with
        | some m => ptpSent p m (countTx p f s)
        | none => emit (.frame p f .good) (countTx p f s))
      | 1 => emit (.frame p f .marked) (countMac p 46 1 s)
      | _ => emit (.frame p f .marked) (countMac p 46 1 (countMac p 48 1 s))
    let s := setMac p { macSt s p with wire := none } s
    flowCheck w.q.ingress (wireFree p (w.endAt - octetTicks s p 12) s)

/-- A frame that has already ended leaves. -/
def settleWire (p : Nat) (s : State) : State :=
  match (macSt s p).wire with
  | some w => if w.endAt ≤ s.up then wireEnd p s else s
  | none => s

/-- A PAUSE acts on the frame on the wire: it waits for the frame's end, or for the end of the current fragment and the rest is
held (R126, log 141). -/
def pauseAfter (p time : Nat) (w : Wire) (s : State) : State :=
  match fragmentEnd s p w with
  | some t =>
    let s := fragment p w (passTo t s)
    pauseStart p time s.up s
  | none => setMac p { macSt s p with pauseNext := some time } s

/-- A PAUSE frame has been received on port p with this time (R125, R126, R128). A frame that has ended on the wire leaves first, so that a
PAUSE that waited for it has taken effect at its end. -/
def pauseIn (p time : Nat) (s : State) : State :=
  let s := pauseCount p s.up (settleWire p (countMac p 5 1 s))
  let m := macSt s p
  if !cfgOn s 0x2211 (p + 1) then s
  else if time = 0 then
    let s := setMac p { m with ignoreUntil := none, pauseNext := none } s
    if m.pauseUntil.isSome then pauseEnd p s else s
  else if m.ignoreUntil.isSome then countMac p 51 1 s
  else match onWire s p with
    | some w => pauseAfter p time w s
    | none => pauseStart p time s.up s

/-- A frame of fewer than 64 bytes is padded with zero octets (R119). -/
def padded (f : Frame) : Frame :=
  if f.len < 64 then { f with payload := f.payload ++ List.replicate (64 - f.len) 0, len := 64 } else f

/-- A frame cut at a limit: what stands before its FCS is its first limit − 4 bytes, without a trailer (R121). -/
def truncated (limit : Nat) (f : Frame) : Frame :=
  { f with len := limit, rct := none, trailer := [], payload := f.payload.take (limit - 18 - (if f.pcp.isSome then 4 else 0)) }

/-- The residence time of a Sync enters its corrected origin as it leaves (R173). -/
def departs (s : State) (q : QFrame) : QFrame :=
  match q.ptp with
  | some (.sync id o log two) => { q with ptp := some (.sync id (o + BitVec.ofNat 64 (ticksIn s (s.up - q.at_))) log two), at_ := s.up }
  | _ => q

def setMs (p : Nat) (x : MacsecSt) (s : State) : State := { s with cpu.macsec := tset s.cpu.macsec p x }

/-- A frame takes the next packet number of its port's transmit SA as it starts (R419, R422). -/
def secSend (p : Nat) (f : Frame) (s : State) : Frame × State :=
  if secProtects s p f then
    let n := (msSt s p).txPn + 1
    ({ f with sec := some { confidential := secMode s p = 2, pn := n } }, setMs p { msSt s p with txPn := n } s)
  else ({ f with sec := none }, s)

/-- A frame starts on the wire now. The limit acts on the unprotected frame (R420). -/
def wireStart (p queue : Nat) (express : Bool) (q : QFrame) (s : State) : State :=
  let limit := cfg s 0x2210 (p + 1)
  let q := departs s { q with frame := padded q.frame }
  -- an egress MAC never sends more than its own MAX_LEN (R121)
  let q := if q.frame.len > limit then { q with frame := truncated limit q.frame, mark := 2 } else q
  let (f, s) := secSend p q.frame s
  let w : Wire := { q := { q with frame := f }, queue := queue, express := express, startAt := s.up,
                    endAt := s.up + octetTicks s p (wireOctets s p q.frame) }
  setMac p { macSt s p with wire := some w } s

/-- The octets of a frame on the wire, of its FCS too, that have not been sent yet: what is to come but for the gap of 12 octets. -/
def octetsLeft (s : State) (p : Nat) (w : Wire) : Nat :=
  let octet := 8 * bitTime (linkSt s p).mode
  ((w.endAt - s.up) * 10 + octet - 1) / octet - 12

/-- What of a frame on the wire has been sent, with the four octets of a marked FCS behind it at once (R122). Of a protected one the ICV of
16 octets was to come before the FCS (Table 16.5). -/
def sentPart (s : State) (p : Nat) (w : Wire) : Frame :=
  let f := { w.q.frame with txQueue := none }
  let n := f.len + (if f.sec.isSome then 16 else 0) - octetsLeft s p w + 4
  if f.len ≤ n then f else truncated n f

/-- A frame on the wire is ended with a marked FCS (R122, R129). -/
def wireMark (p : Nat) (s : State) : State :=
  match (macSt s p).wire with
  | some w => flowCheck w.q.ingress (wireFree p s.up (setMac p { macSt s p with wire := none } (emit (.frame p (sentPart s p w) .marked) (countMac p 46 1 s))))
  | none => s

/-! ### Port 17 (R413) -/

/-- The 16 bytes of a descriptor (Table 16.3). -/
def descBytes (d : Desc) : List Byte :=
  leBytes 8 d.addr ++ leBytes 2 d.len ++ leBytes 1 (bit 7 d.own + bit 6 d.irq + bit 0 d.err) ++ leBytes 1 d.queue ++ leBytes 4 d.ts.toNat

/-- The descriptor 16 bytes spell. -/
def descOf (l : List Byte) : Desc :=
  let flags := (l.getD 10 0).toNat
  { addr := leNat (l.take 8), len := leNat ((l.drop 8).take 2), own := flags.testBit 7, irq := flags.testBit 6, err := flags.testBit 0,
    queue := (l.getD 11 0).toNat, ts := word (leNat ((l.drop 12).take 4)) }

/-- The place in application DRAM of n bytes at a physical address (R406). -/
def dramOff (s : State) (a n : Nat) : Option Nat :=
  if 0x800000000 ≤ a ∧ a + n ≤ 0x800000000 + appSize s * 2 ^ 20 then some (a - 0x800000000) else none

/-- Bytes that a ring's engine writes to application DRAM; what lies in no application DRAM is not written (log 217). -/
def dramPut (a : Nat) (d : List Byte) (s : State) : State :=
  match dramOff s a d.length with
  | some o => { s with cpu.dram := memWrite s.cpu.dram o d }
  | none => s

/-- Descriptor i of a ring. -/
def descAt (s : State) (base : BitVec 64) (i : Nat) : Desc :=
  match dramOff s (base.toNat + 16 * i) 16 with
  | some o => descOf (memRead s.cpu.dram o 16)
  | none => {}

/-- Descriptor i of a ring is written. -/
def descPut (base : BitVec 64) (i : Nat) (d : Desc) (s : State) : State := dramPut (base.toNat + 16 * i) (descBytes d) s

/-- A frame's octets without its FCS, as a buffer holds them. -/
def frameBytes (f : Frame) : List Byte :=
  padTo (f.len - 4) (beBytes 6 f.dst.toNat ++ beBytes 6 f.src.toNat
    ++ (match f.pcp with
      | some c => beBytes 2 0x8100 ++ beBytes 2 (c * 8192)
      | none => [])
    ++ beBytes 2 f.etherType ++ f.payload)

/-- The core a frame's destination selects: ring 0 for broadcast. -/
def nicCore (s : State) (f : Frame) : Option Nat :=
  if f.dst = 0xFFFFFFFFFFFF then some 0
  else (List.range 8).find? (fun c => f.dst = s.baseMac + BitVec.ofNat 48 (32 + c))

/-- A frame for port 17 is placed in a core's receive ring, or dropped (R413). One with an FCS error or a mark is placed too, with FLAGS[0]
set (Table 16.3, log 217). -/
def nicDeliver (mark : Nat) (f : Frame) (s : State) : State :=
  match nicCore s f with
  | none => countMac 17 22 1 s
  | some c =>
    let n := nicSt s c
    let d := descAt s n.rxBase n.rxHead
    let ring := bitsOf n.size 28 16
    if !domOn s .d8 || !d.own || ring = 0 then countMac 17 22 1 s
    else
      let got := (frameBytes f).take d.len
      let bad := mark ≠ 0 || decide (d.len < f.len - 4)
      let s := descPut n.rxBase n.rxHead { d with own := false, len := got.length, ts := timeNs s, err := bad } (dramPut d.addr got s)
      let s := { s with cpu.nics := tset s.cpu.nics c { n with rxHead := (n.rxHead + 1) % ring, irq := n.irq || d.irq } }
      if mark = 0 then countTx 17 f s else countMac 17 46 1 s

/-! ### The duplicator (R61 to R70) -/

/-- The priority that decides a frame's class (R61). -/
def classPcp (f : Frame) : Nat := f.pcp.getD 0

/-- A frame of a duplicated class (R61). -/
def duplicated (s : State) (f : Frame) : Bool :=
  (cfg s 0x2301 0).testBit (classPcp f) && f.etherType ≠ etBulis && !linkLocal f

/-- The window record of a source, where it is known and not forgotten (R65). -/
def rxSrc (s : State) (m : Mac) : Option RxSrc :=
  match tfind s.net.rx m.toNat with
  | some r => if s.up < r.lastSeen + 16 * rl then some r else none
  | none => none

/-- Sequences that leave the window at a new highest sequence, having been seen on one line only, are counted missing on
the other (R65). -/
def missingLeave (h : BitVec 16) : List (Nat × Nat) → State → State
  | [], s => s
  | (q, lines) :: r, s =>
    let age := (h - BitVec.ofNat 16 q).toNat
    let s := if age < 1024 then s
      else if lines = 1 then bump 0xB002C s
      else if lines = 2 then bump 0xB0028 s
      else s
    missingLeave h r s

/-- The source seen least recently. -/
def oldestRx : List (Nat × RxSrc) → Option (Nat × Nat)
  | [] => none
  | (k, r) :: t =>
    match oldestRx t with
    | some (k', a) => if r.lastSeen ≤ a then some (k, r.lastSeen) else some (k', a)
    | none => some (k, r.lastSeen)

/-- A record is made for a source; a full table evicts the least recently seen one (R65). -/
def rxInsert (m : Mac) (r : RxSrc) (s : State) : State :=
  let s := if s.net.rx.length < 4096 then s
    else match oldestRx s.net.rx with
      | some (k, _) => bump 0xB0030 { s with net.rx := tdel s.net.rx k }
      | none => s
  { s with net.rx := tset s.net.rx m.toNat r }

/-- The number of a line in a record: 1 A, 2 B. -/
def lineBit : Line → Nat
  | .a => 1
  | .b => 2

/-- What is remembered of a receive source, seen now (R65). -/
def rxPut (src : Mac) (r : RxSrc) (s : State) : State := { s with net.rx := tset s.net.rx src.toNat { r with lastSeen := s.up } }

/-- A trailered copy arrives from a line: accepted or discarded by its sequence window (R65, R70). -/
def dupReceive (src : Mac) (q : BitVec 16) (l : Line) (s : State) : Bool × State :=
  match rxSrc s src with
  | none =>
    if dupEnabled s then (true, rxInsert src { h := q, seen := [(q.toNat, lineBit l)], lastSeen := s.up } { s with net.rx := tdel s.net.rx src.toNat })
    else if sendLine s = l then (true, s)
    else (false, bump 0xB0020 s)
  | some r =>
    let d := (r.h - q).toNat
    if 32768 ≤ d then
      let s := missingLeave q r.seen s
      let keep := r.seen.filter (fun e => decide ((q - BitVec.ofNat 16 e.1).toNat < 1024))
      (true, rxPut src { r with h := q, seen := tset keep q.toNat (lineBit l) } s)
    else if d < 1024 then
      let old := tget r.seen q.toNat 0
      let r' := { r with seen := tset r.seen q.toNat (old ||| lineBit l) }
      if old = 0 then (true, rxPut src r' s) else (false, bump 0xB0020 (rxPut src r' s))
    else (true, bump 0xB0024 (rxPut src r s))

/-- The trailer is removed (R64). -/
def untrailer (f : Frame) : Frame := if f.rct.isSome then { f with rct := none, trailer := [], len := max 64 (f.len - 6) } else f

/-- The next transmit sequence for a source; none where the table is full and nothing may be evicted (R63). -/
def txSequence (m : Mac) (s : State) : Option (BitVec 16) × State :=
  match tfind s.net.tx m.toNat with
  | some t => (some t.next, { s with net.tx := tset s.net.tx m.toNat { next := t.next + 1, lastUse := s.up } })
  | none =>
    let keep := if s.net.tx.length < 4096 then s.net.tx
      else match s.net.tx.find? (fun e => decide (e.2.lastUse + 17 * rl ≤ s.up)) with
        | some e => tdel s.net.tx e.1
        | none => s.net.tx
    if keep.length < 4096 then
      let (n, s) := nextFree s
      let q := BitVec.ofNat 16 (Config.value n)
      (some q, { s with net.tx := tset keep m.toNat { next := q + 1, lastUse := s.up } })
    else (none, bump 0xB0038 s)

/-! ### Forwarding (R20 to R23, R38, R99) -/

/-- A source address is learned on a port, in one plane. -/
def learn (l : Line) (m : Mac) (p : Nat) (s : State) : State :=
  if isGroup m then s
  else { s with net.fdb := s.net.fdb.filter (fun e => !(e.plane = l && e.mac = m)) ++ [{ plane := l, mac := m, port := p }] }

/-- The internal port that owns a MAC address (R20, R218, R282, R413). -/
def internalPort (s : State) (m : Mac) : Option Nat :=
  let d := (m - s.baseMac).toNat
  if 17 ≤ d ∧ d ≤ 19 then some d else if 32 ≤ d ∧ d < 40 then some 17 else none

/-- The local ports and the backbone ports of plane l that a frame's address sends it to (R20 to R22). -/
def addressPorts (s : State) (l : Line) (f : Frame) : List Nat :=
  match internalPort s f.dst with
  | some p => [p]
  | none =>
    if f.dst = bulisGroup then portsOf l ++ [18]
    else if isGroup f.dst then
      portsOf l ++ (List.range 12).map (· + 4)
        ++ (if f.dst = 0xFFFFFFFFFFFF then [17, 19] else [])
    else match s.net.fdb.find? (fun e => e.plane = l && e.mac = f.dst) with
      | some e => [e.port]
      | none => portsOf l ++ (List.range 12).map (· + 4)

/-- The ports a frame goes to: port 19 receives every frame of EtherType 0x88B6, whatever its address (R282). -/
def destPorts (s : State) (l : Line) (f : Frame) : List Nat :=
  let r := addressPorts s l f
  if f.etherType = etPd && !r.contains 19 then r ++ [19] else r

/-- Which of them an ingress port reaches: never itself; the service port reaches ports 18 and 19 only, and only they
reach it (R22). -/
def allowed (ingress p : Nat) : Bool :=
  p ≠ ingress && (ingress ≠ 16 || p = 18 || p = 19) && (p ≠ 16 || ingress = 18 || ingress = 19)

/-- Forwarded cut-through where the ingress rate is at least the egress rate; a frame from an internal port is stored
whole (R38). -/
def cutThrough (s : State) (ingress p : Nat) : Bool :=
  decide (ingress < 17) && decide (bitTime (linkSt s ingress).mode ≤ bitTime (linkSt s p).mode)

/-- A frame comes to port 19: one of EtherType 0x88B6 for the process-data bridge, any other for supervisor pair 0 (R20). -/
def port19 (f : Frame) (s : State) : State := emit (.port19 (f.etherType = etPd) f) (countTx 19 f s)

/-- A frame is handed to a local port: a consist or service port's queue, or an internal port's block. The event a block
takes from it (a Bulis frame, a process-data frame, a control frame) is a command of its own (log 31). -/
def deliverLocal (i ingress mark : Nat) (f : Frame) (s : State) (p : Nat) : State :=
  if p = 17 then nicDeliver mark f s
  else if p = 19 then (if mark = 0 then port19 f s else s)
  else if 17 ≤ p then (if mark = 0 then countTx p f s else s)
  else if mark ≠ 0 && !cutThrough s ingress p then s
  else enqueue p { id := i, frame := f, ingress := ingress, cut := cutThrough s ingress p, mark := mark } s

/-- A frame in plane l goes to the plane's backbone ports among its destinations (R23, R38). -/
def planeForward (i : Nat) (l : Line) (ingress mark : Nat) (f : Frame) (s : State) : State :=
  ((destPorts s l f).filter (fun p => p < 4 && allowed ingress p)).foldl
    (fun s p => if mark ≠ 0 && !cutThrough s ingress p then s
      else enqueue p { id := i, frame := f, ingress := ingress, plane := some l, cut := cutThrough s ingress p, mark := mark } s) s

/-- A PRP supervision frame. Its EtherType and address are those of IEC 62439-3 (log 34). -/
def isSupervision (f : Frame) : Bool := f.etherType = 0x88FB && f.dst.toNat / 256 = 0x01154E0001

/-- The copies of a frame already seen whose delivery has begun cut-through are ended with a marked FCS (R123). Whether it has begun is
not stated: a free value, a bit for each port. -/
def seenDeliver (i ingress : Nat) (f : Frame) (ports : List Nat) (s : State) : State :=
  let (n, s) := nextFree s
  (ports.filter (fun p => p < 17 && cutThrough s ingress p && (Config.value n).testBit p)).foldl (deliverLocal i ingress 1 f) s

/-- A frame from plane l goes to the node's local ports, its trailer removed; a trailered copy passes the discard window
first. A bad copy is delivered marked and marks no sequence (R64, R65, R123). Supervision frames go to none (R68). -/
def dupDeliver (i : Nat) (l : Line) (ingress mark : Nat) (f : Frame) (s : State) : State :=
  let ports := (destPorts s l f).filter (fun p => 4 ≤ p && allowed ingress p)
  if ports.isEmpty || isSupervision f then s
  else
    let (ok, s) := match f.rct with
      | some (q, _) => if mark = 0 then dupReceive f.src q l s else (true, s)
      | none => (true, s)
    if ok then ports.foldl (deliverLocal i ingress mark (untrailer f)) s else seenDeliver i ingress (untrailer f) ports s

/-- A plane forwards (R33); one that returns after a loss not before it has rejoined at a frame boundary (R37). -/
def planeForwards (s : State) (l : Line) : Bool := planeComplete s l && !s.pwr.returning.getLsbD (lineIx l)

/-- A frame enters plane l. -/
def planeIn (i : Nat) (l : Line) (ingress mark : Nat) (f : Frame) (s : State) : State :=
  if planeForwards s l then dupDeliver i l ingress mark f (planeForward i l ingress mark f s) else s

/-- LSDUsize of a trailer (Table 2.10): the octets from the payload through the trailer, as IEC 62439-3 defines it. PRESUMED (log 158). -/
def lsduSize (f : Frame) : Nat := f.len - 18 - (if f.pcp.isSome then 4 else 0) + 6

/-- The trailer's six bytes: SeqNr, LanId and LSDUsize, the PRP suffix (Table 2.10). -/
def trailerBytes (f : Frame) (q : BitVec 16) (l : Line) : List Byte :=
  let lan := match l with
    | .a => 0xA
    | .b => 0xB
  beBytes 2 q.toNat ++ beBytes 2 (lan * 4096 + lsduSize f % 4096) ++ beBytes 2 0x88FB

/-- The trailered copy of a frame for line l (R62). -/
def trailered (f : Frame) (q : BitVec 16) (l : Line) : Frame :=
  let f := padded f
  { f with rct := some (q, l), trailer := trailerBytes f q l, len := f.len + 6 }

/-- A link-local frame goes to the block that takes it: port 18 for Bulis, the islet for PTP, port 19 for the rest (R61). -/
def linkLocalIn (f : Frame) (s : State) : State :=
  if f.etherType = etPtp || f.etherType = etMacCtrl then s
  else if f.etherType = etBulis then countTx 18 f s
  else port19 f s

/-- The duplicator sends a frame from a consist, service or internal port toward the planes (R21, R61, R63, R70); a link-local frame
stays at the node. -/
def dupTransmit (ingress : Nat) (f : Frame) (s : State) : State :=
  let (i, s) := newId s
  if linkLocal f then linkLocalIn f s
  else if f.etherType = etBulis then planeIn i .b ingress 0 f (planeIn i .a ingress 0 f s)
  else if dupEnabled s && duplicated s f then
    match txSequence f.src s with
    | (some q, s) => planeIn i .b ingress 0 (trailered f q .b) (planeIn i .a ingress 0 (trailered f q .a) s)
    | (none, s) => planeIn i (sendLine s) ingress 0 f s
  else planeIn i (sendLine s) ingress 0 f s

/-- A marked or truncated frame from a consist or service port goes on where it is forwarded cut-through: on the lines a good one would
take, untrailered and marked (R120 to R122, log 159). -/
def badTransmit (ingress mark : Nat) (f : Frame) (s : State) : State :=
  let (i, s) := newId s
  let l := sendLine s
  let both := f.etherType = etBulis || (dupEnabled s && duplicated s f)
  let s := planeIn i l ingress mark f s
  if both && planeForwards s (other l) then planeForward i (other l) ingress mark f s else s

/-- A frame of an internal port's block is sent: counted as received on that port, then handed to the duplicator. -/
def sendInternal (p : Nat) (f : Frame) (s : State) : State := dupTransmit p f (countIn p f s)

/-! ### Reception (R81, R119 to R124, R420, R421) -/

/-- Times within the last reel. -/
def within (s : State) (l : List Nat) : List Nat := l.filter (fun t => s.up < t + rl)

/-- SECURITY fires and bit 18 is raised (R424). -/
def securityEvent (kind arg : Nat) (s : State) : State :=
  raiseIrq 18 (fire 28 5 [BitVec.ofNat 8 kind, BitVec.ofNat 8 arg] s)

/-- MACsec at reception: whether the frame goes on, and with which mark (R420, R421, R424). A packet number is outside the replay window
where it lies the window or more below the next one expected (Table 16.5). -/
def secReceive (p : Nat) (f : Frame) (sec : Option SecInfo) (mark : Nat) (s : State) : Option Nat × State :=
  if secMode s p = 0 || f.etherType = etEapol then (some mark, s)
  else if secBlocks s p f then (none, bump (0xA0118 + 0x40 * p) s)
  else match sec with
    | none => (none, s)
    | some x =>
      let m := msSt s p
      let pn := x.pn.toNat
      let high := if x.old then m.oldPn.toNat else m.rxPn.toNat
      if pn + cfg s 0x2C34 (p + 1) ≤ high then
        let l := within s m.replayFails ++ [s.up]
        let s := bump (0xA0114 + 0x40 * p) (setMs p { m with replayFails := if l.length < 256 then l else [] } s)
        (none, if l.length < 256 then s else securityEvent 7 p s)
      else if !x.icvOk then
        let l := within s m.icvFails ++ [s.up]
        let s := bump (0xA0110 + 0x40 * p) (setMs p { m with icvFails := if l.length < 256 then l else [] } s)
        (some 1, if l.length < 256 then s else securityEvent 6 p s)
      else
        let hi := word (max high pn)
        (some mark, setMs p (if x.old then { m with oldPn := hi } else { m with rxPn := hi }) s)

/-- A PTP message over UDP and IPv4, to port 319 or 320, on a consist port whose profile is one of IEEE 1588 (R61, R166, log 143). -/
def udpPtp (s : State) (p : Nat) (f : Frame) : Bool :=
  let at_ := 4 * ((f.payload.getD 0 0).toNat % 16) + 2
  let port := beNat ((f.payload.drop at_).take 2)
  decide (4 ≤ p) && (ptpProfile s p = 1 || ptpProfile s p = 2) && f.etherType = 0x0800 && (f.payload.getD 0 0).toNat / 16 = 4
    && f.payload.getD 9 0 = 17 && (port = 319 || port = 320)

/-- The PTP message of a frame on port p, where it carries one: over Ethernet, or over UDP and IPv4 (R166). -/
def ptpBytes (s : State) (p : Nat) (f : Frame) : Option (List Byte) :=
  if f.etherType = etPtp then some f.payload
  else if udpPtp s p f then some (f.payload.drop (4 * ((f.payload.getD 0 0).toNat % 16) + 8))
  else none

/-- A request for the delay of a link arrives at port p (R166, R170): a peer-delay request is answered on every port that runs the
peer-to-peer mechanism, a delay request on a master port of profile 1. The layout is that of IEEE 1588 (PRESUMED, log 163); every
other message comes parsed, in a command of its own (log 31). -/
def ptpRequestIn (p : Nat) (b : List Byte) (s : State) : State :=
  let kind := (b.getD 0 0).toNat % 16
  if !ptpRuns s p || !(kind = 1 || kind = 2) then s
  else if ptpDiscards s p (b.getD 4 0).toNat (BitVec.ofNat 64 (beNat ((b.drop 20).take 8))) (b.length < (if kind = 2 then 54 else 44)) then
    bump (prt p 0x328) s
  else if kind = 2 then (if ptpProfile s p = 1 then s else ptpSend p .pdelayResp s)
  else if ptpProfile s p = 1 && !isRefPort s p then ptpSend p .delayResp s
  else s

/-- A good, marked or truncated frame has passed the MAC of port p and enters the node. -/
def frameIn (p mark : Nat) (f : Frame) (s : State) : State :=
  if heldPort s p && !passesHold f then bump 0x48040 s
  else if (ptpBytes s p f).isSome then (if mark = 0 then ptpRequestIn p ((ptpBytes s p f).getD []) s else s)
  else if linkLocal f then (if mark = 0 then linkLocalIn f s else s)
  else if p < 4 then
    let l := lineOf p
    let (i, s) := newId (if mark = 0 then learn l f.src p s else s)
    planeIn i l p mark f s
  else if mark ≠ 0 then flowCheck p (badTransmit p mark f s)
  else flowCheck p (dupTransmit p f (learn .b f.src p (learn .a f.src p s)))

/-- A MAC control frame (R125). -/
def macControlIn (p : Nat) (f : Frame) (s : State) : State :=
  let op := beNat (f.payload.take 2)
  if op = 1 then
    if f.len = 64 && (f.dst = 0x0180C2000001 || f.dst = s.baseMac + BitVec.ofNat 48 p) then
      pauseIn p (beNat ((f.payload.drop 2).take 2)) s
    else s
  else countMac p 6 1 s

/-- A keep-alive frame holds the consist network awake (R355). -/
def keepAlive (p : Nat) (s : State) : State :=
  bump 0x4060 { s with wak.lastKeepAlive := tset s.wak.lastKeepAlive p s.up }

/-- A frame partly reassembled is discarded and counted (R146). -/
def dropPartial (p : Nat) (s : State) : State :=
  if (macSt s p).rxFrags = 0 then s else bump (prt p 0x22C) (setMac p { macSt s p with rxFrags := 0 } s)

/-- What ends at the MAC is a fragment with more to come, after `n` fragments of the same frame: it is held and counted; one
whose mCRC fails ends the frame (R146). -/
def fragmentIn (p n : Nat) (fcs : Fcs) (s : State) : State :=
  if fcs = .good then bump (prt p 0x224) (setMac p { macSt s p with rxFrags := n + 1 } s)
  else bump (prt p 0x22C) (setMac p { macSt s p with rxFrags := 0 } s)

/-- Reassembly (R141, R146): whether a whole frame ends now, and the state. A fragment out of place counts MM_SMD_ERR (Table 5.7). -/
def reassemble (p : Nat) (r : RxInfo) (s : State) : Bool × State :=
  let n := (macSt s p).rxFrags
  let stray := bump (prt p 0x230) s
  match r.mm with
  | .express => (true, s)
  | .whole => (true, dropPartial p s)
  | .first => (false, fragmentIn p 0 r.fcs (dropPartial p s))
  | .middle => (false, if n = 0 then stray else fragmentIn p n r.fcs s)
  | .last =>
    if n = 0 then (false, stray)
    else if r.fcs = .good then (true, bump (prt p 0x228) (setMac p { macSt s p with rxFrags := 0 } s))
    else (false, dropPartial p s)
  | .outOfOrder => (false, if n = 0 then stray else dropPartial p s)
  | .unknownSmd => (false, stray)

/-- The MAX_LEN that judges a received frame: a frame that began before its last change keeps the old one (Table 4.3). -/
def rxLimit (s : State) (p : Nat) (f : Frame) : Nat :=
  match (macSt s p).oldLimit with
  | some (l, t) => if s.up < t + octetTicks s p (f.len + 8) then l else cfg s 0x2210 (p + 1)
  | none => cfg s 0x2210 (p + 1)

/-- The last fragment of a frame has been received: where its copy on port o was cut short it goes ahead of its queue (R147). -/
def resendFrom (i : Nat) (s : State) (o : Nat) : State :=
  let m := macSt s o
  let due := m.resend.filter (fun x => x.1.id = i)
  due.foldl (fun s x => bump (prt o 0x248) (setMac o { macSt s o with queues := tset (macSt s o).queues x.2 (x.1 :: queueOf s o x.2) } s))
    (setMac o { m with resend := m.resend.filter (fun x => x.1.id ≠ i) } s)

/-- A frame whose reassembly ended early is sent on port o no more: a copy cut short is not sent again, and what waits of a copy that has
begun ends with a marked FCS (R122, R146). -/
def resendDrop (i : Nat) (s : State) (o : Nat) : State :=
  let m := macSt s o
  setMac o { m with resend := m.resend.filter (fun x => x.1.id ≠ i),
                    rest := m.rest.map (fun w => if w.q.id = i then { w with q := { w.q with mark := 1 } } else w) } s

/-- The frame of port p whose cut-through copies have begun is not received to its end: it is discarded and counted (R146, R147). -/
def dropAwaited (p : Nat) (s : State) : State :=
  match (macSt s p).awaited with
  | some i =>
    let s := bump (prt p 0x22C) (setMac p { macSt s p with awaited := none, rxFrags := 0 } s)
    flowCheck p ((List.range 17).foldl (resendDrop i) s)
  | none => s

/-- What ends at the MAC is a fragment of the frame whose cut-through copies have begun. Its first one may be reported before the
preemption of its copies or after it (log 160). -/
def ofAwaited (m : MacSt) (mm : MPacket) : Bool :=
  m.awaited.isSome && (match mm with
    | .first => m.rxFrags = 0
    | .middle => true
    | .last => true
    | .outOfOrder => true
    | _ => false)

/-- A fragment of that frame (R141, R146, R147): the frame is in the model since its first octets, so its last fragment enters no second
copy. -/
def awaitedIn (p : Nat) (r : RxInfo) (s : State) : State :=
  if r.fcs ≠ .good || r.mm = .outOfOrder then dropAwaited p s
  else if r.mm ≠ .last then fragmentIn p (macSt s p).rxFrags .good s
  else match (macSt s p).awaited with
    | some i => (List.range 17).foldl (resendFrom i) (bump (prt p 0x228) (setMac p { macSt s p with rxFrags := 0, awaited := none } s))
    | none => s

/-- A frame that is marked or cut goes on, but for a port whose SAs are not installed yet (R421). -/
def badIn (p mark : Nat) (f : Frame) (s : State) : State :=
  if secBlocks s p f then bump (0xA0118 + 0x40 * p) s else frameIn p mark f s

/-- A whole frame ends at the MAC of port p (R69, R120, R121, R124). A frame with a code error counts as that alone (R131, log 142). -/
def frameReceive (p : Nat) (f : Frame) (r : RxInfo) (s : State) : State :=
    let s := countMac p 23 f.len s
    let s := if r.codeErr then countMac p 21 1 s else s
    let count (i : Nat) (s : State) : State := if r.codeErr then s else countMac p i 1 s
    let good := r.fcs = .good && !r.codeErr
    let limit := rxLimit s p f
    if f.len < 64 then count (if good then 15 else 16) s
    else if f.len > limit then
      badIn p 2 (truncated limit f) (count (if good then 17 else 18) s)
    else if !good then
      badIn p 1 f (count (if r.fcs = .marked then 20 else 19) s)
    else if r.full || memoryFull s p f then countMac p 22 1 s
    else match secReceive p f r.sec 0 s with
      | (none, s) => s
      | (some mark, s) =>
        if mark ≠ 0 then frameIn p mark f s
        else
          let s := countRx p f s
          if 4 ≤ p && f.rct.isSome then bump 0xB0034 s
          else if f.etherType = etMacCtrl then macControlIn p f s
          else if 4 ≤ p && f.dst.toNat = cfg s 0x2912 0 then keepAlive p s
          else frameIn p 0 f s

/-- A frame ends at the MAC of port p, or a fragment of one (R120, R146). A new preemptable frame ends the one before it (R146). -/
def frameEnds (p : Nat) (f : Frame) (r : RxInfo) (s : State) : State :=
  let f := { f with sec := none }
  if ofAwaited (macSt s p) r.mm then awaitedIn p r s
  else
    let s := if r.mm = .whole || r.mm = .first then dropAwaited p s else s
    let (ok, s) := reassemble p r s
    if ok then frameReceive p f r s else s

/-- What ends at the MAC of port p began before RX_ENABLE was cleared: a fragment of a frame under reassembly, or a frame that the time since
is too short for. -/
def beganBefore (s : State) (p : Nat) (f : Frame) (r : RxInfo) : Bool :=
  match r.mm with
  | .middle => (macSt s p).rxFrags ≠ 0
  | .last => (macSt s p).rxFrags ≠ 0
  | .outOfOrder => (macSt s p).rxFrags ≠ 0
  | _ => decide (s.up < (macSt s p).rxOffAt.getD 0 + octetTicks s p (f.len + 8))

/-- What ends at the MAC of port p is received while RX_ENABLE is 1; after it is cleared, the frame that was being received still is, and
RX_DRAINED is set at its end (R129). -/
def macReceive (p : Nat) (f : Frame) (r : RxInfo) (s : State) : State :=
  if !portUp s p then s
  else if rxEnabled s p then frameEnds p f r s
  else if (macSt s p).rxDrained then s
  else if !beganBefore s p f r then setMac p { macSt s p with rxDrained := true } s
  else
    let s := frameEnds p f r s
    if r.mm = .first || r.mm = .middle then s else setMac p { macSt s p with rxDrained := true } s

end Sys2Proof.Machine
end

