-- ==== Sys2Proof/Machine/Mac.lean ====
section
/-!
DEFINITION. Machine/Mac.lean: flow control, disabling a MAC, preemption, verification, gates and schedules
(chapters 4 and 5).
-/
namespace Sys2Proof.Machine

/-! ### Verification and fallback (R142 to R144, R153) -/

/-- The guard band: ⌈(MAX_LEN + 20) × 8 × bit time ÷ 1,024 ns⌉ pf (R151). -/
def guardOf (s : State) (p : Nat) : Nat := ((cfg s 0x2210 (p + 1) + 20) * 8 * bitTime (linkSt s p).mode + 10239) / 10240

/-- Verification ends FAILED: counted, bit 21, and in mode 0 the fallback (R144, R153). -/
def verifyFail (p : Nat) (s : State) : State :=
  let s := bump (prt p 0x234) (setSched p { schedSt s p with ver := 4, verAt := none, heldIds := [] } s)
  let irq (s : State) := if s.net.fallbackMask.getLsbD p then raiseIrq 21 s else s
  if cfg s 0x2501 (p + 1) = 0 then
    let s := { s with net.fallback := putBit s.net.fallback p true }
    fire 10 3 [BitVec.ofNat 8 p] (bump (prt p 0x238) (irq s))
  else irq s

/-! ### Queues and the wire -/

/-- Every queued frame of a port, and every one that waits to be sent again, is discarded and counted in TX_DISCARD (R129). -/
def flushQueues (p : Nat) (s : State) : State :=
  let m := macSt s p
  let n := (m.queues.map (fun q => q.2.length)).sum + m.resend.length
  let s := setMac p { m with queues := [], resend := [] } s
  if n = 0 then s else flowAll (countMac p 52 n s)

/-- The Additional Ethernet Capabilities TLV that pair 0 sends (Table 5.1): preemption supported, enabled, active, and ADD_FRAG_SIZE.
PRESUMED (log 161): its layout is that of IEEE 802.3 Clause 79; the rest of the LLDP frame is not modelled. -/
def preemptTlv (s : State) (p : Nat) : Frame :=
  let caps := bit 0 true + bit 1 (cfgOn s 0x2503 (p + 1)) + bit 2 (schedMode s p = 1) + 8 * (cfg s 0x2504 (p + 1) % 4)
  { dst := linkLocalMac, src := s.baseMac + BitVec.ofNat 48 p, etherType := etLldp,
    payload := [0xFE, 6, 0x00, 0x12, 0x0F, 7] ++ beBytes 2 caps }

/-- The TLV goes out on a port, from port 19. -/
def tlvSend (p : Nat) (s : State) : State := pairSend p (preemptTlv s p) s

/-- The port reaches UP: flow state, guard band, verification, the TLV (R139, R142, R151, Table 4.3). -/
def macUp (p : Nat) (s : State) : State :=
  tlvSend p (verifyStart p (setSched p { schedSt s p with guard := guardOf s p } (flowCheck p s)))

/-- The port leaves UP: flow control and verification start afresh, a remainder and a partly reassembled frame are abandoned,
queued frames are discarded (R128, R144, R146, Table 4.6). -/
def macDown (p : Nat) (s : State) : State :=
  let s := dropPartial p (dropAwaited p (flushQueues p (flowReset p s)))
  let s := setMac p { macSt s p with wire := none, rest := none, oldLimit := none } s
  flowAll (setSched p { schedSt s p with ver := 1, verSent := 0, verAt := none, restart := none } s)

/-- Queue q of a port is express (R140). -/
def isExpress (s : State) (p q : Nat) : Bool := q = 7 || (cfg s 0x2502 (p + 1)).testBit q

/-- The next instant at which gate q closes, looking at most `fuel` entries ahead (R151). -/
def nextClosing (s : State) (p q : Nat) : Nat → Nat → Option Nat
  | 0, _ => none
  | fuel + 1, t =>
    let (_, _, fin) := gateNow s p t
    let (_, gates, _) := gateNow s p fin
    if gates.getLsbD q then nextClosing s p q fuel fin else some fin

/-- The earlier of two instants that may be absent. -/
def earlier : Option Nat → Option Nat → Option Nat
  | none, b => b
  | a, none => a
  | some a, some b => some (min a b)

/-- The value that an object of port p has once the take in the user slot applies. -/
def stagedCfg (s : State) (idx p : Nat) : Nat :=
  match tfind s.tak.user.staged (key idx (p + 1)) with
  | some v => valNum v
  | none => cfg s idx (p + 1)

/-- The verification state that the take in the user slot leaves: changed preemption settings start it afresh (Table 5.2). -/
def stagedVer (s : State) (p : Nat) : Nat :=
  if [0x2503, 0x2504, 0x2505, 0x2506, 0x2507].any (fun i => stagedCfg s i p ≠ cfg s i (p + 1)) then
    (if stagedCfg s 0x2503 p = 0 then 1 else if stagedCfg s 0x2505 p ≠ 0 then 0 else if stagedCfg s 0x2501 p = 1 then 1 else 2)
  else (schedSt s p).ver

/-- A PRINTED take that changes the mode the port applies: its apply instant (R151 to R153). -/
def pendingMode (s : State) (p : Nat) : Option Nat :=
  let mode := appliedMode (stagedCfg s 0x2501 p) (stagedVer s p) (schedSt s p).oper.entries.isEmpty
  if s.tak.user.state = .printed && mode ≠ schedMode s p then some s.tak.user.instant.toNat else none

/-- A frame is held whole in frame memory: one that was stored, or one forwarded cut-through that has waited; not while its ingress
receives it in fragments (R151, log 160). -/
def heldWhole (s : State) (x : QFrame) : Bool := !x.cut || (decide (x.at_ < s.up) && (macSt s x.ingress).awaited ≠ some x.id)

/-- The gate of queue q is open and the frame fits its window: up to the next closing of the gate, a pending switch or a pending mode
change (R151). -/
def fitsWindow (s : State) (p q : Nat) (x : QFrame) : Bool :=
  let t := s.now.toNat
  let (_, gates, _) := gateNow s p t
  let close := earlier (earlier (nextClosing s p q 257 t) ((schedSt s p).next.map (fun n => n.2.toNat))) (pendingMode s p)
  gates.getLsbD q && (match close with
    | none => true
    | some c => if !heldWhole s x then decide (t + (schedSt s p).guard * pf ≤ c) else decide (t + octetTicks s p (wireOctets s p x.frame) ≤ c))

/-- The head of queue q may start now: not paused, and inside its gate while gates apply (R126, R151). -/
def mayStart (s : State) (p q : Nat) (x : QFrame) : Bool :=
  !paused s p && (schedMode s p ≠ 2 || fitsWindow s p q x)

/-- A frame held back by the gates counts once for each window (R151). -/
def countHold (p : Nat) (x : QFrame) (s : State) : State :=
  let y := schedSt s p
  if y.heldIds.contains x.id then s
  else bump (prt p 0x23C) (setSched p { y with heldIds := x.id :: y.heldIds } s)

/-- The head of queue q of the port may start. -/
def headReady (s : State) (p q : Nat) : Bool :=
  match (queueOf s p q).head? with
  | some x => mayStart s p q x
  | none => false

/-- Queue h goes before queue q: the higher first (R137); in INSERT every express queue before every preemptable one (R141). -/
def goesBefore (s : State) (p h q : Nat) : Bool :=
  let eh := isExpress s p h
  let eq := isExpress s p q
  if schedMode s p = 1 && eh != eq then eh else decide (q < h)

/-- A queue that goes before queue q has a frame that may start (R137, R141). -/
def higherReady (s : State) (p q : Nat) : Bool := (List.range 8).any (fun h => goesBefore s p h q && headReady s p h)

/-- An express frame may start on the port. -/
def expressReady (s : State) (p : Nat) : Bool := (List.range 8).any (fun h => isExpress s p h && headReady s p h)

/-- The remainder of a preempted frame goes on (R141). -/
def resumeRest (p : Nat) (w : Wire) (s : State) : State :=
  setMac p { macSt s p with rest := none, wire := some { w with endAt := s.up + (w.endAt - w.startAt), startAt := s.up } } s

/-- TX_ENABLE is 0 and no frame is partly sent: TX_DRAINED (R129). -/
def txDrain (p : Nat) (s : State) : State :=
  let m := macSt s p
  if m.wire.isNone && m.rest.isNone then setMac p { m with txDrained := true } s else s

/-- The MAC enables have changed at an apply instant (R129). -/
def macEnables (p : Nat) (s : State) : State :=
  let s := if txEnabled s p then setMac p { macSt s p with txDrained := false } s else txDrain p (flushQueues p s)
  if rxEnabled s p then setMac p { macSt s p with rxDrained := false, rxOffAt := none } s
  else setMac p { macSt s p with rxOffAt := (macSt s p).rxOffAt.or (some s.up) } s

/-! ### Schedules (R154 to R157) -/

/-- The administrative list of a port. -/
def adminList (s : State) (p : Nat) : GateList :=
  let n := 0x2520 + p
  let b := valBytes (valOf s (key n 4))
  { base := BitVec.ofNat 64 (cfg s n 1), cycle := cfg s n 2,
    entries := (List.range (cfg s n 3)).map (fun e => let w := gateEntryNat b e; (BitVec.ofNat 8 (w / 2 ^ 24), w % 2 ^ 23)) }

/-- The first instant base + n × cycle at or after t (R155). -/
def switchInstant (g : GateList) (t : Nat) : Nat :=
  let pos := cyclePos g t
  if pos = 0 then t else t + (max g.cycle 1 * pf - pos)

/-- A staged schedule becomes pending at its apply instant (R154, R155). -/
def schedStage (p : Nat) (s : State) : State :=
  let g := adminList s p
  setSched p { schedSt s p with next := some (g, BitVec.ofNat 64 (switchInstant g s.now.toNat)) } s

/-- Local time has stepped: a port with a list finds its place again (R157). Whether a port without a list counts is not stated; DESIGN
CHOICE: it has no place to find and does not count (log 162). -/
def relocateOne (s : State) (p : Nat) : State :=
  if (schedSt s p).oper.entries.isEmpty then s
  else bump (prt p 0x244) (setSched p { schedSt s p with heldIds := [] } s)

def relocate (s : State) : State := (List.range 17).foldl relocateOne s

/-- The longest run of pf in which gate 7 stays closed, over two cycles of entries (R149). -/
def closedRun : List (BitVec 8 × Nat) → Nat → Nat → Nat
  | [], run, best => max run best
  | (g, n) :: r, run, best => if g.getLsbD 7 then closedRun r 0 (max run best) else closedRun r (run + n) (max (run + n) best)

/-- The entries with the last one prolonged to the end of the cycle (R148). -/
def filled (cycle : Nat) (l : List (BitVec 8 × Nat)) : List (BitVec 8 × Nat) :=
  let sum := (l.map (·.2)).sum
  match l.reverse with
  | [] => []
  | (g, n) :: r => (r.reverse) ++ [(g, n + (cycle - sum))]

/-- A schedule may be entered (R148, R149, R154). -/
def schedValid (g : GateList) : Bool :=
  decide (g.entries.length ≤ 256) && g.entries.all (fun e => decide (1 ≤ e.2))
    && decide ((g.entries.map (·.2)).sum ≤ g.cycle) && g.base.toNat % pf == 0
    && (g.entries.isEmpty || g.entries.any (fun e => e.1.getLsbD 7))
    && decide (closedRun (filled g.cycle g.entries ++ filled g.cycle g.entries) 0 0 ≤ 1024)

/-! ### Meanings -/

/-- MAC_FRAME_RECEIVE (R120): a frame ends at the MAC of port p. -/
def execMacFrameReceive (p : Fin 17) (f : Frame) (r : RxInfo) (s : State) : Ans := .next (macReceive p.val f r s)

/-- When a truncated frame on the wire is ended at its limit: after its preamble and its octets but the FCS (R121). -/
def truncatedAt (s : State) (p : Nat) (w : Wire) : Nat := w.startAt + octetTicks s p (w.q.frame.len + 4)

/-- TRANSMIT_UNDERRUN (R122, Table 4.3): the frame on the wire ends with a marked FCS; one that has been truncated has had its end. -/
def execTransmitUnderrun (p : Fin 17) (s : State) : Ans :=
  match onWire s p.val with
  | none => .next (settleWire p.val s)
  | some w =>
    if w.q.mark = 2 && truncatedAt s p.val w ≤ s.up then .next s
    else .next (wireMark p.val (countMac p.val 47 1 s))

/-- PAUSE_RECEIVE (R125): a PAUSE frame with this time ends at port p. -/
def execPauseReceive (p : Fin 17) (time : BitVec 16) (s : State) : Ans :=
  let f : Frame := { dst := 0x0180C2000001, etherType := etMacCtrl, payload := beBytes 2 1 ++ beBytes 2 time.toNat, len := 64 }
  .next (macReceive p.val f {} s)

/-- PAUSE_TIMER_EXPIRY (R126): the timer reaches 0. -/
def execPauseTimerExpiry (p : Fin 17) (s : State) : Ans :=
  let s := settleWire p.val s
  match (macSt s p.val).pauseUntil with
  | none => .next s
  | some u => .next (pauseEnd p.val (passTo u s))

/-- PAUSE_REFRESH_TIMER (R124): half the pause time last sent has passed. -/
def execPauseRefreshTimer (p : Fin 17) (s : State) : Ans :=
  match (macSt s p.val).xoffAt with
  | none => .next s
  | some t =>
    let s := passTo t s
    if !cfgOn s 0x2212 (p.val + 1) then .next (flowApply p.val s)
    else if cfg s 0x2215 (p.val + 1) * 1024 ≤ occupancy s p.val then .next (pauseSend p.val (cfg s 0x2213 (p.val + 1)) s)
    else .next (pauseSend p.val 0 s)

/-- PAUSE_WATCHDOG_EXPIRY (R128): the watchdog reaches its limit. -/
def execPauseWatchdogExpiry (p : Fin 17) (s : State) : Ans :=
  let s := settleWire p.val s
  match (macSt s p.val).wdFrom with
  | none => .next s
  | some t =>
    let s := passTo (t + cfg s 0x2216 (p.val + 1) * fr) s
    let s := pauseEnd p.val s
    let s := setMac p.val { macSt s p.val with ignoreUntil := some (s.up + rl), wdFrom := none, idleFrom := none } s
    let s := { countMac p.val 50 1 s with irq.pwdPorts := putBit s.irq.pwdPorts p.val true }
    .next (fire 9 3 [BitVec.ofNat 8 p.val] (raiseIrq 2 s))

/-- PAUSE_WATCHDOG_RESET (R128): a full 1 fr unpaused. -/
def execPauseWatchdogReset (p : Fin 17) (s : State) : Ans :=
  let s := settleWire p.val s
  match (macSt s p.val).idleFrom with
  | none => .next s
  | some t =>
    let s := passTo (t + fr) s
    .next (setMac p.val { macSt s p.val with wdFrom := none, idleFrom := none } s)

/-- WD_IGNORING_EXPIRY (R128): 1 rl after the watchdog fired. -/
def execWdIgnoringExpiry (p : Fin 17) (s : State) : Ans :=
  match (macSt s p.val).ignoreUntil with
  | none => .next s
  | some t =>
    let s := passTo t s
    .next (setMac p.val { macSt s p.val with ignoreUntil := none } s)

/-- The effect of FORCE_STOP (R129): both enables clear, a frame on the wire is marked, a remainder is abandoned. -/
def macForceStop (p : Nat) (s : State) : State :=
  let s := applyVals [(key 0x10012 (p + 1), .num 0), (key 0x10013 (p + 1), .num 0)] s
  let s := flushQueues p (wireMark p (settleWire p s))
  let s := flowAll (setMac p { macSt s p with rest := none, txDrained := true, rxDrained := true } s)
  if (schedSt s p).restart.isSome then verifyStart p s else s

/-- MAC_FORCE_STOP (R129). -/
def execMacForceStop (p : Fin 17) (s : State) : Ans := if reaches s .host then .next (macForceStop p.val s) else .next s

/-- MAC_DRAINED (R129): with an enable cleared, the frame partly sent (`tx`) or received ends. A partly sent frame
completes after a running pause. -/
def execMacDrained (p : Fin 17) (tx : Bool) (s : State) : Ans :=
  if tx then
    if txEnabled s p.val then .next s
    else
      let s := match (macSt s p.val).wire with
        | some w => wireEnd p.val (passTo w.endAt s)
        | none => s
      let s := match (macSt s p.val).rest with
        | some w =>
          let s := match (macSt s p.val).pauseUntil with
            | some u => pauseEnd p.val (passTo u s)
            | none => s
          let s := resumeRest p.val w s
          wireEnd p.val (passTo (s.up + (w.endAt - w.startAt)) s)
        | none => s
      .next (txDrain p.val s)
  else if rxEnabled s p.val then .next s
  else .next (setMac p.val { macSt s p.val with rxDrained := true } s)

/-- The head of queue q of port p starts, or is held back (R137, R151); where its SAs or its packet numbers are gone it is discarded (R421,
R422). -/
def startQueue (p q : Nat) (s : State) : State :=
  match queueOf s p q with
  | [] => s
  | x :: r =>
    let out (s : State) : State := setMac p { macSt s p with queues := tset (macSt s p).queues q r } s
    if !txEnabled s p || higherReady s p q then s
    else if secBlocks s p x.frame then flowCheck x.ingress (bump (0xA0118 + 0x40 * p) (out s))
    else if secExhausted s p then flowCheck x.ingress (countMac p 52 1 (out s))
    else if mayStart s p q x then wireStart p q (isExpress s p q) x (out s)
    else countHold p x s

/-- FRAME_TRANSMIT_START (R137, R141, R151): the head of queue q of port p starts, or is held back. A preempted remainder goes on before
another frame, but for the express frames that are ready while the port is in INSERT. -/
def execFrameTransmitStart (p : Fin 17) (q : Fin 8) (s : State) : Ans :=
  let s := match (macSt s p.val).wire with
    | some w => wireEnd p.val (passTo w.endAt s)
    | none => s
  if !portUp s p.val then .next s
  else if paused s p.val then
    -- the pause timer holds a frame back too while gates apply (R151)
    .next (match queueOf s p.val q.val with
      | x :: _ => if schedMode s p.val = 2 then countHold p.val x s else s
      | [] => s)
  else match (macSt s p.val).rest with
    | some w =>
      if schedMode s p.val = 1 && expressReady s p.val then
        (if isExpress s p.val q.val then .next (startQueue p.val q.val s) else .next s)
      else .next (resumeRest p.val w s)
    | none => .next (startQueue p.val q.val s)

/-- EXPRESS_PREEMPT (R127, R137, R141): the head of express queue q, or a PAUSE frame, is ready while a preemptable frame is on the wire in
INSERT: the fragment ends at the first permitted point, and what is express starts. -/
def execExpressPreempt (p : Fin 17) (q : Fin 8) (s : State) : Ans :=
  match onWire s p.val with
  | some w =>
    let ready := isExpress s p.val q.val && headReady s p.val q.val && !higherReady s p.val q.val
    if !ready && (macSt s p.val).pauseTx.isNone then .next s
    else match fragmentEnd s p.val w with
      | none => .next s
      | some t =>
        let s := fragment p.val w (passTo t s)
        if ready && !paused s p.val then .next (startQueue p.val q.val s) else .next s
  | none => .next s

/-- VERIFY_MPACKET_RECEIVE (R141): answered in every mode and state. -/
def execVerifyMpacketReceive (p : Fin 17) (s : State) : Ans :=
  .next (if portUp s p.val then emit (.mpacket p.val true) s else s)

/-- VERIFY_RESPOND_RECEIVE (R142). -/
def execVerifyRespondReceive (p : Fin 17) (s : State) : Ans :=
  let x := schedSt s p.val
  .next (if x.ver = 2 then setSched p.val { x with ver := 3, verAt := none, heldIds := [] } s else s)

/-- VERIFY_TIMER (R142): the verify time passes. -/
def execVerifyTimer (p : Fin 17) (s : State) : Ans :=
  match (schedSt s p.val).ver, (schedSt s p.val).verAt with
  | 2, some t =>
    let s := passTo t s
    .next (if (schedSt s p.val).verSent < cfg s 0x2507 (p.val + 1) then verifySend p.val s else verifyFail p.val s)
  | _, _ => .next s

/-- RESTART of VERIFY_CTRL or 0x2509: a FAILED port that is UP verifies again (Table 5.2); in mode 1 the MAC never starts verification
(R152). -/
def verifyRestart (p : Nat) (s : State) : State :=
  if portUp s p && (schedSt s p).ver = 4 && cfg s 0x2501 (p + 1) ≠ 1 then verifySend p (setSched p { schedSt s p with verSent := 0 } s) else s

/-- VERIFY_RESTART (R144). -/
def execVerifyRestart (p : Fin 17) (s : State) : Ans := if reaches s .host then .next (verifyRestart p.val s) else .next s

/-- PREEMPT_TLV_RECEIVE (R142): the partner's TLV states whether it supports preemption. -/
def execPreemptTlvReceive (p : Fin 17) (supported : Bool) (s : State) : Ans :=
  .next (if !supported && (schedSt s p.val).ver = 2 then verifyFail p.val s else s)

/-- CUT_THROUGH_INGRESS_PREEMPT (R147): the partner at the ingress port preempts a frame that port o is forwarding
cut-through. A copy that cannot be fragmented is ended marked, and the whole frame waits for its last fragment; with TX_ENABLE 0 it is
discarded (R129). -/
def execCutThroughIngressPreempt (ingress o : Fin 17) (s : State) : Ans :=
  match onWire s o.val with
  | none => .next s
  | some w =>
    if !w.q.cut || w.q.ingress ≠ ingress.val then .next s
    else
      let s := setMac ingress.val { macSt s ingress.val with awaited := some w.q.id } s
      if schedMode s o.val = 1 && !w.express && decide (leastSent s o.val w ≤ s.up) then .next (fragment o.val w s)
      else
        let s := if txEnabled s o.val then
            setMac o.val { macSt s o.val with resend := (macSt s o.val).resend ++ [({ w.q with cut := false }, w.queue)] } s
          else countMac o.val 52 1 s
        .next (wireMark o.val (countMac o.val 47 1 s))

/-- GATE_ENTRY_BOUNDARY (R150): the operational list moves to its next entry, where a new window begins. -/
def execGateEntryBoundary (p : Fin 17) (s : State) : Ans :=
  if (schedSt s p.val).oper.entries.isEmpty then .next s
  else
    let (_, _, fin) := gateNow s p.val s.now.toNat
    let s := passToInstant (BitVec.ofNat 64 fin) s
    .next (setSched p.val { schedSt s p.val with heldIds := [] } s)

/-- The pending list of port p becomes operational (R155). -/
def scheduleSwitch (p : Nat) (s : State) : State :=
  match (schedSt s p).next with
  | none => s
  | some (g, _) => raiseIrq 11 (bump (prt p 0x240) (setSched p { schedSt s p with oper := g, next := none, heldIds := [] } s))

/-- SCHEDULE_SWITCH (R155): the switch instant of the pending list. -/
def execScheduleSwitch (p : Fin 17) (s : State) : Ans :=
  match (schedSt s p.val).next with
  | none => .next s
  | some (_, t) => .next (scheduleSwitch p.val (passToInstant t s))

end Sys2Proof.Machine
end

