-- ==== Sys2Proof/Machine/Transport.lean ====
section
/-!
DEFINITION. Machine/Transport.lean: Bulis frames as bytes, their check, sequences of a sender, and the frames the node
sends (R218 to R224, R263).
-/
namespace Sys2Proof.Machine

/-- The train-wide group UID (Table 7.3). -/
abbrev groupUid : Uid := 0xFFFFFFFFFFFF

/-- The 32-byte header (Table 7.3). -/
def bulisHeader (b : Bulis) : List Byte :=
  beBytes 1 b.version ++ beBytes 1 b.type ++ beBytes 1 b.flags ++ beBytes 1 b.stream ++ beBytes 6 b.src.toNat
    ++ beBytes 6 b.dst.toNat ++ beBytes 4 b.seq.toNat ++ beBytes 4 b.csc.toNat ++ beBytes 2 b.plen ++ beBytes 2 b.tag
    ++ beBytes 1 b.attempt ++ beBytes 1 b.status ++ [0, 0]

/-- The check of a frame with a CSC in its prefix (R222). -/
def bulisSum (b : Bulis) (csc : Word) : Word := checkOf b.dst b.src b.seq csc (bulisHeader b ++ b.payload)

/-- The frame with its length and check filled in (R222, R265). -/
def bulisSeal (b : Bulis) : Bulis :=
  let b := { b with plen := b.payload.length }
  { b with check := bulisSum b b.csc }

/-- The Ethernet frame that carries a Bulis frame (R218). -/
def bulisEther (s : State) (b : Bulis) (mac : Mac) : Frame :=
  { dst := mac, src := s.baseMac + 18, etherType := etBulis,
    payload := bulisHeader b ++ b.payload ++ beBytes 4 b.check.toNat, len := frameLen false (36 + b.payload.length) }

/-- A Bulis frame leaves port 18 on both lines (R67). -/
def bulisOut (b : Bulis) (mac : Mac) (s : State) : State := sendInternal 18 (bulisEther s (bulisSeal b) mac) s

/-- The sender's state for a target and stream (R224). -/
def senderSt (s : State) (u : Uid) (stream : Nat) : Option SendSt :=
  s.spl.senders.find? (fun x => x.uid = u && x.stream = stream)

/-- A sender's state takes a value. -/
def setSender (x : SendSt) (s : State) : State :=
  { s with spl.senders := s.spl.senders.filter (fun y => !(y.uid = x.uid && y.stream = x.stream)) ++ [x] }

/-- The next sequence toward a target on a stream, and whether it carries FIRST. The first value of a new state is not
stated: a free value (log 6). -/
def takeSeq (u : Uid) (stream : Nat) (s : State) : Word × Bool × State :=
  match senderSt s u stream with
  | some x => (x.next, x.first, setSender { x with next := x.next + 1, first := false } s)
  | none =>
    let (n, s) := nextFree s
    let q := word (Config.value n)
    (q, true, setSender { uid := u, stream := stream, next := q + 1, first := false } s)

/-- A group frame of a type is sent: PRIO, stream, CSC and payload given (R218, R224). -/
def bulisGroupSend (type prio stream : Nat) (csc : Word) (payload : List Byte) (s : State) : State :=
  let (q, first, s) := takeSeq groupUid stream s
  bump 0x50040 (bulisOut { type := type, flags := (if first then 128 else 0) + prio, stream := stream, src := s.uid, dst := groupUid,
                           seq := q, csc := csc, payload := payload } bulisGroup s)

/-! ### Inauguration messages (R82 to R84) -/

/-- The NEIGHBOUR body (Table 3.4). -/
def neighbourBytes (n : Neighbour) : List Byte :=
  [1, 1] ++ beBytes 1 (bit 0 n.aft) ++ beBytes 1 (bit 0 n.lineB) ++ beBytes 6 n.uid.toNat ++ beBytes 6 n.peerSeen.toNat
    ++ beBytes 4 n.csc.toNat ++ beBytes 4 n.digest.toNat ++ beBytes 1 n.node ++ beBytes 1 n.flags ++ beBytes 2 n.epoch.toNat
    ++ [0, 0, 0, 0]

/-- The RECORD body (Table 3.5). -/
def recordBytes (r : Record) : List Byte :=
  [1, 2] ++ beBytes 2 r.epoch.toNat ++ beBytes 6 r.uid.toNat ++ beBytes 6 r.fore.toNat ++ beBytes 6 r.aft.toNat
    ++ beBytes 4 r.consist.toNat
    ++ beBytes 1 (bit 7 r.leaving + bit 6 r.inhibit + bit 5 r.cabFore + bit 4 r.cabAft + bit 3 r.aIn + bit 2 r.bIn)
    ++ beBytes 1 r.node ++ beBytes 4 r.csc.toNat ++ beBytes 1 r.pos ++ [0, 0, 0]

/-- NEIGHBOUR is sent on a backbone port (R82, R83). -/
def neighbourSend (p : Nat) (s : State) : State :=
  if !portUp s p || (nbSt s p).legacy then s
  else
    let n := nbSt s p
    let body : Neighbour :=
      { aft := decide (p % 2 = 1), lineB := decide (2 ≤ p), uid := s.uid, peerSeen := n.partner.getD 0, csc := activeCsc s,
        digest := (s.ina.sheet.map sheetDigest).getD 0, node := nodeCode s.node,
        flags := bit 2 ((linkSt s p).st = .upExt) + bit 1 s.ina.inhibit + bit 0 (endMated s (endOf p)), epoch := s.ina.epoch }
    let (q, first, s) := takeSeq 0 0x83 s
    let b : Bulis := { type := 0x40, flags := (if first then 128 else 0) + 7, stream := 0x83, src := s.uid, dst := 0, seq := q,
                       payload := neighbourBytes body }
    let f := bulisEther s (bulisSeal b) linkLocalMac
    let s := setNb p { nbSt s p with sentAt := s.up } s
    bump 0x50040 (sendOn p 18 f (countIn 18 f s))

end Sys2Proof.Machine
end

