-- ==== Sys2Proof/Machine/Records.lean ====
section
/-!
DEFINITION. Machine/Records.lean: the node's RECORD, the chain, the proposal, and how the inauguration state follows
them (R84 to R92, R107).
-/
namespace Sys2Proof.Machine

/-- No neighbour, and a legacy partner, as a RECORD names them (R84). -/
abbrev noUid : Uid := 0
abbrev legacyUid : Uid := 0xFFFFFFFFFFFF

/-- The partner a backbone port names for RECORD (R83, R84). -/
def portPartner (s : State) (p : Nat) : Uid :=
  let n := nbSt s p
  if n.legacy then legacyUid else if n.gone then noUid else n.partner.getD noUid

/-- The junction of an end is settling (R96). -/
def settling (s : State) (e : End) : Bool :=
  s.ina.st = .settle && (match e with
    | .fore => s.ina.settleFore
    | .aft => s.ina.settleAft)

/-- The neighbour that the node's last RECORD names at an end. -/
def ownNeighbour (s : State) : End → Uid
  | .fore => s.ina.own.fore
  | .aft => s.ina.own.aft

/-- The loss of an end's ports waits to be recognised (R98). -/
def lossWaits (s : State) : End → Bool
  | .fore => s.ina.lossFore.isSome
  | .aft => s.ina.lossAft.isSome

/-- The neighbour at an end: the line A port's partner if it is UP, otherwise the line B port's (R84). An end that settles, or whose
loss is not yet recognised, keeps the neighbour it had (R96 to R98, log 151). -/
def endNeighbour (s : State) (e : End) : Uid :=
  if settling s e then ownNeighbour s e
  else match portsAt e with
  | [a, b] =>
    if portUp s a then portPartner s a
    else if portUp s b then portPartner s b
    else if lossWaits s e then ownNeighbour s e else noUid
  | _ => noUid

/-- The cab flag of an end: the input of 0x2402 is HIGH (Table 3.5). -/
def cabActive (s : State) (sub : Nat) : Bool :=
  let n := cfg s 0x2402 sub
  n != 0 && (inSt s (n - 1)).high

/-- The content of the node's RECORD now, with epoch 0 (Table 3.5). -/
def ownContent (s : State) : Record :=
  { uid := s.uid, fore := endNeighbour s .fore, aft := endNeighbour s .aft, consist := word (cfg s 0x2401 0),
    leaving := s.node = .exit, inhibit := s.ina.inhibit, cabFore := cabActive s 1, cabAft := cabActive s 2,
    aIn := s.bb.a.energised, bIn := s.bb.b.energised, node := nodeCode s.node, csc := activeCsc s, pos := ownPosition s }

/-- The content of the node's RECORD is taken again; a change advances the epoch (R84). -/
def recordNoted (s : State) : State :=
  let c := ownContent s
  if c = s.ina.own then s else { s with ina.own := c, ina.epoch := s.ina.epoch + 1 }

/-- The node's TTDP TOPOLOGY frame as an ETBN (R110): its UID and its native junctions, fore and aft, as supervised connections. The
layout is that of IEC 61375-2-5 and is not stated; only what R110 says is in it is carried (log 44). -/
def topologyFrame (s : State) (p : Nat) : Frame :=
  let one (u : Uid) : Uid := if u = legacyUid then noUid else u
  let body := beBytes 6 s.uid.toNat ++ beBytes 6 (one s.ina.own.fore).toNat ++ beBytes 6 (one s.ina.own.aft).toNat
  { dst := ttdpGroup, src := s.baseMac + BitVec.ofNat 48 p, etherType := etTtdp, payload := body, len := frameLen false body.length }

/-- In LEGACY a TTDP TOPOLOGY frame goes out on both lines (R110, Table 3.10). -/
def topologySend (s : State) : State :=
  if s.ina.st = .legacy then
    [0, 1, 2, 3].foldl (fun s p => if portUp s p then pairSend p (topologyFrame s p) s else s) s
  else s

/-- The RECORD is broadcast (R84); in LEGACY a TTDP TOPOLOGY frame with it (log 44). -/
def broadcastRecord (s : State) : State :=
  let s := recordNoted s
  topologySend (bulisGroupSend 0x40 7 0x83 0 (recordBytes { s.ina.own with epoch := s.ina.epoch }) { s with ina.sentAt := s.up })

/-! ### The chain (R85) -/

/-- The record of a UID: the node's own, or a held one. -/
def recordOf (s : State) (u : Uid) : Option Record :=
  if u = s.uid then some s.ina.own else (s.ina.recs.find? (fun h => h.rec_.uid = u)).map (·.rec_)

/-- The walk outward from a record, away from `from_`: the records met, and whether it ended well. -/
def walk (s : State) : Nat → List Uid → Uid → Uid → List Record × Bool
  | 0, _, _, _ => ([], false)
  | fuel + 1, seen, from_, u =>
    if u = noUid || u = legacyUid then ([], true)
    else if seen.contains u then ([], false)
    else match recordOf s u with
      | none => ([], false)
      | some r =>
        if r.fore = from_ then
          let (l, ok) := walk s fuel (u :: seen) u r.aft
          (r :: l, ok)
        else if r.aft = from_ then
          let (l, ok) := walk s fuel (u :: seen) u r.fore
          (r :: l, ok)
        else ([r], false)

/-- The chain from the fore side of this node to its aft side, and whether it is consistent (R85). -/
def chain (s : State) : List Record × Bool :=
  let n := s.ina.recs.length + 2
  let (f, okF) := walk s n [s.uid] s.uid s.ina.own.fore
  let (a, okA) := walk s n (s.uid :: f.map (·.uid)) s.uid s.ina.own.aft
  (f.reverse ++ [s.ina.own] ++ a, okF && okA)

/-- Each record with whether its fore end faces the front of the list. -/
def facing : Option Uid → List Record → List (Record × Bool)
  | _, [] => []
  | prev, r :: t =>
    let fwd := match prev, t with
      | some u, _ => r.fore = u
      | none, n :: _ => r.aft = n.uid
      | none, [] => true
    (r, fwd) :: facing (some r.uid) t

/-- The latest non-zero CSC of a list, 0 for none (R89). -/
def latestCsc (l : List Word) : Word := word (latestOf 32 ((l.filter (· ≠ 0)).map (·.toNat)))

/-- The new CSC from M and k (R89). -/
def newCsc (m : Word) (k : Nat) : Word := word ((m.toNat + (2 ^ 32 - 1) - 1 + k) % (2 ^ 32 - 1) + 1)

/-- k: the lowest POSITION of the records whose CSC is M, 1 when M is 0 (R89). -/
def lowestPos (m : Word) (l : List Record) : Nat :=
  if m = 0 then 1
  else
    let ps := (l.filter (fun r => r.csc = m)).map (·.pos)
    ps.foldl min (ps.headD 1)

/-- Consist numbers and positions (R88). -/
def numberConsists : Nat → Nat → Word → List (Record × Bool) → List SheetEntry
  | _, _, _, [] => []
  | c, k, last, (r, direct) :: t =>
    let same := c ≠ 0 && r.consist ≠ 0 && r.consist = last
    let c' := if same then c else c + 1
    let k' := if same then k + 1 else 1
    { uid := r.uid, consist := c', consistPos := k', inverse := !direct, cabFore := r.cabFore, cabAft := r.cabAft, aIn := r.aIn,
      bIn := r.bIn } :: numberConsists c' k' r.consist t

/-- The reference end of the nodes that are not LEAVING: the rule, and whether it is the front (R86, Table 3.6). -/
def referenceEnd (m : Word) (l : List (Record × Bool)) : Nat × Bool :=
  let cabs := l.filter (fun x => x.1.cabFore || x.1.cabAft)
  let byUid : Nat × Bool :=
    match l.head?, l.getLast? with
    | some a, some b => (3, decide (a.1.uid.toNat ≤ b.1.uid.toNat))
    | _, _ => (3, true)
  let isFirst (r : Record) : Bool := m ≠ 0 && r.csc = m && r.pos = 1
  let byOld : Nat × Bool :=
    match l.head?, l.getLast? with
    | some a, some b => if isFirst a.1 then (2, true) else if isFirst b.1 then (2, false) else byUid
    | _, _ => byUid
  match cabs with
  | [(r, fwd)] => if r.cabFore && r.cabAft then byOld else (1, r.cabFore == fwd)
  | _ => byOld

/-- The proposal from native records (R85 to R90); none where there is none. -/
def nativeProposal (s : State) : Option Sheet :=
  let (recs, ok) := chain s
  if !ok then none
  else
    let faced := (facing none recs).filter (fun x => !x.1.leaving)
    if faced.isEmpty || 64 < faced.length then none
    else
      let m := latestCsc (recs.map (·.csc))
      let (rule, front) := referenceEnd m faced
      let ordered := if front then faced else (faced.reverse).map (fun x => (x.1, !x.2))
      let ordered := match ordered with
        | [(r, _)] => [(r, true)]
        | l => l
      let entries := numberConsists 0 0 0 ordered
      some { refRule := rule, csc := newCsc m (lowestPos m recs), base := m, coord := (ordered.head?.map (·.1.uid)).getD 0, entries := entries }

/-- The proposal in LEGACY, in the TTDP numbering (R110), of at most 63 ETBNs (Table 3.10). -/
def legacyProposal (s : State) : Option Sheet :=
  if s.ina.ttdp.isEmpty || 63 < s.ina.ttdp.length then none
  else
    let recs := s.ina.ttdp.filterMap (fun x => if x.2.2 then none else recordOf s x.1)
    let m := latestCsc (recs.map (·.csc))
    let rows := s.ina.ttdp.map (fun x =>
      match (if x.2.2 then none else recordOf s x.1) with
      | some r => (r, !x.2.1)
      | none => ({ uid := x.1 }, !x.2.1))
    let entries := (numberConsists 0 0 0 rows).map (fun e =>
      { e with legacy := s.ina.ttdp.any (fun x => x.1 = e.uid && x.2.2) })
    some { legacyMode := true, csc := newCsc m (lowestPos m recs), base := m,
           coord := ((s.ina.ttdp.find? (fun x => !x.2.2)).map (·.1)).getD 0, entries := entries }

/-- A record held, or the own one, names a legacy partner (R110). -/
def namesLegacy (s : State) : Bool :=
  let f (r : Record) := r.fore = legacyUid || r.aft = legacyUid
  f s.ina.own || s.ina.recs.any (fun h => f h.rec_)

/-- The proposal the node builds now. -/
def buildProposal (s : State) : Option Sheet := if s.ina.st = .legacy then legacyProposal s else nativeProposal s

/-- The chain is over 64 nodes that are not LEAVING (R85). -/
def chainTooLong (s : State) : Bool := 64 < ((chain s).1.filter (fun r => !r.leaving)).length

/-- What R91 compares of an entry. -/
def sameEntry (a b : SheetEntry) : Bool :=
  a.uid = b.uid && a.consist = b.consist && a.consistPos = b.consistPos && a.inverse = b.inverse && a.legacy = b.legacy

/-- Two lists of entries agree in what R91 compares. -/
def sameEntries : List SheetEntry → List SheetEntry → Bool
  | [], [] => true
  | a :: r, b :: t => sameEntry a b && sameEntries r t
  | _, _ => false

/-- The proposal equals the active Call Sheet (R91). -/
def equalsActive (s : State) (x : Sheet) : Bool :=
  match s.ina.sheet with
  | some y => sameEntries x.entries y.entries
  | none => false

/-- A cab flag differs from the active Call Sheet's (R91). -/
def cabChanged (s : State) (x : Sheet) : Bool :=
  match s.ina.sheet with
  | some y => (x.entries.map (fun e => (e.cabFore, e.cabAft))) ≠ (y.entries.map (fun e => (e.cabFore, e.cabAft)))
  | none => true

/-- The proposal adds members (R91). -/
def addsMembers (s : State) (x : Sheet) : Bool :=
  let cscs := x.entries.filterMap (fun e => if e.legacy then none else (recordOf s e.uid).map (·.csc))
  x.entries.any (fun e => !isMemberUid s e.uid) || cscs.any (fun c => c = 0) || cscs.any (fun c => c ≠ cscs.headD 0)

/-- A record of the chain has INHIBIT set; in LEGACY, where legacy nodes part the native chains, any record held (R91, R110). -/
def inhibitSeen (s : State) : Bool :=
  (if s.ina.st = .legacy then s.ina.own :: s.ina.recs.map (·.rec_) else (chain s).1).any (·.inhibit)

/-- The quiet time may run: the chain is consistent (R85); in LEGACY the ETB topology counters are equal (R110). -/
def quietRuns (s : State) : Bool := if s.ina.st = .legacy then s.ina.etbSame else (chain s).2

/-! ### The state follows the records (R107) -/

/-- Collection starts again: the quiet time runs if it may (R85, R110). The first trigger of INA_TIME_LAST is not defined;
DESIGN CHOICE: the first entry into SETTLE or COLLECT since the last activation (log 152). -/
def collect (s : State) : State :=
  let ok := quietRuns s
  { s with ina.st := if s.ina.st = .legacy then .legacy else .collect, ina.proposal := none,
           ina.quietAt := if ok then some (s.up + cfg s 0x2405 0 * pf) else none,
           ina.tooMany := chainTooLong s,
           ina.trigger := s.ina.trigger.or (some s.up) }

/-- A node that has nothing to wait for builds its proposal again: its slot or state has changed, or its refresh interval has passed
(R91). -/
def rebuild (s : State) : State :=
  if (s.ina.st = .collect || s.ina.st = .legacy) && s.ina.quietAt.isNone && quietRuns s then { s with ina.quietAt := some s.up } else s

/-- SETTLE is over, whichever state follows. -/
def settleOff (s : State) : State := { s with ina.settleBy := none, ina.settleFore := false, ina.settleAft := false }

/-- NEIGHBOUR goes out at once on every UP port: its content has changed (R83). -/
def neighbourAll (s : State) : State := [0, 1, 2, 3].foldl (fun s p => neighbourSend p s) s

/-- LEGACY is entered when a record names a legacy partner and left when none does (R110, R111). -/
def legacyCheck (s : State) : State :=
  if namesLegacy s then
    (if s.ina.st = .legacy then s
     else
       let t := settleOff { s with ina.st := .legacy, ina.proposal := none }
       if s.ina.st = .settle then neighbourAll (broadcastRecord t) else topologySend t)
  else if s.ina.st = .legacy then collect { s with ina.st := .collect, ina.ttdp := [], ina.etbSame := false }
  else s

/-- The chain of records has changed (R85, R92, R107). Pre-inauguration and HELD do not keep a change from being collected (R85, R106,
log 138). -/
def chainChanged (s : State) : State :=
  let s := match s.ina.st with
    | .stable => collect s
    | .pre => collect s
    | .collect => collect s
    | .voting => collect { s with ina.changed := true }
    | .printed => { s with ina.changed := true }
    | .held => collect { s with ina.changed := true }
    | .legacy => collect { s with ina.changed := s.ina.changed || s.ina.proposal.isSome || s.tak.sys.kind = 2 }
    | .settle => s
  legacyCheck s

/-- The node's RECORD may have changed: if it has, its epoch advances, it is broadcast, NEIGHBOUR goes out and collection starts (R83,
R84, R107). A node that has no backbone in its state only notes the change. -/
def recordChanged (s : State) : State :=
  if ownContent s = s.ina.own then s
  else if s.node = .off || s.node = .asleep || s.node = .fault then recordNoted s
  else chainChanged (neighbourAll (broadcastRecord s))

/-- The settle time ends: the RECORD is broadcast and collection starts (Table 3.8). -/
def endSettle (s : State) : State :=
  if s.ina.st = .settle then legacyCheck (collect (neighbourAll (broadcastRecord (settleOff { s with ina.st := .collect })))) else s

/-- SETTLE is entered for the junction of an end (Table 3.8). -/
def startSettle (e : End) (s : State) : State :=
  let s := if s.ina.st = .settle then s
    else { s with ina.st := .settle, ina.quietAt := none, ina.settleBy := some (s.up + cfg s 0x2404 0 * fr),
                  ina.trigger := s.ina.trigger.or (some s.up) }
  match e with
  | .fore => { s with ina.settleFore := true }
  | .aft => { s with ina.settleAft := true }

/-- Both ports of every junction that settles are UP: SETTLE ends (R96, Table 3.8). -/
def settleCheck (s : State) : State :=
  let done (e : End) (b : Bool) : Bool := !b || (portsAt e).all (portUp s)
  if s.ina.st = .settle && done .fore s.ina.settleFore && done .aft s.ina.settleAft then endSettle s else s

/-- A junction that settled has gone: SETTLE ends where no other settles. -/
def settleDrop (e : End) (s : State) : State :=
  let s := match e with
    | .fore => { s with ina.settleFore := false }
    | .aft => { s with ina.settleAft := false }
  if s.ina.st = .settle && !s.ina.settleFore && !s.ina.settleAft then endSettle s else s

/-- Pre-inauguration of an end has begun or is over (R80). -/
def setPre (e : End) (b : Bool) (s : State) : State :=
  match e with
  | .fore => { s with ina.preFore := b }
  | .aft => { s with ina.preAft := b }

/-- Pre-inauguration of an end runs, and no port of it has been UP. -/
def preRuns (s : State) : End → Bool
  | .fore => s.ina.preFore
  | .aft => s.ina.preAft

/-- The first NEIGHBOUR of a partner may take the node into SETTLE from these states (Table 3.8); a node in DAWN or JOINING also while it
collects (R360). -/
def maySettle (s : State) : Bool :=
  s.ina.st = .stable || s.ina.st = .pre || s.ina.st = .settle
    || ((s.node = .dawn || s.node = .joining) && (s.ina.st = .collect || s.ina.st = .held))

/-- A backbone port has reached UP (R80, R83, R360, Table 3.8). -/
def inaPortUp (p : Nat) (s : State) : State :=
  let e := endOf p
  let s := setNb p {} s
  let s := match e with
    | .fore => { s with ina.lossFore := none }
    | .aft => { s with ina.lossAft := none }
  let first := s.ina.st = .pre && preRuns s e
  let young := (s.node = .dawn || s.node = .joining) && maySettle s
  let s := setPre e false s
  settleCheck (neighbourSend p (if first || young then startSettle e s else s))

/-- A backbone port has left UP (R72, R84, R97, R98): the end's neighbour stands until the loss is recognised. -/
def inaPortDown (p : Nat) (s : State) : State :=
  let e := endOf p
  let s := setNb p {} s
  if (portsAt e).any (portUp s) then recordChanged s
  else
    let s := settleDrop e s
    if !endMated s e then recordChanged s
    else match e with
      | .fore => { s with ina.lossFore := some (s.up + 8 * fr) }
      | .aft => { s with ina.lossAft := some (s.up + 8 * fr) }

/-- The loss at an end is recognised (R97, R98). -/
def lossRecognised (e : End) (s : State) : State :=
  match e with
  | .fore => recordChanged { s with ina.lossFore := none }
  | .aft => recordChanged { s with ina.lossAft := none }

/-- A NEIGHBOUR arrives on an UP port (R81, R83, R170, Table 3.8). R170 lets the exchanges that have agreed before the first NEIGHBOUR
count; DESIGN CHOICE: the latest four must still agree when it arrives (log 153). -/
def neighbourIn (p : Nat) (n : Neighbour) (s : State) : State :=
  if !portUp s p then s
  else
    let old := nbSt s p
    let first := !old.heard || old.partner ≠ some n.uid
    let s := setNb p { old with partner := some n.uid, heard := true, gone := false, legacy := false, lastAt := s.up,
                                seen := old.seen || n.peerSeen = s.uid } s
    let t := ptpSt s p
    let s := if 4 ≤ t.agreed then setPtp p { t with valid := true } s else s
    let s := if first then neighbourSend p s else s
    let junction := !isMemberUid s n.uid || s.node = .dawn || s.node = .joining
    let s := if first && junction && maySettle s then startSettle (endOf p) s else s
    settleCheck (recordChanged s)

/-- A node holds one record of each node, the last accepted (R84). -/
def holdRecord (h : HeldRec) (s : State) : State :=
  { s with ina.recs := s.ina.recs.filter (fun x => x.rec_.uid ≠ h.rec_.uid) ++ [h] }

/-- A newer record has been taken: in STABLE collection starts (Table 3.8); elsewhere a change outside the chain restarts nothing
(R85). -/
def recordTaken (before : List Record × Bool) (s : State) : State :=
  if s.ina.st ≠ .stable && chain s = before then legacyCheck s else chainChanged s

/-- A RECORD arrives, with the MAC source address of its frame (R84, R218). -/
def recordIn (r : Record) (mac : Mac) (s : State) : State :=
  if r.uid = s.uid then s
  else
    let s := { s with ina.macs := tset s.ina.macs r.uid.toNat mac }
    let before := chain s
    match s.ina.recs.find? (fun h => h.rec_.uid = r.uid) with
    | none => recordTaken before (broadcastRecord (holdRecord { rec_ := r, at_ := s.up } s))
    | some h =>
      if laterThan 16 r.epoch.toNat h.rec_.epoch.toNat then
        let s := holdRecord { rec_ := r, at_ := s.up } s
        recordTaken before (if isMemberUid s r.uid then s else broadcastRecord s)
      else if r.epoch = h.rec_.epoch then holdRecord { h with at_ := s.up } s
      else s

end Sys2Proof.Machine
end

