-- ==== Sys2Proof/Machine/TrainLines.lean ====
section
/-!
DEFINITION. Machine/TrainLines.lean: the train-line unit (chapter 15): inputs, threshold loops, outputs,
the safe condition, edge events.
-/
namespace Sys2Proof.Machine

/-! ### Shared operations -/

def setIn (i : Nat) (x : InSt) (s : State) : State := { s with tln.ins := tset s.tln.ins i x }
def setOut (k : Nat) (o : OutSt) (s : State) : State := { s with tln.outs := tset s.tln.outs k o }
def setCs (c : Nat) (x : CsSt) (s : State) : State := { s with tln.cs := tset s.tln.cs c x }

/-- TRAIN_LINE_FAULT (R402): kind, channel from 1, fault bit number, and a level or current. -/
def fireTrainFault (kind chan bit v : Nat) (s : State) : State :=
  fire 29 4 ([BitVec.ofNat 8 kind, BitVec.ofNat 8 chan, BitVec.ofNat 8 bit, 0] ++ beBytes 4 v) s

/-- The follow rule of output k is evaluated (R400): a changed result starts its delay; one that has no delay acts. -/
def followOne (s : State) (k : Nat) : State :=
  let o := outSt s k
  let r := ruleResult s k
  if cfg s 0x2B10 (k + 1) ≠ 2 then s
  else if r = o.follow then setOut k { o with followNext := none } s
  else
    let d := cfg s (if r then 0x2B14 else 0x2B15) (k + 1)
    if d = 0 then setOut k { o with follow := r, followNext := none } s
    else match o.followNext with
      | some _ => s
      | none => setOut k { o with followNext := some (r, s.up + d * fr) } s

/-- An output that has become driven conducts from now on; one that no longer is has conducted until now (R397). -/
def conducts (was is : Bool) (now : Nat) (o : OutSt) : OutSt :=
  match was, is with
  | false, true => { o with cleanFrom := now }
  | true, false => { o with clean := o.clean + (now - o.cleanFrom) }
  | _, _ => o

/-- The driver states have changed: what each output has conducted is kept (R397). -/
def noteDriven (old s : State) : State :=
  (List.range 8).foldl (fun s k =>
    if outDriven old k = outDriven s k then s else setOut k (conducts (outDriven old k) (outDriven s k) s.up (outSt s k)) s) s

/-- The follow rules of all outputs are evaluated (R400). -/
def followAll (s : State) : State := noteDriven s ((List.range 8).foldl followOne s)

/-- An input without a fault takes part in the follow rules with its state; one with a fault keeps its last (R400). -/
def inputFollows (i : Nat) (s : State) : State :=
  let x := inSt s i
  if x.overrange || x.swingLow then s else setIn i { x with ruleHigh := x.high } s

/-- The safe condition is about to begin: each output keeps its driver state for SAFE_STATE 2 (Table 15.2). -/
def holdOutputs (s : State) : State :=
  if safeCond s then s
  else (List.range 8).foldl (fun s k => setOut k { outSt s k with heldOn := outDriven s k } s) s

/-- An edge of input i enters the FIFO, sets its status bit and may fire the recorder (R402). -/
def edgeEvent (i : Nat) (rising : Bool) (ts : Word) (s : State) : State :=
  let s := bump 0x80040 s
  let s := if s.tln.fifo.length < 64 then { s with tln.fifo := s.tln.fifo ++ [{ input := i, rising := rising, ts := ts }] }
    else bump 0x80044 { s with tln.overflow := true }
  let s := { s with tln.edgeStatus := putBit s.tln.edgeStatus i true }
  let s := if s.tln.edgeMask.getLsbD i then raiseIrq 14 s else s
  if cfgOn s 0x2A04 (41 + i) then
    let x := inSt s i
    let f := (if x.overrange then 1 else 0) + (if x.fSwing then 2 else 0)
    fire (40 + i) (cfg s 0x2A03 (41 + i))
      ([if rising then 1 else 0, BitVec.ofNat 8 f] ++ beBytes 2 x.level ++ beBytes 4 ts.toNat) s
  else s

/-- An input takes part: D1 on, IN_ENABLE and its own enable set (R393, R401). -/
def inActive (s : State) (i : Nat) : Bool := domOn s .d1 && inEnable s && cfgOn s 0x2B01 (i + 1)

/-- A level clamped to 0.25 Un … 0.80 Un (Table 15.1). -/
def clampTh (un v : Nat) : Nat := min (max v (un / 4)) (un * 8 / 10)

/-- The mean of samples, 0 of none. -/
def meanOf (l : List (BitVec 16)) : Nat := (l.map BitVec.toNat).sum / l.length

/-- One step of a first-order filter with a time constant of 128 frames, on an estimate in 1/128 of a count (log 21). -/
def filter128 (est mean : Nat) : Nat := est + mean - est / 128

/-- The estimates take a frame's mean (Table 15.1). -/
def estimate (x : InSt) (isHigh : Bool) (mean : Nat) : InSt :=
  if isHigh then
    if x.hiKnown then { x with hiEst := filter128 x.hiEst mean } else { x with hiKnown := true, hiEst := mean * 128 }
  else { x with loEst := filter128 x.loEst mean }

/-- A set point in counts: a percentage of the way from LO_EST to HI_EST. -/
def setPoint (x : InSt) (percent : Nat) : Nat := (x.loEst * 100 + (x.hiEst - x.loEst) * percent) / 12800

/-- The thresholds follow the estimates (Table 15.1). -/
def setPoints (un fh fl : Nat) (x : InSt) : InSt :=
  let h := setPoint x fh
  let l := setPoint x fl
  let ch := clampTh un h
  let cl := clampTh un l
  { x with th := some (ch, cl), clamped := ch != h || cl != l, frozen := false }

/-- The swing is below 0.2 Un (Table 15.1). -/
def swingIsLow (un : Nat) (x : InSt) : Bool := x.hiKnown && decide (5 * (x.hiEst - x.loEst) < 128 * un)

/-- Since when the swing has been too low, or has recovered (Table 15.1). -/
def swingWatch (un now : Nat) (x : InSt) : InSt :=
  { x with swingFrom := if swingIsLow un x = x.swingLow then none else some (x.swingFrom.getD now) }

/-- The thresholds at a frame boundary (Table 15.1): the fixed ones in mode 2 and until HI_EST is known, those in use while frozen or while
no update is due, else those of the loop. -/
def boundaryTh (s : State) (i : Nat) (due : Bool) (x : InSt) : InSt :=
  let mode := cfg s 0x2B04 (i + 1)
  let held := some (x.th.getD (fixedTh s i))
  if mode = 2 then { x with th := some (fixedTh s i), clamped := false, frozen := false }
  else if mode = 1 || x.swingLow then { x with th := held, frozen := true }
  else if !x.hiKnown then { x with th := some (fixedTh s i), clamped := false, frozen := false }
  else if due then setPoints (inUn s i) (cfg s 0x2B05 (i + 1)) (cfg s 0x2B06 (i + 1)) x
  else { x with th := held, frozen := false }

/-- OUT_CURRENT takes the current reported, in mA; the voltage measured with it is a free value (R398, log 132). -/
def measureOut (k : Nat) (current : BitVec 16) (s : State) : State :=
  let (n, s) := nextFree s
  setOut k { outSt s k with current := current.toNat, volt := Config.value n % 65536, measured := some (outPeriod s) } s

/-- The level of a coupler-sense channel before debounce (R395): between the two resistances it keeps its last one. -/
def senseLevel (s : State) (res : Nat) (last : Bool) : Bool :=
  if res < cfg s 0x2B21 0 then true else if cfg s 0x2B22 0 < res then false else last

/-- An input starts: LOW, its loop with LO_EST 0 and HI_EST unknown (R393, Table 15.1); with a fault its last state stands for the rules
(R400). -/
def inputStart (i : Nat) (s : State) : State :=
  let x := inSt s i
  setIn i { level := x.level, overrange := x.overrange, fSwing := x.fSwing, edges := x.edges, ruleHigh := x.overrange && x.ruleHigh } s

/-- D1 has gone off: what it held of the inputs, the rules and the delays is lost (log 174). -/
def trainLinesLost (s : State) : State :=
  let s := (List.range 16).foldl (fun s i => let t := inputStart i s; setIn i { inSt t i with ruleHigh := false } t) s
  (List.range 8).foldl (fun s k => setOut k { outSt s k with follow := false, followNext := none } s) s

/-- INVERT of an input has changed: its logical state is reversed at once, without an edge (R393, log 212). -/
def invertApply (i : Nat) (s : State) : State :=
  let x := inSt s i
  inputFollows i (setIn i { x with high := !x.high } s)

/-- An input that is enabled starts LOW, and one whose INVERT has changed is reversed (R393); a loop that is frozen holds the thresholds
in use, and the swing is judged by the Un that applies (Table 15.1). -/
def inputApply (old : State) (keys : List Nat) (s : State) (i : Nat) : State :=
  let touches (idx : Nat) : Bool := keys.contains (key idx (i + 1))
  let starts := touches 0x2B01 && cfgOn s 0x2B01 (i + 1) && !cfgOn old 0x2B01 (i + 1)
  let s := if starts then inputStart i s
    else if touches 0x2B09 && cfgOn s 0x2B09 (i + 1) != cfgOn old 0x2B09 (i + 1) then invertApply i s
    else s
  let s := if touches 0x2B02 then setIn i (swingWatch (inUn s i) s.up (inSt s i)) s else s
  if touches 0x2B04 && cfg s 0x2B04 (i + 1) = 1 && cfg old 0x2B04 (i + 1) ≠ 1 then
    setIn i { inSt s i with th := some ((inSt s i).th.getD (fixedTh old i)), frozen := true } s
  else s

/-- A fault flag of an output is reported: counted, bit 14, TRAIN_LINE_FAULT (R398, R402). -/
def outFaultReport (k bit cnt : Nat) (s : State) : State :=
  fireTrainFault 2 (k + 1) bit (outSt s k).current (raiseIrq 14 (bump cnt s))

/-- The writes of OUT_CMD that a link which has carried no data for 64 pf has not delivered (Table 15.3). -/
def recentWrites (s : State) : List (Nat × BitVec 8) := s.tln.cmdPast.filter (fun e => decide (s.up ≤ e.1 + 64 * pf))

/-- OUT_CMD takes a value; while the link is lost the write is lost (R399, Table 15.3). -/
def setOutCmd (v : Byte) (s : State) : State :=
  if s.tln.linkLost then s
  else noteDriven s { s with tln.outCmd := v, tln.cmdPast := (s.up, s.tln.outCmd) :: recentWrites s }

/-- The writes that found the link stopped are lost: OUT_CMD is what it was before them (Table 15.3, log 213). -/
def loseWrites (s : State) : State :=
  { s with tln.outCmd := ((recentWrites s).getLast?.map (·.2)).getD s.tln.outCmd, tln.cmdPast := [] }

/-- FORCE_SAFE (R401). -/
def doForceSafe (s : State) : State := noteDriven s { holdOutputs s with tln.forceSafe := true }

/-- RESUME (R401). -/
def doResume (s : State) : State := noteDriven s { s with tln.forceSafe := false }

/-- TRIPPED of output k is written with 1 (R397): a latched trip is cleared, and no other (log 214). -/
def doTripClear (k : Nat) (s : State) : State :=
  let o := outSt s k
  if o.latched then noteDriven s (setOut k { o with tripped := false, latched := false, trips := 0, clean := 0 } s) else s

/-! ### Meanings -/

/-- DEBOUNCE_RUN_COMPLETE (R393): every sample of input i has stayed above TH_H (or below TH_L) for the debounce
time; `ts` is TIME_NS at the interpolated crossing and `level` IN_LEVEL. -/
def execDebounceRunComplete (i : Fin 16) (above : Bool) (ts : Word) (level : BitVec 16) (s : State) : Ans :=
  let new := above != cfgOn s 0x2B09 (i.val + 1)
  let x := inSt s i.val
  if !inActive s i.val || new == x.high then .next s
  else
    let s := setIn i.val { x with high := new, level := level.toNat, edges := (x.edges + 1) % 65536 } s
    .next (recordChanged (followAll (inputFollows i.val (edgeEvent i.val new ts s))))

/-- THRESHOLD_UPDATE (R392, R394): at a frame boundary, with the frame's samples; `whole`: the frame lay in one state and no debounce run
was open. -/
def execThresholdUpdate (i : Fin 16) (whole : Bool) (samples : List (BitVec 16)) (s : State) : Ans :=
  let s := toFrame s
  if !domOn s .d1 || samples.isEmpty then .next s
  else
    let x := { inSt s i.val with level := meanOf (samples.drop (samples.length - 16)) }
    if !inActive s i.val then .next (setIn i.val x s)
    else
      let raw := x.high != cfgOn s 0x2B09 (i.val + 1)
      let x := if whole then swingWatch (inUn s i.val) s.up (estimate x raw (meanOf samples)) else x
      .next (setIn i.val (boundaryTh s i.val whole x) s)

/-- SWING_LOW_TIMER (R394): the swing has been below 0.2 Un for 64 fr, or has recovered for 64 fr. -/
def execSwingLowTimer (i : Fin 16) (recovered : Bool) (s : State) : Ans :=
  match (inSt s i.val).swingFrom with
  | none => .next s
  | some t =>
    if !inActive s i.val || recovered != (inSt s i.val).swingLow then .next s
    else
      let s := passTo (t + 64 * fr) s
      let x := { inSt s i.val with swingFrom := none }
      if recovered then
        .next (followAll (inputFollows i.val (setIn i.val { x with swingLow := false, frozen := cfg s 0x2B04 (i.val + 1) = 1 } s)))
      else
        let s := setIn i.val { x with swingLow := true, fSwing := true, frozen := true, th := some (thOf s i.val) } s
        .next (fireTrainFault 1 (i.val + 1) (16 + i.val) x.level (bump 0x80048 s))

/-- INPUT_OVERRANGE (R392): the input has been above 160 V, 64,000 counts, for 1 fr, at this level. -/
def execInputOverrange (i : Fin 16) (level : BitVec 16) (s : State) : Ans :=
  if !domOn s .d1 || level.toNat ≤ 64000 then .next s
  else
    let x := inSt s i.val
    let s := setIn i.val { x with overrange := true, level := level.toNat } s
    .next (fireTrainFault 1 (i.val + 1) i.val level.toNat (bump 0x80048 s))

/-- CS_OVERVOLT (R395): a coupler-sense terminal has been above 30 V for 64 pf; the channel holds its level. -/
def execCsOvervolt (c : Fin 4) (s : State) : Ans :=
  if !domOn s .d1 then .next s
  else
    let s := setCs c.val { csSt s c.val with overvolt := true } s
    .next (fireTrainFault 3 (c.val + 1) 8 0 (bump 0x8005C s))

/-- OUTPUT_TRIP (R397): the output has been in current limit for its trip time, at this current in mA. -/
def execOutputTrip (k : Fin 8) (current : BitVec 16) (s : State) : Ans :=
  if !outDriven s k.val then .next s
  else
    let o := outSt s k.val
    let clean := o.clean + (s.up - cfg s 0x2B16 (k.val + 1) * fr - o.cleanFrom)
    let n := if rl ≤ clean then 1 else o.trips + 1
    let retry := cfg s 0x2B17 (k.val + 1)
    let latch := decide (retry = 0 ∨ 3 ≤ n)
    let o := { o with tripped := true, fTripped := true, trips := n, latched := latch, clean := 0,
                      retryAt := if latch then none else some (s.up + retry * rl) }
    .next (outFaultReport k.val k.val 0x8004C (measureOut k.val current (setOut k.val o s)))

/-- OUTPUT_RETRY (R397): the retry interval has ended, and the trip with it; the output closes again if it is still commanded on. -/
def execOutputRetry (k : Fin 8) (s : State) : Ans :=
  match (outSt s k.val).retryAt with
  | none => .next s
  | some t =>
    let s := passTo t s
    .next (setOut k.val { outSt s k.val with retryAt := none, tripped := false, cleanFrom := s.up } s)

/-- TRIP_CLEAR (R397): a W1C write to OUT_STATUS.TRIPPED of output k. -/
def execTripClear (k : Fin 8) (s : State) : Ans :=
  if reaches s .host then .next (doTripClear k.val s) else .next s

/-- OPEN_LOAD (R398): a driven output has carried less than the open-load threshold for 8 fr. -/
def execOpenLoad (k : Fin 8) (current : BitVec 16) (s : State) : Ans :=
  if !outDriven s k.val || cfg s 0x2B18 (k.val + 1) ≤ current.toNat then .next s
  else .next (outFaultReport k.val (8 + k.val) 0x80050 (measureOut k.val current (setOut k.val { outSt s k.val with fOpen := true } s)))

/-- STUCK_ON (R398): an output commanded off has carried more than the open-load threshold for 8 fr. -/
def execStuckOn (k : Fin 8) (current : BitVec 16) (s : State) : Ans :=
  if !domOn s .d1 || outDriven s k.val || outOrdered s k.val || current.toNat ≤ cfg s 0x2B18 (k.val + 1) then .next s
  else .next (outFaultReport k.val (16 + k.val) 0x80054 (measureOut k.val current (setOut k.val { outSt s k.val with fStuck := true } s)))

/-- FOLLOW_DELAY_EXPIRY (R400): the on or off delay of output k ends. -/
def execFollowDelayExpiry (k : Fin 8) (s : State) : Ans :=
  match (outSt s k.val).followNext with
  | none => .next s
  | some (r, t) =>
    let s := passTo t s
    .next (noteDriven s (setOut k.val { outSt s k.val with follow := r, followNext := none } s))

/-- ISO_LINK_LOST (R401): the isolation link has carried no data for 64 pf. -/
def execIsoLinkLost (s : State) : Ans :=
  if !domOn s .d1 || s.tln.linkLost then .next s
  else
    let s := noteDriven s { holdOutputs (loseWrites s) with tln.linkLost := true }
    .next (fireTrainFault 4 1 31 0 (raiseIrq 14 (bump 0x80058 s)))

/-- The isolation link carries data again: a train-line event (Table 15.3). -/
def linkBack (s : State) : State := raiseIrq 14 (noteDriven s { s with tln.linkLost := false })

/-- ISO_LINK_RETURN (R401): the link returns; the outputs leave the safe condition at the next frame boundary. -/
def execIsoLinkReturn (s : State) : Ans :=
  if !s.tln.linkLost then .next s
  else .next (linkBack (passToInstant (nextFrame s.now) s))

/-- FORCE_SAFE (R401): TLN_CTRL.FORCE_SAFE is written by the host. -/
def execForceSafe (s : State) : Ans := if reaches s .host then .next (doForceSafe s) else .next s

/-- RESUME (R401): TLN_CTRL.RESUME is written by the host. -/
def execResume (s : State) : Ans := if reaches s .host then .next (doResume s) else .next s

/-- EVT_TS_READ (R402, R409): a read of EVT_TS returns and removes the oldest edge entry. -/
def execEvtTsRead (who : Requester) (s : State) : Ans :=
  if !reaches s who then .next (turnedAway who s)
  else if featDenied s who 4 then .next (bump 0x90044 (emit (.readData who 0x80024 0) s))
  else
    let v := (s.tln.fifo.head?.map (·.ts)).getD 0
    .next (emit (.readData who 0x80024 v) { s with tln.fifo := s.tln.fifo.tail })

end Sys2Proof.Machine
end

