-- ==== Sys2Proof/Machine/Clock.lean ====
section
/-!
DEFINITION. Machine/Clock.lean: the servo, the time path, the grandmaster choice, pulse outputs: what the commands of
chapter 6 share with links, takes and Call Sheets.
-/
namespace Sys2Proof.Machine

/-! ### Servo states and steps (R177, R187) -/

/-- The servo changes state: bit 5 and SERVO_STATE, severity 4 into STEP-SUSPECT (R177). -/
def setServo (n : ServoState) (s : State) : State :=
  let old := s.tim.servo
  if old = n then s
  else
    let s := raiseIrq 5 { s with tim.servo := n }
    fire 13 (if n = .stepSuspect then 4 else 3)
      ([BitVec.ofNat 8 (servoCode old), BitVec.ofNat 8 (servoCode n), 0, 0] ++ beBytes 4 (intWord s.tim.offset).toNat) s

def setPps (k : Nat) (x : PpsSt) (s : State) : State := { s with tim.pulses := tset s.tim.pulses k x }

/-- The configuration of pulse output k: mode, start, period. -/
def ppsMode (s : State) (k : Nat) : Nat := cfg s (0x2610 + k) 1
def ppsStart (s : State) (k : Nat) : Nat := cfg s (0x2610 + k) 2
def ppsPeriod (s : State) (k : Nat) : Nat := max (cfg s (0x2610 + k) 3) 1

/-- PPS_SKIP_CNT of output k. -/
abbrev ppsSkip (k : Nat) : Nat := 0x40118 + 0x20 * k

/-- The first start + j × period after t (R186, R187). -/
def edgeAfter (start period t : Nat) : Nat := if t < start then start else start + ((t - start) / period + 1) * period

/-- The first start + j × period at or after t. -/
def edgeFrom (start period t : Nat) : Nat := if t ≤ start then start else start + ((t - start + period - 1) / period) * period

/-- A change from state `old` concerns the pulses of output k: its mode or start, or its period in mode periodic (R186). -/
def ppsChanged (old s : State) (k : Nat) : Bool :=
  ppsMode old k ≠ ppsMode s k || ppsStart old k ≠ ppsStart s k || (ppsMode s k = 2 && ppsPeriod old k ≠ ppsPeriod s k)

/-- A pulse output whose mode, start or period has changed acts on it at the apply instant (R186). -/
def ppsApply (k : Nat) (s : State) : State :=
  let x := ppsSt s k
  let t := s.now.toNat
  match ppsMode s k with
  | 1 =>
    if ppsStart s k < t then bump (ppsSkip k) (setPps k { x with armed := false, missed := true } s)
    else setPps k { x with armed := true, next := BitVec.ofNat 64 (ppsStart s k) } s
  | 2 =>
    let n := if t ≤ ppsStart s k then ppsStart s k else edgeAfter (ppsStart s k) (ppsPeriod s k) t
    setPps k { x with armed := true, next := BitVec.ofNat 64 n } s
  | _ => setPps k { x with armed := false } s

/-- A pulse output after local time has stepped from the instant `old` (R187). Edges are never closer than one period:
the earliest next edge lies one period after the last one emitted. -/
def ppsStep (old : Nat) (s : State) (k : Nat) : State :=
  let x := ppsSt s k
  let t := s.now.toNat
  if !x.armed then s
  else match ppsMode s k with
  | 1 => if x.next.toNat < t then setPps k { x with armed := false, missed := true } s else s
  | 2 =>
    let p := ppsPeriod s k
    let passed := if old < t ∧ x.next.toNat ≤ t then (t - x.next.toNat) / p + 1 else 0
    let free := match x.lastEdge with
      | some u => t + (u + p - s.up)
      | none => 0
    let n := max (edgeAfter (ppsStart s k) p t) (edgeFrom (ppsStart s k) p free)
    bumpBy (ppsSkip k) passed (setPps k { x with next := BitVec.ofNat 64 n } s)
  | _ => s

/-- The timer interrupt of each hart follows mtime against its mtimecmp (R412). -/
def mtimeCheck (s : State) : State :=
  s.cpu.mtimecmp.foldl (fun s x => { s with cpu.timerIrq := putBit s.cpu.timerIrq x.1 (decide (x.2.toNat ≤ s.now.toNat)) }) s

/-- The servo steps local time by removing an offset: counted, gate lists and pulses find their place again (R157, R163,
R177, R187). -/
def stepTime (offset : Int) (s : State) : State :=
  let old := s.now.toNat
  let s := setNow (s.now - BitVec.ofInt 64 offset) (bump 0x4004C s)
  mtimeCheck <| (List.range 4).foldl (ppsStep old) (relocate { s with tim.hist := [], tim.offA := [], tim.offB := [], tim.recent := [] })

/-- The rate departs from its settled value to remove the offset x: by a free value of at most the slew limit, within ±10 ppm (R162, R180,
log 24). The slew is done when x is removed. -/
def slewRate (x : Int) (s : State) : State :=
  let (n, s) := nextFree s
  let d : Int := ((1 + Config.value n % max (1000 * cfg s 0x260D 0) 1 : Nat) : Int)
  let f := max (-10000000) (min 10000000 (s.tim.settled + (if x < 0 then d else -d)))
  { s with tim.freq := f, tim.slewOff := x, tim.slewFrom := s.up,
           tim.slewEnd := s.up + x.natAbs * 1000000000000 / max (f - s.tim.settled).natAbs 1 }

/-- A slew of an offset starts from the settled rate (R180). -/
def startSlew (offset : Int) (s : State) : State :=
  if offset = 0 then { s with tim.slewing := false }
  else slewRate offset { s with tim.slewing := true, tim.settled := if s.tim.slewing then s.tim.settled else s.tim.freq }

/-- The offset the servo predicts: the set point 0, or what a slew has still to remove (R176, R180). -/
def predicted (s : State) : Int :=
  if s.tim.slewing && s.up < s.tim.slewEnd then
    s.tim.slewOff * ((s.tim.slewEnd - s.up : Nat) : Int) / ((s.tim.slewEnd - s.tim.slewFrom : Nat) : Int)
  else 0

/-- The clock starts to run free: the rate is held, the estimate starts from the last 16 offsets (R178, R181). From HOLDOVER to STEP-SUSPECT and back
the time since entry goes on. -/
def freeRun (s : State) : State :=
  let s := { s with tim.slewing := false, tim.holdSyncs := 0 }
  if s.tim.servo = .holdover || s.tim.servo = .stepSuspect then s
  else
    let e := 32 + (mean s.tim.recent).natAbs
    { s with tim.holdAt := s.up, tim.e0 := e, tim.holdErr := e }

/-- The free-running clock is followed again, or left: no estimate (Table 6.9). -/
def endFreeRun (s : State) : State := { s with tim.holdErr := 0, tim.holdLimit := false, tim.suspectAt := none, tim.holdSyncs := 0 }

/-- HOLDOVER is entered (Table 6.4). -/
def enterHoldover (s : State) : State :=
  if s.tim.servo = .locked || s.tim.servo = .stepSuspect then
    setServo .holdover { bump 0x40054 (freeRun s) with tim.suspectAt := none }
  else s

/-- STEP-SUSPECT is entered, its 2 rl timer started (Table 6.4). From LOCKED, the clock runs free only from now: no offset taken so far
counts for the re-qualification (R179). -/
def enterSuspect (s : State) : State :=
  let hist := if s.tim.servo = .locked then [] else s.tim.hist
  let s := { bump 0x40044 (freeRun s) with tim.suspectAt := some s.up, tim.hist := hist }
  setServo .stepSuspect s

/-- LOCKED is entered with a slew of an offset (Table 6.4). -/
def lockSlewing (offset : Int) (s : State) : State := setServo .locked (startSlew offset (endFreeRun s))

/-- FREE is entered: the last rate is held (Table 6.4). -/
def enterFree (s : State) : State := setServo .free { endFreeRun s with tim.slewing := false }

/-! ### The time path (R174, R175) -/

/-- The Sync interval of the backbone in ticks. -/
def syncTicks (s : State) : Nat := cfg s 0x2607 0 * fr

/-- The active time line, where there is one. -/
def activeLine (s : State) : Option Line :=
  match s.tim.line with
  | 0 => some .a
  | 1 => some .b
  | _ => none

/-- The time path moves to a line (R174, R179). -/
def switchTimeLine (l : Line) (s : State) : State :=
  let s := { s with tim.line := lineIx l, tim.hist := [] }
  fire 11 3 [BitVec.ofNat 8 (lineIx l)] (bump 0x40040 s)

/-- The offsets of a line that delivers no Sync no longer count for LINE_DIFF (R175). -/
def forgetLine (l : Line) (s : State) : State :=
  match l with
  | .a => { s with tim.offA := [], tim.diffHigh := 0, tim.diffLow := 0 }
  | .b => { s with tim.offB := [], tim.diffHigh := 0, tim.diffLow := 0 }

/-- A line has failed as a time line: when it is the active one, the path moves to the other (R174, Table 6.8). -/
def timeLineFailed (l : Line) (s : State) : State :=
  let s := forgetLine l s
  if activeLine s = some l && !s.tim.isGm && lineDelivers s (other l) then switchTimeLine (other l) s else s

/-- A backbone port has left UP or lost PDELAY_VALID: its line fails where Sync came through it (R174). -/
def syncPortLost (p : Nat) (s : State) : State :=
  if p < 4 && (ptpSt s p).lastSync.isSome then
    timeLineFailed (lineOf p) (setPtp p { ptpSt s p with lastSync := none } s)
  else s

/-! ### The grandmaster (R167, R182) -/

/-- The data set of this node as grandmaster: priority1 255 in EXIT (R167, R182). Accuracy and variance are those of a clock
whose accuracy is unknown. -/
def ownGm (s : State) : GmData :=
  { priority1 := if s.node = .exit then 255 else cfg s 0x2603 1, priority2 := cfg s 0x2603 2, id := clockId s.uid, sender := clockId s.uid }

/-- The default data-set comparison of IEEE 1588-2019: a is better than b. Two data sets of one grandmaster are compared by topology: the
fewer steps, then the lower sender. -/
def betterGm (a b : GmData) : Bool :=
  let key (d : GmData) : List Nat :=
    if a.id = b.id then [d.steps, d.sender.toNat] else [d.priority1, d.clockClass, d.accuracy, d.variance, d.priority2, d.id.toNat]
  match ((key a).zip (key b)).find? (fun x => x.1 != x.2) with
  | some (x, y) => decide (x < y)
  | none => false

/-- The data set in force changes; a different grandmaster counts (Table 6.9). -/
def takeGm (d : GmData) (s : State) : State :=
  let s := if s.tim.gm.id ≠ 0 && s.tim.gm.id ≠ d.id then bump 0x40050 s else s
  { s with tim.gm := d, tim.haveGm := true }

/-- The BMCA selects this node (Table 6.4): time and rate are kept. -/
def becomeGm (s : State) : State :=
  let s := takeGm (ownGm s) s
  enterFree { s with tim.isGm := true, tim.viaRef := false, tim.line := 3, tim.hist := [] }

/-- The BMCA selects another clock (Tables 6.4, 6.8): LOCKED goes to HOLDOVER; STEP-SUSPECT stays, its 2 rl start again
with the new grandmaster's first Sync. The active time line stays what it is, since it changes only when it fails (R174); the reference
port uses none. -/
def followGm (d : GmData) (ref : Bool) (s : State) : State :=
  let line := if ref || s.tim.viaRef || s.tim.isGm then 3 else s.tim.line
  let s := match s.tim.servo with
    | .locked => enterHoldover s
    | .stepSuspect => { s with tim.suspectAt := none }
    | _ => s
  { takeGm d s with tim.isGm := false, tim.viaRef := ref, tim.line := line, tim.hist := [], tim.offA := [], tim.offB := [],
                    tim.holdSyncs := 0 }

/-- What a grandmaster's data set is compared with (R167): this node's own, the current grandmaster's, or nothing. -/
def rivalGm (s : State) : Option GmData :=
  if s.tim.isGm then some (ownGm s) else if s.tim.haveGm then some s.tim.gm
  else if cfgOn s 0x2602 0 then some (ownGm s) else none

/-- The BMCA with a candidate's data set (R167). A data set of the grandmaster in force is taken from the clock that has offered it, or from
one that is nearer to it. -/
def bmca (d : GmData) (ref : Bool) (s : State) : State :=
  if s.tim.haveGm && !s.tim.isGm && s.tim.gm.id = d.id then
    if d.sender ≠ s.tim.gm.sender && !betterGm d s.tim.gm then s
    else if cfgOn s 0x2602 0 && betterGm (ownGm s) d then becomeGm s
    else if s.tim.viaRef = ref then { s with tim.gm := d }
    else { s with tim.gm := d, tim.viaRef := ref, tim.line := 3, tim.hist := [], tim.offA := [], tim.offB := [] }
  else
    match rivalGm s with
    | some r => if betterGm d r then followGm d ref s else s
    | none => followGm d ref s

/-- The grandmaster is no longer a member, or is lost: HOLDOVER, and the BMCA runs anew (R102, Table 6.8). -/
def loseGm (s : State) : State := enterHoldover { s with tim.haveGm := false, tim.viaRef := false }

/-- The grandmaster-capable setting has changed at an apply instant (R167): a node that is slave-only is grandmaster no longer, and no
clock is known until an Announce comes. -/
def gmCapableApply (s : State) : State :=
  if s.tim.isGm && !cfgOn s 0x2602 0 then { s with tim.isGm := false, tim.haveGm := false } else s

/-- The reference setting has changed at an apply instant, where the grandmaster was reached through port `port` (R168). -/
def refApply (port : Nat) (s : State) : State := if s.tim.viaRef && !isRefPort s port then loseGm s else s

/-- The nearest whole log2 of an interval of n frames in seconds (R169). -/
def logInterval (n : Nat) : Int :=
  let t := n * fr
  match (List.range 20).find? (fun k => t * t * 2 ^ 19 < 2 ^ (2 * k) * 10 ^ 18) with
  | some k => (k : Int) - 10
  | none => 9

/-- The data set this node offers as a master: its own as grandmaster or where none is known, else its parent's, one step further away
(R167, R168). A node in EXIT offers priority1 255 (R182). -/
def offeredGm (s : State) : GmData :=
  if s.tim.isGm || !s.tim.haveGm then ownGm s
  else { s.tim.gm with steps := s.tim.gm.steps + 1, sender := clockId s.uid,
                       priority1 := if s.tim.viaRef && s.node = .exit then 255 else s.tim.gm.priority1 }

/-- Announce goes out on every port on which the node is a master: every UP backbone port for the backbone's grandmaster, and
the PTP consist ports (R167, R168). Where no grandmaster is known, the node's own clock is what the consist is offered. -/
def announceAll (s : State) : State :=
  let log := logInterval (cfg s 0x2608 0)
  let d := offeredGm s
  (List.range 17).foldl (fun s p =>
    let master := if p < 4 then s.tim.isGm || s.tim.viaRef
      else decide (ptpProfile s p ≠ 0) && !isRefPort s p
    if master && portUp s p then ptpSend p (.announce d log) s else s) s

/-- A node that leaves announces priority1 255 (R182): as grandmaster, or for the clock at its reference port. -/
def announceLeave (s : State) : State :=
  if s.tim.isGm then announceAll { s with tim.gm := ownGm s } else if s.tim.viaRef then announceAll s else s

/-- SERVO_EN was cleared at an apply instant (Table 6.4). -/
def servoApply (s : State) : State := if cfgOn s 0x260F 0 || s.tim.isGm then s else enterFree { s with tim.line := 3, tim.hist := [] }

end Sys2Proof.Machine
end

