-- ==== Sys2Proof/Machine/NodeState.lean ====
section
/-!
DEFINITION. Machine/NodeState.lean: changing the node state (Table 13.1, R104, R342, R344, R417, R454).
-/
namespace Sys2Proof.Machine

/-- The states Table 13.1 moves between. -/
def sleepState : NodeState → Bool
  | .member => true
  | .dusk => true
  | .asleep => true
  | .dawn => true
  | .joining => true
  | _ => false

/-- The node state changes; a change that Table 13.1 lists raises bit 12 (R342). -/
def setNode (n : NodeState) (s : State) : State :=
  let old := s.node
  if old = n then s
  else
    let s := { s with node := n }
    if sleepState old && sleepState n || (old = .dusk || old = .asleep) && n = .fault then raiseIrq 12 s else s

/-- A wake event (R342, R351, R358): latched in DUSK, and counted; while the dusk take is PREPARED it is kept, to be latched if
the dusk stands. The first event latched is the one that counts as the cause (log 48). -/
def noteWake (cause src : Nat) (s : State) : State :=
  if s.node = .dusk then bump 0x4054 { s with wak.latched := s.wak.latched.or (some (cause, src)) }
  else if s.node = .member && s.tak.sys.kind = 3 && s.tak.sys.state = .prepared then
    { s with wak.pendWake := s.wak.pendWake.or (some (cause, src)) }
  else s

/-- The fused version counter is raised to the running image's version once it has run to MEMBER; under the sag
condition this waits (R417, R436). -/
def raiseFuse (s : State) : State :=
  if s.cpu.fusePending && !s.pwr.sag then
    { s with cpu.fusedVersion := max s.cpu.fusedVersion s.cpu.runVersion, cpu.fusePending := false }
  else s

/-- The functions enabled before dusk come up (Table 13.1). -/
def duskRestore (s : State) : State :=
  let l := (if s.wak.duskSpl then [(key 0x2701 0, Val.num 1)] else []) ++ (if s.wak.duskPdb then [(key 0x2801 0, Val.num 1)] else [])
  if l.isEmpty then s
  else
    let s := applyVals l s
    { s with wak.duskSpl := false, wak.duskPdb := false, spl.drained := s.spl.drained && !cfgOn s 0x2701 0,
             pdb.drained := s.pdb.drained && !cfgOn s 0x2801 0 }

/-- The node becomes MEMBER (R344, R417, R454). -/
def becomeMember (s : State) : State :=
  if s.node = .member then s
  else
    let boot := (s.up - s.hpl.t0) / fr
    let s := setNode .member s
    let s := { s with wak.memberAt := s.up, cpu.fusePending := decide (s.cpu.fusedVersion < s.cpu.runVersion) }
    let s := duskRestore (raiseFuse s)
    if s.hpl.memberSeen then s
    else { s with hpl.memberSeen := true,
                  hpl.bootTime := if s.up ≤ s.hpl.t0 + 16 * rl then word boot else s.hpl.bootTime }

end Sys2Proof.Machine
end

