-- ==== Sys2Proof/Machine/Link.lean ====
section
/-!
DEFINITION. Machine/Link.lean: links, line states, bypass relays, insertion and release (chapter 2).
-/
namespace Sys2Proof.Machine

/-! ### Line states (R71) -/

/-- A line's state is taken again: a change raises bit 22 and fires LINE_STATE; `p` is the port whose change caused it,
0xFF for none (R71, log 32). -/
def evalLine (p : Nat) (s : State) (l : Line) : State :=
  let x := lineSt s l
  let c := lineCode s l
  if c = x.code then s
  else fire 6 4 [BitVec.ofNat 8 (lineIx l), BitVec.ofNat 8 x.code, BitVec.ofNat 8 c, BitVec.ofNat 8 p]
    (raiseIrq 22 (setLine l { x with code := c } s))

def evalLines (p : Nat) (s : State) : State := evalLine p (evalLine p s .a) .b

/-- A domain fault of a line's own path is reported: bit 16, DOMAIN_FAULT naming the line (R53). The domain byte is not
stated: a free value. -/
def reportLine (l : Line) (s : State) : State :=
  let (n, s) := nextFree s
  fire 2 5 [Config.code n, BitVec.ofNat 8 (lineIx l)] (raiseIrq 16 s)

/-! ### Port states (R43 to R50) -/

/-- The state of a port has changed: bit 0 (Table 19.5, log 33). -/
def portChanged (p : Nat) (s : State) : State := raiseIrq 0 { s with irq.linkPorts := putBit s.irq.linkPorts p true }

/-- A port takes a state. -/
def setPortState (p : Nat) (st : PortState) (s : State) : State :=
  if (linkSt s p).st = st then s else portChanged p (setLink p { linkSt s p with st := st } s)

/-- Training starts with auto-negotiation (R43). -/
def startTraining (p : Nat) (s : State) : State :=
  setPortState p .training
    (setLink p { linkSt s p with trainFrom := s.up, attemptBy := some (s.up + cfg s 0x2204 0 * fr), reacqBy := none, clause28 := false } s)

/-- The eight exchanges at UP start afresh (R170). -/
def ptpRestart (p : Nat) (s : State) : State :=
  setPtp p { ptpSt s p with valid := false, agreed := 0, recent := [], done := 0, lost := 0, waiting := false, nextReq := s.up } s

/-- The ports of a backbone line that an insertion waits for: those whose end is mated (R105). -/
def waitedPorts (s : State) (l : Line) : List Nat := (portsOf l).filter (fun p => endMated s (endOf p))

/-- Every port waited for is UP. -/
def lineIn (s : State) (l : Line) : Bool := (lineSt s l).energised && (waitedPorts s l).all (portUp s)

/-- A port leaves UP with a DOWN_CAUSE (R50, R72, R128, R170, Table 4.6): the state that follows is the caller's. -/
def leaveUp (p cause : Nat) (s : State) : State :=
  let k := linkSt s p
  let s := setLink p { k with st := .training, cause := cause, marginLow := false, lowFrom := none, attemptBy := none, reacqBy := none,
                              classifyAt := if p < 4 then some (s.up + 4 * fr) else none } s
  let s := portChanged p (macDown p s)
  let s := syncPortLost p (setPtp p { ptpSt s p with valid := false, agreed := 0, recent := [], waiting := false } s)
  if 4 ≤ p then (if p = 16 then { s with wak.idleFrom := s.up } else s)
  else
    let s := setMs p { msSt s p with rxSa := false, txSa := false, mkaAt := none, rekeying := false, exhausted := false } { s with tim.heldGm := tdel s.tim.heldGm p }
    let s := if s.node = .joining && !(List.range 4).any (portUp s) && s.ina.joinWaitBy.isNone then
        { s with ina.joinWaitBy := some (s.up + cfg s 0x240C 0 * fr) } else s
    inaPortDown p (evalLines p s)

/-- A port goes DOWN with a cause (Table 2.5). -/
def portDisable (p cause : Nat) (s : State) : State :=
  if (linkSt s p).st = .down then s
  else
    let s := if portUp s p then leaveUp p cause s else s
    setPortState p .down (setLink p { linkSt s p with cause := cause, attemptBy := none, reacqBy := none } s)

/-- The loop check of a line starts while its plane is on and its relay released (R53). -/
def startLoopCheck (l : Line) (s : State) : State :=
  if planeComplete s l && !(lineSt s l).energised then setLine l { lineSt s l with checking := true } s else s

/-- The port is enabled. -/
def portEnabled (s : State) (p : Nat) : Bool := cfgOn s 0x10011 (p + 1)

/-- A DOWN port comes up where it is enabled and its PHY domain is on (Table 2.5); a consist port not while the consist network
sleeps (R356). -/
def portEnable (p : Nat) (s : State) : State :=
  if (linkSt s p).st ≠ .down || !portEnabled s p || !domOn s (phyDom p) || (4 ≤ p && !s.wak.consistAwake) then s
  else if 4 ≤ p || (lineSt s (lineOf p)).energised then startTraining p s
  else startLoopCheck (lineOf p) (setPortState p .bypassed s)

/-- The enables of a port have changed at an apply instant. -/
def portEnableApply (p : Nat) (s : State) : State := if portEnabled s p then portEnable p s else portDisable p 1 s

/-- An UP port restarts training with a DOWN_CAUSE. -/
def retrain (p cause : Nat) (s : State) : State :=
  if portUp s p then startTraining p (leaveUp p cause s)
  else if (linkSt s p).st = .training then startTraining p s
  else s

/-- The mode and rate that a port runs, or keeps while it re-acquires, are still allowed (R48, R49): the mask has them, and
extended reach runs only while 0x2202 is not 2 (Table 2.4). -/
def runAllowed (s : State) (p : Nat) (mode : Nat) (ext : Bool) : Bool :=
  maskAllows p (modeMask s p) mode ext && !(ext && linkCfg s 0x2202 p = 2)

/-- New link parameters act on a port (R48, R49, Table 2.5). A port in TRAINING runs a mode only while it re-acquires one, or while
it attempts Clause 28 for 100BASE-TX; where that is no longer allowed it starts auto-negotiation. -/
def linkParams (p : Nat) (s : State) : State :=
  let k := linkSt s p
  if k.st = .training then
    (if k.reacqBy.isSome && !runAllowed s p k.mode k.ext || k.clause28 && !maskAllows p (modeMask s p) 5 false then startTraining p s else s)
  else if !portUp s p then s
  else if p < 4 && k.st = .upExt && linkCfg s 0x2202 p = 2 then retrain p 7 s
  else if !maskAllows p (modeMask s p) k.mode (k.st = .upExt) then retrain p 8 s
  else s

/-! ### Relays (R52 to R56, R505, R506) -/

/-- A line may not be inserted by any path: forced bypass, contact fault, plane not on or not yet rejoined (R37, R502,
R505). -/
def insertBarred (s : State) (l : Line) : Bool :=
  (cfg s 0x2308 0).testBit (lineIx l) || (lineSt s l).contactFault || (lineSt s l).coilFault || !planeComplete s l
    || s.pwr.returning.getLsbD (lineIx l) || (cfg s 0x2105 0).testBit (lineIx l)

/-- A line may be energised: not barred, and its loop check has passed (R53). -/
def mayInsert (s : State) (l : Line) : Bool := !insertBarred s l && (lineSt s l).loopOk

/-- The other line has switched within the last 8 fr (R54). -/
def switchedLately (s : State) (l : Line) : Bool :=
  match (lineSt s l).lastSwitch with
  | some t => decide (s.up < t + 8 * fr)
  | none => false

/-- The ports of a line follow its relay (Table 2.5). -/
def relayPort (on : Bool) (s : State) (p : Nat) : State :=
  if on then (if (linkSt s p).st = .bypassed then startTraining p s else s)
  else if (linkSt s p).st = .down then s
  else
    let s := if portUp s p then leaveUp p 6 s else s
    setPortState p .bypassed (setLink p { linkSt s p with attemptBy := none, reacqBy := none } s)

/-- A line's relay switches (R54): counted; the line inserted second is remembered (R56). -/
def relaySwitch (l : Line) (on : Bool) (s : State) : State :=
  if (lineSt s l).energised = on then s
  else
    let x := lineSt s l
    let x := if on then { x with energised := true, lastSwitch := some s.up, checking := false, sound := false }
      else { x with energised := false, lastSwitch := some s.up, insertBy := none, single := false, sound := false }
    let s := bump 0xB003C (setLine l x (if on then setLine (other l) { lineSt s (other l) with sound := false } s else s))
    let s := if on then { s with bb.relDone := false, bb.second := if lineEnergised s (other l) then some l else none }
      else { s with bb.second := none }
    recordChanged (evalLines 0xFF ((portsOf l).foldl (relayPort on) s))

/-- The relay stagger in ticks for releasing line l first (R56). -/
def staggerTicks (s : State) (l : Line) : Nat :=
  match portsOf l with
  | [p, q] =>
    let a := linkSt s p
    let b := linkSt s q
    let limit := cfg s 0x230A (if a.st = .upExt then 2 else 1)
    if portUp s p && portUp s q && a.native && b.native && a.mode = b.mode && a.st = b.st && (ptpSt s p).valid && (ptpSt s q).valid
        && decide ((ptpSt s p).delay + (ptpSt s q).delay ≤ limit) then cfg s 0x2304 0 * fr else cfg s 0x2305 0 * fr
  | _ => cfg s 0x2305 0 * fr

/-- The insertion that runs on a line has its ports UP within its timeout: it goes on (R55, R506). -/
def insertProgress (s : State) : State :=
  match s.bb.seq with
  | .insertFirst l =>
    if lineIn s l && (lineSt s l).insertBy.isSome then
      let s := setLine l { lineSt s l with insertBy := none } s
      let from_ := (lineSt s l).lastSwitch.getD s.up
      { s with bb.seq := if insertBarred s (other l) then .none else .insertNext (other l) (from_ + cfg s 0x2305 0 * fr) }
    else s
  | .insertSecond l =>
    if lineIn s l && (lineSt s l).insertBy.isSome then { setLine l { lineSt s l with insertBy := none } s with bb.seq := .none } else s
  | _ => s

/-- A single-line insertion has its ports UP within its timeout. -/
def singleProgress (s : State) (l : Line) : State :=
  let x := lineSt s l
  if x.single && lineIn s l && x.insertBy.isSome then setLine l { x with single := false, insertBy := none } s else s

def progress (s : State) : State := singleProgress (singleProgress (insertProgress s) .a) .b

/-- An insertion of a line is asked for, to start when the sequence that runs has ended. -/
def waitInsert (l : Line) (s : State) : State := setLine l { lineSt s l with waiting := true } s

/-- The relay sequence no longer inserts line l; where it was the first of R55, the other line's insertion is still to come. -/
def dropSeq (l : Line) (s : State) : State :=
  match s.bb.seq with
  | .insertFirst m => if m = l then waitInsert (other l) { s with bb.seq := .none } else s
  | .insertNext m _ => if m = l then { s with bb.seq := .none } else s
  | .insertSecond m => if m = l then { s with bb.seq := .none } else s
  | .insertJoin m _ => if m = l then { s with bb.seq := .none } else s
  | _ => s

/-- Nothing waits to insert a line any more. -/
def dropInsertion (l : Line) (s : State) : State :=
  let s := setLine l { lineSt s l with single := false, insertBy := none, waiting := false } s
  dropSeq l { s with bb.deferred := s.bb.deferred.filter (fun d => d.line ≠ l) }

/-- A line is energised in its insertion; the insertion timeout starts (R55, R506). A line that may not be energised any more is left
out. -/
def doEnergise (l : Line) (s : State) : State :=
  if !mayInsert s l then dropInsertion l s
  else
    let s := relaySwitch l true s
    progress (setLine l { lineSt s l with insertBy := some (s.up + cfg s 0x2205 0 * fr) } s)

/-- The other line has been released in a controlled way: an energised line is marked where it is not BROKEN (Table 2.17, first row). -/
def leftAlone (l : Line) (s : State) : State :=
  setLine l { lineSt s l with sound := (lineSt s l).energised && decide ((lineSt s l).code ≠ 1) } s

/-- A line is released in its sequence (R56). With `both`, the other line follows after the stagger. -/
def doRelease (l : Line) (both : Bool) (s : State) : State :=
  let t := staggerTicks s l
  let s := leftAlone (other l) (relaySwitch l false s)
  if both && lineEnergised s (other l) then { s with bb.seq := .releaseNext (other l) (s.up + t) false (lineSt s (other l)).sound }
  else if !s.bb.a.energised && !s.bb.b.energised then { s with bb.seq := .relDone (s.up + 7 * fr) }
  else { s with bb.seq := match s.bb.seq with
    | .insertSecond m => if m = l then .none else .insertSecond m
    | _ => .none }

/-- Line l has a contact fault, which is reported. -/
def noteContact (l : Line) (s : State) : State :=
  reportLine l (setLine l { lineSt s l with contactFault := true, insertBy := none, single := false } s)

/-- The insertion of R55, at its stage `seq`, goes on without line l. -/
def insertWithout (seq : RelaySeq) (l : Line) (s : State) : State :=
  match seq with
  | .insertFirst m =>
    if m = l then { s with bb.seq := if insertBarred s (other l) then .none else .insertNext (other l) (s.up + cfg s 0x2305 0 * fr) }
    else s
  | .insertSecond m => if m = l then { s with bb.seq := .none } else s
  | _ => s

/-- A line whose ports have not come UP in its insertion is released, marked and reported; the insertion of R55 goes on with the other
line (R55, R506). -/
def insertFailed (l : Line) (s : State) : State := insertWithout s.bb.seq l (noteContact l (relaySwitch l false s))

/-- A switch is made. -/
def makeSwitch (l : Line) (why : SwitchWhy) (s : State) : State :=
  match why with
  | .insert => doEnergise l s
  | .single => doEnergise l s
  | .release both => doRelease l both s
  | .failed => insertFailed l s

/-- A controlled switch of line l may be made as far as line states go: the other line is neither BROKEN nor LOST (R58); with `own`
line l itself is not BROKEN, as Table 2.17 has it for the second line of a release (log 148). -/
def switchReady (s : State) (l : Line) (own : Bool) : Bool := linePasses s (other l) && (!own || (lineSt s l).code ≠ 1)

/-- A switch is deferred, for at most the relay defer limit (R58). -/
def deferSwitch (l : Line) (why : SwitchWhy) (own : Bool) (s : State) : State :=
  { s with bb.deferred := s.bb.deferred.filter (fun d => d.line ≠ l)
      ++ [{ line := l, why := why, own := own, by_ := s.up + cfg s 0x2309 0 * rl }] }

/-- A controlled switch: made when the lines allow it (R58, Table 2.17) and the other line has not switched within 8 fr (R54),
otherwise deferred. -/
def controlled (l : Line) (why : SwitchWhy) (own : Bool) (s : State) : State :=
  if switchReady s l own && !switchedLately s (other l) then makeSwitch l why s else deferSwitch l why own s

/-- The first line of an insertion is energised: the whole of R55. -/
def insertFrom (first : Line) (s : State) : State :=
  if mayInsert s first then controlled first .insert false { s with bb.seq := .insertFirst first }
  else if mayInsert s (other first) then controlled (other first) .insert false { s with bb.seq := .insertSecond (other first) }
  else s

/-- No relay sequence runs and no switch is deferred: an insertion may start. -/
def seqIdle (s : State) : Bool := s.bb.seq = .none && s.bb.deferred.isEmpty

/-- The join wait of a node in JOINING that has no port UP (R104). -/
def startJoinWait (s : State) : State :=
  if s.node = .joining && !(List.range 4).any (portUp s) && s.ina.joinWaitBy.isNone then
    { s with ina.joinWaitBy := some (s.up + cfg s 0x240C 0 * fr) }
  else s

/-- A line that may be inserted waits for the sequence that runs. -/
def waitIfMay (l : Line) (s : State) : State := if mayInsert s l then waitInsert l s else s

/-- The insertion of R55 starts while neither line is energised; a node in DAWN goes to JOINING (R104). While a relay sequence runs, it
waits for its end. -/
def startInsertion (s : State) : State :=
  if s.bb.a.energised || s.bb.b.energised then s
  else if s.node ≠ .dawn && s.node ≠ .joining && s.node ≠ .member then s
  else if !seqIdle s then startJoinWait (waitIfMay .b (waitIfMay .a s))
  else if !(mayInsert s .a || mayInsert s .b) then startJoinWait s
  else
    let s := if s.node = .dawn then setNode .joining s else s
    insertFrom (if cfg s 0x2306 0 = 1 then .b else .a) (startJoinWait s)

/-- The single-line insertion of a line (R506), or the whole of R55 while neither line is energised; after the sequence that runs. -/
def insertLine (l : Line) (s : State) : State :=
  if insertBarred s l || lineEnergised s l then s
  else if s.node ≠ .dawn && s.node ≠ .joining && s.node ≠ .member then s
  else if !seqIdle s then waitInsert l s
  else if !lineEnergised s (other l) then
    (if !(lineSt s l).loopOk then startLoopCheck l s
     else if (lineSt s (other l)).checking then s
     else startInsertion s)
  else
    let s := setLine l { lineSt s l with single := true } s
    if (lineSt s l).loopOk then s else startLoopCheck l s

/-- The relay sequence has ended: the insertions that waited for it start (R502, R505). -/
def resumeInsert (s : State) : State :=
  if seqIdle s && (s.bb.a.waiting || s.bb.b.waiting) then
    let a := s.bb.a.waiting
    let b := s.bb.b.waiting
    let s := setLine .b { s.bb.b with waiting := false } (setLine .a { s.bb.a with waiting := false } s)
    let s := if a then insertLine .a s else s
    if b then insertLine .b s else s
  else s

/-- Every insertion stops; a release that runs goes on. -/
def stopInsertion (s : State) : State :=
  let s := setLine .a { s.bb.a with single := false, insertBy := none, waiting := false } s
  let s := setLine .b { s.bb.b with single := false, insertBy := none, waiting := false } s
  { s with bb.joinRetryAt := none,
           bb.deferred := s.bb.deferred.filter (fun d => match d.why with
             | .release _ => true
             | _ => false),
           bb.seq := match s.bb.seq with
             | .releaseNext l t both own => .releaseNext l t both own
             | .relDone t => .relDone t
             | _ => .none }

/-- Every relay sequence stops. -/
def stopSequence (s : State) : State := { stopInsertion s with bb.seq := .none, bb.deferred := [] }

/-- The line that a release of both starts with: the one inserted second, or the one that is energised (R56). -/
def firstOut (s : State) : Option Line :=
  match s.bb.second with
  | some l => if lineEnergised s l then some l else none
  | none => if s.bb.a.energised then some .a else if s.bb.b.energised then some .b else none

/-- A release of line l waits: for its stagger, or deferred. -/
def releasePending (s : State) (l : Line) : Bool :=
  (match s.bb.seq with
   | .releaseNext m _ _ _ => decide (m = l)
   | _ => false)
  || s.bb.deferred.any (fun d => d.line = l && (match d.why with
    | .release _ => true
    | _ => false))

/-- A release of line l that waits is dropped. -/
def dropRelease (l : Line) (s : State) : State :=
  let s := { s with bb.deferred := s.bb.deferred.filter (fun d => !(d.line = l && (match d.why with
    | .release _ => true
    | _ => false))) }
  match s.bb.seq with
  | .releaseNext m _ _ _ => if m = l then { s with bb.seq := .none } else s
  | _ => s

/-- Line l is released next, no closer than a stagger to a switch of the other line. -/
def releaseFirst (l : Line) (both : Bool) (s : State) : State :=
  if switchedLately s (other l) then
    { s with bb.seq := .releaseNext l (((lineSt s (other l)).lastSwitch.getD s.up) + staggerTicks s (other l)) both (lineSt s l).sound }
  else controlled l (.release both) (lineSt s l).sound s

/-- When REL_DONE follows a line released last: 7 fr after that switch, at once where it is longer ago (R56, Tables 18.4, 18.5). -/
def relDoneAt (s : State) : Nat :=
  [s.bb.a.lastSwitch, s.bb.b.lastSwitch].foldl (fun t x => match x with
    | some u => max t (u + 7 * fr)
    | none => t) s.up

/-- The release sequence of R56 starts from the relay state as it is (R77). -/
def startRelease (s : State) : State :=
  let seq := s.bb.seq
  let s := stopSequence s
  match firstOut s with
  | none => { s with bb.seq := match seq with
    | .relDone t => .relDone t
    | _ => .relDone (relDoneAt s) }
  | some l => releaseFirst l true s

/-- One line is released through the sequence of R56 (R439, R502). An insertion of the other line that has not switched yet waits for
the end of the release. -/
def releaseLine (l : Line) (s : State) : State :=
  if !lineEnergised s l || releasePending s l then s
  else if releasePending s (other l) then startRelease s
  else
    let s := dropInsertion l s
    let s := match s.bb.seq with
      | .insertNext m _ => waitInsert m { s with bb.seq := .none }
      | .insertJoin m _ => waitInsert m { s with bb.seq := .none }
      | _ => s
    releaseFirst l false s

/-- A forced release (R18, R33): at once; within 8 fr of a switch of the other line it counts (R54). -/
def releaseNow (l : Line) (s : State) : State :=
  if !lineEnergised s l then dropInsertion l s
  else
    let s := if switchedLately s (other l) then bump 0xB0040 s else s
    dropInsertion l (relaySwitch l false s)

/-- Both relays are released at once (R18, R59). -/
def releaseBoth (s : State) : State := releaseNow .b (releaseNow .a (stopSequence s))

/-- The forced bypass of a line has ended: a release of it that waits is dropped, where nothing else asks for it. -/
def unforce (l : Line) (s : State) : State :=
  if s.pwr.outPending.getLsbD (lineIx l) || s.node = .exit || s.node = .dusk || s.node = .fault then s else dropRelease l s

/-- A line whose forced bypass stands is released where it still is energised. -/
def forceOut (l : Line) (s : State) : State := if (cfg s 0x2308 0).testBit (lineIx l) then releaseLine l s else s

/-- FORCE_BYPASS has changed at an apply instant, from an old value (R502). -/
def forceBypassApply (old : Nat) (s : State) : State :=
  let now := cfg s 0x2308 0
  let set_ (l : Line) := now.testBit (lineIx l) && !old.testBit (lineIx l)
  let clr (l : Line) := old.testBit (lineIx l) && !now.testBit (lineIx l)
  let s := if clr .a then unforce .a s else s
  let s := if clr .b then unforce .b s else s
  let s := if (set_ .a || set_ .b) && now.testBit 0 && now.testBit 1 && s.bb.a.energised && s.bb.b.energised then startRelease s
    else forceOut .b (forceOut .a s)
  let s := if clr .a then insertLine .a s else s
  if clr .b then insertLine .b s else s

/-- Link parameters have changed at an apply instant, from the values before it (R60): line A at once; where both lines
change, line B later. Values that line B still keeps stay as they are, but for those that a change of line B alone replaces. -/
def linkParamsApply (old : Nat → Nat → Nat) (s : State) : State :=
  let idx := [0x2201, 0x2202]
  let changed (p : Nat) := idx.any (fun i => old i p ≠ cfg s i (p + 1))
  let s := [0, 1].foldl (fun s p => linkParams p s) s
  let onB := fun (g : Tab Val → Nat → Nat → Tab Val) => [2, 3].foldl (fun t p => idx.foldl (fun t i => g t i p) t) s.bb.bOld
  if (changed 0 || changed 1) && (changed 2 || changed 3) then
    let keep := onB (fun t i p => if (tfind t (key i (p + 1))).isSome then t else tset t (key i (p + 1)) (Val.num (old i p)))
    { s with bb.bOld := keep, bb.bApplyAt := some (s.up + cfg s 0x2304 0 * fr) }
  else
    let left := onB (fun t i p => if old i p = cfg s i (p + 1) then t else tdel t (key i (p + 1)))
    [2, 3].foldl (fun s p => linkParams p s) { s with bb.bOld := left }

/-! ### Reaching UP -/

/-- A port reaches UP in a mode (R46, R50, R142, R170). -/
def linkUp (p mode : Nat) (ext native : Bool) (s : State) : State :=
  let k := linkSt s p
  let s := setReg (prt p 0x20) (word ((s.up - k.trainFrom) / pf)) s
  let s := setLink p { k with st := if ext then .upExt else .upStd, mode := mode, ext := ext, native := native, upAt := s.up,
                              attemptBy := none, reacqBy := none, clause28 := false } s
  let s := ptpRestart p (macUp p (portChanged p s))
  if 4 ≤ p then s
  else inaPortUp p (resumeInsert (progress (evalLines p { s with ina.joinWaitBy := none })))

/-! ### Meanings -/

/-- The attempt that a port runs can bring a mode (R43): on a backbone port Clause 28 brings 100BASE-TX and Clause 98 the single-pair
modes. -/
def attemptBrings (k : LinkSt) (p mode : Nat) : Bool := decide (4 ≤ p) || decide (mode = 5) == k.clause28

/-- LINK_TRAINING_DONE (R43, R44, R50): training of port p completes in a mode of Table 2.2 or 4.2. -/
def execLinkTrainingDone (p : Fin 17) (mode : Fin 8) (ext native : Bool) (s : State) : Ans :=
  let k := linkSt s p.val
  let ext' := ext && decide (p.val < 4)
  if k.st ≠ .training || k.reacqBy.isSome || !attemptBrings k p.val mode.val || !maskAllows p.val (modeMask s p.val) mode.val ext'
      || (ext' && (mode.val ≠ 1 || !native || linkCfg s 0x2202 p.val = 2)) then .next s
  else .next (linkUp p.val mode.val ext' (native && decide (p.val < 4)) s)

/-- AN_ATTEMPT_TIMEOUT (R43, R116): the auto-negotiation attempt time passes without a partner; a backbone port that
allows 100BASE-TX goes over to the other clause. -/
def execAnAttemptTimeout (p : Fin 17) (s : State) : Ans :=
  let k := linkSt s p.val
  match k.attemptBy with
  | none => .next s
  | some t =>
    let s := passTo t s
    let s := if p.val < 4 then bump (prt p.val 0x18) s else s
    let alt := decide (p.val < 4) && maskAllows p.val (modeMask s p.val) 5 false
    .next (setLink p.val { linkSt s p.val with clause28 := alt && !k.clause28, attemptBy := some (s.up + cfg s 0x2204 0 * fr) } s)

/-- LINK_LOST (R46, R47): the loss of an UP link; `energy` is the time after which signal energy returned, if it did. -/
def execLinkLost (p : Fin 17) (phyFault : Bool) (energy : Option (BitVec 32)) (s : State) : Ans :=
  if !portUp s p.val then .next s
  else
    let s := bump (prt p.val 0x10) (leaveUp p.val (if phyFault then 4 else 3) s)
    let s := startTraining p.val s
    match energy with
    | some e =>
      if p.val < 4 && e.toNat ≤ 2 * fr then
        .next (setLink p.val { linkSt s p.val with attemptBy := none, reacqBy := some (s.up + e.toNat + 5 * fr) } s)
      else .next s
    | none => .next s

/-- REACQUISITION_DONE (R47): the port is UP again in the mode and rate it had. -/
def execReacquisitionDone (p : Fin 4) (s : State) : Ans :=
  let k := linkSt s p.val
  match k.reacqBy with
  | none => .next s
  | some t =>
    if k.st ≠ .training || t < s.up || !runAllowed s p.val k.mode k.ext then .next s
    else .next (linkUp p.val k.mode k.ext k.native (bump (prt p.val 0x14) s))

/-- REACQUISITION_TIMEOUT (R47): re-acquisition has not completed; full training follows. -/
def execReacquisitionTimeout (p : Fin 4) (s : State) : Ans :=
  let k := linkSt s p.val
  match k.reacqBy with
  | none => .next s
  | some t =>
    let s := passTo t s
    .next (setLink p.val { linkSt s p.val with reacqBy := none, attemptBy := some (s.up + cfg s 0x2204 0 * fr), clause28 := false } s)

/-- EQ_LOOP_SAMPLE (R48): the margin of an UP backbone port, in 0.25 dB, and whether an actuator is at its end stop. -/
def execEqLoopSample (p : Fin 4) (margin : Byte) (saturated : Bool) (s : State) : Ans :=
  let k := linkSt s p.val
  if !portUp s p.val then .next s
  else
    let m := margin.toNat
    let low := decide (m < 6)
    .next (setLink p.val { k with marginNow := m, marginMin := some (min m (k.marginMin.getD m)), saturated := k.saturated || saturated,
                                  lowFrom := if low then k.lowFrom.or (some s.up) else none, marginLow := low && k.marginLow } s)

/-- MARGIN_LOW (R48): the margin has been below 1.50 dB for 1 fr. -/
def execMarginLow (p : Fin 4) (s : State) : Ans :=
  let k := linkSt s p.val
  match k.lowFrom with
  | none => .next s
  | some t =>
    if k.marginLow then .next s
    else
      let s := passTo (t + fr) s
      .next (bump (prt p.val 0x1C) (setLink p.val { linkSt s p.val with marginLow := true } s))

/-- LINK_RESTART (R50): LINK_CTRL.RESTART is written by the host. -/
def doLinkRestart (p : Nat) (s : State) : State := retrain p 8 s

def execLinkRestart (p : Fin 17) (s : State) : Ans := if reaches s .host then .next (doLinkRestart p.val s) else .next s

/-- LOOP_CHECK_DONE (R53): the loop check of a line completes. In DAWN the insertion starts when no check runs (R104);
a line that waits for its check goes on (R439, R506). -/
def execLoopCheckDone (l : Line) (ok : Bool) (s : State) : Ans :=
  let x := lineSt s l
  if !x.checking || x.energised then .next s
  else
    let s := setLine l { x with checking := false, loopOk := ok, single := x.single && ok } s
    let s := if ok then s else reportLine l s
    if s.bb.a.checking || s.bb.b.checking then .next s
    else .next (startInsertion s)

/-- INSERTION_TIMEOUT (R55, R505, R506): a line's ports are not all UP in time. -/
def execInsertionTimeout (l : Line) (s : State) : Ans :=
  match (lineSt s l).insertBy with
  | none => .next s
  | some t =>
    let s := passTo t s
    if lineIn s l then .next (resumeInsert (progress s))
    else .next (resumeInsert (controlled l .failed false (setLine l { lineSt s l with insertBy := none } s)))

/-- The second line of a node in JOINING waits for a Call Sheet that lists the node (R105). -/
def joinHolds (s : State) (l : Line) : Bool := s.node = .joining && lineEnergised s (other l) && !isMemberUid s s.uid

/-- It waits for at most the relay defer limit. -/
def joinHold (l : Line) (s : State) : State := { s with bb.seq := .insertJoin l (s.up + cfg s 0x2309 0 * rl) }

/-- RELAY_STAGGER_EXPIRY (R55, R56, R105): the stagger has passed. The second line of a node in JOINING waits where no Call Sheet that
lists the node is active. -/
def execRelayStaggerExpiry (s : State) : Ans :=
  match s.bb.seq with
  | .insertNext l t =>
    let s := passTo t s
    if joinHolds s l && !insertBarred s l then .next (joinHold l s)
    else if mayInsert s l then .next (resumeInsert (controlled l .insert false { s with bb.seq := .insertSecond l }))
    else .next (resumeInsert { s with bb.seq := .none })
  | .releaseNext l t both own => .next (resumeInsert (controlled l (.release both) own { passTo t s with bb.seq := .none }))
  | _ => .next s

/-- Time passes until a switch of line l is no closer than 8 fr to the last switch of the other line (R54). -/
def spaced (l : Line) (s : State) : State :=
  match (lineSt s (other l)).lastSwitch with
  | some t => passTo (t + 8 * fr) s
  | none => s

/-- SINGLE_LINE_INSERT (R506): the line is energised at the first frame boundary no closer than 8 fr to a switch of the
other line. Where the other line has been released since, the whole of R55 takes its place. A node in JOINING waits for its Call Sheet
first (R105). -/
def execSingleLineInsert (l : Line) (s : State) : Ans :=
  let x := lineSt s l
  if !x.single || x.energised || x.insertBy.isSome || !mayInsert s l || s.bb.deferred.any (fun d => d.line = l) then .next s
  else if !lineEnergised s (other l) then .next (insertLine l (setLine l { x with single := false } s))
  else if joinHolds s l then .next (if s.bb.seq = .none then joinHold l (setLine l { x with single := false } s) else s)
  else .next (controlled l .single false (toFrame (spaced l s)))

/-- A deferred switch is made: no closer than 8 fr to a switch of the other line (R54), a single-line insertion at a frame boundary
(R506). -/
def resumeSwitch (d : Deferred) (s : State) : State :=
  let s := spaced d.line { s with bb.deferred := s.bb.deferred.filter (fun e => e.line ≠ d.line) }
  resumeInsert (makeSwitch d.line d.why (if d.why = .single then toFrame s else s))

/-- RELAY_DEFER_EXPIRY (R58, R105): the relay defer limit has passed; it counts where the lines still do not allow the switch. -/
def execRelayDeferExpiry (s : State) : Ans :=
  match s.bb.deferred with
  | d :: _ =>
    let s := passTo d.by_ s
    .next (resumeSwitch d (if switchReady s d.line d.own then s else bump 0xB0040 s))
  | [] =>
    match s.bb.seq with
    | .insertJoin _ t =>
      let s := passTo t s
      .next { startRelease (bump 0xB0040 s) with bb.joinRetryAt := some (s.up + rl) }
    | _ => .next s

/-- DEFERRED_SWITCH_RESUME (R58): the lines allow a deferred switch again. -/
def execDeferredSwitchResume (s : State) : Ans :=
  match s.bb.deferred.find? (fun d => switchReady s d.line d.own) with
  | none => .next s
  | some d => .next (resumeSwitch d s)

/-- JOIN_RETRY_TIMER (R105): the insertion is tried again. -/
def execJoinRetryTimer (s : State) : Ans :=
  match s.bb.joinRetryAt with
  | none => .next s
  | some t =>
    let s := { passTo t s with bb.joinRetryAt := none }
    .next (startInsertion { s with bb.seq := match s.bb.seq with
      | .relDone _ => .none
      | q => q })

/-- LINK_LOSS_CLASSIFY (R72): 4 fr after a port left UP. An uncoupling is recognised; the third case waits for
UNCOUPLING_WAIT_EXPIRY (R98). -/
def execLinkLossClassify (p : Fin 4) (s : State) : Ans :=
  match (linkSt s p.val).classifyAt with
  | none => .next s
  | some t =>
    let s := passTo t s
    let s := setLink p.val { linkSt s p.val with classifyAt := none } s
    if portUp s p.val then .next s
    else if !endMated s (endOf p.val) then .next (lossRecognised (endOf p.val) s)
    else .next s

/-- CONTACT_FAULT bits are cleared, all of one write before any insertion starts (R505). -/
def clearContacts (ls : List Line) (s : State) : State :=
  let hit := ls.filter (fun l => (lineSt s l).contactFault)
  let s := hit.foldl (fun s l => setLine l { lineSt s l with contactFault := false } s) s
  hit.foldl (fun s l => insertLine l s) s

/-- CONTACT_FAULT_CLEAR (R505): the host clears a line's CONTACT_FAULT bit. -/
def execContactFaultClear (l : Line) (s : State) : Ans := if reaches s .host then .next (clearContacts [l] s) else .next s

/-- MODE_MASK_LINE_B_APPLY (R60): line B takes its new link parameters. -/
def execModeMaskLineBApply (s : State) : Ans :=
  match s.bb.bApplyAt with
  | none => .next s
  | some t =>
    let s := passTo t s
    if (waitedPorts s .a).all (portUp s) then
      .next (linkParams 3 (linkParams 2 { s with bb.bOld := [], bb.bApplyAt := none }))
    else .next s

/-- The end's sense-error timers follow its state (R79). -/
def senseError (e : End) (s : State) : State :=
  let err := endCode s e = 3
  match e with
  | .fore => { s with ina.errFore := if err then s.ina.errFore.or (some s.up) else none }
  | .aft => { s with ina.errAft := if err then s.ina.errAft.or (some s.up) else none }

/-- Training restarts on the ports of an end that are not UP; PRE, unless all are UP (R29, R80). In the other inauguration states the state
stays and pre-inauguration of the end runs beside it (log 187). -/
def endTrain (e : End) (s : State) : State :=
  let s := (portsAt e).foldl (fun s p => if (linkSt s p).st = .training then startTraining p s else s) s
  let s := setPre e (!(portsAt e).any (portUp s)) s
  if (s.ina.st = .stable || s.ina.st = .pre) && !(portsAt e).all (portUp s) then { s with ina.st := .pre } else s

/-- An end enters MATED (R80). In DUSK it is a wake event (Table 13.6). -/
def endMate (e : End) (s : State) : State :=
  endTrain e (noteWake 4 (match e with
    | .fore => 0
    | .aft => 1) s)

/-- An end leaves MATED (R80): where no port of it has reached UP since it entered it, pre-inauguration ends and counts. -/
def endUnmate (e : End) (s : State) : State :=
  if preRuns s e then
    let s := bump 0x48048 (setPre e false s)
    if s.ina.st = .pre && !s.ina.preFore && !s.ina.preAft then { s with ina.st := .stable } else s
  else s

/-- An end follows a sense channel, from the code it had (R72, R79, R80): its error timer, MATED, line states, NEIGHBOUR
messages, an uncoupling. -/
def endFollow (e : End) (old : Nat) (s : State) : State :=
  let s := senseError e s
  let new := endCode s e
  let s := if new = 2 && old ≠ 2 then endMate e s else if old = 2 && new ≠ 2 then endUnmate e s else s
  let s := resumeInsert (progress (evalLines 0xFF s))
  let s := if decide (2 ≤ old) != decide (2 ≤ new) then (portsAt e).foldl (fun s p => neighbourSend p s) s else s
  if 2 ≤ old && new < 2 then lossRecognised e s else s

/-- COUPLER_SENSE_CHANGE (R79, R395): what a channel measures. Its OVERVOLT lasts while its terminal is above 30 V, and it holds its level
as long; else CLOSED shows the level before debounce, and the logical state follows one that has held for its debounce. -/
def execCouplerSenseChange (c : Fin 4) (m : SenseIn) (s : State) : Ans :=
  if !domOn s .d1 then .next s
  else
    let x := csSt s c.val
    let above := m.above && x.overvolt
    let closed := if above then x.closed else senseLevel s m.res.toNat x.closed
    let s := setCs c.val { x with res := m.res.toNat, closed := closed, overvolt := above } s
    if above || !m.settled || closed == x.logical then .next s
    else
      let e := if c.val < 2 then End.fore else .aft
      .next (endFollow e (endCode s e) (setCs c.val { csSt s c.val with logical := closed } s))

/-- SENSE_ERROR_PERSIST (R79): an end has been in SENSE_ERROR for 1 fr. -/
def execSenseErrorPersist (e : End) (s : State) : Ans :=
  match e with
  | .fore =>
    (match s.ina.errFore with
     | none => .next s
     | some t => .next (raiseIrq 14 { passTo (t + fr) s with ina.foreFault := true, ina.errFore := none }))
  | .aft =>
    (match s.ina.errAft with
     | none => .next s
     | some t => .next (raiseIrq 14 { passTo (t + fr) s with ina.aftFault := true, ina.errAft := none }))

/-! ### Duplicator events (R63, R65, R68, R70) -/

/-- DUP_TX_SRC_EVICT (R63): a transmit counter idle for 17 rl is evicted. -/
def execDupTxSrcEvict (m : Mac) (s : State) : Ans :=
  match tfind s.net.tx m.toNat with
  | none => .next s
  | some t =>
    let s := passTo (t.lastUse + 17 * rl) s
    .next { s with net.tx := tdel s.net.tx m.toNat }

/-- DUP_RX_SRC_FORGET (R65): a source unseen for 16 rl is forgotten. -/
def execDupRxSrcForget (m : Mac) (s : State) : Ans :=
  match tfind s.net.rx m.toNat with
  | none => .next s
  | some r =>
    let s := passTo (r.lastSeen + 16 * rl) s
    .next { s with net.rx := tdel s.net.rx m.toNat }

/-- The supervision frame of the node itself, the q-th (R68). Its address and EtherType are those of IEC 62439-3 (log 34). -/
def supervisionFrame (s : State) : Frame :=
  let body := beBytes 2 0x1000 ++ beBytes 2 s.net.supSeq.toNat ++ [20, 6] ++ beBytes 6 s.baseMac.toNat ++ [0, 0]
  { dst := 0x01154E000100, src := s.baseMac, etherType := 0x88FB, payload := body, len := frameLen false body.length }

/-- A supervision frame has been made at this time. -/
def supNoted (s : State) : State := { s with net.supSeq := s.net.supSeq + 1, net.supAt := s.up }

/-- The node sends a supervision frame for itself, on both lines; untrailered and on the line of R61 where the duplicator does not trailer
(R63, R68, R70). -/
def supSend (s : State) : State :=
  let f := supervisionFrame s
  let i := (newId s).1
  let s := (newId (supNoted s)).2
  let r := if dupEnabled s then txSequence f.src s else (none, s)
  match r.1 with
  | some n => planeIn i .b 20 0 (trailered f n .b) (planeIn i .a 20 0 (trailered f n .a) r.2)
  | none => planeIn i (sendLine s) 20 0 f r.2

/-- SUPERVISION_FRAME_SEND (R68): when the interval has passed. -/
def execSupervisionFrameSend (s : State) : Ans := .next (supSend (passTo (s.net.supAt + cfg s 0x2307 0 * fr) s))

/-- A frame that this duplicator trailered is still queued, on the wire, or held to go on or be sent again. -/
def trailersHeld (s : State) : Bool :=
  let own (q : QFrame) := q.frame.rct.isSome && decide (4 ≤ q.ingress)
  s.net.macs.any (fun m => (heldFrames m.2).any own)

/-- DUP_DRAINED (R70): frames already trailered have left while ENABLE is 0. -/
def execDupDrained (s : State) : Ans :=
  if dupEnabled s || trailersHeld s then .next s else .next { s with net.dupDrained := true }

end Sys2Proof.Machine
end

