-- ==== Sys2Proof/Machine/Splice.lean ====
section
/-!
DEFINITION. Machine/Splice.lean: operations of the splice bridge and messages of the Bulis transport at the requester:
acceptance, transmission, closing, poisoning, the fence; and what a target does with an operation (chapters 7 and 8).
-/
namespace Sys2Proof.Machine

/-! ### Codes and configuration -/

abbrev cOk : Nat := 0
abbrev cTimeout : Nat := 1
abbrev cWindowClosed : Nat := 2
abbrev cTargetAbsent : Nat := 3
abbrev cTopology : Nat := 4
abbrev cPoisoned : Nat := 5
abbrev cSemTimeout : Nat := 6
abbrev cDenied : Nat := 7
abbrev cEcc : Nat := 8
abbrev cTooLate : Nat := 9
abbrev cSemHeld : Nat := 0x80

/-- A value of window w (Table 7.14). -/
def winCfg (s : State) (w sub : Nat) : Nat := cfg s (0x2740 + w) sub

/-- A value of region r (Table 7.14). -/
def regCfg (s : State) (r sub : Nat) : Nat := cfg s (0x2780 + r) sub

/-- The retry budget in ticks (R227). -/
def retryBudget (s : State) : Nat := cfg s 0x2702 0 * (1 + cfg s 0x2703 0) * pf

/-- The priority of a stream (Table 7.4). -/
def streamPrio (s : State) (n : Nat) : Nat := cfg s (0x2710 + n) 2

/-- Accesses through a stream are accepted (Table 8.4). -/
def streamOn (s : State) (n : Nat) : Bool := cfgOn s (0x2710 + n) 1

/-- The bridge accepts operations: D12 and its enable on, and the node not in FAULT (R28, R34, R237). -/
def bridgeOn (s : State) : Bool :=
  cfgOn s 0x2701 0 && domOn s .d12 && domOn s .d10 && s.node ≠ .fault && (domSt s .d12).drainBy.isNone

/-- Window w accepts accesses (R196, Table 8.4). -/
def winOpen (s : State) (w : Nat) : Bool := bridgeOn s && winCfg s w 1 = 1 && streamOn s (winCfg s w 8)

/-- The address of a counter of the STM block of stream n. -/
def stmReg (n o : Nat) : Nat := 0x58000 + 0x20 * n + o

/-! ### Sets of operations -/

/-- Some operation of a stream is in flight (R245). -/
def streamBusy (s : State) (n : Nat) : Bool := s.spl.ops.any (fun o => o.stream == n && !o.held)

/-- An operation is replaced. -/
def setOp (o : Op) (s : State) : State :=
  { s with spl.ops := s.spl.ops.map (fun q => if q.id = o.id then o else q) }

/-- The tags in use: of records that are open, and of closed ones whose read has not been delivered (R216, R233). -/
def tagsUsed (s : State) : List Nat := s.spl.ops.filterMap (·.tag) ++ s.spl.reads.flatMap (fun r => r.parts.filterMap (·.tag))

/-- The free tags (R216). -/
def freeTags (s : State) : List Nat := (List.range 512).filter (fun t => !(tagsUsed s).contains t)

/-- A free tag; which one is not stated: a free value picks it. -/
def takeTag (s : State) : Option Nat × State :=
  let l := freeTags s
  if l.isEmpty then (none, s)
  else
    let (n, s) := nextFree s
    (l[Config.value n % l.length]?, s)

/-! ### Logs -/

/-- A posted failure is counted and logged, or lost (R249, R250). -/
def pwfPush (o : Op) (code : Nat) (s : State) : State :=
  let s := bump 0x58460 s
  let s := if s.spl.pwf.length < 64 then
      { s with spl.pwf := s.spl.pwf ++ [{ window := o.window, uid := o.target, region := o.region, offset := o.offset, len := o.len,
                                             stream := o.stream, seq := o.lastSeq.getD 0, cause := code, time := timeNs s }] }
    else { s with spl.pwfLost := true }
  raiseIrq 7 s

/-- The KIND of a completion-error entry (Table 7.10). -/
def ceKind (o : Op) : Nat :=
  match o.kind with
  | .writeNp => 1
  | .atomic _ => 2
  | .acquire => 3
  | _ => 0

/-- A completion error is logged, or lost; bit 8 (R236). -/
def cePush (o : Op) (code : Nat) (s : State) : State :=
  let s := if s.spl.ce.length < 64 then
      { s with spl.ce := s.spl.ce ++ [{ window := o.window, stream := o.stream, kind := ceKind o, offset := o.woff, seq := o.lastSeq.getD 0,
                                           code := code }] }
    else { s with spl.ceLost := true }
  raiseIrq 8 s

/-- A discarded read-ahead of an audited window writes a ring entry (R257). -/
def pdlPush (w stream off len : Nat) (seq : Word) (s : State) : State :=
  if winCfg s w 0x0B ≠ 1 then s
  else
    let h := s.spl.pdlHead
    let s := if (tfind s.spl.pdl h).isSome then bump 0x5847C s else s
    raiseIrq 10 (bump 0x58478 { s with
      spl.pdl := tset s.spl.pdl h { window := w, stream := stream, offset := off, len := len, seq := seq, time := timeNs s },
      spl.pdlHead := (h + 1) % 32 })

/-- Prefetched data is discarded unused (R215). -/
def discardFetched (x : Prefetched) (s : State) : State :=
  pdlPush x.window x.stream x.offset x.data.length x.seq
    (bump 0x5007C { s with spl.fetched := s.spl.fetched.filter (fun y => y ≠ x) })

/-! ### Results (R202) -/

/-- The bytes of a failed host access: all ones, or none for a Completer Abort (R202). -/
def failData (s : State) (o : Op) : List Byte := if winCfg s o.window 0x0C = 1 then [] else List.replicate o.len 0xFF

/-- A host read request is complete once every part has closed (R470). -/
def readDone (r : HostRead) (s : State) : State :=
  let l := r.parts.filterMap (·.result)
  if l.length ≠ r.parts.length then s
  else
    let code := ((l.find? (fun x => x.1 ≠ 0)).map (·.1)).getD 0
    let ca := l.any (fun x => x.2.1)
    let s := { s with spl.reads := s.spl.reads.filter (fun x => x.id ≠ r.id) }
    emit (.spliceResult .host r.window code (if ca then [] else l.flatMap (·.2.2))) s

/-- A part of a host read request closes. -/
def readPart (o : Op) (code : Nat) (data : List Byte) (s : State) : State :=
  match o.req with
  | none => s
  | some n =>
    match s.spl.reads.find? (fun r => r.id = n) with
    | none => s
    | some r =>
      let ca := decide (code ≠ 0 && winCfg s o.window 0x0C = 1)
      let r := { r with parts := r.parts.map (fun p => if p.op = o.id then { p with result := some (code, ca, data), tag := o.tag } else p) }
      readDone r { s with spl.reads := s.spl.reads.map (fun x => if x.id = n then r else x) }

/-- A non-posted operation of the host or a core fails: logged, and answered to the requester (R202, R236). -/
def npFail (o : Op) (code : Nat) (s : State) : State :=
  let s := cePush o code s
  let s := match o.kind with
    | .acquire => { s with spl.semState := tset s.spl.semState o.window 3 }
    | _ => s
  match o.who, o.kind with
  | .core, .acquire => s
  | .core, _ => emit .coreFault s
  | .host, .read => readPart o code (List.replicate o.len 0xFF) s
  | .host, .atomic _ => emit (.spliceResult .host o.window code (failData s o)) s
  | _, _ => s

/-- A non-posted operation succeeds (R202, R210, R215). -/
def npOk (o : Op) (data : List Byte) (s : State) : State :=
  match o.kind with
  | .acquire => { s with spl.semState := tset s.spl.semState o.window 2 }
  | .writeNp => if o.who = .core then emit (.spliceResult .core o.window 0 []) s else s
  | .read => if o.who = .core then emit (.spliceResult .core o.window 0 data) s else readPart o 0 data s
  | _ => emit (.spliceResult o.who o.window 0 data) s

/-- A read-ahead ends (R215, R258): its data waits, or it is discarded, or it is a gap. Whether one that R243 closes with POISONED enters
the completion-error log is not stated; DESIGN CHOICE: it does, with bit 8, where it was transmitted (log 171). -/
def prefetchEnd (o : Op) (code : Nat) (answered : Bool) (data : List Byte) (s : State) : State :=
  if code = cOk then
    let x : Prefetched := { window := o.window, stream := o.stream, offset := o.woff, data := data, seq := o.seq.getD 0, arrived := s.up,
                            target := o.target, region := o.region, roff := o.offset }
    if o.expired then discardFetched x s else { s with spl.fetched := s.spl.fetched ++ [x] }
  else if answered then pdlPush o.window o.stream o.woff o.len (o.seq.getD 0) s
  else if o.seq.isSome then cePush o code s
  else s

/-- An operation's result is recorded: the one result it has (R202, R233, R249, R252). A write of either kind that the target answers
POISONED is counted and not logged (R243, log 169); a doorbell or a release so answered is logged (R249). -/
def recordClose (o : Op) (code : Nat) (answered : Bool) (data : List Byte) (s : State) : State :=
  let s := if code = cTimeout && o.stream < 16 then bump 0x50060 s else s
  if o.posted then
    if code = cOk then s
    else if code = cPoisoned && o.kind = .write then bump (stmReg o.stream 0x0C) s
    else pwfPush o code s
  else if o.nonPosted then
    if o.prefetch then prefetchEnd o code answered data s
    else if code = cOk then npOk o data s
    else if o.kind = .writeNp && answered && code = cPoisoned then
      (let s := bump (stmReg o.stream 0x0C) s
       if o.who = .core then emit .coreFault s else s)
    else npFail o code s
  else s

/-! ### Poisoning (R242, R243) -/

/-- The close of an operation is a poisoning event (R242): a gap, or a write that failed. A try sequence that is aborted or times out
between two tries has been transmitted, and is a gap (R253). -/
def poisons (o : Op) (code : Nat) (answered : Bool) : Bool :=
  let gap := o.lastSeq.isSome && !answered && (code == cTimeout || code == cTopology || code == cWindowClosed)
  let write := code != cOk && (o.posted || o.kind == .writeNp)
  o.stream < 16 && (o.posted || o.nonPosted) && (gap || write)

/-- An operation closes under R243: dropped and counted, or closed with POISONED. -/
def dropPoisoned (s : State) (o : Op) : State :=
  if o.posted then bump (stmReg o.stream 0x0C) s else recordClose o cPoisoned false [] s

/-- A poisoning event of operation o: the stream is POISONED, and what follows o toward its target closes, by sequence or, where neither
has been transmitted, by the order in which they came (R243, R245). A fence under way no longer opens the stream. -/
def poison (o : Op) (s : State) : State :=
  let fenced := streamSt s o.stream = .fenced && !(tget s.spl.fencing o.stream false)
  let s := if fenced then bump 0x58468 s else s
  let s := { s with spl.streams := tset s.spl.streams o.stream .poisoned, spl.fencing := tdel s.spl.fencing o.stream }
  let follows (q : Op) : Bool :=
    q.stream == o.stream && (q.posted || q.nonPosted)
      && (if q.held then true
          else q.target == o.target && (match q.lastSeq, o.lastSeq with
            | none, some _ => true
            | none, none => decide (o.id < q.id)
            | some a, some b => laterThan 32 a.toNat b.toNat
            | some _, none => false))
  let l := s.spl.ops.filter follows
  l.foldl dropPoisoned { s with spl.ops := s.spl.ops.filter (fun q => !follows q) }

/-- The posting buffer is full; no tag is free (R217). -/
def postFull (s : State) : Bool := decide (2048 ≤ countOps s Op.posted)
def tagsOut (s : State) : Bool := (freeTags s).isEmpty

/-- Back-pressure ends once a slot, or a tag, is free (R217). -/
def bpCheck (s : State) : State :=
  { s with spl.bpPosted := s.spl.bpPosted && postFull s, spl.bpNonPosted := s.spl.bpNonPosted && tagsOut s }

/-- Operations close together: each with its own code, then their streams are poisoned (R101, R243, R256). -/
def closeBatch (sel : Op → Option (Nat × Bool)) (s : State) : State :=
  let l := s.spl.ops.filterMap (fun o => (sel o).map (fun c => (o, c)))
  let s := { s with spl.ops := s.spl.ops.filter (fun o => (sel o).isNone) }
  let s := l.foldl (fun s x => recordClose x.1 x.2.1 x.2.2 [] s) s
  bpCheck (l.foldl (fun s x => if poisons x.1 x.2.1 x.2.2 then poison x.1 s else s) s)

/-- One operation closes. -/
def closeOne (o : Op) (code : Nat) (answered : Bool) (data : List Byte) (s : State) : State :=
  let s := { s with spl.ops := s.spl.ops.filter (fun q => q.id != o.id) }
  let s := recordClose o code answered data s
  bpCheck (if poisons o code answered then poison o s else s)

/-! ### The target (R198, R199, R207 to R213, R230, R247) -/

/-- The receive state of a source and stream. -/
def recvSt (s : State) (u : Uid) (stream : Nat) : Option RecvSt :=
  s.spl.receivers.find? (fun r => r.uid = u && r.stream = stream)

def setRecv (r : RecvSt) (s : State) : State :=
  { s with spl.receivers := s.spl.receivers.filter (fun x => !(x.uid = r.uid && x.stream = r.stream)) ++ [r] }

/-- The pair is POISONED at this target. -/
def targetPoisoned (s : State) (u : Uid) (stream : Nat) : Bool := ((recvSt s u stream).map (·.poisoned)).getD false

/-- The pair is marked POISONED (R230). -/
def poisonPair (u : Uid) (stream : Nat) (s : State) : State :=
  match recvSt s u stream with
  | some r => setRecv { r with poisoned := true } s
  | none => setRecv { uid := u, stream := stream, next := 0, poisoned := true, lastAt := s.up } s

/-- The source's pair owns semaphore n. -/
def ownsSem (s : State) (u : Uid) (stream n : Nat) : Bool :=
  match tfind s.spl.sems n with
  | some x => x.uid = u && x.stream == stream
  | none => false

/-- A semaphore is granted: free, or held by the same owner (R210). -/
def semGrants (s : State) (u : Uid) (stream n : Nat) : Bool := (tfind s.spl.sems n).isNone || ownsSem s u stream n

/-- Every semaphore owned by the pair is freed (R212, R247). -/
def freeSems (u : Uid) (stream : Nat) (s : State) : State :=
  { s with spl.sems := s.spl.sems.filter (fun e => !(e.2.uid = u && e.2.stream == stream)) }

/-- The operation header (Table 7.6). Its OP is a code of Table 7.7, or 8 to 14 for an AMO that has none there; 0 for any other. -/
structure OpHead where
  region : Nat
  op : Nat
  len : Nat
  offset : Nat
deriving DecidableEq, Repr

/-- The code of an operation on the wire: that of Table 7.7; of the other AMOs of R213, whose codes are not stated, a free value
(log 167). -/
def wireCode (c : Nat) : Nat := if c ≤ 7 then c else Config.amoCode c % 256

/-- The operation that a code on the wire spells; 0 where none does. -/
def opSpelled (b : Nat) : Nat := if 1 ≤ b ∧ b ≤ 7 then b else ([8, 9, 10, 11, 12, 13, 14].find? (fun c => wireCode c = b)).getD 0

def opHead (p : List Byte) : OpHead :=
  { region := (p.getD 0 0).toNat % 64, op := opSpelled (p.getD 1 0).toNat, len := beNat ((p.drop 2).take 2), offset := beNat ((p.drop 4).take 4) }

def opHeadBytes (h : OpHead) : List Byte := beBytes 1 h.region ++ beBytes 1 (wireCode h.op) ++ beBytes 2 h.len ++ beBytes 4 h.offset

/-- An atomic (R213): FetchAdd, Swap, CAS, and the AMOs XOR, AND, OR, MIN, MAX, MINU, MAXU. -/
def isAtomic (c : Nat) : Bool := decide (3 ≤ c ∧ c ≤ 5) || decide (8 ≤ c ∧ c ≤ 14)

/-- Reads of an operation, and writes of it (Table 7.1, order 3). -/
def opReads (h : OpHead) : Bool := h.op = 2 || isAtomic h.op
def opWrites (h : OpHead) : Bool := h.op = 1 || isAtomic h.op

/-- A write that needs a read of its 8-byte ECC word (Table 7.1, order 6; the word's size is a choice, log 35). -/
def partialWrite (h : OpHead) : Bool := h.op = 1 && (h.offset % 8 ≠ 0 || h.len % 8 ≠ 0)

/-- The checks of Table 7.1 for a memory or semaphore operation; 0 when all pass. `ecc`: DRAM has an uncorrectable error
there. -/
def targetCheck (s : State) (u : Uid) (h : OpHead) (ecc : Bool) : Nat :=
  let r := h.region
  let filter := regCfg s r 6
  if regCfg s r 1 ≠ 1 then cWindowClosed
  else if filter ≠ 0 && filter ≠ u.toNat then cDenied
  else if opReads h && regCfg s r 4 ≠ 1 || opWrites h && regCfg s r 5 ≠ 1 then cDenied
  else if regCfg s r 3 < h.offset + h.len then cDenied
  else if 3 ≤ h.op && regCfg s r 7 = 0xFF then cDenied
  else if ecc && (opReads h || partialWrite h) then cEcc
  else 0

/-- The checks of Table 7.1 for a doorbell. -/
def doorbellCheck (s : State) (u : Uid) (r : Nat) : Nat :=
  let filter := regCfg s r 6
  if regCfg s r 1 ≠ 1 then cWindowClosed
  else if filter ≠ 0 && filter ≠ u.toNat then cDenied
  else if regCfg s r 8 ≠ 1 then cDenied
  else 0

/-- A number of n bytes read as signed. -/
def asSigned (n x : Nat) : Int := if 2 * x < 256 ^ n then (x : Int) else (x : Int) - ((256 ^ n : Nat) : Int)

/-- The new value of an atomic (R213, Table 7.7): FetchAdd, Swap, CAS, and the AMOs without a code there; operands big-endian on the
wire, the value little-endian in DRAM (log 36). -/
def atomicValue (op len old : Nat) (d : List Byte) : Nat :=
  let a := beNat (d.take len)
  let b := beNat ((d.drop len).take len)
  match op with
  | 3 => (old + a) % 256 ^ len
  | 4 => a
  | 5 => if old = a then b else old
  | 8 => old ^^^ a
  | 9 => old &&& a
  | 10 => old ||| a
  | 11 => if asSigned len a < asSigned len old then a else old
  | 12 => if asSigned len old < asSigned len a then a else old
  | 13 => min old a
  | _ => max old a

/-- An operation of the region is applied, or refused, and counted (R239). -/
def countRegion (r code : Nat) (s : State) : State := bump (0x52000 + 0x20 * r + (if code = 0 then 0x18 else 0x1C)) s

/-- A doorbell enters the FIFO, or overflows it (R207, R208). -/
def doorbellApply (u : Uid) (stream r : Nat) (v : Word) (s : State) : State :=
  let s := if s.spl.db.length < 256 then
      { s with spl.db := s.spl.db ++ [{ src := u, stream := stream, region := r, value := v }] }
    else bump 0x50074 { s with spl.dbOverflow := true }
  raiseIrq 9 s

/-- The address of an operation in the export area. -/
def exportAddr (s : State) (h : OpHead) : Nat := regCfg s h.region 2 + h.offset

/-- A memory or semaphore operation at the target: its code, the data of its completion, and the state (R198, R210,
R211, R213). With D10 off a memory operation is answered WINDOW_CLOSED (Table 17.1). REG_DENY_CNT counts the refusals of Table 7.1, not
that of a release by a non-owner. What an OP outside Table 7.7 does, and one that does not fit the frame's TYPE, is not stated; DESIGN
CHOICE: the first is answered ACCESS_DENIED and does nothing, the second does what its OP says (log 168). -/
def targetOp (u : Uid) (stream : Nat) (h : OpHead) (d : List Byte) (ecc : Bool) (s : State) : Nat × List Byte × State :=
  let code := targetCheck s u h ecc
  if !domOn s .d10 && (opReads h || opWrites h) then (cWindowClosed, [], s)
  else if code ≠ 0 then (code, [], countRegion h.region code s)
  else
    let a := exportAddr s h
    let n := regCfg s h.region 7
    let ok (s : State) : State := countRegion h.region 0 s
    match h.op with
    | 1 => (0, [], ok { s with spl.mem := memWrite s.spl.mem a (d.take h.len) })
    | 2 => (0, memRead s.spl.mem a h.len, ok s)
    | 6 =>
      if !semGrants s u stream n then (cSemHeld, [], s)
      else if ownsSem s u stream n then (0, [], ok s)
      else (0, [], ok { s with spl.sems := tset s.spl.sems n { uid := u, stream := stream, since := s.up } })
    | 7 =>
      if (tfind s.spl.sems n).isNone then (0, [], ok s)
      else if ownsSem s u stream n then (0, [], ok { s with spl.sems := tdel s.spl.sems n })
      else (cDenied, [], s)
    | op =>
      if !isAtomic op then (cDenied, [], s)
      else if !semGrants s u stream n then (cSemHeld, [], s)
      else
        let old := leNat (memRead s.spl.mem a h.len)
        let new := atomicValue op h.len old d
        (0, beBytes h.len old, ok { s with spl.mem := memWrite s.spl.mem a (leBytes h.len new), spl.sems := tdel s.spl.sems n })

/-- A write, posted or not, failed at the target: Bulis types 1 and 2, and no doorbell, release or atomic (R230, log 52). -/
def failsPair (type code : Nat) : Bool := code ≠ 0 && (type = 1 || type = 2)

/-- An operation of a Bulis type is applied in its turn; a POISONED pair answers POISONED (R230). A doorbell's value stands where a header
has its offset (R232). -/
def targetServe (u : Uid) (stream type : Nat) (h : OpHead) (d : List Byte) (ecc : Bool) (s : State) : Nat × List Byte × State :=
  if targetPoisoned s u stream then (cPoisoned, [], s)
  else if type = 5 then
    let code := doorbellCheck s u h.region
    let s := countRegion h.region code s
    if code = 0 then (0, [], doorbellApply u stream h.region (word h.offset) s)
    else (code, [], s)
  else
    let (code, data, s) := targetOp u stream h d ecc s
    (code, data, if failsPair type code then poisonPair u stream s else s)

/-- The same, of the payload of a frame. -/
def targetApply (u : Uid) (stream type : Nat) (payload : List Byte) (ecc : Bool) (s : State) : Nat × List Byte × State :=
  targetServe u stream type (opHead payload) (payload.drop 8) ecc s

/-! ### Transmission (R218 to R224) -/

/-- The Bulis type of an operation (Table 7.4). -/
def opType (o : Op) : Nat :=
  match o.kind with
  | .write => 1
  | .fence => 1
  | .writeNp => 2
  | .read => 3
  | .doorbell => 5
  | .atomic _ => 7
  | .acquire => 7
  | .release => 7
  | .message t => t

/-- The operation code (Table 7.7). -/
def opCodeOf (o : Op) : Nat :=
  match o.kind with
  | .write => 1
  | .writeNp => 1
  | .read => 2
  | .atomic c => c
  | .acquire => 6
  | .release => 7
  | _ => 0

/-- The payload of an operation (R231, R232, R246). -/
def opPayload (o : Op) : List Byte :=
  match o.kind with
  | .fence => []
  | .message _ => o.payload
  | .doorbell => beBytes 1 o.region ++ [0, 0, 0] ++ o.data
  | _ => opHeadBytes { region := o.region, op := opCodeOf o, len := o.len, offset := o.offset } ++ o.data

/-- FLAGS of an operation (Table 7.5). -/
def opFlags (s : State) (o : Op) : Nat :=
  bit 7 o.first + bit 6 (o.last && o.stream < 16) + bit 5 (o.kind = .fence) + bit 4 o.prefetch
    + (if o.stream < 16 then streamPrio s o.stream else o.prio)

/-- The CSC an operation is transmitted with now (R100, R222); 0 for a DAM_RSP to a client that is no member (R308). -/
def opCsc (s : State) (o : Op) : Word :=
  if o.csc0 || (o.kind = .message 0x11 && !isMemberUid s o.target) then 0 else activeCsc s

/-- The frame of an operation (R219). -/
def opFrame (s : State) (o : Op) : Bulis :=
  { type := opType o, flags := opFlags s o, stream := o.stream, src := s.uid, dst := o.target, seq := o.seq.getD 0, csc := opCsc s o,
    tag := if o.nonPosted then o.tag.getD 0 else 0, attempt := min o.resends 3, payload := opPayload o }

/-- The MAC address an operation goes to, where one is known (R218). -/
def opMac (s : State) (o : Op) : Option Mac := o.mac.or (tfind s.ina.macs o.target.toNat)

/-- A transmission of an operation, on both lines; from one port where the operation names it. -/
def sendOp (o : Op) (s : State) : State :=
  let s := setOp { o with lastTx := s.up, cscs := (opCsc s o) :: o.cscs } s
  let mac := (opMac s o).getD 0
  match o.port with
  | some p =>
    let f := bulisEther s (bulisSeal (opFrame s o)) mac
    sendOn p 18 f (countIn 18 f s)
  | none => bulisOut (opFrame s o) mac s

/-- A retransmission (R227). -/
def resendOp (o : Op) (s : State) : State := sendOp { o with resends := o.resends + 1 } (bump 0x50044 s)

/-- Acquires and atomics, whose tries hold what follows them (R210). -/
def isTry (o : Op) : Bool :=
  match o.kind with
  | .acquire => true
  | .atomic _ => true
  | _ => false

/-- SEM_HELD: the next try is due in 16 pf; an acquire whose timeout has passed ends (R210, Table 8.6). -/
def semHeld (o : Op) (s : State) : State :=
  let s := bump 0x5006C s
  if o.expired then closeOne o cSemTimeout true [] s
  else setOp { o with seq := none, retryAt := some (s.up + 16 * pf), attempts := 0, resends := 0, cscs := [] } s

/-- The value of an atomic as its requester's memory holds it: little-endian (log 36). -/
def resultData (o : Op) (d : List Byte) : List Byte :=
  match o.kind with
  | .atomic _ => d.reverse
  | _ => d

/-- A non-posted operation is answered (R202, R210). What a STATUS outside R235 means is not stated; DESIGN CHOICE: the operation closes
with it as its code (log 170). An acquire granted after its timeout is released at once: its
release is `late`, to be accepted by the caller (Table 8.6). What an atomic delivers that is answered OK after the timeout is not stated;
DESIGN CHOICE: OK with its value (log 199). -/
def answerNp (o : Op) (code : Nat) (data : List Byte) (s : State) : State :=
  if code = cSemHeld then semHeld o s
  else if o.expired && o.kind = .acquire then closeOne o cSemTimeout true [] s
  else closeOne o code true (resultData o data) s

/-- An operation to the node itself is served locally (R199). -/
def localOp (o : Op) (s : State) : State :=
  match o.kind with
  | .fence =>
    let s := freeSems s.uid o.stream s
    let s := match recvSt s s.uid o.stream with
      | some r => setRecv { r with poisoned := false } s
      | none => s
    closeOne o cOk true [] s
  | .message _ => closeOne o cOk true [] s
  | _ =>
    let h : OpHead := { region := o.region, op := opCodeOf o, len := o.len, offset := if o.kind = .doorbell then beNat o.data else o.offset }
    -- whether DRAM has an uncorrectable error there is a free value (log 145)
    let (n, s) := nextFree s
    let (code, data, s) := targetServe s.uid o.stream (opType o) h o.data (decide (Config.value n % 2 = 1)) s
    if o.nonPosted then answerNp o code data s else closeOne o code true [] s

/-- An operation takes its sequence and is transmitted (R224); each try of a try sequence takes a new one (R210). -/
def transmitOp (o : Op) (s : State) : State :=
  let (q, first, s) := takeSeq o.target o.stream s
  let o := { o with seq := some q, lastSeq := some q, first := first, firstTx := s.up, retryAt := none, attempts := 0, resends := 0,
                    tryFrom := if isTry o then o.tryFrom.or (some s.up) else none }
  let s := if o.stream < 16 then bump (stmReg o.stream 0x08) s else s
  let s := setOp o s
  if o.target = s.uid && o.stream < 16 then localOp o s else bump 0x50040 (sendOp o s)

/-- The first operation that may be transmitted now: nothing of its stream and target waits or tries before it, its
stream is not FENCED, its address is known, and its next try is due. -/
def nextToSend (s : State) : List Op → List Op → Option Op
  | _, [] => none
  | before, o :: r =>
    let ahead := before.any (fun q => q.target = o.target && q.stream = o.stream && (q.seq.isNone || isTry q))
    let due := match o.retryAt with
      | some t => decide (t ≤ s.up)
      | none => true
    if o.seq.isNone && !o.held && !ahead && due && (o.target = s.uid || (opMac s o).isSome) then some o
    else nextToSend s (before ++ [o]) r

/-! ### Acceptance (R204, R215 to R217, R243) -/

/-- Two ranges overlap. -/
def overlap (a n b m : Nat) : Bool := decide (a < b + m ∧ b < a + n)

/-- A write of a stream has been accepted: overlapping read-aheads of that stream are discarded, or will be (R215). Whether an atomic
counts as such a write is not stated; DESIGN CHOICE: it does not (log 172). -/
def spoilPrefetch (o : Op) (s : State) : State :=
  let hit (x : Prefetched) : Bool :=
    x.stream == o.stream && x.target == o.target && x.region == o.region && overlap x.roff x.data.length o.offset o.len
  let s := (s.spl.fetched.filter hit).foldl (fun s x => discardFetched x s) s
  { s with spl.ops := s.spl.ops.map (fun q =>
      if q.prefetch && q.stream = o.stream && q.target = o.target && q.region = o.region && overlap q.offset q.len o.offset o.len
      then { q with expired := true } else q) }

/-- The target is in the active Call Sheet, or is this node. -/
def targetPresent (s : State) (u : Uid) : Bool := isMemberUid s u || u = s.uid

/-- There is a slot, or a tag, for an operation (R216). -/
def hasRoom (s : State) (o : Op) : Bool := if o.posted then !postFull s else !tagsOut s

/-- An operation that fills the posting buffer, or takes the last tag, starts back-pressure (R217). -/
def bpStart (s : State) : State :=
  let s := if !s.spl.bpPosted && postFull s then bump 0x50080 { s with spl.bpPosted := true } else s
  if !s.spl.bpNonPosted && tagsOut s then bump 0x50080 { s with spl.bpNonPosted := true } else s

/-- A splice operation is accepted, with its slot or its tag (R101, R204, R216, R243, R245). Whether an operation to an absent target is held
in a FENCED stream is not stated; DESIGN CHOICE: it closes at once with TARGET_ABSENT (log 201). -/
def enterOp (o : Op) (s : State) : State :=
  let o := { o with accepted := s.up }
  if streamSt s o.stream = .poisoned then dropPoisoned s o
  else if !targetPresent s o.target then
    let s := recordClose o cTargetAbsent false [] s
    if poisons o cTargetAbsent false then poison o s else s
  else
    let (t, s) := if o.nonPosted then takeTag s else (none, s)
    let o := { o with held := decide (streamSt s o.stream = .fenced), tag := t }
    bpStart { s with spl.ops := s.spl.ops ++ [o] }

/-- An operation waits behind one that came before it and waits too: one that waits for the same bound (R217), or one of the same stream and
target, which it may not pass (R205, log 202). -/
def waitsBehind (before : List Op) (o : Op) : Bool :=
  before.any (fun q => q.posted == o.posted || (q.stream == o.stream && q.target = o.target))

/-- A waiting operation as its window names its stream and its target now: one that is not yet accepted is a later one for a take
(Table 7.9). -/
def rebound (s : State) (o : Op) : Op :=
  let w := o.window
  if o.bound then o
  else { o with stream := winCfg s w 8, target := BitVec.ofNat 48 (winCfg s w 4), region := winCfg s w 5 % 64,
                offset := if o.kind = .doorbell then 0 else winCfg s w 7 + o.woff }

/-- The first waiting operation that may be accepted now. -/
def nextWaiting (s : State) : List Op → List Op → Option Op
  | _, [] => none
  | before, o :: r => if hasRoom s o && !waitsBehind before o then some o else nextWaiting s (before ++ [o]) r

/-- A splice operation comes to the bridge: it is accepted, or its requester is back-pressured and it waits (R204, R217). -/
def acceptOp (o : Op) (s : State) : State :=
  let o := { o with id := s.spl.nextOp }
  let s := { s with spl.nextOp := s.spl.nextOp + 1 }
  let s := match o.req with
    | some n => { s with spl.reads := s.spl.reads.map (fun r =>
        if r.id = n then { r with parts := r.parts ++ [{ op := o.id, window := o.window, stream := o.stream }] } else r) }
    | none => s
  if hasRoom s o && !waitsBehind s.spl.waiting o then enterOp o s else { s with spl.waiting := s.spl.waiting ++ [o] }

/-- An operation that waited finds its window disabled: it is unmapped (R196, Table 8.4). -/
def turnAway (o : Op) (s : State) : State :=
  let s := bump 0x50068 s
  match o.who, o.kind with
  | .core, _ => emit .coreFault s
  | .host, .read => readPart o 0 (List.replicate o.len 0xFF) s
  | .host, .atomic _ => emit (.spliceResult .host o.window 0 (List.replicate o.len 0xFF)) s
  | .host, .acquire => { s with spl.semState := tdel s.spl.semState o.window }
  | _, _ => s

/-- Everything that may be transmitted is, in order; a waiting operation is accepted when there is room for it. -/
def pumpN : Nat → State → State
  | 0, s => s
  | n + 1, s =>
    match nextToSend s [] s.spl.ops with
    | some o => pumpN n (transmitOp o s)
    | none => match nextWaiting s [] (s.spl.waiting.map (rebound s)) with
      | none => s
      | some o =>
        let s := { s with spl.waiting := s.spl.waiting.filter (fun q => q.id != o.id) }
        if winOpen s o.window then pumpN n (enterOp o (if o.kind = .write || o.kind = .writeNp then spoilPrefetch o s else s))
        else pumpN n (turnAway o s)

def pump (s : State) : State := pumpN (s.spl.ops.length + 2 * s.spl.waiting.length) s

/-- A unicast message of the transport is accepted and sent as soon as it may be (Table 7.4, R218, R308). -/
def sendMessage (type stream prio : Nat) (target : Uid) (mac : Option Mac) (port : Option Nat) (csc0 : Bool) (payload : List Byte)
    (s : State) : State :=
  let o : Op := { id := s.spl.nextOp, kind := .message type, stream := stream, target := target, prio := prio, mac := mac, port := port,
                  csc0 := csc0, payload := payload, accepted := s.up }
  pump { s with spl.nextOp := s.spl.nextOp + 1, spl.ops := s.spl.ops ++ [o] }

/-! ### The fence (R245 to R248) -/

/-- Every fence frame has been answered or has failed: the stream is OPEN again (R245). -/
def fenceComplete (n : Nat) (s : State) : State :=
  let s := bump 0x58464 { s with spl.streams := tdel s.spl.streams n, spl.fencing := tdel s.spl.fencing n,
                                 spl.semState := s.spl.semState.filter (fun e => winCfg s e.1 8 ≠ n) }
  pump { s with spl.ops := s.spl.ops.map (fun o => if o.stream = n then { o with held := false } else o) }

/-- The fence completes if no fence frame of the stream is left. -/
def fenceCheck (n : Nat) (s : State) : State :=
  if tget s.spl.fencing n false && !(s.spl.ops.any (fun o => o.stream = n && o.kind = .fence)) then fenceComplete n s else s

/-- A fence frame to one target (R246): its sequence is the next value; the sender's new state starts one later, with FIRST. -/
def fenceFrame (n : Nat) (s : State) (x : SendSt) : State :=
  let o : Op := { id := s.spl.nextOp, kind := .fence, stream := n, target := x.uid, accepted := s.up, firstTx := s.up, seq := some x.next,
                  last := false }
  let s := setSender { x with next := x.next + 1, first := true } { s with spl.nextOp := s.spl.nextOp + 1, spl.ops := s.spl.ops ++ [o] }
  if x.uid = s.uid then localOp o s else bump 0x50040 (sendOp o s)

/-- Fence frames are sent once nothing of the stream is in flight, to the targets for which sender state is held (Table 8.1). -/
def fenceSend (n : Nat) (s : State) : State :=
  if streamSt s n ≠ .fenced || tget s.spl.fencing n false || streamBusy s n then s
  else
    let mine := s.spl.senders.filter (fun x => x.stream = n && !x.first)
    let s := { s with spl.fencing := tset s.spl.fencing n true,
                      spl.senders := s.spl.senders.filter (fun x => x.stream ≠ n || targetPresent s x.uid) }
    fenceCheck n ((mine.filter (fun x => targetPresent s x.uid)).foldl (fenceFrame n) s)

/-- A fence of a stream is requested (Table 8.1). For a stream that is FENCED already it has no row; DESIGN CHOICE: no effect and no count
(log 200). -/
def fenceRequest (s : State) (n : Nat) : State :=
  if s.spl.pwf.any (fun e => e.stream = n) then bump 0x58468 s
  else if streamSt s n = .fenced then s
  else fenceSend n { s with spl.streams := tset s.spl.streams n .fenced }

/-! ### Abort and disable (R237, R253 to R256) -/

/-- Every operation selected closes with WINDOW_CLOSED at the requester and counts (R253, R256). -/
def forceClose (sel : Op → Bool) (s : State) : State :=
  let n := countOps s (fun o => (o.posted || o.nonPosted) && sel o)
  let s := bumpBy 0x58470 n s
  closeBatch (fun o => if (o.posted || o.nonPosted) && sel o then some (cWindowClosed, false) else none) s

/-- A fence whose last operations have closed goes on. -/
def fencesGoOn (s : State) : State := (List.range 16).foldl (fun s n => fenceCheck n (fenceSend n s)) s

/-- What an abort returns for a record: TOO_LATE where it is closed, WINDOW_CLOSED where the abort closes it (R235, R253). -/
def abortCode (closed : Bool) : Nat := if closed then cTooLate else cWindowClosed

/-- An abort of window w (R253). A record that is closed and not yet delivered, a part of a host read, is one it comes too late for. -/
def abortWindow (w : Nat) (s : State) : State :=
  let sel (o : Op) : Bool := o.nonPosted && o.window == w
  let n := countOps s sel
  let late := recordsHeld s (fun x => abortCode x.result.isSome == cTooLate && x.window == w)
  fencesGoOn (pump { bumpBy 0x58474 late (forceClose sel s) with spl.abortDone := true, spl.aborted := n, spl.tooLate := late })

/-- Forced disable of the bridge (R256, Table 8.4): the enable is cleared with it (log 37). -/
def splForce (s : State) : State :=
  let s := applyVals [(key 0x2701 0, .num 0)] s
  fencesGoOn (pump { forceClose (fun _ => true) s with spl.drained := true })

/-- Forced disable of a window. -/
def winForce (w : Nat) (s : State) : State :=
  let s := applyVals [(key (0x2740 + w) 1, .num 0)] s
  let s := forceClose (fun o => o.window == w) s
  fencesGoOn (pump { s with spl.winDrained := putBit s.spl.winDrained w true })

/-- Forced disable of a stream. -/
def stmForce (n : Nat) (s : State) : State :=
  let s := applyVals [(key (0x2710 + n) 1, .num 0)] s
  let s := forceClose (fun o => o.stream == n) s
  fencesGoOn (pump { s with spl.stmDrained := putBit s.spl.stmDrained n true })

/-- D12 is lost: the host's operations close as for a forced disable, without the enable (R28, Table 1.6). -/
def hostSpliceClose (s : State) : State := fencesGoOn (pump (forceClose (fun _ => true) s))

/-- D8 is lost: the cores' operations close, and the accesses that wait go with the harts that made them (log 221). -/
def coreSpliceClose (s : State) : State :=
  let s := { s with spl.waiting := s.spl.waiting.filter (fun o => o.who ≠ .core) }
  fencesGoOn (pump (forceClose (fun o => o.who = .core) s))

/-- Nothing of the cores is in flight or waits, and nothing at all is in flight. -/
def coreSpliceIdle (s : State) : Bool := countOps s (fun o => o.who = .core) = 0 && !s.spl.waiting.any (fun o => o.who = .core)
def splIdle (s : State) : Bool := countOps s (fun o => o.posted || o.nonPosted) = 0

/-- The largest completion timeout of an enabled window, in ticks (R437). -/
def largestCompletionTimeout (s : State) : Nat :=
  ((List.range 64).filter (fun w => winCfg s w 1 = 1)).foldl (fun m w => max m (winCfg s w 0x0A * pf)) 0

/-! ### At the activation instant (R101, R212) -/

/-- Operations to departed targets end, their sender states go, their semaphores are freed (R101, R212, R224, R260). -/
def topologyClose (s : State) : State :=
  let gone (u : Uid) : Bool := !targetPresent s u
  let left (u : Uid) : Bool := gone u && (((s.ina.prevSheet.map (·.entries)).getD []).any (fun e => e.uid = u))
  let s := closeBatch (fun o =>
    if (o.posted || o.nonPosted) && gone o.target then some (if o.lastSeq.isSome then cTopology else cTargetAbsent, false)
    else if o.kind = .fence && gone o.target then some (cOk, true)
    else none) s
  let s := { s with spl.senders := s.spl.senders.filter (fun x => x.uid = groupUid || !(if x.stream < 16 then gone x.uid else left x.uid)),
                    spl.sems := s.spl.sems.filter (fun e => !gone e.2.uid) }
  fencesGoOn (pump s)

end Sys2Proof.Machine
end

