-- ==== Sys2Proof/Machine/Bridge.lean ====
section
/-!
DEFINITION. Machine/Bridge.lean: accesses to the apertures, answers, timers, aborts and forced disables of the splice
bridge (chapters 7 and 8).
-/
namespace Sys2Proof.Machine

/-! ### Windows (R194, R196, R200, R201) -/

/-- The window that an aperture address lies in, where one accepts it. -/
def winAt (s : State) (bar4 : Bool) (a : Nat) : Option Nat :=
  (List.range 64).find? (fun w =>
    winOpen s w && decide (winCfg s w 6 = if bar4 then 1 else 0) && decide (winCfg s w 2 ≤ a ∧ a < winCfg s w 2 + 2 ^ winCfg s w 3))

/-- A write at a window offset is non-posted (R201). -/
def npAt (s : State) (w woff : Nat) : Bool := (winCfg s w 9).testBit (woff / (2 ^ winCfg s w 3 / 16))

/-- An access that lies in no window (R196). -/
def unmapped (who : Requester) (s : State) : State :=
  let s := bump 0x50068 s
  if who = .core then emit .coreFault s else s

/-- The operation of window w at a window offset. -/
def winOp (s : State) (w woff len : Nat) (kind : OpKind) (who : Requester) : Op :=
  { kind := kind, who := who, window := w, stream := winCfg s w 8, target := BitVec.ofNat 48 (winCfg s w 4), region := winCfg s w 5 % 64,
    offset := winCfg s w 7 + woff, woff := woff, len := len }

/-- Bytes to the next 256-byte boundary of the window offset. -/
def toBoundary (woff : Nat) : Nat := 256 - woff % 256

/-- The operations of one write access (R200): each within 256 bytes, the last marked. -/
def writeOps (s : State) (w : Nat) (who : Requester) : Nat → Nat → List Byte → List Op
  | 0, _, _ => []
  | n + 1, woff, d =>
    if d.isEmpty then []
    else
      let k := min d.length (toBoundary woff)
      let o := winOp s w woff k (if npAt s w woff then .writeNp else .write) who
      { o with data := d.take k, last := (d.drop k).isEmpty } :: writeOps s w who n (woff + k) (d.drop k)

/-- A write access enters its window (R200, R201, R204). -/
def writeAccess (w woff : Nat) (d : List Byte) (who : Requester) (s : State) : State :=
  pump ((writeOps s w who (d.length + 1) woff d).foldl (fun s o => acceptOp o (spoilPrefetch o s)) s)

/-- The host's bytes from an aperture address on, window by window; what lies in no window is discarded and counted (R196). -/
def writeFrom (bar4 : Bool) : Nat → Nat → List Byte → State → State
  | 0, _, _, s => s
  | n + 1, a, d, s =>
    if d.isEmpty then s
    else match winAt s bar4 a with
      | none =>
        let k := min d.length (4096 - a % 4096)
        writeFrom bar4 n (a + k) (d.drop k) (unmapped .host s)
      | some w =>
        let woff := a - winCfg s w 2
        let k := min d.length (2 ^ winCfg s w 3 - woff)
        writeFrom bar4 n (a + k) (d.drop k) (writeAccess w woff (d.take k) .host s)

/-- The read-ahead data that holds the byte of window w at an offset: read from where the window points now, and within its lifetime
(R215, Table 7.9). -/
def fetchedAt (s : State) (w woff : Nat) : Option Prefetched :=
  s.spl.fetched.find? (fun x => x.window = w && decide (x.offset ≤ woff ∧ woff < x.offset + x.data.length)
    && decide (s.up ≤ x.arrived + cfg s 0x2708 0 * pf)
    && x.target.toNat == winCfg s w 4 && x.region == winCfg s w 5 % 64 && x.roff == winCfg s w 7 + x.offset)

/-- The read-ahead data that together covers the whole of a read, block by block, with its bytes (R215). -/
def servedBy (s : State) (w : Nat) : Nat → Nat → Nat → Option (List Prefetched × List Byte)
  | 0, _, _ => none
  | n + 1, woff, len =>
    match fetchedAt s w woff with
    | none => none
    | some x =>
      let d := (x.data.drop (woff - x.offset)).take len
      if d.length = len then some ([x], d)
      else (servedBy s w n (woff + d.length) (len - d.length)).map (fun r => (x :: r.1, d ++ r.2))

/-- Read-ahead data that has served a read is used up: what becomes of the rest of a block is not stated; DESIGN CHOICE: it goes, and is no
discard (log 166). -/
def useFetched (l : List Prefetched) (s : State) : State := { s with spl.fetched := s.spl.fetched.filter (fun y => !l.contains y) }

/-- Read-ahead data that overlaps a read and does not serve it is discarded (R215). -/
def dropOverlap (w woff len : Nat) (s : State) : State :=
  (s.spl.fetched.filter (fun x => x.window = w && overlap x.offset x.data.length woff len)).foldl (fun s x => discardFetched x s) s

/-- The operations of a read access that is issued (R200). -/
def readOps (req w : Nat) : Nat → Nat → Nat → State → State
  | 0, _, _, s => s
  | n + 1, woff, len, s =>
    if len = 0 then s
    else
      let k := min len (toBoundary woff)
      readOps req w n (woff + k) (len - k) (acceptOp { winOp s w woff k .read .host with last := decide (len = k), req := some req } s)

/-- A part of a host read that needs no operation. -/
def plainPart (req : Nat) (d : List Byte) (s : State) : State :=
  { s with spl.reads := s.spl.reads.map (fun r =>
      if r.id = req then { r with parts := r.parts ++ [{ result := some (0, false, d) }] } else r) }

/-- A host read of one window: served from read-ahead data that covers the whole of it, or issued (R215). -/
def readAccess (req w woff len : Nat) (s : State) : State :=
  match servedBy s w (len + 1) woff len with
  | some x => plainPart req x.2 (useFetched x.1 s)
  | none => readOps req w (len + 1) woff len (dropOverlap w woff len s)

/-- Read-aheads after a read that ends at window offset e (R214): aligned blocks of 256 bytes up to the depth, while at
least 64 tags are free. That the node issues all of them is a choice (log 38). -/
def prefetchIssue (w : Nat) : Nat → Nat → Nat → State → State
  | 0, _, _, s => s
  | n + 1, off, stop, s =>
    if stop < off + 256 || 2 ^ winCfg s w 3 < off + 256 || (freeTags s).length < 64 || !s.spl.waiting.isEmpty || streamSt s (winCfg s w 8) ≠ .open_ then s
    else
      let have_ := s.spl.fetched.any (fun x => x.window = w && x.offset = off)
        || s.spl.ops.any (fun o => o.prefetch && o.window = w && o.woff = off)
      let s := if have_ then s
        else acceptOp { winOp s w off 256 .read .host with prefetch := true } (bump 0x50078 s)
      prefetchIssue w n (off + 256) stop s

/-- The read-aheads after a read of window w that ends at window offset e, where the window is prefetchable (R214). -/
def prefetchAfter (w e : Nat) (s : State) : State :=
  if winCfg s w 6 = 1 then prefetchIssue w 16 ((e + 255) / 256 * 256) (e + cfg s 0x2707 0) s else s

/-- A load of a core: served from read-ahead data, or issued (R202, R215). -/
def coreRead (w woff n : Nat) (s : State) : State :=
  prefetchAfter w (woff + n) (match servedBy s w (n + 1) woff n with
    | some x => emit (.spliceResult .core w 0 x.2) (useFetched x.1 s)
    | none => acceptOp (winOp s w woff n .read .core) (dropOverlap w woff n s))

/-- The bytes of a host read in one window, then what lies beyond it; what lies in no window reads as all ones (R196, R470). -/
def readFrom (req : Nat) (bar4 : Bool) : Nat → Nat → Nat → State → State
  | 0, _, _, s => s
  | n + 1, a, len, s =>
    if len = 0 then s
    else
      match winAt s bar4 a with
      | none =>
        let k := min len (4096 - a % 4096)
        readFrom req bar4 n (a + k) (len - k) (plainPart req (List.replicate k 0xFF) (unmapped .host s))
      | some w =>
        let woff := a - winCfg s w 2
        let k := min len (2 ^ winCfg s w 3 - woff)
        readFrom req bar4 n (a + k) (len - k) (prefetchAfter w (woff + k) (readAccess req w woff k s))

/-! ### Aperture meanings -/

/-- HOST_APERTURE_WRITE (R196, R200, R201, R204): a host write of `d` at an aperture offset. -/
def execHostApertureWrite (bar4 : Bool) (a : BitVec 30) (d : List Byte) (s : State) : Ans :=
  if !reaches s .host then .next s
  else .next (writeFrom bar4 (d.length + 1) a.toNat d s)

/-- A host read opens its record, under the number its own parts of no operation carry. -/
def openRead (bar4 : Bool) (a : Nat) (s : State) : State :=
  { s with spl.nextOp := s.spl.nextOp + 1,
           spl.reads := s.spl.reads ++ [{ id := s.spl.nextOp, window := (winAt s bar4 a).getD 0, parts := [{ op := s.spl.nextOp }] }] }

/-- All operations of a host read are under way: the part that stands for none is complete, and the read is, where no other is
left. -/
def closeRead (req : Nat) (s : State) : State :=
  let s := { s with spl.reads := s.spl.reads.map (fun r =>
    if r.id = req then { r with parts := r.parts.map (fun p => if p.op = req && p.result.isNone then { p with result := some (0, false, []) } else p) } else r) }
  match s.spl.reads.find? (fun r => r.id = req) with
  | some r => readDone r s
  | none => s

/-- HOST_APERTURE_READ (R470): a host read of up to 4,096 bytes; with the function in D3hot or D12 off there is none. -/
def execHostApertureRead (bar4 : Bool) (a : BitVec 30) (len : Fin 4097) (s : State) : Ans :=
  if !reaches s .host then .next (turnedAway .host s)
  else .next (pump (closeRead s.spl.nextOp (readFrom s.spl.nextOp bar4 (len.val + 1) a.toNat len.val (openRead bar4 a.toNat s))))

/-- The atomic operation of a window (R213), with its code of Table 7.7 or, for an AMO without one, 8 to 14. Its operands are big-endian on
the wire (log 36). -/
def atomicOp (s : State) (w woff code n : Nat) (operand compare : BitVec 64) (who : Requester) : Op :=
  let d := if code = 5 then beBytes n compare.toNat ++ beBytes n operand.toNat else beBytes n operand.toNat
  { winOp s w woff n (.atomic code) who with data := d }

/-- The number of an AMO among the atomics. -/
def amoNumber : AmoOp → Nat
  | .add => 3 | .swap => 4 | .xor => 8 | .and => 9 | .or => 10 | .min => 11 | .max => 12 | .minu => 13 | .maxu => 14

/-- HOST_ATOMIC_OP (R213): FetchAdd, Swap or CAS on 32 or 64 bits. -/
def execHostAtomicOp (bar4 : Bool) (a : BitVec 30) (op : Fin 3) (wide : Bool) (operand compare : BitVec 64) (s : State) : Ans :=
  if !reaches s .host then .next (turnedAway .host s)
  else match winAt s bar4 a.toNat with
    | none => .next (emit (.spliceResult .host 0 0 (List.replicate (if wide then 8 else 4) 0xFF)) (unmapped .host s))
    | some w => .next (pump (acceptOp (atomicOp s w (a.toNat - winCfg s w 2) (op.val + 3) (if wide then 8 else 4) operand compare .host) s))

/-- Bytes of a core access. -/
def accessSize : CoreAccess → Nat
  | .load n => n
  | .store d => d.length
  | .amo _ n _ => n
  | .lrSc => 4

/-- A size that a core access may have (R410). -/
def coreSize (n : Nat) : Bool := n = 1 || n = 2 || n = 4 || n = 8

/-- An access of a core to a splice aperture (R28, R196, R213, R410). -/
def coreAperture (bar4 : Bool) (a n : Nat) (x : CoreAccess) (s : State) : State :=
  if a % n ≠ 0 then emit .coreFault s
  else match (if domOn s .d10 then winAt s bar4 a else none) with
    | none => unmapped .core s
    | some w =>
      let woff := a - winCfg s w 2
      match x with
      | .load n => pump (coreRead w woff n s)
      | .store d => writeAccess w woff d .core s
      | .amo op n operand => pump (acceptOp (atomicOp s w woff (amoNumber op) n operand 0 .core) s)
      | .lrSc => emit .coreFault s

/-- A doorbell of window w (R207). -/
def doorbellSend (who : Requester) (w : Nat) (v : Word) (s : State) : State :=
  if !winOpen s w then unmapped who s
  else pump (acceptOp { winOp s w 0 4 .doorbell who with offset := 0, data := beBytes 4 v.toNat } s)

/-- An acquire through window w (R210). -/
def semAcquire (who : Requester) (w : Nat) (s : State) : State :=
  if !winOpen s w then unmapped who s
  else pump (acceptOp (winOp s w 0 1 .acquire who) { s with spl.semState := tset s.spl.semState w 1 })

/-- A release through window w (R211). -/
def semRelease (who : Requester) (w : Nat) (s : State) : State :=
  if !winOpen s w then unmapped who s
  else pump (acceptOp (winOp s w 0 1 .release who) { s with spl.semState := tdel s.spl.semState w })

/-- WIN_DOORBELL_WRITE (R207, R408). -/
def execWinDoorbellWrite (who : Requester) (w : Fin 64) (v : Word) (s : State) : Ans :=
  if reaches s who then .next (doorbellSend who w.val v s) else .next s

/-- WIN_SEM_ACQUIRE (R210). -/
def execWinSemAcquire (who : Requester) (w : Fin 64) (s : State) : Ans :=
  if reaches s who then .next (semAcquire who w.val s) else .next s

/-- WIN_SEM_RELEASE (R211). -/
def execWinSemRelease (who : Requester) (w : Fin 64) (s : State) : Ans :=
  if reaches s who then .next (semRelease who w.val s) else .next s

/-! ### Answers (R100, R222, R226, R227, R233) -/

/-- The check of an answer against the CSCs its operation was sent with; one that matches nothing is checked with the CSC
it carries (log 39). -/
def answerCheck (b : Bulis) (cscs : List Word) : Bool := cscs.any (fun c => bulisSum b c = b.check)

/-- A header error of R223, apart from the DST_UID rules. -/
def headerBad (b : Bulis) : Bool :=
  b.version ≠ 1 || 1024 < b.plen || b.payload.length < b.plen
    || !([1, 2, 3, 4, 5, 6, 7, 0x10, 0x11, 0x20, 0x21, 0x22, 0x23, 0x30, 0x40].contains b.type)

/-- The destination is no destination of this node (R223). -/
def dstBad (s : State) (b : Bulis) : Bool :=
  (b.dst ≠ s.uid && b.dst ≠ groupUid && b.dst ≠ 0) || (b.dst = 0 && b.type ≠ 0x40 && b.type ≠ 0x10)

/-- The frame with its payload cut to PAYLOAD_LEN: padding is ignored (R218). -/
def unpad (b : Bulis) : Bulis := { b with payload := b.payload.take b.plen }

/-- The transport discards a frame at its header or its check, with its counter (R222, R223). -/
def headerDrop (s : State) : State := bump 0x50050 s
def checkDrop (s : State) : State := bump 0x5004C s

/-- A late answer (R226, R233, R252). -/
def lateAnswer (b : Bulis) (s : State) : State := if b.stream < 16 then bump 0x50064 s else s

/-- A stale-topology ACK: the operation is sent again at once, within its budget (R100, R227). -/
def staleResend (o : Op) (s : State) : State := if s.up < o.firstTx + retryBudget s then resendOp o s else s

/-- The operations an ACK with STATUS 0 acknowledges (R226). -/
def ackCovers (b : Bulis) (o : Op) : Bool :=
  o.target = b.src && o.stream == b.stream && !o.nonPosted && (match o.seq with
    | some q => q = b.seq || laterThan 32 b.seq.toNat q.toNat
    | none => false)

/-- An ACK acts on what it answers (R226); a STATUS outside R235 closes the operation with it (log 170). -/
def ackApply (b : Bulis) (o : Op) (s : State) : State :=
  if b.flags.testBit 3 then staleResend o s
  else if o.nonPosted then lateAnswer b s
  else if b.status = 0 then closeBatch (fun q => if ackCovers b q then some (cOk, true) else none) s
  else closeOne o b.status true [] s

/-- An ACK arrives (R222, R223, R226). -/
def ackIn (b : Bulis) (s : State) : State :=
  let b := unpad b
  if headerBad b || dstBad s b then headerDrop s
  else match s.spl.ops.find? (fun o => o.target = b.src && o.stream = b.stream && o.seq = some b.seq) with
    | none => if answerCheck b [b.csc] then lateAnswer b s else checkDrop s
    | some o => if answerCheck b o.cscs then fencesGoOn (pump (ackApply b o s)) else checkDrop s

/-- A COMPLETION arrives (R222, R233). An acquire granted after its timeout is released at once (Table 8.6). -/
def completionIn (b : Bulis) (s : State) : State :=
  let b := unpad b
  if headerBad b || dstBad s b then headerDrop s
  else match s.spl.ops.find? (fun o => o.nonPosted && o.target = b.src && o.stream = b.stream && o.seq = some b.seq && o.tag = some b.tag) with
    | none => if answerCheck b [b.csc] then lateAnswer b s else checkDrop s
    | some o =>
      if !answerCheck b o.cscs then checkDrop s
      else
        let data := (b.payload.drop 8).take (opHead b.payload).len
        let grant := o.expired && o.kind = .acquire && b.status = 0
        let s := answerNp o b.status (if b.status = 0 then data else []) s
        let s := if grant then
            acceptOp { kind := .release, who := o.who, window := o.window, stream := o.stream, target := o.target, region := o.region,
                       offset := o.offset, woff := o.woff, len := 1, bound := true } s
          else s
        fencesGoOn (pump s)

/-- BULIS_ACK_RECEIVE (R226). -/
def execBulisAckReceive (b : Bulis) (s : State) : Ans := if b.type = 6 then .next (ackIn b s) else .next s

/-- COMPLETION_RECEIVE (R233). -/
def execCompletionReceive (b : Bulis) (s : State) : Ans := if b.type = 4 then .next (completionIn b s) else .next s

/-! ### Timers (R210, R212, R215, R227, R228, R234) -/

/-- The transmitted operation of a target, stream and sequence. -/
def opAt (s : State) (u : Uid) (stream : Nat) (q : Word) : Option Op :=
  s.spl.ops.find? (fun o => o.target = u && o.stream = stream && o.seq = some q)

/-- BULIS_ACK_TIMEOUT (R227, R251): no answer within the acknowledgement timeout: it is sent again, at most the retry
limit times. -/
def execBulisAckTimeout (u : Uid) (stream : Byte) (q : Word) (s : State) : Ans :=
  match opAt s u stream.toNat q with
  | none => .next s
  | some o =>
    let t := o.lastTx + cfg s 0x2702 0 * pf
    if cfg s 0x2703 0 ≤ o.attempts || o.firstTx + retryBudget s ≤ t then .next s
    else
      let s := passTo t s
      .next (resendOp { o with attempts := o.attempts + 1 } s)

/-- COMPLETION_TIMEOUT (R218, R234): the completion timeout of the record with this tag passes. -/
def execCompletionTimeout (tag : BitVec 9) (s : State) : Ans :=
  match s.spl.ops.find? (fun o => o.tag = some tag.toNat) with
  | none => .next s
  | some o =>
    let limit := winCfg s o.window 0x0A * pf
    match o.tryFrom, o.seq with
    | some t, _ => .next (fencesGoOn (pump (closeOne o cTimeout false [] (passTo (t + limit) s))))
    | none, some _ => .next (fencesGoOn (pump (closeOne o cTimeout false [] (passTo (o.firstTx + limit) s))))
    | none, none =>
      if (opMac s o).isSome || o.target = s.uid then .next s
      else .next (fencesGoOn (pump (closeOne o cTargetAbsent false [] (passTo (o.accepted + limit) s))))

/-- SEM_RETRY_TIMER (R210): 16 pf after SEM_HELD the next try is sent. -/
def execSemRetryTimer (tag : BitVec 9) (s : State) : Ans :=
  match s.spl.ops.find? (fun o => o.tag = some tag.toNat) with
  | none => .next s
  | some o =>
    match o.retryAt with
    | none => .next s
    | some t => .next (pump (passTo t s))

/-- SEM_ACQUIRE_TIMEOUT (R210, Table 8.6): the acquire timeout passes since the first try. With a try outstanding the
result waits for its answer. -/
def execSemAcquireTimeout (tag : BitVec 9) (s : State) : Ans :=
  match s.spl.ops.find? (fun o => o.tag = some tag.toNat) with
  | none => .next s
  | some o =>
    match o.tryFrom with
    | none => .next s
    | some t =>
      let s := passTo (t + cfg s 0x2705 0 * pf) s
      if o.seq.isSome then .next (setOp { o with expired := true } s)
      else .next (fencesGoOn (pump (closeOne o cSemTimeout true [] s)))

/-- SEM_HOLD_LIMIT (R212): a semaphore has been held for the hold limit. The break comes at the end of the perf in which the limit is
reached: a release of its owner in that perf applies first (Table 7.9). -/
def execSemHoldLimit (n : Fin 64) (s : State) : Ans :=
  match tfind s.spl.sems n.val with
  | none => .next s
  | some x =>
    let s := passTo (x.since + cfg s 0x2706 0 * fr) s
    let s := passToInstant (nextPerf s.now) s
    let s := bump 0x50070 { s with spl.sems := tdel s.spl.sems n.val }
    .next (fire 15 4 ([BitVec.ofNat 8 n.val, 0] ++ beBytes 6 x.uid.toNat) s)

/-- PREFETCH_LIFETIME_EXPIRY (R215): unused read-ahead data outlives its lifetime. -/
def execPrefetchLifetimeExpiry (s : State) : Ans :=
  match s.spl.fetched with
  | [] => .next s
  | x :: _ => .next (discardFetched x (passTo (x.arrived + cfg s 0x2708 0 * pf) s))

/-- COMPLETION_RETENTION_EXPIRY (R228): the kept completion of a source, stream and sequence is dropped. -/
def execCompletionRetentionExpiry (u : Uid) (stream : Byte) (q : Word) (s : State) : Ans :=
  match s.spl.kept.find? (fun k => k.uid = u && k.stream = stream.toNat && k.seq = q) with
  | none => .next s
  | some k =>
    let s := passTo k.until_ s
    .next { s with spl.kept := s.spl.kept.filter (fun x => x ≠ k) }

/-- The receive states of a source on a stream: of its unicast, its group and its link-local frames (R224). -/
def recvOf (u : Uid) (stream : Nat) (r : RecvSt) : Bool := r.uid = u && r.stream % 256 == stream

/-- BULIS_RX_FORGET (R225): a source and stream has been silent for 16 rl. -/
def execBulisRxForget (u : Uid) (stream : Byte) (s : State) : Ans :=
  match s.spl.receivers.find? (recvOf u stream.toNat) with
  | none => .next s
  | some r =>
    let s := passTo (r.lastAt + 16 * rl) s
    let keep (x : RecvSt) : Bool := !(recvOf u stream.toNat x && decide (x.lastAt + 16 * rl ≤ s.up))
    .next { s with spl.receivers := s.spl.receivers.filter keep }

/-- A disabled bridge, window, stream or region has nothing left in flight (R237, R255). -/
def spliceDrained (x : SpliceUnit) (s : State) : State :=
  match x with
  | .bridge => if !cfgOn s 0x2701 0 && splIdle s then { s with spl.drained := true } else s
  | .window w =>
    if winCfg s w.val 1 ≠ 1 && countOps s (fun o => (o.posted || o.nonPosted) && o.window == w.val) = 0 then
      { s with spl.winDrained := putBit s.spl.winDrained w.val true }
    else s
  | .region r => if regCfg s r.val 1 ≠ 1 then { s with spl.regDrained := putBit s.spl.regDrained r.val true } else s
  | .stream n =>
    if !streamOn s n.val && countOps s (fun o => (o.posted || o.nonPosted) && o.stream == n.val) = 0 then
      { s with spl.stmDrained := putBit s.spl.stmDrained n.val true }
    else s

/-! ### Logs, fence, abort, forced disable -/

/-- The oldest completion error is removed (R236). -/
def cePop (s : State) : State := { s with spl.ce := s.spl.ce.tail }

/-- The oldest posted failure is removed (R249). -/
def pwfPop (s : State) : State := { s with spl.pwf := s.spl.pwf.tail }

/-- A core write outside the places of R408: a store access fault. -/
def coreDenied (s : State) : State := emit .coreFault (bump 0x90040 s)

/-- A write to a pop register: its owner's, the host's or, where the function is theirs, the cores' (R409, log 40). -/
def popBy (who : Requester) (n : Nat) (f : State → State) (s : State) : State :=
  if !reaches s who then s else if featDenied s who n then bump 0x90044 s else f s

/-- CE_POP (R236, R409). -/
def execCePop (who : Requester) (s : State) : Ans := .next (popBy who 1 cePop s)

/-- PWF_POP (R249, R409). -/
def execPwfPop (who : Requester) (s : State) : Ans := .next (popBy who 2 pwfPop s)

/-- DB_VALUE_READ (R207, R409, R475): the read returns the value and removes the entry. -/
def execDbValueRead (who : Requester) (s : State) : Ans :=
  if !reaches s who then .next (turnedAway who s)
  else if featDenied s who 0 then .next (bump 0x90044 (emit (.readData who 0x5310C 0) s))
  else
    let v := (s.spl.db.head?.map (·.value)).getD 0
    .next (emit (.readData who 0x5310C v) { s with spl.db := s.spl.db.tail })

/-- Streams whose bits are set are to be fenced (R245). -/
def fenceMask (mask : Nat) (s : State) : State :=
  ((List.range 16).filter (fun n => mask.testBit n)).foldl fenceRequest s

/-- STM_FENCE (R245). -/
def execStmFence (who : Requester) (mask : BitVec 16) (s : State) : Ans :=
  if reaches s who then .next (fenceMask mask.toNat s) else .next s

/-- FENCE_FRAMES_SEND (R245, R246): nothing of the FENCED stream is in flight any more. -/
def execFenceFramesSend (n : Fin 16) (s : State) : Ans := .next (fenceSend n.val s)

/-- ABORT_GO (R253): the host aborts the non-posted operations of window w. -/
def execAbortGo (w : Fin 64) (s : State) : Ans := if reaches s .host then .next (abortWindow w.val s) else .next s

/-- SPL_FORCE_DISABLE (R256). -/
def execSplForceDisable (s : State) : Ans := if reaches s .host then .next (splForce s) else .next s

/-- WIN_FORCE_DISABLE (R256). -/
def execWinForceDisable (w : Fin 64) (s : State) : Ans := if reaches s .host then .next (winForce w.val s) else .next s

/-- STM_FORCE_DISABLE (R256). -/
def execStmForceDisable (n : Fin 16) (s : State) : Ans := if reaches s .host then .next (stmForce n.val s) else .next s

end Sys2Proof.Machine
end

