-- ==== Sys2Proof/Machine/Check.lean ====
section
/-!
DEFINITION. Machine/Check.lean: the software engine of the check unit (R267 to R270).
-/
namespace Sys2Proof.Machine

/-- A write was refused under Table 9.5. -/
def chkCollide (s : State) : State := { s with chk.collision := true }

/-- The engine at START: the register loaded, the prefix processed where PREFIX_EN is 1 (R267). -/
def chkLoad (s : State) : Word :=
  if s.chk.prefixEn then crcBytes crcStart (checkPrefix s.chk.dst s.chk.src s.chk.seq s.chk.csc) else crcStart

/-- START (R267, Table 9.5). -/
def chkStart (s : State) : State :=
  if !s.chk.enable then s
  else if s.chk.run ≠ .idle then chkCollide s
  else { s with chk.run := .stream, chk.crc := chkLoad s, chk.count := 0 }

/-- Data bytes of a streaming run (R267). -/
def chkData (l : List Byte) (s : State) : State :=
  if !s.chk.enable then s
  else if s.chk.run ≠ .stream then chkCollide s
  else { s with chk.crc := crcBytes s.chk.crc l, chk.count := (s.chk.count + l.length) % 2 ^ 27 }

/-- DONE: bit 20 while IRQ_EN is 1 (R267). -/
def chkSetDone (s : State) : State :=
  let s := { s with chk.done := true }
  if s.chk.irqEn then raiseIrq 20 s else s

/-- A run ends with its result (R267). -/
def chkResult (c : Word) (s : State) : State :=
  chkSetDone (bump 0x60040 { s with chk.run := .idle, chk.result := c ^^^ 0xFFFFFFFF, chk.crc := c })

/-- FINISH (R267, Table 9.5). -/
def chkFinish (s : State) : State := if s.chk.run = .stream then chkResult s.chk.crc s else chkCollide s

/-- GO (R267, Table 9.5). -/
def chkGo (s : State) : State :=
  if !s.chk.enable then s
  else if s.chk.run ≠ .idle then chkCollide s
  else { s with chk.run := .descriptor, chk.crc := chkLoad s, chk.count := 0 }

/-- ENABLE is cleared (R268): an open streaming run closes without a result; a descriptor run completes. -/
def chkDisable (s : State) : State :=
  { s with chk.enable := false, chk.run := if s.chk.run = .stream then .idle else s.chk.run }

/-- A write to CHK_CTRL, CHK_DATA or CHK_DATA8 by its owner (R409). -/
def chkBy (who : Requester) (f : State → State) (s : State) : State :=
  if !reaches s who then s else if featDenied s who 5 then bump 0x90044 s else f s

/-- CHK_START (R267). -/
def execChkStart (who : Requester) (s : State) : Ans := .next (chkBy who chkStart s)

/-- CHK_DATA (R267): four bytes, bits [7:0] first. -/
def execChkData (who : Requester) (v : Word) (s : State) : Ans := .next (chkBy who (chkData (leBytes 4 v.toNat)) s)

/-- CHK_DATA8 (R267). -/
def execChkData8 (who : Requester) (b : Byte) (s : State) : Ans := .next (chkBy who (chkData [b]) s)

/-- CHK_FINISH (R267). -/
def execChkFinish (who : Requester) (s : State) : Ans := .next (chkBy who chkFinish s)

/-- CHK_GO (R267). -/
def execChkGo (who : Requester) (s : State) : Ans := .next (chkBy who chkGo s)

/-- A descriptor run that has processed n data bytes ends without a result (Table 9.5): ERR and bit 20; IRQ_EN is for DONE alone
(Table 9.4). COUNT gives the bytes (R267). -/
def chkFail (n : Nat) (s : State) : State := raiseIrq 20 { s with chk.run := .idle, chk.err := true, chk.count := n }

/-- A descriptor run loses its memory: how many bytes it has processed is not stated, a free value of at most CHK_LEN (log 204). -/
def chkLost (s : State) : State :=
  let (n, s) := nextFree s
  chkFail (Config.value n % (s.chk.len + 1)) s

/-- CHK_DESCRIPTOR_DONE (R267, R270): the run has read CHK_LEN bytes of DRAM, given by the command, or ended, after the bytes given, at an
ECC error or with D10 off: ERR and bit 20, without a result. -/
def execChkDescriptorDone (eccError : Bool) (data : List Byte) (s : State) : Ans :=
  if s.chk.run ≠ .descriptor then .next s
  else if eccError || !domOn s .d10 then
    .next (chkFail (min data.length s.chk.len) s)
  else
    let l := padTo s.chk.len data
    .next (chkResult (crcBytes s.chk.crc l) { s with chk.count := l.length % 2 ^ 27 })

/-- CHK_DISABLE (R268): CHK_CTRL.ENABLE is written with 0. -/
def execChkDisable (who : Requester) (s : State) : Ans := .next (chkBy who chkDisable s)

end Sys2Proof.Machine
end

