-- ==== Sys2Proof/Machine/Process.lean ====
section
/-!
DEFINITION. Machine/Process.lean: legacy buses and the process-data bridge (chapter 10).
-/
namespace Sys2Proof.Machine

/-! ### Objects (R274 to R277) -/

/-- An error condition of Table 10.7: its bit, and bit 19 while unmasked (R286). -/
def pdbError (b : Nat) (s : State) : State :=
  let s := { s with pdb.errStatus := putBit s.pdb.errStatus b true }
  if s.pdb.errMask.getLsbD b then raiseIrq 19 s else s

def setCan (c : Nat) (x : CanSt) (s : State) : State := { s with pdb.cans := tset s.pdb.cans c x }
def setSrc (n : Nat) (x : SrcSt) (s : State) : State := { s with pdb.srcs := tset s.pdb.srcs n x }
def setSink (n : Nat) (x : SinkSt) (s : State) : State := { s with pdb.sinks := tset s.pdb.sinks n x }

/-- The bytes of a DLC code (Table 10.8). -/
def dlcBytes (c : Nat) : Nat :=
  match c with
  | 9 => 12 | 10 => 16 | 11 => 20 | 12 => 24 | 13 => 32 | 14 => 48 | 15 => 64
  | n => n

/-- A value of CAN port c's object i: the index of CAN 2 is 8 above that of CAN 1 (R287). -/
def canObj (s : State) (idx c i : Nat) : Nat := cfg s (idx + 8 * c) (i + 1)

/-- The MVB port entry i (0x2820). -/
def mvbEntry (s : State) (i : Nat) : Nat := cfg s 0x2820 (i + 1)

/-- The length of the object of a kind and index, in bytes (Table 10.2, Table 10.8). -/
def pdLen (s : State) (kind i : Nat) : Nat :=
  match kind with
  | 0 => dlcBytes (canObj s 0x2812 0 i % 16)
  | 1 => dlcBytes (canObj s 0x2812 1 i % 16)
  | 2 => 2 * 2 ^ (mvbEntry s i / 2 ^ 16 % 8)
  | 3 => cfg s 0x283B (i + 1)
  | _ => cfg s 0x2831 (i + 1)

/-- Source n is enabled in a source's role (Table 10.2). -/
def srcEnabled (s : State) (n : Nat) : Bool :=
  let i := n % 64
  match n / 64 with
  | 0 => (canObj s 0x2810 0 i).testBit 31 && !(canObj s 0x2810 0 i).testBit 30
  | 1 => (canObj s 0x2810 1 i).testBit 31 && !(canObj s 0x2810 1 i).testBit 30
  | 2 => (mvbEntry s i).testBit 31 && !(mvbEntry s i).testBit 30
  | _ => cfg s 0x2838 (i + 1) ≠ 0

/-- The freshness limit of source n, in fr (R280). -/
def srcLimit (s : State) (n : Nat) : Nat :=
  let i := n % 64
  match n / 64 with
  | 0 => canObj s 0x2815 0 i
  | 1 => canObj s 0x2815 1 i
  | 2 => cfg s 0x2821 (i + 1)
  | _ => cfg s 0x283A (i + 1)

/-- A sink is enabled in a sink's role. -/
def sinkEnabled (s : State) (kind i : Nat) : Bool :=
  match kind with
  | 0 => (canObj s 0x2810 0 i).testBit 31 && (canObj s 0x2810 0 i).testBit 30
  | 1 => (canObj s 0x2810 1 i).testBit 31 && (canObj s 0x2810 1 i).testBit 30
  | 2 => (mvbEntry s i).testBit 31 && (mvbEntry s i).testBit 30
  | 4 => cfg s 0x2830 (i + 1) ≠ 0
  | _ => false

/-- The minimum interval in ticks, and the refresh interval in ticks, 0 for none. -/
def sinkTimes (s : State) (kind i : Nat) : Nat × Nat :=
  match kind with
  | 0 => (canObj s 0x2813 0 i * pf, canObj s 0x2814 0 i * fr)
  | 1 => (canObj s 0x2813 1 i * pf, canObj s 0x2814 1 i * fr)
  | 4 => (cfg s 0x2834 (i + 1) * pf, cfg s 0x2835 (i + 1) * fr)
  | _ => (0, 0)

/-! ### The signal map (R277) -/

/-- A mapping (Table 10.3). -/
structure Mapping where
  src : Nat
  kind : Nat
  index : Nat
  srcLe : Bool
  sinkLe : Bool
  useDefault : Bool
  srcBit : Nat
  sinkBit : Nat
  len : Nat
  valid : Option Nat
  sinkTime : Nat
  default_ : Nat
deriving DecidableEq, Repr

/-- One entry of 24 bytes. -/
def mappingOf (b : List Byte) : Mapping :=
  let at_ (i : Nat) := (b.getD i 0).toNat
  let flags := at_ 3
  let v := beNat ((b.drop 10).take 2)
  { src := at_ 0, kind := at_ 1, index := at_ 2, srcLe := flags.testBit 7, sinkLe := flags.testBit 6, useDefault := flags.testBit 5,
    srcBit := beNat ((b.drop 4).take 2), sinkBit := beNat ((b.drop 6).take 2), len := at_ 8,
    valid := if v = 0xFFFF then none else some v, sinkTime := beNat ((b.drop 12).take 2), default_ := beNat ((b.drop 16).take 8) }

/-- The entries of the map. -/
def mappingsOf : Nat → List Byte → List Mapping
  | 0, _ => []
  | n + 1, b => if b.length < 24 then [] else mappingOf (b.take 24) :: mappingsOf n (b.drop 24)

/-- The map in force. -/
def signalMap (s : State) : List Mapping :=
  let b := valBytes (valOf s (key 0x2840 0))
  mappingsOf (b.length / 24) b

/-- The place of a bit offset: byte, and bit in it (R277). -/
def bitPlace (le : Bool) (b : Nat) : Nat × Nat := (b / 8, if le then b % 8 else 7 - b % 8)

/-- A bit of an object's data. -/
def dataBit (le : Bool) (d : List Byte) (b : Nat) : Bool :=
  let (i, j) := bitPlace le b
  (d.getD i 0).getLsbD j

/-- The data with one bit written. -/
def putDataBit (le : Bool) (d : List Byte) (b : Nat) (v : Bool) : List Byte :=
  let (i, j) := bitPlace le b
  d.set i (putBit (d.getD i 0) j v)

/-- The value of a field: most significant bit first, or least significant first (R277). -/
def getField (le : Bool) (d : List Byte) (b len : Nat) : Nat :=
  (List.range len).foldl (fun v k =>
    if dataBit le d (b + k) then v + 2 ^ (if le then k else len - 1 - k) else v) 0

/-- The data with a field written. -/
def putField (le : Bool) (d : List Byte) (b len v : Nat) : List Byte :=
  (List.range len).foldl (fun d k => putDataBit le d (b + k) (v.testBit (if le then k else len - 1 - k))) d

/-! ### Assembly (R278, R281) -/

/-- The bridge is there: D2 on, one complete plane (Table 1.6). -/
def pdbThere (s : State) : Bool := domOn s .d2 && (planeComplete s .a || planeComplete s .b)

/-- The bridge acts: it is there and enabled. -/
def pdbActive (s : State) : Bool := cfgOn s 0x2801 0 && pdbThere s

/-- The number of a sink. -/
def sinkNo (kind i : Nat) : Nat := 64 * kind + i

/-- A signal is stale at its sink: by its source, and by sink-time, whether or not the source is STALE too (R281). -/
def staleBySource (s : State) (m : Mapping) : Bool := !(srcSt s m.src).fresh
def staleByTime (s : State) (m : Mapping) : Bool :=
  m.sinkTime ≠ 0 && (match (srcSt s m.src).instant with
    | some t => decide (t.toNat + m.sinkTime * fr < s.now.toNat)
    | none => false)

/-- One signal written into a sink's data (R281). -/
def putSignal (s : State) (d : List Byte) (m : Mapping) : List Byte :=
  let stale := staleBySource s m || staleByTime s m
  let d := if !stale then putField m.sinkLe d m.sinkBit m.len (getField m.srcLe (srcSt s m.src).data m.srcBit m.len)
    else if m.useDefault then putField m.sinkLe d m.sinkBit m.len m.default_
    else d
  match m.valid with
  | some b => putDataBit m.sinkLe d b (!stale)
  | none => d

/-- The mappings into a sink. -/
def mapsInto (s : State) (kind i : Nat) : List Mapping := (signalMap s).filter (fun m => m.kind = kind && m.index = i)

/-- A sink's content is assembled: its data, and whether a signal was stale; sink-time staleness is counted (R281). -/
def assemble (kind i : Nat) (s : State) : List Byte × Bool × State :=
  let maps := mapsInto s kind i
  let d := maps.foldl (putSignal s) (padTo (pdLen s kind i) (sinkSt s (sinkNo kind i)).data)
  let late := (maps.filter (staleByTime s)).length
  let any := maps.any (fun m => staleBySource s m || staleByTime s m)
  (d, any, if late = 0 then s else pdbError 7 (bumpBy 0x680A4 late s))

/-- An update is pending at a sink: a source mapped into it has one since the last emission (R278). -/
def sinkPending (s : State) (kind i : Nat) : Bool := (mapsInto s kind i).any (fun m => decide ((sinkSt s (sinkNo kind i)).seen < (srcSt s m.src).update))

/-- An MVB source port's buffer is rewritten where an update is pending (R279). -/
def mvbRewrite (s : State) (i : Nat) : State :=
  if !sinkEnabled s 2 i || !sinkPending s 2 i then s
  else
    let (d, _, s) := assemble 2 i s
    setSink (sinkNo 2 i) { sinkSt s (sinkNo 2 i) with data := d, seen := s.pdb.updates } s

/-- The MVB buffers follow their sources and the map (R279). -/
def mvbFollow (s : State) : State := (List.range 64).foldl mvbRewrite s

/-- Source n has an update, which is pending at every sink it is mapped into; MVB buffers are rewritten (R278, R279). -/
def srcUpdate (n : Nat) (s : State) : State :=
  let k := s.pdb.updates + 1
  mvbFollow { setSrc n { srcSt s n with update := k } s with pdb.updates := k }

/-- A source has received data with a source instant (R280, R281). -/
def srcArrive (n : Nat) (d : List Byte) (t : Instant) (s : State) : State :=
  srcUpdate n (setSrc n { data := d, instant := some t, fresh := true, lastAt := s.up } s)

/-! ### Emission (R278, R282) -/

/-- The address of counter o of CAN port c. -/
def canReg (c o : Nat) : Nat := 0x68040 + 0x20 * c + o

/-- The frames of a port in identifier order (R274). -/
def insertById (f : CanTx) : List CanTx → List CanTx
  | [] => [f]
  | x :: r => if f.id < x.id then f :: x :: r else x :: insertById f r

/-- A waiting frame gives way to a later one of the same transmit object (R274, R278). -/
def replacedBy (f x : CanTx) : Bool :=
  match f.load, x.load with
  | .object i _, .object j _ => i == j
  | _, _ => false

/-- A frame is queued on a port: of a transmit object, only the latest content waits (log 205). -/
def canQueue (f : CanTx) (l : List CanTx) : List CanTx := insertById f (l.filter (fun x => !replacedBy f x))

/-- A port may start frames: on the bus, and not listening only (R273). -/
def canSpeaks (s : State) (c : Nat) : Bool := decide ((canSt s c).state < 2) && !cfgOn s 0x2806 (c + 1)

/-- The first frame that waits on a port with a free bus starts, at the instant t. How long it takes until it has been sent is not stated: a
free value of at most 2 fr (R284, log 206). -/
def canStartNext (c t : Nat) (s : State) : State :=
  let x := canSt s c
  match x.bus, x.queue with
  | none, f :: r =>
    if !canSpeaks s c then s
    else
      let (n, s) := nextFree s
      setCan c { x with queue := r, bus := some (f, t + 1 + Config.value n % (2 * fr)) } s
  | _, _ => s

/-- The frames of a port that have ended by now have been sent: each counts (R286), and the next one starts. -/
def canSettleN (c : Nat) : Nat → State → State
  | 0, s => s
  | n + 1, s =>
    match (canSt s c).bus with
    | some (f, t) =>
      if s.up < t then s
      else canSettleN c n (canStartNext c t (bump (canReg c 4) (emit (.can c f) (setCan c { canSt s c with bus := none } s))))
    | none => s

def canSettle (c : Nat) (s : State) : State := canSettleN c ((canSt s c).queue.length + 1) s

/-- A frame is to be sent on a CAN port (R274): it waits for the bus, during bus-off for the recovery. A stopped port or one that only
listens takes none. -/
def canPut (c : Nat) (f : CanTx) (s : State) : State :=
  let s := canSettle c s
  let x := canSt s c
  if x.state = 3 || cfgOn s 0x2806 (c + 1) then s
  else canStartNext c s.up (setCan c { x with queue := canQueue f x.queue } s)

/-- A CAN transmit object goes out with its data. -/
def canSend (c i : Nat) (d : List Byte) (s : State) : State :=
  let w := canObj s 0x2810 c i
  canPut c { ext := w.testBit 29, id := w % 2 ^ 29, load := .object i d } s

/-- The published frame (R282, Table 10.4). -/
def pdFrame (s : State) (i : Nat) (d : List Byte) (any restart : Bool) (seq : Word) (t : Instant) : Frame :=
  let h := [1, BitVec.ofNat 8 (bit 7 any + bit 6 (timeValid s) + bit 5 restart)] ++ beBytes 2 d.length ++ beBytes 4 (cfg s 0x2830 (i + 1))
    ++ beBytes 6 s.uid.toNat ++ [0, 0] ++ beBytes 4 seq.toNat ++ beBytes 4 (activeCsc s).toNat ++ beBytes 8 t.toNat
  let c := checkOf groupUid s.uid seq (activeCsc s) (h ++ d)
  { dst := BitVec.ofNat 48 (cfg s 0x2832 (i + 1)), src := s.baseMac + 19, pcp := some (cfg s 0x2833 (i + 1)), etherType := etPd,
    payload := h ++ d ++ beBytes 4 c.toNat, len := frameLen true (36 + d.length) }

/-- The earliest source instant among the mapped signals that have arrived; where none has, a free value (log 41). -/
def sampleInstant (kind i : Nat) (s : State) : Instant × State :=
  let l := (mapsInto s kind i).filterMap (fun m => (srcSt s m.src).instant.map (·.toNat))
  match l with
  | [] =>
    let (n, s) := nextFree s
    (BitVec.ofNat 64 (Config.value n), s)
  | a :: r => (BitVec.ofNat 64 (r.foldl min a), s)

/-- A published dataset is emitted (R282). -/
def publish (i : Nat) (d : List Byte) (any : Bool) (s : State) : State :=
  let x := sinkSt s (sinkNo 4 i)
  let (t, s) := sampleInstant 4 i s
  let f := pdFrame s i d any x.restart x.seq t
  let s := setSink (sinkNo 4 i) { x with seq := x.seq + 1, restart := false } s
  bump 0x6808C (sendInternal 19 f s)

/-- A sink is emitted now. -/
def emitSink (kind i : Nat) (s : State) : State :=
  let (d, any, s) := assemble kind i s
  let s := match kind with
    | 4 => publish i d any s
    | c => canSend c i d s
  let n := sinkNo kind i
  setSink n { sinkSt s n with seen := s.pdb.updates, lastAt := some s.up, data := d } s

/-- When a sink's emission is due, if it is (R278). -/
def sinkDue (s : State) (kind i : Nat) : Option Nat :=
  let x := sinkSt s (sinkNo kind i)
  let (m, r) := sinkTimes s kind i
  let upd := if sinkPending s kind i then some ((x.lastAt.map (· + m)).getD s.up) else none
  let ref := if r = 0 then none else some ((x.lastAt.map (· + r)).getD s.up)
  earlier upd ref

/-! ### Meanings -/

/-- CAN error counters and fault confinement as the controller finds them (ISO 11898-1). -/
def canErrors (c : Nat) (errs : Nat) (tec : BitVec 9) (rec_ : Byte) (s : State) : State :=
  let x := canSt s c
  let s := if errs = 0 then s else bumpBy (canReg c 8) errs s
  let passive := decide (127 < tec.toNat ∨ 127 < rec_.toNat)
  let s := setCan c { x with tec := tec.toNat, rec_ := rec_.toNat, state := if 2 ≤ x.state then x.state else if passive then 1 else 0 } s
  if passive && x.state = 0 then pdbError (2 * c) s else s

/-- Receive object i of CAN port c takes an identifier (R273). -/
def canHit (s : State) (c : Nat) (ext : Bool) (id : BitVec 29) (i : Nat) : Bool :=
  let w := canObj s 0x2810 c i
  let mask := canObj s 0x2811 c i
  w.testBit 31 && !w.testBit 30 && (w.testBit 29 == ext) && ((BitVec.ofNat 29 w &&& BitVec.ofNat 29 mask) = (id &&& BitVec.ofNat 29 mask))

/-- CAN_FRAME_RECEIVE (R273, R274): a frame on CAN port c, classical or FD, with the error frames seen before it and the error counters. With
FD off an FD frame is a form error. The controller keeps its error counters whether or not the bridge is enabled. -/
def execCanFrameReceive (c : Fin 2) (ext : Bool) (id : BitVec 29) (kind : CanKind) (d : List Byte) (errs : Byte) (tec : BitVec 9)
    (rec_ : Byte) (s : State) : Ans :=
  let x := canSt s c.val
  if 2 ≤ x.state then .next s
  else
    let s := canErrors c.val errs.toNat tec rec_ s
    if kind = .fd ∧ cfg s 0x2803 (c.val + 1) = 0 then .next (bump (canReg c.val 8) s)
    else if !pdbActive s then .next s
    else if kind = .remote then .next (bump (canReg c.val 0x10) s)
    else
      match (List.range 64).find? (canHit s c.val ext id) with
      | none => .next s
      | some i =>
        let n := pdLen s c.val i
        if d.length < n then .next (bump (canReg c.val 0x10) s)
        else .next (srcArrive (64 * c.val + i) (d.take n) s.now (bump (canReg c.val 0) s))

/-- BUS_FAULT (R286): bus 1 CAN 1, 2 CAN 2, 3 MVB; the kind byte's code is not stated: a free value. -/
def busFault (bus : Nat) (s : State) : State :=
  let (n, s) := nextFree s
  fire 18 4 [BitVec.ofNat 8 bus, Config.code n] s

/-- A port falls off the bus: the frame on it has not been sent, and waits again unless a later one of its object does. -/
def canFallOff (c : Nat) (s : State) : State :=
  let s := canSettle c s
  let x := canSt s c
  let q := match x.bus with
    | some (f, _) => if x.queue.any (replacedBy f) then x.queue else canQueue f x.queue
    | none => x.queue
  setCan c { x with state := 2, bus := none, queue := q } s

/-- CAN_BUS_OFF (R274, R286). -/
def execCanBusOff (c : Fin 2) (s : State) : Ans :=
  if (canSt s c).state = 2 then .next s
  else .next (busFault (c.val + 1) (pdbError (2 * c.val + 1) (bump (canReg c.val 0x0C) (canFallOff c.val s))))

/-- A port leaves bus-off: what waited is sent (R274, Table 10.5). -/
def canRecover (c : Nat) (s : State) : State :=
  let x := canSt s c
  if x.state ≠ 2 then s else canStartNext c s.up (setCan c { x with state := 0, tec := 0, rec_ := 0 } s)

/-- CAN_BUS_OFF_RECOVERY (R274): 128 occurrences of 11 recessive bits, without manual recovery. -/
def execCanBusOffRecovery (c : Fin 2) (s : State) : Ans :=
  if cfgOn s 0x2805 (c.val + 1) then .next s else .next (canRecover c.val s)

/-- A write to CAN_RECOVER (R274): the ports under manual recovery. -/
def canRecoverWrite (mask : Nat) (s : State) : State :=
  let one (s : State) (c : Nat) := if mask.testBit c && cfgOn s 0x2805 (c + 1) then canRecover c s else s
  one (one s 0) 1

/-- CAN_RECOVER (R274). -/
def execCanRecover (mask : BitVec 2) (s : State) : Ans :=
  if reaches s .host then .next (canRecoverWrite mask.toNat s) else .next s

/-- A valid master frame has been seen (R275). -/
def mvbSeen (s : State) : State := { s with pdb.mvbLast := s.up, pdb.silent := false }

/-- What the line unit finds at a frame (R275, Table 10.7): `bad` names a line on which it was missing or corrupted while it arrived intact
on the other. -/
def mvbLines (bad : Option (Fin 2)) (s : State) : State :=
  let new := (bad = some 0 && !s.pdb.line1) || (bad = some 1 && !s.pdb.line2)
  let s := { s with pdb.line1 := decide (bad = some 0), pdb.line2 := decide (bad = some 1) }
  let s := if bad.isSome then bump 0x68088 s else s
  if new then pdbError 4 s else s

/-- MVB_POLL (R275, R279): a master frame asks for an address with an F-code; F-code 15 asks for the device status,
whose content the spec does not give: free bytes. ENABLE stops the source ports alone (R284), so the device status is answered while it is 0. -/
def execMvbPoll (addr : BitVec 12) (poll : MvbPoll) (s : State) : Ans :=
  if cfg s 0x2808 0 = 0 then .next s
  else
    let s := mvbLines poll.bad (mvbSeen s)
    if !pdbThere s then .next s
    else if poll.fcode.val = 15 then
      if addr.toNat = cfg s 0x2808 0 then
        let (n, s) := nextFree s
        .next (bump 0x68084 (emit (.mvb 64 [Config.code n, Config.randomByte n]) s))
      else .next s
    else if !pdbActive s then .next s
    else
      match (List.range 64).find? (fun i =>
          sinkEnabled s 2 i && mvbEntry s i % 2 ^ 12 = addr.toNat && mvbEntry s i / 2 ^ 16 % 8 = poll.fcode.val) with
      | none => .next s
      | some i => .next (bump 0x68084 (emit (.mvb i (padTo (pdLen s 2 i) (sinkSt s (sinkNo 2 i)).data)) s))

/-- MVB_SINK_RECEIVE (R275, R279): a slave frame answers a poll of an address; `bad` names a line on which it was missing
or corrupted. -/
def execMvbSinkReceive (addr : BitVec 12) (d : List Byte) (bad : Option (Fin 2)) (s : State) : Ans :=
  if cfg s 0x2808 0 = 0 then .next s
  else
    let s := mvbLines bad (mvbSeen s)
    if !pdbActive s then .next s
    else
      match (List.range 64).find? (fun i => srcEnabled s (128 + i) && mvbEntry s i % 2 ^ 12 = addr.toNat) with
      | none => .next s
      | some i => .next (srcArrive (128 + i) (padTo (pdLen s 2 i) d) s.now (bump 0x68080 s))

/-- MVB_SILENCE (R275, R286): no valid master frame for the silence limit. -/
def execMvbSilence (s : State) : Ans :=
  if cfg s 0x2808 0 = 0 || s.pdb.silent then .next s
  else
    let s := passTo (s.pdb.mvbLast + cfg s 0x280A 0 * fr) s
    .next (busFault 3 (pdbError 5 { s with pdb.silent := true }))

/-- The CAN sinks of a port whose emission is due by now, in identifier order, so that the first to take a free bus is the lowest (R274). -/
def canDue (s : State) (c : Nat) : List Nat :=
  let due (i : Nat) : Bool := sinkEnabled s c i && (match sinkDue s c i with
    | some t => decide (t ≤ s.up)
    | none => false)
  (((List.range 64).filter due).foldr (fun i => insertById { id := canObj s 0x2810 c i % 2 ^ 29, load := .object i [] }) []).filterMap
    (fun f => match f.load with
      | .object i _ => some i
      | _ => none)

/-- SINK_EMISSION (R278): a CAN transmit object or a published dataset is emitted when it is due. The transmit objects of a port that are
due together go out in identifier order (R274). -/
def execSinkEmission (kind : Fin 5) (i : Fin 64) (s : State) : Ans :=
  if kind.val = 2 || kind.val = 3 || !sinkEnabled s kind.val i.val || !pdbActive s then .next s
  else
    match sinkDue s kind.val i.val with
    | none => .next s
    | some t =>
      let s := passTo t s
      if kind.val = 4 then .next (emitSink 4 i.val s)
      else .next ((canDue s kind.val).foldl (fun s j => emitSink kind.val j s) s)

/-- A source turns from fresh to STALE (R280): shown, counted, recorded, and an update of its sinks (R278). -/
def srcStale (n : Nat) (s : State) : State :=
  let s := pdbError 6 (bump 0x680A0 (setSrc n { srcSt s n with fresh := false } s))
  srcUpdate n (fire 17 3 [BitVec.ofNat 8 n] s)

/-- SOURCE_STALE (R280): no arrival for the freshness limit. It acts at the end of its perf, as an arrival in that perf keeps the source
fresh (Table 10.5). -/
def execSourceStale (n : Fin 256) (s : State) : Ans :=
  let x := srcSt s n.val
  let limit := srcLimit s n.val
  if !x.fresh || limit = 0 || !srcEnabled s n.val then .next s
  else
    let s := passTo (x.lastAt + limit * fr) s
    .next (srcStale n.val (passToInstant (nextPerf s.now) s))

/-- One subscription judges a frame (R283). -/
def pdSub (b : List Byte) (s : State) (k : Nat) : State :=
  let flags := (b.getD 1 0).toNat
  let len := beNat ((b.drop 2).take 2)
  let src : Uid := BitVec.ofNat 48 (beNat ((b.drop 8).take 6))
  let seq : Word := word (beNat ((b.drop 16).take 4))
  let filter := cfg s 0x2839 (k + 1)
  let sum : Word := word (beNat ((b.drop (32 + len)).take 4))
  let passes (csc : Word) : Bool := checkOf groupUid src seq csc (b.take (32 + len)) = sum
  let prevOk := match s.ina.sheet with
    | some x => decide (s.now.toNat < x.instant.toNat + fr) && passes s.ina.prevCsc
    | none => false
  let k' := k * 2 ^ 48 + src.toNat
  let later := match tfind s.pdb.lastSeq k' with
    | none => true
    | some q => laterThan 32 seq.toNat q.toNat
  if (filter ≠ 0 && filter ≠ src.toNat) || len ≠ cfg s 0x283B (k + 1) || b.length < 36 + len then bump 0x6809C s
  else if !(passes (activeCsc s) || prevOk) then pdbError 8 (bump 0x68094 s)
  else if !(flags.testBit 5 || later) then bump 0x68098 s
  else
    let s := bump 0x68090 { s with pdb.lastSeq := tset s.pdb.lastSeq k' seq }
    let t : Instant := if flags.testBit 6 && timeValid s then BitVec.ofNat 64 (beNat ((b.drop 24).take 8)) else s.now
    srcArrive (192 + k) ((b.drop 32).take len) t s

/-- PD_FRAME_RECEIVE (R283): the payload of a process-data frame handed to the bridge. -/
def execPdFrameReceive (b : List Byte) (s : State) : Ans :=
  if !pdbActive s then .next s
  else
    let id := beNat ((b.drop 4).take 4)
    let subs := (List.range 64).filter (fun k => cfg s 0x2838 (k + 1) ≠ 0 && cfg s 0x2838 (k + 1) = id)
    if b.getD 0 0 ≠ 1 || subs.isEmpty then .next (bump 0x6809C s)
    else .next (subs.foldl (pdSub b) s)

/-- A CAN frame of a message object; the bridge's, where an SDO answer and a heartbeat are the dictionary's. -/
def ofObject (f : CanTx) : Bool :=
  match f.load with
  | .object _ _ => true
  | _ => false

/-- The message objects that wait on a port are discarded and counted; a frame on the bus completes (R284). -/
def canAbandon (s : State) (c : Nat) : State :=
  let s := canSettle c s
  let x := canSt s c
  let n := (x.queue.filter ofObject).length
  if n = 0 then s else bumpBy 0x680A8 n (setCan c { x with queue := x.queue.filter (fun f => !ofObject f) } s)

/-- A process-data frame of the bridge (R282). -/
def ofBridge (q : QFrame) : Bool := q.ingress = 19 && q.frame.etherType = etPd

/-- The process-data frames that wait in the queues of the ports are discarded, and each counts once (R284). -/
def pdAbandon (s : State) : State :=
  let s := (List.range 17).foldl (fun s p => settleWire p s) s
  let l := (s.net.macs.flatMap (fun m => m.2.queues.flatMap (·.2))).filter ofBridge
  let n := (l.map (·.id)).eraseDups.length
  bumpBy 0x680A8 n ((List.range 17).foldl (fun s p =>
    setMac p { macSt s p with queues := (macSt s p).queues.map (fun e => (e.1, e.2.filter (fun q => !ofBridge q))) } s) s)

/-- Nothing of the bridge is queued or being sent (R284). -/
def pdbIdle (s : State) : Bool :=
  [0, 1].all (fun c => !(canSt s c).queue.any ofObject && !((canSt s c).bus.map (fun x => ofObject x.1)).getD false)
    && !(s.net.macs.any (fun m => (heldFrames m.2).any ofBridge))

/-- FORCE_STOP (R284). -/
def pdbForceStop (s : State) : State := pdAbandon (canAbandon (canAbandon (applyVals [(key 0x2801 0, .num 0)] s) 0) 1)

/-- PDB_FORCE_STOP (R284). -/
def execPdbForceStop (s : State) : Ans := if reaches s .host then .next (pdbForceStop s) else .next s

/-- Time passes until a port's bus has sent n more frames, or has none. -/
def canRun (c : Nat) : Nat → State → State
  | 0, s => s
  | n + 1, s =>
    match (canSt s c).bus with
    | some (_, t) => canRun c n (canSettle c (passTo t s))
    | none => s

/-- PDB_DRAINED (R284): while ENABLE is 0 the last CAN frame has been sent; DRAINED is set when no process-data frame is left either. -/
def execPdbDrained (s : State) : Ans :=
  if cfgOn s 0x2801 0 then .next s
  else
    let s := [0, 1].foldl (fun s c => canRun c ((canSt s c).queue.length + 1) s) s
    let s := (List.range 17).foldl (fun s p => settleWire p s) s
    .next (if pdbIdle s then { s with pdb.drained := true } else s)

/-- Sources whose configuration has changed restart as STALE (Table 10.5), which for a fresh one is a change to STALE (R278, R280); a dataset
that is enabled restarts; MVB buffers follow the new map; a CAN port that listens only no longer sends what waits. -/
def pdbConfigApply (old : State) (keys : List Nat) (s : State) : State :=
  let changed (k : Nat) : Bool := keys.contains k && valOf old k ≠ valOf s k
  let src (n : Nat) : List Nat :=
    let i := n % 64 + 1
    match n / 64 with
    | 0 => [key 0x2810 i, key 0x2811 i, key 0x2812 i, key 0x2815 i]
    | 1 => [key 0x2818 i, key 0x2819 i, key 0x281A i, key 0x281D i]
    | 2 => [key 0x2820 i, key 0x2821 i]
    | _ => [key 0x2838 i, key 0x2839 i, key 0x283A i, key 0x283B i]
  let s := (List.range 256).foldl (fun s n =>
    if (src n).any changed && (srcSt s n).fresh then srcStale n s else s) s
  [0, 1].foldl (fun s c => canStartNext c s.up s) <| mvbFollow ((List.range 64).foldl (fun s i =>
    if changed (key 0x2830 (i + 1)) then setSink (sinkNo 4 i) { sinkSt s (sinkNo 4 i) with restart := true } s else s) s)

/-- The CAN ports start with the node (log 42). -/
def canStart (s : State) : State :=
  let one (s : State) (c : Nat) : State := if (canSt s c).state = 3 then setCan c { canSt s c with state := 0 } s else s
  one (one s 0) 1

/-- The CAN ports stop. -/
def canStop (s : State) : State :=
  let one (s : State) (c : Nat) : State := setCan c { canSt s c with state := 3, queue := [], bus := none } s
  one (one s 0) 1

end Sys2Proof.Machine
end

