-- ==== Sys2Proof/Machine/Time.lean ====
section
/-!
DEFINITION. Machine/Time.lean: what the commands of chapter 6 do: Sync, Announce, peer delay, the servo's timers, pulses and
captures.
-/
namespace Sys2Proof.Machine

/-! ### The servo at a Sync (R175 to R180) -/

/-- The newest 16 of a list with x in front. -/
def keep16 (x : Int) (l : List Int) : List Int := (x :: l).take 16

/-- The rate is steered in ACQUIRING. The loop's gains are not stated: FREQ_ADJ is a free value within ±10 ppm (log 24). -/
def steer (s : State) : State :=
  let (n, s) := nextFree s
  { s with tim.slewing := false, tim.freq := ((Config.value n % 20000001 : Nat) : Int) - 10000000 }

/-- The rate is steered in LOCKED (R180): a slew that runs goes on within the slew limit of the settled rate; else the settled rate moves by
a free value within the slew limit (log 24) and a slew removes the offset o. -/
def steerLocked (o : Int) (s : State) : State :=
  if s.tim.slewing && s.up < s.tim.slewEnd then slewRate (predicted s) s
  else
    let base := if s.tim.slewing then s.tim.settled else s.tim.freq
    let (n, s) := nextFree s
    let most := 1000 * cfg s 0x260D 0
    let d : Int := ((Config.value n % (2 * most + 1) : Nat) : Int) - (most : Int)
    startSlew o { s with tim.slewing := false, tim.slewOff := 0, tim.freq := max (-10000000) (min 10000000 (base + d)) }

/-- Sixteen offsets within a quarter of the step threshold (Table 6.3). -/
def lockMet (s : State) : Bool :=
  s.tim.hist.length = 16 && s.tim.hist.all (fun o => decide (4 * o.natAbs ≤ cfg s 0x260A 0))

/-- An offset is above the step limit (R182, Table 6.4). -/
def aboveLimit (s : State) (o : Int) : Bool := decide (cfg s 0x260B 0 * pf < o.natAbs)

/-- LINE_DIFF_HIGH after a Sync of a line (R175). While LINE_DIFF is not valid no Sync counts. Whose 16 consecutive Syncs are meant is not
stated; DESIGN CHOICE: those of both lines together (log 196). -/
def lineDiffCheck (s : State) : State :=
  if !lineDiffValid s then { s with tim.diffHigh := 0, tim.diffLow := 0 }
  else
    let d := (lineDiff s).natAbs
    let thr := cfg s 0x260A 0
    let s := { s with tim.diffHigh := if thr < 2 * d then s.tim.diffHigh + 1 else 0,
                      tim.diffLow := if 4 * d < thr then s.tim.diffLow + 1 else 0 }
    if !s.tim.lineDiffHigh && 16 ≤ s.tim.diffHigh then
      fire 12 3 (beBytes 4 (intWord (lineDiff s)).toNat) { s with tim.lineDiffHigh := true }
    else if s.tim.lineDiffHigh && 16 ≤ s.tim.diffLow then { s with tim.lineDiffHigh := false }
    else s

/-- The servo takes an offset (Table 6.4). -/
def servoUpdate (o : Int) (s : State) : State :=
  let s := { s with tim.offset := o }
  let old := s
  let s := { s with tim.hist := keep16 o s.tim.hist, tim.recent := keep16 o s.tim.recent }
  match s.tim.servo with
  | .free => setServo .acquiring (stepTime o s)
  | .acquiring =>
    if aboveLimit s o && cfgOn s 0x260C 0 then stepTime o s
    else if lockMet s then setServo .locked (steer s)
    else steer s
  | .locked =>
    if cfg s 0x260A 0 < (o - predicted s).natAbs then
      enterSuspect old
    else steerLocked o s
  | .holdover =>
    let s := { s with tim.holdSyncs := s.tim.holdSyncs + 1 }
    if s.tim.holdSyncs < 16 then s
    else if o.natAbs ≤ cfg s 0x260A 0 then lockSlewing o s
    else enterSuspect s
  | .stepSuspect => { s with tim.suspectAt := s.tim.suspectAt.or (some s.up) }

/-- The line a new acquisition takes when a Sync arrives on line l (R174). -/
def acquires (s : State) (l : Line) : Bool :=
  let pref := if cfgOn s 0x2606 0 then Line.b else .a
  decide (l = pref) || !lineDelivers s pref

/-- The active time line when a usable Sync arrives on line l: an acquisition, or a move away from a failed line. -/
def chooseLine (l : Line) (s : State) : State :=
  match activeLine s with
  | none => if acquires s l then { s with tim.line := lineIx l } else s
  | some x => if x ≠ l && !lineDelivers s x then switchTimeLine l s else s

/-- The offset of a Sync at port p: local time minus train time (R171, R174). -/
def syncOffset (p : Nat) (m : SyncIn) (s : State) : Int :=
  (s.now - m.origin).toInt - ((ptpSt s p).delay : Int) - asymNow s p

/-- A PTP message that came in at port p goes on along its line, cut-through where R38 allows. -/
def ptpForward (p : Nat) (m : PtpMsg) (s : State) : State :=
  match (portsOf (lineOf p)).find? (fun q => q ≠ p) with
  | some q => if portUp s q then ptpQueue q p (cutThrough s p q) m s else s
  | none => s

/-- The port forwards a Sync along its line, corrected by the link delay and, as it leaves, by the residence time, in one step; the
Follow_Up of a two-step Sync goes on as it is (R173). -/
def forwardSync (p : Nat) (m : SyncIn) (s : State) : State :=
  let o := m.origin + BitVec.ofInt 64 (((ptpSt s p).delay : Int) + asymNow s p)
  let s := ptpForward p (.sync m.id o m.log m.twoStep) s
  if m.twoStep then ptpForward p (.followUp m.id m.origin m.log) s else s

/-- A Sync of the grandmaster, or of a clock while none is known, marks the port by which its line delivers Sync; the line's other port
delivers none any more (R174). -/
def noteSync (p : Nat) (m : SyncIn) (s : State) : State :=
  if s.tim.haveGm && m.id ≠ s.tim.gm.id then s
  else
    let s := (portsOf (lineOf p)).foldl (fun s q => if q ≠ p && (ptpSt s q).lastSync.isSome then setPtp q { ptpSt s q with lastSync := none } s else s) s
    setPtp p { ptpSt s p with lastSync := some s.up } s

/-- A Sync of the grandmaster on a backbone port acts on the servo (R174 to R177). Whether OFFSET goes on following while SERVO_EN is 0 is
not stated; DESIGN CHOICE: it keeps its last value (log 164). -/
def syncServo (p : Nat) (m : SyncIn) (s : State) : State :=
  if !s.tim.haveGm || s.tim.viaRef || m.id ≠ s.tim.gm.id || !(ptpSt s p).valid then s
  else
    let l := lineOf p
    let o := syncOffset p m s
    let s := match l with
      | .a => { s with tim.offA := keep16 o s.tim.offA }
      | .b => { s with tim.offB := keep16 o s.tim.offB }
    let s := lineDiffCheck s
    if !cfgOn s 0x260F 0 then s
    else
      let s := chooseLine l s
      if activeLine s = some l then servoUpdate o s else s

/-- A Sync arrives (R173 to R177, Table 6.8: across a held port it serves nothing but the peer delay). -/
def syncIn (p : Nat) (m : SyncIn) (s : State) : State :=
  if !ptpRuns s p then s
  else
    let s := bump (prt p 0x314) s
    if ptpDiscards s p m.domain m.id m.malformed then bump (prt p 0x328) s
    else if 4 ≤ p then
      if isRefPort s p && s.tim.viaRef && m.id = s.tim.gm.id then
        let s := setPtp p { ptpSt s p with lastSync := some s.up } s
        if cfgOn s 0x260F 0 then servoUpdate (syncOffset p m s) s else s
      else s
    else if heldPort s p || s.tim.isGm then s
    else syncServo p m (forwardSync p m (noteSync p m s))

/-! ### Meanings: Sync and Announce -/

/-- SYNC_ORIGINATE (R173): Sync on all UP backbone ports at the Sync interval. -/
def execSyncOriginate (s : State) : Ans :=
  if !(s.tim.isGm || s.tim.viaRef) then .next s
  else
    let s := passTo (ptpSt s 0).nextSync s
    let s := [0, 1, 2, 3].foldl (fun s p =>
      if portUp s p then
        ptpSend p (.sync s.tim.gm.id s.now (logInterval (cfg s 0x2607 0)) false) s
      else s) s
    .next (setPtp 0 { ptpSt s 0 with nextSync := s.up + syncTicks s } s)

/-- CONSIST_SYNC_SEND (R168): Sync, two-step (Table 6.1), on a consist master port at its interval, of the clock that the port's Announces
name. What TWO_STEP_TX does there is not
stated (log 165). -/
def execConsistSyncSend (p : Fin 17) (s : State) : Ans :=
  if p.val < 4 || !ptpRuns s p.val || isRefPort s p.val then .next s
  else
    let s := passTo (ptpSt s p.val).nextSync s
    let n := cfg s 0x2632 (p.val + 1)
    let s := ptpSend p.val (.sync (offeredGm s).id s.now (logInterval n) true) s
    .next (setPtp p.val { ptpSt s p.val with nextSync := s.up + n * fr } s)

/-- ANNOUNCE_SEND (R167, R169): the Announce interval passes. Where no grandmaster is known, the BMCA selects this node if
it is capable. -/
def execAnnounceSend (s : State) : Ans :=
  let s := passTo (ptpSt s 0).nextAnnounce s
  let s := if !s.tim.haveGm && !s.tim.isGm && cfgOn s 0x2602 0 then becomeGm s else s
  .next (announceAll (setPtp 0 { ptpSt s 0 with nextAnnounce := s.up + cfg s 0x2608 0 * fr } s))

/-- An Announce arrives (R102, R167, R168): across a held port it is kept until the activation instant. A transparent
clock forwards it along its line. -/
def announceIn (p : Nat) (m : AnnounceIn) (s : State) : State :=
  if !ptpRuns s p then s
  else
    let s := bump (prt p 0x324) s
    if ptpDiscards s p m.domain m.gm.id m.malformed then bump (prt p 0x328) s
    else if 4 ≤ p then (if isRefPort s p then bmca m.gm true s else s)
    else if heldPort s p then
      { s with tim.heldGm := tset s.tim.heldGm p (match tfind s.tim.heldGm p with
        | some h => if h.id = m.gm.id || betterGm m.gm h then m.gm else h
        | none => m.gm) }
    else
      bmca m.gm false (ptpForward p (.announce m.gm m.log) s)

/-- ANNOUNCE_RECEIVE (R167). -/
def execAnnounceReceive (p : Fin 17) (m : AnnounceIn) (s : State) : Ans := .next (announceIn p.val m s)

/-! ### Meanings: peer delay (R170) -/

/-- The port measures the delay of its link: a backbone port, a consist port with a peer-to-peer profile, or the reference port as a slave
of profile 1, by delay requests (Table 6.1). -/
def measures (s : State) (p : Nat) : Bool := portUp s p && (p < 4 || 2 ≤ ptpProfile s p || (ptpProfile s p = 1 && isRefPort s p))

/-- A response is missing: the third in a row clears PDELAY_VALID. -/
def pdelayLost (p : Nat) (s : State) : State :=
  let x := ptpSt s p
  if !x.waiting then s
  else
    let s := bump (prt p 0x320) (setPtp p { x with waiting := false, lost := x.lost + 1, recent := [], agreed := 0 } s)
    if x.lost + 1 < 3 then s
    else
      let s := setPtp p { ptpSt s p with valid := false } s
      if p < 4 && activeLine s = some (lineOf p) && syncPort s (lineOf p) = some p then timeLineFailed (lineOf p) s else s

/-- PDELAY_REQUEST_TIMER (R170): a request is sent; eight at 1 fr after UP, then at the configured interval. The interval of a profile 1
slave's delay requests is not stated; DESIGN CHOICE: the same (log 195). -/
def execPdelayRequestTimer (p : Fin 17) (s : State) : Ans :=
  if !measures s p.val then .next s
  else
    let s := pdelayLost p.val (passTo (ptpSt s p.val).nextReq s)
    let x := ptpSt s p.val
    let wait := if x.done + 1 < 8 then fr else cfg s 0x2609 0 * fr
    let s := setPtp p.val { x with waiting := true, done := x.done + 1, nextReq := s.up + wait } s
    let log := logInterval (if x.done < 8 then 1 else cfg s 0x2609 0)
    .next (ptpSend p.val (if ptpProfile s p.val = 1 then .delayReq log else .pdelayReq log) s)

/-- The last four delays agree within 8 ns. -/
def agree4 (l : List Nat) : Bool := l.length = 4 && decide (l.foldl max 0 ≤ l.foldl min (l.headD 0) + 8)

/-- PDELAY_RESPONSE_RECEIVE (R170): a response gives the mean link delay in ns and the neighbour rate ratio. -/
def execPdelayResponseReceive (p : Fin 17) (delay : BitVec 32) (nrr : BitVec 32) (s : State) : Ans :=
  let x := ptpSt s p.val
  if !measures s p.val || !x.waiting then .next s
  else
    let l := (delay.toNat :: x.recent).take 4
    let n := if agree4 l then 4 else min l.length 3
    let known := decide (4 ≤ p.val) || ((nbSt s p.val).heard && !(nbSt s p.val).legacy)
    .next (setPtp p.val { x with waiting := false, lost := 0, delay := delay.toNat, nrr := nrr.toInt, recent := l, agreed := n,
                                 valid := x.valid || (n = 4 && known) } s)

/-! ### Meanings: the servo's timers -/

/-- TIME_LINE_FAIL (R174): the active time line has delivered no Sync for three Sync intervals. -/
def execTimeLineFail (s : State) : Ans :=
  match activeLine s with
  | none => .next s
  | some l =>
    match syncPort s l with
    | none => .next (timeLineFailed l s)
    | some p =>
      let s := passTo ((ptpSt s p).lastSync.getD 0 + syncLossTicks s p) s
      .next (syncPortLost p s)

/-- SYNC_LOSS_HOLDOVER (R177): no Sync on either line for three intervals, or the grandmaster is lost. -/
def execSyncLossHoldover (gmLost : Bool) (s : State) : Ans :=
  if s.tim.isGm then .next s
  else if gmLost then .next (loseGm s)
  else
    let s := (List.range 17).foldl (fun s p =>
      match (ptpSt s p).lastSync with
      | some t =>
        let s := passTo (t + syncLossTicks s p) s
        setPtp p { ptpSt s p with lastSync := none } s
      | none => s) s
    .next (enterHoldover (forgetLine .b (forgetLine .a s)))

/-- Re-qualification passes (R179). -/
def requalifies (s : State) : Bool :=
  let l := s.tim.hist
  l.length = 16 && l.all (fun o => decide (4 * (16 * o - l.sum).natAbs ≤ 16 * cfg s 0x260A 0))

/-- The 2 rl of STEP-SUSPECT have passed (R177, R179). -/
def suspectEnd (s : State) : State :=
  if requalifies s then
    let m := mean s.tim.hist
    if !aboveLimit s m || !cfgOn s 0x260C 0 then lockSlewing m s
    else setServo .acquiring (stepTime m (endFreeRun s))
  else bump 0x40048 { s with tim.suspectAt := some s.up }

/-- HOLD_ESTIMATE_UPDATE (R181): at a frame boundary, E0 + A t + B t², t in reels. Its rounding to whole ns is not stated; DESIGN CHOICE: each
term is rounded down (log 197). -/
def execHoldEstimateUpdate (s : State) : Ans :=
  let s := toFrame s
  if s.tim.servo ≠ .holdover && s.tim.servo ≠ .stepSuspect then .next s
  else
    let t := s.up - s.tim.holdAt
    let e := s.tim.e0 + cfg s 0x260E 1 * t / rl + cfg s 0x260E 2 * t * t / (rl * rl)
    let s := { s with tim.holdErr := e }
    if cfg s 0x260E 3 < e && !s.tim.holdLimit then
      .next (fire 14 4 ([0, 0, 0, 0] ++ beBytes 4 e) { s with tim.holdLimit := true })
    else .next s

/-- SLEW_DONE (R180): the slew has removed its offset; the rate is the settled one again. -/
def execSlewDone (s : State) : Ans :=
  if !s.tim.slewing then .next s
  else .next { passTo s.tim.slewEnd s with tim.slewing := false, tim.slewOff := 0, tim.freq := s.tim.settled }

/-- REEL_WRAP (R163): TIME_NS wraps, REEL_NUM changes, bit 4. -/
def execReelWrap (s : State) : Ans := .next (passToInstant (BitVec.ofNat 64 ((s.now.toNat / rl + 1) * rl)) s)

/-! ### Meanings: pulses and captures -/

/-- PULSE_EDGE (R185): output k reaches its next leading edge. With VALID_ONLY and no valid time the pulse is held back. -/
def execPulseEdge (k : Fin 4) (s : State) : Ans :=
  if !(ppsSt s k.val).armed then .next s
  else
    let s := passToInstant (ppsSt s k.val).next s
    let x := ppsSt s k.val
    let hold := cfgOn s (0x2610 + k.val) 6 && !timeValid s
    let x := if ppsMode s k.val = 2 then { x with next := x.next + BitVec.ofNat 64 (ppsPeriod s k.val) } else { x with armed := false }
    if !domOn s .d2 then .next (setPps k.val x s)
    else if hold then .next (bump (ppsSkip k.val) (setPps k.val { x with suppressed := true } s))
    else .next (emit (.pulse k.val (cfg s (0x2610 + k.val) 4)) (setPps k.val { x with suppressed := false, lastEdge := some s.up } s))

def setCap (k : Nat) (x : CapSt) (s : State) : State := { s with tim.caps := tset s.tim.caps k x }

/-- CAPTURE_EDGE (R188, R189): an edge on capture input k. -/
def execCaptureEdge (k : Fin 4) (rising : Bool) (s : State) : Ans :=
  let n := 0x2614 + k.val
  let sel := cfg s n 2
  let x := capSt s k.val
  if !cfgOn s n 1 || !(if rising then sel.testBit 0 else sel.testBit 1) then .next s
  else
    let close := match x.lastEdge with
      | some t => decide (s.up < t + 64)
      | none => false
    if close || 16 ≤ x.fifo.length then
      .next (bump (0x40210 + 0x20 * k.val) (setCap k.val { x with overflow := true } s))
    else
      let s := bump (0x40214 + 0x20 * k.val) (setCap k.val { x with fifo := x.fifo ++ [(rising, timeNs s)], lastEdge := some s.up } s)
      .next (if x.fifo.isEmpty then raiseIrq 6 s else s)

/-- CAP_TS_READ (R188, R409): a read of CAP_TS returns and removes the oldest entry. -/
def execCapTsRead (who : Requester) (k : Fin 4) (s : State) : Ans :=
  if !reaches s who then .next (turnedAway who s)
  else if featDenied s who 3 then .next (bump 0x90044 (emit (.readData who (0x40208 + 0x20 * k.val) 0) s))
  else
    let x := capSt s k.val
    let v := (x.fifo.head?.map (·.2)).getD 0
    .next (emit (.readData who (0x40208 + 0x20 * k.val) v) (setCap k.val { x with fifo := x.fifo.tail } s))

end Sys2Proof.Machine
end

