-- ==== Sys2Proof/Machine/Slots.lean ====
section
/-!
DEFINITION. Machine/Slots.lean: answering a dictionary request, take messages, the two take slots, their scrap, print and
outcome: what faults, exits, sleep and inauguration share with the dictionary and the takes.
-/
namespace Sys2Proof.Machine

def setSess (i : Session) (x : Sess) (s : State) : State := { s with od.sess := tset s.od.sess i.val x }

/-- A dictionary counter 0x2010.k counts one. -/
def bumpOd (k : Nat) (s : State) : State :=
  { s with od.counters := tset s.od.counters k (tget s.od.counters k 0 + 1) }

/-- The abort codes of Table 11.11. -/
abbrev aToggle : Word := 0x05030000
abbrev aSdoTimeout : Word := 0x05040000
abbrev aBadCommand : Word := 0x05040001
abbrev aOutOfMemory : Word := 0x05040005
abbrev aWriteOnly : Word := 0x06010001
abbrev aReadOnly : Word := 0x06010002
abbrev aNoObject : Word := 0x06020000
abbrev aHardware : Word := 0x06060000
abbrev aLength : Word := 0x06070010
abbrev aNoSubindex : Word := 0x06090011
abbrev aBadValue : Word := 0x06090030
abbrev aTooHigh : Word := 0x06090031
abbrev aTooLow : Word := 0x06090032
abbrev aNotStored : Word := 0x08000020
abbrev aDeviceState : Word := 0x08000022
abbrev aNoData : Word := 0x08000024
abbrev aLevelTooLow : Word := 0x0F010001
abbrev aAuthFailed : Word := 0x0F010002
abbrev aAuthLocked : Word := 0x0F010003
abbrev aKeyUnset : Word := 0x0F010004
abbrev aRelationBroken : Word := 0x0F010010
abbrev aTimeoutBelowBudget : Word := 0x0F010011
abbrev aNotOnBoundary : Word := 0x0F010012
abbrev aTakeNotOpen : Word := 0x0F010020
abbrev aTakeOwned : Word := 0x0F010021
abbrev aTakeFull : Word := 0x0F010022
abbrev aTakeInvalid : Word := 0x0F010023
abbrev aTakeScrapped : Word := 0x0F010024
abbrev aTooLate : Word := 0x0F010025
abbrev aSegmentOrder : Word := 0x0F010030
abbrev aSessionBusy : Word := 0x0F010031

/-- The OP code of an operation (Table 11.8). -/
def opCode : DictOp → Nat
  | .read => 1 | .write => 2 | .slate => 3 | .print => 4 | .scrap => 5 | .close => 6

/-- The DAM_RSP payload of an answer (Table 11.7). -/
def damRspPayload (client : Nat) (r : Rsp) : List Byte :=
  [1, (r.rawOp.getD (BitVec.ofNat 8 (opCode r.op))) ||| 128] ++ beBytes 2 client ++ beBytes 4 r.reqId ++ beBytes 2 r.index
    ++ [BitVec.ofNat 8 r.sub, if r.more then 1 else 0] ++ beBytes 4 r.offset ++ beBytes 4 r.abort.toNat
    ++ beBytes 2 r.data.length ++ [0, 0] ++ beBytes 4 r.objLen ++ r.data

/-- Bytes written into a byte table from index i on. -/
def putBytes : Tab Byte → Nat → List Byte → Tab Byte
  | t, _, [] => t
  | t, i, b :: r => putBytes (tset t i b) (i + 1) r

/-- A scalar as the mailbox shows it: a signed value is sign-extended to 64 bits (R313). -/
def mailboxNumber (r : Rsp) : Nat :=
  let n := beNat r.data
  match (objRow r.index r.sub).map Obj.ty with
  | some (.int k) => if n < 2 ^ (8 * k - 1) then n else n + 2 ^ 64 - 2 ^ (8 * k)
  | _ => n

/-- The mailbox takes the answer (Table 11.10, R504): a scalar in MBX_VALUE, a byte string in MBX_DATA. -/
def mailboxAnswer (r : Rsp) (s : State) : State :=
  let scalar := r.op = .read && ((objRow r.index r.sub).map (fun o => o.ty.isScalar)).getD true
  let n := mailboxNumber r
  let s := { s with od.mbxBusy := false, od.mbxDone := true, od.mbxMore := r.more, od.mbxAbort := r.abort,
                    od.mbxObjLen := r.objLen }
  if r.abort != 0 || r.op != .read then s
  else if scalar then setReg 0x8024 (word n) (setReg 0x8028 (word (n / 2 ^ 32)) s)
  else { s with od.mbxData := putBytes s.od.mbxData 0 r.data }

/-- A DAM_RSP goes to the MAC source address of the request, from the port on which the request arrived (R308): those it came with, or
those of the session's last request. -/
def damSend (i : Session) (via : Option (Mac × Nat)) (payload : List Byte) (s : State) : State :=
  let x := sessOf s i
  let to_ := via.getD (x.mac, x.port)
  sendMessage 0x11 0x80 3 x.uid (some to_.1) (if 4 ≤ to_.2 ∧ to_.2 < 17 then some to_.2 else none) false payload s

/-- An answer of the SDO server of a CAN port goes to the bus under its COB-ID, in the format of the request (R305). -/
def sdoSend (c : Nat) (r : Rsp) (s : State) : State :=
  canPut c { id := 0x580 + cfg s 0x2009 (c + 1), load := .sdo (s.od.sdoFd.getLsbD c) r } s

/-- An answer goes to its session by the session's channel (R308, R313, R305). -/
def sendRsp (i : Session) (via : Option (Mac × Nat)) (r : Rsp) (s : State) : State :=
  let s := emit (.answer i r) s
  if i = hostSession then mailboxAnswer r s
  else if 3 ≤ i.val then damSend i via (damRspPayload (sessOf s i).client r) s
  else sdoSend i.val r s

/-- An answer is sent; a refusal counts 0x2010.02 (R314). -/
def answer (i : Session) (via : Option (Mac × Nat)) (r : Rsp) (s : State) : State :=
  sendRsp i via r (if r.abort != 0 then bumpOd 2 s else s)

/-- Two requests of a session are equal in every byte, whatever way they came (R312). -/
def sameRequest (a b : Nat × DictOp × Req) : Bool :=
  a.1 == b.1 && a.2.1 == b.2.1 && { a.2.2 with via := none } == { b.2.2 with via := none }

/-- A DAM session remembers its last 8 requests with their answers (R312). -/
def remember (i : Session) (op : DictOp) (q : Req) (r : Rsp) (s : State) : State :=
  if i.val < 3 then s
  else
    let x := sessOf s i
    setSess i { x with remembered := ({ op := op, req := q, rsp := r, at_ := s.up } :: x.remembered).take 8 } s

/-- A request is answered, once more for each repeat that came while it waited or executed, each by the way it came (R308, R312). -/
def finish (i : Session) (op : DictOp) (q : Req) (r : Rsp) (s : State) : State :=
  let same := sameRequest (i.val, op, q)
  let again := s.od.repeats.filter same
  let s := remember i op q r (answer i q.via r s)
  again.foldl (fun s e => sendRsp i e.2.2.via r s) { s with od.repeats := s.od.repeats.filter (fun e => !same e) }

/-- The session an OWNER code names (Table 12.7), where it names one. -/
def ownerSession (o : Nat) : Option Session :=
  if h : 1 ≤ o ∧ o ≤ 19 then some ⟨o - 1, by omega⟩ else none

/-- The OWNER code of a session. -/
def ownerCode (i : Session) : Nat := i.val + 1

/-- The answer to a request: a code, and on success of a write the length of the whole value (Table 11.7). -/
def codeRsp (op : DictOp) (q : Req) (code : Word) (objLen : Nat) : Rsp :=
  { op := op, reqId := q.reqId, index := q.index, sub := q.sub, abort := code, objLen := if code = 0 then objLen else 0 }

/-- Every request that waits for the user take is answered with a code. -/
def answerWaiting (code : Word) (s : State) : State :=
  let l := s.od.unanswered
  l.foldl (fun s p => finish p.sess p.op p.req (codeRsp p.op p.req code p.len) s) { s with od.unanswered := [] }

/-! ### Take messages (R337) -/

/-- The common header (Table 12.2). -/
def takeHeader (m : TakeMsg) : List Byte :=
  [1] ++ beBytes 1 m.kind ++ beBytes 1 (bit 7 m.reply) ++ [0] ++ beBytes 6 m.coord.toNat ++ [0, 0] ++ beBytes 4 m.num.toNat
    ++ beBytes 8 m.instant.toNat

/-- The payload of a take message of TYPE 0x20 to 0x23 (Table 12.3). -/
def takeBytes (type : Nat) (m : TakeMsg) : List Byte :=
  takeHeader m ++ (match type with
    | 0x20 => beBytes 1 m.level ++ [0] ++ beBytes 2 m.part ++ beBytes 2 m.parts ++ [0, 0] ++ beBytes 4 m.bodyCsc.toNat
        ++ beBytes 4 m.shareLen ++ beBytes 8 m.voteBy.toNat ++ m.content
    | 0x21 => beBytes 1 m.vote ++ beBytes 1 m.reason ++ beBytes 2 m.firstIndex ++ beBytes 1 m.firstSub ++ [0, 0, 0]
    | 0x23 => beBytes 1 m.reason ++ [0, 0, 0]
    | _ => [])

/-- A take frame that carries CSC 0: KIND 2, QUERY, REPLY (R337). -/
def takeCsc0 (type : Nat) (m : TakeMsg) : Bool := m.kind = 2 || m.reply || (type = 0x21 && m.vote = 3)

/-- A take message goes out as a group frame. -/
def takeGroup (type : Nat) (m : TakeMsg) (s : State) : State :=
  bulisGroupSend type 6 0x81 (if takeCsc0 type m then 0 else activeCsc s) (takeBytes type m) s

/-- A take message goes to one node. -/
def takeTo (u : Uid) (type : Nat) (m : TakeMsg) (s : State) : State :=
  sendMessage type 0x81 6 u none none (takeCsc0 type m) (takeBytes type m) s

/-- The first frame of a kind, coordinator, number and type: whether it is, and the state that remembers it. At most 64 are
remembered (log 43). -/
def firstSeen (type : Nat) (m : TakeMsg) (s : State) : Bool × State :=
  let k := (m.kind, m.coord, m.num, type)
  if s.tak.seen.contains k then (false, s) else (true, { s with tak.seen := (k :: s.tak.seen).take 64 })

/-- The outcome of a train-wide take is kept: the last 16 of each KIND (R334). -/
def keepOutcome (o : Outcome) (s : State) : State :=
  let rest := s.tak.outcomes.filter (fun x => !(x.kind = o.kind && x.coord = o.coord && x.num = o.num))
  let same := (rest.filter (fun x => x.kind = o.kind)).take 15
  { s with tak.outcomes := o :: (same ++ rest.filter (fun x => x.kind ≠ o.kind)) }

/-! ### The user slot (R322, R326, R332, R333) -/

/-- The user take is scrapped with a LAST_RESULT (R322, R326, R333): the slot is SCRAPPED, its staged values are
gone, TAK_SCRAP_CNT counts, bit 11 is raised. Waiting requests get TAKE_SCRAPPED; an owner that has not been told
is told at its next take request. -/
def scrapUser (result : Nat) (s : State) : State :=
  let u := s.tak.user
  if u.state = .idle || u.state = .scrapped then s
  else
    let told := result = 3 || !s.od.unanswered.isEmpty
    let s := answerWaiting aTakeScrapped s
    let s := match ownerSession u.owner with
      | some i => if told then s else setSess i { sessOf s i with scrapUntold := true } s
      | none => s
    raiseIrq 11 (bump 0x9044 { s with tak.user := { state := .scrapped, num := u.num, coord := u.coord, instant := u.instant },
                                       tak.lastResult := result })

/-- The coordinator of a train-wide user take that has not sent PRINT scraps it: SCRAP three times, 256 pf apart (R332). -/
def coordScrap (reason result : Nat) (s : State) : State :=
  let u := s.tak.user
  if !(u.isCoord && u.state = .prepared) then s
  else
    let m : TakeMsg := { kind := 1, coord := s.uid, num := u.num, instant := u.instant, reason := reason }
    let s := takeGroup 0x23 m s
    let s := keepOutcome { kind := 1, coord := s.uid, num := u.num, instant := u.instant, scrap := some reason, at_ := s.up } s
    let s := { s with tak.userScrap := some { kind := 1, num := u.num, instant := u.instant, reason := reason, left := 2, sentAt := s.up } }
    scrapUser result (bump 0x9054 s)

/-- A system PREPARE, received or sent, acts on the user slot (R336). -/
def sysPrepareHits (s : State) : State :=
  if s.tak.user.state = .open_ then scrapUser 6 s
  else if s.tak.user.isCoord && s.tak.user.state = .prepared then coordScrap 3 6 s
  else s

/-! ### The system slot (R333 to R335) -/

/-- A scrap of an inauguration attempt counts; the eighth in a row is recorded (R93). -/
def inaScrapped (s : State) : State :=
  let s := bump 0x48034 { s with ina.scraps := s.ina.scraps + 1 }
  if s.ina.scraps % 8 = 0 then fire 8 5 (beBytes 4 (tget s.reg 0x48034 0).toNat) s else s

/-- The system take is scrapped (R93, R333 to R335). After an inauguration take the node returns to collection; after another
one a collection that waited for the slot goes on (R91). -/
def scrapSys (result : Nat) (s : State) : State :=
  let u := s.tak.sys
  if u.state = .idle || u.state = .scrapped then s
  else
    let s := raiseIrq 11 (bump 0x9044 { s with tak.sys := { state := .scrapped }, tak.lastResult := result, wak.pendWake := none })
    let s := if u.kind = 3 then raiseIrq 12 s else s
    if u.kind = 2 then
      let s := inaScrapped { s with ina.changed := false }
      if s.ina.st = .voting || s.ina.st = .printed || s.ina.st = .legacy || s.ina.st = .collect then collect s else s
    else rebuild s

/-- The coordinator of a system take sends SCRAP three times and scraps its slot (R332, R335). -/
def sysCoordScrap (reason : Nat) (s : State) : State :=
  let u := s.tak.sys
  if !(u.isCoord && u.state = .prepared) then s
  else
    let s := takeGroup 0x23 { kind := u.kind, coord := s.uid, num := u.num, instant := u.instant, reason := reason } s
    let s := keepOutcome { kind := u.kind, coord := s.uid, num := u.num, instant := u.instant, scrap := some reason, at_ := s.up } s
    let s := { s with tak.sysScrap := some { kind := u.kind, num := u.num, instant := u.instant, reason := reason, left := 2, sentAt := s.up } }
    scrapSys 7 (bump 0x9054 s)

/-- DUSK is entered at the print instant (R342, R352): the bridge and process-data enables are cleared as a normal disable,
an OPEN user take is scrapped, a recorder entry of severity 2 is written. -/
def enterDusk (at_ : Instant) (ring : Word) (s : State) : State :=
  let s := { s with wak.duskAt := some at_, wak.duskOneOff := false, wak.duskDue := none,
                    wak.duskSpl := cfgOn s 0x2701 0, wak.duskPdb := cfgOn s 0x2801 0 }
  let s := if s.tak.user.state = .open_ then scrapUser 9 s else s
  let s := applyVals [(key 0x2701 0, .num 0), (key 0x2801 0, .num 0)] s
  let s := fire 23 2 (beBytes 4 ring.toNat) (bump 0x404C (setNode .dusk s))
  let s := match s.wak.pendWake with
    | some (c, src) => noteWake c src { s with wak.pendWake := none }
    | none => s
  recordChanged s

/-- The system take becomes PRINTED on this node (Tables 3.8, 13.1). -/
def sysPrinted (s : State) : State :=
  let u := s.tak.sys
  let s := { s with tak.sys.state := .printed, tak.sys.sentAt := s.up }
  let s := keepOutcome { kind := u.kind, coord := u.coord, num := u.num, instant := u.instant, scrap := none, at_ := s.up } s
  if u.kind = 2 then { s with ina.st := if s.ina.st = .legacy then .legacy else .printed }
  else enterDusk u.instant (word (beNat (u.content.take 4))) s

/-- The system take applies, with its LAST_RESULT: 1 at its instant, 2 late (R325, which R333 and R334 give system takes too, R335;
log 173): counted, reported, and recorded with its SYS_KIND and no staged object. -/
def sysApplied (result : Nat) (s : State) : State :=
  let u := s.tak.sys
  let s := raiseIrq 11 (bump 0x9040 { s with tak.lastResult := result })
  fire 21 2 (beBytes 4 u.num.toNat ++ [0, 0, BitVec.ofNat 8 u.kind]) s

/-- Every member asked has voted YES. -/
def allVoted (members votes : List Uid) : Bool := members.all votes.contains

/-- The coordinator has every YES: PRINT goes out and is repeated until I (R93, R332). A coordinator of an inauguration whose
records have changed scraps the attempt instead (Table 3.9). -/
def sysPrintIfAll (s : State) : State :=
  let u := s.tak.sys
  if u.kind = 2 && s.ina.changed then sysCoordScrap 1 s
  else if u.isCoord && u.state = .prepared && allVoted u.members u.votes then
    sysPrinted (takeGroup 0x22 { kind := u.kind, coord := s.uid, num := u.num, instant := u.instant } s)
  else s

/-- The coordinator sends the PREPARE of a system take (R91, R335, R349). -/
def sysPrepare (kind : Nat) (instant voteBy : Instant) (bodyCsc : Word) (content : List Byte) (members : List Uid) (s : State) : State :=
  let s := sysPrepareHits s
  let n := s.tak.sysNum + 1
  let s := { s with tak.sysNum := n, tak.sys := { state := .prepared, kind := kind, num := n, coord := s.uid, instant := instant, content := content,
                                                  isCoord := true, voteBy := voteBy, votes := [s.uid], members := members } }
  let m : TakeMsg := { kind := kind, coord := s.uid, num := n, instant := instant, bodyCsc := bodyCsc, shareLen := content.length,
                       voteBy := voteBy, content := content }
  takeGroup 0x20 m s

end Sys2Proof.Machine
end

