-- ==== Sys2Proof/Machine/Power.lean ====
section
/-!
DEFINITION. Machine/Power.lean: power domains, planes, FAULT, node reset, the supply, the core-voltage loops and the case
temperature (chapters 1, 17 and 18).
-/
namespace Sys2Proof.Machine

/-! ### Domains (R32 to R34, R437) -/

def setDom (d : Dom) (x : DomSt) (s : State) : State := { s with pwr.dom := tset s.pwr.dom (domIx d) x }

/-- The domains so that each stands after those it depends on (Table 1.4). -/
def domOrder : List Dom := [.d0, .d1, .d2, .d3, .d4, .d9a, .d9b, .d5, .d6, .d7, .d10, .d8, .d11, .d12]

/-- The domains that d depends on are among l (Table 1.4). -/
def depsIn (l : List Dom) : Dom → Bool
  | .d0 => true
  | .d1 => l.contains .d0
  | .d2 => l.contains .d0
  | .d5 => l.contains .d2 && l.contains .d3
  | .d6 => l.contains .d2 && l.contains .d4
  | .d7 => l.contains .d2 && (l.contains .d3 || l.contains .d4)
  | .d8 => l.contains .d2 && l.contains .d10
  | .d11 => l.contains .d2 && l.contains .d10
  | _ => l.contains .d2

/-- The line whose plane a domain belongs to (Table 1.4). -/
def planeOf : Dom → Option Line
  | .d3 => some .a
  | .d5 => some .a
  | .d9a => some .a
  | .d4 => some .b
  | .d6 => some .b
  | .d9b => some .b
  | _ => none

/-- A normal disable of the domain is draining (Table 17.1). -/
def draining (s : State) (d : Dom) : Bool := (domSt s d).drainBy.isSome

/-- The enable of a configurable domain (0x2104). -/
def domEnabled (s : State) (d : Dom) : Bool := (cfg s 0x2104 0).testBit (domIx d)

/-- Table 1.5, where the start has reached POWERON_DAWN: whether the node state powers a domain. -/
def statePowers (s : State) (d : Dom) : Bool :=
  match s.node, d with
  | .off, _ => false
  | _, .d0 => true
  | .asleep, _ => false
  | _, .d1 => true
  | _, .d2 => true
  | .fault, .d7 => false
  | .fault, .d5 => false
  | .fault, .d6 => false
  | .fault, .d12 => true
  | .fault, .d8 => false
  | .fault, .d10 => false
  | .fault, .d11 => false
  | .fault, d => domOn s d
  | .exit, .d7 => false
  | .exit, .d12 => domOn s .d12 && s.hpl.exit ≠ .hostGone
  | .exit, .d8 => domOn s .d8 && s.hpl.exit ≠ .safe && s.hpl.exit ≠ .hostGone
  | .exit, .d10 => domOn s .d10 && s.hpl.exit ≠ .safe && s.hpl.exit ≠ .hostGone
  | .exit, .d11 => domOn s .d11 && s.hpl.exit ≠ .safe && s.hpl.exit ≠ .hostGone
  | .exit, d => domOn s d && (s.hpl.exit = .warned || s.hpl.exit = .releasing)
  | .dawn, .d7 => true
  | .joining, .d7 => true
  | _, .d7 => domEnabled s .d7
  | _, .d8 => domEnabled s .d8
  | _, .d10 => domEnabled s .d10
  | _, .d11 => domEnabled s .d11
  | _, .d12 => domEnabled s .d12
  | _, _ => true

/-- Whether the block asks for a domain now: Table 1.5, or before POWERON_DAWN what Table 18.2 has reached; not while it is
faulted (R438) or its plane is out of service (R439); a domain that drains, or on which one that drains depends, stays. -/
def asksFor (s : State) (d : Dom) : Bool :=
  let x := domSt s d
  let inService := match planeOf d with
    | some l => !s.pwr.outDone.getLsbD (lineIx l)
    | none => true
  let state := if s.hpl.boot = .dawned || s.node = .fault || s.node = .off || s.node = .asleep || s.node = .exit then statePowers s d
    else match d with
      | .d0 => true
      | .d1 => true
      | .d2 => true
      | .d12 => domEnabled s .d12 && s.hpl.boot ≠ .none && s.hpl.boot ≠ .started && s.hpl.boot ≠ .waking
      | _ => false
  !x.heldOff && x.retryAt.isNone && inService
    && (state || x.drainBy.isSome || (d = .d10 && (draining s .d8 || draining s .d11)))

/-- The domains that are to be on (R32, R34). -/
def wantedDoms (s : State) : List Dom :=
  domOrder.foldl (fun l d => if asksFor s d && depsIn l d then l ++ [d] else l) []

/-- Frames held in one plane only are gone with it (R26). -/
def dropPlane (l : Line) (s : State) : State :=
  flowAll ((List.range 20).foldl (fun s p =>
    if (macSt s p).queues.isEmpty then s
    else setMac p { macSt s p with queues := (macSt s p).queues.map (fun e => (e.1, e.2.filter (fun x => x.plane ≠ some l))) } s) s)

/-- A plane is no longer complete: the line is LOST while energised, and its relay releases at once (R33, R71). -/
def planeDown (l : Line) (s : State) : State := releaseNow l (evalLine 0xFF (dropPlane l s) l)

/-- The MAC of a port stops as FORCE_STOP stops it; its enables stand for when the domain returns (Table 17.1, log 45). -/
def macStop (p : Nat) (s : State) : State :=
  let s := flushQueues p (wireMark p (settleWire p s))
  flowAll (setMac p { macSt s p with rest := none, txDrained := true, rxDrained := true } s)

/-- A store whose session is lost goes on without it (R294). -/
def storingFor (i : Session) (s : State) : Option Storing :=
  s.od.storing.map (fun x => if x.sess = i then { x with gone := true } else x)

/-- The endpoint and the Host session are reset (R462, R484): the endpoint's configuration, the MSI-X table, the PBA, the mask,
the vectors, and the mailbox (log 46); the Host's OPEN take is scrapped, which is still to be told (R322). The cause bits stay. -/
def endpointReset (s : State) : State :=
  let u := s.tak.user
  let s := if u.state = .open_ && u.owner = ownerCode hostSession then scrapUser 5 s else s
  let s := setSess hostSession { level := 2, scrapUntold := (sessOf s hostSession).scrapUntold } s
  { s with irq := { cause := s.irq.cause, linkPorts := s.irq.linkPorts, pwdPorts := s.irq.pwdPorts, retryStatus := s.irq.retryStatus },
           reg := s.reg.filter (fun e => !(decide (0x8000 ≤ e.1 ∧ e.1 < 0x9000))),
           od.mbxBusy := false, od.mbxDone := false, od.mbxMore := false, od.mbxCollision := false, od.mbxAbort := 0,
           od.mbxObjLen := 0, od.mbxData := [], od.queue := s.od.queue.filter (fun e => e.1 ≠ hostSession.val),
           od.unanswered := s.od.unanswered.filter (fun e => e.sess ≠ hostSession), od.storing := storingFor hostSession s }

/-- What the loss of a domain takes with it (Tables 1.4, 1.6, 17.1). -/
def domLost (d : Dom) (s : State) : State :=
  match d with
  | .d0 => s
  | .d1 =>
    let s := noteDriven (setDom .d1 { domSt s .d1 with on := true } s) s
    trainLinesLost (releaseBoth (if s.node = .asleep then s else raiseIrq 14 s))
  | .d2 => s
  | .d3 => planeDown .a s
  | .d4 => planeDown .b s
  | .d9a => planeDown .a s
  | .d9b => planeDown .b s
  | .d5 => portDisable 1 2 (portDisable 0 2 (planeDown .a s))
  | .d6 => portDisable 3 2 (portDisable 2 2 (planeDown .b s))
  | .d7 => (List.range 13).foldl (fun s i => portDisable (i + 4) 2 (macStop (i + 4) s)) s
  | .d8 =>
    coreSpliceClose { s with cpu.running := 0, cpu.imgOk := false, cpu.nics := [], cpu.mtimecmp := [],
                             cpu.timerIrq := 0, cpu.swIrq := 0, cpu.plic := [], cpu.claimed := [] }
  | .d10 =>
    let s := hostSpliceClose (recLost { s with spl.mem := [], cpu.dram := [] })
    if s.chk.run = .descriptor then chkLost s else s
  | .d11 => recLost s
  | .d12 => endpointReset (hostSpliceClose s)

/-- What a domain that has come on starts (Tables 2.5, 17.1). -/
def domBack (d : Dom) (s : State) : State :=
  match d with
  | .d1 =>
    let s := noteDriven (setDom .d1 { domSt s .d1 with on := false } s) (followAll s)
    if s.node = .member || s.node = .joining then startInsertion s else s
  | .d5 => portEnable 1 (portEnable 0 s)
  | .d6 => portEnable 3 (portEnable 2 s)
  | .d7 => (List.range 13).foldl (fun s i => portEnable (i + 4) (macEnables (i + 4) s)) s
  | _ => s

/-- A plane that was lost or out of service is complete again: it waits to rejoin (R37). One that was out of service runs the loop check of
its line first, whatever an earlier one gave (R439). -/
def planeBack (before s : State) (l : Line) : State :=
  let i := lineIx l
  if planeComplete s l && !planeComplete before l && (before.pwr.planeLost.getLsbD i || before.pwr.outDone.getLsbD i) then
    let s := { s with pwr.planeLost := putBit s.pwr.planeLost i false, pwr.returning := putBit s.pwr.returning i true }
    startLoopCheck l (if before.pwr.outDone.getLsbD i then setLine l { lineSt s l with loopOk := false } s else s)
  else s

/-- The domains that ASLEEP powers at a low level (Table 1.5): D2 in burst mode, the PHYs for link-energy detection, D7 where a port is
wake-enabled. -/
def lowAsleep (s : State) : Dom → Bool
  | .d2 => true
  | .d5 => true
  | .d6 => true
  | .d7 => (List.range 13).any (fun i => cfgOn s 0x2913 (i + 5))
  | _ => false

/-- The low levels of ASLEEP follow the node state; a domain that faults there loses its own. -/
def followLow (s : State) : State :=
  [Dom.d2, .d5, .d6, .d7].foldl (fun s d =>
    let v := s.node = .asleep && lowAsleep s d && !(domSt s d).heldOff && (domSt s d).retryAt.isNone
    if (domSt s d).low = v then s else setDom d { domSt s d with low := v } s) s

/-- The order in which a domain fault switches off: the reverse of Table 1.4, where D8 goes before the D10 it depends on (R32,
log 149). -/
def faultOrder : List Dom := [.d12, .d11, .d8, .d10, .d9b, .d9a, .d7, .d6, .d5, .d4, .d3, .d2, .d1, .d0]

/-- Domains go off, in an order. -/
def domsOff (l : List Dom) (s : State) : State :=
  l.foldl (fun s d => domLost d (setDom d { domSt s d with on := false, drainBy := none } s)) s

/-- Domains come on, in an order. -/
def domsOn (l : List Dom) (s : State) : State := l.foldl (fun s d => domBack d (setDom d { domSt s d with on := true } s)) s

/-- The domains follow what is asked for: off in an order, then on in that of Table 1.4 (R32). -/
def powerFollowBy (order : List Dom) (s : State) : State :=
  let s := followLow s
  let want := wantedDoms s
  let off := order.filter (fun d => domOn s d && !want.contains d)
  let on := domOrder.filter (fun d => !domOn s d && want.contains d)
  let t := domsOn on (domsOff off s)
  resumeInsert (evalLines 0xFF (planeBack s (planeBack s t .a) .b))

/-- The domains follow what is asked for: off so that each goes before those it depends on, a plane's PHY domain before its sub-rail
and its plane domain (R32, R439). -/
def powerFollow (s : State) : State := powerFollowBy domOrder.reverse s

/-- A normal disable of a domain begins (Table 17.1): what it may wait for, and for how long. -/
def startDrain (d : Dom) (s : State) : State :=
  if !domOn s d || draining s d then s
  else
    let limit (n : Nat) (s : State) : State := setDom d { domSt s d with drainBy := some (s.up + n) } s
    match d with
    | .d8 =>
      let s := { s with cpu.running := 0 }
      if coreSpliceIdle s then s else limit fr s
    | .d11 => if s.log.queue.isEmpty then s else limit (2 * fr) s
    | .d12 => if splIdle s then s else limit (largestCompletionTimeout s + fr) s
    | _ => s

/-- A domain's normal disable has drained. -/
def hasDrained (s : State) : Dom → Bool
  | .d8 => coreSpliceIdle s
  | .d11 => s.log.queue.isEmpty
  | .d12 => splIdle s
  | _ => true

/-- A domain that was draining and has drained goes off (Table 17.1). -/
def drainCheck (d : Dom) (s : State) : State :=
  if draining s d && hasDrained s d then powerFollow (setDom d { domSt s d with drainBy := none } s) else s

/-- 0x2104 has changed at an apply instant (R437, Table 17.1). -/
def domEnablesApply (old : Nat) (s : State) : State :=
  let cleared (d : Dom) : Bool := old.testBit (domIx d) && !domEnabled s d
  -- an application image that was rejected is loaded anew (R418)
  let s := if !old.testBit 8 && domEnabled s .d8 && !(domSt s .d8).fault then setDom .d8 { domSt s .d8 with heldOff := false } s else s
  powerFollow ([Dom.d8, .d11, .d12].foldl (fun s d => if cleared d then startDrain d s else s) s)

/-- The plane of line l is taken out (R439): at once where its line is BYPASSED, else after the release of the line. -/
def planeGoesOut (l : Line) (s : State) : State :=
  let i := lineIx l
  if lineEnergised s l then releaseLine l { s with pwr.outPending := putBit s.pwr.outPending i true }
  else powerFollow { s with pwr.outDone := putBit s.pwr.outDone i true }

/-- The plane of line l returns (R439); where it had not gone off yet, its line is inserted again. -/
def planeReturns (l : Line) (s : State) : State :=
  let i := lineIx l
  if s.pwr.outDone.getLsbD i then planeBack s (powerFollow { s with pwr.outDone := putBit s.pwr.outDone i false }) l
  else
    let s := { s with pwr.outPending := putBit s.pwr.outPending i false }
    insertLine l (if (cfg s 0x2308 0).testBit i then s else unforce l s)

/-- PLANE_CTRL has changed at an apply instant (R439). Where both planes go out, their lines are released in the order of R56. -/
def planeOutApply (old : Nat) (s : State) : State :=
  if cfg s 0x2105 0 % 4 = 3 && old % 4 ≠ 3 && s.bb.a.energised && s.bb.b.energised then startRelease { s with pwr.outPending := 3 }
  else [Line.a, .b].foldl (fun s l =>
    let now := (cfg s 0x2105 0).testBit (lineIx l)
    if now && !old.testBit (lineIx l) then planeGoesOut l s
    else if !now && old.testBit (lineIx l) then planeReturns l s
    else s) s

/-! ### FAULT, node reset, loss of the supply (R25, R59, R450, R451) -/

/-- The node goes to FAULT (R25, R34, R326, R401): both relays release at once, both takes are scrapped, the cause is
recorded; the domains follow once the recorder and the cluster have drained. -/
def enterFault (s : State) : State :=
  if s.node = .off || s.node = .fault then s
  else
    let before := s
    let leaving := s.node = .exit && !s.hpl.safeToRemove
    let (n, s) := nextFree s
    let s := fire 5 6 [Config.code n] (raiseIrq 16 (releaseBoth (holdOutputs s)))
    let s := scrapSys 9 (scrapUser 9 s)
    let delay := cfg s 0x2143 0
    let s := startDrain .d11 (startDrain .d8 s)
    let s := noteDriven before (setNode .fault s)
    let s := powerFollow { s with hpl.faultRecoverBy := if delay = 0 then none else some (s.up + delay * rl), hpl.waitCool := false,
                                  wak.ringStart := none, wak.duskAt := none, wak.duskDue := none, wak.sleepInd := .none }
    if leaving then { s with bb.seq := .relDone (s.up + 7 * fr) } else s

/-- Registers kept through a node reset: the HPL and WAK blocks and SCRATCH (R451). -/
def keptReg (a : Nat) : Bool := decide (0x3000 ≤ a ∧ a < 0x5000) || a == 0x24

/-- What the non-volatile memory holds of the recorder (R371, R378). -/
def recKept (s : State) : RecSt :=
  { store := s.log.store, junkPages := s.log.junkPages, nextSeq := s.log.nextSeq, opTime := s.log.opTime, powerCycle := s.log.powerCycle }

/-- What the non-volatile memory holds of the dictionary (R289, R297, R303). -/
def odKept (s : State) : OdSt := { copyA := s.od.copyA, copyB := s.od.copyB, saved := s.od.saved, keys := s.od.keys }

/-- Fuses, slots, keys (R416, R417, R423): the slot chosen for the next reset becomes the active one. -/
def cpuKept (s : State) : CpuSt :=
  { activeSlot := s.cpu.nextSlot.getD s.cpu.activeSlot, fusedVersion := s.cpu.fusedVersion, revoked := s.cpu.revoked,
    appKey := s.cpu.appKey, keyDigests := s.cpu.keyDigests, slots := s.cpu.slots,
    macsec := (s.cpu.macsec.filter (fun e => !e.2.cak.isEmpty)).map (fun e => (e.1, { cak := e.2.cak })) }

/-- What the supply measures now stands through a reset (log 47). -/
def supplyKept (s : State) : PwrSt :=
  { sag := s.pwr.sag, sagAt := s.pwr.sagAt, sagInput := s.pwr.sagInput, sagBus := s.pwr.sagBus, holdupOn := s.pwr.holdupOn,
    holdupLow := s.pwr.holdupLow, bankOk := s.pwr.bankOk, inputLevel := s.pwr.inputLevel, bank := s.pwr.bank, bus := s.pwr.bus,
    inputPower := s.pwr.inputPower, tempNow := s.pwr.tempNow, tempOut := s.pwr.tempOut }

/-- A node reset with a cause code of Table 18.1 (R451). The start goes on from "Bus in range"; after BUS_LOW the bus has yet
to come back. -/
def resetNode (cause : Nat) (s : State) : State :=
  let s := recLost (releaseBoth s)
  let r := State.reset
  -- a single pair stays single until the next power-on (R415); pair 0 restarts from the loss of both members (Table 1.7, log 150)
  let pairs := if s.cpu.pairs &&& 3 = 0 then s.cpu.pairs ||| 3 else s.cpu.pairs
  powerFollow (bump 0x3044
    { r with
      pending := s.pending, up := s.up, free := s.free, out := s.out, uid := s.uid, baseMac := s.baseMac, serial := s.serial,
      hwRev := s.hwRev, fwVersion := s.fwVersion, reg := s.reg.filter (fun e => keptReg e.1), pwr := supplyKept s,
      hpl := { seatedHv := s.hpl.seatedHv, seatedLv := s.hpl.seatedLv, handleLocked := s.hpl.handleLocked, warnSrc := s.hpl.warnSrc,
               cause := cause, prevCause := s.hpl.cause, exitTime := s.hpl.exitTime,
               boot := if cause = 2 then .started else .busInRange, t0 := s.up,
               lampTestBy := s.hpl.lampTestBy },
      wak := { s.wak with sleepInd := .none, ringStart := none, consentOut := none, consentBoth := none, duskDue := none, duskAt := none,
                          duskSpl := false, duskPdb := false, duskOneOff := false, pulseBy := none, timerAt := none, watched := false,
                          latched := none, pendWake := none,
                          idleFrom := s.up, lastKeepAlive := [] },
      log := { recKept s with lost := s.log.lost, fullNoted := s.log.fullNoted, lastWordsDone := s.log.lastWordsDone,
                              lastWordsLost := s.log.lastWordsLost, prevLastWords := s.log.prevLastWords },
      od := odKept s, cpu := { cpuKept s with pairs := pairs },
      bb.a.lastSwitch := s.bb.a.lastSwitch, bb.b.lastSwitch := s.bb.b.lastSwitch })

/-- D0 loses its supply (R59, R434): both relays release and the node is OFF. What is not volatile stands. -/
def supplyLost (s : State) : State :=
  if s.node = .off then s
  else
    let s := releaseBoth s
    let r := State.reset
    { r with
      pending := s.pending, up := s.up, free := s.free, out := s.out, uid := s.uid, baseMac := s.baseMac, serial := s.serial,
      hwRev := s.hwRev, fwVersion := s.fwVersion, node := .off, pwr := { dom := [] },
      hpl := { warnSrc := if s.hpl.warnSrc = 4 then 4 else 0 },
      log := { recKept s with prevLastWords := s.log.lastWordsDone && s.pwr.sag },
      od := odKept s, cpu := cpuKept s, bb.a.lastSwitch := s.bb.a.lastSwitch, bb.b.lastSwitch := s.bb.b.lastSwitch }

/-! ### Domain faults (R438) -/

/-- The plane byte of DOMAIN_FAULT (Table 14.2). -/
def planeByte (d : Dom) : Byte :=
  match planeOf d with
  | some .a => 0
  | some .b => 1
  | none => 0xFF

/-- A domain faults (R32, R36, R438, Tables 1.7, 13.1). -/
def faultDomain (d : Dom) (s : State) : State :=
  let x := domSt s d
  let again := match x.lastFault with
    | some t => decide (s.up < t + 16 * rl)
    | none => false
  let s := setDom d { x with fault := true, heldOff := again, lastFault := some s.up, retryAt := if again then none else some (s.up + rl) } s
  let s := match planeOf d with
    | some l => { s with pwr.planeLost := putBit s.pwr.planeLost (lineIx l) true }
    | none => s
  let s := powerFollowBy faultOrder s
  let s := fire 2 5 [BitVec.ofNat 8 (domNumber d), planeByte d] (raiseIrq 16 (bump 0x2048 s))
  if s.pwr.planeLost = 3 || s.node = .dusk || s.node = .asleep then enterFault s else s

/-- A domain's regulator leaves its limits: a fault of D0 or D2 is a loss of the node (R59). -/
def domainFault (d : Dom) (s : State) : State :=
  if d = .d0 then supplyLost s
  else if s.node = .asleep then (if (domSt s d).low then faultDomain d s else s)
  else if !domOn s d then s
  else if d = .d2 then resetNode 2 (faultDomain .d2 s)
  else faultDomain d s

/-- DOMAIN_FAULT (R438). -/
def execDomainFault (d : Dom) (s : State) : Ans := .next (domainFault d s)

/-- DOMAIN_RETRY (R438): 1 rl after the fault, the domain is tried once more. -/
def execDomainRetry (d : Dom) (s : State) : Ans :=
  match (domSt s d).retryAt with
  | none => .next s
  | some t =>
    let s := passTo t s
    .next (powerFollow (setDom d { domSt s d with retryAt := none } s))

/-- The bits of DOM_FAULT written as 1 clear; a domain held off is released (R438). Bit 9 clears both sub-rails. -/
def domFaultClear (mask : Word) (s : State) : State :=
  let hit (d : Dom) : Bool := bitOf mask (domIx d) || ((d = .d9a || d = .d9b) && bitOf mask 9)
  powerFollow (domOrder.foldl (fun s d =>
    if hit d && (domSt s d).fault then setDom d { domSt s d with fault := false, heldOff := false } s else s) s)

/-- DOM_FAULT_CLEAR (R438): a host write to DOM_FAULT. -/
def execDomFaultClear (mask : Word) (s : State) : Ans := if reaches s .host then .next (domFaultClear mask s) else .next s

/-- PLANE_REJOIN (R37): at a frame boundary the plane rejoins and its line is inserted. -/
def execPlaneRejoin (l : Line) (s : State) : Ans :=
  if !s.pwr.returning.getLsbD (lineIx l) || !planeComplete s l || (lineSt s l).checking then .next s
  else
    let s := toFrame s
    .next (insertLine l { s with pwr.returning := putBit s.pwr.returning (lineIx l) false })

/-- PLANE_DOMAINS_OFF (R439): the line of a plane that goes out of service is BYPASSED. -/
def execPlaneDomainsOff (l : Line) (s : State) : Ans :=
  let i := lineIx l
  if !s.pwr.outPending.getLsbD i || lineEnergised s l then .next s
  else .next (powerFollow { s with pwr.outPending := putBit s.pwr.outPending i false, pwr.outDone := putBit s.pwr.outDone i true })

/-- DOMAIN_OFF_DRAIN_TIMEOUT (R437, Table 17.1): the limit of a normal disable has passed; what remains is stopped by force as
the domain goes off. -/
def execDomainOffDrainTimeout (d : Dom) (s : State) : Ans :=
  match (domSt s d).drainBy with
  | none => .next s
  | some t =>
    let s := passTo t s
    .next (powerFollow (setDom d { domSt s d with drainBy := none } s))

/-- SPLICE_DRAINED (R237): the bridge, a window, a region or a stream is disabled and nothing of it is left; a domain D8 or
D12 that waited for it goes off (Table 17.1). -/
def execSpliceDrained (x : SpliceUnit) (s : State) : Ans := .next (drainCheck .d12 (drainCheck .d8 (spliceDrained x s)))

/-- COMMON_FABRIC_FAULT (R25): pair 1 detects a fault of the common fabric. -/
def execCommonFabricFault (s : State) : Ans := if domOn s .d2 then .next (enterFault s) else .next s

/-- An energised coil is in its pull-in: the 2 fr after energising (Table 20.4). -/
def pullIn (s : State) (l : Line) : Bool :=
  match (lineSt s l).lastSwitch with
  | some t => decide (s.up < t + 2 * fr)
  | none => false

/-- What a relay drive applies, in V: 24 in pull-in, 12 in hold; open circuit where it is de-energised (Table 20.4). -/
def relayDrive (s : State) (l : Line) : Option Nat := if lineEnergised s l then some (if pullIn s l then 24 else 12) else none

/-- A coil current is a coil fault (Table 20.4). -/
def coilBad (s : State) (l : Line) (current : Nat) : Bool :=
  decide (current < 8) || decide ((if pullIn s l then 130 else 70) < current)

/-- RELAY_COIL_FAULT (R53, R489): for 4 pf the current of an energised coil has been outside its limits. The drive is cut and the line
stays released. -/
def execRelayCoilFault (m : CoilIn) (s : State) : Ans :=
  let l := m.line
  if !lineEnergised s l || !coilBad s l m.current.toNat then .next s
  else
    let s := releaseNow l s
    .next (resumeInsert (reportLine l (setLine l { lineSt s l with coilFault := true } s)))

/-! ### The supply (R431 to R436) -/

/-- What the supply measures (Tables 17.7, 17.8). BANK_OK and HOLDUP_LOW follow the bank. -/
def takeSupply (m : Supply) (s : State) : State :=
  { s with pwr.inputLevel := m.input.toNat, pwr.bank := m.bank.toNat, pwr.bus := m.bus.toNat, pwr.inputPower := m.power.toNat,
           pwr.bankOk := decide (15000 < m.bank.toNat), pwr.holdupLow := decide (m.bank.toNat < 6400) }

/-- The train input, in 0.1 mV, and a percentage of the nominal voltage (0x2101). -/
def inputOf (m : Supply) : Nat := 25 * m.input.toNat
def ofNominal (s : State) (percent : Nat) : Nat := 100 * percent * cfg s 0x2101 0

/-- HOLDUP_SWITCH_CLOSE (R431): the train input is below 14.0 V. -/
def execHoldupSwitchClose (m : Supply) (s : State) : Ans :=
  let s := takeSupply m s
  if s.pwr.holdupOn || s.node = .off || 140000 ≤ inputOf m then .next s else .next (bump 0x2044 { s with pwr.holdupOn := true })

/-- HOLDUP_SWITCH_OPEN (R431): the train input is above 15.5 V. -/
def execHoldupSwitchOpen (m : Supply) (s : State) : Ans :=
  let s := takeSupply m s
  if inputOf m ≤ 155000 then .next s else .next { s with pwr.holdupOn := false }

/-- BANK_OK (R432): the bank is measured. -/
def execBankOk (m : Supply) (s : State) : Ans := .next (takeSupply m s)

/-- HOLDUP_LOW (R433): the bank is measured. -/
def execHoldupLow (m : Supply) (s : State) : Ans := .next (takeSupply m s)

/-- BUS_LOW (R434): below 9.5 V on the intermediate bus every logic-side domain resets. -/
def execBusLow (m : Supply) (s : State) : Ans :=
  if s.node = .off || s.node = .asleep then .next s
  else if 9500 ≤ m.bus.toNat then .next (takeSupply m s)
  else .next (resetNode 2 (takeSupply m s))

/-- D0_SUPPLY_LOST (R59, R434). -/
def execD0SupplyLost (s : State) : Ans := .next (supplyLost s)

/-- The image of the inactive slot is complete (R417). -/
def imageDone (x : SlotImage) (s : State) : State := { s with cpu.slots := tset s.cpu.slots (if s.cpu.activeSlot then 0 else 1) x }

/-- A store is answered, where its session still stands (R294). -/
def storeAnswer (x : Storing) (r : Rsp) (s : State) : State := if x.gone then s else finish x.sess .write x.req r s

/-- A store that sag interrupts stops without its mark and is answered NOT_STORED (R304). -/
def storeStopped (s : State) : State :=
  match s.od.storing with
  | some x => storeAnswer x (codeRsp .write x.req aNotStored 0) { s with od.storing := none }
  | none => s

/-- The train input is below the sag threshold; the bus is below 10.2 V; both are high again (R435). -/
def inputSags (m : Supply) (s : State) : Bool := decide (inputOf m < ofNominal s (cfg s 0x2102 0))
def busSags (m : Supply) : Bool := decide (m.bus.toNat < 10200)
def supplyHigh (m : Supply) (s : State) : Bool :=
  decide (ofNominal s (cfg s 0x2102 0 + cfg s 0x2103 0) < inputOf m) && decide (10800 < m.bus.toNat)

/-- SAG_BEGIN (R435, R304): the train input, the intermediate bus, or both have been low for 16 pf, as named and measured. -/
def execSagBegin (input bus : Bool) (m : Supply) (s : State) : Ans :=
  let input := input && inputSags m s
  let bus := bus && busSags m
  let s := takeSupply m s
  if s.node = .off || !(input || bus) then .next s
  else
    let held := s.pwr.sag
    let s := { s with pwr.sagInput := s.pwr.sagInput || input, pwr.sagBus := s.pwr.sagBus || bus }
    if held then .next s
    else
      let s := { s with pwr.sag := true, pwr.sagAt := s.up, log.lastWordsDone := false, log.lastWordsLost := false }
      .next (storeStopped (fire 26 4 [if input then 1 else 2] (bump 0x2040 (raiseIrq 15 s))))

/-- SAG_END (R435, R417, R381): both have been high for 1 fr; the writers resume. -/
def execSagEnd (m : Supply) (s : State) : Ans :=
  let s := takeSupply m s
  if !s.pwr.sag || !supplyHigh m s then .next s
  else
    let s := match s.cpu.imageWait with
      | some v => imageDone v s
      | none => s
    .next (raiseFuse (raiseIrq 15 { s with pwr.sag := false, pwr.sagInput := false, pwr.sagBus := false, cpu.imageWait := none }))

/-! ### Core-voltage loops (R440 to R443) -/

/-- The domain of loop k (Table 17.2). -/
def loopDom (k : Nat) : Dom :=
  match k with
  | 0 => .d3 | 1 => .d4 | 2 => .d9a | 3 => .d9b | 4 => .d8 | 5 => .d2 | 6 => .d11 | _ => .d12

def setLoop (k : Nat) (x : LoopSt) (s : State) : State := { s with pwr.loops := tset s.pwr.loops k x }

/-- A voltage, in half millivolts, kept between V_MIN and 0.95 V. -/
def clampVolt (vmin v : Nat) : Nat := min (max v vmin) 1900

/-- The supply moves toward v: up by at most 20 mV, down by at most 2.5 mV (Table 17.3). -/
def moveVolt (now v : Nat) : Nat := if now ≤ v then min v (now + 40) else max v (now - 5)

/-- A voltage rounded up to a step of 2.5 mV (Table 17.3). -/
def voltStep (v : Nat) : Nat := (v + 4) / 5 * 5

/-- The next supply of a loop (Table 17.3). The law between the set point and the actuator is not stated: a free number of
2.5 mV steps within the stated rates (log 65), at which the limits are approached too. Above 50 % the rate floor is reached by the second
update, and the law may go past it; it stands until the occupancy is back at its target (Table 17.6). -/
def nextVolt (mode vmin target occ floorV : Nat) (x : LoopSt) (r : Nat) : Nat :=
  if mode = 2 then moveVolt x.now 1600
  else
    let want := if mode = 1 then x.held.getD x.now
      else if target < occ then x.now + 5 * (r % 9)
      else if occ < target then x.now - 5 * (r % 2)
      else x.now
    let v := moveVolt x.now (clampVolt vmin want)
    if x.floor && decide (target < occ) then max v floorV
    else if 50 < occ then max v (x.now + 5 * (r / 9 % ((floorV - x.now) / 5 + 1)))
    else v

/-- LOOP_UPDATE (R441): one pf of loop k: the highest watched occupancy in %, the completions, and the rate-floor voltage in
mV at the present temperature. -/
def execLoopUpdate (k : Fin 8) (occ : Fin 101) (completions : Word) (floorV : BitVec 10) (s : State) : Ans :=
  if !domOn s (loopDom k.val) then .next s
  else
    let (n, s) := nextFree s
    let x := loopSt s k.val
    let mode := cfg s 0x2110 (k.val + 1)
    let target := cfg s 0x2111 (k.val + 1)
    let vmin := voltStep (2 * cfg s 0x2112 (k.val + 1))
    let fv := voltStep (clampVolt vmin (2 * floorV.toNat))
    let v := nextVolt mode vmin target occ.val fv x (Config.value n)
    let sat := v = 1900 && decide (target < occ.val) && mode ≠ 2
    .next (setLoop k.val
      { x with now := v, hi := max x.hi v, lo := if x.lo = 0 then v else min x.lo v, rate := completions.toNat,
               floor := mode ≠ 2 && (decide (50 < occ.val) || (x.floor && decide (target < occ.val))),
               satSince := if sat then x.satSince.or (some s.up) else none,
               satCounted := sat && x.satCounted, satNoted := sat && x.satNoted } s)

/-- LOOP_SATURATION (R441): a loop has stood at 0.95 V above its target for 1 fr. A fault of the domain in the same perf prevails
(Table 17.6), so it acts at the end of its perf. -/
def execLoopSaturation (k : Fin 8) (s : State) : Ans :=
  let x := loopSt s k.val
  match x.satSince with
  | none => .next s
  | some t =>
    if x.satCounted || !domOn s (loopDom k.val) then .next s
    else
      let s := passTo (t + fr) s
      let s := passToInstant (nextPerf s.now) s
      .next (bump (0x210C + 0x10 * k.val) (setLoop k.val { x with satHigh := true, satCounted := true } s))

/-- LOOP_SAT_LONG (R443): a saturation of a plane loop has lasted 1 rl. -/
def execLoopSatLong (k : Fin 4) (s : State) : Ans :=
  let x := loopSt s k.val
  match x.satSince with
  | none => .next s
  | some t =>
    if x.satNoted || !domOn s (loopDom k.val) then .next s
    else
      let s := passTo (t + rl) s
      let d := loopDom k.val
      .next (fire 2 4 [BitVec.ofNat 8 (domNumber d), planeByte d] (setLoop k.val { x with satNoted := true } s))

/-- A loop's mode has changed at an apply instant: mode 1 holds the present supply (Table 17.3). -/
def loopsApply (s : State) : State :=
  (List.range 8).foldl (fun s k =>
    let x := loopSt s k
    setLoop k { x with held := if cfg s 0x2110 (k + 1) = 1 then x.held.or (some x.now) else none } s) s

/-! ### Case temperature (R445) -/

/-- The case temperature, in 0.5 °C. -/
def setTemp (t : Int) (s : State) : State := { s with pwr.tempNow := t, pwr.tempMax := some (max t (s.pwr.tempMax.getD t)) }

/-- The case temperature is measured: an excursion out of the operating range is recorded once. -/
def takeTemp (t : BitVec 16) (s : State) : State :=
  let s := setTemp t.toInt s
  let out := t.toInt < -110 || 250 < t.toInt
  if out && !s.pwr.tempOut then fire 30 4 (beBytes 2 t.toNat) { s with pwr.tempOut := true }
  else { s with pwr.tempOut := out }

/-- TEMP_EXCURSION (R445): the case temperature, where it leaves the operating range or comes back into it. -/
def execTempExcursion (t : BitVec 16) (s : State) : Ans := if s.node = .off then .next s else .next (takeTemp t s)

/-- THERMAL_FAULT (R445): the case has been above 135 °C for 16 fr. -/
def execThermalFault (t : BitVec 16) (s : State) : Ans :=
  if s.node = .off || t.toInt ≤ 270 then .next s
  else
    let s := { takeTemp t s with pwr.thermal := true }
    if s.node = .fault then .next s else .next (enterFault (bump 0x204C s))

/-! ### Status reads with a side effect (R475) -/

/-- TEMP_STATUS_READ (R445, R475). -/
def execTempStatusRead (who : Requester) (s : State) : Ans :=
  if !reaches s who then .next (turnedAway who s)
  else .next { emit (.readData who 0x2018 (tempWord s)) s with pwr.tempMax := none }

/-- LOOP_STATUS_READ (R441, R475). -/
def execLoopStatusRead (who : Requester) (k : Fin 8) (s : State) : Ans :=
  if !reaches s who then .next (turnedAway who s)
  else
    let x := loopSt s k.val
    .next (setLoop k.val { x with hi := 0, lo := 0 } (emit (.readData who (0x2104 + 0x10 * k.val) (loopWord s k.val)) s))

/-- EQ_STATUS_READ (R48, R475). -/
def execEqStatusRead (who : Requester) (p : Fin 4) (s : State) : Ans :=
  if !reaches s who then .next (turnedAway who s)
  else .next (setLink p.val { linkSt s p.val with marginMin := none } (emit (.readData who (prt p.val 0x0C) (eqStatusWord s p.val)) s))

end Sys2Proof.Machine
end

