-- ==== Sys2Proof/Machine/Ina.lean ====
section
/-!
DEFINITION. Machine/Ina.lean: inauguration (chapter 3): the timers and messages of the junctions, collection, the vote, the
activation of a Call Sheet.
-/
namespace Sys2Proof.Machine

/-! ### The image read back (Table 3.7) -/

/-- One entry of 12 bytes. -/
def sheetEntryOf (b : List Byte) : SheetEntry :=
  let f := (b.getD 9 0).toNat
  { uid := BitVec.ofNat 48 (beNat (b.take 6)), consist := (b.getD 7 0).toNat, consistPos := (b.getD 8 0).toNat, inverse := f.testBit 7,
    legacy := f.testBit 6, cabFore := f.testBit 5, cabAft := f.testBit 4, aIn := f.testBit 3, bIn := f.testBit 2 }

/-- n entries. -/
def sheetEntriesOf : Nat → List Byte → List SheetEntry
  | 0, _ => []
  | n + 1, b => sheetEntryOf (b.take 12) :: sheetEntriesOf n (b.drop 12)

/-- The Call Sheet an image gives, with an activation instant. -/
def sheetOf (b : List Byte) (instant : Instant) : Sheet :=
  let f := (b.getD 1 0).toNat
  { legacyMode := f.testBit 7, refRule := f / 16 % 8, csc := word (beNat ((b.drop 4).take 4)), base := word (beNat ((b.drop 8).take 4)),
    instant := instant, coord := BitVec.ofNat 48 (beNat ((b.drop 20).take 6)), entries := sheetEntriesOf (b.getD 2 0).toNat (b.drop 32) }

/-- An image without its INSTANT, as R92 compares it. -/
def imageKey (b : List Byte) : List Byte := b.take 12 ++ b.drop 20

/-! ### Activation (R99 to R104) -/

/-- Learned backbone entries are flushed in both planes and counted (R99). -/
def flushFdb (s : State) : State :=
  let n := (s.net.fdb.filter (fun e => decide (e.port < 4))).length
  bumpBy 0x48044 n { s with net.fdb := s.net.fdb.filter (fun e => decide (4 ≤ e.port)) }

/-- What Announce brought across a port that is held no more acts (R102). -/
def releaseHeldGm (s : State) (x : Nat × GmData) : State :=
  if heldPort s x.1 then s else bmca x.2 false { s with tim.heldGm := tdel s.tim.heldGm x.1 }

/-- Meridian at I (R102): a grandmaster that left the train is lost; an Announce kept from a held port acts. -/
def inaClock (old : List Uid) (s : State) : State :=
  let gone := s.tim.haveGm && !s.tim.isGm && old.any (fun u => clockId u = s.tim.gm.id && !isMemberUid s u)
  let s := if gone then loseGm s else s
  s.tim.heldGm.foldl releaseHeldGm s

/-- The second line of a node that waited for its Call Sheet is energised (R105). -/
def joinSecondLine (s : State) : State :=
  match s.bb.seq with
  | .insertJoin l _ => if mayInsert s l then controlled l .insert false { s with bb.seq := .insertSecond l } else { s with bb.seq := .none }
  | _ => s

/-- A node in JOINING that the active Call Sheet lists becomes MEMBER (R104, R360). -/
def joinDone (s : State) : State :=
  if s.node = .joining && isMemberUid s s.uid then joinSecondLine (powerFollow (becomeMember s)) else s

/-- A Call Sheet becomes active (R99 to R103). -/
def activateSheet (x : Sheet) (late : Bool) (s : State) : State :=
  let old := callSheetUids s
  let prev := activeCsc s
  let changed := s.ina.changed
  let took := (s.up - s.ina.trigger.getD s.up) / pf
  let s := { s with ina.prevSheet := s.ina.sheet, ina.prevCsc := prev, ina.sheet := some x, ina.late := late, ina.scraps := 0,
                    ina.changed := false, ina.proposal := none, ina.trigger := none, ina.quietAt := none, ina.joinWaitBy := none,
                    tak.sys := { num := s.tak.sys.num }, ina.st := if s.ina.st = .legacy then .legacy else .stable }
  let s := setReg 0x4804C (word took) (bump 0x48030 s)
  let s := if late then bump 0x48038 s else s
  let s := inaClock old (topologyClose (flushFdb s))
  let s := fire 7 3 (beBytes 4 x.csc.toNat ++ beBytes 4 prev.toNat) (raiseIrq 3 s)
  let s := joinDone s
  let s := if changed then collect s else s
  pump (recordChanged s)

/-- The inauguration take in the system slot is applied. -/
def applySheet (late : Bool) (s : State) : State :=
  activateSheet (sheetOf s.tak.sys.content s.tak.sys.instant) late (sysApplied (if late then 2 else 1) s)

/-! ### Collection (R85, R91) -/

/-- The coordinator may not send PREPARE (R91). -/
def prepareBarred (s : State) : Bool :=
  !(s.node = .joining || s.node = .member) || !(s.tak.sys.state = .idle || s.tak.sys.state = .scrapped)

/-- The coordinator sends PREPARE (R91): the vote window is 2 fr, I the first frame boundary after it plus the print margin. -/
def inaPrepare (x : Sheet) (s : State) : State :=
  let p := s.now.toNat
  let i := nextFrame (BitVec.ofNat 64 (p + (2 + cfg s 0x2406 0) * fr))
  let members := (x.entries.filter (fun e => !e.legacy)).map (·.uid)
  let s := { s with ina.coord := true, ina.changed := false, ina.proposal := some x, ina.st := if s.ina.st = .legacy then .legacy else .voting }
  sysPrintIfAll (sysPrepare 2 i (BitVec.ofNat 64 (p + 2 * fr)) 0 (sheetBytes x) members s)

/-- The quiet time has passed: what the node does with its proposal (R91, Table 3.8). A node in JOINING that sees itself alone waits
for the join wait (R104, log 139). -/
def decideProposal (s : State) : State :=
  match buildProposal s with
  | none => s
  | some x =>
    -- what changed before this proposal does not speak against it (R92)
    let s := if s.tak.sys.kind = 2 && (s.tak.sys.state = .prepared || s.tak.sys.state = .printed) then s else { s with ina.changed := false }
    if equalsActive s x && !(cfgOn s 0x2403 0 && cabChanged s x) then
      if s.ina.st = .legacy then { s with ina.proposal := none } else joinDone { s with ina.st := .stable, ina.proposal := none, ina.trigger := none }
    else if s.node = .joining && x.entries.map (·.uid) = [s.uid] then s
    else if addsMembers s x && inhibitSeen s then
      (if s.ina.st = .legacy then s else { s with ina.st := .held, ina.proposal := some x })
    else if x.coord = s.uid then
      if prepareBarred s then s else inaPrepare x s
    else { s with ina.coord := false, ina.proposal := some x, ina.st := if s.ina.st = .legacy then .legacy else .voting }

/-- A REASON that is not stated: a free value among those of Table 12.3. -/
def freeReason (s : State) : Nat × State :=
  let (n, s) := nextFree s
  (1 + Config.value n % 9, s)

/-- The REASON with which a member refuses an inauguration PREPARE, 0 for YES (R92). The REASON for INHIBIT and for records that
changed after the proposal was built is not stated: a free value. -/
def inaReason (m : TakeMsg) (s : State) : Nat × State :=
  let own := s.ina.proposal.or (buildProposal s)
  if s.node = .exit || s.node = .fault then (4, s)
  else if !(s.tak.sys.state = .idle || s.tak.sys.state = .scrapped) then (5, s)
  else if s.ina.changed then freeReason s
  else match own with
  | none => (1, s)
  | some x =>
    if imageKey (sheetBytes x) ≠ imageKey m.content then (1, s)
    else if s.ina.inhibit && x.entries.any (fun e => !isMemberUid s e.uid) then freeReason s
    else (0, { s with ina.proposal := some x })

/-- The vote of a node (R92, Table 3.8). -/
def inaVote (m : TakeMsg) (s : State) : State :=
  let s := sysPrepareHits s
  let (r, s) := inaReason m s
  let v : TakeMsg := { kind := 2, coord := m.coord, num := m.num, instant := m.instant, vote := if r = 0 then 1 else 2, reason := r }
  if r = 0 then
    let s := { s with tak.sys := { state := .prepared, kind := 2, num := m.num, coord := m.coord, instant := m.instant, content := m.content,
                                   voteBy := m.voteBy },
                      ina.coord := false, ina.changed := false, ina.quietAt := none,
                      ina.st := if s.ina.st = .legacy then .legacy else .voting }
    takeTo m.coord 0x21 v s
  else
    takeTo m.coord 0x21 v (if s.ina.st = .voting || s.ina.st = .legacy then collect s else s)

/-! ### Restart and inhibit (R106, R503) -/

/-- RESTART (R503): the answer's code, and the state. -/
def inaRestart (s : State) : Word × State :=
  let u := s.tak.sys
  if u.kind = 2 && u.state = .printed then (aTooLate, s)
  else if u.kind = 2 && u.state = .prepared then
    if u.isCoord then (0, sysCoordScrap 1 s)
    else
      let v : TakeMsg := { kind := 2, coord := u.coord, num := u.num, instant := u.instant, vote := 2, reason := 4 }
      (0, collect (takeTo u.coord 0x21 v { s with tak.sys.withdrawn := true }))
  else if s.ina.st = .voting || s.ina.st = .held || (s.ina.st = .legacy && s.ina.proposal.isSome) then (0, collect (inaScrapped s))
  else if s.ina.st = .collect || s.ina.st = .legacy then (0, collect s)
  else (0, s)

/-- INHIBIT takes a value (R106). -/
def setInhibit (v : Bool) (s : State) : State := recordChanged { s with ina.inhibit := v }

/-! ### Meanings: NEIGHBOUR and TTDP -/

/-- The interval at which NEIGHBOUR is sent on a port (R83). -/
def neighbourTicks (s : State) (p : Nat) : Nat := if (nbSt s p).seen then cfg s 0x240A 0 * fr else 256 * pf

/-- NEIGHBOUR_SEND_TIMER (R83). -/
def execNeighbourSendTimer (p : Fin 4) (s : State) : Ans :=
  if !portUp s p.val || (nbSt s p.val).legacy then .next s
  else .next (neighbourSend p.val (passTo ((nbSt s p.val).sentAt + neighbourTicks s p.val) s))

/-- NEIGHBOUR_RECEIVE (R83): a NEIGHBOUR whose transport steps are done arrives at port p. -/
def execNeighbourReceive (p : Fin 4) (n : Neighbour) (s : State) : Ans := .next (pump (neighbourIn p.val n s))

/-- NEIGHBOUR_PARTNER_TIMEOUT (R83): no NEIGHBOUR for three intervals: the port counts as having no partner. -/
def execNeighbourPartnerTimeout (p : Fin 4) (s : State) : Ans :=
  let n := nbSt s p.val
  if !portUp s p.val || !n.heard || n.legacy || n.gone then .next s
  else
    let s := passTo (n.lastAt + 3 * cfg s 0x240A 0 * fr) s
    .next (recordChanged (setNb p.val { nbSt s p.val with gone := true } s))

/-- Link-up of a port: when it reached UP, or where MACsec is required when its association was installed (R95). -/
def portLinkUp (s : State) (p : Nat) : Option Nat :=
  if !portUp s p then none else if secMode s p = 0 then some (linkSt s p).upAt else (nbSt s p).secAt

/-- Link-up of an end's junction: that of its first port (R95). -/
def junctionUp (s : State) (e : End) : Option Nat := (portsAt e).foldl (fun t p => earlier t (portLinkUp s p)) none

/-- TTDP_HELLO_RECEIVE (R95, R109): HELLO from a partner's MAC address on a port with no NEIGHBOUR for 1 fr since link-up. -/
def execTtdpHelloReceive (p : Fin 4) (mac : Mac) (s : State) : Ans :=
  let k := linkSt s p.val
  let n := nbSt s p.val
  if !portUp s p.val || k.native || !cfgOn s 0x2420 0 || (n.heard && !n.legacy) then .next s
  else match junctionUp s (endOf p.val) with
  | none => .next s
  | some t =>
    let s := passTo (t + fr) s
    .next (legacyCheck (recordChanged (setNb p.val { nbSt s p.val with legacy := true, heard := true, partner := some mac, lastAt := s.up } s)))

/-- TTDP has been switched off at an apply instant: no junction is a legacy junction any more (R109). -/
def ttdpApply (s : State) : State :=
  if cfgOn s 0x2420 0 then s
  else
    let s := [0, 1, 2, 3].foldl (fun s p => if (nbSt s p).legacy then setNb p { secAt := (nbSt s p).secAt } s else s) s
    legacyCheck (recordChanged s)

/-- TTDP_HELLO_SEND (R109): HELLO on a legacy junction. Its content is that of IEC 61375-2-5 and is not modelled; it is a
link-local frame of the port (log 44). -/
def execTtdpHelloSend (p : Fin 4) (s : State) : Ans :=
  if !portUp s p.val || !(nbSt s p.val).legacy || !cfgOn s 0x2420 0 then .next s
  else .next (pairSend p.val { dst := linkLocalMac, src := s.baseMac + BitVec.ofNat 48 p.val, etherType := etLldp } s)

/-- TTDP_TOPOLOGY_RECEIVE (R110, Table 3.10): the ETB topology counter that a frame carries, and the TTDP numbering: UID or MAC
address, INVERSE, legacy. The node computes the counter of the numbering itself; the quiet time runs while the two are equal. -/
def execTtdpTopologyReceive (etb : Word) (numbering : List (Uid × Bool × Bool)) (s : State) : Ans :=
  let own := Config.etbCounter numbering
  if s.ina.st ≠ .legacy then .next s
  else if etb ≠ own then .next (collect { s with ina.etb := own, ina.ttdp := numbering, ina.etbSame := false })
  else if s.ina.etbSame && s.ina.etb = own && s.ina.ttdp = numbering && (s.ina.quietAt.isSome || s.ina.proposal.isSome) then .next s
  else .next (collect { s with ina.etb := own, ina.ttdp := numbering, ina.etbSame := true })

/-! ### Meanings: records and collection -/

/-- SETTLE_TIME_EXPIRY (R96). -/
def execSettleTimeExpiry (s : State) : Ans :=
  match s.ina.settleBy with
  | none => .next s
  | some t => .next (endSettle (passTo t s))

/-- RECORD_RECEIVE (R84): a RECORD whose transport steps are done, with the MAC source address of its frame. An operation
held for that address goes on (R218). -/
def execRecordReceive (r : Record) (mac : Mac) (s : State) : Ans := .next (pump (recordIn r mac s))

/-- RECORD_REFRESH_TIMER (R84, R91): the RECORD is broadcast; a barred coordinator builds its proposal again. -/
def execRecordRefreshTimer (s : State) : Ans :=
  let s := broadcastRecord (passTo (s.ina.sentAt + cfg s 0x240B 0 * fr) s)
  .next (rebuild s)

/-- RECORD_FORGET (R84): a record not refreshed for three refresh intervals is forgotten. -/
def execRecordForget (u : Uid) (s : State) : Ans :=
  match s.ina.recs.find? (fun h => h.rec_.uid = u) with
  | none => .next s
  | some h =>
    let s := passTo (h.at_ + 3 * cfg s 0x240B 0 * fr) s
    let before := (chain s).1
    let s := { s with ina.recs := s.ina.recs.filter (fun x => x.rec_.uid ≠ u) }
    .next (if before.any (fun r => r.uid = u) then chainChanged s else legacyCheck s)

/-- QUIET_TIME_EXPIRY (R85, R91): the chain has been consistent and unchanged for the quiet time. -/
def execQuietTimeExpiry (s : State) : Ans :=
  match s.ina.quietAt with
  | none => .next s
  | some t =>
    if s.ina.st ≠ .collect && s.ina.st ≠ .legacy then .next s
    else .next (decideProposal { passTo t s with ina.quietAt := none })

/-- UNCOUPLING_WAIT_EXPIRY (R98): 8 fr after an unwarned loss. -/
def execUncouplingWaitExpiry (e : End) (s : State) : Ans :=
  match (match e with
    | .fore => s.ina.lossFore
    | .aft => s.ina.lossAft) with
  | none => .next s
  | some t => .next (lossRecognised e (passTo t s))

/-- The Call Sheet of this node alone (R104). -/
def aloneSheet (s : State) : Option Sheet :=
  nativeProposal { s with ina.recs := [], ina.own := { ownContent s with fore := noUid, aft := noUid }, ina.st := .collect }

/-- JOIN_WAIT_EXPIRY (R104): no port UP for the join wait: a Call Sheet of this node alone. -/
def execJoinWaitExpiry (s : State) : Ans :=
  match s.ina.joinWaitBy with
  | none => .next s
  | some t =>
    let s := { passTo t s with ina.joinWaitBy := none }
    if s.node ≠ .joining || (List.range 4).any (portUp s) then .next s
    else
      match aloneSheet s with
      | some x => .next (activateSheet { x with instant := s.now } false s)
      | none => .next s

/-- INHIBIT_WRITE (R106): INA_CTRL.INHIBIT is written by the host. -/
def execInhibitWrite (v : Bool) (s : State) : Ans := if reaches s .host then .next (setInhibit v s) else .next s

end Sys2Proof.Machine
end

