-- ==== Sys2Proof/Machine/Values.lean ====
section
/-!
DEFINITION. Machine/Values.lean: the length, range and boundary of an object's value (checks 6 to 8 of Table 11.4), and the stored
values that come back at a reset (R302).
-/
namespace Sys2Proof.Machine

/-- A bit pattern of a type, as the number it stands for (Table 11.1). -/
def signedOf (ty : Ty) (n : Nat) : Int :=
  match ty with
  | .int k => if n < 2 ^ (8 * k - 1) then n else (n : Int) - 2 ^ (8 * k)
  | _ => n

/-- The length of a whole value matches the type (check 6). -/
def lengthFits (r : Obj) (n : Nat) : Bool :=
  match r.ty with
  | .dom m => decide (n ≤ m)
  | .str => true
  | ty => n = ty.size

/-- The value lies within the object's range (check 7): 0, or the code of the refusal. -/
def rangeCode (r : Obj) : Val → Word
  | .bytes _ => 0
  | .num n =>
    let x := signedOf r.ty n
    if r.ty = .bool then (if n ≤ 1 then 0 else aBadValue)
    else if r.hi < x then aTooHigh
    else if x < r.lo then aTooLow
    else if r.allowed.isEmpty || r.allowed.contains x then 0
    else aBadValue

/-- The length of a whole value is one the object takes (check 6); a CAK and CKN are 33 to 64 bytes (Table 16.8). -/
def lengthOk (k : Nat) (r : Obj) (n : Nat) : Bool :=
  lengthFits r n && (k / 256 ≠ 0x2C31 || decide (33 ≤ n))

/-- A multicast address: bit 40 of the number, bit 0 of the first octet. -/
def groupAddress (n : Nat) : Bool := n.testBit 40

/-- A number within the row's range that its entry still does not allow. -/
def badNumber (idx sub n : Nat) : Bool :=
  if idx = 0x2508 then (n / 2 ^ 21 % 8) ≠ 7
  else if idx = 0x2812 ∨ idx = 0x281A then (n / 16 % 4) ≠ 0 || (decide (8 < n % 16) && !n.testBit 7)
  else if idx = 0x2820 then decide (4 < n / 2 ^ 16 % 8)
  else if idx = 0x2B07 ∨ idx = 0x2B08 then decide (1 ≤ n ∧ n < 400)
  else if idx = 0x2912 ∨ idx = 0x2832 then !groupAddress n
  else if idx = 0x2707 then n % 256 ≠ 0
  else if 0x2780 ≤ idx ∧ idx ≤ 0x27BF ∧ sub = 3 then n % 65536 ≠ 0
  else if 0x2780 ≤ idx ∧ idx ≤ 0x27BF ∧ sub = 7 then decide (64 ≤ n ∧ n < 255)
  else if idx = 0x2104 then (n % 128) ≠ 0 || n.testBit 9 || decide (8192 ≤ n)
  else false

/-- A byte string within its length that its entry does not allow: a trigger source other than 56 to 63, a severity above 7
(Table 14.8); a key that is no uncompressed point, which begins with 04h (Table 16.8, log 220). -/
def badBytes (idx : Nat) (l : List Byte) : Bool :=
  idx = 0x2C10 && l.headD 0 ≠ 4 || idx = 0x2A10 && (decide ((l.headD 0).toNat < 56) || decide (63 < (l.headD 0).toNat) || decide (7 < (l.getD 1 0).toNat))

/-- A completion timeout below its range is below the budget that the range is the default of (R234). -/
def rangeFault (k : Nat) (c : Word) : Word :=
  if c = aTooLow && decide (0x2740 ≤ k / 256 ∧ k / 256 ≤ 0x277F) && k % 256 = 10 then aTimeoutBelowBudget else c

/-- Check 7 on a whole value: 0, or the code of the refusal. -/
def valueCode (k : Nat) (r : Obj) (v : Val) : Word :=
  let c := rangeFault k (rangeCode r v)
  if c ≠ 0 then c
  else match v with
    | .num n => if badNumber (k / 256) (k % 256) n then aBadValue else 0
    | .bytes l => if badBytes (k / 256) l then aBadValue else 0

/-- A value must lie on a boundary and does not (check 8, R16, R148, R196). -/
def offBoundary (k : Nat) (v : Val) : Bool :=
  let idx := k / 256
  let n := valNum v
  if 0x2520 ≤ idx ∧ idx ≤ 0x2530 ∧ k % 256 = 1 then n % 1024 ≠ 0
  else if 0x2740 ≤ idx ∧ idx ≤ 0x277F ∧ k % 256 = 7 then n % 256 ≠ 0
  else if 0x2780 ≤ idx ∧ idx ≤ 0x27BF ∧ k % 256 = 2 then n % 65536 ≠ 0
  else false

/-- An RW object takes a value: SLEEP_ALLOW, INHIBIT and OUT_CMD stand in their units, every other among the applied
values. -/
def applyOne (k : Nat) (v : Val) (s : State) : State :=
  if k = key 0x2901 0 then { s with wak.sleepAllow := valNum v ≠ 0 }
  else if k = key 0x2407 0 then { s with ina.inhibit := valNum v ≠ 0 }
  else if k = key 0x2B20 0 then setOutCmd (BitVec.ofNat 8 (valNum v)) s
  else applyVals [(k, v)] s

/-! ### The two stored copies (R303) -/

/-- The bytes of a stored value. -/
def storedBytes : Val → List Byte
  | .num n => beBytes 8 n
  | .bytes l => beBytes 4 l.length ++ l

/-- The Clapper check of a copy: over its store count and its values, in a layout the spec does not give (log 210). -/
def copyCheck (count : Nat) (t : Tab Val) : Word := crc32c (beBytes 4 count ++ t.flatMap (fun e => beBytes 4 e.1 ++ storedBytes e.2))

/-- A copy has its valid mark and a correct check. -/
def copyGood (c : StoredCopy) : Bool := c.mark && c.check == copyCheck c.count c.values

/-- The copy in use: valid mark, correct check, the higher store count. -/
def currentCopy (s : State) : Option StoredCopy :=
  if copyGood s.od.copyA && copyGood s.od.copyB then some (if s.od.copyB.count ≤ s.od.copyA.count then s.od.copyA else s.od.copyB)
  else if copyGood s.od.copyA then some s.od.copyA
  else if copyGood s.od.copyB then some s.od.copyB
  else none

/-- Copy A is the one in use, and a store writes copy B; else it writes copy A. -/
def currentIsA (s : State) : Bool := copyGood s.od.copyA && (!copyGood s.od.copyB || decide (s.od.copyB.count ≤ s.od.copyA.count))

/-- The values of the copy in use, none where neither is good. -/
def storedNow (s : State) : Tab Val := ((currentCopy s).map (·.values)).getD []

/-- The store count of the copy in use. -/
def storeCount (s : State) : Nat := ((currentCopy s).map (·.count)).getD 0

/-- Copy B changes (true), or copy A. -/
def setCopy (b : Bool) (f : StoredCopy → StoredCopy) (s : State) : State :=
  if b then { s with od.copyB := f s.od.copyB } else { s with od.copyA := f s.od.copyA }

/-- A stored value lies outside its object's current range. -/
def storedBad (e : Nat × Val) : Bool := ((keyRow e.1).map (fun r => decide (valueCode e.1 r e.2 ≠ 0))).getD false

/-- One stored value comes back, or its default in its place with error register bit 7 (R302). -/
def restoreOne (s : State) (e : Nat × Val) : State :=
  if (keyRow e.1).isNone then s else if storedBad e then { s with od.replaced := true } else applyOne e.1 e.2 s

/-- Every RW object takes its stored value where one is held, and every "No; next reset" object the value saved for it
(R289, R302). -/
def restoreStored (s : State) : State :=
  let s := s.od.saved.foldl restoreOne ((storedNow s).foldl restoreOne s)
  { s with cpu.appKey := s.cpu.appKey || (tfind s.od.saved (key 0x2C10 0)).isSome }

/-- The recorder entry of each stored value that its default replaced (R302). -/
def reportReplaced (l : Tab Val) (s : State) : State :=
  (l.filter storedBad).foldl (fun s e => fire 20 4 (beBytes 2 (e.1 / 256) ++ beBytes 1 (e.1 % 256)) s) s

end Sys2Proof.Machine
end

