-- ==== Sys2Proof/Machine/Startup.lean ====
section
/-!
DEFINITION. Machine/Startup.lean: from supply to DAWN, node resets, removal warnings and the exit path (chapter 18), secure
boot (R416 to R418).
-/
namespace Sys2Proof.Machine

/-! ### From supply to DAWN (R452, R453) -/

/-- POWER_ON (R450 to R452): D0 starts from no supply, with both SEATED contacts closed. The HPL and WAK blocks and SCRATCH
return to their reset values; an opening without a warning is shown in WARN_SRC (Table 18.5). -/
def execPowerOn (handleLocked : Bool) (s : State) : Ans :=
  if s.node ≠ .off && s.hpl.boot ≠ .none then .next s
  else
    let r := State.reset
    .next { r with
      pending := s.pending, up := s.up, free := s.free, out := s.out, uid := s.uid, baseMac := s.baseMac, serial := s.serial,
      hwRev := s.hwRev, fwVersion := s.fwVersion,
      hpl := { seatedHv := true, seatedLv := true, handleLocked := handleLocked, warnSrc := s.hpl.warnSrc, boot := .started, t0 := s.up,
               lampTestBy := some (s.up + 68 * fr) },
      log := { recKept s with powerCycle := s.log.powerCycle + 1, prevLastWords := s.log.prevLastWords },
      od := odKept s, cpu := cpuKept s, bb.a.lastSwitch := s.bb.a.lastSwitch, bb.b.lastSwitch := s.bb.b.lastSwitch }

/-- BUS_IN_RANGE (R453, R461): the supervisor pairs leave reset, the boot ROM runs, D12 comes on. -/
def execBusInRange (s : State) : Ans :=
  if s.node ≠ .dawn || s.hpl.boot ≠ .started then .next s
  else .next (powerFollow { s with hpl.boot := .busInRange })

/-- An image may run (R416): its signature is right, its key matches a fused digest that is not revoked, and its version is none before the
fused one. -/
def imageAccepted (s : State) (c : ImageCheck) : Bool :=
  c.signatureOk && decide (s.cpu.fusedVersion ≤ c.version.val)
    && (List.range 3).any (fun k => s.cpu.keyDigests[k]? = some c.key && !s.cpu.revoked.getLsbD k)

/-- What the boot ROM finds in a slot, B where `b`: what the verification of the image written there found (R417), or, of an image the
node was delivered with, what the command brings. -/
def slotCheck (s : State) (b : Bool) (c : ImageCheck) : ImageCheck :=
  match tfind s.cpu.slots (if b then 1 else 0) with
  | some x => x.check
  | none => c

/-- FIRMWARE_VERIFIED (R416, R424): what the boot ROM finds in the active slot, and in the other. When both fail, the node stays in
FAULT: no recovery is due. -/
def execFirmwareVerified (active other : ImageCheck) (s : State) : Ans :=
  let active := slotCheck s s.cpu.activeSlot active
  let other := slotCheck s (!s.cpu.activeSlot) other
  if s.node ≠ .dawn || s.hpl.boot ≠ .busInRange then .next s
  else if imageAccepted s active then .next { s with hpl.boot := .verified, cpu.runVersion := active.version.val }
  else if imageAccepted s other then
    let slot := !s.cpu.activeSlot
    .next (securityEvent 1 (if slot then 1 else 0)
      { s with hpl.boot := .verified, cpu.runVersion := other.version.val, cpu.fallback := true, cpu.activeSlot := slot })
  else .next { enterFault { s with cpu.bootFail := true } with hpl.faultRecoverBy := none }

/-- The highest sequence in the partition. -/
def highestSeq (s : State) : Word := if s.log.nextSeq = 0 then 0 else s.log.nextSeq - 1

/-- What configured values start at once: schedules, pulses, loops (chapters 5, 6, 17). -/
def startConfigured (s : State) : State :=
  let s := (List.range 17).foldl (fun s p => schedStage p s) s
  loopsApply ([0, 1, 2, 3].foldl (fun s k => ppsApply k s) s)

/-- The stored values are back, the domains come on as configured (R302, R453). -/
def comeUp (s : State) : State :=
  powerFollow { restoreStored s with hpl.boot := .dawned, wak.consistAwake := true, wak.idleFrom := s.up, wak.lastKeepAlive := [] }

/-- The POWER_ON entry (Table 14.2). -/
def noteStart (s : State) : State :=
  fire 0 2 ([if s.log.prevLastWords then 1 else 0, 0, 0, 0] ++ beBytes 4 (highestSeq s).toNat) s

/-- POWERON_DAWN (R302, R453): the stored values are back, the domains come on as configured, the node is in DAWN and the loop
checks start; the POWER_ON entry is queued. -/
def execPoweronDawn (s : State) : Ans :=
  if s.node ≠ .dawn || s.hpl.boot ≠ .verified then .next s
  -- D10 and D11 are on only now, and the entries of replaced values come first
  else .next (noteStart (canStart (startConfigured (reportReplaced (storedNow s ++ s.od.saved) (comeUp s)))))

/-- APP_IMAGE_VERIFIED (R418): the application image has been checked against the enrolled key. A rejected one leaves D8 off. -/
def execAppImageVerified (ok : Bool) (s : State) : Ans :=
  if s.hpl.boot ≠ .dawned || !domOn s .d8 then .next s
  else if s.cpu.appKey && !ok then
    .next (securityEvent 2 0 (powerFollow (setDom .d8 { domSt s .d8 with heldOff := true } s)))
  else .next { s with cpu.imgOk := true, cpu.running := if cfgOn s 0x2C01 0 then 0xFF else 0 }

/-- LAMP_TEST_END (R493). -/
def execLampTestEnd (s : State) : Ans :=
  match s.hpl.lampTestBy with
  | none => .next s
  | some t => .next { passTo t s with hpl.lampTestBy := none }

/-! ### Node resets (R450, R451) -/

/-- The code of a cause (Table 18.1). -/
def resetCode : ResetCause → Nat
  | .busLow => 2
  | .host => 3
  | .dictionary => 4
  | .pair0Restart => 5
  | .pair0Watchdog => 6
  | .exitCancel => 7
  | .faultRecovery => 8

/-- NODE_RESET (R451). -/
def execNodeReset (c : ResetCause) (s : State) : Ans := if s.node = .off then .next s else .next (resetNode (resetCode c) s)

/-- PAIR0_WATCHDOG_EXPIRY (R450). -/
def execPair0WatchdogExpiry (s : State) : Ans := if s.node = .off || s.node = .asleep then .next s else .next (resetNode 6 s)

/-- FAULT_RECOVERY_EXPIRY (R450, R451): a FAULT caused by temperature waits for the case to cool to 125 °C. -/
def execFaultRecoveryExpiry (s : State) : Ans :=
  match s.hpl.faultRecoverBy with
  | none => .next s
  | some t =>
    if s.node ≠ .fault then .next s
    else
      let s := { passTo t s with hpl.faultRecoverBy := none }
      if s.pwr.thermal && 250 < s.pwr.tempNow then .next { s with hpl.waitCool := true } else .next (resetNode 8 s)

/-- THERMAL_RESET_COOLED (R451): the case has cooled below 125 °C. -/
def execThermalResetCooled (t : BitVec 16) (s : State) : Ans :=
  if s.node ≠ .fault || !s.hpl.waitCool || 250 ≤ t.toInt then .next s else .next (resetNode 8 (takeTemp t s))

/-! ### The exit path (R458 to R460) -/

/-- Both SEATED contacts are closed. -/
def seated (s : State) : Bool := s.hpl.seatedHv && s.hpl.seatedLv

/-- A locked, seated module is watched from now on (R459). -/
def watchLock (s : State) : State :=
  { s with hpl.lockedFrom := if s.hpl.exit = .hostGone && s.hpl.handleLocked && seated s then some s.up else none }

/-- The host hold ends: D12 goes off (Table 18.4). -/
def endHostHold (s : State) : State :=
  watchLock (powerFollow { s with hpl.hostHold := false, hpl.hostHoldBy := none, hpl.exit := .hostGone })

/-- SAFE_TO_REMOVE (Table 18.4, R459, R460): D8, D10 and D11 go off, what the recorder has not written is lost; a node reset
that was asked for is made. -/
def reachSafe (s : State) : State :=
  let s := powerFollow { s with hpl.exit := .safe, hpl.recDrainBy := none }
  let s := bump 0x3048 { s with hpl.safeToRemove := true, hpl.exitTime := word ((s.up - s.hpl.warnAt) / pf) }
  match s.hpl.resetAsked with
  | some c => resetNode (resetCode c) s
  | none =>
    if s.hpl.noHold || !domOn s .d12 then endHostHold s
    else { s with hpl.hostHold := true, hpl.hostHoldBy := some (s.up + cfg s 0x2142 0 * fr) }

/-- The node goes to EXIT (Table 18.4): LEAVING, priority1 255, an OPEN take scrapped, both bridges disabled, D7 off. -/
def startExit (s : State) : State :=
  let dusk := s.node = .dusk
  let s := { s with hpl.exit := .warned, hpl.warnAt := s.up, hpl.releaseAt := nextFrame s.now, hpl.noHold := false }
  let s := setNode .exit (stopInsertion s)
  let s := if s.tak.user.state = .open_ then scrapUser 9 s else s
  let s := applyVals [(key 0x2701 0, .num 0), (key 0x2801 0, .num 0)] s
  let s := if dusk then { s with wak.duskAt := none, tak.sys := if s.tak.sys.kind = 3 then {} else s.tak.sys } else s
  let s := { s with wak.ringStart := none, wak.consentOut := none, wak.consentBoth := none, wak.duskDue := none, wak.sleepInd := .none }
  powerFollow (announceLeave (recordChanged s))

/-- A removal warning from source 1, 2 or 3 (R458, Tables 18.4, 18.5). -/
def warn (src : Nat) (s : State) : State :=
  if s.node = .off then s
  else if s.node = .exit || s.hpl.safeToRemove then bump 0x3040 s
  else
    let s := { s with hpl.warn := true, hpl.warnSrc := src, hpl.warnAt := s.up }
    let s := fire 27 4 [] (raiseIrq 17 (bump 0x3040 s))
    match s.node with
    | .asleep => { s with hpl.safeToRemove := true, hpl.removeLed := true, hpl.exitTime := 0 }
    | .fault => reachSafe (setNode .exit { s with hpl.faultRecoverBy := none })
    | _ => startExit s

/-- EJECT_OPEN (R458). -/
def execEjectOpen (s : State) : Ans := .next (warn 1 { s with hpl.handleLocked := false, hpl.lockedFrom := none })

/-- EJECT_CLOSE (R459, R493): in ASLEEP the REMOVE LED goes off. -/
def execEjectClose (s : State) : Ans :=
  let s := { s with hpl.handleLocked := true }
  if s.node = .asleep then .next { s with hpl.removeLed := false, hpl.safeToRemove := false } else .next (watchLock s)

/-- EXIT_REQ (R458): HPL_CTRL.EXIT_REQ, with its key. -/
def execExitReq (k : Byte) (s : State) : Ans := if reaches s .host && k = 0xA5 then .next (warn 2 s) else .next s

/-- SEATED_OPEN (R59, R458): a SEATED contact opens; without an earlier warning both relays release at once. -/
def execSeatedOpen (hv : Bool) (s : State) : Ans :=
  let s := if hv then { s with hpl.seatedHv := false, hpl.lockedFrom := none } else { s with hpl.seatedLv := false, hpl.lockedFrom := none }
  if s.node = .off || s.node = .exit || s.hpl.safeToRemove then .next s
  else .next (releaseBoth { s with hpl.warnSrc := 4 })

/-- EXIT_RELEASE_START (Table 18.4): at the first frame boundary after the warning the release sequence starts. -/
def execExitReleaseStart (s : State) : Ans :=
  if s.node ≠ .exit || s.hpl.exit ≠ .warned then .next s
  else .next { startRelease (passToInstant s.hpl.releaseAt s) with hpl.exit := .releasing }

/-- REL_DONE in EXIT (Table 18.4): what remains of the bridge is disabled by force, the planes go off. -/
def exitReleased (s : State) : State :=
  powerFollow { splForce s with hpl.exit := .relDone, hpl.recDrainBy := some (s.up + cfg s 0x2144 0 * fr) }

/-- REL_DONE_TIMER (R56, Tables 18.4, 18.5): 7 fr after the second line is released. -/
def execRelDoneTimer (s : State) : Ans :=
  match s.bb.seq with
  | .relDone t =>
    let s := { passTo t s with bb.seq := .none, bb.relDone := true }
    if s.node = .exit && (s.hpl.exit = .warned || s.hpl.exit = .releasing) then .next (exitReleased s)
    else if s.node = .fault && (s.hpl.exit = .warned || s.hpl.exit = .releasing) then .next (reachSafe s)
    else .next (resumeInsert s)
  | _ => .next s

/-- The recorder has drained in EXIT. -/
def exitDrained (s : State) : State := if s.hpl.recDrainBy.isSome && s.log.queue.isEmpty then reachSafe s else s

/-- RECORDER_DRAIN_LIMIT (Table 18.4): the recorder has drained, or its drain limit passes. -/
def execRecorderDrainLimit (s : State) : Ans :=
  match s.hpl.recDrainBy with
  | none => .next s
  | some t => if s.log.queue.isEmpty then .next (exitDrained s) else .next (reachSafe (passTo t s))

/-- HOST_DONE (R463): HPL_CTRL.HOST_DONE. -/
def doHostDone (s : State) : State := if s.hpl.hostHold then endHostHold s else s

def execHostDone (s : State) : Ans := if reaches s .host then .next (doHostDone s) else .next s

/-- HOST_HOLD_EXPIRY (Table 18.4). -/
def execHostHoldExpiry (s : State) : Ans :=
  match s.hpl.hostHoldBy with
  | none => .next s
  | some t => .next (endHostHold (passTo t s))

/-- EXIT_CANCEL (R459): the handle has been locked and both contacts closed for 16 fr. -/
def execExitCancel (s : State) : Ans :=
  match s.hpl.lockedFrom with
  | none => .next s
  | some t => if s.hpl.exit ≠ .hostGone then .next s else .next (resetNode 7 (passTo (t + 16 * fr) s))

/-- A node reset asked for by the host or the dictionary (R459): the exit path first, without a warning. -/
def askReset (c : ResetCause) (s : State) : State :=
  match s.node with
  | .off => s
  | .asleep => s
  | .fault => resetNode (resetCode c) s
  | .exit => if s.hpl.safeToRemove then resetNode (resetCode c) s else { s with hpl.resetAsked := some c }
  | _ => startExit { s with hpl.resetAsked := some c }

/-- NODE_RESET_REQUEST (R459): HPL_CTRL.NODE_RESET, with its key. -/
def execNodeResetRequest (k : Byte) (s : State) : Ans := if reaches s .host && k = 0xA5 then .next (askReset .host s) else .next s

/-! ### The endpoint (R461 to R463) -/

/-- PCIE_RESET (R462, Table 18.5): the endpoint, the D12 register state and the Host session are reset; the host's operations
close; in EXIT the host hold ends. -/
def execPcieReset (s : State) : Ans :=
  if !domOn s .d12 then .next s
  else
    let s := endpointReset (fencesGoOn (forceClose (fun o => o.who = .host) s))
    if s.hpl.hostHold then .next (endHostHold s)
    else .next { s with hpl.noHold := s.hpl.noHold || s.node = .exit }

end Sys2Proof.Machine
end

