-- ==== Sys2Proof/Machine/Night.lean ====
section
/-!
DEFINITION. Machine/Night.lean: the commands of the event recorder (chapter 14).
-/
namespace Sys2Proof.Machine

/-- ENTRY_WRITE_START (R370, R379). -/
def execEntryWriteStart (s : State) : Ans := .next (entryWriteStart s)

/-- PAGE_PROGRAM_DONE (R372): a page program of the head completes; after the last one the read-back, which `ok` reports. -/
def execPageProgramDone (ok : Bool) (s : State) : Ans := .next (pageDone ok s)

/-- MARK_PROGRAM_DONE (R372, R373, R386). -/
def execMarkProgramDone (s : State) : Ans := .next (markDone s)

/-- RECLAMATION (R378): between entries, what is void is erased; a copied entry keeps its sequence, content and check. -/
def execReclamation (s : State) : Ans := if s.log.writing.isSome || !nandReady s then .next s else .next (reclaim s)

/-- LAST_WORDS (R382). -/
def execLastWords (s : State) : Ans := .next (lastWords s)

/-- A cursor command reaches the recorder: from the host, with the NAND powered. -/
def cursorReaches (s : State) : Bool := reaches s .host && domOn s .d11

/-- CURSOR_FIRST (R383). -/
def cursorFirst (minSev page : Nat) (s : State) : State := cursorTo (·.head?) minSev page s
def execCursorFirst (minSev : Fin 8) (page : Fin 16) (s : State) : Ans :=
  if cursorReaches s then .next (cursorFirst minSev.val page.val s) else .next s

/-- CURSOR_LAST (R383). -/
def cursorLast (minSev page : Nat) (s : State) : State := cursorTo (·.getLast?) minSev page s
def execCursorLast (minSev : Fin 8) (page : Fin 16) (s : State) : Ans :=
  if cursorReaches s then .next (cursorLast minSev.val page.val s) else .next s

/-- CURSOR_NEXT (R383). -/
def cursorNext (minSev page : Nat) (s : State) : State :=
  let q := cursorSeq s
  cursorTo (fun l => l.find? (fun e => decide (q < (seqOf e).toNat))) minSev page s
def execCursorNext (minSev : Fin 8) (page : Fin 16) (s : State) : Ans :=
  if cursorReaches s then .next (cursorNext minSev.val page.val s) else .next s

/-- CURSOR_PREV (R383). -/
def cursorPrev (minSev page : Nat) (s : State) : State :=
  let q := cursorSeq s
  cursorTo (fun l => (l.filter (fun e => decide ((seqOf e).toNat < q))).getLast?) minSev page s
def execCursorPrev (minSev : Fin 8) (page : Fin 16) (s : State) : Ans :=
  if cursorReaches s then .next (cursorPrev minSev.val page.val s) else .next s

/-- CURSOR_SEEK (R383): the entry of sequence CUR_SEQ, or the next higher one. -/
def cursorSeek (minSev page : Nat) (s : State) : State :=
  let q := s.log.curSeq.toNat
  cursorTo (fun l => l.find? (fun e => decide (q ≤ (seqOf e).toNat))) minSev page s
def execCursorSeek (minSev : Fin 8) (page : Fin 16) (s : State) : Ans :=
  if cursorReaches s then .next (cursorSeek minSev.val page.val s) else .next s

/-- CURSOR_PAGE (R383). -/
def execCursorPage (page : Fin 16) (s : State) : Ans := if cursorReaches s then .next (cursorPage page.val s) else .next s

/-- A write of CUR_CTRL (Table 14.6). -/
def cursorWrite (v : Word) (s : State) : State :=
  let sev := bitsOf v 18 16
  let page := bitsOf v 3 0
  if !domOn s .d11 then s
  else match bitsOf v 31 28 with
    | 1 => cursorFirst sev page s
    | 2 => cursorLast sev page s
    | 3 => cursorNext sev page s
    | 4 => cursorPrev sev page s
    | 5 => cursorSeek sev page s
    | 6 => cursorPage page s
    | _ => s

/-- A clear through REC_CLEAR (R386): the Host session's level decides; a ceiling of 7, sag, a stopped recorder or a running
clear refuses it. -/
def clearByRegister (c : Nat) (s : State) : State :=
  if 7 ≤ c || (sessOf s hostSession).level < 2 || !clearAllowed s then
    (if s.log.clear.isSome then s else { s with log.clrDone := true, log.clrResult := 4 })
  else clearStart c 3 s

/-- A software trigger (R366): sources 56 to 63 only. -/
def softTrigger (src sev : Nat) (data : List Byte) (s : State) : State := if 56 ≤ src && src ≤ 63 then fire src sev data s else s

/-- EVENT_DATA of a trigger through REC_TRIG: the two data registers (Table 14.6). -/
def trigData (s : State) : List Byte := beBytes 4 (tget s.reg 0x7002C 0).toNat ++ beBytes 4 (tget s.reg 0x70028 0).toNat

/-- A software trigger through REC_TRIG (R365, R366, R408): severity 7 is the host's to give, not a core's (log 136). -/
def trigBy (who : Requester) (src sev : Nat) (s : State) : State :=
  if who = .core && sev = 7 then s else softTrigger src sev (trigData s) s

/-- A write of REC_TRIG. -/
def trigWrite (who : Requester) (v : Word) (s : State) : State := trigBy who (bitsOf v 29 24) (bitsOf v 18 16) s

/-- REC_ABORT (R387). -/
def execRecAbort (s : State) : Ans := if reaches s .host then .next (clearAbort s) else .next s

/-- REC_FORCE_STOP (R388). -/
def execRecForceStop (s : State) : Ans := if reaches s .host then .next (recForceStop s) else .next s

/-- REC_DRAINED (R388, R437, R458): what a forced stop left completes; with the queue empty, a D11 or an exit that waited goes on. -/
def execRecDrained (s : State) : Ans := .next (exitDrained (drainCheck .d11 (recDrain s)))

end Sys2Proof.Machine
end

