-- ==== Sys2Proof/Machine/Cpu.lean ====
section
/-!
DEFINITION. Machine/Cpu.lean: the application cluster, its timer and rings, the supervisor pairs, MACsec keys (chapter 16).
-/
namespace Sys2Proof.Machine

/-! ### The cluster (R411 to R413, R425) -/

/-- 0x2C01 has changed at an apply instant (R418, R425). -/
def cpuEnableApply (s : State) : State :=
  if cfgOn s 0x2C01 0 then
    { s with cpu.drained := false, cpu.running := if s.cpu.imgOk && domOn s .d8 then 0xFF else 0 }
  else { s with cpu.running := 0 }

/-- FORCE_STOP (R425): the harts halt, their operations close; the enable is cleared with it (log 37). -/
def cpuForceStop (s : State) : State :=
  let s := applyVals [(key 0x2C01 0, .num 0)] { s with cpu.running := 0 }
  drainCheck .d8 { coreSpliceClose s with cpu.drained := true }

/-- CPU_FORCE_STOP (R408, R425): by the host or by a core, whose writes reach the CPU block. -/
def execCpuForceStop (who : Requester) (s : State) : Ans := if reaches s who then .next (cpuForceStop s) else .next s

/-- CPU_DRAINED (R425): the cluster is disabled and nothing of the cores is in flight. -/
def execCpuDrained (s : State) : Ans :=
  if (cfgOn s 0x2C01 0 && !draining s .d8) || !coreSpliceIdle s then .next s
  else .next (drainCheck .d8 { s with cpu.drained := true })

/-- MTIMECMP_MATCH (R412): mtime reaches the value a hart has set in its mtimecmp; where it has set another one since, nothing matches. -/
def execMtimecmpMatch (hart : Fin 8) (cmp : BitVec 64) (s : State) : Ans :=
  if !domOn s .d8 || !(tfind s.cpu.mtimecmp hart.val == none || tfind s.cpu.mtimecmp hart.val == some cmp) then .next s
  else
    let s := passToInstant cmp { s with cpu.mtimecmp := tset s.cpu.mtimecmp hart.val cmp }
    .next { s with cpu.timerIrq := putBit s.cpu.timerIrq hart.val true }

/-- Receive descriptors handed to the ring of core c, from an index on. -/
def giveRx (c ring : Nat) : Nat → List NicRx → State → State
  | _, [], s => s
  | i, d :: r, s =>
    giveRx c ring (i + 1) r
      (descPut (nicSt s c).rxBase (i % max ring 1) { own := true, addr := d.addr.toNat, len := d.size.toNat, irq := d.irq } s)

/-- A transmit descriptor is carried out: its frame enters the duplicator from port 17 (R413). -/
def nicSend (c : Nat) (s : State) (d : NicTx) : State :=
  let n := nicSt s c
  let ring := max (bitsOf n.size 12 0) 1
  let done : Desc := { addr := d.addr.toNat, len := d.frame.len - 4, irq := d.irq, queue := d.queue.val, ts := timeNs s }
  let s := descPut n.txBase n.txHead done s
  let s := { s with cpu.nics := tset s.cpu.nics c { n with txHead := (n.txHead + 1) % ring, irq := n.irq || d.irq } }
  sendInternal 17 { d.frame with txQueue := some d.queue } s

/-- NIC_TAIL_WRITE (R413): a core hands receive and transmit descriptors to its rings; what it has written of them into application DRAM,
and the frames in its buffers, come with the command. -/
def execNicTailWrite (core : Fin 8) (tail : Word) (rx : List NicRx) (tx : List NicTx) (s : State) : Ans :=
  if !reaches s .core then .next s
  else
    let n := nicSt s core.val
    let s := giveRx core.val (bitsOf n.size 28 16) (bitsOf n.tail 28 16) rx s
    let s := { s with cpu.nics := tset s.cpu.nics core.val { n with tail := tail &&& 0x1FFF1FFF } }
    .next (tx.foldl (nicSend core.val) s)

/-! ### Supervisor pairs (R36, R415) -/

/-- A member is in service. -/
def memberOn (s : State) (pair member : Nat) : Bool := s.cpu.pairs.getLsbD (2 * pair + member)

/-- A member is isolated (R415). -/
def isolate (pair member : Nat) (s : State) : State :=
  if !memberOn s pair member then s
  else
    let s := { s with cpu.pairs := putBit s.cpu.pairs (2 * pair + member) false }
    fire 3 5 [BitVec.ofNat 8 pair, BitVec.ofNat 8 member] (raiseIrq 16 (bump 0x90048 s))

/-- The pair has lost its last member (Table 1.7): the node goes to FAULT, with a security event for pair 1. Pair 0 then restarts from
secure boot, by the node reset of cause 5 that follows (Table 18.1, log 150); the entry of severity 6 is written as FAULT drains the
recorder. In EXIT before REL_DONE the loss of pair 0 ends in FAULT and SAFE_TO_REMOVE (Table 18.5). -/
def pairLost (pair : Nat) (s : State) : State :=
  if memberOn s pair 0 || memberOn s pair 1 then s
  else if pair = 0 then
    let s := fire 4 6 [0] s
    let s := { s with od.queue := [], od.repeats := [], od.unanswered := [], od.storing := none }
    let s := if s.tak.user.state = .open_ then scrapUser 5 s else s
    enterFault s
  else enterFault (raiseIrq 18 s)

/-- PAIR_MISMATCH (R415): the self-checks name the failing members. -/
def execPairMismatch (pair : Fin 2) (fail0 fail1 : Bool) (s : State) : Ans :=
  if !domOn s .d2 then .next s
  else
    let s := if fail0 then isolate pair.val 0 s else s
    .next (pairLost pair.val (if fail1 then isolate pair.val 1 s else s))

/-- PAIR_SELF_CHECK (R415): a member's own checks, every 1 fr. -/
def execPairSelfCheck (pair member : Fin 2) (ok : Bool) (s : State) : Ans :=
  if !domOn s .d2 || ok then .next s
  else .next (pairLost pair.val (isolate pair.val member.val s))

/-! ### MACsec (R419 to R422) -/

/-- A port on which MKA runs: MACsec required, UP, with a CAK. -/
def mkaRuns (s : State) (p : Nat) : Bool := secMode s p ≠ 0 && portUp s p && !(msSt s p).cak.isEmpty

/-- An MKA frame leaves on a port, through port 19. -/
def mkaSend (p : Nat) (s : State) : State :=
  pairSend p { dst := 0x0180C2000003, src := s.baseMac + BitVec.ofNat 48 p, etherType := etEapol } s

/-- The receive SA of a new SAK is installed, before the transmit SA; the SA before it is still accepted (R422). -/
def installRx (p : Nat) (s : State) : State :=
  let m := msSt s p
  bump (0xA011C + 0x40 * p)
    (setMs p { m with rxSa := true, oldPn := m.rxPn, rxPn := 0, sakAt := s.up, rekeying := true } s)

/-- The transmit SA follows when the peer has its receive SA; the first since UP is the port's link-up (R95). -/
def installTx (p : Nat) (s : State) : State :=
  let s := setMs p { msSt s p with txSa := true, txPn := 0, rekeying := false, exhausted := false } s
  if (nbSt s p).secAt.isNone then setNb p { nbSt s p with secAt := some s.up } s else s

/-- MKA_FRAME_RECEIVE (R421, R422, R424). -/
def execMkaFrameReceive (p : Fin 4) (x : MkaIn) (s : State) : Ans :=
  if !mkaRuns s p.val then .next s
  else if !x.cakOk then .next (securityEvent 4 p.val s)
  else
    let s := setMs p.val { msSt s p.val with mkaAt := some s.up, keyServer := x.keyServer } s
    let s := if x.newSak || (x.keyServer && !(msSt s p.val).rxSa) then installRx p.val s else s
    .next (if x.peerRx && (msSt s p.val).rekeying then installTx p.val s else s)

/-- MKA_HELLO_SEND (R419): each hello time (0x2C32), on each MACsec port; the first at once (log 220). -/
def execMkaHelloSend (s : State) : Ans :=
  if !([0, 1, 2, 3].any (mkaRuns s)) then .next s
  else
    let s := match s.cpu.helloAt with
      | some t => passTo (t + cfg s 0x2C32 0 * fr) s
      | none => s
    .next ([0, 1, 2, 3].foldl (fun s p => if mkaRuns s p then mkaSend p s else s) { s with cpu.helloAt := some s.up })

/-- 0x2C30 of port p has changed at an apply instant: with MACsec off no SA is exhausted (R422). -/
def secApply (p : Nat) (s : State) : State :=
  if secMode s p = 0 then setMs p { msSt s p with exhausted := false } s else s

/-- REKEY_TRIGGER (R422): the packet number has reached its threshold, or the rekey interval has passed. -/
def execRekeyTrigger (p : Fin 4) (s : State) : Ans :=
  let m := msSt s p.val
  if !mkaRuns s p.val || !m.keyServer || !m.txSa || m.rekeying then .next s
  else
    let s := if 0xC0000000 ≤ m.txPn.toNat then s else passTo (m.sakAt + cfg s 0x2C33 0 * rl) s
    .next (mkaSend p.val (installRx p.val s))

/-- PN_EXHAUSTED (R422, R424): the transmit SA has used its last packet number. -/
def execPnExhausted (p : Fin 4) (s : State) : Ans :=
  let m := msSt s p.val
  if !m.txSa || m.exhausted || m.txPn ≠ 0xFFFFFFFF then .next s
  else .next (securityEvent 5 p.val (setMs p.val { m with exhausted := true } s))

/-- MKA_LIFETIME_EXPIRY (R422, R424): three hello times without MKA. -/
def execMkaLifetimeExpiry (p : Fin 4) (s : State) : Ans :=
  match (msSt s p.val).mkaAt with
  | none => .next s
  | some t =>
    let s := passTo (t + 3 * cfg s 0x2C32 0 * fr) s
    .next (securityEvent 3 p.val (setMs p.val { msSt s p.val with mkaAt := none, rxSa := false, txSa := false, rekeying := false } s))

end Sys2Proof.Machine
end

