-- ==== Sys2Proof/Machine/Sleep.lean ====
section
/-!
DEFINITION. Machine/Sleep.lean: the consent ring, dusk, ASLEEP, wake and dawn, the consist network (chapter 13).
-/
namespace Sys2Proof.Machine

/-! ### The consent ring (R345 to R348) -/

/-- The ring payload (Table 13.3). -/
def ringBytes (m : RingMsg) : List Byte :=
  [1] ++ beBytes 1 m.phase ++ beBytes 1 m.vetoCount ++ beBytes 1 m.firstReason ++ beBytes 6 m.origin.toNat
    ++ beBytes 1 m.firstPos ++ [0] ++ beBytes 4 m.ringId.toNat ++ beBytes 4 m.csc.toNat ++ beBytes 8 m.consent.toNat ++ [0, 0, 0, 0]

/-- The member at a position of the active Call Sheet, from 1. -/
def memberAtPos (s : State) (p : Nat) : Option Uid := if p = 0 then none else (callSheetUids s)[p - 1]?

/-- A ring frame goes to a member (R346). -/
def ringSend (u : Uid) (m : RingMsg) (s : State) : State := sendMessage 0x30 0x82 6 u none none false (ringBytes m) s

/-- The ring this node started has ended (R348): reported in RING_STATUS; a ring that failed raises bit 12. -/
def ringEnd (result pos reason vetoes : Nat) (s : State) : State :=
  let s := { s with wak.ringStart := none, wak.ringResult := result, wak.firstVetoPos := pos, wak.firstVetoReason := reason, wak.vetoCount := vetoes }
  if result = 1 then
    { s with wak.duskDue := some (s.wak.ringNext, nextFrame s.now), wak.consentOut := some s.wak.ringNext, wak.consentBoth := some s.wak.ringNext }
  else raiseIrq 12 s

/-- RING_START (R345): the node at position 1 starts a ring when its consent holds, none of its own runs and the ring interval
has passed. -/
def execRingStart (s : State) : Ans :=
  if s.wak.ringStart.isSome || ownPosition s ≠ 1 then .next s
  else
    let s := match s.wak.lastRing with
      | some t => passTo (t + cfg s 0x2903 0 * fr) s
      | none => s
    if !consent s then .next s
    else
      let n := s.wak.ringNext + 1
      let s := bump 0x4040 { s with wak.ringNext := n, wak.ringId := n, wak.lastRing := some s.up, wak.ringStart := some s.up }
      match memberAtPos s 2 with
      | none => .next (ringEnd 1 0 0 0 s)
      | some u => .next (ringSend u { origin := s.uid, ringId := n, csc := activeCsc s, consent := 1 } s)

/-- The veto reason a ring frame meets: the lowest that applies (R344, R347). -/
def ringVeto (s : State) (csc : Word) : Nat := if vetoReason s ≠ 0 then vetoReason s else if csc ≠ activeCsc s then 8 else 0

/-- A member's veto written into the frame (R347). -/
def addVeto (pos reason : Nat) (m : RingMsg) : RingMsg :=
  let m := { m with vetoCount := min 255 (m.vetoCount + 1), consent := putBit m.consent (pos - 1) false }
  if m.firstPos = 0 then { m with firstPos := pos, firstReason := reason } else m

/-- The return reaches position 1 (R348). -/
def ringReturn (m : RingMsg) (s : State) : State :=
  match s.wak.ringStart with
  | none => s
  | some t =>
    if m.phase ≠ 2 || m.ringId ≠ s.wak.ringNext then s
    else if t + cfg s 0x2904 0 * fr < s.up then ringEnd 3 0 0 0 (bump 0x4048 s)
    else
      let full := (List.range (callSheetLen s)).all (fun i => m.consent.getLsbD i)
      if m.vetoCount = 0 && full && m.csc = activeCsc s && consent s then ringEnd 1 m.firstPos m.firstReason m.vetoCount s
      else ringEnd 2 m.firstPos m.firstReason m.vetoCount (bump 0x4044 s)

/-- A member at position p marks the frame (R347): what it forwards, and the state. The one pass at position N counts as
both (log 49). -/
def ringMark (p : Nat) (m : RingMsg) (s : State) : RingMsg × State :=
  let v := ringVeto s m.csc
  let last := p = callSheetLen s
  if m.phase = 1 then
    let turn (m : RingMsg) : RingMsg := if last then { m with phase := 2 } else m
    if v ≠ 0 then (turn (addVeto p v m), s)
    else
      (turn { m with consent := putBit m.consent (p - 1) true },
       { s with wak.ringId := m.ringId, wak.consentOut := some m.ringId,
                wak.consentBoth := if last then some m.ringId else s.wak.consentBoth })
  else if !m.consent.getLsbD (p - 1) then (m, s)
  else if v ≠ 0 then (addVeto p v m, s)
  else if s.wak.consentOut = some m.ringId then (m, { s with wak.consentBoth := some m.ringId })
  else (m, s)

/-- A ring frame whose transport steps are done (R347). -/
def ringIn (m : RingMsg) (s : State) : State :=
  let p := ownPosition s
  if m.origin = s.uid then ringReturn m s
  else if p < 2 || !(m.phase = 1 || m.phase = 2) then s
  else
    let (m', s) := ringMark p m s
    match memberAtPos s (if m'.phase = 1 then p + 1 else p - 1) with
    | some u => ringSend u m' s
    | none => s

/-- RING_FRAME_RECEIVE (R347, R348). -/
def execRingFrameReceive (m : RingMsg) (s : State) : Ans := .next (ringIn m s)

/-- RING_TIMEOUT (R348). -/
def execRingTimeout (s : State) : Ans :=
  match s.wak.ringStart with
  | none => .next s
  | some t => .next (ringEnd 3 0 0 0 (bump 0x4048 (passTo (t + cfg s 0x2904 0 * fr) s)))

/-- A hop stays unacknowledged to the end of the retry budget: the ring ends at the sending node (R346). -/
def ringHopFailed (payload : List Byte) (s : State) : State :=
  let s := bump 0x4048 s
  if beNat ((payload.drop 4).take 6) = s.uid.toNat && s.wak.ringStart.isSome
      && beNat ((payload.drop 12).take 4) = s.wak.ringNext.toNat then ringEnd 3 0 0 0 s
  else s

/-! ### The dusk take (R349 to R351) -/

/-- DUSK_PREPARE_SEND (R349): at the first frame boundary after a successful ring; without its own consent the node sends
none. -/
def execDuskPrepareSend (s : State) : Ans :=
  match s.wak.duskDue with
  | none => .next s
  | some (ring, p) =>
    let s := { passToInstant p s with wak.duskDue := none }
    if ownPosition s ≠ 1 || !consent s then .next s
    else
      let at_ (n : Nat) : Instant := s.now + BitVec.ofNat 64 (n * fr)
      .next (sysPrintIfAll (sysPrepare 3 (at_ 16) (at_ 2) (activeCsc s) (beBytes 4 ring.toNat ++ [0, 0, 0, 0]) (callSheetUids s) s))

/-- The REASON with which a member refuses a dusk PREPARE, 0 for YES (R350), in the order of its tests. -/
def duskReason (m : TakeMsg) (s : State) : Nat :=
  if m.bodyCsc ≠ activeCsc s then 3
  else if !(s.tak.sys.state = .idle || s.tak.sys.state = .scrapped) then 5
  else if s.tak.user.state = .prepared || s.tak.user.state = .printed then 2
  else if s.wak.consentBoth ≠ some (word (beNat (m.content.take 4))) then 4
  else if !consent s then 4
  else 0

/-- CONSENT_LOST (R351): consent stops holding after a YES vote and before the print instant: a member withdraws, the
coordinator scraps. -/
def execConsentLost (s : State) : Ans :=
  let u := s.tak.sys
  if u.kind ≠ 3 || u.state ≠ .prepared || u.withdrawn || consentForDusk s then .next s
  else if u.isCoord then .next (sysCoordScrap 1 s)
  else
    let v : TakeMsg := { kind := 3, coord := u.coord, num := u.num, instant := u.instant, vote := 2, reason := 4 }
    .next (takeTo u.coord 0x21 v { s with tak.sys.withdrawn := true })

/-! ### Dusk (R352, R353) -/

/-- A line is released in DUSK: in the order of R56 with the defer limit 0 (R352), no closer than 8 fr to a switch of the other
(R54). -/
def duskRelease (l : Line) (s : State) : State :=
  if !lineEnergised s l then s
  else
    let s := spaced l s
    doRelease l false (if switchReady s l (lineSt s l).sound then s else bump 0xB0040 s)

/-- The line inserted second is released; an insertion that runs stops. -/
def releaseSecond (s : State) : State :=
  let s := stopInsertion { s with wak.duskOneOff := true }
  match s.bb.second with
  | some l => duskRelease l s
  | none => s

/-- DUSK_SECOND_LINE_RELEASE (R352): at I − 8 fr. -/
def execDuskSecondLineRelease (s : State) : Ans :=
  match s.wak.duskAt with
  | none => .next s
  | some i =>
    if s.node ≠ .dusk || s.wak.duskOneOff then .next s
    else .next (releaseSecond (passToInstant (i - BitVec.ofNat 64 (8 * fr)) s))

/-- The dusk instant (R352, R353): the other line is released, the sleep indication is given, the dusk take has been applied. -/
def duskInstant (s : State) : State :=
  let s := if s.tak.sys.kind = 3 && s.tak.sys.state = .printed then sysApplied 1 s else s
  let s := stopInsertion { s with wak.duskAt := none }
  let s := raiseIrq 12 { s with wak.sleepInd := .dusk, wak.sleepIndBy := s.up + 8 * fr, tak.sys := { num := s.tak.sys.num } }
  match s.bb.second with
  | some l => duskRelease (other l) (duskRelease l s)
  | none => duskRelease .b (duskRelease .a s)

/-- The dusk take applies late (R334, Tables 13.1, 13.6): DUSK, the second line at once, the other and the sleep indication 8 fr
later (log 50). -/
def duskLate (ring : Word) (s : State) : State :=
  let s := sysApplied 2 s
  releaseSecond (enterDusk (s.now + BitVec.ofNat 64 (8 * fr)) ring { s with tak.sys := { num := s.tak.sys.num } })

/-! ### Wake and dawn (R342, R343, R357 to R360, R396) -/

/-- What inauguration keeps through ASLEEP (R343, R360): the Call Sheet and the addresses; the records, the neighbours and what
was under way are gone. -/
def inaAtDawn (q : InaSt) : InaSt :=
  { sheet := q.sheet, prevSheet := q.prevSheet, prevCsc := q.prevCsc, macs := q.macs, inhibit := q.inhibit, epoch := q.epoch, own := q.own,
    sentAt := q.sentAt, late := q.late, etb := q.etb, foreFault := q.foreFault, aftFault := q.aftFault }

/-- A wake event acts in ASLEEP (R342, R358, R505), one that D0's comparator saw as cause 0, until D1 decides it (R396): DAWN is entered, D1 and D2 are powered fully, Meridian restarts in FREE. -/
def dawn (cause src : Nat) (s : State) : State :=
  let s := { s with wak.cause := cause, wak.src := src, wak.watched := cause = 0, wak.latched := none, wak.pendWake := none, wak.timerAt := none, wak.sleepInd := .none,
                    wak.sleepLast := word ((s.up - s.wak.sleepAt) / rl), hpl.boot := .waking, hpl.removeLed := false,
                    hpl.safeToRemove := false, bb.seq := .none, bb.deferred := [], ina := inaAtDawn s.ina,
                    tim := { pulses := s.tim.pulses, caps := s.tim.caps, ptp := s.tim.ptp, freq := s.tim.freq } }
  let s := setLine .a { s.bb.a with contactFault := false, waiting := false } s
  let s := setLine .b { s.bb.b with contactFault := false, waiting := false } s
  powerFollow (setNode .dawn (bump 0x4050 s))

/-- A wake event of Table 13.4 (R342, R358). -/
def wakeEvent (cause src : Nat) (s : State) : State := if s.node = .asleep then dawn cause src s else noteWake cause src s

/-- The event of a cause and source can be: an input that is watched and active, a wake-enabled port, a coupler end (Table 13.4). -/
def wakeValid (s : State) (cause src : Nat) : Bool :=
  match cause with
  | 1 => src ≠ 0 && cfg s 0x2905 0 == src && domOn s .d1 && (inSt s (src - 1)).high
  | 2 => src ≠ 0 && (cfg s 0x2908 0).testBit (src - 1) && domOn s .d1 && (inSt s (src - 1)).high
  | 3 => decide (4 ≤ src ∧ src ≤ 16) && cfgOn s 0x2913 (src + 1) && (s.node ≠ .asleep || (domSt s .d7).low)
  | 4 => src < 2
  | 6 => src = 0 && s.node = .dusk
  | _ => false

/-- WAKE_EVENT (R358). -/
def execWakeEvent (cause : Fin 7) (src : BitVec 5) (s : State) : Ans :=
  if wakeValid s cause.val src.toNat then .next (wakeEvent cause.val src.toNat s) else .next s

/-- WAKE_TIMER_EXPIRY (R358): cause 5. -/
def execWakeTimerExpiry (s : State) : Ans :=
  match s.wak.timerAt with
  | none => .next s
  | some t => if s.node = .asleep then .next (dawn 5 0 (passTo t s)) else .next s

/-- The inputs D0 watches: the wake line first, then the masked ones (R396). -/
def watchedInputs (s : State) : List Nat :=
  let w := cfg s 0x2905 0
  (if w = 0 then [] else [w]) ++ ((List.range 16).map (· + 1)).filter (fun j => j ≠ w && (cfg s 0x2908 0).testBit (j - 1))

/-- The threshold of D0's comparator, in counts of 2.5 mV (R396). -/
def watchThreshold (s : State) : Nat := inUn s ((watchedInputs s).headD 1 - 1) / 2

/-- D0_WAKE_WATCH (R396): the highest watched input has stood at a level for 64 pf with D1 off: a wake event in every node state. Its
cause is decided at DAWN. -/
def execD0WakeWatch (level : BitVec 16) (s : State) : Ans :=
  if s.node = .off || domOn s .d1 || (watchedInputs s).isEmpty || level.toNat ≤ watchThreshold s then .next s
  else .next (wakeEvent 0 0 s)

/-- The cause that the levels measured by D1 give: means of the first 16 samples, by input from 1 (R396). -/
def watchedCause (levels : List (BitVec 16)) (s : State) : Nat × Nat :=
  let above (j : Nat) : Bool := decide (watchThreshold s < (levels.getD (j - 1) 0).toNat)
  let w := cfg s 0x2905 0
  if w ≠ 0 && above w then (1, w)
  else match ((List.range 16).map (· + 1)).find? (fun j => (cfg s 0x2908 0).testBit (j - 1) && above j) with
    | some j => (2, j)
    | none => (2, 0x1F)

/-- The node wakes the train, or reports that its wake stays local (R359). -/
def driveWakeLine (s : State) : State :=
  if s.wak.cause = 1 || s.wak.cause = 0 then s
  else if cfg s 0x2906 0 = 0 then fire 25 3 [BitVec.ofNat 8 s.wak.cause, BitVec.ofNat 8 s.wak.src] s
  else noteDriven s { s with wak.pulseBy := some (s.up + cfg s 0x2907 0 * fr) }

/-- The consist network is awake and its idle time starts again (R357). -/
def consistAwake (s : State) : State :=
  let s := { s with wak.consistAwake := true, wak.idleFrom := s.up, wak.sleepInd := if s.wak.sleepInd = .consist then .none else s.wak.sleepInd }
  (List.range 13).foldl (fun s i => portEnable (i + 4) s) s

/-- DAWN_DOMAINS_ON (R342, R353, R357, R359, R396): the domains of DAWN are on. The levels are those D1 has measured. -/
def execDawnDomainsOn (levels : List (BitVec 16)) (s : State) : Ans :=
  if s.node ≠ .dawn || s.hpl.boot ≠ .waking then .next s
  else
    let s := if s.wak.watched then
        let c := watchedCause levels s
        { s with wak.cause := c.1, wak.src := c.2, wak.watched := false }
      else s
    let s := { s with hpl.boot := .dawned, wak.consistAwake := true, wak.idleFrom := s.up, wak.lastKeepAlive := [] }
    let s := canStart (powerFollow s)
    let s := if s.wak.forcedNote then fire 24 4 (beBytes 4 (tget s.reg 0x4058 0).toNat) { s with wak.forcedNote := false } else s
    .next (startInsertion (setNode .joining (driveWakeLine s)))

/-- WAKE_PULSE_END (R359). -/
def execWakePulseEnd (s : State) : Ans :=
  match s.wak.pulseBy with
  | none => .next s
  | some t => let s := passTo t s; .next (noteDriven s { s with wak.pulseBy := none })

/-! ### ASLEEP (R342, R343, R353) -/

/-- The node goes to ASLEEP; a latched wake acts at once. The wake timer starts. -/
def fallAsleep (forced : Bool) (s : State) : State :=
  let t := cfg s 0x2909 0
  let s := canStop { s with wak.sleepInd := .none, wak.duskAt := none, wak.consistAwake := false, wak.sleepAt := s.up, wak.forced := forced,
                            wak.forcedNote := forced, wak.timerAt := if t = 0 then none else some (s.up + t * rl) }
  let s := powerFollow (setNode .asleep s)
  match s.wak.latched with
  | some (c, i) => dawn c i s
  | none => s

/-- The drain of DUSK is complete (R352): nothing is left of the bridge, of process data and of the recorder's queue. -/
def duskDrained (s : State) : Bool :=
  splIdle s && pdbIdle s && s.log.queue.isEmpty

/-- D0 forces the domains of ASLEEP at I + 8 fr (R353). -/
def forceSleep (s : State) : State := fallAsleep true (bump 0x4058 (passTo s.wak.sleepIndBy s))

/-- SLEEP_READY (R353): pair 0 has completed the drain after the sleep indication. After I + 8 fr it comes too late: D0 has forced the
sleep. -/
def execSleepReady (s : State) : Ans :=
  if s.node ≠ .dusk || s.wak.sleepInd ≠ .dusk then .next s
  else if s.wak.sleepIndBy < s.up then .next (forceSleep s)
  else if duskDrained s then .next (fallAsleep false s)
  else .next s

/-- FORCED_SLEEP (R353): SLEEP_READY has not come by I + 8 fr. -/
def execForcedSleep (s : State) : Ans :=
  if s.node ≠ .dusk || s.wak.sleepInd ≠ .dusk then .next s else .next (forceSleep s)

/-! ### The consist network (R353, R355 to R357) -/

/-- STAY_AWAKE (R353, R357, R358): it stops a consist sleep or ends one; in DUSK it is a wake of cause 6 as well. -/
def stayAwake (s : State) : State :=
  match s.node with
  | .dusk => noteWake 6 0 (if s.wak.consistAwake then s else consistAwake s)
  | .off => s
  | .asleep => s
  | _ =>
    if s.wak.sleepInd = .consist then { s with wak.sleepInd := .none, wak.idleFrom := s.up }
    else if s.wak.consistAwake then s
    else consistAwake s

/-- STAY_AWAKE (R353): WAK_CTRL.STAY_AWAKE is written by the host. -/
def execStayAwake (s : State) : Ans := if reaches s .host then .next (stayAwake s) else .next s

/-- A port holds the consist network awake. -/
def netHeld (s : State) : Bool := (List.range 13).any (fun i => holdsNet s (i + 4) (portUp s (i + 4)))

/-- A port holds it by its link (R355). -/
def linkHeld (s : State) : Bool := (List.range 13).any (fun i => cfg s 0x2910 (i + 5) = 2 && portUp s (i + 4))

/-- A keep-alive mode or the idle time changes (R356): what the network was held for until now stands. -/
def idleApply (old : State) (s : State) : State := { s with wak.idleFrom := if netHeld old then s.up else min s.up (heldUntil old) }

/-- The consist network may go to sleep on its own in this node state; in DUSK it sleeps with the node (Table 13.6). -/
def consistRuns (s : State) : Bool :=
  match s.node with
  | .joining => true
  | .member => true
  | _ => false

/-- CONSIST_IDLE_EXPIRY (R356): no port has held the network for the idle time: a sleep indication. -/
def execConsistIdleExpiry (s : State) : Ans :=
  if !consistRuns s || !s.wak.consistAwake || s.wak.sleepInd ≠ .none || linkHeld s then .next s
  else
    let s := passTo (idleExpiry s) s
    .next (raiseIrq 12 { s with wak.sleepInd := .consist, wak.sleepIndBy := s.up + 8 * fr })

/-- CONSIST_SLEEP (R356): 8 fr after the indication the consist PHYs go to listen, or off. -/
def execConsistSleep (s : State) : Ans :=
  if s.wak.sleepInd ≠ .consist || !consistRuns s then .next s
  else
    let s := passTo s.wak.sleepIndBy s
    let s := bump 0x405C { s with wak.sleepInd := .none, wak.consistAwake := false }
    .next ((List.range 13).foldl (fun s i => portDisable (i + 4) 2 s) s)

/-- CONSIST_WAKE (R357): link energy at a wake-enabled port of the sleeping network. -/
def execConsistWake (p : Fin 17) (s : State) : Ans :=
  if p.val < 4 || s.wak.consistAwake || !cfgOn s 0x2913 (p.val + 1) || s.node = .asleep || s.node = .off then .next s
  else .next (consistAwake s)

/-! ### The coupler at D0 (R29) -/

/-- D0_COUPLER_CLOSE (R29, R395): while D1 is off, a head mate at an end: in ASLEEP a wake of cause 4; otherwise the PHYs of that end are powered, train
where their relay is energised, and pre-inauguration is signalled. Whether it then starts before link-up while D1 is off is not clear
(R29, Table 1.6); DESIGN CHOICE: PRE is entered (log 154). -/
def execD0CouplerClose (e : End) (s : State) : Ans :=
  if domOn s .d1 then .next s
  else match s.node with
  | .off => .next s
  | .exit => .next s
  | .fault => .next s
  | .asleep => .next (dawn 4 (match e with
      | .fore => 0
      | .aft => 1) s)
  | _ =>
    let s := (portsAt e).foldl (fun s p => portEnable p s) s
    if endCode s e = 2 then .next s else .next (endTrain e s)

end Sys2Proof.Machine
end

