-- ==== Sys2Proof/Machine/Rules.lean ====
section
/-!
DEFINITION. Machine/Rules.lean: which registers exist, and the relations between objects: check 10 of Table 11.4, one question per
owning chapter (chapters 2, 4 to 7, 10, 14, 15 and 17).
-/
namespace Sys2Proof.Machine

/-! ### The registers of BAR0 (R472) -/

/-- A run of registers: its base, its number of words, how often it repeats and at what stride. -/
structure RegRun where
  base : Nat
  words : Nat
  reps : Nat := 1
  stride : Nat := 4

/-- The defined registers below the PRT blocks. -/
def regRunsLow : List RegRun := [
  ⟨0x0, 10, 1, 4⟩, ⟨0x40, 1, 1, 4⟩, ⟨0x1000, 4, 1, 4⟩, ⟨0x1040, 1, 1, 4⟩, ⟨0x1100, 23, 1, 4⟩, ⟨0x1800, 256, 1, 4⟩, ⟨0x1C00, 2, 1, 4⟩,
  ⟨0x2000, 9, 1, 4⟩, ⟨0x2040, 4, 1, 4⟩, ⟨0x2100, 4, 8, 16⟩, ⟨0x3000, 5, 1, 4⟩, ⟨0x3040, 3, 1, 4⟩, ⟨0x4000, 7, 1, 4⟩, ⟨0x4040, 9, 1, 4⟩,
  ⟨0x8000, 11, 1, 4⟩, ⟨0x8400, 256, 1, 4⟩, ⟨0x9000, 8, 1, 4⟩, ⟨0x9040, 8, 1, 4⟩]

/-- Those of the PRT and MAC blocks of ports 0 to 16, and of the SCH and TIM blocks. -/
def regRunsMid : List RegRun := [
  ⟨0x10000, 9, 17, 0x1000⟩, ⟨0x10040, 6, 17, 0x1000⟩, ⟨0x10060, 6, 17, 0x1000⟩, ⟨0x10100, 53, 17, 0x1000⟩, ⟨0x10200, 5, 17, 0x1000⟩,
  ⟨0x10220, 11, 17, 0x1000⟩, ⟨0x10250, 16, 17, 0x1000⟩, ⟨0x10300, 11, 17, 0x1000⟩, ⟨0x30000, 3, 1, 4⟩, ⟨0x30100, 136, 1, 4⟩,
  ⟨0x31000, 4352, 1, 4⟩, ⟨0x38000, 4352, 1, 4⟩, ⟨0x40000, 15, 1, 4⟩, ⟨0x40040, 6, 1, 4⟩, ⟨0x40100, 32, 1, 4⟩, ⟨0x40200, 6, 4, 0x20⟩,
  ⟨0x40400, 1, 4, 0x100⟩, ⟨0x40410, 3, 8, 16⟩, ⟨0x40510, 3, 8, 16⟩, ⟨0x40610, 3, 8, 16⟩, ⟨0x40710, 3, 8, 16⟩]

/-- Those of the INA, SPL, STM, CHK, PDB, REC, TLN, CPU, SEC and SW blocks. -/
def regRunsHigh : List RegRun := [
  ⟨0x48000, 10, 1, 4⟩, ⟨0x48030, 8, 1, 4⟩, ⟨0x48400, 200, 1, 4⟩, ⟨0x50000, 7, 1, 4⟩, ⟨0x50040, 17, 1, 4⟩, ⟨0x51000, 10, 64, 0x40⟩,
  ⟨0x52000, 512, 1, 4⟩, ⟨0x53000, 64, 1, 4⟩, ⟨0x53100, 5, 1, 4⟩, ⟨0x53200, 5, 1, 4⟩, ⟨0x58000, 4, 16, 0x20⟩, ⟨0x58400, 9, 1, 4⟩,
  ⟨0x58430, 6, 1, 4⟩, ⟨0x58460, 9, 1, 4⟩, ⟨0x58500, 128, 1, 4⟩, ⟨0x60000, 11, 1, 4⟩, ⟨0x60030, 3, 1, 4⟩, ⟨0x60040, 2, 1, 4⟩,
  ⟨0x68000, 16, 1, 4⟩, ⟨0x68040, 5, 1, 4⟩, ⟨0x68060, 5, 1, 4⟩, ⟨0x68080, 11, 1, 4⟩, ⟨0x70000, 15, 1, 4⟩, ⟨0x70040, 7, 1, 4⟩,
  ⟨0x70100, 4, 1, 4⟩, ⟨0x71000, 1024, 1, 4⟩, ⟨0x80000, 7, 1, 4⟩, ⟨0x80020, 3, 1, 4⟩, ⟨0x80040, 8, 1, 4⟩, ⟨0x80100, 128, 1, 4⟩,
  ⟨0x80400, 6, 8, 0x20⟩, ⟨0x80600, 2, 4, 0x10⟩, ⟨0x90000, 7, 1, 4⟩, ⟨0x90040, 4, 1, 4⟩, ⟨0x90100, 6, 8, 0x20⟩, ⟨0xA0000, 1, 1, 4⟩,
  ⟨0xA0100, 3, 4, 0x40⟩, ⟨0xA0110, 4, 4, 0x40⟩, ⟨0xB0000, 17, 1, 4⟩, ⟨0xB0080, 1, 1, 4⟩, ⟨0xB0100, 53, 3, 0x100⟩,
  ⟨0xB01F0, 4, 3, 0x100⟩]

/-- An address lies in a run. -/
def RegRun.has (r : RegRun) (a : Nat) : Bool :=
  decide (r.base ≤ a) &&
    (if r.reps = 1 then decide (a < r.base + 4 * r.words)
     else decide ((a - r.base) / r.stride < r.reps ∧ (a - r.base) % r.stride < 4 * r.words))

/-- A register exists at a BAR0 offset (R367, R472). -/
def regExists (a : Nat) : Bool :=
  decide (a % 4 = 0) && (regRunsLow.any (·.has a) || regRunsMid.any (·.has a) || regRunsHigh.any (·.has a))

/-! ### Relations (check 10 of Table 11.4) -/

/-- The code of a relation that must hold. -/
def holdsOr (code : Word) (b : Bool) : Word := if b then 0 else code
abbrev relation (b : Bool) : Word := holdsOr aRelationBroken b

/-- MAX_LEN of the backbone ports exceeds that of every other port by 6 at least (R117). -/
def maxLenOk (t : State) (sub : Nat) : Bool :=
  let big := (List.range 13).foldl (fun m i => max m (cfg t 0x2210 (i + 5))) 0
  if sub ≤ 4 then decide (big + 6 ≤ cfg t 0x2210 sub)
  else (List.range 4).all (fun p => decide (cfg t 0x2210 sub + 6 ≤ cfg t 0x2210 (p + 1)))

/-- The prefetch bit of a window tells its aperture: BAR4 or BAR2. -/
def winSpan (t : State) (w : Nat) : Nat × Nat := (winCfg t w 2, 2 ^ winCfg t w 3)

/-- The placing of a window: its base is a multiple of its size (Table 7.14); enabled, it lies in its aperture beside the others
(R195). -/
def windowPlaced (t : State) (w : Nat) : Bool :=
  let (b, n) := winSpan t w
  let pre := winCfg t w 6
  b % n = 0 && (winCfg t w 1 = 0 || (decide (b + n ≤ if pre = 0 then 2 ^ 28 else 2 ^ 30)
    && (List.range 64).all (fun v =>
      v = w || winCfg t v 1 = 0 || winCfg t v 6 ≠ pre || !overlap b n (winSpan t v).1 (winSpan t v).2)))

/-- The size of a window fits its aperture (R195). -/
def windowSized (t : State) (w : Nat) : Bool := decide (winCfg t w 3 ≤ 28) || winCfg t w 6 ≠ 0

/-- The completion timeout of an enabled window exceeds the retry budget by 64 pf at least (R234). -/
def timeoutOk (t : State) (w : Nat) : Bool :=
  winCfg t w 1 = 0 || decide (cfg t 0x2702 0 * (1 + cfg t 0x2703 0) + 64 ≤ winCfg t w 10)

/-- An enabled region lies wholly in the export area (R197). -/
def regionOk (t : State) (r : Nat) : Bool :=
  regCfg t r 1 = 0 || decide (regCfg t r 2 + regCfg t r 3 ≤ cfg t 0x2704 0 * 2 ^ 20)

/-- A window's relations: its size, its place, its timeout. -/
def windowCode (t : State) (w sub : Nat) : Word :=
  if sub = 1 ∨ sub = 2 ∨ sub = 3 ∨ sub = 6 then
    (if windowSized t w && windowPlaced t w then (if sub = 1 then holdsOr aTimeoutBelowBudget (timeoutOk t w) else 0) else aRelationBroken)
  else if sub = 10 then holdsOr aTimeoutBelowBudget (timeoutOk t w)
  else 0

/-- The CAN identifiers that SDO and heartbeat use on port c (R274, R305). -/
def sdoIds (t : State) (c : Nat) : List Nat :=
  let n := cfg t 0x2009 (c + 1)
  if n = 0 then [] else [0x580 + n, 0x600 + n, 0x700 + n]

/-- Message object i of CAN port c, from 0, does not use one of them. -/
def canIdOk (t : State) (c i : Nat) : Bool :=
  let v := canObj t 0x2810 c i
  !(v.testBit 31 && !v.testBit 29 && (sdoIds t c).contains (v % 2 ^ 29))

/-! #### The signal map (R277) -/

/-- The bits of a sink that a mapping fills, as places in its data: its field and its validity bit. -/
def sinkPlaces (m : Mapping) : List (Nat × Nat) :=
  (List.range m.len).map (fun i => bitPlace m.sinkLe (m.sinkBit + i))
    ++ (match m.valid with
      | some b => [bitPlace m.sinkLe b]
      | none => [])

/-- A source is enabled as a sink, or a sink as a source. -/
def srcWrongRole (t : State) (n : Nat) : Bool := n / 64 < 3 && sinkEnabled t (n / 64) (n % 64)
def sinkWrongRole (t : State) (kind i : Nat) : Bool := kind < 3 && srcEnabled t (64 * kind + i)

/-- A mapping is well formed, and its fields lie within their objects. -/
def mappingOk (t : State) (m : Mapping) : Bool :=
  [0, 1, 2, 4].contains m.kind && decide (m.index ≤ 63) && decide (1 ≤ m.len ∧ m.len ≤ 64)
    && decide (m.srcBit + m.len ≤ 8 * pdLen t (m.src / 64) (m.src % 64)) && decide (m.sinkBit + m.len ≤ 8 * pdLen t m.kind m.index)
    && (match m.valid with
      | some b => decide (b < 8 * pdLen t m.kind m.index)
      | none => true)
    && !srcWrongRole t m.src && !sinkWrongRole t m.kind m.index

/-- No two fields or validity bits of one sink overlap. -/
def mapDisjoint : List Mapping → Bool
  | [] => true
  | m :: r =>
    let p := sinkPlaces m
    decide p.Nodup && r.all (fun x => !(x.kind = m.kind && x.index = m.index && (sinkPlaces x).any p.contains)) && mapDisjoint r

/-- The signal map is valid. -/
def mapOk (t : State) : Bool :=
  (valBytes (valOf t (key 0x2840 0))).length % 24 = 0 && (signalMap t).all (mappingOk t) && mapDisjoint (signalMap t)

/-! #### Snapshot lists (R367) -/

/-- The largest value an object item captures (R368): a scalar's size, or what a byte string can hold, to 256 bytes. -/
def itemWorst (w : Word) : Nat :=
  if bitsOf w 31 30 = 0 then 4
  else match objRow (bitsOf w 23 8) (bitsOf w 7 0) with
    | some r => (match r.ty with
      | .dom n => min n 256
      | .str => min deviceName.length 256
      | ty => ty.size)
    | none => 1

/-- An item names a register or an object that exists and can be read. -/
def itemOk (w : Word) : Bool :=
  let i := bitsOf w 23 8
  let j := bitsOf w 7 0
  match bitsOf w 31 30 with
  | 0 => regExists (bitsOf w 23 0) && bitsOf w 29 20 = 0
  | 1 => bitsOf w 29 24 = 0 && (match objRow i j with
    | some r => r.acc ≠ .wo
    | none => j = 0 && indexExists i && !isSimple i)
  | _ => false

/-- A snapshot list is valid. -/
def snapshotOk (l : List Byte) : Bool :=
  let items := beWords (l.length / 4) l
  l.length % 4 = 0 && items.all itemOk && decide (68 + (items.map (fun w => 8 + (itemWorst w + 3) / 4 * 4)).sum ≤ 65536)

/-! #### The remaining ones -/

/-- The domain enables meet the dependencies (R437): D8 and D11 need D10. -/
def domsOk (t : State) : Bool :=
  let v := cfg t 0x2104 0
  v.testBit 10 || (!v.testBit 8 && !v.testBit 11)

/-- The relations that hold for the object at a key, in a state in which the new values stand: 0, or the code of the
refusal. -/
def relationCode (k : Nat) (t : State) : Word :=
  let idx := k / 256
  let sub := k % 256
  if idx = 0x2210 then relation (maxLenOk t sub)
  else if idx = 0x2214 ∨ idx = 0x2215 then relation (decide (cfg t 0x2215 sub + 16 ≤ cfg t 0x2214 sub))
  else if 0x2520 ≤ idx ∧ idx ≤ 0x2530 then
    relation (schedValid (adminList t (idx - 0x2520)) && (valBytes (valOf t (key idx 4))).length % 4 = 0)
  else if 0x2610 ≤ idx ∧ idx ≤ 0x2613 then relation (decide (cfg t idx 4 + 8 ≤ cfg t idx 3))
  else if idx = 0x2630 ∨ idx = 0x2631 then relation (cfg t 0x2630 sub ≠ 3 || cfg t 0x2631 sub = 0)
  else if idx = 0x2702 ∨ idx = 0x2703 then holdsOr aTimeoutBelowBudget ((List.range 64).all (timeoutOk t))
  else if idx = 0x2704 then relation ((List.range 64).all (regionOk t))
  else if 0x2740 ≤ idx ∧ idx ≤ 0x277F then windowCode t (idx - 0x2740) sub
  else if 0x2780 ≤ idx ∧ idx ≤ 0x27BF then (if sub ≤ 3 then relation (regionOk t (idx - 0x2780)) else 0)
  else if idx = 0x2810 then relation (canIdOk t 0 (sub - 1) && mapOk t)
  else if idx = 0x2818 then relation (canIdOk t 1 (sub - 1) && mapOk t)
  else if [0x2812, 0x281A, 0x2820, 0x2831, 0x283B, 0x2840].contains idx then relation (mapOk t)
  else if idx = 0x2009 then relation ((List.range 64).all (canIdOk t (sub - 1)))
  else if 0x2A40 ≤ idx ∧ idx ≤ 0x2A5F then relation (snapshotOk (valBytes (valOf t k)))
  else if idx = 0x2B05 ∨ idx = 0x2B06 then relation (decide (cfg t 0x2B06 sub + 10 ≤ cfg t 0x2B05 sub))
  else if idx = 0x2B02 ∨ idx = 0x2B07 ∨ idx = 0x2B08 then relation (decide ((fixedTh t (sub - 1)).2 < (fixedTh t (sub - 1)).1))
  else if idx = 0x2101 ∨ idx = 0x2102 then relation (decide (1680 ≤ cfg t 0x2101 0 * cfg t 0x2102 0))
  else if idx = 0x2104 then relation (domsOk t)
  else 0

/-- The first object in index order whose relations the values break, and the code (R323). -/
def firstBroken (l : Tab Val) (s : State) : Option (Nat × Word) :=
  let t := applyVals l s
  l.findSome? (fun e => let c := relationCode e.1 t; if c = 0 then none else some (e.1, c))

/-! ### The checks of one access (Table 11.4) -/

/-- Checks 1 and 2: the index and the sub-index exist. -/
def existCode (idx sub : Nat) : Word :=
  if !indexExists idx then aNoObject
  else if (objRow idx sub).isSome || (sub = 0 && !isSimple idx) then 0
  else aNoSubindex

/-- Check 3 on a read: a WO object cannot be read. -/
def readRight (idx sub : Nat) : Word :=
  match objRow idx sub with
  | some r => if r.acc = .wo then aWriteOnly else 0
  | none => 0

/-- Check 3 on a write: an RO object, and the count of an array, cannot be written. -/
def writeRight (idx sub : Nat) : Word :=
  match objRow idx sub with
  | some r => if r.acc = .ro then aReadOnly else 0
  | none => aReadOnly

/-- The level a write needs (check 4): the entry's; severity 7 of a software trigger needs 2, a clear with ceiling 7 needs 3
(Table 14.8, R386). -/
def levelNeeded (idx sub : Nat) (data : List Byte) : Nat :=
  let l := ((objRow idx sub).map (·.level)).getD 0
  if idx = 0x2A10 && data[1]? = some 7 then max l 2
  else if idx = 0x2A20 && data = [7] then 3
  else l

/-- Check 5 on a write (R301), but for the two objects that FAULT and EXIT allow. -/
def writeState (s : State) (idx sub : Nat) : Word :=
  match s.node with
  | .fault => aDeviceState
  | .exit => aDeviceState
  | .dusk => if ((objRow idx sub).map (·.take)) = some .yes then aDeviceState else 0
  | _ => 0

/-- A byte string as a value of a row's type. -/
def valOfBytes (r : Obj) (d : List Byte) : Val := if r.ty.isScalar then .num (beNat d) else .bytes d

/-- Checks 6 to 8 on a whole value. -/
def wholeCode (k : Nat) (r : Obj) (d : List Byte) : Word :=
  if !lengthOk k r d.length then aLength
  else
    let v := valOfBytes r d
    let c := valueCode k r v
    if c ≠ 0 then c else if offBoundary k v then aNotOnBoundary else 0

end Sys2Proof.Machine
end

