-- ==== Sys2Proof/Machine/Takes.lean ====
section
/-!
DEFINITION. Machine/Takes.lean: takes (chapter 12): what an apply does in each unit, printing, the train-wide votes, doubt, and the
commands of the take messages and timers.
-/
namespace Sys2Proof.Machine

/-! ### What an apply does (R325) -/

/-- An object or field is among those that changed. -/
def touched (keys : List Nat) (idx sub : Nat) : Bool := keys.contains (key idx sub)

/-- One of the sub-indices of an index is. -/
def touchedAny (keys : List Nat) (idx : Nat) : Bool := keys.any (fun k => k / 256 = idx)

/-- Preemption settings have changed (Table 5.2): verification restarts as at UP, once a preemptable frame that is partly sent has completed
under the old ones. -/
def verifyAgain (frag p : Nat) (s : State) : State :=
  let partly := (macSt s p).rest.isSome || (match onWire s p with
    | some w => !w.express
    | none => false)
  if partly then setSched p { schedSt s p with restart := (schedSt s p).restart.or (some frag) } s else verifyStart p s

/-- What changed settings of port p do: enables (R129), schedule (R154), MAX_LEN (R151, Table 4.3), flow control (R124), verification (R142,
Table 5.2; a port that leaves mode 1 without having verified does so as at UP, log 115). -/
def portApply (old : State) (keys : List Nat) (s : State) (p : Nat) : State :=
  let t (idx : Nat) : Bool := touched keys idx (p + 1)
  let changed (idx : Nat) : Bool := cfg old idx (p + 1) ≠ cfg s idx (p + 1)
  let s := if t 0x10012 || t 0x10013 then macEnables p s else s
  let s := if t 0x10011 then portEnableApply p s else s
  let s := if touchedAny keys (0x2520 + p) then schedStage p s else s
  let s := if changed 0x2210 then setMac p { macSt s p with oldLimit := some (cfg old 0x2210 (p + 1), s.up) } s else s
  let s := if t 0x2210 && portUp s p then setSched p { schedSt s p with guard := guardOf s p } s else s
  let s := if 4 ≤ p && [0x2212, 0x2214, 0x2215].any t then flowApply p s else s
  let s := if t 0x2501 then setSched p { schedSt s p with heldIds := [] } s else s
  let s := if portUp s p && [0x2503, 0x2504, 0x2505, 0x2506, 0x2507].any changed then verifyAgain (cfg old 0x2504 (p + 1)) p s
    else if portUp s p && changed 0x2501 && cfg old 0x2501 (p + 1) = 1 && (schedSt s p).ver = 1 then verifyStart p s
    else s
  if 4 ≤ p && t 0x2217 then linkParams p s else s

/-- A function whose enable is set accepts work again: its DRAINED is no longer set (R255). -/
def resumeDrained (s : State) : State :=
  let clear {n : Nat} (v : BitVec n) (on : Nat → Bool) : BitVec n := (List.range n).foldl (fun v i => if on i then putBit v i false else v) v
  { s with
    spl.drained := s.spl.drained && !cfgOn s 0x2701 0,
    spl.winDrained := clear s.spl.winDrained (fun w => winCfg s w 1 = 1),
    spl.regDrained := clear s.spl.regDrained (fun r => regCfg s r 1 = 1),
    spl.stmDrained := clear s.spl.stmDrained (streamOn s),
    pdb.drained := s.pdb.drained && !cfgOn s 0x2801 0,
    net.dupDrained := s.net.dupDrained && !dupEnabled s }

/-- The enables of the train-line unit (R401): DRAINED follows at once; inputs and follow rules take their new settings. -/
def trainLinesApply (old : State) (keys : List Nat) (s : State) : State :=
  let before := s
  let s := if touched keys 0x10010 1 then { s with tln.inDrained := !inEnable s } else s
  let s := if touched keys 0x10010 2 then { s with tln.outDrained := !outEnable s } else s
  let s := (List.range 16).foldl (inputApply old keys) s
  let s := (List.range 8).foldl (fun s k =>
    if [0x2B10, 0x2B12, 0x2B13, 0x2B14, 0x2B15].any (fun i => touched keys i (k + 1)) then
      followOne (setOut k { outSt s k with followNext := none } s) k
    else s) s
  -- an input that starts or is reversed changes what its rules give (R400)
  let s := if touchedAny keys 0x2B01 || touchedAny keys 0x2B09 then (List.range 8).foldl followOne s else s
  noteDriven { old with tln := before.tln } s

/-- The hooks of chapter 6: the pulse outputs, the servo enable, the grandmaster capability and the reference port. -/
def timeHooks (old : State) (keys : List Nat) (s : State) : State :=
  let s := (List.range 4).foldl (fun s k => if ppsChanged old s k then ppsApply k s else s) s
  let s := if touched keys 0x260F 0 then servoApply s else s
  let s := if touched keys 0x2602 0 then gmCapableApply s else s
  if touched keys 0x2604 0 || touched keys 0x2605 0 then refApply (cfg old 0x2605 0) s else s

/-- The hooks of the loops, the cluster, the lines that are forced to bypass, the planes taken out and the domain enables. -/
def powerHooks (old : State) (keys : List Nat) (s : State) : State :=
  let s := if touchedAny keys 0x2110 then loopsApply s else s
  let s := if touched keys 0x2C01 0 then cpuEnableApply s else s
  let s := [0, 1, 2, 3].foldl (fun s p => if touched keys 0x2C30 (p + 1) then secApply p s else s) s
  let s := if touched keys 0x2308 0 then forceBypassApply (cfg old 0x2308 0) s else s
  let s := if touched keys 0x2105 0 then planeOutApply (cfg old 0x2105 0) s else s
  if touched keys 0x2104 0 then domEnablesApply (cfg old 0x2104 0) s else s

/-- What the changed values do besides standing, from the state before them (R325, R186, R425, R437, R439, R502). -/
def applyHooks (old : State) (keys : List Nat) (s : State) : State :=
  let s := (List.range 17).foldl (portApply old keys) s
  let s := if touchedAny keys 0x2201 || touchedAny keys 0x2202 then linkParamsApply (fun i p => cfg old i (p + 1)) s else s
  let s := trainLinesApply old keys (resumeDrained s)
  let s := timeHooks old keys (pdbConfigApply old keys s)
  let s := powerHooks old keys s
  let s := if touched keys 0x2420 0 then ttdpApply s else s
  let s := if touchedAny keys 0x2910 || touched keys 0x2911 0 then idleApply old s else s
  recordChanged s

/-- One value of a take takes its place: a "No; next reset" object is saved, a WO object of a share has nothing to hold. -/
def applyMember (s : State) (e : Nat × Val) : State :=
  match keyRow e.1 with
  | some r =>
    if r.take = .nextReset then { s with od.saved := tset s.od.saved e.1 e.2 }
    else if r.acc = .wo then s
    else applyOne e.1 e.2 s
  | none => s

/-- Every value of a take becomes applied in one step (R325). -/
def applyStaged (l : Tab Val) (s : State) : State := applyHooks s (l.map (·.1)) (l.foldl applyMember s)

/-- The user take applies, with its LAST_RESULT: 1 at its instant, 2 late (R325, R334). -/
def applyUser (result : Nat) (s : State) : State :=
  let u := s.tak.user
  let s := { s with tak.user := { num := u.num, coord := u.coord, instant := u.instant, appliedOwner := u.owner }, tak.lastResult := result, tak.latePrint := decide (result = 2) }
  let s := raiseIrq 11 (bump 0x9040 (applyStaged u.staged s))
  let s := fire 21 2 (beBytes 4 u.num.toNat ++ beBytes 2 u.staged.length ++ [BitVec.ofNat 8 u.kind]) s
  answerWaiting 0 s

/-- A user take that is due at an instant applies before anything else of that boundary (R327). -/
def userDue (t : Instant) (s : State) : State :=
  if s.tak.user.state = .printed && s.tak.user.instant.toNat ≤ t.toNat then applyUser 1 s else s

/-- TAKE_APPLY (R325): the instant of the PRINTED user take. -/
def execTakeApply (s : State) : Ans :=
  if s.tak.user.state ≠ .printed then .next s
  else .next (applyUser 1 (passToInstant s.tak.user.instant s))

/-- The pending gate list of port p becomes operational (R155). -/
def switchDue (s : State) (p : Nat) : State :=
  match (schedSt s p).next with
  | some (_, t) => if t.toNat ≤ s.now.toNat then scheduleSwitch p s else s
  | none => s

/-- A servo step forward has passed over the instants of takes and gate lists: each applies at the step (Table 6.8). -/
def stepDues (before s : State) : State :=
  if s.now.toNat ≤ before.now.toNat then s
  else
    let t := s.now
    let s := userDue t s
    let s := if s.tak.sys.kind = 2 && s.tak.sys.state = .printed && s.tak.sys.instant.toNat ≤ t.toNat then applySheet false s else s
    let s := match s.wak.duskAt with
      | some u => if s.node = .dusk && u.toNat ≤ t.toNat then duskInstant s else s
      | none => s
    (List.range 17).foldl switchDue s

/-- SYNC_RECEIVE (R176): a Sync arrives at port p with its Follow_Up; what a step of local time passes over applies. -/
def execSyncReceive (p : Fin 17) (m : SyncIn) (s : State) : Ans := .next (stepDues s (syncIn p.val m s))

/-- STEP_SUSPECT_EXPIRY (R177, R179): 2 rl in STEP-SUSPECT. -/
def execStepSuspectExpiry (s : State) : Ans :=
  match s.tim.servo, s.tim.suspectAt with
  | .stepSuspect, some t =>
    let s := passTo (t + 2 * rl) s
    .next (stepDues s (suspectEnd s))
  | _, _ => .next s

/-- CALL_SHEET_ACTIVATION (R99, R327): the instant of the PRINTED inauguration take. -/
def execCallSheetActivation (s : State) : Ans :=
  let u := s.tak.sys
  if u.kind ≠ 2 || u.state ≠ .printed then .next s
  else .next (applySheet false (userDue u.instant (passToInstant u.instant s)))

/-- DUSK_INSTANT (R327, R352, R353): a line inserted second that still stands is released on its way, at I − 8 fr. -/
def execDuskInstant (s : State) : Ans :=
  match s.wak.duskAt with
  | none => .next s
  | some t => 
    if s.node ≠ .dusk then .next s
    else
      let s := if s.wak.duskOneOff then s else releaseSecond (passToInstant (t - BitVec.ofNat 64 (8 * fr)) s)
      .next (duskInstant (userDue t (passToInstant t s)))

/-! ### The train-wide content (Table 12.1) -/

/-- An entry: its target, its object, its value, and its own bytes. -/
structure TwEntry where
  target : Uid
  idx : Nat
  sub : Nat
  value : List Byte
  raw : List Byte

/-- The entries of a content, of which there are at most n; none where the bytes do not split into entries. -/
def twEntries : Nat → List Byte → Option (List TwEntry)
  | _, [] => some []
  | 0, _ => none
  | n + 1, b =>
    let len := beNat ((b.drop 10).take 2)
    let size := 12 + (len + 3) / 4 * 4
    if len = 0 || 24576 < len || b.length < size then none
    else
      let e : TwEntry := { target := BitVec.ofNat 48 (beNat (b.take 6)), idx := beNat ((b.drop 6).take 2), sub := (b.getD 8 0).toNat,
                           value := (b.drop 12).take len, raw := b.take size }
      (twEntries n (b.drop size)).map (e :: ·)

def twParse (b : List Byte) : Option (List TwEntry) := twEntries (b.length / 16 + 1) b

/-- The members of the active Call Sheet that are FX-2440 nodes (R330). -/
def takeMembers (s : State) : List Uid := (((s.ina.sheet.map (·.entries)).getD []).filter (fun e => !e.legacy)).map (·.uid)

/-- TARGET_UID for every member (Table 12.1). -/
abbrev allMembersUid : Uid := 0xFFFFFFFFFFFF

/-- The share of a member: the entries that name it or every member, in list order (R330). -/
def shareOf (u : Uid) (l : List TwEntry) : List TwEntry := l.filter (fun e => e.target = u || e.target = allMembersUid)

/-- Checks 1 to 9 on an entry of a share, at a level (R331); train-wide content is no part of a share (R329). -/
def entryCode (level : Nat) (s : State) (e : TwEntry) : Word :=
  match objRow e.idx e.sub with
  | none => if existCode e.idx e.sub ≠ 0 then existCode e.idx e.sub else aReadOnly
  | some r =>
    if existCode e.idx e.sub ≠ 0 then existCode e.idx e.sub
    else if r.acc = .ro then aReadOnly
    else if level < levelNeeded e.idx e.sub e.value then aLevelTooLow
    else if writeState s e.idx e.sub ≠ 0 then writeState s e.idx e.sub
    else if wholeCode (key e.idx e.sub) r e.value ≠ 0 then wholeCode (key e.idx e.sub) r e.value
    else if e.idx = 0x2F10 then aTakeNotOpen
    else 0

/-- The values a share stages: the later entry for an object stands. -/
def shareValues (l : List TwEntry) : Tab Val :=
  l.foldl (fun t e => match objRow e.idx e.sub with
    | some r => tset t (key e.idx e.sub) (valOfBytes r e.value)
    | none => t) []

/-- Staged values keep the limits of R320. -/
def withinLimits (t : Tab Val) : Bool := decide (t.length ≤ 4096) && decide (stagedBytes t ≤ 262144)

/-- A member's judgement of a whole share, in the order of R331: REASON (0 for YES), the first failing object, the values. -/
def judgeShare (level : Nat) (b : List Byte) (s : State) : Nat × Nat × Nat × Tab Val :=
  match twParse b with
  | none => (1, 0, 0, [])
  | some l =>
    let t := shareValues l
    if !withinLimits t then (7, 0, 0, [])
    else match l.find? (fun e => entryCode level s e ≠ 0) with
      | some e => (if entryCode level s e = aLevelTooLow then 8 else 1, e.idx, e.sub, [])
      | none => match firstBroken t s with
        | some (k, _) => (1, k / 256, k % 256, [])
        | none => (0, 0, 0, t)

/-! ### Printing (R323, R324, R330) -/

/-- The refusal of an apply instant (R324), or none. -/
def instantCode (t : Nat) (s : State) : Word :=
  if t % fr ≠ 0 then aNotOnBoundary
  else if t < (nextFrame s.now).toNat then aTooLow
  else if s.now.toNat + 16 * rl < t then aTooHigh
  else 0

/-- The object that makes a train-wide take invalid (R329): something else staged beside the content, a content that is no
list of entries, an entry for no member. -/
def twInvalid (staged : Tab Val) (s : State) : Option (Nat × Nat) :=
  if 1 < staged.length then some (0x2F10, 0)
  else match twParse (valBytes (tget staged (key 0x2F10 0) (.bytes []))) with
    | none => some (0x2F10, 0)
    | some l => (l.find? (fun e => !(allMembersUid = e.target || (takeMembers s).contains e.target))).map (fun e => (e.idx, e.sub))

/-- The parts of a share (Table 12.3): at most 976 bytes each, one for an empty share. -/
def partsOf : Nat → List Byte → List (List Byte)
  | 0, _ => []
  | n + 1, b => if b.length ≤ 976 then [b] else b.take 976 :: partsOf n (b.drop 976)

/-- PREPARE goes to one member in as many frames as its share needs (R330). -/
def prepareSend (u : Uid) (share : List Byte) (m : TakeMsg) (s : State) : State :=
  let l := partsOf (share.length / 976 + 1) share
  let m := { m with shareLen := share.length, parts := l.length }
  ((List.range l.length).zip l).foldl (fun s x => takeTo u 0x20 { m with part := x.1, content := x.2 } s) s

/-- Every member has voted YES inside the vote window: PRINT goes out (R332). -/
def userPrintIfAll (s : State) : State :=
  let u := s.tak.user
  if u.isCoord && u.state = .prepared && allVoted u.members u.votes then
    let s := takeGroup 0x22 { kind := 1, coord := s.uid, num := u.num, instant := u.instant }
      { s with tak.user.state := .printed, tak.user.sentAt := s.up }
    answerWaiting 0 (keepOutcome { kind := 1, coord := s.uid, num := u.num, instant := u.instant, scrap := none, at_ := s.up } s)
  else s

/-- The conditions a member tests before the content, in the order of R331: the REASON, 0 where they hold. -/
def memberReason (src : Uid) (bodyCsc : Word) (instant : Instant) (s : State) : Nat :=
  let slotFree := s.tak.user.state = .idle || s.tak.user.state = .scrapped
  if !(takeMembers s).contains src then 3
  else if bodyCsc ≠ activeCsc s then 3
  else if s.node ≠ .member then 4
  else if !slotFree then 2
  else if s.tak.sys.state = .prepared || s.tak.sys.state = .printed then 5
  else if instant.toNat % fr ≠ 0 || instant.toNat < s.now.toNat + 16 * fr then 6
  else 0

/-- The coordinator's vote on its own share (R331): its own slot holds the take, so that condition is met. -/
def ownVote (share : List Byte) (s : State) : State :=
  let u := s.tak.user
  let r := memberReason s.uid (activeCsc s) u.instant { s with tak.user := {} }
  let j := judgeShare u.level share s
  if r ≠ 0 || j.1 ≠ 0 then coordScrap 1 7 s
  else userPrintIfAll { s with tak.user.votes := [s.uid], tak.user.staged := j.2.2.2 }

/-- The train-wide take is started (R330): every other member gets its share, the coordinator votes on its own. -/
def startTrainWide (instant voteBy : Instant) (l : List TwEntry) (s : State) : State :=
  let u := s.tak.user
  let members := takeMembers s
  let s := { s with tak.user := { u with state := .prepared, kind := 2, instant := instant, voteBy := voteBy, isCoord := true, members := members,
                                         votes := [] } }
  let m : TakeMsg := { kind := 1, coord := s.uid, num := u.num, instant := instant, level := u.level, bodyCsc := activeCsc s, voteBy := voteBy }
  let share (x : Uid) : List Byte := (shareOf x l).flatMap (·.raw)
  let s := (members.filter (· ≠ s.uid)).foldl (fun s x => prepareSend x (share x) m s) s
  ownVote (share s.uid) s

/-- What a PRINT comes to: a refusal that names an object or none, an answer, or a train-wide take whose answer waits. -/
inductive Printed
  | refused (code : Word) (idx sub : Nat) (s : State)
  | done (s : State)
  | waits (s : State)

/-- PRINT of the OPEN take, with an apply instant or without (R323, R324, R329, R330). The instant is checked first. -/
def printOpen (inst : Option Nat) (s : State) : Printed :=
  let u := s.tak.user
  let c := match inst with
    | some t => instantCode t s
    | none => 0
  let invalid (k : Nat × Nat) : Printed := .refused aTakeInvalid k.1 k.2 (bump 0x9048 s)
  if c ≠ 0 then .refused c 0 0 s
  else if (tfind u.staged (key 0x2F10 0)).isSome then
    let vote := s.now.toNat + cfg s 0x2F05 0 * fr
    let least := vote + cfg s 0x2F06 0 * fr
    match twInvalid u.staged s with
    | some k => invalid k
    | none =>
      if (inst.map (fun t => decide (t < least))).getD false then .refused aTooLow 0 0 s
      else
        let i : Instant := match inst with
          | some t => BitVec.ofNat 64 t
          | none => nextFrame (BitVec.ofNat 64 least)
        .waits (startTrainWide i (BitVec.ofNat 64 vote) ((twParse (valBytes (tget u.staged (key 0x2F10 0) (.bytes [])))).getD []) s)
  else match firstBroken u.staged s with
    | some (k, _) => invalid (k / 256, k % 256)
    | none =>
      let i : Instant := match inst with
        | some t => BitVec.ofNat 64 t
        | none => nextFrame s.now
      .done { s with tak.user := { u with state := .printed, instant := i } }

/-! ### The member (R331, R333) -/

/-- The vote of a member goes to the coordinator. -/
def userVote (m : TakeMsg) (reason idx sub : Nat) (s : State) : State :=
  let s := (firstSeen 0x20 m { s with tak.parts := s.tak.parts.filter (fun p => !(p.coord = m.coord && p.num = m.num)) }).2
  takeTo m.coord 0x21 { kind := 1, coord := m.coord, num := m.num, instant := m.instant, vote := if reason = 0 then 1 else 2,
                        reason := reason, firstIndex := idx, firstSub := sub } s

/-- The whole share is there: the member votes (R331). -/
def voteShare (m : TakeMsg) (share : List Byte) (s : State) : State :=
  match judgeShare m.level share s with
  | (0, _, _, t) =>
    userVote m 0 0 0 { s with tak.user := { state := .prepared, kind := 2, owner := 20, num := m.num, coord := m.coord, instant := m.instant,
                                            staged := t, level := m.level, voteBy := m.voteBy, lastReq := s.up } }
  | (r, i, j, _) => userVote m r i j s

/-- The parts of a PREPARE, with one more. -/
def addPart (src : Uid) (m : TakeMsg) (s : State) : Parts :=
  let old := s.tak.parts.find? (fun p => p.coord = m.coord && p.num = m.num)
  let p := old.getD { src := src, coord := m.coord, num := m.num, level := m.level, instant := m.instant, voteBy := m.voteBy,
                      csc := m.bodyCsc, shareLen := m.shareLen, count := m.parts, received := [], at_ := s.up }
  if m.part < p.count then { p with received := tset p.received m.part m.content } else p

/-- A part of a user PREPARE arrives (R331, R337). -/
def userPrepareIn (src : Uid) (m : TakeMsg) (s : State) : State :=
  if s.tak.seen.contains (1, m.coord, m.num, 0x20) then s
  else
    let r := memberReason src m.bodyCsc m.instant s
    if r ≠ 0 then userVote m r 0 0 s
    else if m.voteBy.toNat < s.now.toNat then userVote m 9 0 0 s
    else
      let p := addPart src m s
      let share := p.received.flatMap (·.2)
      if p.received.length = p.count && share.length = p.shareLen then voteShare m share s
      else { s with tak.parts := p :: s.tak.parts.filter (fun x => !(x.coord = m.coord && x.num = m.num)) }

/-- A dusk PREPARE arrives (R336, R350). -/
def duskPrepareIn (m : TakeMsg) (s : State) : State :=
  let s := sysPrepareHits s
  let r := duskReason m s
  let v : TakeMsg := { kind := 3, coord := m.coord, num := m.num, instant := m.instant, vote := if r = 0 then 1 else 2, reason := r }
  takeTo m.coord 0x21 v (if r = 0 then
    { s with tak.sys := { state := .prepared, kind := 3, num := m.num, coord := m.coord, instant := m.instant, content := m.content,
                          voteBy := m.voteBy } }
    else s)

/-- A PREPARE arrives (R331, R335, R337). -/
def prepareIn (src : Uid) (m : TakeMsg) (s : State) : State :=
  if m.kind = 1 then userPrepareIn src m s
  else if !(m.kind = 2 || m.kind = 3) then s
  else
    let (first, s) := firstSeen 0x20 m s
    if !first then s else if m.kind = 2 then inaVote m s else duskPrepareIn m s

/-- TAKE_PREPARE_RECEIVE (R331). -/
def execTakePrepareReceive (src : Uid) (m : TakeMsg) (s : State) : Ans := .next (prepareIn src m s)

/-- A PRINT arrives (R333). One that comes after I applies a user take at once. -/
def printIn (m : TakeMsg) (s : State) : State :=
  let (first, s) := firstSeen 0x22 m s
  let u := s.tak.user
  let y := s.tak.sys
  if !first then s
  else if m.kind = 1 then
    if u.state = .prepared && !u.isCoord && u.coord = m.coord && u.num = m.num then
      userDue s.now (keepOutcome { kind := 1, coord := u.coord, num := u.num, instant := u.instant, scrap := none, at_ := s.up }
        { s with tak.user.state := .printed, tak.user.doubt := false })
    else s
  else if y.state = .prepared && !y.isCoord && y.kind = m.kind && y.coord = m.coord && y.num = m.num then sysPrinted s
  else s

/-- TAKE_PRINT_RECEIVE (R333). -/
def execTakePrintReceive (m : TakeMsg) (s : State) : Ans := .next (printIn m s)

/-- The LAST_RESULT a member records for a SCRAP's REASON (R333). -/
def scrapResult (reason : Nat) : Nat := if reason = 3 then 6 else 7

/-- A SCRAP arrives (R333). -/
def scrapIn (m : TakeMsg) (s : State) : State :=
  let (first, s) := firstSeen 0x23 m s
  let u := s.tak.user
  let y := s.tak.sys
  let keep (i : Instant) (s : State) : State :=
    keepOutcome { kind := m.kind, coord := m.coord, num := m.num, instant := i, scrap := some m.reason, at_ := s.up } s
  if !first then s
  else if m.kind = 1 then
    if u.state = .prepared && !u.isCoord && u.coord = m.coord && u.num = m.num then scrapUser (scrapResult m.reason) (keep u.instant s)
    else s
  else if y.state = .prepared && !y.isCoord && y.kind = m.kind && y.coord = m.coord && y.num = m.num then
    scrapSys (scrapResult m.reason) (keep y.instant s)
  else if m.kind = 2 && !(y.kind = 2 && (y.state = .prepared || y.state = .printed)) && s.ina.st ≠ .printed then
    let s := inaScrapped { s with ina.changed := false }
    if s.ina.st = .settle then s else collect s
  else s

/-- TAKE_SCRAP_RECEIVE (R93, R333): a member that has not voted YES on the attempt returns to collection too; out of SETTLE it does so when
that ends (log 188). -/
def execTakeScrapReceive (m : TakeMsg) (s : State) : Ans := .next (scrapIn m s)

/-! ### The coordinator (R332) -/

/-- A VOTE, YES or NO, arrives (R332). -/
def voteIn (src : Uid) (m : TakeMsg) (s : State) : State :=
  let u := s.tak.user
  let y := s.tak.sys
  let inTime (v : Instant) : Bool := decide (s.now.toNat ≤ v.toNat)
  if m.coord ≠ s.uid then s
  else if m.kind = 1 then
    if !(u.isCoord && u.state = .prepared && u.num = m.num && u.members.contains src) then s
    else if m.vote = 2 then coordScrap 1 7 s
    else if m.vote = 1 && inTime u.voteBy then userPrintIfAll { s with tak.user.votes := src :: u.votes.filter (· ≠ src) }
    else s
  else if !(y.isCoord && y.state = .prepared && y.kind = m.kind && y.num = m.num && y.members.contains src) then s
  else if m.vote = 2 then sysCoordScrap 1 s
  else if m.vote = 1 && inTime y.voteBy then sysPrintIfAll { s with tak.sys.votes := src :: y.votes.filter (· ≠ src) }
  else s

/-- TAKE_VOTE_RECEIVE (R332, R93). -/
def execTakeVoteReceive (src : Uid) (m : TakeMsg) (s : State) : Ans := .next (voteIn src m s)

/-- A PREPARE whose parts have not all arrived by VOTE_BY is refused (R331). -/
def partsExpire (p : Parts) (s : State) : State :=
  userVote { kind := 1, coord := p.coord, num := p.num, instant := p.instant } 9 0 0 (passToInstant p.voteBy s)

/-- TAKE_VOTE_WINDOW_EXPIRY (R331, R332): the end of the vote window at the coordinator, or of the wait for parts at a member. -/
def execTakeVoteWindowExpiry (slot : TakeSlot) (s : State) : Ans :=
  match slot with
  | .user =>
    if s.tak.user.isCoord && s.tak.user.state = .prepared then .next (coordScrap 2 7 (passToInstant s.tak.user.voteBy s))
    else match s.tak.parts.getLast? with
      | some p => .next (partsExpire p s)
      | none => .next s
  | .sys =>
    if s.tak.sys.isCoord && s.tak.sys.state = .prepared then .next (sysCoordScrap 2 (passToInstant s.tak.sys.voteBy s)) else .next s

/-- The next of a run of frames that go out every 256 pf. -/
def nextSend (last : Nat) (s : State) : State := passTo (last + 256 * pf) s

/-- TAKE_PRINT_REPEAT (R332): PRINT is sent again, 256 pf after the last one, until I. -/
def execTakePrintRepeat (slot : TakeSlot) (s : State) : Ans :=
  match slot with
  | .user =>
    let u := s.tak.user
    let t := nextSend u.sentAt s
    if u.isCoord && u.state = .printed && t.now.toNat < u.instant.toNat then
      .next (takeGroup 0x22 { kind := 1, coord := s.uid, num := u.num, instant := u.instant } { t with tak.user.sentAt := t.up })
    else .next s
  | .sys =>
    let u := s.tak.sys
    let t := nextSend u.sentAt s
    if u.isCoord && u.state = .printed && t.now.toNat < u.instant.toNat then
      .next (takeGroup 0x22 { kind := u.kind, coord := s.uid, num := u.num, instant := u.instant } { t with tak.sys.sentAt := t.up })
    else .next s

/-- SCRAP once more, until it has gone out three times (R332). -/
def scrapAgain (x : ScrapRun) (s : State) : State :=
  takeGroup 0x23 { kind := x.kind, coord := s.uid, num := x.num, instant := x.instant, reason := x.reason } s
def scrapLeft (up : Nat) (x : ScrapRun) : Option ScrapRun := if x.left ≤ 1 then none else some { x with left := x.left - 1, sentAt := up }

/-- TAKE_SCRAP_REPEAT (R332): 256 pf after the last one. -/
def execTakeScrapRepeat (slot : TakeSlot) (s : State) : Ans :=
  match slot with
  | .user => match s.tak.userScrap with
    | some x =>
      let s := nextSend x.sentAt s
      .next (scrapAgain x { s with tak.userScrap := scrapLeft s.up x })
    | none => .next s
  | .sys => match s.tak.sysScrap with
    | some x =>
      let s := nextSend x.sentAt s
      .next (scrapAgain x { s with tak.sysScrap := scrapLeft s.up x })
    | none => .next s

/-! ### Doubt (R334) -/

/-- QUERY goes out as a group frame. -/
def querySend (kind : Nat) (coord : Uid) (num : Word) (instant : Instant) (s : State) : State :=
  takeGroup 0x21 { kind := kind, coord := coord, num := num, instant := instant, vote := 3 } s

/-- An instant, n frames later. -/
def framesAfter (t : Instant) (n : Nat) : Instant := t + BitVec.ofNat 64 (n * fr)

/-- TAKE_DOUBT_TIMER (R334): at I + 8 fr a PREPARED member is in doubt. -/
def execTakeDoubtTimer (slot : TakeSlot) (s : State) : Ans :=
  match slot with
  | .user =>
    let u := s.tak.user
    if u.state ≠ .prepared || u.isCoord || u.doubt then .next s
    else
      let s := passToInstant (framesAfter u.instant 8) s
      .next (querySend 1 u.coord u.num u.instant { s with tak.user.doubt := true, tak.user.sentAt := s.up })
  | .sys =>
    let u := s.tak.sys
    if u.state ≠ .prepared || u.isCoord || u.doubt then .next s
    else
      let s := passToInstant (framesAfter u.instant 8) s
      .next (querySend u.kind u.coord u.num u.instant { s with tak.sys.doubt := true, tak.sys.sentAt := s.up })

/-- TAKE_QUERY_REPEAT (R334): every 256 pf while in doubt. -/
def execTakeQueryRepeat (slot : TakeSlot) (s : State) : Ans :=
  match slot with
  | .user =>
    let u := s.tak.user
    let t := nextSend u.sentAt s
    if u.state = .prepared && u.doubt && t.now.toNat < (framesAfter u.instant 16).toNat then
      .next (querySend 1 u.coord u.num u.instant { t with tak.user.sentAt := t.up })
    else .next s
  | .sys =>
    let u := s.tak.sys
    let t := nextSend u.sentAt s
    if u.state = .prepared && u.doubt && t.now.toNat < (framesAfter u.instant 16).toNat then
      .next (querySend u.kind u.coord u.num u.instant { t with tak.sys.sentAt := t.up })
    else .next s

/-- A QUERY arrives (R334, R337): a node that holds the outcome answers the first one of each sender. -/
def queryIn (src : Uid) (m : TakeMsg) (s : State) : State :=
  match s.tak.outcomes.find? (fun o => o.kind = m.kind && o.coord = m.coord && o.num = m.num && decide (s.up < o.at_ + 16 * rl)) with
  | none => s
  | some o =>
    let (first, s) := firstSeen (0x21 + 256 * src.toNat) m s
    let r : TakeMsg := { kind := o.kind, reply := true, coord := o.coord, num := o.num, instant := o.instant }
    if !first then s
    else match o.scrap with
      | none => takeTo src 0x22 r s
      | some x => takeTo src 0x23 { r with reason := x } s

/-- TAKE_QUERY_RECEIVE (R334). -/
def execTakeQueryReceive (src : Uid) (m : TakeMsg) (s : State) : Ans := .next (queryIn src m s)

/-- A doubt ends with a scrap: the REASON of the reply, none when none came (R334). The REASON kept then is not stated: a free
value. -/
def doubtScrap (slot : TakeSlot) (reason : Option Nat) (s : State) : State :=
  let result := match reason with
    | some r => scrapResult r
    | none => 8
  let (n, s) := nextFree s
  let kept := reason.getD (1 + Config.value n % 4)
  let s := bump 0x9050 s
  match slot with
  | .user =>
    let u := s.tak.user
    let s := keepOutcome { kind := 1, coord := u.coord, num := u.num, instant := u.instant, scrap := some kept, at_ := s.up } s
    scrapUser result (fire 22 4 (beBytes 4 u.num.toNat) s)
  | .sys =>
    let u := s.tak.sys
    let s := keepOutcome { kind := u.kind, coord := u.coord, num := u.num, instant := u.instant, scrap := some kept, at_ := s.up } s
    scrapSys result (fire 22 4 (beBytes 4 u.num.toNat) s)

/-- A PRINT reply: the take applies at once, late (R334). -/
def doubtApply (slot : TakeSlot) (s : State) : State :=
  let s := bump 0x904C s
  match slot with
  | .user =>
    let u := s.tak.user
    applyUser 2 (keepOutcome { kind := 1, coord := u.coord, num := u.num, instant := u.instant, scrap := none, at_ := s.up } s)
  | .sys =>
    let u := s.tak.sys
    let s := keepOutcome { kind := u.kind, coord := u.coord, num := u.num, instant := u.instant, scrap := none, at_ := s.up } s
    let s := { s with tak.sys.state := .printed }
    if u.kind = 2 then applySheet true s else duskLate (word (beNat (u.content.take 4))) s

/-- A reply arrives: the first one decides a doubt (R334). -/
def replyIn (print : Bool) (m : TakeMsg) (s : State) : State :=
  let u := s.tak.user
  let y := s.tak.sys
  let act (slot : TakeSlot) : State := if print then doubtApply slot s else doubtScrap slot (some m.reason) s
  if m.kind = 1 then
    if u.state = .prepared && u.doubt && u.coord = m.coord && u.num = m.num then act .user else s
  else if y.state = .prepared && y.doubt && y.kind = m.kind && y.coord = m.coord && y.num = m.num then act .sys
  else s

/-- TAKE_REPLY_RECEIVE (R334): a PRINT or a SCRAP with REPLY set. -/
def execTakeReplyReceive (print : Bool) (m : TakeMsg) (s : State) : Ans := .next (replyIn print m s)

/-- TAKE_DOUBT_EXPIRY (R334): I + 16 fr without a reply. -/
def execTakeDoubtExpiry (slot : TakeSlot) (s : State) : Ans :=
  match slot with
  | .user =>
    let u := s.tak.user
    if u.state = .prepared && u.doubt then .next (doubtScrap .user none (passToInstant (framesAfter u.instant 16) s)) else .next s
  | .sys =>
    let u := s.tak.sys
    if u.state = .prepared && u.doubt then .next (doubtScrap .sys none (passToInstant (framesAfter u.instant 16) s)) else .next s

/-- TAKE_OUTCOME_EXPIRY (R334): an outcome is kept for 16 rl. -/
def execTakeOutcomeExpiry (kind : Fin 4) (coord : Uid) (num : Word) (s : State) : Ans :=
  let is (o : Outcome) : Bool := o.kind = kind.val && o.coord = coord && o.num = num
  match s.tak.outcomes.find? is with
  | none => .next s
  | some o =>
    let s := passTo (o.at_ + 16 * rl) s
    .next { s with tak.outcomes := s.tak.outcomes.filter (fun o => !is o) }

/-- TAKE_IDLE_EXPIRY (R322): no take request from the owner for 16 rl. -/
def execTakeIdleExpiry (s : State) : Ans :=
  if s.tak.user.state ≠ .open_ then .next s
  else .next (scrapUser 4 (bump 0x905C (passTo (s.tak.user.lastReq + 16 * rl) s)))

end Sys2Proof.Machine
end

