-- ==== Sys2Proof/Machine/Dictionary.lean ====
section
/-!
DEFINITION. Machine/Dictionary.lean: executing dictionary requests (chapter 11): the order of the checks, segments, the objects that
act, sessions and their levels, store and restore, and the commands of the dictionary.
-/
namespace Sys2Proof.Machine

/-! ### Sessions (R294 to R298) -/

/-- Requests are served in this node state (R301). -/
def served (s : State) : Bool := s.node ≠ .off && s.node ≠ .asleep

/-- The session exists: a DAM session only once a request has created it (R294). -/
def sessLive (s : State) (i : Session) : Bool := decide (i.val < 3) || (sessOf s i).used

/-- The level a session falls to: 2 for Host, 0 for the others (R298). -/
def fallenLevel (i : Session) : Nat := if i = hostSession then 2 else 0

/-- KIND of the channel descriptor (Table 11.3). -/
def channelKind (i : Session) : Nat := if i.val < 2 then 1 else if i = hostSession then 3 else 2

/-- The channel descriptor (Table 11.3). -/
def descriptor (s : State) (i : Session) : List Byte :=
  [BitVec.ofNat 8 (channelKind i), if i.val < 2 then BitVec.ofNat 8 (i.val + 1) else 0]
    ++ (if 3 ≤ i.val then beBytes 6 (sessOf s i).uid.toNat ++ beBytes 2 (sessOf s i).client else List.replicate 8 0)

/-- The key of a level, where it is set (R297). -/
def levelKey (s : State) (n : Nat) : Option (List Byte) := if n = 3 then some Config.level3Key else tfind s.od.keys n

/-- Level raising is locked for the session (R296). -/
def levelLocked (s : State) (i : Session) : Bool :=
  let runs : Option Nat → Bool := fun t => (t.map (fun u => decide (s.up < u))).getD false
  runs (sessOf s i).lockUntil || (i ≠ hostSession && runs s.od.nodeLock)

/-- A lock is counted and reported (R296). -/
def lockReport (code kind : Nat) (s : State) : State :=
  fire 19 5 [BitVec.ofNat 8 code, BitVec.ofNat 8 kind] (raiseIrq 18 (bumpOd 4 s))

/-- A response is refused (R296): counted; the third in a row locks the session, the sixteenth within 1 rl the node. -/
def authRefused (i : Session) (s : State) : State :=
  let s := bumpOd 3 s
  let n := (sessOf s i).refusals + 1
  let s := setSess i { sessOf s i with refusals := n % 3, lockUntil := if n = 3 then some (s.up + 16 * rl) else (sessOf s i).lockUntil } s
  let s := if n = 3 then lockReport (ownerCode i) 1 s else s
  let recent := s.up :: s.od.refusals.filter (fun t => decide (s.up < t + rl))
  if recent.length < 16 then { s with od.refusals := recent }
  else lockReport 0 2 { s with od.refusals := [], od.nodeLock := some (s.up + 16 * rl) }

/-- A response is written to 0x2002.03 (R295, R296). -/
def respond (i : Session) (d : List Byte) (s : State) : Word × State :=
  let x := sessOf s i
  if levelLocked s i then (aAuthLocked, s)
  else
    let good := match x.challenge, levelKey s x.want with
      | some (c, t), some k =>
        decide (1 ≤ x.want) && decide (s.up ≤ t + rl)
          && d == (hmac k (c ++ beBytes 6 s.uid.toNat ++ beBytes 1 x.want ++ descriptor s i)).take 16
      | _, _ => false
    let s := setSess i { x with challenge := none } s
    if good then (0, setSess i { sessOf s i with level := x.want, refusals := 0 } s) else (aAuthFailed, authRefused i s)

/-- A level is written to 0x2002.02 (R295, R297, R298). -/
def requestLevel (i : Session) (n : Nat) (s : State) : Word × State :=
  if n = 0 then (0, setSess i { sessOf s i with level := fallenLevel i, want := 0 } s)
  else if (levelKey s n).isNone then (aKeyUnset, s)
  else (0, setSess i { sessOf s i with want := n } s)

/-- n bytes of the random source. -/
def randomBytes : Nat → State → List Byte × State
  | 0, s => ([], s)
  | n + 1, s =>
    let (k, s) := nextFree s
    let (l, s) := randomBytes n s
    (Config.randomByte k :: l, s)

/-- A read of 0x2002.01 from its first byte makes a new challenge (R296). -/
def newChallenge (i : Session) (s : State) : State :=
  let (c, s) := randomBytes 16 s
  setSess i { sessOf s i with challenge := some (c, s.up) } s

/-- What a session holds once it is lost: nothing; of SDO 1, SDO 2 and Host, which stay, the refusals and the lock go on, and a scrap of
their take is still to be told (R294, R296, R322). -/
def lostSession (i : Session) (x : Sess) : Sess :=
  if i.val < 3 then { level := fallenLevel i, refusals := x.refusals, lockUntil := x.lockUntil, scrapUntold := x.scrapUntold } else {}

/-- A session is lost: its OPEN take is scrapped with a LAST_RESULT, what it holds and what waits for it is gone (R294, R322). -/
def dropSession (i : Session) (s : State) : State :=
  let s := if s.tak.user.state = .open_ && s.tak.user.owner = ownerCode i then scrapUser 5 s else s
  -- what is PRINTED or has applied stands, and no later session with this number owns it
  let code := ownerCode i
  let s := if i.val < 3 then s
    else { s with tak.user.owner := if s.tak.user.owner = code then 0 else s.tak.user.owner,
                  tak.user.appliedOwner := if s.tak.user.appliedOwner = code then 0 else s.tak.user.appliedOwner }
  setSess i (lostSession i (sessOf s i))
    { s with od.queue := s.od.queue.filter (fun e => e.1 ≠ i.val), od.repeats := s.od.repeats.filter (fun e => e.1 ≠ i.val),
             od.unanswered := s.od.unanswered.filter (fun p => p.sess ≠ i), od.storing := storingFor i s }

/-! ### Reading (R311) -/

/-- An SDO transfer of a port. -/
def setSdo (c : Nat) (x : Option Sdo) (s : State) : State :=
  { s with od.sdo := match x with
    | some v => tset s.od.sdo c v
    | none => tdel s.od.sdo c }

/-- The deadline of the next segment (R306). -/
def sdoDeadline (s : State) : Nat := s.up + cfg s 0x200A 0 * fr

/-- The answer to a read: bytes from an offset of a whole value. -/
def readRsp (q : Req) (whole : List Byte) : Rsp :=
  let d := (whole.drop q.offset).take q.total
  { op := .read, reqId := q.reqId, index := q.index, sub := q.sub, more := decide (q.offset + d.length < whole.length), offset := q.offset,
    data := d, objLen := whole.length }

/-- The most bytes a READ may ask for on its channel (R310, R504); an SDO server's answers are cut by its frames. -/
def readLimit (i : Session) : Option Nat := if i = hostSession then some 1024 else if 3 ≤ i.val then some 996 else none

/-- TOTAL_LEN of a READ is allowed (R310, R504). -/
def readTotalOk (i : Session) (q : Req) : Bool :=
  match readLimit i with
  | some n => decide (1 ≤ q.total ∧ q.total ≤ n)
  | none => true

/-- A value is read by an SDO client: whole where an expedited answer carries it, else as a segmented upload (R305). -/
def sdoRead (i : Session) (q : Req) (whole : List Byte) (s : State) : State :=
  if whole.length ≤ q.total then finish i .read q (readRsp q whole) s
  else
    let s := setSdo i.val (some { download := false, index := q.index, sub := q.sub, data := whole, deadline := sdoDeadline s,
                                   usdo := s.od.sdoFd.getLsbD i.val }) s
    finish i .read q { readRsp q [] with more := true, objLen := whole.length } s

/-- A byte string is read from its start: a snapshot is kept while bytes remain (R311). -/
def readFirst (i : Session) (q : Req) (s : State) : State :=
  let s := if q.index = 0x2002 && q.sub = 1 then newChallenge i s else s
  let whole := objBytes s i q.index q.sub
  if i.val < 2 then sdoRead i q whole s
  else
    let r := readRsp q whole
    let k := key q.index q.sub
    finish i .read q r (setSess i { sessOf s i with snap := if r.more then some { key := k, data := whole, lastRead := s.up } else none } s)

/-- A later segment is read from the snapshot (R311). -/
def readLater (i : Session) (q : Req) (s : State) : State :=
  match (sessOf s i).snap with
  | some x =>
    if x.key = key q.index q.sub && s.up < x.lastRead + 16 * fr then
      let r := readRsp q x.data
      finish i .read q r (setSess i { sessOf s i with snap := if r.more then some { x with lastRead := s.up } else none } s)
    else finish i .read q (codeRsp .read q aNoData 0) s
  | none => finish i .read q (codeRsp .read q aNoData 0) s

/-- A scalar: an object of scalar type, or the count of an array. -/
def readsScalar (idx sub : Nat) : Bool := ((objRow idx sub).map (fun r => r.ty.isScalar)).getD true

/-- The refusal of a read, 0 for none (R310, Table 11.4, R311). -/
def readCode (i : Session) (q : Req) : Word :=
  if !readTotalOk i q then aLength
  else if existCode q.index q.sub ≠ 0 then existCode q.index q.sub
  else if readRight q.index q.sub ≠ 0 then readRight q.index q.sub
  else if readsScalar q.index q.sub && (q.offset ≠ 0 || (2 ≤ i.val
      && q.total < (((objRow q.index q.sub).map (fun r => r.ty.size)).getD 1))) then aLength
  else 0

/-- A READ executes (R299, R311). -/
def doRead (i : Session) (q : Req) (s : State) : State :=
  let c := readCode i q
  if c ≠ 0 then finish i .read q (codeRsp .read q c 0) s
  else if q.offset = 0 then readFirst i q s
  else readLater i q s

/-! ### Store and restore (R302, R303) -/

/-- A key belongs to the group of a sub-index of 0x1010 or 0x1011 (R302). -/
def inGroup (sub k : Nat) : Bool :=
  match sub with
  | 1 => true
  | 2 => decide (k / 256 < 0x2000)
  | _ => decide (0x2000 ≤ k / 256 ∧ k / 256 < 0x3000)

/-- An object is stored: RW, and not one that is saved for the next reset (R303). -/
def storable (k : Nat) : Bool :=
  decide (k / 256 < 0x10000) && ((keyRow k).map (fun r => decide (r.acc = .rw ∧ r.take ≠ .nextReset))).getD false

/-- The applied values of the stored objects of a group that differ from their defaults (R303). -/
def groupValues (s : State) (sub : Nat) : Tab Val :=
  let own : Tab Val := [(key 0x2407 0, .num (if s.ina.inhibit then 1 else 0)), (key 0x2901 0, .num (if s.wak.sleepAllow then 1 else 0)),
    (key 0x2B20 0, .num s.tln.outCmd.toNat)]
  (own.filter (fun e => inGroup sub e.1)).foldl (fun t e => tset t e.1 e.2) (s.od.applied.filter (fun e => inGroup sub e.1 && storable e.1))

/-- A store starts (R303, R304): the values of its group now, into the copy that is not current, whose valid mark is gone with its
old pages. -/
def storeStart (i : Session) (q : Req) (s : State) : State :=
  if s.pwr.sag then finish i .write q (codeRsp .write q aDeviceState 0) s
  else setCopy (currentIsA s) (fun c => { c with mark := false })
    { s with od.storing := some { sess := i, req := q, values := groupValues s q.sub } }

/-- Each object is stored with its value at the moment it is written (R317): the one at the start or the one at the end, as a
free value decides. -/
def storedValues (n : Nat) (old now : Tab Val) : Tab Val :=
  let pick (k : Nat) : Bool := Config.value (n + k) % 2 = 0
  (old.filter (fun e => pick e.1)) |> fun kept =>
    (now.filter (fun e => !pick e.1)).foldl (fun t e => tset t e.1 e.2) kept

/-- A copy of values with a store count, its check and its valid mark. -/
def validCopy (n : Nat) (t : Tab Val) : StoredCopy := { values := t, check := copyCheck n t, mark := true, count := n }

/-- The store ends (R303): the copy is complete with the store count, its check and then its mark, the other groups as the current copy
holds them; or it has failed, without a mark. -/
def storeEnd (ok : Bool) (s : State) : State :=
  match s.od.storing with
  | none => s
  | some x =>
    let (n, s) := nextFree { s with od.storing := none }
    let other := (storedNow s).filter (fun e => !inGroup x.req.sub e.1)
    let values := (storedValues n x.values (groupValues s x.req.sub)).foldl (fun t e => tset t e.1 e.2) other
    if ok then storeAnswer x (codeRsp .write x.req 0 4) (setCopy (currentIsA s) (fun _ => validCopy (storeCount s + 1) values) s)
    else storeAnswer x (codeRsp .write x.req aNotStored 0) s

/-- A copy without the values of a group; one that was good stays so. -/
def voidGroup (sub : Nat) (c : StoredCopy) : StoredCopy :=
  if copyGood c then validCopy c.count (c.values.filter (fun e => !inGroup sub e.1)) else c

/-- A restore of defaults (R289, R302): the stored values of the group are void, and the saved ones of its RW objects. -/
def restoreDefaults (sub : Nat) (s : State) : State :=
  let rw (k : Nat) : Bool := ((keyRow k).map (fun r => decide (r.acc = .rw))).getD false
  { s with od.copyA := voidGroup sub s.od.copyA, od.copyB := voidGroup sub s.od.copyB,
           od.saved := s.od.saved.filter (fun e => !(inGroup sub e.1 && rw e.1)) }

/-! ### The objects that act (R289) -/

/-- A firmware image is in the inactive slot (R417, R436). -/
def imageWrite (x : SlotImage) (s : State) : State := if s.pwr.sag then { s with cpu.imageWait := some x } else imageDone x s

/-- What the verification of an image written by a plain WRITE finds is not an operand there: a free value, the signing key one of the
fused ones or none of them. -/
def imageFree (image : List Byte) (s : State) : State :=
  let (n, s) := nextFree s
  let (m, s) := nextFree s
  let (k, s) := nextFree s
  imageWrite { image := image, check := { signatureOk := Config.value n % 2 = 0, key := s.cpu.keyDigests.getD (Config.value k % 4) [],
                                          version := Fin.ofNat 64 (Config.value m) } } s

/-- Each bit that is set in a mask acts, lowest first. -/
def eachBit (n mask : Nat) (f : Nat → State → State) (s : State) : State :=
  (List.range n).foldl (fun s k => if mask.testBit k then f k s else s) s

/-- A clear through 0x2A20 (R386). -/
def clearObject (i : Session) (c : Nat) (s : State) : Word × State :=
  if !clearAllowed s then (aDeviceState, s) else (0, clearStart c (channelKind i) s)

/-- The cursor of a session moves as SEEK does (R385). -/
def cursorObject (i : Session) (n : Nat) (s : State) : State :=
  let q := word n
  setSess i { sessOf s i with cursor := some (((entryFrom s q).map seqOf).getD q) } s

/-- What a write of a WO object, or of a Take "No" object that is more than a value, does: the code of the answer, and the
state (R289). -/
def objAction (i : Session) (idx sub : Nat) (d : List Byte) (s : State) : Word × State :=
  let n := beNat d
  if idx = 0x1011 then (if n = 0x64616F6C then (0, restoreDefaults sub s) else (aNotStored, s))
  else if idx = 0x2002 then (if sub = 2 then requestLevel i n s else respond i d s)
  else if idx = 0x2003 then (0, { s with od.keys := tset s.od.keys sub d })
  else if idx = 0x2407 then (0, setInhibit (n ≠ 0) s)
  else if idx = 0x240D then inaRestart s
  else if idx = 0x2509 then (0, verifyRestart (sub - 1) s)
  else if idx = 0x27C2 then (0, fenceMask n s)
  else if idx = 0x27C3 then (0, eachBit 16 n stmForce s)
  else if idx = 0x27C4 then (0, eachBit 64 n winForce s)
  else if idx = 0x27C5 then (0, pwfPop s)
  else if idx = 0x27C8 then (0, abortWindow n s)
  else if idx = 0x2901 then (0, { s with wak.sleepAllow := n ≠ 0 })
  else if idx = 0x2923 then (0, stayAwake s)
  else if idx = 0x2A10 then (0, softTrigger (d.headD 0).toNat (d.getD 1 0).toNat (d.drop 2) s)
  else if idx = 0x2A20 then clearObject i n s
  else if idx = 0x2A21 then (0, cursorObject i n s)
  else if idx = 0x2B20 then (0, setOutCmd (BitVec.ofNat 8 n) s)
  else if idx = 0x2C20 then (0, imageFree d s)
  else if idx = 0x2C21 then (0, { s with cpu.nextSlot := some (!s.cpu.activeSlot) })
  else if idx = 0x2C31 then (0, setMs (sub - 1) { msSt s (sub - 1) with cak := d } s)
  else (0, s)

/-- The objects that objAction serves. -/
def actsItself (idx : Nat) : Bool :=
  [0x1011, 0x2002, 0x2003, 0x2407, 0x240D, 0x2509, 0x27C2, 0x27C3, 0x27C4, 0x27C5, 0x27C8, 0x2901, 0x2923, 0x2A10, 0x2A20, 0x2A21, 0x2B20,
   0x2C20, 0x2C21, 0x2C31].contains idx

/-! ### Writing (R290, R299, R311) -/

/-- The one write that FAULT and EXIT allow: 1 to an exit request or a node reset, at level 2 (R301). -/
def exitWrite (q : Req) : Bool := (q.index = 0x2140 || q.index = 0x2141) && q.sub = 0 && q.data == [1]

/-- Checks 1 to 5 on a segment of a write; bytes that raise the level stand at the start of a value (Table 14.8). -/
def accessCode (i : Session) (q : Req) (s : State) : Word :=
  if existCode q.index q.sub ≠ 0 then existCode q.index q.sub
  else if writeRight q.index q.sub ≠ 0 then writeRight q.index q.sub
  else if (sessOf s i).level < levelNeeded q.index q.sub (if q.offset = 0 then q.data else []) then aLevelTooLow
  else if exitWrite q then 0
  else writeState s q.index q.sub

/-- Check 6 on a segment: a refusal, a value still incomplete, or the whole value (R311). -/
inductive Segment
  | bad (code : Word)
  | more (p : Partial)
  | whole (d : List Byte)

def segment (i : Session) (q : Req) (r : Obj) (s : State) : Segment :=
  let k := key q.index q.sub
  match (sessOf s i).partialV with
  | some p =>
    if p.key ≠ k || q.offset ≠ p.data.length || q.total ≠ p.total || p.total < p.data.length + q.data.length then .bad aSegmentOrder
    else if p.data.length + q.data.length = p.total then .whole (p.data ++ q.data)
    else .more { p with data := p.data ++ q.data }
  | none =>
    if r.ty.isScalar then (if q.offset ≠ 0 || q.data.length ≠ r.ty.size then .bad aLength else .whole q.data)
    else if q.offset ≠ 0 then .bad aSegmentOrder
    else if !lengthOk k r q.total || q.total < q.data.length then .bad aLength
    else if q.data.length = q.total then .whole q.data
    else .more { key := k, total := q.total, data := q.data }

/-- The session's take was scrapped without its asking and it is told now (R322). -/
def tellScrap (i : Session) (s : State) : Bool × State :=
  let x := sessOf s i
  if x.scrapUntold then (true, setSess i { x with scrapUntold := false } s) else (false, s)

/-- The session owns the OPEN take. -/
def ownsOpen (i : Session) (s : State) : Bool := s.tak.user.state = .open_ && s.tak.user.owner = ownerCode i

/-- A SLATE, write or PRINT of the owner of the OPEN take keeps it alive, whatever comes of it (R322, log 101). -/
def renewTake (i : Session) (s : State) : State := if ownsOpen i s then { s with tak.user.lastReq := s.up } else s

/-- A take may enter the user slot (R290, R319). -/
def slotFree (s : State) : Bool :=
  (s.tak.user.state = .idle || s.tak.user.state = .scrapped) && s.tak.sys.state ≠ .open_ && s.tak.sys.state ≠ .prepared

/-- A local take is slated for a session (R319). -/
def slateFor (i : Session) (s : State) : State :=
  { s with tak.num := s.tak.num + 1,
           tak.user := { state := .open_, kind := 1, owner := ownerCode i, num := s.tak.num + 1, coord := s.uid, lastReq := s.up } }

/-- A value is staged in the OPEN take within the limits of R320; train-wide content keeps the level it is staged at (R298). -/
def stageIn (level k : Nat) (v : Val) (s : State) : Option State :=
  let t := tset s.tak.user.staged k v
  if !withinLimits t then none
  else some { s with tak.user.staged := t, tak.user.lastReq := s.up, tak.user.level := if k = key 0x2F10 0 then level else s.tak.user.level }

/-- A write of a Take "Yes" object that has passed checks 1 to 8 (R290, R322, R329). -/
def takeWrite (i : Session) (q : Req) (k : Nat) (v : Val) (len : Nat) (s : State) : State :=
  let no (c : Word) (s : State) : State := finish i .write q (codeRsp .write q c 0) s
  let (untold, s) := tellScrap i s
  if untold then no aTakeScrapped s
  else if ownsOpen i s then
    match stageIn (sessOf s i).level k v s with
    | some s => finish i .write q (codeRsp .write q 0 len) s
    | none => no aTakeFull s
  else if k = key 0x2F10 0 then no aTakeNotOpen s
  else if !slotFree s then no aTakeOwned s
  else match firstBroken [(k, v)] s with
    | some (_, c) => no c s
    | none =>
      let s := slateFor i s
      { s with tak.user := { s.tak.user with state := .printed, instant := nextFrame s.now, staged := [(k, v)] },
               od.unanswered := s.od.unanswered ++ [{ sess := i, op := .write, req := q, len := len }] }

/-- The state against which a write of a Take "No" object is checked: the staged values of a PRINTED take count (R328). -/
def relationState (s : State) : State := if s.tak.user.state = .printed then applyVals s.tak.user.staged s else s

/-- A write of an object that no take governs, that has passed checks 1 to 8 (R289, R328). -/
def plainWrite (i : Session) (q : Req) (r : Obj) (k : Nat) (d : List Byte) (s : State) : State :=
  let v := valOfBytes r d
  let c := relationCode k (applyVals [(k, v)] (relationState s))
  let ok (s : State) : State := finish i .write q (codeRsp .write q 0 d.length) s
  let idx := q.index
  if c ≠ 0 then finish i .write q (codeRsp .write q c 0) s
  else if idx = 0x1010 then
    (if valNum v = 0x65766173 then storeStart i q s else finish i .write q (codeRsp .write q aNotStored 0) s)
  -- answered before it acts: the channel may go with it
  else if idx = 0x2140 then warn 3 (ok s)
  else if idx = 0x2141 then askReset .dictionary (ok s)
  else if actsItself idx then
    let (c, s) := objAction i idx q.sub d s
    finish i .write q (codeRsp .write q c d.length) s
  else if r.take = .nextReset then ok { s with od.saved := tset s.od.saved k v }
  else ok (applyVals [(k, v)] s)

/-- A whole value is written: checks 7 to 10 and the write (Table 11.4), after check 4 on what only the whole value shows, a severity or
a ceiling of 7. -/
def writeWhole (i : Session) (q : Req) (r : Obj) (d : List Byte) (s : State) : State :=
  let k := key q.index q.sub
  let c := if (sessOf s i).level < levelNeeded q.index q.sub d then aLevelTooLow else wholeCode k r d
  if c ≠ 0 then finish i .write q (codeRsp .write q c 0) s
  else if r.take = .yes then takeWrite i q k (valOfBytes r d) d.length s
  else plainWrite i q r k d s

/-- A WRITE executes (R299, R311). -/
def doWrite (i : Session) (q : Req) (s : State) : State :=
  let drop (s : State) : State := setSess i { sessOf s i with partialV := none } s
  let s := renewTake i s
  let c := accessCode i q s
  if c ≠ 0 then finish i .write q (codeRsp .write q c 0) (drop s)
  else match objRow q.index q.sub with
  | none => finish i .write q (codeRsp .write q aReadOnly 0) (drop s)
  | some r => match segment i q r s with
    | .bad c => finish i .write q (codeRsp .write q c 0) (drop s)
    | .more p => finish i .write q (codeRsp .write q 0 0) (setSess i { sessOf s i with partialV := some p } s)
    | .whole d => writeWhole i q r d (drop s)

/-! ### SLATE, PRINT, SCRAP, CLOSE (R310, R319, R323, R326) -/

/-- SLATE executes (R301, R319). -/
def doSlate (i : Session) (q : Req) (s : State) : State :=
  let no (c : Word) (s : State) : State := finish i .slate q (codeRsp .slate q c 0) s
  let s := renewTake i s
  if (sessOf s i).level < 1 then no aLevelTooLow s
  else if s.node = .fault || s.node = .exit then no aDeviceState s
  else
    let (untold, s) := tellScrap i s
    if untold then no aTakeScrapped s
    else if !slotFree s then no aTakeOwned s
    else finish i .slate q (codeRsp .slate q 0 0) (slateFor i s)

/-- The apply instant that a PRINT carries: none, 8 bytes, or a wrong length. -/
def printInstant (q : Req) : Option (Option Nat) :=
  if q.data.isEmpty then some none else if q.data.length = 8 then some (some (beNat q.data)) else none

/-- The answer of a PRINT waits (R330). -/
def waitAnswer (i : Session) (q : Req) (s : State) : State :=
  { s with od.unanswered := s.od.unanswered ++ [{ sess := i, op := .print, req := q }] }

/-- PRINT executes (R323, R324, R330). -/
def doPrint (i : Session) (q : Req) (s : State) : State :=
  let no (c : Word) (s : State) : State := finish i .print q (codeRsp .print q c 0) s
  let s := renewTake i s
  match printInstant q with
  | none => no aLength s
  | some inst =>
    let (untold, s) := tellScrap i s
    if untold then no aTakeScrapped s
    else if !ownsOpen i s then no aTakeNotOpen s
    else
      -- the answer waits while the PRINT goes on; a train-wide take may end within it (R330)
      match printOpen inst (waitAnswer i q s) with
      | .refused c x y s =>
        finish i .print q { codeRsp .print q c 0 with index := x, sub := y } { s with od.unanswered := [] }
      | .done s => answerWaiting 0 s
      | .waits s => s

/-- SCRAP executes (R322, R326, R332). -/
def doScrap (i : Session) (q : Req) (s : State) : State :=
  let ans (c : Word) (s : State) : State := finish i .scrap q (codeRsp .scrap q c 0) s
  let (untold, s) := tellScrap i s
  let u := s.tak.user
  if untold then ans aTakeScrapped s
  else if u.state = .idle && u.appliedOwner = ownerCode i then ans aTooLate s
  else if u.owner ≠ ownerCode i then ans aTakeNotOpen s
  else match u.state with
    | .open_ => ans 0 (scrapUser 3 s)
    | .prepared => ans 0 (coordScrap 4 3 s)
    | .printed => if u.isCoord || u.instant.toNat ≤ s.now.toNat then ans aTooLate s else ans 0 (scrapUser 3 s)
    | _ => ans aTakeNotOpen s

/-- CLOSE executes (Table 11.8): the answer goes out, then the session's level, take and DAM session are gone. -/
def doClose (i : Session) (q : Req) (s : State) : State :=
  dropSession i (finish i .close q (codeRsp .close q 0 0) s)

/-! ### The queue (R299) -/

/-- A request executes (R299); it counts 0x2010.01. -/
def execute (i : Session) (op : DictOp) (q : Req) (s : State) : State :=
  let s := bumpOd 1 (setSess i { sessOf s i with lastReq := s.up } s)
  match op with
  | .read => doRead i q s
  | .write => doWrite i q s
  | .slate => doSlate i q s
  | .print => doPrint i q s
  | .scrap => doScrap i q s
  | .close => doClose i q s

/-- An entry of the queue executes. -/
def executeEntry (e : Nat × DictOp × Req) (s : State) : State := if h : e.1 < 19 then execute ⟨e.1, h⟩ e.2.1 e.2.2 s else s

/-- A request joins the queue (R299, R312): a repeat of one that waits or executes is only noted, a ninth is refused. -/
def enqueueReq (i : Session) (op : DictOp) (q : Req) (s : State) : State :=
  let e := (i.val, op, q)
  let s := setSess i { sessOf s i with lastReq := s.up } s
  let executing := s.od.unanswered.any (fun p => sameRequest e (p.sess.val, p.op, p.req))
    || (s.od.storing.map (fun x => !x.gone && sameRequest e (x.sess.val, .write, x.req))).getD false
  if decide (3 ≤ i.val) && (s.od.queue.any (sameRequest e) || executing) then { s with od.repeats := s.od.repeats ++ [e] }
  else if 8 ≤ (s.od.queue.filter (fun x => x.1 = i.val)).length then finish i op q (codeRsp op q aSessionBusy 0) s
  else { s with od.queue := s.od.queue ++ [e] }

/-- A waiting request is the one that a command names by its session, operation and fields. -/
def namedBy (e x : Nat × DictOp × Req) : Bool := sameRequest e (x.1, x.2.1, { x.2.2 with raw := e.2.2.raw })

/-- The queue executes in order, up to an entry; a store holds what follows it. -/
def runQueue : Nat → Nat × DictOp × Req → State → State
  | 0, _, s => s
  | n + 1, e, s =>
    match s.od.queue with
    | [] => s
    | x :: r =>
      let s := executeEntry x { s with od.queue := r }
      if namedBy e x || s.od.storing.isSome then s else runQueue n e s

/-- A request of a session is served in its turn: it joins the queue unless it waits there, and the queue executes up to it
(R299, R301). -/
def serve (i : Session) (op : DictOp) (q : Req) (s : State) : State :=
  let e := (i.val, op, q)
  if !served s || !sessLive s i then s
  else
    let s := if s.od.queue.any (namedBy e) then s else enqueueReq i op q s
    if s.od.storing.isSome || !s.od.queue.any (namedBy e) then s else runQueue s.od.queue.length e s

/-! ### Meanings: requests -/

/-- READ (R299, R311). -/
def execRead (i : Session) (q : Req) (s : State) : Ans := .next (serve i .read q s)

/-- WRITE (R290, R299, R311). -/
def execWrite (i : Session) (q : Req) (s : State) : Ans := .next (serve i .write q s)

/-- SLATE (R319). -/
def execSlate (i : Session) (reqId : Word) (s : State) : Ans := .next (serve i .slate { reqId := reqId.toNat } s)

/-- PRINT (R323, R324, R330), for the next frame boundary or for an instant. -/
def execPrint (i : Session) (reqId : Word) (instant : Option Instant) (s : State) : Ans :=
  .next (serve i .print { reqId := reqId.toNat, data := match instant with
    | some t => beBytes 8 t.toNat
    | none => [] } s)

/-- SCRAP (R322, R326). -/
def execScrap (i : Session) (reqId : Word) (s : State) : Ans := .next (serve i .scrap { reqId := reqId.toNat } s)

/-- CLOSE (R310). -/
def execClose (i : Session) (reqId : Word) (s : State) : Ans := .next (serve i .close { reqId := reqId.toNat } s)

/-- A WRITE of one whole value. -/
def writeReq (reqId : Word) (idx sub : Nat) (d : List Byte) : Req :=
  { reqId := reqId.toNat, index := idx, sub := sub, total := d.length, data := d }

/-- CHALLENGE_READ (R296): a READ of 0x2002.01. -/
def execChallengeRead (i : Session) (reqId : Word) (s : State) : Ans :=
  .next (serve i .read { reqId := reqId.toNat, index := 0x2002, sub := 1, total := 16 } s)

/-- LEVEL_REQUEST (R295, R298): a WRITE of 0x2002.02. -/
def execLevelRequest (i : Session) (reqId : Word) (level : Byte) (s : State) : Ans := .next (serve i .write (writeReq reqId 0x2002 2 [level]) s)

/-- RESPONSE_WRITE (R295, R296): a WRITE of 0x2002.03. -/
def execResponseWrite (i : Session) (reqId : Word) (response : BitVec 128) (s : State) : Ans :=
  .next (serve i .write (writeReq reqId 0x2002 3 (beBytes 16 response.toNat)) s)

/-- KEY_WRITE (R297): a WRITE of 0x2003.01 or .02. -/
def execKeyWrite (i : Session) (reqId : Word) (maintainer : Bool) (k : BitVec 256) (s : State) : Ans :=
  .next (serve i .write (writeReq reqId 0x2003 (if maintainer then 2 else 1) (beBytes 32 k.toNat)) s)

/-- STORE_PARAMETERS (R303): a WRITE of 0x1010. -/
def execStoreParameters (i : Session) (reqId : Word) (sub : Byte) (signature : Word) (s : State) : Ans :=
  .next (serve i .write (writeReq reqId 0x1010 sub.toNat (beBytes 4 signature.toNat)) s)

/-- STORE_DONE (R303): the copy is written, or the store has failed. -/
def execStoreDone (ok : Bool) (s : State) : Ans := .next (storeEnd ok s)

/-- RESTORE_DEFAULTS (R302): a WRITE of 0x1011. -/
def execRestoreDefaults (i : Session) (reqId : Word) (sub : Byte) (signature : Word) (s : State) : Ans :=
  .next (serve i .write (writeReq reqId 0x1011 sub.toNat (beBytes 4 signature.toNat)) s)

/-- EXIT_REQUEST_OBJECT (R301, R458): a WRITE of 1 to 0x2140. -/
def execExitRequestObject (i : Session) (reqId : Word) (s : State) : Ans := .next (serve i .write (writeReq reqId 0x2140 0 [1]) s)

/-- NODE_RESET_OBJECT (R301, R459): a WRITE of 1 to 0x2141. -/
def execNodeResetObject (i : Session) (reqId : Word) (s : State) : Ans := .next (serve i .write (writeReq reqId 0x2141 0 [1]) s)

/-- SLOT_ACTIVATE (R417): a WRITE of 1 to 0x2C21. -/
def execSlotActivate (i : Session) (reqId : Word) (s : State) : Ans := .next (serve i .write (writeReq reqId 0x2C21 0 [1]) s)

/-- APP_KEY_ENROL (R418): a WRITE of 0x2C10. -/
def execAppKeyEnrol (i : Session) (reqId : Word) (k : List Byte) (s : State) : Ans := .next (serve i .write (writeReq reqId 0x2C10 0 k) s)

/-- CAK_WRITE (R423): a WRITE of 0x2C31 for backbone port p. -/
def execCakWrite (i : Session) (reqId : Word) (p : Fin 4) (k : List Byte) (s : State) : Ans :=
  .next (serve i .write (writeReq reqId 0x2C31 (p.val + 1) k) s)

/-- FIRMWARE_IMAGE_WRITE (R416, R417, R436): a whole image written to 0x2C20, and what its verification in the inactive slot
finds. -/
def execFirmwareImageWrite (i : Session) (reqId : Word) (image : List Byte) (check : ImageCheck) (s : State) : Ans :=
  let q := writeReq reqId 0x2C20 0 image
  let level := (sessOf s i).level
  let done := serve i .write q s
  .next (if served s && sessLive s i && s.od.storing.isNone && 2 ≤ level && image.length ≤ 67108864 && (sessOf s i).partialV.isNone
      && writeState s 0x2C20 0 = 0 then
    imageWrite { image := image, check := check } done
  else done)

/-- A command that comes as a register write or as a WRITE of a session (R408): the register's effect from the host, a denied
access from a core. -/
def regOrObject (via : Via) (reg : State → State) (q : Word → Req) (s : State) : State :=
  match via with
  | .reg .host => if reaches s .host then reg s else s
  | .reg .core => if reaches s .core then coreDenied s else s
  | .obj i reqId => serve i .write (q (word reqId)) s

/-- INA_RESTART (R503): INA_CTRL.RESTART or 0x240D. -/
def execInaRestart (via : Via) (s : State) : Ans :=
  .next (regOrObject via (fun s => (inaRestart s).2) (fun n => writeReq n 0x240D 0 [1]) s)

/-- OUT_CMD_WRITE (R399): OUT_CMD or 0x2B20. -/
def execOutCmdWrite (via : Via) (v : Byte) (s : State) : Ans :=
  .next (regOrObject via (setOutCmd v) (fun n => writeReq n 0x2B20 0 [v]) s)

/-- RECORDER_CLEAR (R386): REC_CLEAR or 0x2A20. -/
def execRecorderClear (via : Via) (c : Fin 8) (s : State) : Ans :=
  .next (regOrObject via (clearByRegister c.val) (fun n => writeReq n 0x2A20 0 [BitVec.ofNat 8 c.val]) s)

/-- REC_TRIG_WRITE (R366, R408): REC_TRIG, which takes its EVENT_DATA from the data registers and which a core may write too, or
0x2A10, which carries the data. -/
def execRecTrigWrite (via : Via) (source : BitVec 6) (sev : Fin 8) (data : BitVec 64) (s : State) : Ans :=
  match via with
  | .reg who => .next (if reaches s who then trigBy who source.toNat sev.val s else s)
  | .obj i reqId =>
    .next (serve i .write (writeReq (word reqId) 0x2A10 0 ([source.setWidth 8, BitVec.ofNat 8 sev.val] ++ beBytes 8 data.toNat)) s)

/-! ### Meanings: timers of sessions -/

/-- SESSION_IDLE_EXPIRY (R298): no request of the session for the session idle time. -/
def execSessionIdleExpiry (i : Session) (s : State) : Ans :=
  if !sessLive s i || (sessOf s i).level = fallenLevel i then .next s
  else
    let s := passTo ((sessOf s i).lastReq + cfg s 0x2005 0 * rl) s
    .next (setSess i { sessOf s i with level := fallenLevel i } s)

/-- AUTH_LOCK_EXPIRY (R296): the lock of a session ends, or that of the node. -/
def execAuthLockExpiry (i : Option Session) (s : State) : Ans :=
  match i with
  | none => match s.od.nodeLock with
    | some t => .next { passTo t s with od.nodeLock := none }
    | none => .next s
  | some i => match (sessOf s i).lockUntil with
    | some t => let s := passTo t s; .next (setSess i { sessOf s i with lockUntil := none } s)
    | none => .next s

/-- SNAPSHOT_EXPIRY (R311). -/
def execSnapshotExpiry (i : Session) (s : State) : Ans :=
  match (sessOf s i).snap with
  | none => .next s
  | some x => let s := passTo (x.lastRead + 16 * fr) s; .next (setSess i { sessOf s i with snap := none } s)

/-- REQ_ID_EXPIRY (R312): 16 fr after its response a request is forgotten. -/
def execReqIdExpiry (i : Session) (reqId : Word) (s : State) : Ans :=
  match (sessOf s i).remembered.find? (fun r => r.req.reqId = reqId.toNat) with
  | none => .next s
  | some r =>
    let s := passTo (r.at_ + 16 * fr) s
    let keep (x : Remembered) : Bool := !(x.req.reqId = reqId.toNat && decide (x.at_ ≤ r.at_))
    .next (setSess i { sessOf s i with remembered := (sessOf s i).remembered.filter keep } s)

/-! ### CANopen (R305 to R307) -/

/-- The session of CAN port c. -/
def sdoSession (c : Fin 2) : Session := ⟨c.val, by omega⟩

/-- The SDO server of CAN port c runs: a node-ID, a served state, the port on the bus (R305). -/
def sdoRuns (s : State) (c : Nat) : Bool := served s && cfg s 0x2009 (c + 1) ≠ 0 && decide ((canSt s c).state < 2)

/-- An abort of a transfer goes to the client; it counts as a refusal (R306, R314). -/
def sdoAbort (c : Fin 2) (idx sub : Nat) (code : Word) (s : State) : State :=
  answer (sdoSession c) none { op := .write, index := idx, sub := sub, abort := code } (setSdo c.val none s)

/-- A confirmation of the transfer protocol. -/
def sdoConfirm (c : Nat) (op : DictOp) (x : Sdo) (d : List Byte) (more : Bool) (s : State) : State :=
  sdoSend c { op := op, index := x.index, sub := x.sub, data := d, more := more, objLen := x.total.getD 0 } s

/-- A segment of a download (R306). -/
def sdoDownload (c : Fin 2) (x : Sdo) (toggle : Bool) (d : List Byte) (last : Bool) (s : State) : State :=
  if toggle ≠ x.toggle then sdoAbort c x.index x.sub aToggle s
  else
    let x := { x with data := x.data ++ d, toggle := !x.toggle, deadline := sdoDeadline s }
    if !last then sdoConfirm c.val .write x [] true (setSdo c.val (some x) s)
    else if (x.total.map (fun n => decide (n ≠ x.data.length))).getD false then sdoAbort c x.index x.sub aLength s
    else serve (sdoSession c) .write { index := x.index, sub := x.sub, total := x.data.length, data := x.data } (setSdo c.val none s)

/-- A segment of an upload. -/
def sdoUpload (c : Fin 2) (x : Sdo) (toggle : Bool) (room : Nat) (s : State) : State :=
  if toggle ≠ x.toggle then sdoAbort c x.index x.sub aToggle s
  else
    let d := x.data.take (max room 1)
    let rest := x.data.drop (max room 1)
    let x := { x with data := rest, toggle := !x.toggle, deadline := sdoDeadline s }
    sdoConfirm c.val .read x d (!rest.isEmpty) (setSdo c.val (if rest.isEmpty then none else some x) s)

/-- The frame is one of the server's: on its request COB-ID, a USDO while the port's data rate is not 0 (R305). -/
def sdoTakes (s : State) (c : Nat) (m : SdoIn) : Bool :=
  sdoRuns s c && !m.ext && m.id.toNat == 0x600 + cfg s 0x2009 (c + 1) && (!m.usdo || cfg s 0x2803 (c + 1) ≠ 0)

/-- The transfer in progress that a segment in this format can belong to. -/
def sdoOpen (s : State) (c : Nat) : Option Sdo := (tfind s.od.sdo c).filter (fun x => x.usdo == s.od.sdoFd.getLsbD c)

/-- A request of a client reaches the SDO server (R305, R306). -/
def sdoServe (c : Fin 2) (m : SdoReq) (s : State) : State :=
  let x := sdoOpen s c.val
  match m with
  | .download i j d => serve (sdoSession c) .write { index := i, sub := j, total := d.length, data := d } (setSdo c.val none s)
  | .downloadStart i j n =>
    let x : Sdo := { download := true, index := i, sub := j, total := n, deadline := sdoDeadline s, usdo := s.od.sdoFd.getLsbD c.val }
    sdoConfirm c.val .write x [] true (setSdo c.val (some x) s)
  | .downloadSeg t d last => match x with
    | some x => if x.download then sdoDownload c x t d last s else sdoAbort c x.index x.sub aBadCommand s
    | none => sdoAbort c 0 0 aBadCommand s
  | .upload i j room => serve (sdoSession c) .read { index := i, sub := j, total := room } (setSdo c.val none s)
  | .uploadSeg t room => match x with
    | some x => if x.download then sdoAbort c x.index x.sub aBadCommand s else sdoUpload c x t room s
    | none => sdoAbort c 0 0 aBadCommand s
  | .abort => setSdo c.val none s
  | .other => sdoAbort c 0 0 aBadCommand s

/-- SDO_REQUEST_RECEIVE (R305, R306). -/
def execSdoRequestReceive (c : Fin 2) (m : SdoIn) (s : State) : Ans :=
  if sdoTakes s c.val m then .next (sdoServe c m.req { s with od.sdoFd := putBit s.od.sdoFd c.val m.usdo }) else .next s

/-- SDO_SEGMENT_TIMEOUT (R306). -/
def execSdoSegmentTimeout (c : Fin 2) (s : State) : Ans :=
  match tfind s.od.sdo c.val with
  | none => .next s
  | some x => .next (sdoAbort c x.index x.sub aSdoTimeout (bumpOd 7 (passTo x.deadline s)))

/-- The state byte of the heartbeat (Table 11.5). -/
def heartbeatState (s : State) : Nat :=
  match s.node with
  | .member => 0x05
  | .fault => 0x04
  | .exit => 0x04
  | _ => 0x7F

/-- HEARTBEAT_PRODUCE (R305, R307). -/
def execHeartbeatProduce (c : Fin 2) (s : State) : Ans :=
  let t := cfg s 0x1017 0
  if t = 0 || !sdoRuns s c.val then .next s
  else
    let s := passTo (tget s.od.hbAt c.val s.up) s
    .next (canPut c.val { id := 0x700 + cfg s 0x2009 (c.val + 1), load := .heartbeat (heartbeatState s) }
      { s with od.hbAt := tset s.od.hbAt c.val (s.up + t * fr) })

/-! ### DAM requests (R308 to R312) -/

/-- Port 18 accepts a DAM_REQ from this port (R308). -/
def damIngress (s : State) (p : Nat) : Bool :=
  if p < 4 ∨ p = 17 then true
  else if p < 16 then cfgOn s 0x200C 1
  else if p = 16 then cfgOn s 0x200C 2
  else false

/-- The DAM session of a pair of SRC_UID and CLIENT. -/
def damFind (s : State) (u : Uid) (client : Nat) : Option Session :=
  ((List.finRange 19).filter (fun i => decide (3 ≤ i.val))).find? (fun i =>
    (sessOf s i).used && (sessOf s i).uid = u && (sessOf s i).client == client)

/-- The session with the longest time since its last request. -/
def oldestOf (s : State) : List Session → Option Session
  | [] => none
  | i :: r => match oldestOf s r with
    | none => some i
    | some j => if (sessOf s i).lastReq ≤ (sessOf s j).lastReq then some i else some j

/-- A DAM session for a new pair: a free one, or the evicted oldest (R294). -/
def damCreate (u : Uid) (client : Nat) (s : State) : Option Session × State :=
  let dam := (List.finRange 19).filter (fun i => decide (3 ≤ i.val))
  match dam.find? (fun i => !(sessOf s i).used) with
  | some i => (some i, setSess i { used := true, uid := u, client := client } s)
  | none => match oldestOf s dam with
    | some i => (some i, setSess i { used := true, uid := u, client := client } (dropSession i (bumpOd 5 s)))
    | none => (none, s)

/-- The operation of an OP code (Table 11.8). -/
def opOfCode (n : Nat) : Option DictOp :=
  match n with
  | 1 => some .read
  | 2 => some .write
  | 3 => some .slate
  | 4 => some .print
  | 5 => some .scrap
  | 6 => some .close
  | _ => none

/-- The request a DAM payload carries (Table 11.6). -/
def damReq (p : List Byte) : Req :=
  let f (a n : Nat) : Nat := beNat ((p.drop a).take n)
  { reqId := f 4 4, index := f 8 2, sub := f 10 1, offset := f 12 4, total := f 16 4, data := p.drop 24, raw := p }

/-- A payload is examined in a session (R310): a request that is remembered with every byte is answered from memory (R312), also one
that was refused here. -/
def damExamine (i : Session) (via : Mac × Nat) (p : List Byte) (s : State) : State :=
  let q := { damReq p with via := some via }
  let dlen := beNat ((p.drop 20).take 2)
  let raw : Byte := p.getD 1 0
  let no (c : Word) : State := finish i .read q { codeRsp .read q c 0 with rawOp := some raw } s
  match (sessOf s i).remembered.find? (fun r => r.req.raw == p && decide (s.up < r.at_ + 16 * fr)) with
  | some r => sendRsp i q.via r.rsp s
  | none =>
  if p.headD 0 ≠ 1 then no aBadCommand
  else if p.length ≠ 24 + dlen || 1000 < dlen then no aLength
  else match opOfCode raw.toNat with
    | none => no aBadCommand
    | some op => if op = .read && !readTotalOk i q then no aLength else enqueueReq i op q s

/-- The DAM session of a client, opened where there is none and one is free (R294). -/
def damSession (src : Uid) (client : Nat) (s : State) : Option Session × State :=
  match damFind s src client with
  | some i => (some i, s)
  | none => damCreate src client s

/-- A DAM_REQ that transport has taken in sequence (R294, R308, R310). -/
def damPayload (port : Nat) (mac : Mac) (src : Uid) (p : List Byte) (s : State) : State :=
  if p.length < 24 then bumpOd 8 s
  else
    match damSession src (beNat ((p.drop 2).take 2)) s with
    | (some i, s) => damExamine i (mac, port) p (setSess i { sessOf s i with mac := mac, port := port, lastReq := s.up } s)
    | (none, s) => s

end Sys2Proof.Machine
end

