-- ==== Sys2Proof/Machine/Arrival.lean ====
section
/-!
DEFINITION. Machine/Arrival.lean: a Bulis frame as it arrives: its header, its check, its sequence, what it is applied to and how it is
answered (R100, R222 to R232, R244, R247, R266, R308); and the end of an operation's retry budget (R227).
-/
namespace Sys2Proof.Machine

/-! ### Payloads -/

/-- A number of k bytes of a payload from byte a on. -/
def fieldOf (p : List Byte) (a k : Nat) : Nat := beNat ((p.drop a).take k)

/-- A bit of a payload byte. -/
def flagOf (p : List Byte) (a i : Nat) : Bool := (fieldOf p a 1).testBit i

/-- A take message (Tables 12.2, 12.3); none where the payload is too short or its TAKE_VER is not 0x01. -/
def takeParse (type : Nat) (p : List Byte) : Option TakeMsg :=
  let least := if type = 0x20 then 48 else if type = 0x21 then 32 else if type = 0x22 then 24 else 28
  if p.length < least || p.headD 0 ≠ 1 then none
  else
    let m : TakeMsg := { kind := fieldOf p 1 1, reply := flagOf p 2 7, coord := BitVec.ofNat 48 (fieldOf p 4 6), num := word (fieldOf p 12 4),
                         instant := BitVec.ofNat 64 (fieldOf p 16 8) }
    some (match type with
      | 0x20 => { m with level := fieldOf p 24 1, part := fieldOf p 26 2, parts := fieldOf p 28 2, bodyCsc := word (fieldOf p 32 4),
                         shareLen := fieldOf p 36 4, voteBy := BitVec.ofNat 64 (fieldOf p 40 8), content := p.drop 48 }
      | 0x21 => { m with vote := fieldOf p 24 1, reason := fieldOf p 25 1, firstIndex := fieldOf p 26 2, firstSub := fieldOf p 28 1 }
      | 0x23 => { m with reason := fieldOf p 24 1 }
      | _ => m)

/-- A ring payload (Table 13.3). -/
def ringParse (p : List Byte) : Option RingMsg :=
  if p.length < 32 || p.headD 0 ≠ 1 then none
  else some { phase := fieldOf p 1 1, vetoCount := fieldOf p 2 1, firstReason := fieldOf p 3 1, origin := BitVec.ofNat 48 (fieldOf p 4 6),
              firstPos := fieldOf p 10 1, ringId := word (fieldOf p 12 4), csc := word (fieldOf p 16 4),
              consent := BitVec.ofNat 64 (fieldOf p 20 8) }

/-- A NEIGHBOUR body (Table 3.4). -/
def neighbourParse (p : List Byte) : Neighbour :=
  { aft := flagOf p 2 0, lineB := flagOf p 3 0, uid := BitVec.ofNat 48 (fieldOf p 4 6), peerSeen := BitVec.ofNat 48 (fieldOf p 10 6),
    csc := word (fieldOf p 16 4), digest := word (fieldOf p 20 4), node := fieldOf p 24 1, flags := fieldOf p 25 1,
    epoch := BitVec.ofNat 16 (fieldOf p 26 2) }

/-- A RECORD body (Table 3.5). -/
def recordParse (p : List Byte) : Record :=
  { epoch := BitVec.ofNat 16 (fieldOf p 2 2), uid := BitVec.ofNat 48 (fieldOf p 4 6), fore := BitVec.ofNat 48 (fieldOf p 10 6),
    aft := BitVec.ofNat 48 (fieldOf p 16 6), consist := word (fieldOf p 22 4), leaving := flagOf p 26 7, inhibit := flagOf p 26 6,
    cabFore := flagOf p 26 5, cabAft := flagOf p 26 4, aIn := flagOf p 26 3, bIn := flagOf p 26 2, node := fieldOf p 27 1,
    csc := word (fieldOf p 28 4), pos := fieldOf p 32 1 }

/-! ### The check (R100, R222, R264, R266) -/

/-- A take frame of the group that goes with CSC 0 (R337): KIND 2, QUERY, REPLY, with 0 in its header. -/
def takeZero (b : Bulis) : Bool :=
  b.csc = 0 && decide (0x20 ≤ b.type ∧ b.type ≤ 0x23)
    && (fieldOf b.payload 1 1 = 2 || flagOf b.payload 2 7 || (b.type = 0x21 && fieldOf b.payload 24 1 = 3))

/-- The frame is checked with CSC 0 (R82, R308, R337). -/
def checkedZero (s : State) (b : Bulis) : Bool :=
  b.type = 0x40 || (b.type = 0x10 && !isMemberUid s b.src) || (b.type = 0x11 && b.csc = 0) || takeZero b

/-- Local time is within 1 fr after the activation instant (R100). -/
def oldCscWindow (s : State) : Bool :=
  match s.ina.sheet with
  | some x => decide (s.now.toNat < x.instant.toNat + fr)
  | none => false

/-- The check passes, apart from that of an answer (R222). -/
def checkPasses (s : State) (b : Bulis) : Bool := bulisSum b (if checkedZero s b then 0 else activeCsc s) = b.check

/-- The check passes against the previous Call Sheet only (R100). -/
def checkStale (s : State) (b : Bulis) : Bool :=
  !checkPasses s b && !checkedZero s b && oldCscWindow s && bulisSum b s.ina.prevCsc = b.check

/-- The check of an answer: with each CSC that the frame it answers was sent with (R222). -/
def answerPasses (s : State) (b : Bulis) : Bool :=
  answerCheck b (match opAt s b.src b.stream b.seq with
    | some o => o.cscs
    | none => [b.csc])

/-- The two checkers disagree (R266): `first` tells whether the transport's own one, instance 0, reports the match. -/
def checkersDisagree (first : Bool) (s : State) : State :=
  let l := within s s.spl.disagree ++ [s.up]
  let s := bump 0x60044 (checkDrop { s with spl.disagree := l })
  let s := raiseIrq 16 (fire 16 5 [if first then 0 else 1] s)
  if 16 ≤ l.length then enterFault { s with spl.disagree := [] } else s

/-! ### Answers (R226, R228) -/

/-- An answer to a frame: ACK or COMPLETION, under the CSC the frame carried. -/
def bulisAnswer (s : State) (b : Bulis) (type flags status : Nat) (payload : List Byte) : Bulis :=
  { type := type, flags := flags + b.flags % 8, stream := b.stream, src := s.uid, dst := b.src, seq := b.seq, csc := b.csc,
    tag := if type = 4 then b.tag else 0, status := status, payload := payload }

/-- An answer goes back to the address the frame came from; to a consist or service port, on that port alone. -/
def answerSend (port : Nat) (mac : Mac) (a : Bulis) (s : State) : State :=
  if 4 ≤ port ∧ port < 17 then
    let f := bulisEther s (bulisSeal a) mac
    sendOn port 18 f (countIn 18 f s)
  else bulisOut a mac s

/-- The receive state of a source and stream changes, where there is one. -/
def modRecv (u : Uid) (stream : Nat) (f : RecvSt → RecvSt) (s : State) : State :=
  match recvSt s u stream with
  | some r => setRecv (f r) s
  | none => s

/-- The completions still kept (R228). -/
def keptNow (s : State) : List Kept := s.spl.kept.filter (fun k => decide (s.up < k.until_))

/-- A request of this frame is answered by a COMPLETION (Table 7.4). -/
def wantsCompletion (b : Bulis) : Bool := b.type = 2 || b.type = 3 || (b.type = 7 && (opHead b.payload).op ≠ 7)

/-- A status is recorded and sent: an ACK, or a COMPLETION, which is kept for the retry budget and 64 pf. -/
def respondTo (b : Bulis) (status : Nat) (data : List Byte) (s : State) : State :=
  let s := modRecv b.src b.stream (fun r => { r with past := ((b.seq, status) :: r.past).take 1024 }) s
  let (mac, port) := ((recvSt s b.src b.stream).map (fun r => (r.mac, r.port))).getD (0, 18)
  if wantsCompletion b then
    let a := bulisAnswer s b 4 0 status (b.payload.take 8 ++ data)
    let k : Kept := { uid := b.src, stream := b.stream, seq := b.seq, frame := a, until_ := s.up + retryBudget s + 64 * pf }
    answerSend port mac a { s with spl.kept := keptNow s ++ [k] }
  else answerSend port mac (bulisAnswer s b 6 0 status []) s

/-- A duplicate: the answer recorded for it goes out again (R225, R228). -/
def answerAgain (b : Bulis) (s : State) : State :=
  let s := bump 0x50048 s
  let (mac, port) := ((recvSt s b.src b.stream).map (fun r => (r.mac, r.port))).getD (0, 18)
  if wantsCompletion b then
    match (keptNow s).find? (fun k => k.uid = b.src && k.stream = b.stream && k.seq = b.seq) with
    | some k => answerSend port mac k.frame s
    | none => s
  else
    match ((recvSt s b.src b.stream).map (·.past)).getD [] |>.find? (fun x => x.1 = b.seq) with
    | some x => answerSend port mac (bulisAnswer s b 6 0 x.2 []) s
    | none => s

/-! ### What a frame is applied to (Table 7.4) -/

/-- A take message that transport has taken (R331 to R334). -/
def takeIn (src : Uid) (type : Nat) (p : List Byte) (s : State) : State :=
  match takeParse type p with
  | none => s
  | some m => match type with
    | 0x20 => prepareIn src m s
    | 0x21 => if m.vote = 3 then queryIn src m s else voteIn src m s
    | 0x22 => if m.reply then replyIn true m s else printIn m s
    | _ => if m.reply then replyIn false m s else scrapIn m s

/-- An inauguration message (R82 to R84): a NEIGHBOUR on a backbone port, or a RECORD. -/
def inaugurationIn (port : Nat) (mac : Mac) (p : List Byte) (s : State) : State :=
  if p.headD 0 ≠ 1 then s
  else if fieldOf p 1 1 = 1 && 32 ≤ p.length && port < 4 then pump (neighbourIn port (neighbourParse p) s)
  else if fieldOf p 1 1 = 2 && 36 ≤ p.length then pump (recordIn (recordParse p) mac s)
  else s

/-- A message other than a splice operation. A type for which the node has no use has no effect (R226). -/
def messageIn (port : Nat) (mac : Mac) (b : Bulis) (s : State) : State :=
  if b.type = 0x10 then damPayload port mac b.src b.payload s
  else if 0x20 ≤ b.type ∧ b.type ≤ 0x23 then takeIn b.src b.type b.payload s
  else if b.type = 0x30 then (match ringParse b.payload with
    | some m => ringIn m s
    | none => s)
  else if b.type = 0x40 then inaugurationIn port mac b.payload s
  else s

/-- A splice operation. -/
def isSplice (b : Bulis) : Bool := [1, 2, 3, 5, 7].contains b.type

/-- A frame in its turn is applied and answered; `ecc` names the sequences whose data in DRAM has an uncorrectable error. A message
is acknowledged before its payload is examined (R310). -/
def applyFrame (port : Nat) (mac : Mac) (ecc : List Word) (b : Bulis) (s : State) : State :=
  if isSplice b then
    let (code, data, s) := targetApply b.src b.stream b.type b.payload (ecc.contains b.seq) s
    respondTo b code data s
  else messageIn port mac b (respondTo b 0 [] s)

/-! ### Sequences (R225, R228, R244, R247) -/

/-- The retention buffer has no room for another completion (R228). -/
def retentionFull (s : State) : Bool := decide (1024 ≤ (keptNow s).length)

/-- The frame in turn: applied, or turned away unanswered while the retention buffer is full; whether it was applied. -/
def turnOf (port : Nat) (mac : Mac) (ecc : List Word) (b : Bulis) (s : State) : Bool × State :=
  if wantsCompletion b && retentionFull s then (false, bump 0x5005C s)
  else
    let s := modRecv b.src b.stream (fun r => { r with next := b.seq + 1, held := r.held.filter (fun x => x.seq ≠ b.seq) }) s
    (true, applyFrame port mac ecc b s)

/-- Held frames that follow in sequence are applied (R225). -/
def releaseHeld (port : Nat) (mac : Mac) (ecc : List Word) (u : Uid) (stream : Nat) : Nat → State → State
  | 0, s => s
  | n + 1, s =>
    match recvSt s u stream with
    | none => s
    | some r => match r.held.find? (fun x => x.seq = r.next) with
      | none => s
      | some b =>
        let (done, s) := turnOf port mac ecc b s
        if done then releaseHeld port mac ecc u stream n s else s

/-- Bytes in the receive buffer: header, payload and check of every held frame. -/
def heldBytes (s : State) : Nat := (s.spl.receivers.map (fun r => (r.held.map (fun b => 36 + b.payload.length)).sum)).sum

/-- The receive state as the frame finds it: created, as with FIRST, where there is none (R244), and set anew by FIRST (R225). -/
def openRecv (port : Nat) (mac : Mac) (b : Bulis) (s : State) : State :=
  let seen (r : RecvSt) : RecvSt := { r with lastAt := s.up, mac := mac, port := port }
  match recvSt s b.src b.stream with
  | none => setRecv (seen { uid := b.src, stream := b.stream, next := b.seq }) s
  | some r =>
    let back := (r.next - b.seq).toNat
    if b.flags.testBit 7 && !decide (1 ≤ back ∧ back ≤ 1024) then setRecv (seen { r with next := b.seq, held := [], poisoned := false }) s
    else setRecv (seen r) s

/-- A fence frame acts at its arrival (R247). -/
def fenceIn (port : Nat) (mac : Mac) (b : Bulis) (s : State) : State :=
  let old := recvSt s b.src b.stream
  let s := bumpBy 0x50054 ((old.map (·.held.length)).getD 0) s
  let r : RecvSt := old.getD { uid := b.src, stream := b.stream, next := b.seq }
  let s := setRecv { r with next := b.seq + 1, held := [], poisoned := false, lastAt := s.up, mac := mac, port := port } s
  respondTo b 0 [] (freeSems b.src b.stream s)

/-- A fence frame that is no duplicate. -/
def freshFence (b : Bulis) (s : State) : Bool :=
  b.type = 1 && b.flags.testBit 5 && (match recvSt s b.src b.stream with
    | none => true
    | some r => let back := (r.next - b.seq).toNat; !decide (1 ≤ back ∧ back ≤ 1024))

/-- A frame out of turn is held (R225): a second copy is a duplicate, and a full receive buffer discards it. -/
def holdFrame (b : Bulis) (r : RecvSt) (s : State) : State :=
  if r.held.any (fun x => x.seq = b.seq) then bump 0x50048 s
  else if 2 ^ 20 < heldBytes s + 36 + b.payload.length then bump 0x50058 s
  else setRecv { r with held := r.held ++ [b] } s

/-- A unicast frame passes the sequence rules (R225). -/
def unicastIn (port : Nat) (mac : Mac) (ecc : List Word) (b : Bulis) (s : State) : State :=
  if freshFence b s then fenceIn port mac b s
  else
    let s := openRecv port mac b s
    match recvSt s b.src b.stream with
    | none => s
    | some r =>
      let ahead := (b.seq - r.next).toNat
      let back := (r.next - b.seq).toNat
      if ahead = 0 then
        let (done, s) := turnOf port mac ecc b s
        if done then releaseHeld port mac ecc b.src b.stream 256 s else s
      else if ahead ≤ 255 then holdFrame b r s
      else if back ≤ 1024 then answerAgain b s
      else bump 0x50054 s

/-- Where the sequences of a source's group frames, and of its link-local ones, are remembered beside those of its unicast
frames (R224). -/
def groupStream (b : Bulis) : Nat := b.stream + (if b.dst = groupUid then 256 else 512)

/-- A group or link-local frame is applied on arrival, unless its sequence was seen among the last 1,024 (R225); it is never answered. -/
def groupIn (port : Nat) (mac : Mac) (b : Bulis) (s : State) : State :=
  let r := (recvSt s b.src (groupStream b)).getD { uid := b.src, stream := groupStream b, next := 0 }
  let s' := setRecv { r with past := ((b.seq, 0) :: r.past.filter (fun x => x.1 ≠ b.seq)).take 1024, lastAt := s.up, mac := mac, port := port } s
  if r.past.any (fun x => x.1 = b.seq) then bump 0x50048 (setRecv { r with lastAt := s.up } s)
  else if isSplice b || b.type = 0x10 then s'
  else messageIn port mac b s'

/-- A frame of a type that is never answered (Table 7.4), or sent to the group. -/
def unanswered (b : Bulis) : Bool := b.dst = groupUid || b.type = 0x40

/-- A frame that matched only the previous Call Sheet (R100): a stale-topology ACK, or nothing for a group frame. -/
def staleFrame (port : Nat) (mac : Mac) (b : Bulis) (s : State) : State :=
  let s := bump 0x4803C s
  if unanswered b then s else answerSend port mac (bulisAnswer s { b with csc := s.ina.prevCsc } 6 8 0 []) s

/-- A frame whose header and check have passed. -/
def acceptedFrame (port : Nat) (mac : Mac) (ecc : List Word) (b : Bulis) (s : State) : State :=
  if b.type = 4 then completionIn b s
  else if b.type = 6 then ackIn b s
  else if unanswered b then groupIn port mac b s
  else unicastIn port mac ecc b s

/-- A Bulis frame arrives at port 18 (R222, R223, R266): from a port, with its MAC source address; `agree` tells whether the second
checker reports what the first does. -/
def bulisIn (port : Nat) (mac : Mac) (b : Bulis) (agree : Bool) (ecc : List Word) (s : State) : State :=
  let b := unpad b
  let passes := if b.type = 4 || b.type = 6 then answerPasses s b else checkPasses s b || checkStale s b
  if headerBad b || dstBad s b then headerDrop s
  else if !agree then checkersDisagree passes s
  else if !passes then checkDrop s
  -- discarded on arrival, before the sequence rules and whatever Call Sheet it names (R308)
  else if b.type = 0x10 && !damIngress s port then bumpOd 6 s
  else if b.type ≠ 4 && b.type ≠ 6 && !checkPasses s b then staleFrame port mac b s
  else acceptedFrame port mac ecc b s

/-- BULIS_FRAME_RECEIVE (R222 to R226). -/
def execBulisFrameReceive (port : Fin 20) (mac : Mac) (b : Bulis) (agree : Bool) (ecc : List Word) (s : State) : Ans :=
  if domOn s .d2 then .next (bulisIn port.val mac b agree ecc s) else .next s

/-- DAM_REQUEST_RECEIVE (R308, R310): a Bulis frame that carries a DAM_REQ. -/
def execDamRequestReceive (port : Fin 20) (mac : Mac) (b : Bulis) (s : State) : Ans :=
  if domOn s .d2 && b.type = 0x10 then .next (bulisIn port.val mac b true [] s) else .next s

/-! ### The end of the retry budget (R218, R227, R248, R346) -/

/-- An operation that no answer has closed ends: a fence frame has failed, a ring hop ends its ring, a posted operation closes with the
code. -/
def budgetEnd (o : Op) (code : Nat) (s : State) : State :=
  match o.kind with
  | .fence => bump 0x5846C (closeOne o cOk true [] s)
  | .message 0x30 => ringHopFailed o.payload (closeOne o code false [] s)
  | _ => closeOne o code false [] s

/-- A posted operation or control frame toward a target that still has no address. -/
def addressless (s : State) (u : Uid) (stream : Nat) (o : Op) : Bool :=
  o.target = u && o.stream == stream && !o.nonPosted && o.seq.isNone && !o.held && u ≠ s.uid && (opMac s o).isNone

/-- RETRY_BUDGET_EXPIRY (R218, R227): of the operation sent with a sequence, TIMEOUT; of the oldest one of the target and stream that
was never sent for want of an address, TARGET_ABSENT. -/
def execRetryBudgetExpiry (u : Uid) (stream : Byte) (q : Option Word) (s : State) : Ans :=
  match q with
  | some q => match opAt s u stream.toNat q with
    | some o => if o.nonPosted then .next s else .next (fencesGoOn (pump (budgetEnd o cTimeout (passTo (o.firstTx + retryBudget s) s))))
    | none => .next s
  | none => match s.spl.ops.find? (addressless s u stream.toNat) with
    | some o => .next (fencesGoOn (pump (budgetEnd o cTargetAbsent (passTo (o.accepted + retryBudget s) s))))
    | none => .next s

end Sys2Proof.Machine
end

