-- ==== Sys2Proof/Machine/Irq.lean ====
section
/-!
DEFINITION. Machine/Irq.lean: the endpoint and its interrupts (chapter 19), the configuration space's constants, and what the
front panel and the timing pins show (chapter 20).
-/
namespace Sys2Proof.Machine

/-! ### Causes (R481 to R484) -/

/-- The held condition of cause b (Table 19.6). -/
def heldCond (s : State) (b : Nat) : Bool :=
  match b with
  | 0 => s.irq.linkPorts != 0
  | 1 => halfPortsWord s != 0
  | 2 => s.irq.pwdPorts != 0
  | 6 => (List.range 4).any (fun k => cfgOn s (0x2614 + k) 1 && !(capSt s k).fifo.isEmpty)
  | 7 => !s.spl.pwf.isEmpty || s.spl.pwfLost
  | 8 => !s.spl.ce.isEmpty || s.spl.ceLost
  | 9 => !s.spl.db.isEmpty || s.spl.dbOverflow
  | 14 => s.tln.edgeStatus &&& s.tln.edgeMask != 0
  | 16 => domFaultWord s != 0
  | 19 => s.pdb.errStatus &&& s.pdb.errMask != 0
  | 21 => s.net.fallback &&& s.net.fallbackMask != 0
  | _ => false

/-- The causes in their order. -/
abbrev causes : List Nat := List.range 23

/-- W1C of IRQ_CAUSE: a held cause whose condition is true is set again at once, which counts as a rise (R483). -/
def causeClear (mask : Word) (s : State) : State :=
  let hit (b : Nat) : Bool := bitOf mask b && s.irq.cause.getLsbD b
  let t := { s with irq.cause := w1c s.irq.cause mask.toNat }
  causes.foldl (fun t b => if hit b && heldCond s b then riseCause b t else t) t

/-- W1C of CPU_IRQ_STATUS, under the same held rule (R411, R484). -/
def cpuCauseClear (mask : Word) (s : State) : State :=
  let t := { s with cpu.irqStatus := w1c s.cpu.irqStatus mask.toNat }
  causes.foldl (fun t b =>
    if bitOf mask b && s.cpu.irqStatus.getLsbD b && heldCond s b then { t with cpu.irqStatus := putBit t.cpu.irqStatus b true } else t) t

/-- IRQ_MASK takes a value: a bit that is set while its cause is set makes a message due (R482). -/
def maskWrite (v : Word) (s : State) : State :=
  let old := s.irq.mask
  let s := { s with irq.mask := BitVec.ofNat 23 v.toNat }
  causes.foldl (fun s b => if bitOf v b && !old.getLsbD b && s.irq.cause.getLsbD b then msixDue (vecOf s.irq b) s else s) s

/-- IRQ_VEC_b takes a vector: a different one, for a set and unmasked cause, makes a message due on it (R482). -/
def vecWrite (b v : Nat) (s : State) : State :=
  let old := vecOf s.irq b
  let s := { s with irq.vec := tset s.irq.vec b v }
  if v ≠ old && s.irq.cause.getLsbD b && s.irq.mask.getLsbD b then msixDue v s else s

/-- IRQ_CAUSE_CLEAR (R483). -/
def execIrqCauseClear (mask : Word) (s : State) : Ans := if reaches s .host then .next (causeClear mask s) else .next s

/-- IRQ_MASK_WRITE (R482). -/
def execIrqMaskWrite (v : Word) (s : State) : Ans := if reaches s .host then .next (maskWrite v s) else .next s

/-- IRQ_VEC_WRITE (R482). -/
def execIrqVecWrite (b : Fin 23) (v : Fin 64) (s : State) : Ans := if reaches s .host then .next (vecWrite b.val v.val s) else .next s

/-! ### The endpoint (R461, R469, R484) -/

/-- Configuration requests are served: D12 is on, and no Retry Status is answered. -/
def configServed (s : State) : Bool := domOn s .d12 && !s.irq.retryStatus

/-- ENDPOINT_READY (R461): the stored values are restored, and configuration requests are answered normally. -/
def execEndpointReady (s : State) : Ans :=
  if s.hpl.boot ≠ .dawned || !domOn s .d12 then .next s else .next { s with irq.retryStatus := false }

/-- BUS_MASTER_ENABLE (R469): the host sets or clears Bus Master Enable, and may return the function to D0; held messages go
out. -/
def execBusMasterEnable (on toD0 : Bool) (s : State) : Ans :=
  if !configServed s then .next s
  else .next (flushPba { s with irq.busMaster := on, irq.d3hot := s.irq.d3hot && !toD0 })

/-- D3HOT_ENTRY (R469). -/
def execD3hotEntry (s : State) : Ans := if configServed s then .next { s with irq.d3hot := true } else .next s

/-- MSIX_ENABLE (R482, R484): the MSI-X capability's Enable and Function Mask. -/
def execMsixEnable (on funcMask : Bool) (s : State) : Ans :=
  if configServed s then .next (flushPba { s with irq.msixOn := on, irq.funcMask := funcMask }) else .next s

/-- The constants of the configuration space (Table 19.1): vendor, device, class, and the MSI-X table's and PBA's places. -/
abbrev pciVendor : Nat := 0x1FA5
abbrev pciDevice : Nat := 0x2440
abbrev pciClass : Nat := 0x028000
abbrev msixVectors : Nat := 64
abbrev msixTableOffset : Nat := 0x1800
abbrev msixPbaOffset : Nat := 0x1C00
def pciRevision (s : State) : Nat := s.hwRev.toNat % 256

/-- The Device Serial Number (R468): the clockIdentity of the node. -/
def deviceSerial (s : State) : BitVec 64 := clockId s.uid

/-- OP_TIME_REEL_TICK (R371): the next reel boundary of local time. -/
def execOpTimeReelTick (s : State) : Ans := .next (passToInstant (BitVec.ofNat 64 ((s.now.toNat / rl + 1) * rl)) s)

/-! ### Front-panel LEDs (R493) -/

/-- What an LED shows. -/
inductive Led | off | red | redBlink | yellow | yellowBlink | green | greenBlink | greenFlash | blue | blueBlink
deriving DecidableEq, Repr

/-- The lamp test runs: from 4 fr to 68 fr after D0 starts. -/
def lampTest (s : State) : Bool :=
  match s.hpl.lampTestBy with
  | some t => decide (t ≤ s.up + 64 * fr ∧ s.up < t)
  | none => false

/-- The six LEDs (Table 20.8): dark in OFF, and all but REMOVE in ASLEEP. -/
def ledDark (s : State) : Bool := s.node = .off || s.node = .asleep

def ledPwr (s : State) : Led :=
  if ledDark s then .off
  else if lampTest s then .green
  else if 250 < s.pwr.tempNow || domFaultWord s != 0 then .red
  else if s.pwr.sag then .yellow
  else if !s.pwr.bankOk then .yellowBlink
  else .green

def ledNode (s : State) : Led :=
  if ledDark s then .off
  else if lampTest s then .green
  else match s.node with
    | .fault => .red
    | n =>
      if s.cpu.bootFail then .redBlink
      else if n = .dusk || n = .exit then .yellow
      else if n = .dawn || n = .joining then .greenBlink
      else .green

def ledLine (s : State) (l : Line) : Led :=
  if ledDark s then .off
  else if lampTest s then .green
  else match (lineSt s l).code with
    | 2 => .red
    | 1 => .yellow
    | 0 => .green
    | _ => if s.node = .dawn || s.node = .joining || (cfg s 0x2308 0).testBit (lineIx l) then .greenFlash else .off

def ledTime (s : State) : Led :=
  if ledDark s then .off
  else if lampTest s then .green
  else if s.tim.servo = .stepSuspect || s.tim.holdLimit then .yellow
  else match s.tim.servo with
    | .holdover => .yellowBlink
    | .acquiring => .greenBlink
    | .locked => .green
    | _ => if s.tim.isGm then .green else .off

def ledRemove (s : State) : Led :=
  if s.node = .off then .off
  else if s.node = .asleep then (if s.hpl.removeLed then .blue else .off)
  else if lampTest s then (if s.hpl.warn || s.node = .exit then .blueBlink else .blue)
  else if s.hpl.safeToRemove then .blue
  else if s.node = .exit then .blueBlink
  else .off

/-! ### Time-pulse pins (R491) -/

/-- What pulse output k drives between its pulses: nothing before D2 is on, else its inactive level (true for high). -/
def pulseIdle (s : State) (k : Nat) : Option Bool := if domOn s .d2 then some (cfgOn s (0x2610 + k) 5) else none

end Sys2Proof.Machine
end

