-- ==== Sys2Proof/Machine/RegWrite.lean ====
section
/-!
DEFINITION. Machine/RegWrite.lean: a write to BAR0 (R6 to R8, R321, R408, R409, R472 to R474): which accesses are taken, the RWT fields
of a register, and what every other writable field does.
-/
namespace Sys2Proof.Machine

/-! ### RWT fields (R321) -/

/-- A number with the bits of a field replaced. -/
def mergeBits (f : RwtField) (v : Word) (n : Nat) : Nat :=
  let old := n / 2 ^ f.shift % 2 ^ f.width
  n - old * 2 ^ f.shift + bitsOf v (f.lo + f.width - 1) f.lo * 2 ^ f.shift

/-- A gate list with one entry written; entries before it that were never written have all gates open and interval 0. -/
def putGateEntry (l : List Byte) (e n : Nat) : List Byte :=
  (List.range (max (l.length / 4) (e + 1))).flatMap (fun i => beBytes 4 (if i = e then n else gateEntryNat l i))

/-- The value the object of a field holds when the field takes its bits. -/
def mergeField (f : RwtField) (v : Word) (x : Val) : Val :=
  match f.entry with
  | some e => .bytes (putGateEntry (valBytes x) e (mergeBits f v (gateEntryNat (valBytes x) e)))
  | none => .num (mergeBits f v (valNum x))

/-- The staged values with every RWT field of a write merged in, each over the staged or else the applied value. -/
def mergeFields (l : List RwtField) (v : Word) (s : State) : Tab Val :=
  l.foldl (fun t f => tset t f.key (mergeField f v ((tfind t f.key).getD (valOf s f.key)))) s.tak.user.staged

/-- A value passes checks 7 and 8 of Table 11.4. -/
def fieldOk (t : Tab Val) (f : RwtField) : Bool :=
  match keyRow f.key, tfind t f.key with
  | some r, some v => valueCode f.key r v = 0 && !offBoundary f.key v
  | _, _ => false

/-- The RWT fields of a register are written (R7, R321): staged whole in the OPEN take of the Host session, or left as they are and
reported. A core's write is none of the Host session; the host's keeps its OPEN take alive either way (R322). -/
def rwtWrite (who : Requester) (l : List RwtField) (v : Word) (s : State) : State :=
  let t := mergeFields l v s
  if l.isEmpty then s
  else if who = .host && ownsOpen hostSession s then
    let s := renewTake hostSession (setSess hostSession { sessOf s hostSession with lastReq := s.up } s)
    if l.all (fieldOk t) && withinLimits t then { s with tak.user.staged := t }
    else bump 0x9058 { s with tak.rwtReject := true }
  else bump 0x9058 { s with tak.rwtReject := true }

/-! ### The other fields -/

/-- Acts where a bit is written as 1. -/
def onBit (v : Word) (i : Nat) (f : State → State) (s : State) : State := if bitOf v i then f s else s

/-- The ID and IRQ blocks (Tables 19.4, 19.5). -/
def writeIdIrq (a : Nat) (v : Word) (s : State) : State :=
  if a = 0x024 then setReg a v s
  else if a = 0x1000 then causeClear v s
  else if a = 0x1004 then maskWrite v s
  else if a = 0x1008 then { s with irq.linkPorts := w1c s.irq.linkPorts v.toNat }
  else if a = 0x100C then { s with irq.pwdPorts := w1c s.irq.pwdPorts v.toNat }
  else if 0x1100 ≤ a ∧ a < 0x115C then vecWrite ((a - 0x1100) / 4) (bitsOf v 5 0) s
  else if 0x1800 ≤ a ∧ a < 0x1C00 then
    let k := (a - 0x1800) / 4
    flushPba { s with irq.table := tset s.irq.table k (if k % 4 = 0 then v &&& 0xFFFFFFFC else if k % 4 = 3 then v &&& 1 else v) }
  else s

/-- The PWR block (Table 17.7). -/
def writePwr (o : Nat) (v : Word) (s : State) : State :=
  if o = 0x008 then domFaultClear v s
  else if 0x100 ≤ o ∧ o < 0x180 ∧ o % 16 = 4 then
    let k := (o - 0x100) / 16
    onBit v 31 (fun s => setLoop k { loopSt s k with satHigh := false } s) s
  else s

/-- The HPL block (Tables 18.6, 18.7). -/
def writeHpl (o : Nat) (v : Word) (s : State) : State :=
  if o = 0x000 then
    let keyed := bitsOf v 31 24 = 0xA5
    let s := onBit v 8 doHostDone s
    let s := if keyed then onBit v 17 (warn 2) s else s
    if keyed then onBit v 16 (askReset .host) s else s
  else if o = 0x004 then onBit v 8 (fun s => { s with hpl.warn := false }) s
  else s

/-- The WAK block (Tables 13.7, 13.8). -/
def writeWak (o : Nat) (v : Word) (s : State) : State :=
  if o = 0x000 then onBit v 8 stayAwake { s with wak.hold := bitOf v 1, wak.sleepAllow := bitOf v 0 }
  else if o = 0x004 then onBit v 7 (fun s => { s with wak.forced := false }) s
  else s

/-! #### The mailbox (R313, R504) -/

/-- Bytes of MBX_DATA. -/
def mbxBytes (n : Nat) (s : State) : List Byte := (List.range n).map (fun i => tget s.od.mbxData i 0)

/-- MBX_VALUE. -/
def mbxValue (s : State) : Nat := (tget s.reg 0x8024 0).toNat + (tget s.reg 0x8028 0).toNat * 2 ^ 32

/-- The request a mailbox command makes of the mailbox registers (R504). -/
def mbxReq (op : DictOp) (s : State) : Req :=
  let t := tget s.reg 0x8000 0
  let idx := bitsOf t 15 0
  let sub := bitsOf t 23 16
  let len := bitsOf (tget s.reg 0x8008 0) 10 0
  let off := (tget s.reg 0x8004 0).toNat
  let total := (tget s.reg 0x800C 0).toNat
  match op with
  | .read => { index := idx, sub := sub, offset := off, total := len }
  | .write => match objRow idx sub with
    | some r =>
      if r.ty.isScalar then { index := idx, sub := sub, offset := off, total := len, data := beBytes len (mbxValue s) }
      else { index := idx, sub := sub, offset := off, total := if total = 0 then len else total, data := mbxBytes len s }
    | none => { index := idx, sub := sub }
  | .print => { data := if mbxValue s = 0 then [] else beBytes 8 (mbxValue s) }
  | _ => {}

/-- MBX_CMD is written (Table 11.10): the command joins the queue of the Host session; while one is BUSY it has no effect and sets
COLLISION. A WRITE of more than MBX_DATA holds is refused for its length before it (R310, log 104). -/
def mbxCommand (n : Nat) (s : State) : State :=
  match opOfCode n with
  | none => s
  | some op =>
    if s.od.mbxBusy then { s with od.mbxCollision := true }
    else if !served s then s
    else
      let q := mbxReq op s
      let s := { s with od.mbxBusy := true, od.mbxDone := false }
      if op = .write && 1024 < bitsOf (tget s.reg 0x8008 0) 10 0 then finish hostSession .write q (codeRsp .write q aLength 0) s
      else enqueueReq hostSession op q s

/-- The ODX block (Table 11.9), but for MBX_DATA. -/
def writeOdx (o : Nat) (v : Word) (s : State) : State :=
  if o < 0x010 ∨ o = 0x024 ∨ o = 0x028 then
    setReg (0x8000 + o) (if o = 0x000 then v &&& 0xFFFFFF else if o = 0x008 then v &&& 0x7FF else v) s
  else if o = 0x010 then mbxCommand (bitsOf v 3 0) s
  else if o = 0x014 then
    onBit v 30 (fun s => { s with od.mbxDone := false }) (onBit v 27 (fun s => { s with od.mbxCollision := false }) s)
  else s

/-- The TAK block (Table 12.7). -/
def writeTak (o : Nat) (v : Word) (s : State) : State :=
  if o = 0x000 then onBit v 31 (fun s => { s with tak.rwtReject := false }) s else s

/-- HALF_STATUS and HALF_MASK of a MAC (R132, R135): LO and HI of each. A status bit that its mask newly lets through raises bit 1. -/
def writeHalf (p i : Nat) (v : Word) (s : State) : State :=
  let s := pauseCount p s.up s
  let m := macSt s p
  let m' := match i with
    | 0 => { m with halfLo := w1c m.halfLo v.toNat }
    | 1 => { m with halfHi := w1c m.halfHi v.toNat }
    | 2 => { m with maskLo := v }
    | _ => { m with maskHi := v &&& 0x1FFFFF }
  let s := setMac p m' s
  if m'.halfLo &&& m'.maskLo &&& ~~~ m.maskLo != 0 || m'.halfHi &&& m'.maskHi &&& ~~~ m.maskHi != 0 then raiseIrq 1 s else s

/-- The PRT/MAC block of port p (Tables 2.6, 4.5, 5.8). -/
def writePrt (p o : Nat) (v : Word) (s : State) : State :=
  if o = 0x000 then onBit v 1 (doLinkRestart p) s
  else if o = 0x00C then (if p < 4 then onBit v 31 (fun s => setLink p { linkSt s p with saturated := false } s) s else s)
  else if o = 0x040 then onBit v 8 (macForceStop p) s
  else if 0x060 ≤ o ∧ o < 0x070 then writeHalf p ((o - 0x060) / 4) v s
  else if o = 0x208 then onBit v 31 (verifyRestart p) s
  else s

/-- A mask takes a value while some bit of its status that it newly enables is set: cause b is raised, as the mask enables the cause of
a status bit that is 1 (R132, R157, R286, R402). -/
def maskRaises (b : Nat) (newly : Bool) (s : State) : State := if newly then raiseIrq b s else s

/-- The SCH block (Table 5.9). -/
def writeSch (o : Nat) (v : Word) (s : State) : State :=
  if o = 0x004 then { s with net.fallback := w1c s.net.fallback v.toNat }
  else if o = 0x008 then
    let m := BitVec.ofNat 17 v.toNat
    maskRaises 21 (s.net.fallback &&& m &&& ~~~ s.net.fallbackMask != 0) { s with net.fallbackMask := m }
  else s

/-- The TIM block (Table 6.9). -/
def writeTim (o : Nat) (v : Word) (s : State) : State :=
  if 0x100 ≤ o ∧ o < 0x180 ∧ o % 32 = 0x14 then
    let k := (o - 0x100) / 32
    onBit v 1 (fun s => setPps k { ppsSt s k with missed := false } s) s
  else if 0x200 ≤ o ∧ o < 0x280 ∧ o % 32 = 0x0C then
    let k := (o - 0x200) / 32
    onBit v 0 (fun s => setCap k { capSt s k with overflow := false } s) s
  else s

/-- The INA block (Tables 3.12, 3.13). -/
def writeIna (o : Nat) (v : Word) (s : State) : State :=
  if o = 0x000 then
    let s := setInhibit (bitOf v 0) s
    onBit v 9 (fun s => (inaRestart s).2) s
  else if o = 0x01C then
    onBit v 17 (fun s => { s with ina.aftFault := false }) (onBit v 16 (fun s => { s with ina.foreFault := false }) s)
  else s

/-- A register of a function with one consumer is written (R409): by its owner, with its effect, and by the other one, counted. -/
def owned (who : Requester) (n : Nat) (f : State → State) (s : State) : State := if featDenied s who n then bump 0x90044 s else f s

/-- The SPL block (Tables 7.10, 7.11). -/
def writeSpl (who : Requester) (o : Nat) (v : Word) (s : State) : State :=
  if o = 0x000 then onBit v 8 splForce s
  else if 0x1000 ≤ o ∧ o < 0x2000 ∧ o % 64 = 0x20 then doorbellSend who ((o - 0x1000) / 64) v s
  else if 0x1000 ≤ o ∧ o < 0x2000 ∧ o % 64 = 0x24 then
    (match bitsOf v 1 0 with
      | 1 => semAcquire who ((o - 0x1000) / 64) s
      | 2 => semRelease who ((o - 0x1000) / 64) s
      | _ => s)
  else if o = 0x3110 then onBit v 31 (fun s => { s with spl.dbOverflow := false }) s
  else if o = 0x320C then owned who 1 (onBit v 0 cePop) s
  else if o = 0x3210 then onBit v 31 (fun s => { s with spl.ceLost := false }) s
  else s

/-- The STM block (Tables 7.13, 8.7). -/
def writeStm (who : Requester) (o : Nat) (v : Word) (s : State) : State :=
  if o = 0x41C then owned who 2 (onBit v 0 pwfPop) s
  else if o = 0x420 then onBit v 31 (fun s => { s with spl.pwfLost := false }) s
  else if o = 0x430 then fenceMask (bitsOf v 15 0) s
  else if o = 0x434 then eachBit 16 v.toNat stmForce s
  else if o = 0x438 then eachBit 32 v.toNat winForce s
  else if o = 0x43C then eachBit 32 v.toNat (fun w => winForce (32 + w)) s
  else if o = 0x440 then onBit v 0 (abortWindow (bitsOf v 21 16)) s
  else s

/-- CHK_CTRL (Table 9.4): the RW fields, then START, FINISH and GO in this order. -/
def chkCtrl (v : Word) (s : State) : State :=
  let s := { s with chk.irqEn := bitOf v 2, chk.prefixEn := bitOf v 1 }
  let s := if bitOf v 0 then { s with chk.enable := true } else chkDisable s
  onBit v 10 chkGo (onBit v 9 chkFinish (onBit v 8 chkStart s))

/-- The CHK block (Tables 9.3, 9.4). -/
def writeChk (who : Requester) (o : Nat) (v : Word) (s : State) : State :=
  let lo48 (x : Uid) : Uid := BitVec.ofNat 48 (x.toNat / 2 ^ 32 * 2 ^ 32 + v.toNat)
  let hi48 (x : Uid) : Uid := BitVec.ofNat 48 (bitsOf v 15 0 * 2 ^ 32 + x.toNat % 2 ^ 32)
  if o = 0x000 then owned who 5 (chkCtrl v) s
  else if o = 0x004 then
    { s with chk.err := s.chk.err && !bitOf v 31, chk.collision := s.chk.collision && !bitOf v 30, chk.done := s.chk.done && !bitOf v 29 }
  else if o = 0x008 then { s with chk.dst := lo48 s.chk.dst }
  else if o = 0x00C then { s with chk.dst := hi48 s.chk.dst }
  else if o = 0x010 then { s with chk.src := lo48 s.chk.src }
  else if o = 0x014 then { s with chk.src := hi48 s.chk.src }
  else if o = 0x018 then { s with chk.seq := v }
  else if o = 0x01C then { s with chk.csc := v }
  else if o = 0x020 then owned who 5 (chkData (leBytes 4 v.toNat)) s
  else if o = 0x024 then owned who 5 (chkData [BitVec.ofNat 8 v.toNat]) s
  else if o = 0x030 then { s with chk.addr := BitVec.ofNat 33 (s.chk.addr.toNat / 2 ^ 32 * 2 ^ 32 + v.toNat) }
  else if o = 0x034 then { s with chk.addr := BitVec.ofNat 33 (bitsOf v 0 0 * 2 ^ 32 + s.chk.addr.toNat % 2 ^ 32) }
  else if o = 0x038 then { s with chk.len := bitsOf v 26 0 }
  else s

/-- The PDB block (Table 10.6). -/
def writePdb (o : Nat) (v : Word) (s : State) : State :=
  if o = 0x000 then onBit v 8 pdbForceStop s
  else if o = 0x008 then { s with pdb.errStatus := w1c s.pdb.errStatus v.toNat }
  else if o = 0x00C then
    let m := BitVec.ofNat 9 v.toNat
    maskRaises 19 (s.pdb.errStatus &&& m &&& ~~~ s.pdb.errMask != 0) { s with pdb.errMask := m }
  else if o = 0x018 then canRecoverWrite (bitsOf v 1 0) s
  else s

/-- The REC block (Tables 14.6, 14.7). -/
def writeRec (who : Requester) (o : Nat) (v : Word) (s : State) : State :=
  if o = 0x000 then onBit v 8 recForceStop s
  else if o = 0x004 then { s with log.refusedBit := s.log.refusedBit && !bitOf v 28, log.lostBit := s.log.lostBit && !bitOf v 27 }
  else if o = 0x024 then trigWrite who v s
  else if o = 0x028 ∨ o = 0x02C then setReg (0x70000 + o) v s
  else if o = 0x030 then onBit v 8 (clearByRegister (bitsOf v 2 0)) s
  else if o = 0x034 then onBit v 0 clearAbort s
  else if o = 0x100 then cursorWrite v s
  else if o = 0x104 then { s with log.curSeq := v }
  else s

/-- The bits of IN_FAULT written as 1 clear (Table 15.4). -/
def inFaultClear (v : Word) (s : State) : State :=
  (List.range 16).foldl (fun s i =>
    if bitOf v i || bitOf v (16 + i) then
      let x := inSt s i
      let s := setIn i { x with overrange := x.overrange && !bitOf v i, fSwing := x.fSwing && !bitOf v (16 + i) } s
      followAll (inputFollows i s)
    else s) s

/-- The bits of OUT_FAULT written as 1 clear. -/
def outFaultClear (v : Word) (s : State) : State :=
  (List.range 8).foldl (fun s k =>
    if bitOf v k || bitOf v (8 + k) || bitOf v (16 + k) then
      let x := outSt s k
      setOut k { x with fTripped := x.fTripped && !bitOf v k, fOpen := x.fOpen && !bitOf v (8 + k),
                        fStuck := x.fStuck && !bitOf v (16 + k) } s
    else s) s

/-- The TLN block (Tables 15.4 to 15.6). -/
def writeTln (o : Nat) (v : Word) (s : State) : State :=
  if o = 0x000 then onBit v 8 doForceSafe (onBit v 9 doResume s)
  else if o = 0x008 then inFaultClear v s
  else if o = 0x00C then outFaultClear v s
  else if o = 0x010 then { s with tln.edgeStatus := w1c s.tln.edgeStatus v.toNat }
  else if o = 0x014 then
    let m := BitVec.ofNat 16 v.toNat
    maskRaises 14 (s.tln.edgeStatus &&& m &&& ~~~ s.tln.edgeMask != 0) { s with tln.edgeMask := m }
  else if o = 0x018 then setOutCmd (BitVec.ofNat 8 v.toNat) s
  else if o = 0x028 then onBit v 0 (fun s => { s with tln.overflow := false }) s
  else if 0x400 ≤ o ∧ o < 0x500 ∧ o % 32 = 0x14 then onBit v 0 (doTripClear ((o - 0x400) / 32)) s
  else s

/-- The rings of core c. -/
def setNic (c : Nat) (n : NicSt) (s : State) : State := { s with cpu.nics := tset s.cpu.nics c n }

/-- The rings of core c (R413); a write of NIC_TAIL that hands over descriptors is NIC_TAIL_WRITE. A size outside 16 to 4,096 leaves its
field as it is (log 219). -/
def writeNic (c o : Nat) (v : Word) (s : State) : State :=
  let n := nicSt s c
  let lo (x : BitVec 64) : BitVec 64 := BitVec.ofNat 64 (x.toNat / 2 ^ 32 * 2 ^ 32 + v.toNat)
  let hi (x : BitVec 64) : BitVec 64 := BitVec.ofNat 64 (v.toNat * 2 ^ 32 + x.toNat % 2 ^ 32)
  match o with
  | 0x00 => setNic c { n with txBase := lo n.txBase } s
  | 0x04 => setNic c { n with txBase := hi n.txBase } s
  | 0x08 => setNic c { n with rxBase := lo n.rxBase } s
  | 0x0C => setNic c { n with rxBase := hi n.rxBase } s
  | 0x10 =>
    let field (hi lo : Nat) : Word := if 16 ≤ bitsOf v hi lo ∧ bitsOf v hi lo ≤ 4096 then fieldAt lo 13 (bitsOf v hi lo) else fieldAt lo 13 (bitsOf n.size hi lo)
    setNic c { n with size := field 28 16 ||| field 12 0 } s
  | 0x14 => setNic c { n with tail := v &&& 0x1FFF1FFF } s
  | _ => s

/-- The CPU block (Table 16.7). -/
def writeCpu (o : Nat) (v : Word) (s : State) : State :=
  if o = 0x000 then onBit v 8 cpuForceStop s
  else if o = 0x00C then cpuCauseClear v s
  else if o = 0x010 then { s with cpu.irqMask := BitVec.ofNat 23 v.toNat }
  else if 0x100 ≤ o ∧ o < 0x200 then writeNic ((o - 0x100) / 32) ((o - 0x100) % 32) v s
  else s

/-- RELAY_STATUS (Table 2.14): the coil faults clear, and clearing a contact fault inserts the line again (R505). -/
def relayClear (v : Word) (s : State) : State :=
  let coil (l : Line) (s : State) : State := setLine l { lineSt s l with coilFault := false } s
  clearContacts ((if bitOf v 9 then [.a] else []) ++ (if bitOf v 11 then [.b] else [])) (onBit v 10 (coil .b) (onBit v 8 (coil .a) s))

/-- The SW block (Table 2.13), and the half-range registers of ports 17 to 19. -/
def writeSw (o : Nat) (v : Word) (s : State) : State :=
  if o = 0x010 then relayClear v s
  else if 0x100 ≤ o ∧ o < 0x400 ∧ 0xF0 ≤ o % 0x100 then writeHalf (17 + (o - 0x100) / 0x100) (o % 0x100 % 0x10 / 4) v s
  else s

/-- Every field that is not RWT, by its block (Table 19.3). -/
def writeFields (who : Requester) (a : Nat) (v : Word) (s : State) : State :=
  if a < 0x2000 then writeIdIrq a v s
  else if a < 0x3000 then writePwr (a - 0x2000) v s
  else if a < 0x4000 then writeHpl (a - 0x3000) v s
  else if a < 0x8000 then writeWak (a - 0x4000) v s
  else if a < 0x9000 then writeOdx (a - 0x8000) v s
  else if a < 0x10000 then writeTak (a - 0x9000) v s
  else if a < 0x21000 then writePrt ((a - 0x10000) / 0x1000) (a % 0x1000) v s
  else if a < 0x30000 then s
  else if a < 0x40000 then writeSch (a - 0x30000) v s
  else if a < 0x48000 then writeTim (a - 0x40000) v s
  else if a < 0x50000 then writeIna (a - 0x48000) v s
  else if a < 0x58000 then writeSpl who (a - 0x50000) v s
  else if a < 0x60000 then writeStm who (a - 0x58000) v s
  else if a < 0x68000 then writeChk who (a - 0x60000) v s
  else if a < 0x70000 then writePdb (a - 0x68000) v s
  else if a < 0x80000 then writeRec who (a - 0x70000) v s
  else if a < 0x90000 then writeTln (a - 0x80000) v s
  else if a < 0xA0000 then writeCpu (a - 0x90000) v s
  else if a < 0xB0000 then s
  else if a < 0xC0000 then writeSw (a - 0xB0000) v s
  else s

/-! ### The access (R408, R472 to R474) -/

/-- Offsets of the three byte arrays (R473). -/
def byteArray (a : Nat) : Bool :=
  decide (0x48400 ≤ a ∧ a < 0x48720) || decide (0x8400 ≤ a ∧ a < 0x8800) || decide (0x71000 ≤ a ∧ a < 0x72000)

/-- The places where a core may write (R408), and the pop registers of the functions that may be the cores' (R409, log 40). -/
def coreMayWrite (a : Nat) : Bool :=
  a / 0x10000 = 0x9 || a / 0x8000 = 0xC || [0x70024, 0x70028, 0x7002C, 0x58430, 0x5320C, 0x5841C].contains a
    || (decide (0x51000 ≤ a ∧ a < 0x52000) && (a % 64 = 0x20 || a % 64 = 0x24))

/-- The bytes of MBX_DATA whose enables are set. -/
def mbxDataWrite (o : Nat) (be : BitVec 4) (v : Word) (s : State) : State :=
  let put (t : Tab Byte) (i : Nat) : Tab Byte :=
    if be.getLsbD i then tset t (o + i) (BitVec.ofNat 8 (v.toNat / 256 ^ i)) else t
  { s with od.mbxData := (List.range 4).foldl put s.od.mbxData }

/-- A write of a whole register: its RWT fields, then its other fields. -/
def writeReg (who : Requester) (a : Nat) (v : Word) (s : State) : State := writeFields who a v (rwtWrite who (rwtFields a) v s)

/-- A write to BAR0 at a doubleword, with its byte enables. -/
def regWrite (who : Requester) (a : Nat) (be : BitVec 4) (v : Word) (s : State) : State :=
  if who = .core && !coreMayWrite a then coreDenied s
  else if byteArray a then (if a / 0x1000 = 8 then mbxDataWrite (a / 4 * 4 - 0x8400) be v s else s)
  else if !regExists (a / 4 * 4) then s
  else if a % 4 ≠ 0 || be ≠ 0xF then bump 0x40 s
  else writeReg who a v s

/-- REGISTER_WRITE (R6, R8, R472 to R474). -/
def execRegisterWrite (who : Requester) (a : BitVec 20) (be : BitVec 4) (v : Word) (s : State) : Ans :=
  if reaches s who then .next (regWrite who a.toNat be v s) else .next s

end Sys2Proof.Machine
end

