-- ==== Sys2Proof/Machine/CoreMap.lean ====
section
/-!
DEFINITION. Machine/CoreMap.lean: what the application cores see: the physical map of Table 16.1, the ACLINT and the PLIC, application DRAM,
the export area, the device registers and the splice apertures (R406 to R412).
-/
namespace Sys2Proof.Machine

/-- The areas of Table 16.1. -/
inductive CoreArea | aclint | plic | regs | dram | exports | aperture (bar4 : Bool)
deriving DecidableEq, Repr

/-- The area that n bytes at a physical address lie in, with their offset in it (R406). -/
def coreArea (s : State) (a n : Nat) : Option (CoreArea × Nat) :=
  let within (base size : Nat) : Bool := decide (base ≤ a ∧ a + n ≤ base + size)
  if within 0x02000000 0x10000 then some (.aclint, a - 0x02000000)
  else if within 0x0C000000 0x4000000 then some (.plic, a - 0x0C000000)
  else if within 0x10000000 0x100000 then some (.regs, a - 0x10000000)
  else if within 0x800000000 (appSize s * 2 ^ 20) then some (.dram, a - 0x800000000)
  else if within 0x1000000000 (cfg s 0x2704 0 * 2 ^ 20) then some (.exports, a - 0x1000000000)
  else if within 0x2000000000 0x10000000 then some (.aperture false, a - 0x2000000000)
  else if within 0x3000000000 0x40000000 then some (.aperture true, a - 0x3000000000)
  else none

/-! ### ACLINT: software interrupts and the machine timer (R406, R412). PRESUMED (log 216): the offsets are those of the RISC-V ACLINT in the
layout of the older CLINT. -/

/-- A hart's mtimecmp is written: its timer interrupt follows (R412). -/
def mtimecmpWrite (hart : Nat) (v : Instant) (s : State) : State :=
  { s with cpu.mtimecmp := tset s.cpu.mtimecmp hart v, cpu.timerIrq := putBit s.cpu.timerIrq hart (decide (v.toNat ≤ s.now.toNat)) }

/-- The eight bytes at an offset that is a multiple of 8. -/
def aclintRead (s : State) (o : Nat) : Nat :=
  let msip (h : Nat) : Nat := if s.cpu.swIrq.getLsbD h then 1 else 0
  if o < 0x20 then msip (o / 4) + 2 ^ 32 * msip (o / 4 + 1)
  else if 0x4000 ≤ o ∧ o < 0x4040 then (tget s.cpu.mtimecmp ((o - 0x4000) / 8) (BitVec.allOnes 64)).toNat
  else if o = 0xBFF8 then s.now.toNat
  else 0

/-- They are written: mtime is the Meridian instant, which no core sets. -/
def aclintWrite (o v : Nat) (s : State) : State :=
  if o < 0x20 then
    { s with cpu.swIrq := putBit (putBit s.cpu.swIrq (o / 4) (v.testBit 0)) (o / 4 + 1) (v.testBit 32) }
  else if 0x4000 ≤ o ∧ o < 0x4040 then mtimecmpWrite ((o - 0x4000) / 8) (BitVec.ofNat 64 v) s
  else s

/-- Bytes of an eight-byte number replaced from byte i on. -/
def spliceBytes (old i : Nat) (d : List Byte) : Nat :=
  leNat ((leBytes 8 old).take i ++ d ++ (leBytes 8 old).drop (i + d.length))

/-! ### PLIC (R406, R411). PRESUMED (log 216): the offsets are those of the RISC-V PLIC; context 2h is hart h in machine mode, 2h + 1 the same
hart in supervisor mode. -/

/-- The level of an interrupt source (R411): sources 1 to 23 follow CPU_IRQ_STATUS under its mask, source 24 + c the NIC ring of core c; the
others never assert. -/
def plicSource (s : State) (n : Nat) : Bool :=
  if 1 ≤ n ∧ n ≤ 23 then s.cpu.irqStatus.getLsbD (n - 1) && s.cpu.irqMask.getLsbD (n - 1)
  else if 24 ≤ n ∧ n ≤ 31 then (nicSt s (n - 24)).irq
  else false

/-- A source is pending: it asserts, and no context has claimed it. -/
def plicPending (s : State) (n : Nat) : Bool := plicSource s n && !s.cpu.claimed.contains n

def plicPriority (s : State) (n : Nat) : Nat := (tget s.cpu.plic (4 * n) 0).toNat

def plicEnabled (s : State) (ctx n : Nat) : Bool := (tget s.cpu.plic (0x2000 + 0x80 * ctx + n / 32 * 4) 0).getLsbD (n % 32)

/-- The pending source of a context with the highest priority, the lowest number first; 0 for none. -/
def plicBest (s : State) (ctx : Nat) : Nat :=
  (List.range 64).foldl (fun b n =>
    if plicPending s n && plicEnabled s ctx n && decide (plicPriority s b < plicPriority s n) then n else b) 0

/-- The external interrupt of a context. -/
def plicAsserts (s : State) (ctx : Nat) : Bool :=
  let b := plicBest s ctx
  b ≠ 0 && decide ((tget s.cpu.plic (0x200000 + 0x1000 * ctx) 0).toNat < plicPriority s b)

/-- A claim: the source is in service, and a ring's completions are taken with it (log 216). -/
def plicClaim (n : Nat) (s : State) : State :=
  if n = 0 then s
  else
    let s := { s with cpu.claimed := n :: s.cpu.claimed }
    if 24 ≤ n then setNic (n - 24) { nicSt s (n - 24) with irq := false } s else s

/-- The claim register of a context at an offset. -/
def claimCtx (o : Nat) : Option Nat := if 0x200000 ≤ o ∧ o < 0x210000 ∧ o % 0x1000 = 4 then some ((o - 0x200000) / 0x1000) else none

/-- A PLIC register is read: its word, and the state after. -/
def plicRead (o : Nat) (s : State) : Word × State :=
  match claimCtx o with
  | some ctx => (word (plicBest s ctx), plicClaim (plicBest s ctx) s)
  | none =>
    if o = 0x1000 ∨ o = 0x1004 then
      ((List.range 32).foldl (fun w j => w ||| flagAt j (plicPending s ((o - 0x1000) * 8 + j))) 0, s)
    else (tget s.cpu.plic o 0, s)

/-- The writable registers of the PLIC: priorities of sources 1 to 63, enables and thresholds of the 16 contexts. -/
def plicHolds (o : Nat) : Bool :=
  decide (4 ≤ o ∧ o < 0x100) || (decide (0x2000 ≤ o ∧ o < 0x2800) && decide (o % 0x80 < 8)) || (decide (0x200000 ≤ o ∧ o < 0x210000) && o % 0x1000 = 0)

/-- A PLIC register is written; a claim register takes the completion of a source. -/
def plicWrite (o : Nat) (v : Word) (s : State) : State :=
  if (claimCtx o).isSome then { s with cpu.claimed := s.cpu.claimed.filter (· ≠ v.toNat) }
  else if plicHolds o then { s with cpu.plic := tset s.cpu.plic o v }
  else s

/-! ### Device registers (R408, R409, R473, R475) -/

/-- The state after a command. -/
def after (s : State) : Ans → State
  | .next t => t
  | _ => s

/-- A core reads the register at a BAR0 offset: it gets the whole word, with the side effect the register states (R473, R475). -/
def regLoad (s : State) (a : Nat) : State :=
  if a = 0x5310C then after s (execDbValueRead .core s)
  else if a = 0x80024 then after s (execEvtTsRead .core s)
  else if 0x40200 ≤ a ∧ a < 0x40280 ∧ a % 32 = 8 then after s (execCapTsRead .core (Fin.ofNat 4 ((a - 0x40200) / 32)) s)
  else if a = 0x2018 then after s (execTempStatusRead .core s)
  else if 0x2100 ≤ a ∧ a < 0x2180 ∧ a % 16 = 4 then after s (execLoopStatusRead .core (Fin.ofNat 8 ((a - 0x2100) / 16)) s)
  else if 0x10000 ≤ a ∧ a < 0x14000 ∧ a % 0x1000 = 0x00C then after s (execEqStatusRead .core (Fin.ofNat 4 ((a - 0x10000) / 0x1000)) s)
  else emit (.readData .core a (regRead s a)) s

/-- The aligned registers that n bytes at an offset touch. -/
def dwords (o n : Nat) : List Nat := (List.range ((o + n - 1) / 4 + 1 - o / 4)).map (fun i => 4 * (o / 4 + i))

/-- What a store of d at offset o brings to the register at offset a: byte enables and word. -/
def storeWord (o : Nat) (d : List Byte) (a : Nat) : BitVec 4 × Word :=
  let has (i : Nat) : Bool := decide (o ≤ a + i ∧ a + i < o + d.length)
  (BitVec.ofNat 4 (bit 0 (has 0) + bit 1 (has 1) + bit 2 (has 2) + bit 3 (has 3)),
   word (leNat ((List.range 4).map (fun i => if has i then d.getD (a + i - o) 0 else 0))))

/-- A core accesses the device registers (R408): every block but 0xF_0000 is readable; an AMO, LR or SC is an access fault there (log 215). -/
def coreRegs (o : Nat) (x : CoreAccess) (s : State) : State :=
  match x with
  | .load n => if 0xF0000 ≤ o then emit .coreFault s else (dwords o n).foldl regLoad s
  | .store d => (dwords o d.length).foldl (fun s a => regWrite .core a (storeWord o d a).1 (storeWord o d a).2 s) s
  | _ => emit .coreFault s

/-! ### Memory -/

/-- An access to memory: the bytes it returns, and the memory after it. LR and SC are the ISA's own, which the spec does not describe. -/
def memAccess (m : List Host.Cell) (o : Nat) (x : CoreAccess) : List Byte × List Host.Cell :=
  match x with
  | .load n => (memRead m o n, m)
  | .store d => ([], memWrite m o d)
  | .amo op n v =>
    let old := memRead m o n
    (old, memWrite m o (leBytes n (atomicValue (amoNumber op) n (leNat old) (beBytes n v.toNat))))
  | .lrSc => ([], m)

/-- The data of an access reaches its hart. -/
def memAnswer (hart : Nat) (d : List Byte) (s : State) : State := if d.isEmpty then s else emit (.coreData hart d) s

/-- An access to application DRAM. -/
def dramAccess (hart o : Nat) (x : CoreAccess) (s : State) : State :=
  memAnswer hart (memAccess s.cpu.dram o x).1 { s with cpu.dram := (memAccess s.cpu.dram o x).2 }

/-- An access to the export area, the same memory that splice writes reach (R199). -/
def exportAccess (hart o : Nat) (x : CoreAccess) (s : State) : State :=
  memAnswer hart (memAccess s.spl.mem o x).1 { s with spl.mem := (memAccess s.spl.mem o x).2 }

/-- An access reads memory. -/
def accessReads : CoreAccess → Bool
  | .load _ => true
  | .amo _ _ _ => true
  | _ => false

/-- CORE_SPLICE_ACCESS (R406 to R410): an access of a hart at a physical address. Outside the map, in memory while D10 is off, of a size no
access has, or misaligned but for plain memory accesses, it is an access fault; so is an uncorrectable error in application DRAM. -/
def execCoreSpliceAccess (hart : Fin 8) (ecc : Bool) (a : BitVec 56) (x : CoreAccess) (s : State) : Ans :=
  let n := accessSize x
  if !domOn s .d8 || !s.cpu.running.getLsbD hart.val then .next s
  else if !coreSize n then .next (emit .coreFault s)
  else match coreArea s a.toNat n with
    | none => .next (emit .coreFault s)
    | some (.aperture bar4, o) => .next (coreAperture bar4 o n x s)
    | some (.regs, o) => if o % n ≠ 0 then .next (emit .coreFault s) else .next (coreRegs o x s)
    | some (.dram, o) =>
      if !domOn s .d10 then .next (emit .coreFault s)
      else if ecc && accessReads x then .next (emit .coreFault (bump 0x9004C s))
      else .next (dramAccess hart.val o x s)
    | some (.exports, o) =>
      if !domOn s .d10 then .next (emit .coreFault s) else .next (exportAccess hart.val o x s)
    | some (.aclint, o) =>
      match x with
      | .load n => if o % n ≠ 0 then .next (emit .coreFault s) else .next (memAnswer hart.val (((leBytes 8 (aclintRead s (o / 8 * 8))).drop (o % 8)).take n) s)
      | .store d => if o % n ≠ 0 then .next (emit .coreFault s) else .next (aclintWrite (o / 8 * 8) (spliceBytes (aclintRead s (o / 8 * 8)) (o % 8) d) s)
      | _ => .next (emit .coreFault s)
    | some (.plic, o) =>
      match x with
      | .load 4 => if o % 4 ≠ 0 then .next (emit .coreFault s) else .next (memAnswer hart.val (leBytes 4 (plicRead o s).1.toNat) (plicRead o s).2)
      | .store d => if n ≠ 4 || o % 4 ≠ 0 then .next (emit .coreFault s) else .next (plicWrite o (word (leNat d)) s)
      | _ => .next (emit .coreFault s)

end Sys2Proof.Machine
end

