-- ==== Sys2Proof/Machine/Dispatch.lean ====
section
/-!
DEFINITION. Machine/Dispatch.lean: one arm per command, each one direct call of its meaning.
-/
namespace Sys2Proof.Machine

/-- The effect of a command on everything but the queue. -/
def exec (i : Instr) (s : State) : Host.Outcome State Fault Refusal :=
  match i with
  | .registerWrite who a be v => Sys2Proof.Machine.execRegisterWrite who a be v s
  | .couplerSenseChange c m => Sys2Proof.Machine.execCouplerSenseChange c m s
  | .senseErrorPersist e => Sys2Proof.Machine.execSenseErrorPersist e s
  | .d0CouplerClose e => Sys2Proof.Machine.execD0CouplerClose e s
  | .commonFabricFault => Sys2Proof.Machine.execCommonFabricFault s
  | .planeRejoin l => Sys2Proof.Machine.execPlaneRejoin l s
  | .domainFault d => Sys2Proof.Machine.execDomainFault d s
  | .domainRetry d => Sys2Proof.Machine.execDomainRetry d s
  | .domFaultClear mask => Sys2Proof.Machine.execDomFaultClear mask s
  | .linkTrainingDone p mode ext native => Sys2Proof.Machine.execLinkTrainingDone p mode ext native s
  | .anAttemptTimeout p => Sys2Proof.Machine.execAnAttemptTimeout p s
  | .linkLost p phyFault energy => Sys2Proof.Machine.execLinkLost p phyFault energy s
  | .reacquisitionDone p => Sys2Proof.Machine.execReacquisitionDone p s
  | .reacquisitionTimeout p => Sys2Proof.Machine.execReacquisitionTimeout p s
  | .eqLoopSample p margin saturated => Sys2Proof.Machine.execEqLoopSample p margin saturated s
  | .marginLow p => Sys2Proof.Machine.execMarginLow p s
  | .linkRestart p => Sys2Proof.Machine.execLinkRestart p s
  | .loopCheckDone l ok => Sys2Proof.Machine.execLoopCheckDone l ok s
  | .insertionTimeout l => Sys2Proof.Machine.execInsertionTimeout l s
  | .relayStaggerExpiry => Sys2Proof.Machine.execRelayStaggerExpiry s
  | .singleLineInsert l => Sys2Proof.Machine.execSingleLineInsert l s
  | .relDoneTimer => Sys2Proof.Machine.execRelDoneTimer s
  | .relayDeferExpiry => Sys2Proof.Machine.execRelayDeferExpiry s
  | .deferredSwitchResume => Sys2Proof.Machine.execDeferredSwitchResume s
  | .linkLossClassify p => Sys2Proof.Machine.execLinkLossClassify p s
  | .contactFaultClear l => Sys2Proof.Machine.execContactFaultClear l s
  | .modeMaskLineBApply => Sys2Proof.Machine.execModeMaskLineBApply s
  | .macFrameReceive p f r => Sys2Proof.Machine.execMacFrameReceive p f r s
  | .dupTxSrcEvict m => Sys2Proof.Machine.execDupTxSrcEvict m s
  | .dupRxSrcForget m => Sys2Proof.Machine.execDupRxSrcForget m s
  | .supervisionFrameSend => Sys2Proof.Machine.execSupervisionFrameSend s
  | .dupDrained => Sys2Proof.Machine.execDupDrained s
  | .transmitUnderrun p => Sys2Proof.Machine.execTransmitUnderrun p s
  | .pauseReceive p time => Sys2Proof.Machine.execPauseReceive p time s
  | .pauseTimerExpiry p => Sys2Proof.Machine.execPauseTimerExpiry p s
  | .pauseRefreshTimer p => Sys2Proof.Machine.execPauseRefreshTimer p s
  | .pauseWatchdogExpiry p => Sys2Proof.Machine.execPauseWatchdogExpiry p s
  | .pauseWatchdogReset p => Sys2Proof.Machine.execPauseWatchdogReset p s
  | .wdIgnoringExpiry p => Sys2Proof.Machine.execWdIgnoringExpiry p s
  | .macForceStop p => Sys2Proof.Machine.execMacForceStop p s
  | .macDrained p tx => Sys2Proof.Machine.execMacDrained p tx s
  | .frameTransmitStart p q => Sys2Proof.Machine.execFrameTransmitStart p q s
  | .expressPreempt p q => Sys2Proof.Machine.execExpressPreempt p q s
  | .verifyMpacketReceive p => Sys2Proof.Machine.execVerifyMpacketReceive p s
  | .verifyRespondReceive p => Sys2Proof.Machine.execVerifyRespondReceive p s
  | .verifyTimer p => Sys2Proof.Machine.execVerifyTimer p s
  | .verifyRestart p => Sys2Proof.Machine.execVerifyRestart p s
  | .preemptTlvReceive p supported => Sys2Proof.Machine.execPreemptTlvReceive p supported s
  | .cutThroughIngressPreempt ingress o => Sys2Proof.Machine.execCutThroughIngressPreempt ingress o s
  | .gateEntryBoundary p => Sys2Proof.Machine.execGateEntryBoundary p s
  | .scheduleSwitch p => Sys2Proof.Machine.execScheduleSwitch p s
  | .neighbourSendTimer p => Sys2Proof.Machine.execNeighbourSendTimer p s
  | .neighbourReceive p n => Sys2Proof.Machine.execNeighbourReceive p n s
  | .neighbourPartnerTimeout p => Sys2Proof.Machine.execNeighbourPartnerTimeout p s
  | .ttdpHelloReceive p mac => Sys2Proof.Machine.execTtdpHelloReceive p mac s
  | .settleTimeExpiry => Sys2Proof.Machine.execSettleTimeExpiry s
  | .recordReceive r mac => Sys2Proof.Machine.execRecordReceive r mac s
  | .recordRefreshTimer => Sys2Proof.Machine.execRecordRefreshTimer s
  | .recordForget u => Sys2Proof.Machine.execRecordForget u s
  | .quietTimeExpiry => Sys2Proof.Machine.execQuietTimeExpiry s
  | .callSheetActivation => Sys2Proof.Machine.execCallSheetActivation s
  | .uncouplingWaitExpiry e => Sys2Proof.Machine.execUncouplingWaitExpiry e s
  | .joinWaitExpiry => Sys2Proof.Machine.execJoinWaitExpiry s
  | .joinRetryTimer => Sys2Proof.Machine.execJoinRetryTimer s
  | .inhibitWrite v => Sys2Proof.Machine.execInhibitWrite v s
  | .inaRestart via => Sys2Proof.Machine.execInaRestart via s
  | .reelWrap => Sys2Proof.Machine.execReelWrap s
  | .syncReceive p m => Sys2Proof.Machine.execSyncReceive p m s
  | .syncOriginate => Sys2Proof.Machine.execSyncOriginate s
  | .announceSend => Sys2Proof.Machine.execAnnounceSend s
  | .announceReceive p m => Sys2Proof.Machine.execAnnounceReceive p m s
  | .pdelayRequestTimer p => Sys2Proof.Machine.execPdelayRequestTimer p s
  | .pdelayResponseReceive p delay nrr => Sys2Proof.Machine.execPdelayResponseReceive p delay nrr s
  | .timeLineFail => Sys2Proof.Machine.execTimeLineFail s
  | .syncLossHoldover gmLost => Sys2Proof.Machine.execSyncLossHoldover gmLost s
  | .stepSuspectExpiry => Sys2Proof.Machine.execStepSuspectExpiry s
  | .holdEstimateUpdate => Sys2Proof.Machine.execHoldEstimateUpdate s
  | .slewDone => Sys2Proof.Machine.execSlewDone s
  | .pulseEdge k => Sys2Proof.Machine.execPulseEdge k s
  | .captureEdge k rising => Sys2Proof.Machine.execCaptureEdge k rising s
  | .capTsRead who k => Sys2Proof.Machine.execCapTsRead who k s
  | .hostApertureWrite bar4 a d => Sys2Proof.Machine.execHostApertureWrite bar4 a d s
  | .hostApertureRead bar4 a len => Sys2Proof.Machine.execHostApertureRead bar4 a len s
  | .hostAtomicOp bar4 a op wide operand compare => Sys2Proof.Machine.execHostAtomicOp bar4 a op wide operand compare s
  | .coreSpliceAccess hart ecc a x => Sys2Proof.Machine.execCoreSpliceAccess hart ecc a x s
  | .winDoorbellWrite who w v => Sys2Proof.Machine.execWinDoorbellWrite who w v s
  | .winSemAcquire who w => Sys2Proof.Machine.execWinSemAcquire who w s
  | .winSemRelease who w => Sys2Proof.Machine.execWinSemRelease who w s
  | .bulisFrameReceive port mac b agree ecc => Sys2Proof.Machine.execBulisFrameReceive port mac b agree ecc s
  | .bulisAckReceive b => Sys2Proof.Machine.execBulisAckReceive b s
  | .completionReceive b => Sys2Proof.Machine.execCompletionReceive b s
  | .bulisAckTimeout u stream q => Sys2Proof.Machine.execBulisAckTimeout u stream q s
  | .retryBudgetExpiry u stream q => Sys2Proof.Machine.execRetryBudgetExpiry u stream q s
  | .completionTimeout tag => Sys2Proof.Machine.execCompletionTimeout tag s
  | .semRetryTimer tag => Sys2Proof.Machine.execSemRetryTimer tag s
  | .semAcquireTimeout tag => Sys2Proof.Machine.execSemAcquireTimeout tag s
  | .semHoldLimit n => Sys2Proof.Machine.execSemHoldLimit n s
  | .prefetchLifetimeExpiry => Sys2Proof.Machine.execPrefetchLifetimeExpiry s
  | .completionRetentionExpiry u stream q => Sys2Proof.Machine.execCompletionRetentionExpiry u stream q s
  | .bulisRxForget u stream => Sys2Proof.Machine.execBulisRxForget u stream s
  | .spliceDrained x => Sys2Proof.Machine.execSpliceDrained x s
  | .cePop who => Sys2Proof.Machine.execCePop who s
  | .dbValueRead who => Sys2Proof.Machine.execDbValueRead who s
  | .stmFence who mask => Sys2Proof.Machine.execStmFence who mask s
  | .fenceFramesSend n => Sys2Proof.Machine.execFenceFramesSend n s
  | .pwfPop who => Sys2Proof.Machine.execPwfPop who s
  | .abortGo w => Sys2Proof.Machine.execAbortGo w s
  | .splForceDisable => Sys2Proof.Machine.execSplForceDisable s
  | .winForceDisable w => Sys2Proof.Machine.execWinForceDisable w s
  | .stmForceDisable n => Sys2Proof.Machine.execStmForceDisable n s
  | .chkStart who => Sys2Proof.Machine.execChkStart who s
  | .chkData who v => Sys2Proof.Machine.execChkData who v s
  | .chkData8 who b => Sys2Proof.Machine.execChkData8 who b s
  | .chkFinish who => Sys2Proof.Machine.execChkFinish who s
  | .chkGo who => Sys2Proof.Machine.execChkGo who s
  | .chkDescriptorDone eccError data => Sys2Proof.Machine.execChkDescriptorDone eccError data s
  | .chkDisable who => Sys2Proof.Machine.execChkDisable who s
  | .canFrameReceive c ext id kind d errs tec rec_ => Sys2Proof.Machine.execCanFrameReceive c ext id kind d errs tec rec_ s
  | .canBusOff c => Sys2Proof.Machine.execCanBusOff c s
  | .canBusOffRecovery c => Sys2Proof.Machine.execCanBusOffRecovery c s
  | .canRecover mask => Sys2Proof.Machine.execCanRecover mask s
  | .mvbPoll addr poll => Sys2Proof.Machine.execMvbPoll addr poll s
  | .mvbSinkReceive addr d bad => Sys2Proof.Machine.execMvbSinkReceive addr d bad s
  | .mvbSilence => Sys2Proof.Machine.execMvbSilence s
  | .sinkEmission kind n => Sys2Proof.Machine.execSinkEmission kind n s
  | .sourceStale n => Sys2Proof.Machine.execSourceStale n s
  | .pdFrameReceive b => Sys2Proof.Machine.execPdFrameReceive b s
  | .pdbForceStop => Sys2Proof.Machine.execPdbForceStop s
  | .pdbDrained => Sys2Proof.Machine.execPdbDrained s
  | .damRequestReceive port mac b => Sys2Proof.Machine.execDamRequestReceive port mac b s
  | .sdoRequestReceive c m => Sys2Proof.Machine.execSdoRequestReceive c m s
  | .sdoSegmentTimeout c => Sys2Proof.Machine.execSdoSegmentTimeout c s
  | .heartbeatProduce c => Sys2Proof.Machine.execHeartbeatProduce c s
  | .read n q => Sys2Proof.Machine.execRead n q s
  | .write n q => Sys2Proof.Machine.execWrite n q s
  | .slate n reqId => Sys2Proof.Machine.execSlate n reqId s
  | .print n reqId instant => Sys2Proof.Machine.execPrint n reqId instant s
  | .scrap n reqId => Sys2Proof.Machine.execScrap n reqId s
  | .close n reqId => Sys2Proof.Machine.execClose n reqId s
  | .challengeRead n reqId => Sys2Proof.Machine.execChallengeRead n reqId s
  | .levelRequest n reqId level => Sys2Proof.Machine.execLevelRequest n reqId level s
  | .responseWrite n reqId response => Sys2Proof.Machine.execResponseWrite n reqId response s
  | .keyWrite n reqId maintainer k => Sys2Proof.Machine.execKeyWrite n reqId maintainer k s
  | .storeParameters n reqId sub signature => Sys2Proof.Machine.execStoreParameters n reqId sub signature s
  | .storeDone ok => Sys2Proof.Machine.execStoreDone ok s
  | .restoreDefaults n reqId sub signature => Sys2Proof.Machine.execRestoreDefaults n reqId sub signature s
  | .sessionIdleExpiry n => Sys2Proof.Machine.execSessionIdleExpiry n s
  | .authLockExpiry n => Sys2Proof.Machine.execAuthLockExpiry n s
  | .snapshotExpiry n => Sys2Proof.Machine.execSnapshotExpiry n s
  | .reqIdExpiry n reqId => Sys2Proof.Machine.execReqIdExpiry n reqId s
  | .takeIdleExpiry => Sys2Proof.Machine.execTakeIdleExpiry s
  | .takeApply => Sys2Proof.Machine.execTakeApply s
  | .planeDomainsOff l => Sys2Proof.Machine.execPlaneDomainsOff l s
  | .takePrepareReceive src m => Sys2Proof.Machine.execTakePrepareReceive src m s
  | .takeVoteReceive src m => Sys2Proof.Machine.execTakeVoteReceive src m s
  | .takeVoteWindowExpiry slot => Sys2Proof.Machine.execTakeVoteWindowExpiry slot s
  | .takePrintRepeat slot => Sys2Proof.Machine.execTakePrintRepeat slot s
  | .takeScrapRepeat slot => Sys2Proof.Machine.execTakeScrapRepeat slot s
  | .takePrintReceive m => Sys2Proof.Machine.execTakePrintReceive m s
  | .takeScrapReceive m => Sys2Proof.Machine.execTakeScrapReceive m s
  | .takeDoubtTimer slot => Sys2Proof.Machine.execTakeDoubtTimer slot s
  | .takeQueryRepeat slot => Sys2Proof.Machine.execTakeQueryRepeat slot s
  | .takeQueryReceive src m => Sys2Proof.Machine.execTakeQueryReceive src m s
  | .takeReplyReceive print m => Sys2Proof.Machine.execTakeReplyReceive print m s
  | .takeDoubtExpiry slot => Sys2Proof.Machine.execTakeDoubtExpiry slot s
  | .takeOutcomeExpiry kind coord num => Sys2Proof.Machine.execTakeOutcomeExpiry kind coord num s
  | .ringStart => Sys2Proof.Machine.execRingStart s
  | .ringFrameReceive m => Sys2Proof.Machine.execRingFrameReceive m s
  | .ringTimeout => Sys2Proof.Machine.execRingTimeout s
  | .duskPrepareSend => Sys2Proof.Machine.execDuskPrepareSend s
  | .consentLost => Sys2Proof.Machine.execConsentLost s
  | .duskSecondLineRelease => Sys2Proof.Machine.execDuskSecondLineRelease s
  | .duskInstant => Sys2Proof.Machine.execDuskInstant s
  | .sleepReady => Sys2Proof.Machine.execSleepReady s
  | .forcedSleep => Sys2Proof.Machine.execForcedSleep s
  | .stayAwake => Sys2Proof.Machine.execStayAwake s
  | .consistIdleExpiry => Sys2Proof.Machine.execConsistIdleExpiry s
  | .consistSleep => Sys2Proof.Machine.execConsistSleep s
  | .consistWake p => Sys2Proof.Machine.execConsistWake p s
  | .wakeEvent cause src => Sys2Proof.Machine.execWakeEvent cause src s
  | .wakeTimerExpiry => Sys2Proof.Machine.execWakeTimerExpiry s
  | .wakePulseEnd => Sys2Proof.Machine.execWakePulseEnd s
  | .dawnDomainsOn levels => Sys2Proof.Machine.execDawnDomainsOn levels s
  | .d0WakeWatch level => Sys2Proof.Machine.execD0WakeWatch level s
  | .recTrigWrite via source sev data => Sys2Proof.Machine.execRecTrigWrite via source sev data s
  | .entryWriteStart => Sys2Proof.Machine.execEntryWriteStart s
  | .pageProgramDone ok => Sys2Proof.Machine.execPageProgramDone ok s
  | .markProgramDone => Sys2Proof.Machine.execMarkProgramDone s
  | .reclamation => Sys2Proof.Machine.execReclamation s
  | .lastWords => Sys2Proof.Machine.execLastWords s
  | .cursorFirst minSev page => Sys2Proof.Machine.execCursorFirst minSev page s
  | .cursorLast minSev page => Sys2Proof.Machine.execCursorLast minSev page s
  | .cursorNext minSev page => Sys2Proof.Machine.execCursorNext minSev page s
  | .cursorPrev minSev page => Sys2Proof.Machine.execCursorPrev minSev page s
  | .cursorSeek minSev page => Sys2Proof.Machine.execCursorSeek minSev page s
  | .cursorPage page => Sys2Proof.Machine.execCursorPage page s
  | .recorderClear via c => Sys2Proof.Machine.execRecorderClear via c s
  | .recAbort => Sys2Proof.Machine.execRecAbort s
  | .recForceStop => Sys2Proof.Machine.execRecForceStop s
  | .recDrained => Sys2Proof.Machine.execRecDrained s
  | .debounceRunComplete n above ts level => Sys2Proof.Machine.execDebounceRunComplete n above ts level s
  | .thresholdUpdate n whole samples => Sys2Proof.Machine.execThresholdUpdate n whole samples s
  | .swingLowTimer n recovered => Sys2Proof.Machine.execSwingLowTimer n recovered s
  | .inputOverrange n level => Sys2Proof.Machine.execInputOverrange n level s
  | .csOvervolt c => Sys2Proof.Machine.execCsOvervolt c s
  | .outputTrip k current => Sys2Proof.Machine.execOutputTrip k current s
  | .outputRetry k => Sys2Proof.Machine.execOutputRetry k s
  | .tripClear k => Sys2Proof.Machine.execTripClear k s
  | .openLoad k current => Sys2Proof.Machine.execOpenLoad k current s
  | .stuckOn k current => Sys2Proof.Machine.execStuckOn k current s
  | .outCmdWrite via v => Sys2Proof.Machine.execOutCmdWrite via v s
  | .followDelayExpiry k => Sys2Proof.Machine.execFollowDelayExpiry k s
  | .isoLinkLost => Sys2Proof.Machine.execIsoLinkLost s
  | .isoLinkReturn => Sys2Proof.Machine.execIsoLinkReturn s
  | .forceSafe => Sys2Proof.Machine.execForceSafe s
  | .resume => Sys2Proof.Machine.execResume s
  | .evtTsRead who => Sys2Proof.Machine.execEvtTsRead who s
  | .mtimecmpMatch hart cmp => Sys2Proof.Machine.execMtimecmpMatch hart cmp s
  | .nicTailWrite core tail rx tx => Sys2Proof.Machine.execNicTailWrite core tail rx tx s
  | .pairMismatch pair fail0 fail1 => Sys2Proof.Machine.execPairMismatch pair fail0 fail1 s
  | .pairSelfCheck pair member ok => Sys2Proof.Machine.execPairSelfCheck pair member ok s
  | .firmwareVerified active other => Sys2Proof.Machine.execFirmwareVerified active other s
  | .firmwareImageWrite n reqId image check => Sys2Proof.Machine.execFirmwareImageWrite n reqId image check s
  | .slotActivate n reqId => Sys2Proof.Machine.execSlotActivate n reqId s
  | .appKeyEnrol n reqId k => Sys2Proof.Machine.execAppKeyEnrol n reqId k s
  | .appImageVerified ok => Sys2Proof.Machine.execAppImageVerified ok s
  | .mkaFrameReceive p x => Sys2Proof.Machine.execMkaFrameReceive p x s
  | .cakWrite n reqId p k => Sys2Proof.Machine.execCakWrite n reqId p k s
  | .rekeyTrigger p => Sys2Proof.Machine.execRekeyTrigger p s
  | .pnExhausted p => Sys2Proof.Machine.execPnExhausted p s
  | .mkaLifetimeExpiry p => Sys2Proof.Machine.execMkaLifetimeExpiry p s
  | .cpuForceStop who => Sys2Proof.Machine.execCpuForceStop who s
  | .cpuDrained => Sys2Proof.Machine.execCpuDrained s
  | .holdupSwitchClose m => Sys2Proof.Machine.execHoldupSwitchClose m s
  | .holdupSwitchOpen m => Sys2Proof.Machine.execHoldupSwitchOpen m s
  | .bankOk m => Sys2Proof.Machine.execBankOk m s
  | .holdupLow m => Sys2Proof.Machine.execHoldupLow m s
  | .busLow m => Sys2Proof.Machine.execBusLow m s
  | .sagBegin input bus m => Sys2Proof.Machine.execSagBegin input bus m s
  | .sagEnd m => Sys2Proof.Machine.execSagEnd m s
  | .loopUpdate k occ completions floorV => Sys2Proof.Machine.execLoopUpdate k occ completions floorV s
  | .loopSaturation k => Sys2Proof.Machine.execLoopSaturation k s
  | .loopSatLong k => Sys2Proof.Machine.execLoopSatLong k s
  | .tempExcursion t => Sys2Proof.Machine.execTempExcursion t s
  | .thermalFault t => Sys2Proof.Machine.execThermalFault t s
  | .powerOn handleLocked => Sys2Proof.Machine.execPowerOn handleLocked s
  | .busInRange => Sys2Proof.Machine.execBusInRange s
  | .poweronDawn => Sys2Proof.Machine.execPoweronDawn s
  | .nodeReset c => Sys2Proof.Machine.execNodeReset c s
  | .ejectOpen => Sys2Proof.Machine.execEjectOpen s
  | .exitReq k => Sys2Proof.Machine.execExitReq k s
  | .exitRequestObject n reqId => Sys2Proof.Machine.execExitRequestObject n reqId s
  | .seatedOpen hv => Sys2Proof.Machine.execSeatedOpen hv s
  | .exitReleaseStart => Sys2Proof.Machine.execExitReleaseStart s
  | .recorderDrainLimit => Sys2Proof.Machine.execRecorderDrainLimit s
  | .hostDone => Sys2Proof.Machine.execHostDone s
  | .hostHoldExpiry => Sys2Proof.Machine.execHostHoldExpiry s
  | .exitCancel => Sys2Proof.Machine.execExitCancel s
  | .nodeResetRequest k => Sys2Proof.Machine.execNodeResetRequest k s
  | .nodeResetObject n reqId => Sys2Proof.Machine.execNodeResetObject n reqId s
  | .faultRecoveryExpiry => Sys2Proof.Machine.execFaultRecoveryExpiry s
  | .pair0WatchdogExpiry => Sys2Proof.Machine.execPair0WatchdogExpiry s
  | .pcieReset => Sys2Proof.Machine.execPcieReset s
  | .endpointReady => Sys2Proof.Machine.execEndpointReady s
  | .busMasterEnable on toD0 => Sys2Proof.Machine.execBusMasterEnable on toD0 s
  | .irqCauseClear mask => Sys2Proof.Machine.execIrqCauseClear mask s
  | .irqMaskWrite v => Sys2Proof.Machine.execIrqMaskWrite v s
  | .irqVecWrite b v => Sys2Proof.Machine.execIrqVecWrite b v s
  | .lampTestEnd => Sys2Proof.Machine.execLampTestEnd s
  | .relayCoilFault l => Sys2Proof.Machine.execRelayCoilFault l s
  | .d0SupplyLost => Sys2Proof.Machine.execD0SupplyLost s
  | .thermalResetCooled t => Sys2Proof.Machine.execThermalResetCooled t s
  | .consistSyncSend p => Sys2Proof.Machine.execConsistSyncSend p s
  | .mkaHelloSend => Sys2Proof.Machine.execMkaHelloSend s
  | .ttdpHelloSend p => Sys2Proof.Machine.execTtdpHelloSend p s
  | .ttdpTopologyReceive etb numbering => Sys2Proof.Machine.execTtdpTopologyReceive etb numbering s
  | .d3hotEntry => Sys2Proof.Machine.execD3hotEntry s
  | .msixEnable on funcMask => Sys2Proof.Machine.execMsixEnable on funcMask s
  | .ejectClose => Sys2Proof.Machine.execEjectClose s
  | .opTimeReelTick => Sys2Proof.Machine.execOpTimeReelTick s
  | .eqStatusRead who p => Sys2Proof.Machine.execEqStatusRead who p s
  | .tempStatusRead who => Sys2Proof.Machine.execTempStatusRead who s
  | .loopStatusRead who k => Sys2Proof.Machine.execLoopStatusRead who k s
  | .domainOffDrainTimeout d => Sys2Proof.Machine.execDomainOffDrainTimeout d s

end Sys2Proof.Machine
end

