-- ==== Sys2Proof/Safety.lean ====
section
/-!
DEFINITION. Safety.lean: what counts as a safe run of the block: the bounds every reachable state keeps, and the frame of a command,
the parts of the state it may change; when a session's request executes at once.
-/
namespace Sys2Proof.Machine

/-- The logs and FIFOs of the block stay within the sizes the spec gives them, and the export area's bytes and those of application DRAM are in canonical form: the
posted-failure log (R249) and the completion-error log (R236) hold at most 64 entries, the doorbell FIFO 256 (R207), the
prefetch-discard log 32 (R257), the recorder's trigger queue 64 (R374), the edge FIFO 64 (R402), and each capture FIFO
16 (R188). -/
structure Inv (s : State) : Prop where
  mem : Memory.wf s.spl.mem = true
  apps : Memory.wf s.cpu.dram = true
  failures : s.spl.pwf.length ≤ 64
  completionErrors : s.spl.ce.length ≤ 64
  doorbells : s.spl.db.length ≤ 256
  discards : s.spl.pdlHead < 32
  triggers : s.log.queue.length ≤ 64
  changes : s.tln.fifo.length ≤ 64
  captures : ∀ e ∈ s.tim.caps, e.2.fifo.length ≤ 16

/-- The parts of the state that a command may change; `now` stands for local time with the part of a tick it holds. The queue of
waiting commands and the identity of the module are not among them: no command changes those. -/
inductive Blk
  | now | up | free | out | node | fwVersion | reg | irq | pwr | hpl | log | od | tak | wak | tln | bb | net | ina | tim | spl | chk
  | pdb | cpu
deriving DecidableEq, Repr

/-- The frame of a command that may change the parts k, and nothing else: t is s but for them. What it puts on its connectors is added
behind what it put there before, and time does not run back. -/
structure OnlyChanges (k : List Blk) (s t : State) : Prop where
  pending : t.pending = s.pending
  uid : t.uid = s.uid
  baseMac : t.baseMac = s.baseMac
  serial : t.serial = s.serial
  hwRev : t.hwRev = s.hwRev
  later : s.up ≤ t.up
  used : s.free ≤ t.free
  sent : s.out <+: t.out
  now : .now ∈ k ∨ t.now = s.now
  up : .up ∈ k ∨ t.up = s.up
  frac : .now ∈ k ∨ t.frac = s.frac
  free : .free ∈ k ∨ t.free = s.free
  out : .out ∈ k ∨ t.out = s.out
  node : .node ∈ k ∨ t.node = s.node
  fwVersion : .fwVersion ∈ k ∨ t.fwVersion = s.fwVersion
  reg : .reg ∈ k ∨ t.reg = s.reg
  irq : .irq ∈ k ∨ t.irq = s.irq
  pwr : .pwr ∈ k ∨ t.pwr = s.pwr
  hpl : .hpl ∈ k ∨ t.hpl = s.hpl
  log : .log ∈ k ∨ t.log = s.log
  od : .od ∈ k ∨ t.od = s.od
  tak : .tak ∈ k ∨ t.tak = s.tak
  wak : .wak ∈ k ∨ t.wak = s.wak
  tln : .tln ∈ k ∨ t.tln = s.tln
  bb : .bb ∈ k ∨ t.bb = s.bb
  net : .net ∈ k ∨ t.net = s.net
  ina : .ina ∈ k ∨ t.ina = s.ina
  tim : .tim ∈ k ∨ t.tim = s.tim
  spl : .spl ∈ k ∨ t.spl = s.spl
  chk : .chk ∈ k ∨ t.chk = s.chk
  pdb : .pdb ∈ k ∨ t.pdb = s.pdb
  cpu : .cpu ∈ k ∨ t.cpu = s.cpu

/-- Every part. -/
def Blk.all : List Blk :=
  [.now, .up, .free, .out, .node, .fwVersion, .reg, .irq, .pwr, .hpl, .log, .od, .tak, .wak, .tln, .bb, .net, .ina, .tim, .spl, .chk,
   .pdb, .cpu]

/-- Every part but some. -/
def Blk.allBut (l : List Blk) : List Blk := Blk.all.filter (fun b => !l.contains b)

/-- The parts that each command may change, at most: what it acts on, what its effect reports through (registers that count, interrupt
causes, recorder triggers, frames sent), and what a power domain it switches takes with it. -/
def frameOf : Instr → List Blk
  | .registerWrite .. => Blk.all
  | .couplerSenseChange .. => Blk.allBut [.now, .up, .fwVersion, .pwr, .hpl, .od, .tak, .chk, .pdb]
  | .senseErrorPersist .. => [.now, .up, .out, .reg, .irq, .log, .ina, .cpu]
  | .d0CouplerClose .. => Blk.allBut [.now, .up, .fwVersion]
  | .commonFabricFault => Blk.allBut [.now, .up, .fwVersion]
  | .planeRejoin .. => Blk.allBut [.fwVersion, .hpl, .od, .tak, .tln, .chk, .pdb]
  | .domainFault .. => Blk.all
  | .domainRetry .. => Blk.allBut [.fwVersion, .hpl]
  | .domFaultClear .. => Blk.allBut [.now, .up, .fwVersion, .hpl]
  | .linkTrainingDone .. => [.free, .out, .node, .reg, .irq, .log, .wak, .bb, .net, .ina, .tim, .spl, .cpu]
  | .anAttemptTimeout .. => [.now, .up, .out, .reg, .irq, .log, .bb, .cpu]
  | .linkLost .. => [.free, .out, .node, .reg, .irq, .log, .wak, .bb, .net, .ina, .tim, .spl, .cpu]
  | .reacquisitionDone .. => [.free, .out, .node, .reg, .irq, .log, .wak, .bb, .net, .ina, .tim, .spl, .cpu]
  | .reacquisitionTimeout .. => [.now, .up, .out, .reg, .irq, .log, .bb, .cpu]
  | .eqLoopSample .. => [.bb]
  | .marginLow .. => [.now, .up, .out, .reg, .irq, .log, .bb, .cpu]
  | .linkRestart .. => [.free, .out, .node, .reg, .irq, .log, .wak, .bb, .net, .ina, .tim, .spl, .cpu]
  | .loopCheckDone .. => [.free, .out, .node, .reg, .irq, .log, .wak, .bb, .net, .ina, .tim, .spl, .cpu]
  | .insertionTimeout .. => Blk.allBut [.fwVersion, .pwr, .hpl, .od, .tak, .tln, .chk, .pdb]
  | .relayStaggerExpiry => Blk.allBut [.fwVersion, .pwr, .hpl, .od, .tak, .tln, .chk, .pdb]
  | .singleLineInsert .. => Blk.allBut [.fwVersion, .pwr, .hpl, .od, .tak, .tln, .chk, .pdb]
  | .relDoneTimer => Blk.all
  | .relayDeferExpiry => Blk.allBut [.fwVersion, .pwr, .hpl, .od, .tak, .tln, .chk, .pdb]
  | .deferredSwitchResume => Blk.allBut [.fwVersion, .pwr, .hpl, .od, .tak, .tln, .chk, .pdb]
  | .linkLossClassify .. => [.now, .up, .free, .out, .node, .reg, .irq, .log, .bb, .net, .ina, .spl, .cpu]
  | .contactFaultClear .. => [.free, .out, .node, .reg, .irq, .log, .wak, .bb, .net, .ina, .tim, .spl, .cpu]
  | .modeMaskLineBApply => Blk.allBut [.fwVersion, .pwr, .hpl, .od, .tak, .tln, .chk, .pdb]
  | .macFrameReceive .. => [.now, .up, .free, .out, .reg, .irq, .log, .wak, .net, .cpu]
  | .dupTxSrcEvict .. => [.now, .up, .out, .reg, .irq, .log, .net, .cpu]
  | .dupRxSrcForget .. => [.now, .up, .out, .reg, .irq, .log, .net, .cpu]
  | .supervisionFrameSend => [.now, .up, .free, .out, .reg, .irq, .log, .net, .cpu]
  | .dupDrained => [.net]
  | .transmitUnderrun .. => [.out, .reg, .irq, .net, .cpu]
  | .pauseReceive .. => [.now, .up, .free, .out, .reg, .irq, .log, .wak, .net, .cpu]
  | .pauseTimerExpiry .. => [.now, .up, .out, .reg, .irq, .log, .net, .cpu]
  | .pauseRefreshTimer .. => [.now, .up, .out, .reg, .irq, .log, .net, .cpu]
  | .pauseWatchdogExpiry .. => [.now, .up, .out, .reg, .irq, .log, .net, .cpu]
  | .pauseWatchdogReset .. => [.now, .up, .out, .reg, .irq, .log, .net, .cpu]
  | .wdIgnoringExpiry .. => [.now, .up, .out, .reg, .irq, .log, .net, .cpu]
  | .macForceStop .. => [.out, .reg, .irq, .od, .net, .cpu]
  | .macDrained .. => [.now, .up, .out, .reg, .irq, .log, .net, .cpu]
  | .frameTransmitStart .. => [.now, .up, .out, .reg, .irq, .log, .net, .cpu]
  | .expressPreempt .. => [.now, .up, .out, .reg, .irq, .log, .net, .cpu]
  | .verifyMpacketReceive .. => [.out]
  | .verifyRespondReceive .. => [.net]
  | .verifyTimer .. => [.now, .up, .out, .reg, .irq, .log, .net, .cpu]
  | .verifyRestart .. => [.out, .net]
  | .preemptTlvReceive .. => [.out, .reg, .irq, .log, .net, .cpu]
  | .cutThroughIngressPreempt .. => [.now, .up, .out, .reg, .irq, .log, .net, .cpu]
  | .gateEntryBoundary .. => [.now, .up, .out, .reg, .irq, .log, .net, .cpu]
  | .scheduleSwitch .. => [.now, .up, .out, .reg, .irq, .log, .net, .cpu]
  | .neighbourSendTimer .. => [.now, .up, .free, .out, .node, .reg, .irq, .log, .net, .ina, .spl, .cpu]
  | .neighbourReceive .. => [.free, .out, .node, .reg, .irq, .net, .ina, .tim, .spl, .cpu]
  | .neighbourPartnerTimeout .. => [.now, .up, .free, .out, .node, .reg, .irq, .log, .net, .ina, .spl, .cpu]
  | .ttdpHelloReceive .. => [.now, .up, .free, .out, .node, .reg, .irq, .log, .net, .ina, .spl, .cpu]
  | .settleTimeExpiry => [.now, .up, .free, .out, .node, .reg, .irq, .log, .net, .ina, .spl, .cpu]
  | .recordReceive .. => [.free, .out, .node, .reg, .irq, .net, .ina, .spl, .cpu]
  | .recordRefreshTimer => [.now, .up, .free, .out, .reg, .irq, .log, .net, .ina, .spl, .cpu]
  | .recordForget .. => [.now, .up, .free, .out, .node, .reg, .irq, .log, .net, .ina, .spl, .cpu]
  | .quietTimeExpiry => Blk.allBut [.fwVersion]
  | .callSheetActivation => Blk.allBut [.fwVersion]
  | .uncouplingWaitExpiry .. => [.now, .up, .free, .out, .node, .reg, .irq, .log, .net, .ina, .spl, .cpu]
  | .joinWaitExpiry => Blk.allBut [.fwVersion]
  | .joinRetryTimer => Blk.allBut [.fwVersion, .pwr, .hpl, .od, .tak, .tln, .chk, .pdb]
  | .inhibitWrite .. => [.free, .out, .node, .reg, .irq, .net, .ina, .spl, .cpu]
  | .inaRestart .. => Blk.all
  | .reelWrap => [.now, .up, .out, .reg, .irq, .log, .cpu]
  | .syncReceive .. => Blk.allBut [.fwVersion]
  | .syncOriginate => [.now, .up, .out, .reg, .irq, .log, .net, .tim, .cpu]
  | .announceSend => [.now, .up, .out, .reg, .irq, .log, .net, .tim, .cpu]
  | .announceReceive .. => [.out, .reg, .irq, .log, .net, .tim, .cpu]
  | .pdelayRequestTimer .. => [.now, .up, .out, .reg, .irq, .log, .net, .tim, .cpu]
  | .pdelayResponseReceive .. => [.tim]
  | .timeLineFail => [.now, .up, .out, .reg, .irq, .log, .tim, .cpu]
  | .syncLossHoldover .. => [.now, .up, .out, .reg, .irq, .log, .tim, .cpu]
  | .stepSuspectExpiry => Blk.allBut [.fwVersion]
  | .holdEstimateUpdate => [.now, .up, .out, .reg, .irq, .log, .tim, .cpu]
  | .slewDone => [.now, .up, .out, .reg, .irq, .log, .tim, .cpu]
  | .pulseEdge .. => [.now, .up, .out, .reg, .irq, .log, .tim, .cpu]
  | .captureEdge .. => [.out, .reg, .irq, .tim, .cpu]
  | .capTsRead .. => [.out, .reg, .tim]
  | .hostApertureWrite .. => [.free, .out, .reg, .irq, .net, .spl, .cpu]
  | .hostApertureRead .. => [.free, .out, .reg, .irq, .net, .spl, .cpu]
  | .hostAtomicOp .. => [.free, .out, .reg, .irq, .net, .spl, .cpu]
  | .coreSpliceAccess .. => Blk.all
  | .winDoorbellWrite .. => [.free, .out, .reg, .irq, .net, .spl, .cpu]
  | .winSemAcquire .. => [.free, .out, .reg, .irq, .net, .spl, .cpu]
  | .winSemRelease .. => [.free, .out, .reg, .irq, .net, .spl, .cpu]
  | .bulisFrameReceive .. => Blk.allBut [.fwVersion]
  | .bulisAckReceive .. => [.free, .out, .reg, .irq, .net, .spl, .cpu]
  | .completionReceive .. => [.free, .out, .reg, .irq, .net, .spl, .cpu]
  | .bulisAckTimeout .. => [.now, .up, .free, .out, .reg, .irq, .log, .net, .spl, .cpu]
  | .retryBudgetExpiry .. => [.now, .up, .free, .out, .reg, .irq, .log, .wak, .net, .spl, .cpu]
  | .completionTimeout .. => [.now, .up, .free, .out, .reg, .irq, .log, .net, .spl, .cpu]
  | .semRetryTimer .. => [.now, .up, .free, .out, .reg, .irq, .log, .net, .spl, .cpu]
  | .semAcquireTimeout .. => [.now, .up, .free, .out, .reg, .irq, .log, .net, .spl, .cpu]
  | .semHoldLimit .. => [.now, .up, .out, .reg, .irq, .log, .spl, .cpu]
  | .prefetchLifetimeExpiry => [.now, .up, .out, .reg, .irq, .log, .spl, .cpu]
  | .completionRetentionExpiry .. => [.now, .up, .out, .reg, .irq, .log, .spl, .cpu]
  | .bulisRxForget .. => [.now, .up, .out, .reg, .irq, .log, .spl, .cpu]
  | .spliceDrained .. => Blk.allBut [.now, .up, .fwVersion, .hpl]
  | .cePop .. => [.reg, .spl]
  | .dbValueRead .. => [.out, .reg, .spl]
  | .stmFence .. => [.free, .out, .reg, .irq, .net, .spl, .cpu]
  | .fenceFramesSend .. => [.free, .out, .reg, .irq, .net, .spl, .cpu]
  | .pwfPop .. => [.reg, .spl]
  | .abortGo .. => [.free, .out, .reg, .irq, .net, .spl, .cpu]
  | .splForceDisable => [.free, .out, .reg, .irq, .od, .net, .spl, .cpu]
  | .winForceDisable .. => [.free, .out, .reg, .irq, .od, .net, .spl, .cpu]
  | .stmForceDisable .. => [.free, .out, .reg, .irq, .od, .net, .spl, .cpu]
  | .chkStart .. => [.reg, .chk]
  | .chkData .. => [.reg, .chk]
  | .chkData8 .. => [.reg, .chk]
  | .chkFinish .. => [.out, .reg, .irq, .chk, .cpu]
  | .chkGo .. => [.reg, .chk]
  | .chkDescriptorDone .. => [.out, .reg, .irq, .chk, .cpu]
  | .chkDisable .. => [.reg, .chk]
  | .canFrameReceive .. => [.out, .reg, .irq, .pdb, .cpu]
  | .canBusOff .. => [.free, .out, .reg, .irq, .log, .pdb, .cpu]
  | .canBusOffRecovery .. => [.free, .pdb]
  | .canRecover .. => [.free, .pdb]
  | .mvbPoll .. => [.free, .out, .reg, .irq, .pdb, .cpu]
  | .mvbSinkReceive .. => [.out, .reg, .irq, .pdb, .cpu]
  | .mvbSilence => [.now, .up, .free, .out, .reg, .irq, .log, .pdb, .cpu]
  | .sinkEmission .. => [.now, .up, .free, .out, .reg, .irq, .log, .net, .pdb, .cpu]
  | .sourceStale .. => [.now, .up, .out, .reg, .irq, .log, .pdb, .cpu]
  | .pdFrameReceive .. => [.out, .reg, .irq, .pdb, .cpu]
  | .pdbForceStop => [.free, .out, .reg, .irq, .od, .net, .pdb, .cpu]
  | .pdbDrained => [.now, .up, .free, .out, .reg, .irq, .log, .net, .pdb, .cpu]
  | .damRequestReceive .. => Blk.allBut [.fwVersion]
  | .sdoRequestReceive .. => Blk.all
  | .sdoSegmentTimeout .. => [.now, .up, .free, .out, .reg, .irq, .log, .od, .net, .spl, .pdb, .cpu]
  | .heartbeatProduce .. => [.now, .up, .free, .out, .reg, .irq, .log, .od, .pdb, .cpu]
  | .read .. => Blk.all
  | .write .. => Blk.all
  | .slate .. => Blk.all
  | .print .. => Blk.all
  | .scrap .. => Blk.all
  | .close .. => Blk.all
  | .challengeRead .. => Blk.all
  | .levelRequest .. => Blk.all
  | .responseWrite .. => Blk.all
  | .keyWrite .. => Blk.all
  | .storeParameters .. => Blk.all
  | .storeDone .. => [.free, .out, .reg, .irq, .od, .net, .spl, .pdb, .cpu]
  | .restoreDefaults .. => Blk.all
  | .sessionIdleExpiry .. => [.now, .up, .out, .reg, .irq, .log, .od, .cpu]
  | .authLockExpiry .. => [.now, .up, .out, .reg, .irq, .log, .od, .cpu]
  | .snapshotExpiry .. => [.now, .up, .out, .reg, .irq, .log, .od, .cpu]
  | .reqIdExpiry .. => [.now, .up, .out, .reg, .irq, .log, .od, .cpu]
  | .takeIdleExpiry => [.now, .up, .free, .out, .reg, .irq, .log, .od, .tak, .net, .spl, .pdb, .cpu]
  | .takeApply => Blk.allBut [.fwVersion, .hpl]
  | .planeDomainsOff .. => Blk.allBut [.now, .up, .fwVersion, .hpl]
  | .takePrepareReceive .. => [.free, .out, .reg, .irq, .od, .tak, .net, .ina, .spl, .pdb, .cpu]
  | .takeVoteReceive .. => Blk.allBut [.now, .up, .fwVersion, .pwr, .hpl, .tln, .bb, .tim, .chk]
  | .takeVoteWindowExpiry .. => Blk.allBut [.node, .fwVersion, .pwr, .hpl, .tln, .bb, .tim, .chk]
  | .takePrintRepeat .. => [.now, .up, .free, .out, .reg, .irq, .log, .tak, .net, .spl, .cpu]
  | .takeScrapRepeat .. => [.now, .up, .free, .out, .reg, .irq, .log, .tak, .net, .spl, .cpu]
  | .takePrintReceive .. => Blk.allBut [.now, .up, .fwVersion, .hpl]
  | .takeScrapReceive .. => [.free, .out, .reg, .irq, .log, .od, .tak, .wak, .net, .ina, .spl, .pdb, .cpu]
  | .takeDoubtTimer .. => [.now, .up, .free, .out, .reg, .irq, .log, .tak, .net, .spl, .cpu]
  | .takeQueryRepeat .. => [.now, .up, .free, .out, .reg, .irq, .log, .tak, .net, .spl, .cpu]
  | .takeQueryReceive .. => [.free, .out, .reg, .irq, .tak, .net, .spl, .cpu]
  | .takeReplyReceive .. => Blk.allBut [.fwVersion]
  | .takeDoubtExpiry .. => Blk.allBut [.node, .fwVersion, .pwr, .hpl, .tln, .bb, .tim, .chk]
  | .takeOutcomeExpiry .. => [.now, .up, .out, .reg, .irq, .log, .tak, .cpu]
  | .ringStart => [.now, .up, .free, .out, .reg, .irq, .log, .wak, .net, .spl, .cpu]
  | .ringFrameReceive .. => [.free, .out, .reg, .irq, .wak, .net, .spl, .cpu]
  | .ringTimeout => [.now, .up, .out, .reg, .irq, .log, .wak, .cpu]
  | .duskPrepareSend => Blk.allBut [.fwVersion, .pwr, .hpl, .tln, .bb, .tim, .chk]
  | .consentLost => [.free, .out, .reg, .irq, .log, .tak, .wak, .net, .ina, .spl, .cpu]
  | .duskSecondLineRelease => Blk.allBut [.fwVersion, .pwr, .hpl, .od, .tak, .tln, .chk, .pdb]
  | .duskInstant => Blk.allBut [.fwVersion, .hpl]
  | .sleepReady => Blk.allBut [.fwVersion]
  | .forcedSleep => Blk.allBut [.fwVersion]
  | .stayAwake => [.out, .reg, .irq, .wak, .bb, .cpu]
  | .consistIdleExpiry => [.now, .up, .out, .reg, .irq, .log, .wak, .cpu]
  | .consistSleep => Blk.allBut [.fwVersion, .pwr, .hpl, .od, .tak, .tln, .chk, .pdb]
  | .consistWake .. => [.out, .reg, .irq, .wak, .bb, .cpu]
  | .wakeEvent .. => Blk.allBut [.now, .up, .fwVersion]
  | .wakeTimerExpiry => Blk.allBut [.fwVersion]
  | .wakePulseEnd => [.now, .up, .out, .reg, .irq, .log, .wak, .tln, .cpu]
  | .dawnDomainsOn .. => Blk.allBut [.now, .up, .fwVersion]
  | .d0WakeWatch .. => Blk.allBut [.now, .up, .fwVersion]
  | .recTrigWrite .. => Blk.all
  | .entryWriteStart => [.out, .reg, .irq, .log, .cpu]
  | .pageProgramDone .. => [.reg, .log]
  | .markProgramDone => [.out, .reg, .irq, .log, .cpu]
  | .reclamation => [.log]
  | .lastWords => [.now, .up, .out, .reg, .irq, .log, .cpu]
  | .cursorFirst .. => [.log]
  | .cursorLast .. => [.log]
  | .cursorNext .. => [.log]
  | .cursorPrev .. => [.log]
  | .cursorSeek .. => [.log]
  | .cursorPage .. => [.log]
  | .recorderClear .. => Blk.all
  | .recAbort => [.log]
  | .recForceStop => [.out, .reg, .irq, .log, .od, .cpu]
  | .recDrained => Blk.all
  | .debounceRunComplete .. => [.free, .out, .node, .reg, .irq, .log, .tln, .net, .ina, .spl, .cpu]
  | .thresholdUpdate .. => [.now, .up, .out, .reg, .irq, .log, .tln, .cpu]
  | .swingLowTimer .. => [.now, .up, .out, .reg, .irq, .log, .tln, .cpu]
  | .inputOverrange .. => [.out, .reg, .irq, .log, .tln, .cpu]
  | .csOvervolt .. => [.out, .reg, .irq, .log, .tln, .cpu]
  | .outputTrip .. => [.free, .out, .reg, .irq, .log, .tln, .cpu]
  | .outputRetry .. => [.now, .up, .out, .reg, .irq, .log, .tln, .cpu]
  | .tripClear .. => [.tln]
  | .openLoad .. => [.free, .out, .reg, .irq, .log, .tln, .cpu]
  | .stuckOn .. => [.free, .out, .reg, .irq, .log, .tln, .cpu]
  | .outCmdWrite .. => Blk.all
  | .followDelayExpiry .. => [.now, .up, .out, .reg, .irq, .log, .tln, .cpu]
  | .isoLinkLost => [.out, .reg, .irq, .log, .tln, .cpu]
  | .isoLinkReturn => [.now, .up, .out, .reg, .irq, .log, .tln, .cpu]
  | .forceSafe => [.tln]
  | .resume => [.tln]
  | .evtTsRead .. => [.out, .reg, .tln]
  | .mtimecmpMatch .. => [.now, .up, .out, .reg, .irq, .log, .cpu]
  | .nicTailWrite .. => [.free, .out, .reg, .irq, .net, .cpu]
  | .pairMismatch .. => Blk.allBut [.now, .up, .fwVersion]
  | .pairSelfCheck .. => Blk.allBut [.now, .up, .fwVersion]
  | .firmwareVerified .. => Blk.allBut [.now, .up, .fwVersion]
  | .firmwareImageWrite .. => Blk.all
  | .slotActivate .. => Blk.all
  | .appKeyEnrol .. => Blk.all
  | .appImageVerified .. => Blk.allBut [.now, .up, .fwVersion, .hpl]
  | .mkaFrameReceive .. => [.out, .reg, .irq, .log, .ina, .cpu]
  | .cakWrite .. => Blk.all
  | .rekeyTrigger .. => [.now, .up, .out, .reg, .irq, .log, .net, .cpu]
  | .pnExhausted .. => [.out, .reg, .irq, .log, .cpu]
  | .mkaLifetimeExpiry .. => [.now, .up, .out, .reg, .irq, .log, .cpu]
  | .cpuForceStop .. => Blk.allBut [.now, .up, .fwVersion, .hpl]
  | .cpuDrained => Blk.allBut [.now, .up, .fwVersion, .hpl]
  | .holdupSwitchClose .. => [.reg, .pwr]
  | .holdupSwitchOpen .. => [.pwr]
  | .bankOk .. => [.pwr]
  | .holdupLow .. => [.pwr]
  | .busLow .. => Blk.all
  | .sagBegin .. => [.free, .out, .reg, .irq, .pwr, .log, .od, .net, .spl, .pdb, .cpu]
  | .sagEnd .. => [.out, .reg, .irq, .pwr, .cpu]
  | .loopUpdate .. => [.now, .free, .pwr]
  | .loopSaturation .. => [.now, .up, .out, .reg, .irq, .pwr, .log, .cpu]
  | .loopSatLong .. => [.now, .up, .out, .reg, .irq, .pwr, .log, .cpu]
  | .tempExcursion .. => [.out, .reg, .irq, .pwr, .log, .cpu]
  | .thermalFault .. => Blk.allBut [.now, .up, .fwVersion]
  | .powerOn .. => Blk.all
  | .busInRange => Blk.allBut [.now, .up, .fwVersion]
  | .poweronDawn => Blk.allBut [.now, .up, .fwVersion]
  | .nodeReset .. => Blk.all
  | .ejectOpen => Blk.all
  | .exitReq .. => Blk.all
  | .exitRequestObject .. => Blk.all
  | .seatedOpen .. => Blk.allBut [.now, .up, .fwVersion, .pwr, .od, .tak, .tln, .chk, .pdb]
  | .exitReleaseStart => Blk.allBut [.fwVersion, .pwr, .od, .tak, .tln, .chk, .pdb]
  | .recorderDrainLimit => Blk.all
  | .hostDone => Blk.allBut [.now, .up, .fwVersion]
  | .hostHoldExpiry => Blk.allBut [.fwVersion]
  | .exitCancel => Blk.all
  | .nodeResetRequest .. => Blk.all
  | .nodeResetObject .. => Blk.all
  | .faultRecoveryExpiry => Blk.all
  | .pair0WatchdogExpiry => Blk.all
  | .pcieReset => Blk.allBut [.now, .up, .fwVersion]
  | .endpointReady => [.irq]
  | .busMasterEnable .. => [.out, .reg, .irq]
  | .irqCauseClear .. => [.out, .reg, .irq]
  | .irqMaskWrite .. => [.out, .reg, .irq]
  | .irqVecWrite .. => [.out, .reg, .irq]
  | .lampTestEnd => [.now, .up, .out, .reg, .irq, .hpl, .log, .cpu]
  | .relayCoilFault .. => [.free, .out, .node, .reg, .irq, .log, .wak, .bb, .net, .ina, .tim, .spl, .cpu]
  | .d0SupplyLost => Blk.all
  | .thermalResetCooled .. => Blk.all
  | .consistSyncSend .. => [.now, .up, .out, .reg, .irq, .log, .net, .tim, .cpu]
  | .mkaHelloSend => [.now, .up, .out, .reg, .irq, .log, .net, .cpu]
  | .ttdpHelloSend .. => [.out, .reg, .irq, .net, .cpu]
  | .ttdpTopologyReceive .. => [.ina]
  | .d3hotEntry => [.irq]
  | .msixEnable .. => [.out, .reg, .irq]
  | .ejectClose => [.hpl]
  | .opTimeReelTick => [.now, .up, .out, .reg, .irq, .log, .cpu]
  | .eqStatusRead .. => [.out, .bb]
  | .tempStatusRead .. => [.out, .pwr]
  | .loopStatusRead .. => [.out, .pwr]
  | .domainOffDrainTimeout .. => Blk.allBut [.fwVersion, .hpl]

/-- Session i is ready: dictionary requests are served, the session exists, and no request waits or is unanswered. -/
def readyFor (s : State) (i : Session) : Bool :=
  served s && sessLive s i && s.od.queue.isEmpty && s.od.storing.isNone && s.od.unanswered.isEmpty

/-- The state in which a request of a ready session executes: the time of the request is noted, and it is counted in
0x2010.01. -/
def requested (i : Session) (s : State) : State :=
  let u := setSess i { sessOf s i with lastReq := s.up } s
  bumpOd 1 (setSess i { sessOf u i with lastReq := s.up } u)

/-- The state in which the WRITE of a whole value by a ready session acts: the OPEN take of the session is kept alive (R322), and a value
begun and not completed is gone. -/
def wholeWrite (i : Session) (s : State) : State :=
  let u := renewTake i (requested i s)
  setSess i { sessOf u i with partialV := none } u

end Sys2Proof.Machine
end

