-- ==== Sys2Proof/Certificates/Slice0/Obligations.lean ====
section
/-!
DEFINITION. Certificates/Slice0/Obligations.lean: the statements about the block.
-/
open Sys2Proof Sys2Proof.Machine

/-- Training, its timeouts, the loss and the re-acquisition of a link take effect as R43, R46, R47 and R50 say. -/
def Obligations.LinkTrainingCompletes : Prop :=
  (∀ (p : Fin 17) (mode : Fin 8) (ext native : Bool) (s : State),
    ((linkSt s p.val).st = .training) →
    ((linkSt s p.val).reacqBy = none) →
    (maskAllows p.val (modeMask s p.val) mode.val (ext && decide (p.val < 4)) = true) →
    ((ext && decide (p.val < 4)) = true → mode.val = 1 ∧ native = true ∧ linkCfg s 0x2202 p.val ≠ 2) →
    (p.val < 4 → (mode.val = 5 ↔ (linkSt s p.val).clause28 = true)) →
    exec (.linkTrainingDone p mode ext native) s = .next (linkUp p.val mode.val (ext && decide (p.val < 4)) (native && decide (p.val < 4)) s)) ∧
  (∀ (p : Fin 17) (s : State) (t : Nat),
    ((linkSt s p.val).attemptBy = some t) →
    exec (.anAttemptTimeout p) s =
      let u := if p.val < 4 then bump (prt p.val 0x18) (passTo t s) else passTo t s
      .next (setLink p.val { linkSt u p.val with
        clause28 := decide (p.val < 4) && maskAllows p.val (modeMask u p.val) 5 false && !(linkSt s p.val).clause28,
        attemptBy := some (u.up + cfg u 0x2204 0 * fr) } u)) ∧
  (∀ (p : Fin 17) (phyFault : Bool) (energy : Option (BitVec 32)) (s : State),
    (portUp s p.val = true) →
    (p.val < 4 → ∀ e, energy = some e → 2 * fr < e.toNat) →
    exec (.linkLost p phyFault energy) s = .next (startTraining p.val (bump (prt p.val 0x10) (leaveUp p.val (if phyFault then 4 else 3) s)))) ∧
  (∀ (p : Fin 17) (phyFault : Bool) (e : BitVec 32) (s : State),
    (portUp s p.val = true) →
    (p.val < 4 ∧ e.toNat ≤ 2 * fr) →
    exec (.linkLost p phyFault (some e)) s =
      let u := startTraining p.val (bump (prt p.val 0x10) (leaveUp p.val (if phyFault then 4 else 3) s))
      .next (setLink p.val { linkSt u p.val with attemptBy := none, reacqBy := some (u.up + e.toNat + 5 * fr) } u)) ∧
  (∀ (p : Fin 4) (s : State) (t : Nat),
    ((linkSt s p.val).reacqBy = some t) →
    ((linkSt s p.val).st = .training ∧ s.up ≤ t ∧ runAllowed s p.val (linkSt s p.val).mode (linkSt s p.val).ext = true) →
    exec (.reacquisitionDone p) s = .next (linkUp p.val (linkSt s p.val).mode (linkSt s p.val).ext (linkSt s p.val).native (bump (prt p.val 0x14) s))) ∧
  (∀ (p : Fin 4) (s : State) (t : Nat),
    ((linkSt s p.val).reacqBy = some t) →
    exec (.reacquisitionTimeout p) s =
      let u := passTo t s
      .next (setLink p.val { linkSt u p.val with
        reacqBy := none, attemptBy := some (u.up + cfg u 0x2204 0 * fr), clause28 := false } u)) ∧
  (∀ (p : Fin 4) (margin : Byte) (saturated : Bool) (s : State),
    (portUp s p.val = true) →
    exec (.eqLoopSample p margin saturated) s = .next (setLink p.val { linkSt s p.val with
        marginNow := margin.toNat
        marginMin := some (min margin.toNat ((linkSt s p.val).marginMin.getD margin.toNat))
        saturated := (linkSt s p.val).saturated || saturated
        lowFrom := if margin.toNat < 6 then (linkSt s p.val).lowFrom.or (some s.up) else none
        marginLow := decide (margin.toNat < 6) && (linkSt s p.val).marginLow } s)) ∧
  (∀ (p : Fin 4) (s : State) (t : Nat),
    ((linkSt s p.val).lowFrom = some t) →
    ((linkSt s p.val).marginLow = false) →
    exec (.marginLow p) s =
      let u := passTo (t + fr) s
      .next (bump (prt p.val 0x1C) (setLink p.val { linkSt u p.val with marginLow := true } u))) ∧
  (∀ (p : Fin 17) (s : State),
    (reaches s .host = true) →
    (portUp s p.val = true) →
    exec (.linkRestart p) s = .next (startTraining p.val (leaveUp p.val 8 s)))

/-- Loop check, relay stagger, insertion timeout and deferral of a line's relay take effect as R53 to R58, R105 and R506 say. -/
def Obligations.LineInsertionCompletes : Prop :=
  (∀ (l : Line) (s : State),
    ((lineSt s l).checking = true ∧ (lineSt s l).energised = false) →
    exec (.loopCheckDone l true) s =
      let u := setLine l { lineSt s l with checking := false, loopOk := true } s
      .next (if u.bb.a.checking || u.bb.b.checking then u else startInsertion u)) ∧
  (∀ (l : Line) (s : State),
    ((lineSt s l).checking = true ∧ (lineSt s l).energised = false) →
    exec (.loopCheckDone l false) s =
      let u := reportLine l (setLine l { lineSt s l with checking := false, loopOk := false, single := false } s)
      .next (if u.bb.a.checking || u.bb.b.checking then u else startInsertion u)) ∧
  (∀ (l : Line) (s : State) (t : Nat),
    ((lineSt s l).insertBy = some t) →
    (lineIn (passTo t s) l = false) →
    (switchReady (passTo t s) l false = true ∧ switchedLately (passTo t s) (other l) = false) →
    (s.bb.seq = .insertFirst l) →
    exec (.insertionTimeout l) s =
      let v := relaySwitch l false (setLine l { lineSt (passTo t s) l with insertBy := none } (passTo t s))
      let u := reportLine l (setLine l { lineSt v l with contactFault := true, insertBy := none, single := false } v)
      .next (resumeInsert { u with bb.seq := if insertBarred u (other l) then .none else .insertNext (other l) (u.up + cfg u 0x2305 0 * fr) })) ∧
  (∀ (s : State) (l : Line) (t : Nat) (both own : Bool),
    (s.bb.seq = .releaseNext l t both own) →
    exec (.relayStaggerExpiry) s = .next (resumeInsert (controlled l (.release both) own { passTo t s with bb.seq := .none }))) ∧
  (∀ (s : State) (l : Line) (t : Nat),
    (s.bb.seq = .insertNext l t) →
    (mayInsert (passTo t s) l = true) →
    (s.node ≠ .joining) →
    exec (.relayStaggerExpiry) s = .next (resumeInsert (controlled l .insert false { passTo t s with bb.seq := .insertSecond l }))) ∧
  (∀ (l : Line) (s : State),
    ((lineSt s l).single = true ∧ (lineSt s l).energised = false ∧ (lineSt s l).insertBy = none) →
    (mayInsert s l = true ∧ lineEnergised s (other l) = true ∧ s.bb.deferred = []) →
    (s.node = .joining → isMemberUid s s.uid = true) →
    exec (.singleLineInsert l) s = .next (controlled l .single false (toFrame (spaced l s)))) ∧
  (∀ (l : Line) (s : State),
    ((lineSt s l).single = true ∧ (lineSt s l).energised = false ∧ (lineSt s l).insertBy = none) →
    (mayInsert s l = true ∧ lineEnergised s (other l) = true ∧ s.bb.deferred = []) →
    (s.node = .joining ∧ isMemberUid s s.uid = false ∧ s.bb.seq = .none) →
    exec (.singleLineInsert l) s =
      let u := setLine l { lineSt s l with single := false } s
      .next { u with bb.seq := .insertJoin l (u.up + cfg u 0x2309 0 * rl) }) ∧
  (∀ (l : Line) (why : SwitchWhy) (own : Bool) (s : State),
    controlled l why own s =
      if switchReady s l own = true ∧ switchedLately s (other l) = false then makeSwitch l why s
      else { s with bb.deferred := s.bb.deferred.filter (fun d => d.line ≠ l)
          ++ [{ line := l, why := why, own := own, by_ := s.up + cfg s 0x2309 0 * rl }] }) ∧
  (∀ (s : State) (d : Deferred) (r : List Deferred),
    (s.bb.deferred = d :: r) →
    exec .relayDeferExpiry s =
      let u := passTo d.by_ s
      .next (resumeSwitch d (if switchReady u d.line d.own then u else bump 0xB0040 u))) ∧
  (∀ (s : State) (d : Deferred) (r : List Deferred),
    (s.bb.deferred = d :: r) →
    (switchReady s d.line d.own = true) →
    exec (.deferredSwitchResume) s = .next (resumeSwitch d s)) ∧
  (∀ (s : State) (t : Nat),
    (s.bb.joinRetryAt = some t) →
    (s.bb.seq = .none) →
    exec (.joinRetryTimer) s = .next (startInsertion { passTo t s with bb.joinRetryAt := none })) ∧
  (∀ (l : Line) (s : State),
    (reaches s .host = true) →
    ((lineSt s l).contactFault = true) →
    exec (.contactFaultClear l) s = .next (insertLine l (setLine l { lineSt s l with contactFault := false } s))) ∧
  (∀ (s : State),
    (s.bb.a.contactFault = true ∧ s.bb.b.contactFault = true) →
    clearContacts [.a, .b] s = insertLine .b (insertLine .a { s with bb.a.contactFault := false, bb.b.contactFault := false })) ∧
  (∀ (s : State) (t : Nat),
    (s.bb.bApplyAt = some t) →
    (((waitedPorts (passTo t s) .a).all (portUp (passTo t s))) = true) →
    exec (.modeMaskLineBApply) s = .next (linkParams 3 (linkParams 2 { passTo t s with bb.bOld := [], bb.bApplyAt := none })))

/-- Coupler sense, its errors, loss classification and the duplicator's timers take effect as R63, R65, R68, R70, R72 and R79 say. -/
def Obligations.CouplerAndDuplicatorComplete : Prop :=
  (∀ (p : Fin 4) (s : State) (t : Nat),
    ((linkSt s p.val).classifyAt = some t) →
    exec (.linkLossClassify p) s =
      let u := setLink p.val { linkSt (passTo t s) p.val with classifyAt := none } (passTo t s)
      .next (if portUp u p.val || endMated u (endOf p.val) then u else lossRecognised (endOf p.val) u)) ∧
  (∀ (c : Fin 4) (m : SenseIn) (s : State),
    (domOn s .d1 = true) →
    ((m.above = false ∨ (csSt s c.val).overvolt = false) ∧ m.settled = true) →
    (senseLevel s m.res.toNat (csSt s c.val).closed ≠ (csSt s c.val).logical) →
    exec (.couplerSenseChange c m) s =
      let e := if c.val < 2 then End.fore else .aft
      let lv := senseLevel s m.res.toNat (csSt s c.val).closed
      let u := setCs c.val { csSt s c.val with res := m.res.toNat, closed := lv, overvolt := false } s
      .next (endFollow e (endCode u e) (setCs c.val { csSt u c.val with logical := lv } u))) ∧
  (∀ (c : Fin 4) (m : SenseIn) (s : State),
    (domOn s .d1 = true) →
    (m.above = true ∧ (csSt s c.val).overvolt = true) →
    exec (.couplerSenseChange c m) s = .next (setCs c.val { csSt s c.val with res := m.res.toNat } s)) ∧
  (∀ (s : State) (t : Nat),
    (s.ina.errFore = some t) →
    exec (.senseErrorPersist .fore) s = .next (raiseIrq 14 { passTo (t + fr) s with ina.foreFault := true, ina.errFore := none })) ∧
  (∀ (s : State) (t : Nat),
    (s.ina.errAft = some t) →
    exec (.senseErrorPersist .aft) s = .next (raiseIrq 14 { passTo (t + fr) s with ina.aftFault := true, ina.errAft := none })) ∧
  (∀ (m : Mac) (s : State) (r : TxSrc),
    (tfind s.net.tx m.toNat = some r) →
    exec (.dupTxSrcEvict m) s = .next ({ passTo (r.lastUse + 17 * rl) s with net.tx := tdel s.net.tx m.toNat })) ∧
  (∀ (m : Mac) (s : State) (r : RxSrc),
    (tfind s.net.rx m.toNat = some r) →
    exec (.dupRxSrcForget m) s = .next ({ passTo (r.lastSeen + 16 * rl) s with net.rx := tdel s.net.rx m.toNat })) ∧
  (∀ (s : State),
    exec (.supervisionFrameSend) s = .next (supSend (passTo (s.net.supAt + cfg s 0x2307 0 * fr) s))) ∧
  (∀ (s : State),
    (dupEnabled s = false) →
    (trailersHeld s = false) →
    exec (.dupDrained) s = .next ({ s with net.dupDrained := true }))

/-- Frames, PAUSE, its timers and its watchdog, and the stop of a MAC take effect as R120, R124 to R129 say. -/
def Obligations.FlowControlCompletes : Prop :=
  (∀ (p : Fin 17) (f : Frame) (r : RxInfo) (s : State),
    (portUp s p.val = true ∧ rxEnabled s p.val = true ∧ r.mm = .express) →
    (r.fcs = .good ∧ r.codeErr = false ∧ r.full = false ∧ 64 ≤ f.len) →
    (memoryFull (countMac p.val 23 f.len s) p.val { f with sec := none } = false) →
    (f.len ≤ rxLimit s p.val f ∧ secMode s p.val = 0 ∧ (4 ≤ p.val → f.rct = none)) →
    (f.etherType ≠ etMacCtrl ∧ (4 ≤ p.val → f.dst.toNat ≠ cfg s 0x2912 0)) →
    exec (.macFrameReceive p f r) s = .next (frameIn p.val 0 { f with sec := none } (countRx p.val { f with sec := none } (countMac p.val 23 f.len s)))) ∧
  (∀ (p : Fin 17) (f : Frame) (r : RxInfo) (s : State),
    (portUp s p.val = true ∧ rxEnabled s p.val = true ∧ r.mm = .express) →
    (r.fcs ≠ .good ∧ r.codeErr = false ∧ 64 ≤ f.len ∧ f.len ≤ rxLimit s p.val f) →
    exec (.macFrameReceive p f r) s = .next (badIn p.val 1 { f with sec := none } (countMac p.val (if r.fcs = .marked then 20 else 19) 1 (countMac p.val 23 f.len s)))) ∧
  (∀ (p mark : Nat) (f : Frame) (s : State),
    badIn p mark f s = if secBlocks s p f then bump (0xA0118 + 0x40 * p) s else frameIn p mark f s) ∧
  (∀ (p : Fin 17) (s : State) (w : Wire),
    (onWire s p.val = some w) →
    exec (.transmitUnderrun p) s =
      .next (if w.q.mark = 2 ∧ w.startAt + octetTicks s p.val (w.q.frame.len + 4) ≤ s.up then s
        else wireMark p.val (countMac p.val 47 1 s))) ∧
  (∀ (p : Fin 17) (time : BitVec 16) (s : State),
    (portUp s p.val = true ∧ rxEnabled s p.val = true) →
    (rxLimit s p.val { dst := 0x0180C2000001, etherType := 0x8808, payload := [], len := 64 } ≥ 64 ∧ secMode s p.val = 0) →
    (memoryFull (countMac p.val 23 64 s) p.val { dst := 0x0180C2000001, etherType := 0x8808, payload := [], len := 64 } = false) →
    exec (.pauseReceive p time) s =
      let f : Frame := { dst := 0x0180C2000001, etherType := 0x8808, payload := beBytes 2 1 ++ beBytes 2 time.toNat, len := 64 }
      .next (pauseIn p.val time.toNat (countRx p.val f (countMac p.val 23 64 s)))) ∧
  (∀ (p : Fin 17) (s : State) (u : Nat),
    ((macSt (settleWire p.val s) p.val).pauseUntil = some u) →
    exec (.pauseTimerExpiry p) s = .next (pauseEnd p.val (passTo u (settleWire p.val s)))) ∧
  (∀ (p : Fin 17) (s : State) (t : Nat),
    ((macSt s p.val).xoffAt = some t) →
    exec (.pauseRefreshTimer p) s =
      let u := passTo t s
      .next (if cfgOn u 0x2212 (p.val + 1) = false then setMac p.val { macSt u p.val with xoffAt := none, pauseTx := none } u
        else pauseSend p.val (if cfg u 0x2215 (p.val + 1) * 1024 ≤ occupancy u p.val then cfg u 0x2213 (p.val + 1) else 0) u)) ∧
  (∀ (p time : Nat) (s : State),
    pauseSend p time s = if (onWire s p).isSome then setMac p { macSt s p with pauseTx := some time } s else pauseOut p time s) ∧
  (∀ (p : Fin 17) (s : State) (t : Nat),
    ((macSt (settleWire p.val s) p.val).wdFrom = some t) →
    exec (.pauseWatchdogExpiry p) s =
      let w := settleWire p.val s
      let u := pauseEnd p.val (passTo (t + cfg w 0x2216 (p.val + 1) * fr) w)
      let v := setMac p.val { macSt u p.val with ignoreUntil := some (u.up + rl), wdFrom := none, idleFrom := none } u
      .next (fire 9 3 [BitVec.ofNat 8 p.val] (raiseIrq 2
        { countMac p.val 50 1 v with irq.pwdPorts := putBit v.irq.pwdPorts p.val true }))) ∧
  (∀ (p : Fin 17) (s : State) (t : Nat),
    ((macSt (settleWire p.val s) p.val).idleFrom = some t) →
    exec (.pauseWatchdogReset p) s =
      let u := passTo (t + fr) (settleWire p.val s)
      .next (setMac p.val { macSt u p.val with wdFrom := none, idleFrom := none } u)) ∧
  (∀ (p : Fin 17) (s : State) (t : Nat),
    ((macSt s p.val).ignoreUntil = some t) →
    exec (.wdIgnoringExpiry p) s =
      let u := passTo t s
      .next (setMac p.val { macSt u p.val with ignoreUntil := none } u)) ∧
  (∀ (p : Fin 17) (s : State),
    (reaches s .host = true) →
    exec (.macForceStop p) s =
      let u := flushQueues p.val (wireMark p.val (settleWire p.val
        (applyVals [(key 0x10012 (p.val + 1), .num 0), (key 0x10013 (p.val + 1), .num 0)] s)))
      let v := flowAll (setMac p.val { macSt u p.val with rest := none, txDrained := true, rxDrained := true } u)
      .next (if (schedSt v p.val).restart.isSome then verifyStart p.val v else v)) ∧
  (∀ (p : Fin 17) (s : State),
    (rxEnabled s p.val = false) →
    exec (.macDrained p false) s = .next (setMac p.val { macSt s p.val with rxDrained := true } s)) ∧
  (∀ (p : Fin 17) (s : State),
    (txEnabled s p.val = false ∧ (macSt s p.val).wire = none ∧ (macSt s p.val).rest = none) →
    exec (.macDrained p true) s = .next (setMac p.val { macSt s p.val with txDrained := true } s))

/-- Transmission, preemption, verification and schedules take effect as R141, R142, R144, R147, R150, R151 and R155 say. -/
def Obligations.PreemptionAndGatesComplete : Prop :=
  (∀ (p : Fin 17) (q : Fin 8) (s : State) (x : QFrame) (r : List QFrame),
    ((macSt s p.val).wire = none ∧ (macSt s p.val).rest = none ∧ queueOf s p.val q.val = x :: r) →
    (portUp s p.val = true ∧ paused s p.val = false ∧ txEnabled s p.val = true) →
    (higherReady s p.val q.val = false ∧ mayStart s p.val q.val x = true) →
    (secBlocks s p.val x.frame = false ∧ secExhausted s p.val = false) →
    exec (.frameTransmitStart p q) s = .next (wireStart p.val q.val (isExpress s p.val q.val) x
        (setMac p.val { macSt s p.val with queues := tset (macSt s p.val).queues q.val r } s))) ∧
  (∀ (p : Fin 17) (q : Fin 8) (s : State) (x : QFrame) (r : List QFrame),
    ((macSt s p.val).wire = none ∧ (macSt s p.val).rest = none ∧ queueOf s p.val q.val = x :: r) →
    (portUp s p.val = true ∧ paused s p.val = false ∧ txEnabled s p.val = true) →
    (higherReady s p.val q.val = false ∧ mayStart s p.val q.val x = false) →
    (secBlocks s p.val x.frame = false ∧ secExhausted s p.val = false) →
    exec (.frameTransmitStart p q) s = .next (countHold p.val x s)) ∧
  (∀ (p : Fin 17) (q : Fin 8) (s : State) (x : QFrame) (r : List QFrame),
    ((macSt s p.val).wire = none ∧ (macSt s p.val).rest = none ∧ queueOf s p.val q.val = x :: r) →
    (portUp s p.val = true ∧ paused s p.val = false ∧ txEnabled s p.val = true) →
    (higherReady s p.val q.val = false ∧ (secBlocks s p.val x.frame = true ∨ secExhausted s p.val = true)) →
    exec (.frameTransmitStart p q) s =
      let u := setMac p.val { macSt s p.val with queues := tset (macSt s p.val).queues q.val r } s
      .next (flowCheck x.ingress (if secBlocks s p.val x.frame then bump (0xA0118 + 0x40 * p.val) u else countMac p.val 52 1 u))) ∧
  (∀ (p : Fin 17) (q : Fin 8) (s : State) (w : Wire) (x : QFrame) (r : List QFrame),
    (onWire s p.val = some w ∧ queueOf s p.val q.val = x :: r) →
    (w.express = false ∧ schedMode s p.val = 1 ∧ isExpress s p.val q.val = true ∧ paused s p.val = false) →
    (higherReady s p.val q.val = false) →
    (max s.up (w.startAt + octetTicks s p.val (minFragment s p.val + 4)) + octetTicks s p.val 76 ≤ w.endAt) →
    exec (.expressPreempt p q) s =
      let u := fragment p.val w (passTo (max s.up (w.startAt + octetTicks s p.val (minFragment s p.val + 4))) s)
      .next (if paused u p.val then u else startQueue p.val q.val u)) ∧
  (∀ (p : Fin 17) (s : State),
    (portUp s p.val = true) →
    exec (.verifyMpacketReceive p) s = .next (emit (.mpacket p.val true) s)) ∧
  (∀ (p : Fin 17) (s : State),
    ((schedSt s p.val).ver = 2) →
    exec (.verifyRespondReceive p) s = .next (setSched p.val { schedSt s p.val with ver := 3, verAt := none, heldIds := [] } s)) ∧
  (∀ (p : Fin 17) (s : State) (t : Nat),
    ((schedSt s p.val).ver = 2 ∧ (schedSt s p.val).verAt = some t) →
    exec (.verifyTimer p) s =
      let u := passTo t s
      .next (if (schedSt u p.val).verSent < cfg u 0x2507 (p.val + 1) then verifySend p.val u else verifyFail p.val u)) ∧
  (∀ (p : Fin 17) (s : State),
    (reaches s .host = true) →
    (portUp s p.val = true ∧ (schedSt s p.val).ver = 4 ∧ cfg s 0x2501 (p.val + 1) ≠ 1) →
    exec (.verifyRestart p) s = .next (verifySend p.val (setSched p.val { schedSt s p.val with verSent := 0 } s))) ∧
  (∀ (p : Fin 17) (s : State),
    ((schedSt s p.val).ver = 2) →
    exec (.preemptTlvReceive p false) s = .next (verifyFail p.val s)) ∧
  (∀ (ingress o : Fin 17) (s : State) (w : Wire),
    (onWire s o.val = some w ∧ w.q.cut = true ∧ w.q.ingress = ingress.val) →
    (schedMode s o.val = 1 ∧ w.express = false ∧ w.startAt + octetTicks s o.val (minFragment s o.val + 4) ≤ s.up) →
    exec (.cutThroughIngressPreempt ingress o) s = .next (fragment o.val w (setMac ingress.val { macSt s ingress.val with awaited := some w.q.id } s))) ∧
  (∀ (ingress o : Fin 17) (s : State) (w : Wire),
    (onWire s o.val = some w ∧ w.q.cut = true ∧ w.q.ingress = ingress.val) →
    (schedMode s o.val ≠ 1) →
    exec (.cutThroughIngressPreempt ingress o) s =
      let u := setMac ingress.val { macSt s ingress.val with awaited := some w.q.id } s
      let v := if txEnabled s o.val then
          setMac o.val { macSt u o.val with resend := (macSt u o.val).resend ++ [({ w.q with cut := false }, w.queue)] } u
        else countMac o.val 52 1 u
      .next (wireMark o.val (countMac o.val 47 1 v))) ∧
  (∀ (i : Nat) (o : Fin 17) (s : State) (x : QFrame) (q : Nat),
    ((macSt s o.val).resend = [(x, q)] ∧ x.id = i) →
    resendFrom i s o.val =
      let u := setMac o.val { macSt s o.val with resend := [] } s
      bump (prt o.val 0x248) (setMac o.val { macSt u o.val with queues := tset (macSt u o.val).queues q (x :: queueOf u o.val q) } u)) ∧
  (∀ (p : Fin 17) (s : State),
    ((schedSt s p.val).oper.entries ≠ []) →
    exec (.gateEntryBoundary p) s =
      let u := passToInstant (BitVec.ofNat 64 (gateNow s p.val s.now.toNat).2.2) s
      .next (setSched p.val { schedSt u p.val with heldIds := [] } u)) ∧
  (∀ (p : Fin 17) (s : State) (g : GateList) (t : Instant),
    ((schedSt s p.val).next = some (g, t)) →
    exec (.scheduleSwitch p) s =
      let u := passToInstant t s
      .next (raiseIrq 11 (bump (prt p.val 0x240) (setSched p.val { schedSt u p.val with oper := g, next := none, heldIds := [] } u))))

/-- NEIGHBOUR, TTDP and RECORD messages and their timers take effect as R83, R84, R109 and R110 say. -/
def Obligations.JunctionMessagesComplete : Prop :=
  (∀ (p : Fin 4) (s : State),
    (portUp s p.val = true ∧ (nbSt s p.val).legacy = false) →
    exec (.neighbourSendTimer p) s = .next (neighbourSend p.val (passTo ((nbSt s p.val).sentAt + (if (nbSt s p.val).seen then cfg s 0x240A 0 * fr else 256 * pf)) s))) ∧
  (∀ (p : Fin 4) (n : Neighbour) (s : State),
    exec (.neighbourReceive p n) s = .next (pump (neighbourIn p.val n s))) ∧
  (∀ (p : Fin 4) (s : State),
    (portUp s p.val = true ∧ (nbSt s p.val).heard = true ∧ (nbSt s p.val).legacy = false ∧ (nbSt s p.val).gone = false) →
    exec (.neighbourPartnerTimeout p) s =
      let u := passTo ((nbSt s p.val).lastAt + 3 * cfg s 0x240A 0 * fr) s
      .next (recordChanged (setNb p.val { nbSt u p.val with gone := true } u))) ∧
  (∀ (p : Fin 4) (mac : Mac) (s : State) (t : Nat),
    (portUp s p.val = true ∧ (linkSt s p.val).native = false ∧ cfgOn s 0x2420 0 = true) →
    (((nbSt s p.val).heard && !(nbSt s p.val).legacy) = false ∧ junctionUp s (endOf p.val) = some t) →
    exec (.ttdpHelloReceive p mac) s =
      let u := passTo (t + fr) s
      .next (legacyCheck (recordChanged (setNb p.val
        { nbSt u p.val with legacy := true, heard := true, partner := some mac, lastAt := u.up } u)))) ∧
  (∀ (p : Fin 4) (s : State),
    (portUp s p.val = true ∧ (nbSt s p.val).legacy = true ∧ cfgOn s 0x2420 0 = true) →
    exec (.ttdpHelloSend p) s = .next (pairSend p.val { dst := linkLocalMac, src := s.baseMac + BitVec.ofNat 48 p.val, etherType := etLldp } s)) ∧
  (∀ (numbering : List (Uid × Bool × Bool)) (s : State),
    (s.ina.st = .legacy) →
    (s.ina.etb ≠ Config.etbCounter numbering ∨ s.ina.ttdp ≠ numbering) →
    exec (.ttdpTopologyReceive (Config.etbCounter numbering) numbering) s = .next (collect { s with ina.etb := Config.etbCounter numbering, ina.ttdp := numbering, ina.etbSame := true })) ∧
  (∀ (etb : Word) (numbering : List (Uid × Bool × Bool)) (s : State),
    (s.ina.st = .legacy ∧ etb ≠ Config.etbCounter numbering) →
    exec (.ttdpTopologyReceive etb numbering) s = .next (collect { s with ina.etb := Config.etbCounter numbering, ina.ttdp := numbering, ina.etbSame := false })) ∧
  (∀ (s : State),
    (s.ina.st = .legacy ∧ s.ina.etbSame = false) →
    (collect s).ina.st = .legacy ∧ (collect s).ina.quietAt = none) ∧
  (∀ (r : Record) (mac : Mac) (s : State),
    exec (.recordReceive r mac) s = .next (pump (recordIn r mac s))) ∧
  (∀ (s : State),
    exec .recordRefreshTimer s =
      .next (rebuild (broadcastRecord (passTo (s.ina.sentAt + cfg s 0x240B 0 * fr) s)))) ∧
  (∀ (u : Uid) (s : State) (h : HeldRec),
    (s.ina.recs.find? (fun h => h.rec_.uid = u) = some h) →
    exec (.recordForget u) s =
      let v := passTo (h.at_ + 3 * cfg s 0x240B 0 * fr) s
      let w := { v with ina.recs := v.ina.recs.filter (fun x => x.rec_.uid ≠ u) }
      .next (if (chain v).1.any (fun r => r.uid = u) then chainChanged w else legacyCheck w))

/-- Settle, quiet, uncoupling and join waits end, INHIBIT is written and the inauguration restarts as R85, R91, R96, R98, R104 and R106 say. -/
def Obligations.CollectionCompletes : Prop :=
  (∀ (s : State) (t : Nat),
    (s.ina.settleBy = some t) →
    exec (.settleTimeExpiry) s = .next (endSettle (passTo t s))) ∧
  (∀ (s : State) (t : Nat),
    (s.ina.quietAt = some t) →
    (s.ina.st = .collect ∨ s.ina.st = .legacy) →
    exec (.quietTimeExpiry) s = .next (decideProposal { passTo t s with ina.quietAt := none })) ∧
  (∀ (s : State) (t : Nat),
    (s.ina.lossFore = some t) →
    exec (.uncouplingWaitExpiry .fore) s = .next (lossRecognised .fore (passTo t s))) ∧
  (∀ (s : State) (t : Nat),
    (s.ina.lossAft = some t) →
    exec (.uncouplingWaitExpiry .aft) s = .next (lossRecognised .aft (passTo t s))) ∧
  (∀ (s : State) (t : Nat) (x : Sheet),
    (s.ina.joinWaitBy = some t) →
    (s.node = .joining ∧ (List.range 4).any (portUp s) = false) →
    (aloneSheet { passTo t s with ina.joinWaitBy := none } = some x) →
    exec .joinWaitExpiry s =
      let u := { passTo t s with ina.joinWaitBy := none }
      .next (activateSheet { x with instant := u.now } false u)) ∧
  (∀ (v : Bool) (s : State),
    (reaches s .host = true) →
    exec (.inhibitWrite v) s = .next (recordChanged { s with ina.inhibit := v }))

/-- Sync, Announce and peer-delay messages take effect as R167, R168, R170, R173 and R176 say. -/
def Obligations.TimeMessagesComplete : Prop :=
  (∀ (p : Fin 4) (m : SyncIn) (s : State),
    (ptpRuns s p.val = true ∧ ptpDiscards s p.val m.domain m.id m.malformed = false) →
    (heldPort s p.val = false ∧ s.tim.isGm = false) →
    exec (.syncReceive (p.castLE (by decide)) m) s =
      let u := bump (prt p.val 0x314) s
      .next (stepDues s (syncServo p.val m (forwardSync p.val m (noteSync p.val m u))))) ∧
  (∀ (p : Fin 4) (m : SyncIn) (s : State),
    (s.tim.haveGm = true → m.id = s.tim.gm.id) →
    syncPort (noteSync p.val m s) (lineOf p.val) = some p.val ∧ syncPort (noteSync p.val m s) (other (lineOf p.val)) = syncPort s (other (lineOf p.val))) ∧
  (∀ (s : State),
    (s.tim.isGm = true ∨ s.tim.viaRef = true) →
    exec .syncOriginate s =
      let u := passTo (ptpSt s 0).nextSync s
      let v := [0, 1, 2, 3].foldl (fun s p =>
        if portUp s p then
          ptpSend p (.sync s.tim.gm.id s.now (logInterval (cfg s 0x2607 0)) false) s
        else s) u
      .next (setPtp 0 { ptpSt v 0 with nextSync := v.up + syncTicks v } v)) ∧
  (∀ (p : Fin 17) (s : State),
    (4 ≤ p.val ∧ ptpRuns s p.val = true ∧ isRefPort s p.val = false) →
    exec (.consistSyncSend p) s =
      let u := passTo (ptpSt s p.val).nextSync s
      let n := cfg u 0x2632 (p.val + 1)
      let v := ptpSend p.val (.sync (offeredGm u).id u.now (logInterval n) true) u
      .next (setPtp p.val { ptpSt v p.val with nextSync := v.up + n * fr } v)) ∧
  (∀ (s : State),
    (s.tim.haveGm = true ∨ s.tim.isGm = true ∨ cfgOn s 0x2602 0 = false) →
    exec .announceSend s =
      let u := passTo (ptpSt s 0).nextAnnounce s
      .next (announceAll (setPtp 0 { ptpSt u 0 with nextAnnounce := u.up + cfg u 0x2608 0 * fr } u))) ∧
  (∀ (s : State),
    (s.tim.haveGm = false ∧ s.tim.isGm = false ∧ cfgOn s 0x2602 0 = true) →
    exec .announceSend s =
      let u := becomeGm (passTo (ptpSt s 0).nextAnnounce s)
      .next (announceAll (setPtp 0 { ptpSt u 0 with nextAnnounce := u.up + cfg u 0x2608 0 * fr } u))) ∧
  (∀ (p : Fin 17) (m : AnnounceIn) (s : State),
    (ptpRuns s p.val = true ∧ ptpDiscards s p.val m.domain m.gm.id m.malformed = true) →
    exec (.announceReceive p m) s = .next (bump (prt p.val 0x328) (bump (prt p.val 0x324) s))) ∧
  (∀ (p : Fin 17) (m : AnnounceIn) (s : State),
    (ptpRuns s p.val = true ∧ ptpDiscards s p.val m.domain m.gm.id m.malformed = false) →
    (4 ≤ p.val ∧ isRefPort s p.val = true) →
    exec (.announceReceive p m) s = .next (bmca m.gm true (bump (prt p.val 0x324) s))) ∧
  (∀ (p : Fin 17) (s : State),
    (measures s p.val = true) →
    exec (.pdelayRequestTimer p) s =
      let u := pdelayLost p.val (passTo (ptpSt s p.val).nextReq s)
      let x := ptpSt u p.val
      let v := setPtp p.val { x with
        waiting := true, done := x.done + 1
        nextReq := u.up + (if x.done + 1 < 8 then fr else cfg u 0x2609 0 * fr) } u
      let log := logInterval (if x.done < 8 then 1 else cfg v 0x2609 0)
      .next (ptpSend p.val (if ptpProfile v p.val = 1 then .delayReq log else .pdelayReq log) v)) ∧
  (∀ (p : Fin 17) (delay nrr : BitVec 32) (s : State),
    (measures s p.val = true ∧ (ptpSt s p.val).waiting = true) →
    exec (.pdelayResponseReceive p delay nrr) s =
      let x := ptpSt s p.val
      let l := (delay.toNat :: x.recent).take 4
      let n := if agree4 l then 4 else min l.length 3
      .next (setPtp p.val { x with
        waiting := false, lost := 0, delay := delay.toNat, nrr := nrr.toInt, recent := l, agreed := n,
        valid := x.valid || (n = 4 && (decide (4 ≤ p.val) || ((nbSt s p.val).heard && !(nbSt s p.val).legacy))) } s))

/-- The servo's timers, reel wraps, pulses and captures take effect as R163, R174, R177, R180, R181, R185, R188 and R189 say. -/
def Obligations.ServoAndPulsesComplete : Prop :=
  (∀ (s : State) (l : Line) (p : Nat),
    (activeLine s = some l ∧ syncPort s l = some p) →
    exec (.timeLineFail) s = .next (syncPortLost p (passTo ((ptpSt s p).lastSync.getD 0 + syncLossTicks s p) s))) ∧
  (∀ (s : State),
    (s.tim.isGm = false) →
    exec (.syncLossHoldover true) s = .next (loseGm s)) ∧
  (∀ (s : State),
    (s.tim.isGm = false ∧ ∀ p ∈ List.range 17, (ptpSt s p).lastSync = none) →
    exec (.syncLossHoldover false) s = .next (enterHoldover (forgetLine .b (forgetLine .a s)))) ∧
  (∀ (s : State) (t : Nat),
    (s.tim.servo = .stepSuspect ∧ s.tim.suspectAt = some t) →
    (requalifies (passTo (t + 2 * rl) s) = false) →
    exec .stepSuspectExpiry s =
      let u := passTo (t + 2 * rl) s
      .next (stepDues u (bump 0x40048 { u with tim.suspectAt := some u.up }))) ∧
  (∀ (s : State) (t : Nat),
    (s.tim.servo = .stepSuspect ∧ s.tim.suspectAt = some t) →
    (let u := passTo (t + 2 * rl) s
    requalifies u = true ∧ aboveLimit u (mean u.tim.hist) = false) →
    exec .stepSuspectExpiry s =
      let u := passTo (t + 2 * rl) s
      .next (stepDues u (lockSlewing (mean u.tim.hist) u))) ∧
  (∀ (s : State),
    (s.tim.servo = .holdover) →
    (s.tim.holdLimit = true) →
    exec .holdEstimateUpdate s =
      let u := toFrame s
      let t := u.up - u.tim.holdAt
      .next { u with tim.holdErr := u.tim.e0 + cfg u 0x260E 1 * t / rl + cfg u 0x260E 2 * t * t / (rl * rl) }) ∧
  (∀ (s : State),
    (s.tim.slewing = true) →
    exec (.slewDone) s = .next ({ passTo s.tim.slewEnd s with tim.slewing := false, tim.slewOff := 0, tim.freq := s.tim.settled })) ∧
  (∀ (s : State),
    exec (.reelWrap) s = .next (passToInstant (BitVec.ofNat 64 ((s.now.toNat / rl + 1) * rl)) s)) ∧
  (∀ (k : Fin 4) (s : State),
    ((ppsSt s k.val).armed = true ∧ domOn s .d2 = true) →
    (let u := passToInstant (ppsSt s k.val).next s
    ppsMode u k.val ≠ 2 ∧ (cfgOn u (0x2610 + k.val) 6 = false ∨ timeValid u = true)) →
    exec (.pulseEdge k) s =
      let u := passToInstant (ppsSt s k.val).next s
      .next (emit (.pulse k.val (cfg u (0x2610 + k.val) 4))
        (setPps k.val { ppsSt u k.val with armed := false, suppressed := false, lastEdge := some u.up } u))) ∧
  (∀ (k : Fin 4) (rising : Bool) (s : State),
    (cfgOn s (0x2614 + k.val) 1 = true ∧ (cfg s (0x2614 + k.val) 2).testBit (if rising then 0 else 1) = true) →
    ((capSt s k.val).fifo.length < 16 ∧ (∀ t, (capSt s k.val).lastEdge = some t → t + 64 ≤ s.up)) →
    exec (.captureEdge k rising) s =
      let x := capSt s k.val
      let u := bump (0x40214 + 0x20 * k.val)
        (setCap k.val { x with fifo := x.fifo ++ [(rising, timeNs s)], lastEdge := some s.up } s)
      .next (if x.fifo.isEmpty then raiseIrq 6 u else u)) ∧
  (∀ (who : Requester) (k : Fin 4) (s : State),
    (reaches s who = true ∧ featDenied s who 3 = false) →
    exec (.capTsRead who k) s =
      let x := capSt s k.val
      .next (emit (.readData who (0x40208 + 0x20 * k.val) ((x.fifo.head?.map (·.2)).getD 0)) (setCap k.val { x with fifo := x.fifo.tail } s)))

/-- Accesses to splice apertures, the core map, doorbells and semaphores act as R196, R200, R201, R207, R210, R211, R213, R406-R408, R410, R412 say. -/
def Obligations.ApertureAccessesComplete : Prop :=
  (∀ (bar4 : Bool) (a : BitVec 30) (d : List Byte) (s : State) (w : Nat),
    (reaches s .host = true ∧ winAt s bar4 a.toNat = some w) →
    (d ≠ [] ∧ a.toNat - winCfg s w 2 + d.length ≤ 2 ^ winCfg s w 3) →
    exec (.hostApertureWrite bar4 a d) s = .next (writeAccess w (a.toNat - winCfg s w 2) d .host s)) ∧
  (∀ (bar4 : Bool) (a : BitVec 30) (d : List Byte) (s : State) (w : Nat),
    (reaches s .host = true ∧ winAt s bar4 a.toNat = some w) →
    (d ≠ [] ∧ 2 ^ winCfg s w 3 < a.toNat - winCfg s w 2 + d.length) →
    exec (.hostApertureWrite bar4 a d) s =
      let k := 2 ^ winCfg s w 3 - (a.toNat - winCfg s w 2)
      .next (writeFrom bar4 d.length (a.toNat + k) (d.drop k) (writeAccess w (a.toNat - winCfg s w 2) (d.take k) .host s))) ∧
  (∀ (bar4 : Bool) (a : BitVec 30) (d : List Byte) (s : State),
    (reaches s .host = true ∧ winAt s bar4 a.toNat = none) →
    (d ≠ [] ∧ a.toNat % 4096 + d.length ≤ 4096) →
    exec (.hostApertureWrite bar4 a d) s = .next (bump 0x50068 s)) ∧
  (∀ (bar4 : Bool) (a : BitVec 30) (len : Fin 4097) (s : State),
    (reaches s .host = true) →
    exec (.hostApertureRead bar4 a len) s = .next (pump (closeRead s.spl.nextOp (readFrom s.spl.nextOp bar4 (len.val + 1) a.toNat len.val (openRead bar4 a.toNat s))))) ∧
  (∀ (bar4 : Bool) (a : BitVec 30) (op : Fin 3) (wide : Bool) (operand compare : BitVec 64) (s : State) (w : Nat),
    (reaches s .host = true ∧ winAt s bar4 a.toNat = some w) →
    exec (.hostAtomicOp bar4 a op wide operand compare) s = .next (pump (acceptOp (atomicOp s w (a.toNat - winCfg s w 2) (op.val + 3) (if wide then 8 else 4) operand compare .host) s))) ∧
  (∀ (hart : Fin 8) (ecc bar4 : Bool) (a : BitVec 56) (n o : Nat) (s : State) (w : Nat),
    (domOn s .d8 = true ∧ s.cpu.running.getLsbD hart.val = true ∧ domOn s .d10 = true) →
    (coreSize n = true ∧ coreArea s a.toNat n = some (.aperture bar4, o) ∧ o % n = 0 ∧ winAt s bar4 o = some w) →
    exec (.coreSpliceAccess hart ecc a (.load n)) s = .next (pump (coreRead w (o - winCfg s w 2) n s))) ∧
  (∀ (hart : Fin 8) (ecc bar4 : Bool) (a : BitVec 56) (d : List Byte) (o : Nat) (s : State) (w : Nat),
    (domOn s .d8 = true ∧ s.cpu.running.getLsbD hart.val = true ∧ domOn s .d10 = true) →
    (coreSize d.length = true ∧ coreArea s a.toNat d.length = some (.aperture bar4, o) ∧ o % d.length = 0 ∧ winAt s bar4 o = some w) →
    exec (.coreSpliceAccess hart ecc a (.store d)) s = .next (writeAccess w (o - winCfg s w 2) d .core s)) ∧
  (∀ (hart : Fin 8) (ecc bar4 : Bool) (a : BitVec 56) (op : AmoOp) (n : Nat) (x : BitVec 64) (o : Nat) (s : State) (w : Nat),
    (domOn s .d8 = true ∧ s.cpu.running.getLsbD hart.val = true ∧ domOn s .d10 = true) →
    (coreSize n = true ∧ coreArea s a.toNat n = some (.aperture bar4, o) ∧ o % n = 0 ∧ winAt s bar4 o = some w) →
    exec (.coreSpliceAccess hart ecc a (.amo op n x)) s = .next (pump (acceptOp (atomicOp s w (o - winCfg s w 2) (amoNumber op) n x 0 .core) s))) ∧
  (∀ (hart : Fin 8) (ecc bar4 : Bool) (a : BitVec 56) (o : Nat) (s : State) (w : Nat),
    (domOn s .d8 = true ∧ s.cpu.running.getLsbD hart.val = true ∧ domOn s .d10 = true) →
    (coreArea s a.toNat 4 = some (.aperture bar4, o) ∧ winAt s bar4 o = some w) →
    exec (.coreSpliceAccess hart ecc a .lrSc) s = .next (emit .coreFault s)) ∧
  (∀ (hart : Fin 8) (ecc bar4 : Bool) (a : BitVec 56) (x : CoreAccess) (o : Nat) (s : State),
    (domOn s .d8 = true ∧ s.cpu.running.getLsbD hart.val = true) →
    (coreSize (accessSize x) = true ∧ coreArea s a.toNat (accessSize x) = some (.aperture bar4, o) ∧ o % accessSize x ≠ 0) →
    exec (.coreSpliceAccess hart ecc a x) s = .next (emit .coreFault s)) ∧
  (∀ (hart : Fin 8) (ecc : Bool) (a : BitVec 56) (x : CoreAccess) (s : State),
    (domOn s .d8 = true ∧ s.cpu.running.getLsbD hart.val = true) →
    (coreArea s a.toNat (accessSize x) = none) →
    exec (.coreSpliceAccess hart ecc a x) s = .next (emit .coreFault s)) ∧
  (∀ (hart : Fin 8) (a : BitVec 56) (x : CoreAccess) (o : Nat) (s : State),
    (domOn s .d8 = true ∧ s.cpu.running.getLsbD hart.val = true ∧ domOn s .d10 = true) →
    (coreSize (accessSize x) = true ∧ coreArea s a.toNat (accessSize x) = some (.dram, o)) →
    exec (.coreSpliceAccess hart false a x) s = .next (memAnswer hart.val (memAccess s.cpu.dram o x).1 { s with cpu.dram := (memAccess s.cpu.dram o x).2 })) ∧
  (∀ (hart : Fin 8) (a : BitVec 56) (x : CoreAccess) (o : Nat) (s : State),
    (domOn s .d8 = true ∧ s.cpu.running.getLsbD hart.val = true ∧ domOn s .d10 = true) →
    (coreSize (accessSize x) = true ∧ coreArea s a.toNat (accessSize x) = some (.dram, o) ∧ accessReads x = true) →
    exec (.coreSpliceAccess hart true a x) s = .next (emit .coreFault (bump 0x9004C s))) ∧
  (∀ (hart : Fin 8) (ecc : Bool) (a : BitVec 56) (x : CoreAccess) (o : Nat) (s : State),
    (domOn s .d8 = true ∧ s.cpu.running.getLsbD hart.val = true ∧ domOn s .d10 = true) →
    (coreSize (accessSize x) = true ∧ coreArea s a.toNat (accessSize x) = some (.exports, o)) →
    exec (.coreSpliceAccess hart ecc a x) s = .next (memAnswer hart.val (memAccess s.spl.mem o x).1 { s with spl.mem := (memAccess s.spl.mem o x).2 })) ∧
  (∀ (hart : Fin 8) (ecc : Bool) (a : BitVec 56) (x : CoreAccess) (o : Nat) (s : State),
    (domOn s .d8 = true ∧ s.cpu.running.getLsbD hart.val = true) →
    (coreSize (accessSize x) = true ∧ coreArea s a.toNat (accessSize x) = some (.regs, o) ∧ o % accessSize x = 0) →
    exec (.coreSpliceAccess hart ecc a x) s = .next (coreRegs o x s)) ∧
  (∀ (hart h : Fin 8) (ecc : Bool) (d : List Byte) (s : State),
    (domOn s .d8 = true ∧ s.cpu.running.getLsbD hart.val = true) →
    (d.length = 8) →
    exec (.coreSpliceAccess hart ecc (BitVec.ofNat 56 (0x02004000 + 8 * h.val)) (.store d)) s = .next (mtimecmpWrite h.val (BitVec.ofNat 64 (leNat d)) s)) ∧
  (∀ (who : Requester) (w : Fin 64) (v : Word) (s : State),
    (reaches s who = true ∧ winOpen s w.val = true) →
    exec (.winDoorbellWrite who w v) s = .next (pump (acceptOp { winOp s w.val 0 4 .doorbell who with offset := 0, data := beBytes 4 v.toNat } s))) ∧
  (∀ (who : Requester) (w : Fin 64) (s : State),
    (reaches s who = true ∧ winOpen s w.val = true) →
    exec (.winSemAcquire who w) s = .next (pump (acceptOp (winOp s w.val 0 1 .acquire who) { s with spl.semState := tset s.spl.semState w.val 1 }))) ∧
  (∀ (who : Requester) (w : Fin 64) (s : State),
    (reaches s who = true ∧ winOpen s w.val = true) →
    exec (.winSemRelease who w) s = .next (pump (acceptOp (winOp s w.val 0 1 .release who) { s with spl.semState := tdel s.spl.semState w.val })))

/-- Answers of the splice bridge and its timers take effect as R210, R212, R215, R225 to R228, R233 and R234 say. -/
def Obligations.AnswersAndTimersComplete : Prop :=
  (∀ (b : Bulis) (s : State) (o : Op),
    (b.type = 6 ∧ headerBad (unpad b) = false ∧ dstBad s (unpad b) = false) →
    (s.spl.ops.find? (fun o => o.target = (unpad b).src && o.stream = (unpad b).stream && o.seq = some (unpad b).seq) = some o) →
    (answerCheck (unpad b) o.cscs = true) →
    exec (.bulisAckReceive b) s = .next (fencesGoOn (pump (ackApply (unpad b) o s)))) ∧
  (∀ (b : Bulis) (s : State) (o : Op),
    (b.type = 4 ∧ headerBad (unpad b) = false ∧ dstBad s (unpad b) = false) →
    (s.spl.ops.find? (fun o => o.nonPosted && o.target = (unpad b).src && o.stream = (unpad b).stream && o.seq = some (unpad b).seq
      && o.tag = some (unpad b).tag) = some o) →
    (answerCheck (unpad b) o.cscs = true ∧ o.expired = false) →
    exec (.completionReceive b) s = .next (fencesGoOn (pump (answerNp o (unpad b).status
        (if (unpad b).status = 0 then ((unpad b).payload.drop 8).take (opHead (unpad b).payload).len else []) s)))) ∧
  (∀ (u : Uid) (stream : Byte) (q : Word) (s : State) (o : Op),
    (opAt s u stream.toNat q = some o) →
    (o.attempts < cfg s 0x2703 0 ∧ o.lastTx + cfg s 0x2702 0 * pf < o.firstTx + retryBudget s) →
    exec (.bulisAckTimeout u stream q) s = .next (resendOp { o with attempts := o.attempts + 1 } (passTo (o.lastTx + cfg s 0x2702 0 * pf) s))) ∧
  (∀ (tag : BitVec 9) (s : State) (o : Op) (t : Nat),
    (s.spl.ops.find? (fun o => o.tag = some tag.toNat) = some o ∧ o.tryFrom = some t) →
    exec (.completionTimeout tag) s = .next (fencesGoOn (pump (closeOne o cTimeout false [] (passTo (t + winCfg s o.window 0x0A * pf) s))))) ∧
  (∀ (tag : BitVec 9) (s : State) (o : Op) (t : Nat),
    (s.spl.ops.find? (fun o => o.tag = some tag.toNat) = some o ∧ o.retryAt = some t) →
    exec (.semRetryTimer tag) s = .next (pump (passTo t s))) ∧
  (∀ (tag : BitVec 9) (s : State) (o : Op) (t : Nat),
    (s.spl.ops.find? (fun o => o.tag = some tag.toNat) = some o ∧ o.tryFrom = some t ∧ o.seq = none) →
    exec (.semAcquireTimeout tag) s = .next (fencesGoOn (pump (closeOne o cSemTimeout true [] (passTo (t + cfg s 0x2705 0 * pf) s))))) ∧
  (∀ (n : Fin 64) (s : State) (x : Sem),
    (tfind s.spl.sems n.val = some x) →
    exec (.semHoldLimit n) s =
      let u := passTo (x.since + cfg s 0x2706 0 * fr) s
      let v := passToInstant (nextPerf u.now) u
      .next (fire 15 4 ([BitVec.ofNat 8 n.val, 0] ++ beBytes 6 x.uid.toNat) (bump 0x50070 { v with spl.sems := tdel v.spl.sems n.val }))) ∧
  (∀ (s : State) (x : Prefetched) (r : List Prefetched),
    (s.spl.fetched = x :: r) →
    exec (.prefetchLifetimeExpiry) s = .next (discardFetched x (passTo (x.arrived + cfg s 0x2708 0 * pf) s))) ∧
  (∀ (u : Uid) (stream : Byte) (q : Word) (s : State) (k : Kept),
    (s.spl.kept.find? (fun k => k.uid = u && k.stream = stream.toNat && k.seq = q) = some k) →
    exec (.completionRetentionExpiry u stream q) s =
      let v := passTo k.until_ s
      .next { v with spl.kept := v.spl.kept.filter (fun x => x ≠ k) }) ∧
  (∀ (u : Uid) (stream : Byte) (s : State) (r : RecvSt),
    (s.spl.receivers.find? (recvOf u stream.toNat) = some r) →
    exec (.bulisRxForget u stream) s =
      let v := passTo (r.lastAt + 16 * rl) s
      .next { v with spl.receivers := v.spl.receivers.filter (fun x => !(recvOf u stream.toNat x && decide (x.lastAt + 16 * rl ≤ v.up))) })

/-- Frames, drains, logs, fences, aborts and forced disables of the splice bridge take effect as R207, R222, R227, R236, R237, R245, R249, R253 and R256 say. -/
def Obligations.BridgeControlCompletes : Prop :=
  (∀ (port : Fin 20) (mac : Mac) (b : Bulis) (ecc : List Word) (s : State),
    (domOn s .d2 = true) →
    (headerBad (unpad b) = false ∧ dstBad s (unpad b) = false ∧ checkPasses s (unpad b) = true ∧ b.type ≠ 4 ∧ b.type ≠ 6) →
    (b.type = 0x10 → damIngress s port.val = true) →
    exec (.bulisFrameReceive port mac b true ecc) s = .next (acceptedFrame port.val mac ecc (unpad b) s)) ∧
  (∀ (port : Fin 20) (mac : Mac) (b : Bulis) (ecc : List Word) (s : State),
    (domOn s .d2 = true ∧ b.type = 0x10 ∧ damIngress s port.val = false) →
    (headerBad (unpad b) = false ∧ dstBad s (unpad b) = false ∧ (checkPasses s (unpad b) = true ∨ checkStale s (unpad b) = true)) →
    exec (.bulisFrameReceive port mac b true ecc) s = .next (bumpOd 6 s)) ∧
  (∀ (u : Uid) (stream : Byte) (q : Word) (s : State) (o : Op),
    (opAt s u stream.toNat q = some o ∧ o.nonPosted = false) →
    exec (.retryBudgetExpiry u stream (some q)) s = .next (fencesGoOn (pump (budgetEnd o cTimeout (passTo (o.firstTx + retryBudget s) s))))) ∧
  (∀ (s : State),
    (cfgOn s 0x2701 0 = false ∧ splIdle s = true) →
    exec (.spliceDrained .bridge) s = .next (drainCheck .d12 (drainCheck .d8 { s with spl.drained := true }))) ∧
  (∀ (who : Requester) (s : State),
    (reaches s who = true ∧ featDenied s who 1 = false) →
    exec (.cePop who) s = .next ({ s with spl.ce := s.spl.ce.tail })) ∧
  (∀ (who : Requester) (s : State),
    (reaches s who = true ∧ featDenied s who 2 = false) →
    exec (.pwfPop who) s = .next ({ s with spl.pwf := s.spl.pwf.tail })) ∧
  (∀ (who : Requester) (s : State),
    (reaches s who = true ∧ featDenied s who 1 = true) →
    exec (.cePop who) s = .next (bump 0x90044 s)) ∧
  (∀ (who : Requester) (s : State),
    (reaches s who = true ∧ featDenied s who 0 = false) →
    exec (.dbValueRead who) s = .next (emit (.readData who 0x5310C ((s.spl.db.head?.map (·.value)).getD 0)) { s with spl.db := s.spl.db.tail })) ∧
  (∀ (who : Requester) (mask : BitVec 16) (s : State),
    (reaches s who = true) →
    exec (.stmFence who mask) s = .next (((List.range 16).filter (fun n => mask.toNat.testBit n)).foldl fenceRequest s)) ∧
  (∀ (n : Fin 16) (s : State),
    (streamSt s n.val = .fenced ∧ tget s.spl.fencing n.val false = false ∧ streamBusy s n.val = false) →
    exec (.fenceFramesSend n) s =
      let mine := s.spl.senders.filter (fun x => x.stream = n.val && !x.first)
      let u := { s with
        spl.fencing := tset s.spl.fencing n.val true
        spl.senders := s.spl.senders.filter (fun x => x.stream ≠ n.val || targetPresent s x.uid) }
      .next (fenceCheck n.val ((mine.filter (fun x => targetPresent s x.uid)).foldl (fenceFrame n.val) u))) ∧
  (∀ (w : Fin 64) (s : State),
    (reaches s .host = true) →
    exec (.abortGo w) s =
      let sel : Op → Bool := fun o => o.nonPosted && o.window == w.val
      let late := recordsHeld s (fun x => abortCode x.result.isSome == 9 && x.window == w.val)
      .next (fencesGoOn (pump { bumpBy 0x58474 late (forceClose sel s) with spl.abortDone := true, spl.aborted := countOps s sel, spl.tooLate := late }))) ∧
  (∀ (s : State),
    (reaches s .host = true) →
    exec (.splForceDisable) s = .next (fencesGoOn (pump { forceClose (fun _ => true) (applyVals [(key 0x2701 0, .num 0)] s) with spl.drained := true }))) ∧
  (∀ (w : Fin 64) (s : State),
    (reaches s .host = true) →
    exec (.winForceDisable w) s =
      let u := forceClose (fun o => o.window == w.val) (applyVals [(key (0x2740 + w.val) 1, .num 0)] s)
      .next (fencesGoOn (pump { u with spl.winDrained := putBit u.spl.winDrained w.val true }))) ∧
  (∀ (n : Fin 16) (s : State),
    (reaches s .host = true) →
    exec (.stmForceDisable n) s =
      let u := forceClose (fun o => o.stream == n.val) (applyVals [(key (0x2710 + n.val) 1, .num 0)] s)
      .next (fencesGoOn (pump { u with spl.stmDrained := putBit u.spl.stmDrained n.val true })))

/-- The software engine of the check unit runs as R267 and R268 say. -/
def Obligations.CheckEngineCompletes : Prop :=
  (∀ (who : Requester) (s : State),
    (reaches s who = true ∧ featDenied s who 5 = false ∧ s.chk.enable = true ∧ s.chk.run = .idle) →
    exec (.chkStart who) s = .next ({ s with chk.run := .stream, chk.crc := chkLoad s, chk.count := 0 })) ∧
  (∀ (who : Requester) (v : Word) (s : State),
    (reaches s who = true ∧ featDenied s who 5 = false ∧ s.chk.enable = true ∧ s.chk.run = .stream) →
    exec (.chkData who v) s = .next ({ s with chk.crc := crcBytes s.chk.crc (leBytes 4 v.toNat), chk.count := (s.chk.count + 4) % 2 ^ 27 })) ∧
  (∀ (who : Requester) (x : Byte) (s : State),
    (reaches s who = true ∧ featDenied s who 5 = false ∧ s.chk.enable = true ∧ s.chk.run = .stream) →
    exec (.chkData8 who x) s = .next ({ s with chk.crc := crcBytes s.chk.crc [x], chk.count := (s.chk.count + 1) % 2 ^ 27 })) ∧
  (∀ (who : Requester) (s : State),
    (reaches s who = true ∧ featDenied s who 5 = false ∧ s.chk.run = .stream) →
    exec (.chkFinish who) s = .next (chkSetDone (bump 0x60040 { s with chk.run := .idle, chk.result := s.chk.crc ^^^ 0xFFFFFFFF, chk.crc := s.chk.crc }))) ∧
  (∀ (who : Requester) (s : State),
    (reaches s who = true ∧ featDenied s who 5 = false ∧ s.chk.enable = true ∧ s.chk.run = .idle) →
    exec (.chkGo who) s = .next ({ s with chk.run := .descriptor, chk.crc := chkLoad s, chk.count := 0 })) ∧
  (∀ (data : List Byte) (s : State),
    (s.chk.run = .descriptor ∧ domOn s .d10 = true) →
    exec (.chkDescriptorDone false data) s =
      let l := padTo s.chk.len data
      .next (chkResult (crcBytes s.chk.crc l) { s with chk.count := l.length % 2 ^ 27 })) ∧
  (∀ (data : List Byte) (s : State),
    (s.chk.run = .descriptor) →
    exec (.chkDescriptorDone true data) s = .next (raiseIrq 20 { s with chk.run := .idle, chk.err := true, chk.count := min data.length s.chk.len })) ∧
  (∀ (who : Requester) (s : State),
    (reaches s who = true ∧ featDenied s who 5 = false) →
    exec (.chkDisable who) s = .next ({ s with chk.enable := false, chk.run := if s.chk.run = .stream then .idle else s.chk.run }))

/-- CAN, MVB, CANopen SDO and the process-data bridge take effect as R273 to R280, R283, R284, R305 and R306 say. -/
def Obligations.LegacyBusesComplete : Prop :=
  (∀ (c : Fin 2) (ext : Bool) (id : BitVec 29) (kind : CanKind) (d : List Byte) (errs : Byte) (tec : BitVec 9) (rec_ : Byte) (s : State) (i : Nat),
    (pdbActive s = true ∧ (canSt s c.val).state < 2) →
    (kind ≠ .remote ∧ (kind = .fd → cfg s 0x2803 (c.val + 1) ≠ 0) ∧ pdLen s c.val i ≤ d.length) →
    ((List.range 64).find? (canHit s c.val ext id) = some i) →
    exec (.canFrameReceive c ext id kind d errs tec rec_) s =
      let u := canErrors c.val errs.toNat tec rec_ s
      .next (srcArrive (64 * c.val + i) (d.take (pdLen s c.val i)) u.now (bump (canReg c.val 0) u))) ∧
  (∀ (c : Fin 2) (ext : Bool) (id : BitVec 29) (d : List Byte) (errs : Byte) (tec : BitVec 9) (rec_ : Byte) (s : State),
    ((canSt s c.val).state < 2 ∧ cfg s 0x2803 (c.val + 1) = 0) →
    exec (.canFrameReceive c ext id .fd d errs tec rec_) s = .next (bump (canReg c.val 8) (canErrors c.val errs.toNat tec rec_ s))) ∧
  (∀ (c : Fin 2) (s : State),
    ((canSt s c.val).state ≠ 2) →
    exec (.canBusOff c) s = .next (busFault (c.val + 1) (pdbError (2 * c.val + 1) (bump (canReg c.val 0x0C) (canFallOff c.val s))))) ∧
  (∀ (c : Nat) (s : State),
    canSt (canFallOff c s) c = { canSt (canSettle c s) c with
        state := 2, bus := none
        queue := match (canSt (canSettle c s) c).bus with
          | some (f, _) => if (canSt (canSettle c s) c).queue.any (replacedBy f) then (canSt (canSettle c s) c).queue else canQueue f (canSt (canSettle c s) c).queue
          | none => (canSt (canSettle c s) c).queue }) ∧
  (∀ (c : Fin 2) (s : State),
    (cfgOn s 0x2805 (c.val + 1) = false) →
    exec (.canBusOffRecovery c) s = .next (canRecover c.val s)) ∧
  (∀ (mask : BitVec 2) (s : State),
    (reaches s .host = true) →
    exec (.canRecover mask) s = .next (canRecoverWrite mask.toNat s)) ∧
  (∀ (addr : BitVec 12) (poll : MvbPoll) (s : State) (i : Nat),
    (cfg s 0x2808 0 ≠ 0 ∧ pdbActive s = true ∧ poll.fcode.val ≠ 15) →
    ((List.range 64).find? (fun i => sinkEnabled s 2 i && mvbEntry s i % 2 ^ 12 = addr.toNat && mvbEntry s i / 2 ^ 16 % 8 = poll.fcode.val) = some i) →
    exec (.mvbPoll addr poll) s =
      let u := mvbLines poll.bad (mvbSeen s)
      .next (bump 0x68084 (emit (.mvb i (padTo (pdLen u 2 i) (sinkSt u (sinkNo 2 i)).data)) u))) ∧
  (∀ (addr : BitVec 12) (d : List Byte) (bad : Option (Fin 2)) (s : State) (i : Nat),
    (cfg s 0x2808 0 ≠ 0 ∧ pdbActive s = true) →
    ((List.range 64).find? (fun i => srcEnabled s (128 + i) && mvbEntry s i % 2 ^ 12 = addr.toNat) = some i) →
    exec (.mvbSinkReceive addr d bad) s =
      let u := mvbLines bad (mvbSeen s)
      .next (srcArrive (128 + i) (padTo (pdLen u 2 i) d) u.now (bump 0x68080 u))) ∧
  (∀ (s : State),
    (cfg s 0x2808 0 ≠ 0 ∧ s.pdb.silent = false) →
    exec (.mvbSilence) s = .next (busFault 3 (pdbError 5 { passTo (s.pdb.mvbLast + cfg s 0x280A 0 * fr) s with pdb.silent := true }))) ∧
  (∀ (kind : Fin 5) (i : Fin 64) (s : State) (t : Nat),
    (kind.val ≠ 2 ∧ kind.val ≠ 3 ∧ sinkEnabled s kind.val i.val = true ∧ pdbActive s = true) →
    (sinkDue s kind.val i.val = some t) →
    exec (.sinkEmission kind i) s =
      let u := passTo t s
      .next (if kind.val = 4 then emitSink 4 i.val u else (canDue u kind.val).foldl (fun s j => emitSink kind.val j s) u)) ∧
  (∀ (n : Fin 256) (s : State),
    ((srcSt s n.val).fresh = true ∧ srcLimit s n.val ≠ 0 ∧ srcEnabled s n.val = true) →
    exec (.sourceStale n) s =
      let u := passTo ((srcSt s n.val).lastAt + srcLimit s n.val * fr) s
      let v := passToInstant (nextPerf u.now) u
      .next (srcUpdate n.val (fire 17 3 [BitVec.ofNat 8 n.val]
        (pdbError 6 (bump 0x680A0 (setSrc n.val { srcSt v n.val with fresh := false } v)))))) ∧
  (∀ (b : List Byte) (s : State),
    (pdbActive s = true ∧ b.getD 0 0 = 1) →
    ((List.range 64).filter (fun k => cfg s 0x2838 (k + 1) ≠ 0 && cfg s 0x2838 (k + 1) = beNat ((b.drop 4).take 4)) ≠ []) →
    exec (.pdFrameReceive b) s = .next (((List.range 64).filter (fun k => cfg s 0x2838 (k + 1) ≠ 0 && cfg s 0x2838 (k + 1) = beNat ((b.drop 4).take 4))).foldl (pdSub b) s)) ∧
  (∀ (s : State),
    (reaches s .host = true) →
    exec (.pdbForceStop) s = .next (pdAbandon (canAbandon (canAbandon (applyVals [(key 0x2801 0, .num 0)] s) 0) 1))) ∧
  (∀ (s : State),
    (cfgOn s 0x2801 0 = false) →
    exec .pdbDrained s =
      let u := (List.range 17).foldl (fun s p => settleWire p s) ([0, 1].foldl (fun s c => canRun c ((canSt s c).queue.length + 1) s) s)
      .next (if pdbIdle u then { u with pdb.drained := true } else u)) ∧
  (∀ (c : Fin 2) (m : SdoIn) (s : State),
    (sdoRuns s c.val = true ∧ m.ext = false ∧ m.id.toNat = 0x600 + cfg s 0x2009 (c.val + 1)) →
    (m.usdo = true → cfg s 0x2803 (c.val + 1) ≠ 0) →
    exec (.sdoRequestReceive c m) s = .next (sdoServe c m.req { s with od.sdoFd := putBit s.od.sdoFd c.val m.usdo })) ∧
  (∀ (c : Fin 2) (s : State) (x : Sdo),
    (tfind s.od.sdo c.val = some x) →
    exec (.sdoSegmentTimeout c) s = .next (sdoAbort c x.index x.sub aSdoTimeout (bumpOd 7 (passTo x.deadline s)))) ∧
  (∀ (c : Fin 2) (s : State),
    (cfg s 0x1017 0 ≠ 0 ∧ sdoRuns s c.val = true) →
    exec (.heartbeatProduce c) s =
      let u := passTo (tget s.od.hbAt c.val s.up) s
      .next (canPut c.val { id := 0x700 + cfg u 0x2009 (c.val + 1), load := .heartbeat (heartbeatState u) }
        { u with od.hbAt := tset u.od.hbAt c.val (u.up + cfg s 0x1017 0 * fr) }))

/-- The application cluster, its rings, the supervisor pairs and MACsec take effect as R412, R413, R415, R419, R421, R422 and R425 say. -/
def Obligations.ClusterAndKeysComplete : Prop :=
  (∀ (who : Requester) (s : State),
    (reaches s who = true) →
    exec (.cpuForceStop who) s =
      let u := coreSpliceClose (applyVals [(key 0x2C01 0, .num 0)] { s with cpu.running := 0 })
      .next (drainCheck .d8 { u with cpu.drained := true })) ∧
  (∀ (s : State),
    (cfgOn s 0x2C01 0 = false ∧ coreSpliceIdle s = true) →
    exec (.cpuDrained) s = .next (drainCheck .d8 { s with cpu.drained := true })) ∧
  (∀ (hart : Fin 8) (cmp : BitVec 64) (s : State),
    (domOn s .d8 = true) →
    (tfind s.cpu.mtimecmp hart.val = none ∨ tfind s.cpu.mtimecmp hart.val = some cmp) →
    exec (.mtimecmpMatch hart cmp) s =
      let u := passToInstant cmp { s with cpu.mtimecmp := tset s.cpu.mtimecmp hart.val cmp }
      .next { u with cpu.timerIrq := putBit u.cpu.timerIrq hart.val true }) ∧
  (∀ (core : Fin 8) (tail : Word) (rx : List NicRx) (tx : List NicTx) (s : State),
    (reaches s .core = true) →
    exec (.nicTailWrite core tail rx tx) s =
      let n := nicSt s core.val
      let u := giveRx core.val (bitsOf n.size 28 16) (bitsOf n.tail 28 16) rx s
      .next (tx.foldl (nicSend core.val) { u with cpu.nics := tset u.cpu.nics core.val { n with tail := tail &&& 0x1FFF1FFF } })) ∧
  (∀ (pair : Fin 2) (s : State),
    (domOn s .d2 = true) →
    exec (.pairMismatch pair true false) s = .next (pairLost pair.val (isolate pair.val 0 s))) ∧
  (∀ (pair member : Fin 2) (s : State),
    (domOn s .d2 = true) →
    exec (.pairSelfCheck pair member false) s = .next (pairLost pair.val (isolate pair.val member.val s))) ∧
  (∀ (p : Fin 4) (x : MkaIn) (s : State),
    (mkaRuns s p.val = true ∧ x.cakOk = true) →
    (x.newSak = false ∧ (x.keyServer = false ∨ (msSt s p.val).rxSa = true) ∧ x.peerRx = false) →
    exec (.mkaFrameReceive p x) s = .next (setMs p.val { msSt s p.val with mkaAt := some s.up, keyServer := x.keyServer } s)) ∧
  (∀ (p : Fin 4) (x : MkaIn) (s : State),
    (mkaRuns s p.val = true ∧ x.cakOk = false) →
    exec (.mkaFrameReceive p x) s = .next (securityEvent 4 p.val s)) ∧
  (∀ (s : State),
    ([0, 1, 2, 3].any (mkaRuns s) = true) →
    exec .mkaHelloSend s =
      let u := match s.cpu.helloAt with
        | some t => passTo (t + cfg s 0x2C32 0 * fr) s
        | none => s
      .next ([0, 1, 2, 3].foldl (fun s p => if mkaRuns s p then mkaSend p s else s) { u with cpu.helloAt := some u.up })) ∧
  (∀ (p : Fin 4) (s : State),
    (mkaRuns s p.val = true ∧ (msSt s p.val).keyServer = true ∧ (msSt s p.val).txSa = true ∧ (msSt s p.val).rekeying = false) →
    (0xC0000000 ≤ (msSt s p.val).txPn.toNat) →
    exec (.rekeyTrigger p) s = .next (mkaSend p.val (installRx p.val s))) ∧
  (∀ (p : Fin 4) (s : State),
    ((msSt s p.val).txSa = true ∧ (msSt s p.val).exhausted = false ∧ (msSt s p.val).txPn = 0xFFFFFFFF) →
    exec (.pnExhausted p) s = .next (securityEvent 5 p.val (setMs p.val { msSt s p.val with exhausted := true } s))) ∧
  (∀ (p : Fin 4) (s : State) (t : Nat),
    ((msSt s p.val).mkaAt = some t) →
    exec (.mkaLifetimeExpiry p) s =
      let u := passTo (t + 3 * cfg s 0x2C32 0 * fr) s
      .next (securityEvent 3 p.val (setMs p.val { msSt u p.val with mkaAt := none, rxSa := false, txSa := false, rekeying := false } u)))

/-- Faults, retries, drains and the return of power domains and planes take effect as R25, R37, R53, R59, R437, R438 and R439 say. -/
def Obligations.DomainsComplete : Prop :=
  (∀ (d : Dom) (s : State),
    (d ≠ .d0 ∧ d ≠ .d2 ∧ s.node ≠ .asleep ∧ domOn s d = true) →
    exec (.domainFault d) s = .next (faultDomain d s)) ∧
  (∀ (s : State),
    (s.node ≠ .asleep ∧ domOn s .d2 = true) →
    exec (.domainFault .d2) s = .next (resetNode 2 (faultDomain .d2 s))) ∧
  (∀ (d : Dom) (s : State) (t : Nat),
    ((domSt s d).retryAt = some t) →
    exec (.domainRetry d) s =
      let u := passTo t s
      .next (powerFollow (setDom d { domSt u d with retryAt := none } u))) ∧
  (∀ (mask : Word) (s : State),
    (reaches s .host = true) →
    exec (.domFaultClear mask) s = .next (domFaultClear mask s)) ∧
  (∀ (l : Line) (s : State),
    (s.pwr.returning.getLsbD (lineIx l) = true ∧ planeComplete s l = true ∧ (lineSt s l).checking = false) →
    exec (.planeRejoin l) s =
      let u := toFrame s
      .next (insertLine l { u with pwr.returning := putBit u.pwr.returning (lineIx l) false })) ∧
  (∀ (l : Line) (s : State),
    (s.pwr.outPending.getLsbD (lineIx l) = true ∧ lineEnergised s l = false) →
    exec (.planeDomainsOff l) s = .next (powerFollow { s with
        pwr.outPending := putBit s.pwr.outPending (lineIx l) false
        pwr.outDone := putBit s.pwr.outDone (lineIx l) true })) ∧
  (∀ (d : Dom) (s : State) (t : Nat),
    ((domSt s d).drainBy = some t) →
    exec (.domainOffDrainTimeout d) s =
      let u := passTo t s
      .next (powerFollow (setDom d { domSt u d with drainBy := none } u))) ∧
  (∀ (s : State),
    (domOn s .d2 = true) →
    exec (.commonFabricFault) s = .next (enterFault s)) ∧
  (∀ (l : Line) (v : BitVec 16) (s : State),
    (lineEnergised s l = true) →
    (v.toNat < 8 ∨ (if pullIn s l then 130 else 70) < v.toNat) →
    exec (.relayCoilFault { line := l, current := v }) s =
      let u := releaseNow l s
      .next (resumeInsert (reportLine l (setLine l { lineSt u l with coilFault := true } u)))) ∧
  (∀ (l : Line) (v : BitVec 16) (s : State),
    (8 ≤ v.toNat ∧ v.toNat ≤ 70) →
    exec (.relayCoilFault { line := l, current := v }) s = .next (s))

/-- The supply, its bank, sag, and the reads that clear peaks take effect as R59, R304, R431 to R435, R441, R445 and R475 say. -/
def Obligations.SupplyComplete : Prop :=
  (∀ (m : Supply) (s : State),
    (s.pwr.holdupOn = false ∧ s.node ≠ .off) →
    (inputOf m < 140000) →
    exec (.holdupSwitchClose m) s =
      let u := takeSupply m s
      .next (bump 0x2044 { u with pwr.holdupOn := true })) ∧
  (∀ (m : Supply) (s : State),
    (140000 ≤ inputOf m) →
    exec (.holdupSwitchClose m) s = .next (takeSupply m s)) ∧
  (∀ (m : Supply) (s : State),
    (155000 < inputOf m) →
    exec (.holdupSwitchOpen m) s = .next ({ takeSupply m s with pwr.holdupOn := false })) ∧
  (∀ (m : Supply) (s : State),
    exec (.bankOk m) s = .next (takeSupply m s)) ∧
  (∀ (m : Supply) (s : State),
    exec (.holdupLow m) s = .next (takeSupply m s)) ∧
  (∀ (m : Supply) (s : State),
    ((takeSupply m s).pwr.bankOk = true ↔ 15000 < m.bank.toNat) ∧ ((takeSupply m s).pwr.holdupLow = true ↔ m.bank.toNat < 6400)) ∧
  (∀ (m : Supply) (s : State),
    (s.node ≠ .off ∧ s.node ≠ .asleep) →
    (m.bus.toNat < 9500) →
    exec (.busLow m) s = .next (resetNode 2 (takeSupply m s))) ∧
  (∀ (m : Supply) (s : State),
    (s.node ≠ .off ∧ s.node ≠ .asleep) →
    (9500 ≤ m.bus.toNat) →
    exec (.busLow m) s = .next (takeSupply m s)) ∧
  (∀ (s : State),
    exec (.d0SupplyLost) s = .next (supplyLost s)) ∧
  (∀ (input bus : Bool) (m : Supply) (s : State),
    (s.node ≠ .off ∧ (input && inputSags m s || bus && busSags m) = true ∧ s.pwr.sag = false) →
    exec (.sagBegin input bus m) s =
      let v := takeSupply m s
      let u := { v with pwr.sagInput := v.pwr.sagInput || input && inputSags m s, pwr.sagBus := v.pwr.sagBus || bus && busSags m }
      .next (storeStopped (fire 26 4 [if input && inputSags m s then 1 else 2] (bump 0x2040 (raiseIrq 15
        { u with pwr.sag := true, pwr.sagAt := u.up, log.lastWordsDone := false, log.lastWordsLost := false }))))) ∧
  (∀ (m : Supply) (s : State),
    (s.pwr.sag = true ∧ s.cpu.imageWait = none ∧ supplyHigh m s = true) →
    exec (.sagEnd m) s =
      let u := takeSupply m s
      .next (raiseFuse (raiseIrq 15 { u with pwr.sag := false, pwr.sagInput := false, pwr.sagBus := false, cpu.imageWait := none }))) ∧
  (∀ (m : Supply) (s : State),
    (s.pwr.sag = true ∧ supplyHigh m s = false) →
    exec (.sagEnd m) s = .next (takeSupply m s)) ∧
  (∀ (t : BitVec 16) (s : State),
    (s.node ≠ .off ∧ s.pwr.tempOut = false) →
    (t.toInt < -110 ∨ 250 < t.toInt) →
    exec (.tempExcursion t) s = .next (fire 30 4 (beBytes 2 t.toNat) { setTemp t.toInt s with pwr.tempOut := true })) ∧
  (∀ (t : BitVec 16) (s : State),
    (s.node ≠ .off ∧ s.node ≠ .fault ∧ 270 < t.toInt) →
    exec (.thermalFault t) s = .next (enterFault (bump 0x204C { takeTemp t s with pwr.thermal := true }))) ∧
  (∀ (who : Requester) (s : State),
    (reaches s who = true) →
    exec (.tempStatusRead who) s = .next ({ emit (.readData who 0x2018 (tempWord s)) s with pwr.tempMax := none })) ∧
  (∀ (who : Requester) (k : Fin 8) (s : State),
    (reaches s who = true) →
    exec (.loopStatusRead who k) s = .next (setLoop k.val { loopSt s k.val with hi := 0, lo := 0 } (emit (.readData who (0x2104 + 0x10 * k.val) (loopWord s k.val)) s))) ∧
  (∀ (who : Requester) (p : Fin 4) (s : State),
    (reaches s who = true) →
    exec (.eqStatusRead who p) s = .next (setLink p.val { linkSt s p.val with marginMin := none } (emit (.readData who (prt p.val 0x0C) (eqStatusWord s p.val)) s)))

/-- A core-voltage loop in its fixed and idle cases, its saturation and its long saturation take effect as R441 and R443 say. -/
def Obligations.LoopsComplete : Prop :=
  (∀ (k : Fin 8) (occ : Fin 101) (completions : Word) (floorV : BitVec 10) (s : State),
    (domOn s (loopDom k.val) = true ∧ cfg s 0x2110 (k.val + 1) = 2) →
    exec (.loopUpdate k occ completions floorV) s =
      let x := loopSt s k.val
      let v := moveVolt x.now 1600
      .next (setLoop k.val { x with
        now := v, hi := max x.hi v, lo := if x.lo = 0 then v else min x.lo v, rate := completions.toNat
        floor := false, satSince := none, satCounted := false, satNoted := false } { s with free := s.free + 1 })) ∧
  (∀ (k : Fin 8) (s : State) (t : Nat),
    ((loopSt s k.val).satSince = some t ∧ (loopSt s k.val).satCounted = false ∧ domOn s (loopDom k.val) = true) →
    exec (.loopSaturation k) s =
      let u := passTo (t + fr) s
      .next (bump (0x210C + 0x10 * k.val) (setLoop k.val { loopSt s k.val with satHigh := true, satCounted := true } (passToInstant (nextPerf u.now) u)))) ∧
  (∀ (k : Fin 4) (s : State) (t : Nat),
    ((loopSt s k.val).satSince = some t ∧ (loopSt s k.val).satNoted = false ∧ domOn s (loopDom k.val) = true) →
    exec (.loopSatLong k) s = .next (fire 2 4 [BitVec.ofNat 8 (domNumber (loopDom k.val)), planeByte (loopDom k.val)]
        (setLoop k.val { loopSt s k.val with satNoted := true } (passTo (t + rl) s))))

/-- Supply, bus, secure boot, DAWN and node resets take effect as R416 to R418 and R450 to R453 say. -/
def Obligations.StartAndResetComplete : Prop :=
  (∀ (handleLocked : Bool) (s : State),
    (s.node = .off) →
    exec (.powerOn handleLocked) s = .next ({ State.reset with
        pending := s.pending, up := s.up, free := s.free, out := s.out, uid := s.uid, baseMac := s.baseMac, serial := s.serial
        hwRev := s.hwRev, fwVersion := s.fwVersion
        hpl := { seatedHv := true, seatedLv := true, handleLocked := handleLocked, warnSrc := s.hpl.warnSrc, boot := .started
                 t0 := s.up, lampTestBy := some (s.up + 68 * fr) }
        log := { recKept s with powerCycle := s.log.powerCycle + 1, prevLastWords := s.log.prevLastWords }
        od := odKept s, cpu := cpuKept s, bb.a.lastSwitch := s.bb.a.lastSwitch, bb.b.lastSwitch := s.bb.b.lastSwitch })) ∧
  (∀ (s : State),
    (s.node = .dawn ∧ s.hpl.boot = .started) →
    exec (.busInRange) s = .next (powerFollow { s with hpl.boot := .busInRange })) ∧
  (∀ (active other : ImageCheck) (s : State),
    (s.node = .dawn ∧ s.hpl.boot = .busInRange ∧ imageAccepted s (slotCheck s s.cpu.activeSlot active) = true) →
    exec (.firmwareVerified active other) s = .next ({ s with hpl.boot := .verified, cpu.runVersion := (slotCheck s s.cpu.activeSlot active).version.val })) ∧
  (∀ (active other : ImageCheck) (s : State),
    (s.node = .dawn ∧ s.hpl.boot = .busInRange ∧ imageAccepted s (slotCheck s s.cpu.activeSlot active) = false) →
    (imageAccepted s (slotCheck s (!s.cpu.activeSlot) other) = true) →
    exec (.firmwareVerified active other) s =
      .next (securityEvent 1 (if s.cpu.activeSlot then 0 else 1)
        { s with hpl.boot := .verified, cpu.runVersion := (slotCheck s (!s.cpu.activeSlot) other).version.val, cpu.fallback := true, cpu.activeSlot := !s.cpu.activeSlot })) ∧
  (∀ (active other : ImageCheck) (s : State),
    (s.node = .dawn ∧ s.hpl.boot = .busInRange) →
    (imageAccepted s (slotCheck s s.cpu.activeSlot active) = false ∧ imageAccepted s (slotCheck s (!s.cpu.activeSlot) other) = false) →
    exec (.firmwareVerified active other) s = .next ({ enterFault { s with cpu.bootFail := true } with hpl.faultRecoverBy := none })) ∧
  (∀ (s : State),
    (s.node = .dawn ∧ s.hpl.boot = .verified) →
    exec .poweronDawn s =
      let u := powerFollow { restoreStored s with hpl.boot := .dawned, wak.consistAwake := true, wak.idleFrom := s.up, wak.lastKeepAlive := [] }
      let v := canStart (startConfigured (reportReplaced (storedNow s ++ s.od.saved) u))
      .next (fire 0 2 ([if v.log.prevLastWords then 1 else 0, 0, 0, 0] ++ beBytes 4 (highestSeq v).toNat) v)) ∧
  (∀ (s : State),
    (s.hpl.boot = .dawned ∧ domOn s .d8 = true) →
    exec (.appImageVerified true) s = .next ({ s with cpu.imgOk := true, cpu.running := if cfgOn s 0x2C01 0 then 0xFF else 0 })) ∧
  (∀ (s : State),
    (s.hpl.boot = .dawned ∧ domOn s .d8 = true ∧ s.cpu.appKey = true) →
    exec (.appImageVerified false) s = .next (securityEvent 2 0 (powerFollow (setDom .d8 { domSt s .d8 with heldOff := true } s)))) ∧
  (∀ (s : State) (t : Nat),
    (s.hpl.lampTestBy = some t) →
    exec (.lampTestEnd) s = .next ({ passTo t s with hpl.lampTestBy := none })) ∧
  (∀ (c : ResetCause) (s : State),
    (s.node ≠ .off) →
    exec (.nodeReset c) s = .next (resetNode (resetCode c) s)) ∧
  (∀ (s : State),
    (s.node ≠ .off ∧ s.node ≠ .asleep) →
    exec (.pair0WatchdogExpiry) s = .next (resetNode 6 s)) ∧
  (∀ (s : State) (t : Nat),
    (s.hpl.faultRecoverBy = some t ∧ s.node = .fault ∧ s.pwr.thermal = false) →
    exec (.faultRecoveryExpiry) s = .next (resetNode 8 { passTo t s with hpl.faultRecoverBy := none })) ∧
  (∀ (t : BitVec 16) (s : State),
    (s.node = .fault ∧ s.hpl.waitCool = true ∧ t.toInt < 250) →
    exec (.thermalResetCooled t) s = .next (resetNode 8 (takeTemp t s)))

/-- Removal warnings, the exit path, its limits and its cancel take effect as R59, R458 to R460, R462 and R463 say. -/
def Obligations.ExitPathCompletes : Prop :=
  (∀ (s : State),
    (s.node ≠ .off ∧ s.node ≠ .exit ∧ s.node ≠ .asleep ∧ s.node ≠ .fault ∧ s.hpl.safeToRemove = false) →
    exec .ejectOpen s =
      let u := { s with hpl.handleLocked := false, hpl.lockedFrom := none, hpl.warn := true, hpl.warnSrc := 1, hpl.warnAt := s.up }
      .next (startExit (fire 27 4 [] (raiseIrq 17 (bump 0x3040 u))))) ∧
  (∀ (s : State),
    (s.node ≠ .asleep) →
    exec (.ejectClose) s = .next (watchLock { s with hpl.handleLocked := true })) ∧
  (∀ (s : State),
    (reaches s .host = true ∧ s.node ≠ .off ∧ s.node ≠ .exit ∧ s.node ≠ .asleep ∧ s.node ≠ .fault ∧ s.hpl.safeToRemove = false) →
    exec (.exitReq 0xA5) s =
      let u := { s with hpl.warn := true, hpl.warnSrc := 2, hpl.warnAt := s.up }
      .next (startExit (fire 27 4 [] (raiseIrq 17 (bump 0x3040 u))))) ∧
  (∀ (s : State),
    (s.node ≠ .off ∧ s.node ≠ .exit ∧ s.hpl.safeToRemove = false) →
    exec (.seatedOpen true) s = .next (releaseBoth { s with hpl.seatedHv := false, hpl.lockedFrom := none, hpl.warnSrc := 4 })) ∧
  (∀ (s : State),
    (s.node = .exit ∧ s.hpl.exit = .warned) →
    exec (.exitReleaseStart) s = .next ({ startRelease (passToInstant s.hpl.releaseAt s) with hpl.exit := .releasing })) ∧
  (∀ (s : State) (t : Nat),
    (s.bb.seq = .relDone t ∧ s.node = .exit ∧ s.hpl.exit = .releasing) →
    exec (.relDoneTimer) s = .next (exitReleased { passTo t s with bb.seq := .none, bb.relDone := true })) ∧
  (∀ (s : State) (t : Nat),
    (s.hpl.recDrainBy = some t) →
    exec (.recorderDrainLimit) s = .next (if s.log.queue.isEmpty then reachSafe s else reachSafe (passTo t s))) ∧
  (∀ (s : State),
    (reaches s .host = true ∧ s.hpl.hostHold = true) →
    exec (.hostDone) s = .next (endHostHold s)) ∧
  (∀ (s : State) (t : Nat),
    (s.hpl.hostHoldBy = some t) →
    exec (.hostHoldExpiry) s = .next (endHostHold (passTo t s))) ∧
  (∀ (s : State) (t : Nat),
    (s.hpl.lockedFrom = some t ∧ s.hpl.exit = .hostGone) →
    exec (.exitCancel) s = .next (resetNode 7 (passTo (t + 16 * fr) s))) ∧
  (∀ (s : State),
    (reaches s .host = true ∧ s.node = .member) →
    exec (.nodeResetRequest 0xA5) s = .next (startExit { s with hpl.resetAsked := some .host })) ∧
  (∀ (s : State),
    (domOn s .d12 = true ∧ s.hpl.hostHold = false) →
    exec .pcieReset s =
      let u := endpointReset (fencesGoOn (forceClose (fun o => o.who = .host) s))
      .next { u with hpl.noHold := u.hpl.noHold || u.node = .exit })

/-- IRQ_CAUSE, IRQ_MASK and IRQ_VEC, the endpoint's enables, and a reel boundary of local time take effect as R371, R461, R469, R482, R483 and R484 say. -/
def Obligations.InterruptsComplete : Prop :=
  (∀ (mask : Word) (s : State),
    (reaches s .host = true) →
    (∀ b, b < 23 → bitOf mask b = true → s.irq.cause.getLsbD b = true → heldCond s b = false) →
    exec (.irqCauseClear mask) s = .next ({ s with irq.cause := w1c s.irq.cause mask.toNat })) ∧
  (∀ (b : Fin 23) (s : State),
    (reaches s .host = true ∧ s.irq.cause.getLsbD b.val = true ∧ heldCond s b.val = true) →
    exec (.irqCauseClear (BitVec.ofNat 32 (2 ^ b.val))) s = .next (riseCause b.val { s with irq.cause := w1c s.irq.cause (2 ^ b.val) })) ∧
  (∀ (v : Word) (s : State),
    (reaches s .host = true) →
    (∀ b, b < 23 → bitOf v b = true → s.irq.mask.getLsbD b = false → s.irq.cause.getLsbD b = false) →
    exec (.irqMaskWrite v) s = .next ({ s with irq.mask := BitVec.ofNat 23 v.toNat })) ∧
  (∀ (b : Fin 23) (s : State),
    (reaches s .host = true ∧ s.irq.mask = 0 ∧ s.irq.cause.getLsbD b.val = true) →
    exec (.irqMaskWrite (BitVec.ofNat 32 (2 ^ b.val))) s = .next (msixDue (vecOf s.irq b.val) { s with irq.mask := BitVec.ofNat 23 (2 ^ b.val) })) ∧
  (∀ (b : Fin 23) (v : Fin 64) (s : State),
    (reaches s .host = true) →
    exec (.irqVecWrite b v) s = .next (if v.val ≠ vecOf s.irq b.val && s.irq.cause.getLsbD b.val && s.irq.mask.getLsbD b.val
      then msixDue v.val { s with irq.vec := tset s.irq.vec b.val v.val } else { s with irq.vec := tset s.irq.vec b.val v.val })) ∧
  (∀ (s : State),
    (s.hpl.boot = .dawned ∧ domOn s .d12 = true) →
    exec (.endpointReady) s = .next ({ s with irq.retryStatus := false })) ∧
  (∀ (bar4 : Bool) (a : BitVec 30) (n : Fin 4097) (k : Fin 4) (s : State),
    (domOn s .d12 = true ∧ s.irq.d3hot = true) →
    exec (.hostApertureRead bar4 a n) s = .next (emit .unsupported s) ∧ exec (.capTsRead .host k) s = .next (emit .unsupported s) ∧
      exec (.dbValueRead .host) s = .next (emit .unsupported s) ∧ exec (.evtTsRead .host) s = .next (emit .unsupported s) ∧
      exec (.tempStatusRead .host) s = .next (emit .unsupported s)) ∧
  (∀ (on toD0 : Bool) (s : State),
    (domOn s .d12 = true ∧ s.irq.retryStatus = false) →
    exec (.busMasterEnable on toD0) s = .next (flushPba { s with irq.busMaster := on, irq.d3hot := s.irq.d3hot && !toD0 })) ∧
  (∀ (s : State),
    (domOn s .d12 = true ∧ s.irq.retryStatus = false) →
    exec (.d3hotEntry) s = .next ({ s with irq.d3hot := true })) ∧
  (∀ (on funcMask : Bool) (s : State),
    (domOn s .d12 = true ∧ s.irq.retryStatus = false) →
    exec (.msixEnable on funcMask) s = .next (flushPba { s with irq.msixOn := on, irq.funcMask := funcMask })) ∧
  (∀ (s : State),
    exec (.opTimeReelTick) s = .next (passToInstant (BitVec.ofNat 64 ((s.now.toNat / rl + 1) * rl)) s))

/-- Triggers, the write order, marks, overwrite and last words take effect as R366, R368, R370 to R374, R378, R379 and R382 say. -/
def Obligations.RecorderWritingCompletes : Prop :=
  (∀ (who : Requester) (source : BitVec 6) (sev : Fin 8) (data : BitVec 64) (s : State),
    (reaches s who = true ∧ 56 ≤ source.toNat ∧ recLatching s = true ∧ s.log.queue.length < 64) →
    (s.log.queue.any (coalesces source.toNat sev.val s.up) = false ∧ (who = .host ∨ sev.val < 7)) →
    exec (.recTrigWrite (.reg who) source sev data) s = .next ({ s with log.queue := s.log.queue ++ [latchEntry source.toNat sev.val (trigData s) s] })) ∧
  (∀ (e : RecEntry) (q : List RecEntry) (s : State),
    (s.log.queue = e :: q ∧ s.log.writing = none ∧ nandReady s = true ∧ entryPages e ≤ freePages s ∧ e.seq = none ∧ s.log.clear = none) →
    exec (.entryWriteStart) s = .next ({ s with
        log.queue := { e with seq := some s.log.nextSeq, lost := s.log.lost, refused := s.log.refusedCount } :: q
        log.writing := some (.page 0)
        log.stopped := false
        log.nextSeq := s.log.nextSeq + 1
        log.lost := 0
        log.refusedCount := 0 })) ∧
  (∀ (e : RecEntry) (q : List RecEntry) (s : State),
    (s.log.queue = e :: q ∧ s.log.writing = none ∧ nandReady s = true ∧ makeRoom e.sev (entryPages e) s = none) →
    exec (.entryWriteStart) s = .next (noteFull s (refuseHead (ranOut s)))) ∧
  (∀ (ok : Bool) (e : RecEntry) (q : List RecEntry) (n : Nat) (s : State),
    (s.log.queue = e :: q ∧ s.log.writing = some (.page n) ∧ s.log.forceStop = false ∧ s.pwr.sag = false ∧ n + 1 < entryPages e) →
    exec (.pageProgramDone ok) s = .next ({ s with log.writing := some (.page (n + 1)) })) ∧
  (∀ (e : RecEntry) (q : List RecEntry) (n : Nat) (s : State),
    (s.log.queue = e :: q ∧ s.log.writing = some (.page n) ∧ s.log.forceStop = false ∧ s.pwr.sag = false ∧ n + 1 = entryPages e) →
    exec (.pageProgramDone true) s = .next { s with log.writing := some .mark } ∧
      exec (.pageProgramDone false) s = .next (bump 0x70058 { s with log.writing := some (.page 0), log.junkPages := s.log.junkPages + (n + 1) })) ∧
  (∀ (e : RecEntry) (q : List RecEntry) (s : State),
    (s.log.queue = e :: q ∧ s.log.writing = some .mark ∧ s.log.clear = none ∧ e.sev < cfg s 0x2A06 0) →
    exec (.markProgramDone) s = .next (bump 0x70040 { s with
        log.queue := q
        log.writing := none
        log.stopped := false
        log.forceStop := false
        log.store := storeEntry { entry := e, pages := entryPages e } s.log.store })) ∧
  (∀ (s : State),
    (s.log.writing = none ∧ nandReady s = true) →
    exec (.reclamation) s = .next ({ s with log.store := s.log.store.filter (fun r => !r.void), log.junkPages := 0 })) ∧
  (∀ (e : RecEntry) (s : State),
    (s.pwr.sag = true ∧ s.log.lastWordsDone = false ∧ s.log.lastWordsLost = false ∧ recLatching s = true ∧ s.pwr.holdupLow = true ∧ s.log.queue = [] ∧ s.log.writing = none) →
    (e = { latchEntry 1 6 [] s with
      data := [0, 0] ++ beBytes 2 (min s.log.lost 65535) ++ beBytes 4 0
      underSag := true
      seq := some s.log.nextSeq
      lost := s.log.lost
      refused := s.log.refusedCount }) →
    (entryPages e ≤ freePages s) →
    exec (.lastWords) s = .next (bump 0x70054 (entryExists e { s with log.nextSeq := s.log.nextSeq + 1, log.lost := 0, log.refusedCount := 0, log.lastWordsDone := true }))) ∧
  (∀ (s : State),
    (s.pwr.sag = true ∧ s.log.lastWordsDone = false ∧ s.log.lastWordsLost = false ∧ recLatching s = false ∧ s.pwr.holdupLow = true) →
    exec (.lastWords) s = .next (loseN 1 { s with log.lastWordsLost := true }))

/-- The cursor, clears, their abort and the forced stop of the recorder take effect as R383, R386, R387 and R388 say. -/
def Obligations.RecorderReadingCompletes : Prop :=
  (∀ (minSev : Fin 8) (page : Fin 16) (e : RecEntry) (s : State),
    (reaches s .host = true ∧ domOn s .d11 = true ∧ ((existing s).filter (fun x => decide (minSev.val ≤ x.sev))).head? = some e) →
    exec (.cursorFirst minSev page) s = .next (loadPage e page.val s)) ∧
  (∀ (minSev : Fin 8) (page : Fin 16) (e : RecEntry) (s : State),
    (reaches s .host = true ∧ domOn s .d11 = true ∧ ((existing s).filter (fun x => decide (minSev.val ≤ x.sev))).getLast? = some e) →
    exec (.cursorLast minSev page) s = .next (loadPage e page.val s)) ∧
  (∀ (minSev : Fin 8) (page : Fin 16) (e : RecEntry) (s : State),
    (reaches s .host = true ∧ domOn s .d11 = true) →
    (((existing s).filter (fun x => decide (minSev.val ≤ x.sev))).find? (fun x => decide (cursorSeq s < (seqOf x).toNat)) = some e) →
    exec (.cursorNext minSev page) s = .next (loadPage e page.val s)) ∧
  (∀ (minSev : Fin 8) (page : Fin 16) (e : RecEntry) (s : State),
    (reaches s .host = true ∧ domOn s .d11 = true) →
    ((((existing s).filter (fun x => decide (minSev.val ≤ x.sev))).filter (fun x => decide ((seqOf x).toNat < cursorSeq s))).getLast? = some e) →
    exec (.cursorPrev minSev page) s = .next (loadPage e page.val s)) ∧
  (∀ (minSev : Fin 8) (page : Fin 16) (e : RecEntry) (s : State),
    (reaches s .host = true ∧ domOn s .d11 = true) →
    (((existing s).filter (fun x => decide (minSev.val ≤ x.sev))).find? (fun x => decide (s.log.curSeq.toNat ≤ (seqOf x).toNat)) = some e) →
    exec (.cursorSeek minSev page) s = .next (loadPage e page.val s)) ∧
  (∀ (minSev : Fin 8) (page : Fin 16) (s : State),
    (reaches s .host = true ∧ domOn s .d11 = true ∧ existing s = []) →
    exec (.cursorFirst minSev page) s = .next (cursorEnd s) ∧ exec (.cursorLast minSev page) s = .next (cursorEnd s) ∧
      exec (.cursorNext minSev page) s = .next (cursorEnd s) ∧ exec (.cursorPrev minSev page) s = .next (cursorEnd s) ∧
      exec (.cursorSeek minSev page) s = .next (cursorEnd s)) ∧
  (∀ (page : Fin 16) (e : RecEntry) (s : State),
    (reaches s .host = true ∧ domOn s .d11 = true ∧ s.log.cur = some e ∧ page.val < entryPages e) →
    exec (.cursorPage page) s = .next ({ s with
        log.curReady := true
        log.curRange := false
        log.curPage := page.val
        log.window := ((entryBytes s e).drop (4096 * page.val)).take 4096 })) ∧
  (∀ (c : Fin 8) (s : State),
    (reaches s .host = true ∧ c.val < 7 ∧ 2 ≤ (sessOf s hostSession).level ∧ clearAllowed s = true) →
    exec (.recorderClear (.reg .host) c) s = .next (clearStart c.val 3 s)) ∧
  (∀ (c : Nat) (e : RecEntry) (q : List RecEntry) (s : State),
    (reaches s .host = true ∧ s.log.clear = some c ∧ s.log.queue = e :: q ∧ e.source = 31 ∧ s.log.writing = none) →
    exec (.recAbort) s = .next ({ s with
        log.clear := none
        log.clrDone := true
        log.clrResult := 2
        log.writing := none
        log.stopped := false
        log.queue := q
        log.forceStop := false })) ∧
  (∀ (s : State),
    (reaches s .host = true ∧ s.log.clear = none ∧ s.log.clrResult = 1) →
    exec (.recAbort) s = .next ({ s with log.clrResult := 3 })) ∧
  (∀ (s : State),
    (reaches s .host = true ∧ s.log.writing = none) →
    exec .recForceStop s =
      let u := applyVals [(key 0x2A01 0, .num 0)] s
      .next (clearLost (loseN s.log.queue.length { u with log.queue := [], log.stopped := false }))) ∧
  (∀ (e : RecEntry) (q : List RecEntry) (n : Nat) (s : State),
    (s.log.forceStop = true ∧ s.log.queue = e :: q ∧ s.log.writing = some (.page n)) →
    exec (.recDrained) s = .next (exitDrained (drainCheck .d11 (clearLost (dropHead (n + 1) s)))))

/-- A member of a train-wide or system take votes, prints, scraps and doubts as R331, R333, R334 and R336 say. -/
def Obligations.TakeMemberCompletes : Prop :=
  (∀ (src : Uid) (m : TakeMsg) (t : Tab Val) (s : State),
    (m.kind = 1 ∧ m.parts = 1 ∧ m.part = 0 ∧ m.shareLen = m.content.length ∧ s.tak.parts = [] ∧ s.now.toNat ≤ m.voteBy.toNat) →
    (s.tak.seen.contains (1, m.coord, m.num, 0x20) = false ∧ memberReason src m.bodyCsc m.instant s = 0 ∧ judgeShare m.level m.content s = (0, 0, 0, t)) →
    exec (.takePrepareReceive src m) s = .next (userVote m 0 0 0 { s with
        tak.user := { state := .prepared, kind := 2, owner := 20, num := m.num, coord := m.coord, instant := m.instant, staged := t
                      level := m.level, voteBy := m.voteBy, lastReq := s.up } })) ∧
  (∀ (src : Uid) (m : TakeMsg) (r : Nat) (s : State),
    (m.kind = 1 ∧ s.tak.seen.contains (1, m.coord, m.num, 0x20) = false ∧ memberReason src m.bodyCsc m.instant s = r ∧ r ≠ 0) →
    exec (.takePrepareReceive src m) s = .next (userVote m r 0 0 s)) ∧
  (∀ (m : TakeMsg) (s : State),
    (m.kind = 1 ∧ s.tak.seen.contains (1, m.coord, m.num, 0x22) = false) →
    (s.tak.user.state = .prepared ∧ s.tak.user.isCoord = false ∧ s.tak.user.coord = m.coord ∧ s.tak.user.num = m.num) →
    exec (.takePrintReceive m) s = .next (userDue s.now (keepOutcome { kind := 1, coord := m.coord, num := m.num, instant := s.tak.user.instant, scrap := none, at_ := s.up } { s with
        tak.seen := ((1, m.coord, m.num, 0x22) :: s.tak.seen).take 64
        tak.user.state := .printed
        tak.user.doubt := false }))) ∧
  (∀ (m : TakeMsg) (s : State),
    (m.kind = 1 ∧ s.tak.seen.contains (1, m.coord, m.num, 0x23) = false) →
    (s.tak.user.state = .prepared ∧ s.tak.user.isCoord = false ∧ s.tak.user.coord = m.coord ∧ s.tak.user.num = m.num) →
    exec (.takeScrapReceive m) s = .next (scrapUser (if m.reason = 3 then 6 else 7) (keepOutcome
        { kind := 1, coord := m.coord, num := m.num, instant := s.tak.user.instant, scrap := some m.reason, at_ := s.up }
        { s with tak.seen := ((1, m.coord, m.num, 0x23) :: s.tak.seen).take 64 }))) ∧
  (∀ (s : State),
    (s.tak.user.state = .prepared ∧ s.tak.user.isCoord = false ∧ s.tak.user.doubt = false) →
    exec (.takeDoubtTimer .user) s =
      let u := passToInstant (framesAfter s.tak.user.instant 8) s
      .next (querySend 1 s.tak.user.coord s.tak.user.num s.tak.user.instant { u with tak.user.doubt := true, tak.user.sentAt := u.up })) ∧
  (∀ (s : State),
    (s.tak.sys.state = .prepared ∧ s.tak.sys.doubt = true) →
    ((passTo (s.tak.sys.sentAt + 256 * pf) s).now.toNat < (framesAfter s.tak.sys.instant 16).toNat) →
    exec (.takeQueryRepeat .sys) s =
      let u := passTo (s.tak.sys.sentAt + 256 * pf) s
      .next (querySend s.tak.sys.kind s.tak.sys.coord s.tak.sys.num s.tak.sys.instant { u with tak.sys.sentAt := u.up })) ∧
  (∀ (src : Uid) (m : TakeMsg) (o : Outcome) (s : State),
    (s.tak.outcomes.find? (fun x => x.kind = m.kind && x.coord = m.coord && x.num = m.num && decide (s.up < x.at_ + 16 * rl)) = some o) →
    (s.tak.seen.contains (m.kind, m.coord, m.num, 0x21 + 256 * src.toNat) = false ∧ o.scrap = none) →
    exec (.takeQueryReceive src m) s = .next (takeTo src 0x22 { kind := o.kind, reply := true, coord := o.coord, num := o.num, instant := o.instant }
        { s with tak.seen := ((m.kind, m.coord, m.num, 0x21 + 256 * src.toNat) :: s.tak.seen).take 64 })) ∧
  (∀ (m : TakeMsg) (s : State),
    (m.kind = 1 ∧ s.tak.user.state = .prepared ∧ s.tak.user.doubt = true ∧ s.tak.user.coord = m.coord ∧ s.tak.user.num = m.num) →
    exec (.takeReplyReceive true m) s = .next (applyUser 2 (keepOutcome
        { kind := 1, coord := m.coord, num := m.num, instant := s.tak.user.instant, scrap := none, at_ := s.up } (bump 0x904C s))) ∧
      exec (.takeReplyReceive false m) s = .next (doubtScrap .user (some m.reason) s)) ∧
  (∀ (s : State),
    (s.tak.user.state = .prepared ∧ s.tak.user.doubt = true) →
    exec (.takeDoubtExpiry .user) s = .next (doubtScrap .user none (passToInstant (framesAfter s.tak.user.instant 16) s)))

/-- The coordinator of a take counts votes, repeats PRINT and SCRAP, and ends its vote window as R332 and R93 say. -/
def Obligations.TakeCoordinatorCompletes : Prop :=
  (∀ (src : Uid) (m : TakeMsg) (s : State),
    (m.coord = s.uid ∧ m.kind = 1 ∧ s.tak.user.isCoord = true ∧ s.tak.user.state = .prepared ∧ s.tak.user.num = m.num ∧ s.tak.user.members.contains src = true) →
    (m.vote = 1 ∧ s.now.toNat ≤ s.tak.user.voteBy.toNat) →
    exec (.takeVoteReceive src m) s = .next (userPrintIfAll { s with tak.user.votes := src :: s.tak.user.votes.filter (· ≠ src) })) ∧
  (∀ (src : Uid) (m : TakeMsg) (s : State),
    (m.coord = s.uid ∧ m.kind = 1 ∧ s.tak.user.isCoord = true ∧ s.tak.user.state = .prepared ∧ s.tak.user.num = m.num ∧ s.tak.user.members.contains src = true) →
    (m.vote = 2) →
    exec (.takeVoteReceive src m) s = .next (coordScrap 1 7 s)) ∧
  (∀ (s : State),
    (s.tak.user.isCoord = true ∧ s.tak.user.state = .prepared) →
    exec (.takeVoteWindowExpiry .user) s = .next (coordScrap 2 7 (passToInstant s.tak.user.voteBy s))) ∧
  (∀ (s : State),
    (s.tak.sys.isCoord = true ∧ s.tak.sys.state = .prepared) →
    exec (.takeVoteWindowExpiry .sys) s = .next (sysCoordScrap 2 (passToInstant s.tak.sys.voteBy s))) ∧
  (∀ (s : State),
    (s.tak.user.isCoord = true ∧ s.tak.user.state = .printed ∧ (passTo (s.tak.user.sentAt + 256 * pf) s).now.toNat < s.tak.user.instant.toNat) →
    exec (.takePrintRepeat .user) s =
      let u := passTo (s.tak.user.sentAt + 256 * pf) s
      .next (takeGroup 0x22 { kind := 1, coord := s.uid, num := s.tak.user.num, instant := s.tak.user.instant } { u with tak.user.sentAt := u.up })) ∧
  (∀ (x : ScrapRun) (s : State),
    (s.tak.userScrap = some x) →
    exec (.takeScrapRepeat .user) s =
      let u := passTo (x.sentAt + 256 * pf) s
      .next (takeGroup 0x23 { kind := x.kind, coord := u.uid, num := x.num, instant := x.instant, reason := x.reason }
        { u with tak.userScrap := if x.left ≤ 1 then none else some { x with left := x.left - 1, sentAt := u.up } })) ∧
  (∀ (kind : Fin 4) (coord : Uid) (num : Word) (o : Outcome) (s : State),
    (s.tak.outcomes.find? (fun o => o.kind = kind.val && o.coord = coord && o.num = num) = some o) →
    exec (.takeOutcomeExpiry kind coord num) s =
      let u := passTo (o.at_ + 16 * rl) s
      .next { u with tak.outcomes := u.tak.outcomes.filter (fun o => !(o.kind = kind.val && o.coord = coord && o.num = num)) })

/-- A printed take applies at its instant, an OPEN one ends when idle, and a Call Sheet or a dusk takes effect as R99, R322, R325, R327 and R352 say. -/
def Obligations.TakeInstantsComplete : Prop :=
  (∀ (s : State),
    (s.tak.user.state = .printed) →
    exec (.takeApply) s = .next (applyUser 1 (passToInstant s.tak.user.instant s))) ∧
  (∀ (s : State),
    (s.tak.user.state = .open_) →
    exec (.takeIdleExpiry) s = .next (scrapUser 4 (bump 0x905C (passTo (s.tak.user.lastReq + 16 * rl) s)))) ∧
  (∀ (s : State),
    (s.tak.sys.kind = 2 ∧ s.tak.sys.state = .printed) →
    exec (.callSheetActivation) s = .next (applySheet false (userDue s.tak.sys.instant (passToInstant s.tak.sys.instant s)))) ∧
  (∀ (t : Instant) (s : State),
    (s.wak.duskAt = some t ∧ s.node = .dusk) →
    exec .duskInstant s =
      let u := if s.wak.duskOneOff then s else releaseSecond (passToInstant (t - BitVec.ofNat 64 (8 * fr)) s)
      .next (duskInstant (userDue t (passToInstant t u))))

/-- Train-line inputs, their thresholds and faults, coupler-sense overvoltage and EVT_TS take effect as R392 to R395, R402 and R409 say. -/
def Obligations.TrainLineInputsComplete : Prop :=
  (∀ (i : Fin 16) (above : Bool) (ts : Word) (level : BitVec 16) (s : State),
    (inActive s i.val = true ∧ (inSt s i.val).high ≠ (above != cfgOn s 0x2B09 (i.val + 1))) →
    exec (.debounceRunComplete i above ts level) s =
      let new := above != cfgOn s 0x2B09 (i.val + 1)
      let u := setIn i.val { inSt s i.val with high := new, level := level.toNat, edges := ((inSt s i.val).edges + 1) % 65536 } s
      .next (recordChanged (followAll (inputFollows i.val (edgeEvent i.val new ts u))))) ∧
  (∀ (i : Fin 16) (samples : List (BitVec 16)) (s : State),
    (domOn (toFrame s) .d1 = true ∧ inActive (toFrame s) i.val = true ∧ samples ≠ []) →
    exec (.thresholdUpdate i false samples) s =
      let u := toFrame s
      .next (setIn i.val (boundaryTh u i.val false { inSt u i.val with level := meanOf (samples.drop (samples.length - 16)) }) u)) ∧
  (∀ (i : Fin 16) (samples : List (BitVec 16)) (s : State),
    (domOn (toFrame s) .d1 = true ∧ inActive (toFrame s) i.val = true ∧ samples ≠ []) →
    exec (.thresholdUpdate i true samples) s =
      let u := toFrame s
      let x := { inSt u i.val with level := meanOf (samples.drop (samples.length - 16)) }
      let y := swingWatch (inUn u i.val) u.up (estimate x (x.high != cfgOn u 0x2B09 (i.val + 1)) (meanOf samples))
      .next (setIn i.val (boundaryTh u i.val true y) u)) ∧
  (∀ (i : Fin 16) (samples : List (BitVec 16)) (whole : Bool) (s : State),
    (domOn (toFrame s) .d1 = true ∧ inActive (toFrame s) i.val = false ∧ samples ≠ []) →
    exec (.thresholdUpdate i whole samples) s =
      .next (setIn i.val { inSt (toFrame s) i.val with level := meanOf (samples.drop (samples.length - 16)) } (toFrame s))) ∧
  (∀ (i : Fin 16) (s : State) (t : Nat),
    (inActive s i.val = true ∧ (inSt s i.val).swingLow = false ∧ (inSt s i.val).swingFrom = some t) →
    exec (.swingLowTimer i false) s =
      let u := passTo (t + 64 * fr) s
      let x := { inSt u i.val with swingFrom := none }
      let v := setIn i.val { x with swingLow := true, fSwing := true, frozen := true, th := some (thOf u i.val) } u
      .next (fireTrainFault 1 (i.val + 1) (16 + i.val) x.level (bump 0x80048 v))) ∧
  (∀ (i : Fin 16) (level : BitVec 16) (s : State),
    (domOn s .d1 = true) →
    (64000 < level.toNat) →
    exec (.inputOverrange i level) s = .next (fireTrainFault 1 (i.val + 1) i.val level.toNat (bump 0x80048
        (setIn i.val { inSt s i.val with overrange := true, level := level.toNat } s)))) ∧
  (∀ (c : Fin 4) (s : State),
    (domOn s .d1 = true) →
    exec (.csOvervolt c) s = .next (fireTrainFault 3 (c.val + 1) 8 0 (bump 0x8005C (setCs c.val { csSt s c.val with overvolt := true } s)))) ∧
  (∀ (who : Requester) (x : EdgeEv) (q : List EdgeEv) (s : State),
    (reaches s who = true ∧ featDenied s who 4 = false ∧ s.tln.fifo = x :: q) →
    exec (.evtTsRead who) s = .next (emit (.readData who 0x80024 x.ts) { s with tln.fifo := q }))

/-- Train-line outputs, their trips, faults and rules, and the safe condition take effect as R397 to R401 say. -/
def Obligations.TrainLineOutputsComplete : Prop :=
  (∀ (v : Byte) (s : State),
    (reaches s .host = true ∧ s.tln.linkLost = false) →
    exec (.outCmdWrite (.reg .host) v) s = .next (noteDriven s { s with tln.outCmd := v, tln.cmdPast := (s.up, s.tln.outCmd) :: recentWrites s })) ∧
  (∀ (k : Fin 8) (current : BitVec 16) (s : State),
    (outDriven s k.val = true ∧ (outSt s k.val).trips + 1 < 3 ∧ cfg s 0x2B17 (k.val + 1) ≠ 0) →
    ((outSt s k.val).clean + (s.up - cfg s 0x2B16 (k.val + 1) * fr - (outSt s k.val).cleanFrom) < rl) →
    exec (.outputTrip k current) s = .next (outFaultReport k.val k.val 0x8004C (measureOut k.val current (setOut k.val { outSt s k.val with
        tripped := true
        fTripped := true
        trips := (outSt s k.val).trips + 1
        clean := 0
        latched := false
        retryAt := some (s.up + cfg s 0x2B17 (k.val + 1) * rl) } s)))) ∧
  (∀ (k : Fin 8) (current : BitVec 16) (s : State),
    (outDriven s k.val = true ∧ cfg s 0x2B17 (k.val + 1) = 0) →
    (rl ≤ (outSt s k.val).clean + (s.up - cfg s 0x2B16 (k.val + 1) * fr - (outSt s k.val).cleanFrom)) →
    exec (.outputTrip k current) s = .next (outFaultReport k.val k.val 0x8004C (measureOut k.val current (setOut k.val { outSt s k.val with
        tripped := true
        fTripped := true
        trips := 1
        clean := 0
        latched := true
        retryAt := none } s)))) ∧
  (∀ (k : Fin 8) (s : State) (t : Nat),
    ((outSt s k.val).retryAt = some t) →
    exec (.outputRetry k) s =
      let u := passTo t s
      .next (setOut k.val { outSt u k.val with retryAt := none, tripped := false, cleanFrom := u.up } u)) ∧
  (∀ (k : Fin 8) (s : State),
    (reaches s .host = true ∧ (outSt s k.val).latched = true) →
    exec (.tripClear k) s = .next (noteDriven s (setOut k.val { outSt s k.val with tripped := false, latched := false, trips := 0, clean := 0 } s))) ∧
  (∀ (k : Fin 8) (s : State),
    (reaches s .host = true ∧ (outSt s k.val).latched = false) →
    exec (.tripClear k) s = .next (s)) ∧
  (∀ (k : Fin 8) (current : BitVec 16) (s : State),
    (outDriven s k.val = true ∧ current.toNat < cfg s 0x2B18 (k.val + 1)) →
    exec (.openLoad k current) s = .next (outFaultReport k.val (8 + k.val) 0x80050
        (measureOut k.val current (setOut k.val { outSt s k.val with fOpen := true } s)))) ∧
  (∀ (k : Fin 8) (current : BitVec 16) (s : State),
    (domOn s .d1 = true ∧ outDriven s k.val = false ∧ outOrdered s k.val = false ∧ cfg s 0x2B18 (k.val + 1) < current.toNat) →
    exec (.stuckOn k current) s = .next (outFaultReport k.val (16 + k.val) 0x80054
        (measureOut k.val current (setOut k.val { outSt s k.val with fStuck := true } s)))) ∧
  (∀ (k : Fin 8) (r : Bool) (t : Nat) (s : State),
    ((outSt s k.val).followNext = some (r, t)) →
    exec (.followDelayExpiry k) s =
      let u := passTo t s
      .next (noteDriven u (setOut k.val { outSt u k.val with follow := r, followNext := none } u))) ∧
  (∀ (s : State),
    (domOn s .d1 = true ∧ s.tln.linkLost = false) →
    exec (.isoLinkLost) s = .next (fireTrainFault 4 1 31 0 (raiseIrq 14 (bump 0x80058 (noteDriven s { holdOutputs (loseWrites s) with tln.linkLost := true }))))) ∧
  (∀ (s : State),
    (s.tln.linkLost = true) →
    exec .isoLinkReturn s =
      let u := passToInstant (nextFrame s.now) s
      .next (raiseIrq 14 (noteDriven u { u with tln.linkLost := false }))) ∧
  (∀ (s : State),
    (reaches s .host = true) →
    exec .forceSafe s = .next (noteDriven s { holdOutputs s with tln.forceSafe := true }) ∧
        exec .resume s = .next (noteDriven s { s with tln.forceSafe := false }))

/-- The consent ring, the dusk PREPARE, lost consent, dusk and ASLEEP take effect as R345, R347 to R349 and R351 to R353 say. -/
def Obligations.RingAndDuskComplete : Prop :=
  (∀ (u : Uid) (s : State),
    (s.wak.ringStart = none ∧ ownPosition s = 1 ∧ s.wak.lastRing = none ∧ consent s = true) →
    (memberAtPos s 2 = some u) →
    exec .ringStart s =
      let n := s.wak.ringNext + 1
      let v := bump 0x4040 { s with wak.ringNext := n, wak.ringId := n, wak.lastRing := some s.up, wak.ringStart := some s.up }
      .next (ringSend u { origin := s.uid, ringId := n, csc := activeCsc v, consent := 1 } v)) ∧
  (∀ (m : RingMsg) (p : Nat) (u : Uid) (s : State),
    (m.origin ≠ s.uid ∧ ownPosition s = p ∧ 2 ≤ p ∧ p ≠ callSheetLen s ∧ m.phase = 1 ∧ ringVeto s m.csc = 0) →
    (memberAtPos s (p + 1) = some u) →
    exec (.ringFrameReceive m) s = .next (ringSend u { m with consent := putBit m.consent (p - 1) true }
        { s with wak.ringId := m.ringId, wak.consentOut := some m.ringId })) ∧
  (∀ (s : State) (t : Nat),
    (s.wak.ringStart = some t) →
    exec (.ringTimeout) s = .next (ringEnd 3 0 0 0 (bump 0x4048 (passTo (t + cfg s 0x2904 0 * fr) s)))) ∧
  (∀ (ring : Word) (i : Instant) (s : State),
    (s.wak.duskDue = some (ring, i)) →
    (ownPosition { passToInstant i s with wak.duskDue := none } = 1 ∧ consent { passToInstant i s with wak.duskDue := none } = true) →
    exec .duskPrepareSend s =
      let u := { passToInstant i s with wak.duskDue := none }
      .next (sysPrintIfAll (sysPrepare 3 (framesAfter u.now 16) (framesAfter u.now 2) (activeCsc u)
        (beBytes 4 ring.toNat ++ [0, 0, 0, 0]) (callSheetUids u) u))) ∧
  (∀ (s : State),
    (s.tak.sys.kind = 3 ∧ s.tak.sys.state = .prepared ∧ s.tak.sys.withdrawn = false ∧ consentForDusk s = false) →
    exec (.consentLost) s = .next (if s.tak.sys.isCoord then sysCoordScrap 1 s else takeTo s.tak.sys.coord 0x21
        { kind := 3, coord := s.tak.sys.coord, num := s.tak.sys.num, instant := s.tak.sys.instant, vote := 2, reason := 4 }
        { s with tak.sys.withdrawn := true })) ∧
  (∀ (i : Instant) (s : State),
    (s.wak.duskAt = some i ∧ s.node = .dusk ∧ s.wak.duskOneOff = false) →
    exec (.duskSecondLineRelease) s = .next (releaseSecond (passToInstant (i - BitVec.ofNat 64 (8 * fr)) s))) ∧
  (∀ (s : State),
    (s.node = .dusk ∧ s.wak.sleepInd = .dusk ∧ duskDrained s = true ∧ s.up ≤ s.wak.sleepIndBy) →
    exec (.sleepReady) s = .next (fallAsleep false s)) ∧
  (∀ (s : State),
    (s.node = .dusk ∧ s.wak.sleepInd = .dusk) →
    exec (.forcedSleep) s = .next (fallAsleep true (bump 0x4058 (passTo s.wak.sleepIndBy s)))) ∧
  (∀ (s : State),
    (consistRuns s = true ∧ s.wak.consistAwake = true ∧ s.wak.sleepInd = .none) →
    (linkHeld s = false) →
    exec .consistIdleExpiry s =
      let u := passTo (heldUntil s + cfg s 0x2911 0 * rl) s
      .next (raiseIrq 12 { u with wak.sleepInd := .consist, wak.sleepIndBy := u.up + 8 * fr })) ∧
  (∀ (s : State),
    (s.wak.sleepInd = .consist ∧ consistRuns s = true) →
    exec .consistSleep s =
      let u := bump 0x405C { passTo s.wak.sleepIndBy s with wak.sleepInd := .none, wak.consistAwake := false }
      .next ((List.range 13).foldl (fun s i => portDisable (i + 4) 2 s) u))

/-- Wake events and timers, DAWN, the wake line, STAY_AWAKE and a coupler closing take effect as R29, R342, R353 and R357 to R359 and R396 say. -/
def Obligations.WakeAndDawnComplete : Prop :=
  (∀ (p : Fin 17) (s : State),
    (4 ≤ p.val ∧ s.wak.consistAwake = false ∧ cfgOn s 0x2913 (p.val + 1) = true ∧ s.node ≠ .asleep ∧ s.node ≠ .off) →
    exec (.consistWake p) s = .next (consistAwake s)) ∧
  (∀ (s : State),
    (reaches s .host = true ∧ s.node = .dusk) →
    exec (.stayAwake) s = .next (noteWake 6 0 (if s.wak.consistAwake then s else consistAwake s))) ∧
  (∀ (s : State),
    (reaches s .host = true ∧ s.node = .member ∧ s.wak.sleepInd = .consist) →
    exec (.stayAwake) s = .next ({ s with wak.sleepInd := .none, wak.idleFrom := s.up })) ∧
  (∀ (cause : Fin 7) (src : BitVec 5) (s : State),
    (wakeValid s cause.val src.toNat = true) →
    exec (.wakeEvent cause src) s = .next (if s.node = .asleep then dawn cause.val src.toNat s else noteWake cause.val src.toNat s)) ∧
  (∀ (s : State) (t : Nat),
    (s.wak.timerAt = some t ∧ s.node = .asleep) →
    exec (.wakeTimerExpiry) s = .next (dawn 5 0 (passTo t s))) ∧
  (∀ (level : BitVec 16) (s : State),
    (s.node ≠ .off ∧ domOn s .d1 = false ∧ watchedInputs s ≠ [] ∧ watchThreshold s < level.toNat) →
    exec (.d0WakeWatch level) s = .next (wakeEvent 0 0 s)) ∧
  (∀ (s : State),
    (s.node = .asleep) →
    wakeEvent 0 0 s = dawn 0 0 s) ∧
  (∀ (levels : List (BitVec 16)) (s : State),
    (s.node = .dawn ∧ s.hpl.boot = .waking ∧ s.wak.watched = false) →
    exec (.dawnDomainsOn levels) s =
      let u := canStart (powerFollow { s with hpl.boot := .dawned, wak.consistAwake := true, wak.idleFrom := s.up, wak.lastKeepAlive := [] })
      let v := if u.wak.forcedNote then fire 24 4 (beBytes 4 (tget u.reg 0x4058 0).toNat) { u with wak.forcedNote := false } else u
      .next (startInsertion (setNode .joining (driveWakeLine v)))) ∧
  (∀ (s : State) (t : Nat),
    (s.wak.pulseBy = some t) →
    exec .wakePulseEnd s = (let u := passTo t s; .next (noteDriven u { u with wak.pulseBy := none }))) ∧
  (∀ (s : State),
    (s.node = .asleep ∧ domOn s .d1 = false) →
    exec (.d0CouplerClose .fore) s = .next (dawn 4 0 s) ∧ exec (.d0CouplerClose .aft) s = .next (dawn 4 1 s)) ∧
  (∀ (e : End) (s : State),
    (s.node = .member ∧ domOn s .d1 = false ∧ endCode ((portsAt e).foldl (fun s p => portEnable p s) s) e ≠ 2) →
    exec (.d0CouplerClose e) s = .next (endTrain e ((portsAt e).foldl (fun s p => portEnable p s) s))) ∧
  (∀ (e : End) (s : State),
    (domOn s .d1 = true) →
    exec (.d0CouplerClose e) s = .next (s))

/-- READ, WRITE and the take requests of a ready session execute and are answered as R299, R311, R319, R323, R326 and Table 11.8 say. -/
def Obligations.RequestsComplete : Prop :=
  (∀ (i : Session) (q : Req) (s : State),
    (readyFor s i = true ∧ readCode i q = 0 ∧ q.offset = 0) →
    exec (.read i q) s = .next (readFirst i q (requested i s))) ∧
  (∀ (i : Session) (q : Req) (s : State),
    (readyFor s i = true ∧ readCode i q ≠ 0) →
    exec (.read i q) s = .next (finish i .read q (codeRsp .read q (readCode i q) 0) (requested i s))) ∧
  (∀ (i : Session) (q : Req) (r : Obj) (s : State),
    (readyFor s i = true ∧ (sessOf s i).partialV = none ∧ accessCode i q (requested i s) = 0) →
    (objRow q.index q.sub = some r ∧ q.offset = 0 ∧ q.total = q.data.length) →
    ((if r.ty.isScalar then q.data.length = r.ty.size else lengthOk (key q.index q.sub) r q.total = true)) →
    (wholeCode (key q.index q.sub) r q.data = 0 ∧ r.take = .no ∧ actsItself q.index = false ∧ ¬ (q.index = 0x1010 ∨ q.index = 0x2140 ∨ q.index = 0x2141)) →
    (relationCode (key q.index q.sub) (applyVals [(key q.index q.sub, valOfBytes r q.data)] (relationState (wholeWrite i s))) = 0) →
    exec (.write i q) s = .next (finish i .write q (codeRsp .write q 0 q.data.length) (applyVals [(key q.index q.sub, valOfBytes r q.data)] (wholeWrite i s)))) ∧
  (∀ (i : Session) (reqId : Word) (s : State),
    (readyFor s i = true ∧ 1 ≤ (sessOf s i).level ∧ s.node ≠ .fault ∧ s.node ≠ .exit ∧ (sessOf s i).scrapUntold = false ∧ slotFree s = true) →
    exec (.slate i reqId) s =
      let u := requested i s
      let q : Req := { reqId := reqId.toNat }
      .next (finish i .slate q (codeRsp .slate q 0 0) { u with
        tak.num := s.tak.num + 1
        tak.user := { state := .open_, kind := 1, owner := ownerCode i, num := s.tak.num + 1, coord := s.uid, lastReq := s.up } })) ∧
  (∀ (i : Session) (reqId : Word) (s : State),
    (readyFor s i = true ∧ (sessOf s i).scrapUntold = false ∧ ownsOpen i s = true) →
    (tfind s.tak.user.staged (key 0x2F10 0) = none ∧ firstBroken s.tak.user.staged { requested i s with
      tak.user.lastReq := s.up
      od.unanswered := [{ sess := i, op := .print, req := { reqId := reqId.toNat } }] } = none) →
    exec (.print i reqId none) s =
      let u := requested i s
      .next (answerWaiting 0 { u with
        tak.user := { s.tak.user with state := .printed, instant := nextFrame s.now, lastReq := s.up }
        od.unanswered := [{ sess := i, op := .print, req := { reqId := reqId.toNat } }] })) ∧
  (∀ (i : Session) (reqId : Word) (s : State),
    (readyFor s i = true ∧ (sessOf s i).scrapUntold = false ∧ ownsOpen i s = true) →
    exec (.scrap i reqId) s =
      let q : Req := { reqId := reqId.toNat }
      .next (finish i .scrap q (codeRsp .scrap q 0 0) (scrapUser 3 (requested i s)))) ∧
  (∀ (i : Session) (reqId : Word) (s : State),
    (readyFor s i = true) →
    exec (.close i reqId) s =
      let q : Req := { reqId := reqId.toNat }
      .next (dropSession i (finish i .close q (codeRsp .close q 0 0) (requested i s))))

/-- Session levels, keys, their timers, and remembered requests take effect as R295 to R298, R311 and R312 say. -/
def Obligations.SessionsComplete : Prop :=
  (∀ (i : Session) (reqId : Word) (s : State),
    (readyFor s i = true) →
    exec (.challengeRead i reqId) s =
      let q : Req := { reqId := reqId.toNat, index := 0x2002, sub := 1, total := 16 }
      .next (readFirst i q (requested i s))) ∧
  (∀ (i : Session) (reqId : Word) (level : Byte) (s : State),
    (readyFor s i = true ∧ (sessOf s i).partialV = none ∧ writeState s 0x2002 2 = 0) →
    (1 ≤ level.toNat ∧ level.toNat ≤ 3 ∧ (levelKey s level.toNat).isSome = true) →
    exec (.levelRequest i reqId level) s =
      let w := wholeWrite i s
      let q := writeReq reqId 0x2002 2 [level]
      .next (finish i .write q (codeRsp .write q 0 1) (setSess i { sessOf w i with want := level.toNat } w))) ∧
  (∀ (i : Session) (reqId : Word) (response : BitVec 128) (s : State),
    (readyFor s i = true ∧ (sessOf s i).partialV = none ∧ writeState s 0x2002 3 = 0) →
    exec (.responseWrite i reqId response) s =
      let q := writeReq reqId 0x2002 3 (beBytes 16 response.toNat)
      let r := respond i (beBytes 16 response.toNat) (wholeWrite i s)
      .next (finish i .write q (codeRsp .write q r.1 16) r.2)) ∧
  (∀ (i : Session) (reqId : Word) (maintainer : Bool) (k : BitVec 256) (s : State),
    (readyFor s i = true ∧ (sessOf s i).partialV = none ∧ 2 ≤ (sessOf s i).level) →
    (writeState s 0x2003 (if maintainer then 2 else 1) = 0) →
    exec (.keyWrite i reqId maintainer k) s =
      let w := wholeWrite i s
      let q := writeReq reqId 0x2003 (if maintainer then 2 else 1) (beBytes 32 k.toNat)
      .next (finish i .write q (codeRsp .write q 0 32)
        { w with od.keys := tset w.od.keys (if maintainer then 2 else 1) (beBytes 32 k.toNat) })) ∧
  (∀ (i : Session) (s : State),
    (sessLive s i = true ∧ (sessOf s i).level ≠ fallenLevel i) →
    exec (.sessionIdleExpiry i) s =
      let u := passTo ((sessOf s i).lastReq + cfg s 0x2005 0 * rl) s
      .next (setSess i { sessOf u i with level := fallenLevel i } u)) ∧
  (∀ (i : Session) (t : Nat) (s : State),
    ((sessOf s i).lockUntil = some t) →
    exec (.authLockExpiry (some i)) s =
      let u := passTo t s
      .next (setSess i { sessOf u i with lockUntil := none } u)) ∧
  (∀ (t : Nat) (s : State),
    (s.od.nodeLock = some t) →
    exec (.authLockExpiry none) s = .next ({ passTo t s with od.nodeLock := none })) ∧
  (∀ (i : Session) (x : Snapshot) (s : State),
    ((sessOf s i).snap = some x) →
    exec (.snapshotExpiry i) s =
      let u := passTo (x.lastRead + 16 * fr) s
      .next (setSess i { sessOf u i with snap := none } u)) ∧
  (∀ (i : Session) (reqId : Word) (r : Remembered) (s : State),
    ((sessOf s i).remembered = [r] ∧ r.req.reqId = reqId.toNat) →
    exec (.reqIdExpiry i reqId) s =
      let u := passTo (r.at_ + 16 * fr) s
      .next (setSess i { sessOf u i with remembered := [] } u))

/-- Store, restore, exit and reset requests, images, slots and keys take effect as R302, R303, R417, R418, R423, R458, R459 and R503 say. -/
def Obligations.ActingObjectsComplete : Prop :=
  (∀ (i : Session) (reqId : Word) (sub : Byte) (s : State),
    (readyFor s i = true ∧ (sessOf s i).partialV = none ∧ 2 ≤ (sessOf s i).level ∧ writeState s 0x1010 sub.toNat = 0) →
    ((sub = 1 ∨ sub = 2 ∨ sub = 3) ∧ s.pwr.sag = false) →
    exec (.storeParameters i reqId sub 0x65766173) s =
      let w := wholeWrite i s
      let run : Storing := { sess := i, req := writeReq reqId 0x1010 sub.toNat (beBytes 4 0x65766173), values := groupValues w sub.toNat }
      .next (setCopy (currentIsA w) (fun c => { c with mark := false }) { w with od.storing := some run })) ∧
  (∀ (x : Storing) (s : State),
    (s.od.storing = some x) →
    exec (.storeDone true) s =
      let u := { s with od.storing := none, free := s.free + 1 }
      let kept := (storedNow u).filter (fun e => !inGroup x.req.sub e.1)
      let new := storedValues s.free x.values (groupValues u x.req.sub)
      .next (storeAnswer x (codeRsp .write x.req 0 4)
        (setCopy (currentIsA u) (fun _ => validCopy (storeCount u + 1) (new.foldl (fun t e => tset t e.1 e.2) kept)) u))) ∧
  (∀ (x : Storing) (r : Rsp) (s : State),
    storeAnswer x r s = if x.gone then s else finish x.sess .write x.req r s) ∧
  (∀ (x : Storing) (s : State),
    (s.od.storing = some x) →
    exec (.storeDone false) s =
      let u := { s with od.storing := none, free := s.free + 1 }
      .next (storeAnswer x (codeRsp .write x.req aNotStored 0) u)) ∧
  (∀ (i : Session) (reqId : Word) (sub : Byte) (s : State),
    (readyFor s i = true ∧ (sessOf s i).partialV = none ∧ 2 ≤ (sessOf s i).level ∧ writeState s 0x1011 sub.toNat = 0) →
    (sub = 1 ∨ sub = 2 ∨ sub = 3) →
    exec (.restoreDefaults i reqId sub 0x64616F6C) s =
      let q := writeReq reqId 0x1011 sub.toNat (beBytes 4 0x64616F6C)
      .next (finish i .write q (codeRsp .write q 0 4) (restoreDefaults sub.toNat (wholeWrite i s)))) ∧
  (∀ (i : Session) (reqId : Word) (s : State),
    (readyFor s i = true ∧ (sessOf s i).partialV = none ∧ 2 ≤ (sessOf s i).level) →
    exec (.exitRequestObject i reqId) s =
      let q := writeReq reqId 0x2140 0 [1]
      .next (warn 3 (finish i .write q (codeRsp .write q 0 1) (wholeWrite i s)))) ∧
  (∀ (i : Session) (reqId : Word) (s : State),
    (readyFor s i = true ∧ (sessOf s i).partialV = none ∧ 2 ≤ (sessOf s i).level) →
    exec (.nodeResetObject i reqId) s =
      let q := writeReq reqId 0x2141 0 [1]
      .next (askReset .dictionary (finish i .write q (codeRsp .write q 0 1) (wholeWrite i s)))) ∧
  (∀ (i : Session) (reqId : Word) (s : State),
    (readyFor s i = true ∧ (sessOf s i).partialV = none ∧ 2 ≤ (sessOf s i).level ∧ writeState s 0x2C21 0 = 0) →
    exec (.slotActivate i reqId) s =
      let w := wholeWrite i s
      let q := writeReq reqId 0x2C21 0 [1]
      .next (finish i .write q (codeRsp .write q 0 1) { w with cpu.nextSlot := some (!w.cpu.activeSlot) })) ∧
  (∀ (i : Session) (reqId : Word) (k : List Byte) (s : State),
    (readyFor s i = true ∧ (sessOf s i).partialV = none ∧ 3 ≤ (sessOf s i).level ∧ writeState s 0x2C10 0 = 0 ∧ k.length = 97) →
    (k.headD 0 = 4) →
    exec (.appKeyEnrol i reqId k) s =
      let w := wholeWrite i s
      let q := writeReq reqId 0x2C10 0 k
      .next (finish i .write q (codeRsp .write q 0 97) { w with od.saved := tset w.od.saved (key 0x2C10 0) (.bytes k) })) ∧
  (∀ (i : Session) (reqId : Word) (k : List Byte) (s : State),
    (readyFor s i = true ∧ (sessOf s i).partialV = none ∧ 3 ≤ (sessOf s i).level ∧ writeState s 0x2C10 0 = 0 ∧ k.length = 97) →
    (k.headD 0 ≠ 4) →
    exec (.appKeyEnrol i reqId k) s =
      let q := writeReq reqId 0x2C10 0 k
      .next (finish i .write q (codeRsp .write q aBadValue 0) (wholeWrite i s))) ∧
  (∀ (i : Session) (reqId : Word) (p : Fin 4) (k : List Byte) (s : State),
    (readyFor s i = true ∧ (sessOf s i).partialV = none ∧ 2 ≤ (sessOf s i).level ∧ writeState s 0x2C31 (p.val + 1) = 0 ∧ 33 ≤ k.length ∧ k.length ≤ 64) →
    exec (.cakWrite i reqId p k) s =
      let w := wholeWrite i s
      let q := writeReq reqId 0x2C31 (p.val + 1) k
      .next (finish i .write q (codeRsp .write q 0 k.length) (setMs p.val { msSt w p.val with cak := k } w))) ∧
  (∀ (i : Session) (reqId : Word) (image : List Byte) (check : ImageCheck) (s : State),
    (readyFor s i = true ∧ (sessOf s i).partialV = none ∧ 2 ≤ (sessOf s i).level ∧ writeState s 0x2C20 0 = 0 ∧ image.length ≤ 67108864) →
    exec (.firmwareImageWrite i reqId image check) s =
      let q := writeReq reqId 0x2C20 0 image
      .next (imageWrite { image := image, check := check }
        (finish i .write q (codeRsp .write q 0 image.length) (imageFree image (wholeWrite i s))))) ∧
  (∀ (s : State),
    (reaches s .host = true ∧ s.tak.sys.kind = 2 ∧ s.tak.sys.state = .prepared ∧ s.tak.sys.isCoord = false) →
    exec (.inaRestart (.reg .host)) s = .next (collect (takeTo s.tak.sys.coord 0x21
        { kind := 2, coord := s.tak.sys.coord, num := s.tak.sys.num, instant := s.tak.sys.instant, vote := 2, reason := 4 }
        { s with tak.sys.withdrawn := true }))) ∧
  (∀ (port : Fin 20) (mac : Mac) (b : Bulis) (s : State),
    (domOn s .d2 = true ∧ b.type = 0x10 ∧ damIngress s port.val = true) →
    (headerBad (unpad b) = false ∧ dstBad s (unpad b) = false ∧ checkPasses s (unpad b) = true) →
    exec (.damRequestReceive port mac b) s = .next (acceptedFrame port.val mac [] (unpad b) s))

/-- A write to BAR0 takes effect on whole registers that exist, and otherwise as R7, R321, R408 and R472 to R474 say. -/
def Obligations.RegisterWritesComplete : Prop :=
  (∀ (a : BitVec 20) (v : Word) (s : State),
    (reaches s .host = true ∧ byteArray a.toNat = false ∧ regExists a.toNat = true ∧ a.toNat % 4 = 0 ∧ rwtFields a.toNat = []) →
    exec (.registerWrite .host a 0xF v) s = .next (writeFields .host a.toNat v s)) ∧
  (∀ (who : Requester) (a : BitVec 20) (be : BitVec 4) (v : Word) (s : State),
    (reaches s who = true ∧ (who = .core → coreMayWrite a.toNat = true) ∧ byteArray a.toNat = false) →
    (regExists (a.toNat / 4 * 4) = true ∧ (a.toNat % 4 ≠ 0 ∨ be ≠ 0xF)) →
    exec (.registerWrite who a be v) s = .next (bump 0x40 s)) ∧
  (∀ (a : BitVec 20) (be : BitVec 4) (v : Word) (s : State),
    (reaches s .host = true ∧ byteArray a.toNat = false ∧ regExists (a.toNat / 4 * 4) = false) →
    exec (.registerWrite .host a be v) s = .next (s)) ∧
  (∀ (a : BitVec 20) (be : BitVec 4) (v : Word) (s : State),
    (reaches s .core = true ∧ coreMayWrite a.toNat = false) →
    exec (.registerWrite .core a be v) s = .next (coreDenied s)) ∧
  (∀ (v : Word) (s : State),
    (reaches s .host = true) →
    exec (.registerWrite .host 0x24 0xF v) s = .next ({ s with reg := tset s.reg 0x24 v })) ∧
  (∀ (a : BitVec 20) (v : Word) (s : State),
    (reaches s .host = true ∧ byteArray a.toNat = false ∧ regExists a.toNat = true ∧ a.toNat % 4 = 0 ∧ rwtFields a.toNat ≠ []) →
    (ownsOpen hostSession s = false) →
    exec (.registerWrite .host a 0xF v) s = .next (writeFields .host a.toNat v (bump 0x9058 { s with tak.rwtReject := true }))) ∧
  (∀ (a : BitVec 20) (v : Word) (s : State),
    (reaches s .host = true ∧ byteArray a.toNat = false ∧ regExists a.toNat = true ∧ a.toNat % 4 = 0 ∧ rwtFields a.toNat ≠ []) →
    (ownsOpen hostSession s = true ∧ (rwtFields a.toNat).all (fieldOk (mergeFields (rwtFields a.toNat) v s)) = true ∧ withinLimits (mergeFields (rwtFields a.toNat) v s) = true) →
    exec (.registerWrite .host a 0xF v) s =
      let u := setSess hostSession { sessOf s hostSession with lastReq := s.up } s
      .next (writeFields .host a.toNat v { u with tak.user.staged := mergeFields (rwtFields a.toNat) v s, tak.user.lastReq := s.up })) ∧
  (∀ (a : BitVec 20) (v : Word) (s : State),
    (reaches s .host = true ∧ byteArray a.toNat = false ∧ regExists a.toNat = true ∧ a.toNat % 4 = 0 ∧ rwtFields a.toNat ≠ []) →
    (ownsOpen hostSession s = true ∧ ((rwtFields a.toNat).all (fieldOk (mergeFields (rwtFields a.toNat) v s)) && withinLimits (mergeFields (rwtFields a.toNat) v s)) = false) →
    exec (.registerWrite .host a 0xF v) s =
      let u := setSess hostSession { sessOf s hostSession with lastReq := s.up } s
      let r := { u with tak.user.lastReq := u.up }
      .next (writeFields .host a.toNat v (bump 0x9058 { r with tak.rwtReject := true })))

/-- Every step keeps the bounds: the two memories in canonical form, and every log and FIFO within the size the spec gives it. -/
def Obligations.EveryStepKeepsTheBounds : Prop :=
  ∀ s t : State, Inv s → step s = .next t → Inv t

/-- Every command answers a next state, and changes no part of the state outside its frame. -/
def Obligations.EveryCommandKeepsItsFrame : Prop :=
  ∀ (c : Instr) (s : State), ∃ t, exec c s = .next t ∧ OnlyChanges (frameOf c) s t

/-- The state right after reset meets the bounds that every step keeps. -/
def Obligations.ResetMeetsTheBounds : Prop :=
  Inv State.reset

/-- A step takes the command at the front of the queue, runs it with the queue's rest, and answers its outcome; with none waiting one tick passes. -/
def Obligations.StepTakesTheFrontCommand : Prop :=
  (∀ (c : Instr) (rest : List Instr) (s : State), step { s with pending := c :: rest } = exec c { s with pending := rest }) ∧
  (∀ s : State, s.pending = [] → step s = .next (passTo (s.up + 1) s))

/-- A boundary is an instant whose low bits are zero, and the next frame boundary is the first one after the event. -/
def Obligations.BinaryBoundaries : Prop :=
  (∀ (t : Instant),
    (t.toNat + fr < 2 ^ 64) →
    t.toNat < (nextFrame t).toNat ∧ (nextFrame t).extractLsb' 0 20 = 0 ∧
      (∀ u : Instant, t.toNat < u.toNat → u.extractLsb' 0 20 = 0 → (nextFrame t).toNat ≤ u.toNat)) ∧
  (∀ (t : Instant),
    (t.toNat + pf < 2 ^ 64) →
    t.toNat < (nextPerf t).toNat ∧ (nextPerf t).extractLsb' 0 10 = 0 ∧
      (∀ u : Instant, t.toNat < u.toNat → u.extractLsb' 0 10 = 0 → (nextPerf t).toNat ≤ u.toNat)) ∧
  (∀ (d part : Nat) (s : State),
    (s.now.toNat + 1 < 2 ^ 64 ∧ s.node ≠ .off) →
    (passBy d 1 part s).log.opTime = s.log.opTime + if (s.now + 1).extractLsb' 0 32 = 0 then 1 else 0)

/-- Serial arithmetic: later means a difference of 1 to 2^(n-1) - 1 modulo 2^n, and the latest value of a set is as the rule takes it. -/
def Obligations.SerialArithmetic : Prop :=
  (∀ (n a b : Nat),
    (1 ≤ n ∧ a < 2 ^ n ∧ b < 2 ^ n) →
    (laterThan n a b = true ↔ 1 ≤ ((a : Int) - b) % 2 ^ n ∧ ((a : Int) - b) % 2 ^ n ≤ 2 ^ (n - 1) - 1) ∧
      (((a : Int) - b) % 2 ^ n = 2 ^ (n - 1) → laterThan n a b = false ∧ laterThan n b a = false)) ∧
  (∀ (n : Nat) (l : List Nat),
    (l ≠ []) →
    latestOf n l ∈ l ∧
      ((∃ a ∈ l, ∀ b ∈ l, laterThan n b a = false) →
        (∀ b ∈ l, laterThan n b (latestOf n l) = false) ∧ (∀ a ∈ l, (∀ b ∈ l, laterThan n b a = false) → a ≤ latestOf n l)) ∧
      (¬ (∃ a ∈ l, ∀ b ∈ l, laterThan n b a = false) → ∀ a ∈ l, a ≤ latestOf n l))

/-- A message falls due when an unmasked cause rises, a mask bit is set over a set cause, or its vector changes; it is sent, or held in the PBA. -/
def Obligations.InterruptMessages : Prop :=
  (∀ (b : Nat) (s : State),
    (b < 23) →
    (s.irq.cause.getLsbD b = false → s.irq.mask.getLsbD b = true →
        riseCause b s = msixDue (vecOf s.irq b) { s with irq.cause := putBit s.irq.cause b true }) ∧
      (s.irq.cause.getLsbD b = false → s.irq.mask.getLsbD b = false → riseCause b s = { s with irq.cause := putBit s.irq.cause b true }) ∧
      (s.irq.cause.getLsbD b = true → riseCause b s = s) ∧ (riseCause b s).irq.cause.getLsbD b = true) ∧
  (∀ (v : Nat) (s : State),
    (v < 64) →
    (msixSendable s.irq v = true) →
    msixDue v s = bump 0x1040 { s with out := s.out ++ [.msix v (tget s.irq.table (4 * v) 0) (tget s.irq.table (4 * v + 1) 0)
      (tget s.irq.table (4 * v + 2) 0)] }) ∧
  (∀ (v : Nat) (s : State),
    (v < 64) →
    (s.irq.msixOn = false ∨ s.irq.funcMask = true ∨ bitOf (tget s.irq.table (4 * v + 3) 1) 0 = true) →
    msixDue v s = { s with irq.pba := putBit s.irq.pba v true } ∧ (msixDue v s).irq.pba.getLsbD v = true) ∧
  (∀ (b : Fin 23) (m : Word) (s : State),
    (reaches s .host = true) →
    (s.irq.cause.getLsbD b.val = true ∧ s.irq.mask.getLsbD b.val = false ∧ m.setWidth 23 = putBit s.irq.mask b.val true) →
    exec (.irqMaskWrite m) s = .next (msixDue (vecOf s.irq b.val) { s with irq.mask := putBit s.irq.mask b.val true })) ∧
  (∀ (b : Fin 23) (v : Fin 64) (s : State),
    (reaches s .host = true) →
    exec (.irqVecWrite b v) s = .next (if v.val ≠ vecOf s.irq b.val ∧ s.irq.cause.getLsbD b.val = true ∧ s.irq.mask.getLsbD b.val = true
      then msixDue v.val { s with irq.vec := tset s.irq.vec b.val v.val } else { s with irq.vec := tset s.irq.vec b.val v.val })) ∧
  (∀ (on fm : Bool) (v : Nat) (s : State),
    (v < 64) →
    (configServed s = true ∧ s.irq.pba = putBit 0 v true ∧ msixSendable { s.irq with msixOn := on, funcMask := fm } v = true) →
    exec (.msixEnable on fm) s = .next (msixDue v { s with irq.msixOn := on, irq.funcMask := fm, irq.pba := 0 }))

/-- An abort of a clear is decided by the clear record: TOO_LATE once its mark was written, else nothing is voided and no record exists. -/
def Obligations.AbortOfAClear : Prop :=
  (∀ (s : State),
    (reaches s .host = true ∧ s.log.clear = none ∧ s.log.clrResult = 1) →
    exec (.recAbort) s = .next ({ s with log.clrResult := 3 })) ∧
  (∀ (c : Nat) (s : State),
    (reaches s .host = true ∧ s.log.clear = some c) →
    ((s.log.queue.filter (fun e => e.source == 31)).length ≤ 1) →
    ∃ t, exec .recAbort s = .next t ∧ t.log.store = s.log.store ∧ (∀ e ∈ t.log.queue, e.source ≠ 31) ∧ t.log.clear = none ∧ t.log.clrResult = 2)

/-- The Device Serial Number is the node UID with 0xFF, 0xFE inserted after its third byte, the same value as the clockIdentity. -/
def Obligations.DeviceSerialNumber : Prop :=
  ∀ s : State,
    beBytes 8 (deviceSerial s).toNat = (beBytes 6 s.uid.toNat).take 3 ++ [0xFF, 0xFE] ++ (beBytes 6 s.uid.toNat).drop 3 ∧
    deviceSerial s = (ownGm s).id

/-- The node states limit dictionary access: FAULT and EXIT refuse writes but two, DUSK refuses Take "Yes" writes, ASLEEP and OFF serve nothing. -/
def Obligations.NodeStatesLimitTheDictionary : Prop :=
  (∀ (i : Session) (q : Req) (s : State),
    (s.node = .asleep ∨ s.node = .off) →
    exec (.read i q) s = .next s ∧ exec (.write i q) s = .next s ∧ (∀ n, exec (.slate i n) s = .next s ∧ exec (.scrap i n) s = .next s ∧
        exec (.close i n) s = .next s ∧ ∀ t, exec (.print i n t) s = .next s)) ∧
  (∀ (i : Session) (q : Req) (s : State),
    (readyFor s i = true ∧ (s.node = .fault ∨ s.node = .exit) ∧ exitWrite q = false) →
    ∃ c, c ≠ 0 ∧ exec (.write i q) s = .next (finish i .write q (codeRsp .write q c 0) (wholeWrite i s))) ∧
  (∀ (i : Session) (n : Word) (s : State),
    (readyFor s i = true ∧ (s.node = .fault ∨ s.node = .exit)) →
    (2 ≤ (sessOf s i).level ∧ (sessOf s i).partialV = none) →
    exec (.write i (writeReq n 0x2140 0 [1])) s = .next (warn 3 (finish i .write (writeReq n 0x2140 0 [1]) (codeRsp .write (writeReq n 0x2140 0 [1]) 0 1) (wholeWrite i s))) ∧
      exec (.write i (writeReq n 0x2141 0 [1])) s = .next (askReset .dictionary (finish i .write (writeReq n 0x2141 0 [1]) (codeRsp .write (writeReq n 0x2141 0 [1]) 0 1) (wholeWrite i s)))) ∧
  (∀ (c : ResetCause) (s : State),
    (s.node = .exit ∧ s.hpl.safeToRemove = false) →
    askReset c s = { s with hpl.resetAsked := some c } ∧ (∀ t : State, t.node = .exit → t.hpl.safeToRemove = true → askReset c t = resetNode (resetCode c) t)) ∧
  (∀ (i : Session) (q : Req) (s : State),
    (readyFor s i = true ∧ (s.node = .fault ∨ s.node = .exit ∨ s.node = .dusk)) →
    (readCode i q = 0 ∧ q.offset = 0) →
    exec (.read i q) s = .next (readFirst i q (requested i s))) ∧
  (∀ (i : Session) (q : Req) (s : State),
    (readyFor s i = true ∧ s.node = .dusk ∧ ((objRow q.index q.sub).map (·.take)) = some .yes ∧ exitWrite q = false) →
    ∃ c, c ≠ 0 ∧ exec (.write i q) s = .next (finish i .write q (codeRsp .write q c 0) (wholeWrite i s))) ∧
  (∀ (s : State) (x y : Nat),
    (s.node = .dusk ∧ ((objRow x y).map (·.take)) ≠ some .yes) →
    writeState s x y = 0)

/-- While a take is PRINTED, a write of an object no take governs that would break a relation with its staged values is refused. -/
def Obligations.PrintedTakeGuardsItsRelations : Prop :=
  (∀ (i : Session) (q : Req) (r : Obj) (s : State),
    (readyFor s i = true ∧ (sessOf s i).partialV = none ∧ accessCode i q (requested i s) = 0) →
    (objRow q.index q.sub = some r ∧ q.offset = 0 ∧ q.total = q.data.length) →
    ((if r.ty.isScalar then q.data.length = r.ty.size else lengthOk (key q.index q.sub) r q.total = true)) →
    (wholeCode (key q.index q.sub) r q.data = 0 ∧ r.take ≠ .yes ∧ s.tak.user.state = .printed) →
    (relationCode (key q.index q.sub) (applyVals [(key q.index q.sub, valOfBytes r q.data)] (applyVals s.tak.user.staged (wholeWrite i s))) = aRelationBroken) →
    exec (.write i q) s = .next (finish i .write q (codeRsp .write q aRelationBroken 0) (wholeWrite i s))) ∧
  (∀ (i : Session) (q : Req) (r : Obj) (s : State),
    (readyFor s i = true ∧ (sessOf s i).partialV = none ∧ accessCode i q (requested i s) = 0) →
    (objRow q.index q.sub = some r ∧ q.offset = 0 ∧ q.total = q.data.length) →
    ((if r.ty.isScalar then q.data.length = r.ty.size else lengthOk (key q.index q.sub) r q.total = true)) →
    (wholeCode (key q.index q.sub) r q.data = 0 ∧ r.take = .no ∧ actsItself q.index = false ∧ ¬ (q.index = 0x1010 ∨ q.index = 0x2140 ∨ q.index = 0x2141)) →
    (s.tak.user.state ≠ .printed ∧ relationCode (key q.index q.sub) (applyVals [(key q.index q.sub, valOfBytes r q.data)] (wholeWrite i s)) = 0) →
    exec (.write i q) s = .next (finish i .write q (codeRsp .write q 0 q.data.length) (applyVals [(key q.index q.sub, valOfBytes r q.data)] (wholeWrite i s))))

/-- A write of a Take "Yes" object by the owner of the OPEN take is staged, replaces an earlier one, and is refused beyond the limits. -/
def Obligations.TakeStaging : Prop :=
  (∀ (i : Session) (q : Req) (r : Obj) (s : State),
    (readyFor s i = true ∧ (sessOf s i).partialV = none ∧ accessCode i q (requested i s) = 0) →
    (objRow q.index q.sub = some r ∧ q.offset = 0 ∧ q.total = q.data.length) →
    ((if r.ty.isScalar then q.data.length = r.ty.size else lengthOk (key q.index q.sub) r q.total = true)) →
    (wholeCode (key q.index q.sub) r q.data = 0 ∧ r.take = .yes ∧ ownsOpen i s = true ∧ (sessOf s i).scrapUntold = false) →
    (key q.index q.sub ≠ key 0x2F10 0) →
    exec (.write i q) s =
      let t := tset s.tak.user.staged (key q.index q.sub) (valOfBytes r q.data)
      let w := wholeWrite i s
      .next (if withinLimits t then finish i .write q (codeRsp .write q 0 q.data.length) { w with tak.user.staged := t, tak.user.lastReq := s.up }
        else finish i .write q (codeRsp .write q aTakeFull 0) { w with tak.user.lastReq := s.up })) ∧
  (∀ (t : Tab Val) (k j : Nat) (v x d : Val),
    tget (tset (tset t k x) k v) k d = v ∧ (j ≠ k → tget (tset t k v) j d = tget t j d))

/-- A trigger takes a slot of the queue of 64, counts on a queued entry, or is lost with the least severe dropped first. -/
def Obligations.TriggerQueue : Prop :=
  (∀ (src sev : Nat) (d : List Byte) (s : State),
    (recLatching s = false) →
    fire src sev d s = loseN 1 s ∧ (loseN 1 s).log.lost = s.log.lost + 1 ∧ (loseN 1 s).log.queue = s.log.queue) ∧
  (∀ (src sev : Nat) (d : List Byte) (e : RecEntry) (a b : List RecEntry) (s : State),
    (recLatching s = true ∧ s.log.queue = a ++ e :: b) →
    (coalesces src sev s.up e = true ∧ (∀ x ∈ a, coalesces src sev s.up x = false)) →
    fire src sev d s = bump 0x70044 { s with log.queue := a ++ { e with coalesced := min (e.coalesced + 1) 65535 } :: b }) ∧
  (∀ (src sev : Nat) (d : List Byte) (s : State),
    (recLatching s = true ∧ s.log.queue.any (coalesces src sev s.up) = false ∧ s.log.queue.length < 64) →
    fire src sev d s = { s with log.queue := s.log.queue ++ [latchEntry src sev d s] }) ∧
  (∀ (src sev : Nat) (d : List Byte) (s : State),
    (recLatching s = true ∧ s.log.queue.any (coalesces src sev s.up) = false ∧ s.log.queue.length = 64) →
    (sev ≤ 7 ∧ (∀ x ∈ s.log.queue, x.sev ≤ 7) ∧ (∀ x ∈ s.log.queue, x.seq = none → sev ≤ x.sev)) →
    fire src sev d s = loseN 1 s) ∧
  (∀ (src sev : Nat) (d : List Byte) (e : RecEntry) (a b : List RecEntry) (s : State),
    (recLatching s = true ∧ s.log.queue.any (coalesces src sev s.up) = false ∧ s.log.queue.length = 64 ∧ s.log.queue = a ++ e :: b) →
    (e.seq = none ∧ e.sev < sev ∧ sev ≤ 7 ∧ (∀ x ∈ s.log.queue, x.seq = none → e.sev ≤ x.sev) ∧ (∀ x ∈ b, x.seq = none → x.sev ≠ e.sev)) →
    fire src sev d s = clearLost (loseN 1 { s with log.queue := a ++ b ++ [latchEntry src sev d s] }))

/-- A read of the export area after a write gives what was written, every other byte reads as before, and equal contents are equal memories. -/
def Obligations.ExportMemoryReadsAndWrites : Prop :=
  (∀ (m : List Host.Cell) (k : Nat) (l : List Byte),
    (Memory.wf m = true) →
    memRead (memWrite m k l) k l.length = l ∧ (∀ a, a < k ∨ k + l.length ≤ a → memGet (memWrite m k l) a = memGet m a)) ∧
  (∀ (m n : List Host.Cell),
    (Memory.wf m = true ∧ Memory.wf n = true) →
    (∀ a, memGet m a = memGet n a) →
    m = n) ∧
  (∀ (k n : Nat) (l : List Byte),
    (n < 256 ^ k → beNat (beBytes k n) = n ∧ leNat (leBytes k n) = n) ∧ beBytes l.length (beNat l) = l ∧ leBytes l.length (leNat l) = l)

/-- An operation from another node changes no byte of the export area outside its region, and none where the region's rights forbid a write. -/
def Obligations.InboundOperationsStayInTheirRegion : Prop :=
  (∀ (u : Uid) (n : Nat) (h : OpHead) (d : List Byte) (ecc : Bool) (s : State),
    (Memory.wf s.spl.mem = true) →
    ∀ a, a < regCfg s h.region 2 ∨ regCfg s h.region 2 + regCfg s h.region 3 ≤ a →
      memGet (targetOp u n h d ecc s).2.2.spl.mem a = memGet s.spl.mem a) ∧
  (∀ (u : Uid) (n : Nat) (h : OpHead) (d : List Byte) (ecc : Bool) (s : State),
    (regCfg s h.region 1 ≠ 1 ∨ (opWrites h = true ∧ regCfg s h.region 5 ≠ 1) ∨ (regCfg s h.region 6 ≠ 0 ∧ regCfg s h.region 6 ≠ u.toNat)) →
    (targetOp u n h d ecc s).1 ≠ 0 ∧ (targetOp u n h d ecc s).2.1 = [] ∧ (targetOp u n h d ecc s).2.2.spl = s.spl)

/-- Keys, the CAK and CKN, and the enrolled application key are refused to every reader with WRITE_ONLY, and no byte of them is answered. -/
def Obligations.KeysAreNeverRead : Prop :=
  (∀ (i : Session) (q : Req) (s : State),
    (readyFor s i = true ∧ readTotalOk i q = true) →
    ((q.index = 0x2003 ∧ (q.sub = 1 ∨ q.sub = 2)) ∨ (q.index = 0x2C31 ∧ 1 ≤ q.sub ∧ q.sub ≤ 4) ∨ (q.index = 0x2C10 ∧ q.sub = 0)) →
    exec (.read i q) s = .next (finish i .read q (codeRsp .read q aWriteOnly 0) (requested i s)) ∧ (codeRsp .read q aWriteOnly 0).data = [])

/-- While D12 is off or the function is in D3hot, no access of the host has any effect. -/
def Obligations.HostAccessesEndWithTheLink : Prop :=
  ∀ s : State, reaches s .host = false →
    (∀ a be v, exec (.registerWrite .host a be v) s = .next s) ∧ (∀ b a d, exec (.hostApertureWrite b a d) s = .next s) ∧
    (∀ b a n, exec (.hostApertureRead b a n) s = .next s) ∧ (∀ b a o w x y, exec (.hostAtomicOp b a o w x y) s = .next s) ∧
    (∀ w, exec (.abortGo w) s = .next s) ∧ exec .splForceDisable s = .next s ∧ (∀ w, exec (.winForceDisable w) s = .next s) ∧
    (∀ n, exec (.stmForceDisable n) s = .next s) ∧ (∀ v, exec (.inhibitWrite v) s = .next s) ∧
    (∀ m, exec (.irqCauseClear m) s = .next s) ∧ (∀ m, exec (.irqMaskWrite m) s = .next s) ∧ (∀ b v, exec (.irqVecWrite b v) s = .next s) ∧
    (∀ p, exec (.linkRestart p) s = .next s) ∧ (∀ l, exec (.contactFaultClear l) s = .next s) ∧ (∀ p, exec (.macForceStop p) s = .next s) ∧
    (∀ p, exec (.verifyRestart p) s = .next s) ∧ exec .recAbort s = .next s ∧ exec .recForceStop s = .next s ∧
    (∀ m, exec (.domFaultClear m) s = .next s) ∧ exec .pdbForceStop s = .next s ∧ exec .stayAwake s = .next s ∧
    (∀ k, exec (.exitReq k) s = .next s) ∧ exec .hostDone s = .next s ∧ (∀ k, exec (.nodeResetRequest k) s = .next s) ∧
    exec .forceSafe s = .next s ∧ exec .resume s = .next s

/-- A counter register counts one, wraps from 0xFFFF_FFFF to 0, reads as it stands, and no other counter changes. -/
def Obligations.CountersWrap : Prop :=
  ∀ (a : Nat) (s : State),
    tget (bump a s).reg a 0 = tget s.reg a 0 + 1 ∧ (tget s.reg a 0 = 0xFFFFFFFF → tget (bump a s).reg a 0 = 0) ∧
    (∀ b, b ≠ a → tget (bump a s).reg b 0 = tget s.reg b 0) ∧ regRead s 0x1040 = tget s.reg 0x1040 0

/-- Time that passes advances local time at its rate, and raises bit 4 exactly when the reel number changes. -/
def Obligations.TimePasses : Prop :=
  ∀ (u : Nat) (s : State),
    (u ≤ s.up → passTo u s = s) ∧
    (s.up < u →
      let x := (u - s.up) * ((1000000000000 : Int) + s.tim.freq).toNat + s.frac
      let k := x / 1000000000000
      (passTo u s).up = u ∧ (passTo u s).now = s.now + BitVec.ofNat 64 k ∧ (passTo u s).frac = x % 1000000000000 ∧
      (s.tim.freq = 0 → s.frac < 1000000000000 → k = u - s.up ∧ (passTo u s).frac = s.frac) ∧
      ((s.now + BitVec.ofNat 64 k).toNat / rl ≠ s.now.toNat / rl → (passTo u s).irq.cause.getLsbD 4 = true) ∧
      ((s.now + BitVec.ofNat 64 k).toNat / rl = s.now.toNat / rl → (passTo u s).irq = s.irq ∧ (passTo u s).out = s.out) ∧
      (s.node ≠ .off → (passTo u s).log.opTime = s.log.opTime + BitVec.ofNat 40 ((s.now.toNat + k) / rl - s.now.toNat / rl)))
end

