-- ==== Sys2Proof/Laws/Frame.lean ====
section
/-!
SUPPORT. Laws/Frame.lean: how frames compose, and the frame of a state given field by field; every operation's frame in the files
beside this one is built from these.
-/
namespace Sys2Proof.Machine

set_option Elab.async false
set_option linter.all false

/-- Every part of k is a part of m. -/
def Blk.sub (k m : List Blk) : Bool := k.all (fun b => m.contains b)

theorem Blk.mem_of_sub {k m : List Blk} (h : Blk.sub k m = true) {b : Blk} (hb : b ∈ k) : b ∈ m := by
  have := List.all_eq_true.mp h b hb
  simpa using this

theorem Blk.sub_trans {k m n : List Blk} (h : Blk.sub k m = true) (g : Blk.sub m n = true) : Blk.sub k n = true :=
  List.all_eq_true.mpr (fun b hb => by simpa using Blk.mem_of_sub g (Blk.mem_of_sub h hb))

/-- The frame of an operation, with the bounds it keeps. -/
structure Touches (k : List Blk) (s t : State) : Prop extends OnlyChanges k s t where
  inv : Inv s → Inv t

theorem Touches.refl (k : List Blk) (s : State) : Touches k s s where
  pending := rfl
  uid := rfl
  baseMac := rfl
  serial := rfl
  hwRev := rfl
  later := Nat.le_refl _
  used := Nat.le_refl _
  sent := List.prefix_refl _
  now := .inr rfl
  up := .inr rfl
  frac := .inr rfl
  free := .inr rfl
  out := .inr rfl
  node := .inr rfl
  fwVersion := .inr rfl
  reg := .inr rfl
  irq := .inr rfl
  pwr := .inr rfl
  hpl := .inr rfl
  log := .inr rfl
  od := .inr rfl
  tak := .inr rfl
  wak := .inr rfl
  tln := .inr rfl
  bb := .inr rfl
  net := .inr rfl
  ina := .inr rfl
  tim := .inr rfl
  spl := .inr rfl
  chk := .inr rfl
  pdb := .inr rfl
  cpu := .inr rfl
  inv := id

/-- One frame after another, the second with fewer parts. -/
theorem Touches.after {k m : List Blk} {s t u : State} (g : Touches k t u) (hk : Blk.sub k m = true) (h : Touches m s t) : Touches m s u where
  pending := g.pending.trans h.pending
  uid := g.uid.trans h.uid
  baseMac := g.baseMac.trans h.baseMac
  serial := g.serial.trans h.serial
  hwRev := g.hwRev.trans h.hwRev
  later := Nat.le_trans h.later g.later
  used := Nat.le_trans h.used g.used
  sent := List.IsPrefix.trans h.sent g.sent
  now := g.now.elim (fun hb => .inl (Blk.mem_of_sub hk hb)) (fun e => h.now.imp_right e.trans)
  up := g.up.elim (fun hb => .inl (Blk.mem_of_sub hk hb)) (fun e => h.up.imp_right e.trans)
  frac := g.frac.elim (fun hb => .inl (Blk.mem_of_sub hk hb)) (fun e => h.frac.imp_right e.trans)
  free := g.free.elim (fun hb => .inl (Blk.mem_of_sub hk hb)) (fun e => h.free.imp_right e.trans)
  out := g.out.elim (fun hb => .inl (Blk.mem_of_sub hk hb)) (fun e => h.out.imp_right e.trans)
  node := g.node.elim (fun hb => .inl (Blk.mem_of_sub hk hb)) (fun e => h.node.imp_right e.trans)
  fwVersion := g.fwVersion.elim (fun hb => .inl (Blk.mem_of_sub hk hb)) (fun e => h.fwVersion.imp_right e.trans)
  reg := g.reg.elim (fun hb => .inl (Blk.mem_of_sub hk hb)) (fun e => h.reg.imp_right e.trans)
  irq := g.irq.elim (fun hb => .inl (Blk.mem_of_sub hk hb)) (fun e => h.irq.imp_right e.trans)
  pwr := g.pwr.elim (fun hb => .inl (Blk.mem_of_sub hk hb)) (fun e => h.pwr.imp_right e.trans)
  hpl := g.hpl.elim (fun hb => .inl (Blk.mem_of_sub hk hb)) (fun e => h.hpl.imp_right e.trans)
  log := g.log.elim (fun hb => .inl (Blk.mem_of_sub hk hb)) (fun e => h.log.imp_right e.trans)
  od := g.od.elim (fun hb => .inl (Blk.mem_of_sub hk hb)) (fun e => h.od.imp_right e.trans)
  tak := g.tak.elim (fun hb => .inl (Blk.mem_of_sub hk hb)) (fun e => h.tak.imp_right e.trans)
  wak := g.wak.elim (fun hb => .inl (Blk.mem_of_sub hk hb)) (fun e => h.wak.imp_right e.trans)
  tln := g.tln.elim (fun hb => .inl (Blk.mem_of_sub hk hb)) (fun e => h.tln.imp_right e.trans)
  bb := g.bb.elim (fun hb => .inl (Blk.mem_of_sub hk hb)) (fun e => h.bb.imp_right e.trans)
  net := g.net.elim (fun hb => .inl (Blk.mem_of_sub hk hb)) (fun e => h.net.imp_right e.trans)
  ina := g.ina.elim (fun hb => .inl (Blk.mem_of_sub hk hb)) (fun e => h.ina.imp_right e.trans)
  tim := g.tim.elim (fun hb => .inl (Blk.mem_of_sub hk hb)) (fun e => h.tim.imp_right e.trans)
  spl := g.spl.elim (fun hb => .inl (Blk.mem_of_sub hk hb)) (fun e => h.spl.imp_right e.trans)
  chk := g.chk.elim (fun hb => .inl (Blk.mem_of_sub hk hb)) (fun e => h.chk.imp_right e.trans)
  pdb := g.pdb.elim (fun hb => .inl (Blk.mem_of_sub hk hb)) (fun e => h.pdb.imp_right e.trans)
  cpu := g.cpu.elim (fun hb => .inl (Blk.mem_of_sub hk hb)) (fun e => h.cpu.imp_right e.trans)
  inv := fun i => g.inv (h.inv i)

theorem Touches.wider {k m : List Blk} {s t : State} (h : Touches k s t) (hk : Blk.sub k m = true) : Touches m s t :=
  h.after hk (Touches.refl m s)

theorem Touches.ite {k : List Blk} {c : Prop} [Decidable c] {s t u : State} (h : c → Touches k s t) (g : ¬c → Touches k s u) :
    Touches k s (if c then t else u) := by
  split
  · next hc => exact h hc
  · next hc => exact g hc

theorem Touches.pair {α : Type} {k : List Blk} {a : α} {s t : State} (h : Touches k s t) : Touches k s (a, t).2 := h

theorem Touches.pair2 {α β : Type} {k : List Blk} {a : α} {b : β} {s t : State} (h : Touches k s t) : Touches k s (a, b, t).2.2 := h

theorem Touches.ofPair {α : Type} {k : List Blk} {a : α} {s t : State} {p : α × State} (e : p = (a, t)) (h : Touches k s p.2) :
    Touches k s t := by
  subst e; exact h

theorem Touches.ofPair2 {α β : Type} {k : List Blk} {a : α} {b : β} {s t : State} {p : α × β × State} (e : p = (a, b, t))
    (h : Touches k s p.2.2) : Touches k s t := by
  subst e; exact h

theorem Touches.iteSnd {α : Type} {k : List Blk} {c : Prop} [Decidable c] {s : State} {t u : α × State} (h : Touches k s t.2)
    (g : Touches k s u.2) : Touches k s (if c then t else u).2 := by
  split <;> assumption

theorem Touches.iteSnd2 {α β : Type} {k : List Blk} {c : Prop} [Decidable c] {s : State} {t u : α × β × State}
    (h : Touches k s t.2.2) (g : Touches k s u.2.2) : Touches k s (if c then t else u).2.2 := by
  split <;> assumption

theorem Touches.mp {k : List Blk} {s t u : State} (h : Touches k s t) (g : Touches k s t → Touches k s u) : Touches k s u := g h

/-- A proof kept as it stands, so that what a name stands for is not put in its place. -/
theorem Touches.keep {p : Prop} (h : p) : p := h

theorem Touches.foldl {α : Type} {k : List Blk} {s t : State} {f : State → α → State} {l : List α}
    (hf : ∀ u x, Touches k s u → Touches k s (f u x)) (h : Touches k s t) : Touches k s (l.foldl f t) := by
  induction l generalizing t with
  | nil => exact h
  | cons x r ih => exact ih (hf t x h)

/-- The frame of a state written field by field, each field kept or among the parts. -/
theorem Touches.set {k : List Blk} {s t : State}
    {pending : List Instr} {now : Instant} {up : Nat} {frac : Nat} {free : Nat} {out : List Out} {node : NodeState} {uid : Uid} {baseMac : Mac} {serial : Word} {hwRev : BitVec 16} {fwVersion : Word} {reg : Tab Word} {irq : IrqSt} {pwr : PwrSt} {hpl : HplSt} {log : RecSt} {od : OdSt} {tak : TakSt} {wak : WakSt} {tln : TlnSt} {bb : BbSt} {net : NetSt} {ina : InaSt} {tim : TimSt} {spl : SplSt} {chk : ChkSt} {pdb : PdbSt} {cpu : CpuSt}
    (hUid : uid = t.uid) (hPending : pending = t.pending) (hBasemac : baseMac = t.baseMac) (hSerial : serial = t.serial) (hHwrev : hwRev = t.hwRev)
    (h : Touches k s t)
    (later : t.up ≤ up := by with_unfolding_all first | exact Nat.le_refl _ | omega)
    (used : t.free ≤ free := by with_unfolding_all first | exact Nat.le_refl _ | exact Nat.le_succ _)
    (sent : t.out <+: out := by with_unfolding_all first | exact List.prefix_refl _ | exact List.prefix_append _ _)
    (hNow : .now ∈ k ∨ now = t.now := by first | exact .inr (by with_reducible rfl) | exact .inl (by decide) | exact .inr (by with_unfolding_all rfl))
    (hUp : .up ∈ k ∨ up = t.up := by first | exact .inr (by with_reducible rfl) | exact .inl (by decide) | exact .inr (by with_unfolding_all rfl))
    (hFrac : .now ∈ k ∨ frac = t.frac := by first | exact .inr (by with_reducible rfl) | exact .inl (by decide) | exact .inr (by with_unfolding_all rfl))
    (hFree : .free ∈ k ∨ free = t.free := by first | exact .inr (by with_reducible rfl) | exact .inl (by decide) | exact .inr (by with_unfolding_all rfl))
    (hOut : .out ∈ k ∨ out = t.out := by first | exact .inr (by with_reducible rfl) | exact .inl (by decide) | exact .inr (by with_unfolding_all rfl))
    (hNode : .node ∈ k ∨ node = t.node := by first | exact .inr (by with_reducible rfl) | exact .inl (by decide) | exact .inr (by with_unfolding_all rfl))
    (hFwversion : .fwVersion ∈ k ∨ fwVersion = t.fwVersion := by first | exact .inr (by with_reducible rfl) | exact .inl (by decide) | exact .inr (by with_unfolding_all rfl))
    (hReg : .reg ∈ k ∨ reg = t.reg := by first | exact .inr (by with_reducible rfl) | exact .inl (by decide) | exact .inr (by with_unfolding_all rfl))
    (hIrq : .irq ∈ k ∨ irq = t.irq := by first | exact .inr (by with_reducible rfl) | exact .inl (by decide) | exact .inr (by with_unfolding_all rfl))
    (hPwr : .pwr ∈ k ∨ pwr = t.pwr := by first | exact .inr (by with_reducible rfl) | exact .inl (by decide) | exact .inr (by with_unfolding_all rfl))
    (hHpl : .hpl ∈ k ∨ hpl = t.hpl := by first | exact .inr (by with_reducible rfl) | exact .inl (by decide) | exact .inr (by with_unfolding_all rfl))
    (hLog : .log ∈ k ∨ log = t.log := by first | exact .inr (by with_reducible rfl) | exact .inl (by decide) | exact .inr (by with_unfolding_all rfl))
    (hOd : .od ∈ k ∨ od = t.od := by first | exact .inr (by with_reducible rfl) | exact .inl (by decide) | exact .inr (by with_unfolding_all rfl))
    (hTak : .tak ∈ k ∨ tak = t.tak := by first | exact .inr (by with_reducible rfl) | exact .inl (by decide) | exact .inr (by with_unfolding_all rfl))
    (hWak : .wak ∈ k ∨ wak = t.wak := by first | exact .inr (by with_reducible rfl) | exact .inl (by decide) | exact .inr (by with_unfolding_all rfl))
    (hTln : .tln ∈ k ∨ tln = t.tln := by first | exact .inr (by with_reducible rfl) | exact .inl (by decide) | exact .inr (by with_unfolding_all rfl))
    (hBb : .bb ∈ k ∨ bb = t.bb := by first | exact .inr (by with_reducible rfl) | exact .inl (by decide) | exact .inr (by with_unfolding_all rfl))
    (hNet : .net ∈ k ∨ net = t.net := by first | exact .inr (by with_reducible rfl) | exact .inl (by decide) | exact .inr (by with_unfolding_all rfl))
    (hIna : .ina ∈ k ∨ ina = t.ina := by first | exact .inr (by with_reducible rfl) | exact .inl (by decide) | exact .inr (by with_unfolding_all rfl))
    (hTim : .tim ∈ k ∨ tim = t.tim := by first | exact .inr (by with_reducible rfl) | exact .inl (by decide) | exact .inr (by with_unfolding_all rfl))
    (hSpl : .spl ∈ k ∨ spl = t.spl := by first | exact .inr (by with_reducible rfl) | exact .inl (by decide) | exact .inr (by with_unfolding_all rfl))
    (hChk : .chk ∈ k ∨ chk = t.chk := by first | exact .inr (by with_reducible rfl) | exact .inl (by decide) | exact .inr (by with_unfolding_all rfl))
    (hPdb : .pdb ∈ k ∨ pdb = t.pdb := by first | exact .inr (by with_reducible rfl) | exact .inl (by decide) | exact .inr (by with_unfolding_all rfl))
    (hCpu : .cpu ∈ k ∨ cpu = t.cpu := by first | exact .inr (by with_reducible rfl) | exact .inl (by decide) | exact .inr (by with_unfolding_all rfl))
    (mem : Memory.wf t.spl.mem = true → Memory.wf spl.mem = true := by
      with_unfolding_all first | (generalize State.spl _ = v; first | exact fun x => x) | exact fun _ => rfl | exact fun _ => Nat.zero_le _ | exact fun _ => Nat.zero_lt_succ _)
    (apps : Memory.wf t.cpu.dram = true → Memory.wf cpu.dram = true := by
      with_unfolding_all first | (generalize State.cpu _ = v; first | exact fun x => x) | exact fun _ => rfl)
    (failures : t.spl.pwf.length ≤ 64 → spl.pwf.length ≤ 64 := by
      with_unfolding_all first | (generalize State.spl _ = v; first | exact fun x => x | exact fun x => Nat.le_trans (List.length_filter_le ..) x | (intro x; simp; done) | (intro x; simp; omega)) | exact fun _ => rfl | exact fun _ => Nat.zero_le _ | exact fun _ => Nat.zero_lt_succ _ | exact fun x => Nat.le_trans (List.length_filter_le ..) x | (intro x; simp; done) | (intro x; simp; omega))
    (errors : t.spl.ce.length ≤ 64 → spl.ce.length ≤ 64 := by
      with_unfolding_all first | (generalize State.spl _ = v; first | exact fun x => x | exact fun x => Nat.le_trans (List.length_filter_le ..) x | (intro x; simp; done) | (intro x; simp; omega)) | exact fun _ => rfl | exact fun _ => Nat.zero_le _ | exact fun _ => Nat.zero_lt_succ _ | exact fun x => Nat.le_trans (List.length_filter_le ..) x | (intro x; simp; done) | (intro x; simp; omega))
    (doorbells : t.spl.db.length ≤ 256 → spl.db.length ≤ 256 := by
      with_unfolding_all first | (generalize State.spl _ = v; first | exact fun x => x | exact fun x => Nat.le_trans (List.length_filter_le ..) x | (intro x; simp; done) | (intro x; simp; omega)) | exact fun _ => rfl | exact fun _ => Nat.zero_le _ | exact fun _ => Nat.zero_lt_succ _ | exact fun x => Nat.le_trans (List.length_filter_le ..) x | (intro x; simp; done) | (intro x; simp; omega))
    (discards : t.spl.pdlHead < 32 → spl.pdlHead < 32 := by
      with_unfolding_all first | (generalize State.spl _ = v; first | exact fun x => x | exact fun _ => Nat.mod_lt _ (by decide)) | exact fun _ => rfl | exact fun _ => Nat.zero_le _ | exact fun _ => Nat.zero_lt_succ _ | exact fun _ => Nat.mod_lt _ (by decide))
    (triggers : t.log.queue.length ≤ 64 → log.queue.length ≤ 64 := by
      with_unfolding_all first | (generalize State.log _ = v; first | exact fun x => x | exact fun x => Nat.le_trans (List.length_filter_le ..) x | (intro x; simp; done) | (intro x; simp; omega)) | exact fun _ => rfl | exact fun _ => Nat.zero_le _ | exact fun _ => Nat.zero_lt_succ _ | exact fun x => Nat.le_trans (List.length_filter_le ..) x | (intro x; simp; done) | (intro x; simp; omega))
    (changes : t.tln.fifo.length ≤ 64 → tln.fifo.length ≤ 64 := by
      with_unfolding_all first | (generalize State.tln _ = v; first | exact fun x => x | exact fun x => Nat.le_trans (List.length_filter_le ..) x | (intro x; simp; done) | (intro x; simp; omega)) | exact fun _ => rfl | exact fun _ => Nat.zero_le _ | exact fun _ => Nat.zero_lt_succ _ | exact fun x => Nat.le_trans (List.length_filter_le ..) x | (intro x; simp; done) | (intro x; simp; omega))
    (captures : (∀ e ∈ t.tim.caps, e.2.fifo.length ≤ 16) → ∀ e ∈ tim.caps, e.2.fifo.length ≤ 16 := by
      with_unfolding_all first | (generalize State.tim _ = v; first | exact fun x => x | (intro _ e he; cases he)) | exact fun _ => rfl | exact fun _ => Nat.zero_le _ | exact fun _ => Nat.zero_lt_succ _ | (intro _ e he; cases he)) :
    Touches k s { pending := pending, now := now, up := up, frac := frac, free := free, out := out, node := node, uid := uid, baseMac := baseMac, serial := serial, hwRev := hwRev, fwVersion := fwVersion, reg := reg, irq := irq, pwr := pwr, hpl := hpl, log := log, od := od, tak := tak, wak := wak, tln := tln, bb := bb, net := net, ina := ina, tim := tim, spl := spl, chk := chk, pdb := pdb, cpu := cpu } :=
  Touches.after (k := k) (t := t)
    { pending := hPending, uid := hUid, baseMac := hBasemac, serial := hSerial, hwRev := hHwrev, later := later, used := used, sent := sent,
      now := hNow, up := hUp, frac := hFrac, free := hFree, out := hOut, node := hNode, fwVersion := hFwversion, reg := hReg, irq := hIrq, pwr := hPwr, hpl := hHpl, log := hLog, od := hOd, tak := hTak, wak := hWak, tln := hTln, bb := hBb, net := hNet, ina := hIna, tim := hTim, spl := hSpl, chk := hChk, pdb := hPdb, cpu := hCpu, 
      inv := fun i => { mem := mem i.mem, apps := apps i.apps, failures := failures i.failures, completionErrors := errors i.completionErrors,
                        doorbells := doorbells i.doorbells, discards := discards i.discards, triggers := triggers i.triggers,
                        changes := changes i.changes, captures := captures i.captures } }
    (by simp [Blk.sub]) h

theorem Touches.node_set {k : List Blk} {s t : State} {v : NodeState} (hb : Blk.node ∈ k) (h : Touches k s t) : Touches k s { t with node := v } :=
  Touches.set rfl rfl rfl rfl rfl h (hNode := .inl hb)

theorem Touches.fwVersion_set {k : List Blk} {s t : State} {v : Word} (hb : Blk.fwVersion ∈ k) (h : Touches k s t) : Touches k s { t with fwVersion := v } :=
  Touches.set rfl rfl rfl rfl rfl h (hFwversion := .inl hb)

theorem Touches.reg_set {k : List Blk} {s t : State} {v : Tab Word} (hb : Blk.reg ∈ k) (h : Touches k s t) : Touches k s { t with reg := v } :=
  Touches.set rfl rfl rfl rfl rfl h (hReg := .inl hb)

theorem Touches.irq_set {k : List Blk} {s t : State} {v : IrqSt} (hb : Blk.irq ∈ k) (h : Touches k s t) : Touches k s { t with irq := v } :=
  Touches.set rfl rfl rfl rfl rfl h (hIrq := .inl hb)

theorem Touches.pwr_set {k : List Blk} {s t : State} {v : PwrSt} (hb : Blk.pwr ∈ k) (h : Touches k s t) : Touches k s { t with pwr := v } :=
  Touches.set rfl rfl rfl rfl rfl h (hPwr := .inl hb)

theorem Touches.hpl_set {k : List Blk} {s t : State} {v : HplSt} (hb : Blk.hpl ∈ k) (h : Touches k s t) : Touches k s { t with hpl := v } :=
  Touches.set rfl rfl rfl rfl rfl h (hHpl := .inl hb)

theorem Touches.od_set {k : List Blk} {s t : State} {v : OdSt} (hb : Blk.od ∈ k) (h : Touches k s t) : Touches k s { t with od := v } :=
  Touches.set rfl rfl rfl rfl rfl h (hOd := .inl hb)

theorem Touches.tak_set {k : List Blk} {s t : State} {v : TakSt} (hb : Blk.tak ∈ k) (h : Touches k s t) : Touches k s { t with tak := v } :=
  Touches.set rfl rfl rfl rfl rfl h (hTak := .inl hb)

theorem Touches.wak_set {k : List Blk} {s t : State} {v : WakSt} (hb : Blk.wak ∈ k) (h : Touches k s t) : Touches k s { t with wak := v } :=
  Touches.set rfl rfl rfl rfl rfl h (hWak := .inl hb)

theorem Touches.bb_set {k : List Blk} {s t : State} {v : BbSt} (hb : Blk.bb ∈ k) (h : Touches k s t) : Touches k s { t with bb := v } :=
  Touches.set rfl rfl rfl rfl rfl h (hBb := .inl hb)

theorem Touches.net_set {k : List Blk} {s t : State} {v : NetSt} (hb : Blk.net ∈ k) (h : Touches k s t) : Touches k s { t with net := v } :=
  Touches.set rfl rfl rfl rfl rfl h (hNet := .inl hb)

theorem Touches.ina_set {k : List Blk} {s t : State} {v : InaSt} (hb : Blk.ina ∈ k) (h : Touches k s t) : Touches k s { t with ina := v } :=
  Touches.set rfl rfl rfl rfl rfl h (hIna := .inl hb)

theorem Touches.chk_set {k : List Blk} {s t : State} {v : ChkSt} (hb : Blk.chk ∈ k) (h : Touches k s t) : Touches k s { t with chk := v } :=
  Touches.set rfl rfl rfl rfl rfl h (hChk := .inl hb)

theorem Touches.pdb_set {k : List Blk} {s t : State} {v : PdbSt} (hb : Blk.pdb ∈ k) (h : Touches k s t) : Touches k s { t with pdb := v } :=
  Touches.set rfl rfl rfl rfl rfl h (hPdb := .inl hb)

theorem Touches.cpu_set {k : List Blk} {s t : State} {v : CpuSt} (hb : Blk.cpu ∈ k) (hd : v.dram = t.cpu.dram) (h : Touches k s t) :
    Touches k s { t with cpu := v } :=
  Touches.set rfl rfl rfl rfl rfl h (hCpu := .inl hb) (apps := fun i => by rw [hd]; exact i)

/-- What a command answers: a next state within the frame. -/
def Answers (k : List Blk) (s : State) (a : Ans) : Prop := ∃ t, a = .next t ∧ Touches k s t

theorem Answers.next {k : List Blk} {s t : State} (h : Touches k s t) : Answers k s (.next t) := ⟨t, rfl, h⟩

theorem Answers.mp {k : List Blk} {s t : State} {a : Ans} (h : Touches k s t) (g : Touches k s t → Answers k s a) : Answers k s a := g h

theorem Answers.ite {k : List Blk} {c : Prop} [Decidable c] {s : State} {a b : Ans} (h : c → Answers k s a) (g : ¬c → Answers k s b) :
    Answers k s (if c then a else b) := by
  split
  · next hc => exact h hc
  · next hc => exact g hc

theorem Answers.wider {k m : List Blk} {s : State} {a : Ans} (h : Answers k s a) (hk : Blk.sub k m = true) : Answers m s a := by
  obtain ⟨t, e, h⟩ := h
  exact ⟨t, e, h.wider hk⟩

end Sys2Proof.Machine
end

