-- ==== Sys2Proof/Laws/Ops.lean ====
section
/-!
SUPPORT. Laws/Ops.lean: the frame of every operation of Machine/Ops.lean: which parts of the state it may change, and that it keeps the bounds.
-/
namespace Sys2Proof.Machine

set_option Elab.async false
set_option linter.all false

theorem emit_touches (o : Out) (s : State) : Touches [.out] s (emit o s) := by
  unfold emit
  with_reducible repeat' first
    | exact Touches.refl _ _
    | assumption
    | refine Touches.ite (fun _ => ?_) (fun _ => ?_)
    | refine Touches.foldl (fun _ _ _ => ?_) ?_
    | ((conv => arg 3; arg 29); first | refine Touches.set rfl rfl rfl rfl rfl ?_)
    | extract_lets -underBinder
    | split
    | ((conv => arg 3; fail_if_success arg 1); refine Touches.set rfl rfl rfl rfl rfl ?_)
    | (conv => arg 3; dsimp -zeta -proj +zetaDelta only)

theorem bumpBy_touches (a n : Nat) (s : State) : Touches [.reg] s (bumpBy a n s) := by
  unfold bumpBy
  with_reducible repeat' first
    | exact Touches.refl _ _
    | assumption
    | refine Touches.ite (fun _ => ?_) (fun _ => ?_)
    | refine Touches.foldl (fun _ _ _ => ?_) ?_
    | ((conv => arg 3; arg 29); first | refine Touches.reg_set (by decide) ?_ | refine Touches.set rfl rfl rfl rfl rfl ?_)
    | extract_lets -underBinder
    | split
    | ((conv => arg 3; fail_if_success arg 1); refine Touches.set rfl rfl rfl rfl rfl ?_)
    | (conv => arg 3; dsimp -zeta -proj +zetaDelta only)

theorem bump_touches (a : Nat) (s : State) : Touches [.reg] s (bump a s) := by
  unfold bump
  with_reducible repeat' first
    | exact Touches.refl _ _
    | assumption
    | refine Touches.ite (fun _ => ?_) (fun _ => ?_)
    | refine (bumpBy_touches ..).after (by decide) ?_
    | refine Touches.foldl (fun _ _ _ => ?_) ?_
    | extract_lets -underBinder
    | split
    | (conv => arg 3; dsimp -zeta -proj +zetaDelta only)

theorem setReg_touches (a : Nat) (w : Word) (s : State) : Touches [.reg] s (setReg a w s) := by
  unfold setReg
  with_reducible repeat' first
    | exact Touches.refl _ _
    | assumption
    | refine Touches.ite (fun _ => ?_) (fun _ => ?_)
    | refine Touches.foldl (fun _ _ _ => ?_) ?_
    | ((conv => arg 3; arg 29); first | refine Touches.reg_set (by decide) ?_ | refine Touches.set rfl rfl rfl rfl rfl ?_)
    | extract_lets -underBinder
    | split
    | ((conv => arg 3; fail_if_success arg 1); refine Touches.set rfl rfl rfl rfl rfl ?_)
    | (conv => arg 3; dsimp -zeta -proj +zetaDelta only)

theorem nextFree_touches (s : State) : Touches [.free] s (nextFree s).2 := by
  unfold nextFree
  with_reducible repeat' first
    | exact Touches.refl _ _
    | assumption
    | refine Touches.ite (fun _ => ?_) (fun _ => ?_)
    | ((conv => arg 3; arg 1; (fail_if_success arg 3); arg 2); refine Touches.pair ?_)
    | refine Touches.iteSnd ?_ ?_
    | refine Touches.foldl (fun _ _ _ => ?_) ?_
    | ((conv => arg 3; arg 29); first | refine Touches.set rfl rfl rfl rfl rfl ?_)
    | extract_lets -underBinder
    | split
    | ((conv => arg 3; fail_if_success arg 1); refine Touches.set rfl rfl rfl rfl rfl ?_)
    | (conv => arg 3; dsimp -zeta -proj +zetaDelta only)

theorem msixDue_touches (v : Nat) (s : State) : Touches [.out, .reg, .irq] s (msixDue v s) := by
  unfold msixDue
  with_reducible repeat' first
    | exact Touches.refl _ _
    | assumption
    | refine Touches.ite (fun _ => ?_) (fun _ => ?_)
    | refine (emit_touches ..).after (by decide) ?_
    | refine (bump_touches ..).after (by decide) ?_
    | refine Touches.foldl (fun _ _ _ => ?_) ?_
    | ((conv => arg 3; arg 29); first | refine Touches.irq_set (by decide) ?_ | refine Touches.set rfl rfl rfl rfl rfl ?_)
    | extract_lets -underBinder
    | split
    | ((conv => arg 3; fail_if_success arg 1); refine Touches.set rfl rfl rfl rfl rfl ?_)
    | (conv => arg 3; dsimp -zeta -proj +zetaDelta only)

theorem riseCause_touches (b : Nat) (s : State) : Touches [.out, .reg, .irq] s (riseCause b s) := by
  unfold riseCause
  with_reducible repeat' first
    | (extract_lets -underBinder +onlyGivenNames x; refine Touches.mp (t := x) ?_ ?bb; case' bb => clear_value x; revert x; refine Touches.keep ?_; intro _ _)
    | exact Touches.refl _ _
    | assumption
    | refine Touches.ite (fun _ => ?_) (fun _ => ?_)
    | refine (msixDue_touches ..).after (by decide) ?_
    | refine Touches.foldl (fun _ _ _ => ?_) ?_
    | ((conv => arg 3; arg 29); first | refine Touches.irq_set (by decide) ?_ | refine Touches.set rfl rfl rfl rfl rfl ?_)
    | extract_lets -underBinder
    | split
    | ((conv => arg 3; fail_if_success arg 1); refine Touches.set rfl rfl rfl rfl rfl ?_)
    | (conv => arg 3; dsimp -zeta -proj +zetaDelta only)

theorem raiseIrq_touches (b : Nat) (s : State) : Touches [.out, .reg, .irq, .cpu] s (raiseIrq b s) := by
  unfold raiseIrq
  with_reducible repeat' first
    | exact Touches.refl _ _
    | assumption
    | refine Touches.ite (fun _ => ?_) (fun _ => ?_)
    | refine (riseCause_touches ..).after (by decide) ?_
    | refine Touches.foldl (fun _ _ _ => ?_) ?_
    | ((conv => arg 3; arg 29); first | refine Touches.cpu_set (by decide) (by with_reducible rfl) ?_ | refine Touches.set rfl rfl rfl rfl rfl ?_)
    | extract_lets -underBinder
    | split
    | ((conv => arg 3; fail_if_success arg 1); refine Touches.set rfl rfl rfl rfl rfl ?_)
    | (conv => arg 3; dsimp -zeta -proj +zetaDelta only)

theorem flushPba_touches (s : State) : Touches [.out, .reg, .irq] s (flushPba s) := by
  unfold flushPba
  with_reducible repeat' first
    | exact Touches.refl _ _
    | assumption
    | refine Touches.ite (fun _ => ?_) (fun _ => ?_)
    | refine (msixDue_touches ..).after (by decide) ?_
    | refine Touches.foldl (fun _ _ _ => ?_) ?_
    | ((conv => arg 3; arg 29); first | refine Touches.irq_set (by decide) ?_ | refine Touches.set rfl rfl rfl rfl rfl ?_)
    | extract_lets -underBinder
    | split
    | ((conv => arg 3; fail_if_success arg 1); refine Touches.set rfl rfl rfl rfl rfl ?_)
    | (conv => arg 3; dsimp -zeta -proj +zetaDelta only)

theorem setNow_touches (t : Instant) (s : State) : Touches [.now, .out, .reg, .irq, .cpu] s (setNow t s) := by
  unfold setNow
  with_reducible repeat' first
    | (extract_lets -underBinder +onlyGivenNames x; refine Touches.mp (t := x) ?_ ?bb; case' bb => clear_value x; revert x; refine Touches.keep ?_; intro _ _)
    | exact Touches.refl _ _
    | assumption
    | refine Touches.ite (fun _ => ?_) (fun _ => ?_)
    | refine (raiseIrq_touches ..).after (by decide) ?_
    | refine Touches.foldl (fun _ _ _ => ?_) ?_
    | ((conv => arg 3; arg 29); first | refine Touches.set rfl rfl rfl rfl rfl ?_)
    | extract_lets -underBinder
    | split
    | ((conv => arg 3; fail_if_success arg 1); refine Touches.set rfl rfl rfl rfl rfl ?_)
    | (conv => arg 3; dsimp -zeta -proj +zetaDelta only)

theorem passBy_touches (d k part : Nat) (s : State) : Touches [.now, .up, .out, .reg, .irq, .log, .cpu] s (passBy d k part s) := by
  unfold passBy
  with_reducible repeat' first
    | (extract_lets -underBinder +onlyGivenNames x; refine Touches.mp (t := x) ?_ ?bb; case' bb => clear_value x; revert x; refine Touches.keep ?_; intro _ _)
    | exact Touches.refl _ _
    | assumption
    | refine Touches.ite (fun _ => ?_) (fun _ => ?_)
    | refine (setNow_touches ..).after (by decide) ?_
    | refine Touches.foldl (fun _ _ _ => ?_) ?_
    | ((conv => arg 3; arg 29); first | refine Touches.set rfl rfl rfl rfl rfl ?_)
    | extract_lets -underBinder
    | split
    | ((conv => arg 3; fail_if_success arg 1); refine Touches.set rfl rfl rfl rfl rfl ?_)
    | (conv => arg 3; dsimp -zeta -proj +zetaDelta only)

theorem passTo_touches (u : Nat) (s : State) : Touches [.now, .up, .out, .reg, .irq, .log, .cpu] s (passTo u s) := by
  unfold passTo
  exact Touches.ite (fun _ => Touches.refl _ _) (fun _ => (passBy_touches ..).wider (by decide))

theorem passToInstant_touches (t : Instant) (s : State) : Touches [.now, .up, .out, .reg, .irq, .log, .cpu] s (passToInstant t s) := by
  unfold passToInstant
  with_reducible repeat' first
    | (extract_lets -underBinder +onlyGivenNames x; refine Touches.mp (t := x) ?_ ?bb; case' bb => clear_value x; revert x; refine Touches.keep ?_; intro _ _)
    | exact Touches.refl _ _
    | assumption
    | refine Touches.ite (fun _ => ?_) (fun _ => ?_)
    | refine (passBy_touches ..).after (by decide) ?_
    | refine Touches.foldl (fun _ _ _ => ?_) ?_
    | extract_lets -underBinder
    | split
    | (conv => arg 3; dsimp -zeta -proj +zetaDelta only)

theorem toFrame_touches (s : State) : Touches [.now, .up, .out, .reg, .irq, .log, .cpu] s (toFrame s) := by
  unfold toFrame
  with_reducible repeat' first
    | exact Touches.refl _ _
    | assumption
    | refine Touches.ite (fun _ => ?_) (fun _ => ?_)
    | refine (passToInstant_touches ..).after (by decide) ?_
    | refine Touches.foldl (fun _ _ _ => ?_) ?_
    | extract_lets -underBinder
    | split
    | (conv => arg 3; dsimp -zeta -proj +zetaDelta only)

end Sys2Proof.Machine
end

