-- ==== Sys2Proof/Laws/Objects.lean ====
section
/-!
SUPPORT. Laws/Objects.lean: the frame of every operation of Machine/Objects.lean: which parts of the state it may change, and that it keeps the bounds.
-/
namespace Sys2Proof.Machine

set_option Elab.async false
set_option linter.all false

theorem applyVals_touches (l : Tab Val) (s : State) : Touches [.od] s (applyVals l s) := by
  unfold applyVals
  with_reducible repeat' first
    | exact Touches.refl _ _
    | assumption
    | refine Touches.ite (fun _ => ?_) (fun _ => ?_)
    | refine Touches.foldl (fun _ _ _ => ?_) ?_
    | ((conv => arg 3; arg 29); first | refine Touches.od_set (by decide) ?_ | refine Touches.set rfl rfl rfl rfl rfl ?_)
    | extract_lets -underBinder
    | split
    | ((conv => arg 3; fail_if_success arg 1); refine Touches.set rfl rfl rfl rfl rfl ?_)
    | (conv => arg 3; dsimp -zeta -proj +zetaDelta only)

end Sys2Proof.Machine
end

