-- ==== Sys2Proof/Laws/Recorder.lean ====
section
/-!
SUPPORT. Laws/Recorder.lean: the frame of every operation of Machine/Recorder.lean: which parts of the state it may change, and that it keeps the bounds.
-/
namespace Sys2Proof.Machine

set_option Elab.async false
set_option linter.all false


@[simp] theorem coalesceFirst_length (p : RecEntry → Bool) (l : List RecEntry) : (coalesceFirst p l).length = l.length := by
  induction l with
  | nil => rfl
  | cons e r ih => simp only [coalesceFirst]; split <;> simp [ih]

theorem foldl_min_le (l : List RecEntry) (m : Nat) : l.foldl (fun m e => if e.seq.isNone then min m e.sev else m) m ≤ m := by
  induction l generalizing m with
  | nil => exact Nat.le_refl _
  | cons y q ih =>
    simp only [List.foldl_cons]
    split
    · exact Nat.le_trans (ih _) (Nat.min_le_left ..)
    · exact ih _

/-- A lowest severity below the bound it starts from is that of an entry whose writing has not started. -/
theorem lowestSev_mem (l : List RecEntry) (m : Nat) (h : l.foldl (fun m e => if e.seq.isNone then min m e.sev else m) m < m) :
    ∃ e ∈ l, e.seq.isNone = true ∧ e.sev = l.foldl (fun m e => if e.seq.isNone then min m e.sev else m) m := by
  induction l generalizing m with
  | nil => simp at h
  | cons e r ih =>
    simp only [List.foldl_cons] at h ⊢
    split at h
    · next hn =>
      simp only [hn, if_true]
      by_cases hl : r.foldl (fun m e => if e.seq.isNone then min m e.sev else m) (min m e.sev) < min m e.sev
      · obtain ⟨x, hx, h1, h2⟩ := ih _ hl
        exact ⟨x, List.mem_cons_of_mem _ hx, h1, h2⟩
      · have hle : r.foldl (fun m e => if e.seq.isNone then min m e.sev else m) (min m e.sev) ≤ min m e.sev := by
          exact foldl_min_le ..
        exact ⟨e, List.mem_cons_self .., hn, by omega⟩
    · next hn =>
      simp only [hn]
      obtain ⟨x, hx, h1, h2⟩ := ih _ h
      exact ⟨x, List.mem_cons_of_mem _ hx, h1, h2⟩

theorem dropLast_length (p : RecEntry → Bool) (l : List RecEntry) (h : ∃ e ∈ l, p e = true) :
    (dropLast p l).length = l.length - 1 := by
  obtain ⟨e, he, hp⟩ := h
  simp [dropLast, List.length_eraseP_of_mem (List.mem_reverse.mpr he) hp]

theorem loseN_touches (n : Nat) (s : State) : Touches [.out, .reg, .irq, .log, .cpu] s (loseN n s) := by
  unfold loseN
  with_reducible repeat' first
    | exact Touches.refl _ _
    | assumption
    | refine Touches.ite (fun _ => ?_) (fun _ => ?_)
    | refine (bumpBy_touches ..).after (by decide) ?_
    | refine (raiseIrq_touches ..).after (by decide) ?_
    | refine Touches.foldl (fun _ _ _ => ?_) ?_
    | ((conv => arg 3; arg 29); first | refine Touches.set rfl rfl rfl rfl rfl ?_)
    | extract_lets -underBinder
    | split
    | ((conv => arg 3; fail_if_success arg 1); refine Touches.set rfl rfl rfl rfl rfl ?_)
    | (conv => arg 3; dsimp -zeta -proj +zetaDelta only)

theorem clearLost_touches (s : State) : Touches [.log] s (clearLost s) := by
  unfold clearLost
  with_reducible repeat' first
    | exact Touches.refl _ _
    | assumption
    | refine Touches.ite (fun _ => ?_) (fun _ => ?_)
    | refine Touches.foldl (fun _ _ _ => ?_) ?_
    | ((conv => arg 3; arg 29); first | refine Touches.set rfl rfl rfl rfl rfl ?_)
    | extract_lets -underBinder
    | split
    | ((conv => arg 3; fail_if_success arg 1); refine Touches.set rfl rfl rfl rfl rfl ?_)
    | (conv => arg 3; dsimp -zeta -proj +zetaDelta only)

theorem fire_touches (src sev : Nat) (data : List Byte) (s : State) : Touches [.out, .reg, .irq, .log, .cpu] s (fire src sev data s) := by
  unfold fire
  refine Touches.ite (fun _ => (loseN_touches ..).after (by decide) (Touches.refl _ _)) (fun _ => Touches.ite (fun _ => ?_) (fun _ => ?_))
  · refine (bump_touches ..).after (by decide) (Touches.set rfl rfl rfl rfl rfl (Touches.refl _ s))
  · split
    · exact Touches.set rfl rfl rfl rfl rfl (Touches.refl _ s)
    · next hlt =>
      dsimp only
      split
      · exact (loseN_touches ..).wider (by decide)
      · next hlow =>
        refine (clearLost_touches ..).after (by decide) ((loseN_touches ..).after (by decide) (Touches.set rfl rfl rfl rfl rfl (Touches.refl _ s) (triggers := fun x => ?_)))
        have h8 : s.log.queue.foldl (fun m e => if e.seq.isNone then min m e.sev else m) 8 ≤ 8 := foldl_min_le ..
        have hm := lowestSev_mem s.log.queue 8 (by simp only [lowestSev] at hlow; omega)
        obtain ⟨e, he, h1, h2⟩ := hm
        have := dropLast_length (fun e => e.seq.isNone && e.sev == lowestSev s.log.queue) s.log.queue ⟨e, he, by simp [h1, h2, lowestSev]⟩
        simp only [List.length_append, this, List.length_cons, List.length_nil]
        omega

theorem reclaim_touches (s : State) : Touches [.log] s (reclaim s) := by
  unfold reclaim
  with_reducible repeat' first
    | exact Touches.refl _ _
    | assumption
    | refine Touches.ite (fun _ => ?_) (fun _ => ?_)
    | refine Touches.foldl (fun _ _ _ => ?_) ?_
    | ((conv => arg 3; arg 29); first | refine Touches.set rfl rfl rfl rfl rfl ?_)
    | extract_lets -underBinder
    | split
    | ((conv => arg 3; fail_if_success arg 1); refine Touches.set rfl rfl rfl rfl rfl ?_)
    | (conv => arg 3; dsimp -zeta -proj +zetaDelta only)

theorem noteGone_touches (p : RecEntry → Bool) (s : State) : Touches [.log] s (noteGone p s) := by
  unfold noteGone
  with_reducible repeat' first
    | exact Touches.refl _ _
    | assumption
    | refine Touches.ite (fun _ => ?_) (fun _ => ?_)
    | refine Touches.foldl (fun _ _ _ => ?_) ?_
    | ((conv => arg 3; arg 29); first | refine Touches.set rfl rfl rfl rfl rfl ?_)
    | extract_lets -underBinder
    | split
    | ((conv => arg 3; fail_if_success arg 1); refine Touches.set rfl rfl rfl rfl rfl ?_)
    | (conv => arg 3; dsimp -zeta -proj +zetaDelta only)

theorem makeRoom_touches {v need : Nat} {s t : State} (h : makeRoom v need s = some t) : Touches [.reg, .log] s t := by
  unfold makeRoom at h
  dsimp only at h
  repeat' split at h
  all_goals cases h
  · exact Touches.refl _ _
  · exact (reclaim_touches ..).wider (by decide)
  · refine (reclaim_touches ..).after (by decide) ((bumpBy_touches ..).after (by decide) ?_)
    refine Touches.set rfl rfl rfl rfl rfl ?_
    refine (noteGone_touches ..).after (by decide) ?_
    refine Touches.set rfl rfl rfl rfl rfl ?_
    exact (reclaim_touches ..).wider (by decide)

theorem noteFull_touches (before s : State) : Touches [.out, .reg, .irq, .log, .cpu] s (noteFull before s) := by
  unfold noteFull
  with_reducible repeat' first
    | exact Touches.refl _ _
    | assumption
    | refine Touches.ite (fun _ => ?_) (fun _ => ?_)
    | refine (fire_touches ..).after (by decide) ?_
    | refine Touches.foldl (fun _ _ _ => ?_) ?_
    | extract_lets -underBinder
    | split
    | (conv => arg 3; dsimp -zeta -proj +zetaDelta only)

theorem ranOut_touches (s : State) : Touches [.log] s (ranOut s) := by
  unfold ranOut
  with_reducible repeat' first
    | exact Touches.refl _ _
    | assumption
    | refine Touches.ite (fun _ => ?_) (fun _ => ?_)
    | refine Touches.foldl (fun _ _ _ => ?_) ?_
    | ((conv => arg 3; arg 29); first | refine Touches.set rfl rfl rfl rfl rfl ?_)
    | extract_lets -underBinder
    | split
    | ((conv => arg 3; fail_if_success arg 1); refine Touches.set rfl rfl rfl rfl rfl ?_)
    | (conv => arg 3; dsimp -zeta -proj +zetaDelta only)

theorem refuseHead_touches (s : State) : Touches [.out, .reg, .irq, .log, .cpu] s (refuseHead s) := by
  unfold refuseHead
  with_reducible repeat' first
    | (extract_lets -underBinder +onlyGivenNames x; refine Touches.mp (t := x) ?_ ?bb; case' bb => clear_value x; revert x; refine Touches.keep ?_; intro _ _)
    | exact Touches.refl _ _
    | assumption
    | refine Touches.ite (fun _ => ?_) (fun _ => ?_)
    | refine (bump_touches ..).after (by decide) ?_
    | refine (raiseIrq_touches ..).after (by decide) ?_
    | refine Touches.foldl (fun _ _ _ => ?_) ?_
    | ((conv => arg 3; arg 29); first | refine Touches.set rfl rfl rfl rfl rfl ?_)
    | extract_lets -underBinder
    | split
    | ((conv => arg 3; fail_if_success arg 1); refine Touches.set rfl rfl rfl rfl rfl ?_)
    | (conv => arg 3; dsimp -zeta -proj +zetaDelta only)

theorem startHead_touches (e : RecEntry) (s : State) : Touches [.log] s (startHead e s) := by
  unfold startHead
  with_reducible repeat' first
    | (extract_lets -underBinder +onlyGivenNames x; refine Touches.mp (t := x) ?_ ?bb; case' bb => clear_value x; revert x; refine Touches.keep ?_; intro _ _)
    | exact Touches.refl _ _
    | assumption
    | refine Touches.ite (fun _ => ?_) (fun _ => ?_)
    | refine Touches.foldl (fun _ _ _ => ?_) ?_
    | ((conv => arg 3; arg 29); first | refine Touches.set rfl rfl rfl rfl rfl ?_)
    | extract_lets -underBinder
    | split
    | ((conv => arg 3; fail_if_success arg 1); refine Touches.set rfl rfl rfl rfl rfl ?_)
    | (conv => arg 3; dsimp -zeta -proj +zetaDelta only)

theorem entryWriteStart_touches (s : State) : Touches [.out, .reg, .irq, .log, .cpu] s (entryWriteStart s) := by
  unfold entryWriteStart
  with_reducible repeat' first
    | exact Touches.refl _ _
    | assumption
    | refine Touches.ite (fun _ => ?_) (fun _ => ?_)
    | refine (makeRoom_touches (h := by assumption)).after (by decide) ?_
    | refine (noteFull_touches ..).after (by decide) ?_
    | refine (ranOut_touches ..).after (by decide) ?_
    | refine (refuseHead_touches ..).after (by decide) ?_
    | refine (startHead_touches ..).after (by decide) ?_
    | refine Touches.foldl (fun _ _ _ => ?_) ?_
    | extract_lets -underBinder
    | split
    | (conv => arg 3; dsimp -zeta -proj +zetaDelta only)

theorem stopHead_touches (pages : Nat) (s : State) : Touches [.log] s (stopHead pages s) := by
  unfold stopHead
  with_reducible repeat' first
    | exact Touches.refl _ _
    | assumption
    | refine Touches.ite (fun _ => ?_) (fun _ => ?_)
    | refine Touches.foldl (fun _ _ _ => ?_) ?_
    | ((conv => arg 3; arg 29); first | refine Touches.set rfl rfl rfl rfl rfl ?_)
    | extract_lets -underBinder
    | split
    | ((conv => arg 3; fail_if_success arg 1); refine Touches.set rfl rfl rfl rfl rfl ?_)
    | (conv => arg 3; dsimp -zeta -proj +zetaDelta only)

theorem dropHead_touches (pages : Nat) (s : State) : Touches [.log] s (dropHead pages s) := by
  unfold dropHead
  with_reducible repeat' first
    | exact Touches.refl _ _
    | assumption
    | refine Touches.ite (fun _ => ?_) (fun _ => ?_)
    | refine Touches.foldl (fun _ _ _ => ?_) ?_
    | ((conv => arg 3; arg 29); first | refine Touches.set rfl rfl rfl rfl rfl ?_)
    | extract_lets -underBinder
    | split
    | ((conv => arg 3; fail_if_success arg 1); refine Touches.set rfl rfl rfl rfl rfl ?_)
    | (conv => arg 3; dsimp -zeta -proj +zetaDelta only)

theorem pageDone_touches (readbackOk : Bool) (s : State) : Touches [.reg, .log] s (pageDone readbackOk s) := by
  unfold pageDone
  with_reducible repeat' first
    | (extract_lets -underBinder +onlyGivenNames x; refine Touches.mp (t := x) ?_ ?bb; case' bb => clear_value x; revert x; refine Touches.keep ?_; intro _ _)
    | exact Touches.refl _ _
    | assumption
    | refine Touches.ite (fun _ => ?_) (fun _ => ?_)
    | refine (bump_touches ..).after (by decide) ?_
    | refine (clearLost_touches ..).after (by decide) ?_
    | refine (stopHead_touches ..).after (by decide) ?_
    | refine (dropHead_touches ..).after (by decide) ?_
    | refine Touches.foldl (fun _ _ _ => ?_) ?_
    | ((conv => arg 3; arg 29); first | refine Touches.set rfl rfl rfl rfl rfl ?_)
    | extract_lets -underBinder
    | split
    | ((conv => arg 3; fail_if_success arg 1); refine Touches.set rfl rfl rfl rfl rfl ?_)
    | (conv => arg 3; dsimp -zeta -proj +zetaDelta only)

theorem entryExists_touches (e : RecEntry) (s : State) : Touches [.out, .reg, .irq, .log, .cpu] s (entryExists e s) := by
  unfold entryExists
  with_reducible repeat' first
    | (extract_lets -underBinder +onlyGivenNames x; refine Touches.mp (t := x) ?_ ?bb; case' bb => clear_value x; revert x; refine Touches.keep ?_; intro _ _)
    | exact Touches.refl _ _
    | assumption
    | refine Touches.ite (fun _ => ?_) (fun _ => ?_)
    | refine (bump_touches ..).after (by decide) ?_
    | refine (raiseIrq_touches ..).after (by decide) ?_
    | refine Touches.foldl (fun _ _ _ => ?_) ?_
    | ((conv => arg 3; arg 29); first | refine Touches.set rfl rfl rfl rfl rfl ?_)
    | extract_lets -underBinder
    | split
    | ((conv => arg 3; fail_if_success arg 1); refine Touches.set rfl rfl rfl rfl rfl ?_)
    | (conv => arg 3; dsimp -zeta -proj +zetaDelta only)

theorem applyClear_touches (e : RecEntry) (c : Nat) (s : State) : Touches [.log] s (applyClear e c s) := by
  unfold applyClear
  with_reducible repeat' first
    | (extract_lets -underBinder +onlyGivenNames x; refine Touches.mp (t := x) ?_ ?bb; case' bb => clear_value x; revert x; refine Touches.keep ?_; intro _ _)
    | exact Touches.refl _ _
    | assumption
    | refine Touches.ite (fun _ => ?_) (fun _ => ?_)
    | refine (noteGone_touches ..).after (by decide) ?_
    | refine Touches.foldl (fun _ _ _ => ?_) ?_
    | ((conv => arg 3; arg 29); first | refine Touches.set rfl rfl rfl rfl rfl ?_)
    | extract_lets -underBinder
    | split
    | ((conv => arg 3; fail_if_success arg 1); refine Touches.set rfl rfl rfl rfl rfl ?_)
    | (conv => arg 3; dsimp -zeta -proj +zetaDelta only)

theorem markDone_touches (s : State) : Touches [.out, .reg, .irq, .log, .cpu] s (markDone s) := by
  unfold markDone
  split
  · next e q hq hw =>
    have hs : Touches [.out, .reg, .irq, .log, .cpu] s { s with log.queue := q, log.writing := none, log.stopped := false, log.forceStop := false } :=
      Touches.set rfl rfl rfl rfl rfl (Touches.refl _ s) (triggers := fun x => by rw [hq] at x; exact Nat.le_of_succ_le x)
    dsimp only
    split
    · refine Touches.ite (fun _ => (applyClear_touches ..).after (by decide) ?_) (fun _ => ?_) <;> exact (entryExists_touches ..).after (by decide) hs
    · exact (entryExists_touches ..).after (by decide) hs
  · exact Touches.refl _ _

theorem finishProgram_touches (s : State) : Touches [.out, .reg, .irq, .log, .cpu] s (finishProgram s) := by
  unfold finishProgram
  with_reducible repeat' first
    | exact Touches.refl _ _
    | assumption
    | refine Touches.ite (fun _ => ?_) (fun _ => ?_)
    | refine (pageDone_touches ..).after (by decide) ?_
    | refine (markDone_touches ..).after (by decide) ?_
    | refine Touches.foldl (fun _ _ _ => ?_) ?_
    | extract_lets -underBinder
    | split
    | (conv => arg 3; dsimp -zeta -proj +zetaDelta only)

theorem toLastWords_touches (s : State) : Touches [.now, .up, .out, .reg, .irq, .log, .cpu] s (toLastWords s) := by
  unfold toLastWords
  with_reducible repeat' first
    | exact Touches.refl _ _
    | assumption
    | refine Touches.ite (fun _ => ?_) (fun _ => ?_)
    | refine (passTo_touches ..).after (by decide) ?_
    | refine Touches.foldl (fun _ _ _ => ?_) ?_
    | extract_lets -underBinder
    | split
    | (conv => arg 3; dsimp -zeta -proj +zetaDelta only)

theorem lastWords_touches (s : State) : Touches [.now, .up, .out, .reg, .irq, .log, .cpu] s (lastWords s) := by
  unfold lastWords
  with_reducible repeat' first
    | (extract_lets -underBinder +onlyGivenNames x; refine Touches.mp (t := x) ?_ ?bb; case' bb => clear_value x; revert x; refine Touches.keep ?_; intro _ _)
    | exact Touches.refl _ _
    | assumption
    | refine Touches.ite (fun _ => ?_) (fun _ => ?_)
    | refine (bump_touches ..).after (by decide) ?_
    | refine (raiseIrq_touches ..).after (by decide) ?_
    | refine (loseN_touches ..).after (by decide) ?_
    | refine (makeRoom_touches (h := by assumption)).after (by decide) ?_
    | refine (noteFull_touches ..).after (by decide) ?_
    | refine (ranOut_touches ..).after (by decide) ?_
    | refine (entryExists_touches ..).after (by decide) ?_
    | refine (finishProgram_touches ..).after (by decide) ?_
    | refine (toLastWords_touches ..).after (by decide) ?_
    | refine Touches.foldl (fun _ _ _ => ?_) ?_
    | ((conv => arg 3; arg 29); first | refine Touches.set rfl rfl rfl rfl rfl ?_)
    | extract_lets -underBinder
    | split
    | ((conv => arg 3; fail_if_success arg 1); refine Touches.set rfl rfl rfl rfl rfl ?_)
    | (conv => arg 3; dsimp -zeta -proj +zetaDelta only)

theorem recLost_touches (s : State) : Touches [.out, .reg, .irq, .log, .cpu] s (recLost s) := by
  unfold recLost
  with_reducible repeat' first
    | (extract_lets -underBinder +onlyGivenNames x; refine Touches.mp (t := x) ?_ ?bb; case' bb => clear_value x; revert x; refine Touches.keep ?_; intro _ _)
    | exact Touches.refl _ _
    | assumption
    | refine Touches.ite (fun _ => ?_) (fun _ => ?_)
    | refine (loseN_touches ..).after (by decide) ?_
    | refine Touches.foldl (fun _ _ _ => ?_) ?_
    | ((conv => arg 3; arg 29); first | refine Touches.set rfl rfl rfl rfl rfl ?_)
    | extract_lets -underBinder
    | split
    | ((conv => arg 3; fail_if_success arg 1); refine Touches.set rfl rfl rfl rfl rfl ?_)
    | (conv => arg 3; dsimp -zeta -proj +zetaDelta only)

theorem loadPage_touches (e : RecEntry) (page : Nat) (s : State) : Touches [.log] s (loadPage e page s) := by
  unfold loadPage
  with_reducible repeat' first
    | exact Touches.refl _ _
    | assumption
    | refine Touches.ite (fun _ => ?_) (fun _ => ?_)
    | refine Touches.foldl (fun _ _ _ => ?_) ?_
    | ((conv => arg 3; arg 29); first | refine Touches.set rfl rfl rfl rfl rfl ?_)
    | extract_lets -underBinder
    | split
    | ((conv => arg 3; fail_if_success arg 1); refine Touches.set rfl rfl rfl rfl rfl ?_)
    | (conv => arg 3; dsimp -zeta -proj +zetaDelta only)

theorem cursorEnd_touches (s : State) : Touches [.log] s (cursorEnd s) := by
  unfold cursorEnd
  with_reducible repeat' first
    | exact Touches.refl _ _
    | assumption
    | refine Touches.ite (fun _ => ?_) (fun _ => ?_)
    | refine Touches.foldl (fun _ _ _ => ?_) ?_
    | ((conv => arg 3; arg 29); first | refine Touches.set rfl rfl rfl rfl rfl ?_)
    | extract_lets -underBinder
    | split
    | ((conv => arg 3; fail_if_success arg 1); refine Touches.set rfl rfl rfl rfl rfl ?_)
    | (conv => arg 3; dsimp -zeta -proj +zetaDelta only)

theorem cursorTo_touches (sel : List RecEntry → Option RecEntry) (minSev page : Nat) (s : State) : Touches [.log] s (cursorTo sel minSev page s) := by
  unfold cursorTo
  with_reducible repeat' first
    | exact Touches.refl _ _
    | assumption
    | refine Touches.ite (fun _ => ?_) (fun _ => ?_)
    | refine (loadPage_touches ..).after (by decide) ?_
    | refine (cursorEnd_touches ..).after (by decide) ?_
    | refine Touches.foldl (fun _ _ _ => ?_) ?_
    | extract_lets -underBinder
    | split
    | (conv => arg 3; dsimp -zeta -proj +zetaDelta only)

theorem cursorPage_touches (page : Nat) (s : State) : Touches [.log] s (cursorPage page s) := by
  unfold cursorPage
  with_reducible repeat' first
    | exact Touches.refl _ _
    | assumption
    | refine Touches.ite (fun _ => ?_) (fun _ => ?_)
    | refine Touches.foldl (fun _ _ _ => ?_) ?_
    | ((conv => arg 3; arg 29); first | refine Touches.set rfl rfl rfl rfl rfl ?_)
    | extract_lets -underBinder
    | split
    | ((conv => arg 3; fail_if_success arg 1); refine Touches.set rfl rfl rfl rfl rfl ?_)
    | (conv => arg 3; dsimp -zeta -proj +zetaDelta only)

theorem clearStart_touches (c kind : Nat) (s : State) : Touches [.out, .reg, .irq, .log, .cpu] s (clearStart c kind s) := by
  unfold clearStart
  with_reducible repeat' first
    | (extract_lets -underBinder +onlyGivenNames x; refine Touches.mp (t := x) ?_ ?bb; case' bb => clear_value x; revert x; refine Touches.keep ?_; intro _ _)
    | exact Touches.refl _ _
    | assumption
    | refine Touches.ite (fun _ => ?_) (fun _ => ?_)
    | refine (fire_touches ..).after (by decide) ?_
    | refine Touches.foldl (fun _ _ _ => ?_) ?_
    | ((conv => arg 3; arg 29); first | refine Touches.set rfl rfl rfl rfl rfl ?_)
    | extract_lets -underBinder
    | split
    | ((conv => arg 3; fail_if_success arg 1); refine Touches.set rfl rfl rfl rfl rfl ?_)
    | (conv => arg 3; dsimp -zeta -proj +zetaDelta only)

theorem clearAbort_touches (s : State) : Touches [.log] s (clearAbort s) := by
  unfold clearAbort
  with_reducible repeat' first
    | (extract_lets -underBinder +onlyGivenNames x; refine Touches.mp (t := x) ?_ ?bb; case' bb => clear_value x; revert x; refine Touches.keep ?_; intro _ _)
    | exact Touches.refl _ _
    | assumption
    | refine Touches.ite (fun _ => ?_) (fun _ => ?_)
    | refine (dropHead_touches ..).after (by decide) ?_
    | refine Touches.foldl (fun _ _ _ => ?_) ?_
    | ((conv => arg 3; arg 29); first | refine Touches.set rfl rfl rfl rfl rfl ?_)
    | extract_lets -underBinder
    | split
    | ((conv => arg 3; fail_if_success arg 1); refine Touches.set rfl rfl rfl rfl rfl ?_)
    | (conv => arg 3; dsimp -zeta -proj +zetaDelta only)

theorem recForceStop_touches (s : State) : Touches [.out, .reg, .irq, .log, .od, .cpu] s (recForceStop s) := by
  unfold recForceStop
  with_reducible repeat' first
    | (extract_lets -underBinder +onlyGivenNames x; refine Touches.mp (t := x) ?_ ?bb; case' bb => clear_value x; revert x; refine Touches.keep ?_; intro _ _)
    | exact Touches.refl _ _
    | assumption
    | refine Touches.ite (fun _ => ?_) (fun _ => ?_)
    | refine (applyVals_touches ..).after (by decide) ?_
    | refine (loseN_touches ..).after (by decide) ?_
    | refine (clearLost_touches ..).after (by decide) ?_
    | refine (dropHead_touches ..).after (by decide) ?_
    | refine Touches.foldl (fun _ _ _ => ?_) ?_
    | ((conv => arg 3; arg 29); first | refine Touches.set rfl rfl rfl rfl rfl ?_)
    | extract_lets -underBinder
    | split
    | ((conv => arg 3; fail_if_success arg 1); refine Touches.set rfl rfl rfl rfl rfl ?_)
    | (conv => arg 3; dsimp -zeta -proj +zetaDelta only)

theorem recDrain_touches (s : State) : Touches [.reg, .log] s (recDrain s) := by
  unfold recDrain
  with_reducible repeat' first
    | exact Touches.refl _ _
    | assumption
    | refine Touches.ite (fun _ => ?_) (fun _ => ?_)
    | refine (pageDone_touches ..).after (by decide) ?_
    | refine Touches.foldl (fun _ _ _ => ?_) ?_
    | extract_lets -underBinder
    | split
    | (conv => arg 3; dsimp -zeta -proj +zetaDelta only)

end Sys2Proof.Machine
end

