-- ==== Sys2Proof/Laws/Memory.lean ====
section
/-!
SUPPORT. Laws/Memory.lean: the export area's bytes: a read after a write, and that every memory operation keeps the canonical form.
-/
namespace Sys2Proof.Machine

set_option Elab.async false
set_option linter.all false

theorem memAbove_mono {lo hi : Nat} {m : List Host.Cell} (h : lo ≤ hi) (hm : memAbove hi m = true) : memAbove lo m = true := by
  cases m with
  | nil => rfl
  | cons c r =>
    obtain ⟨a, b⟩ := c
    simp only [memAbove, Bool.and_eq_true, decide_eq_true_eq] at hm ⊢
    exact ⟨⟨Nat.le_trans h hm.1.1, hm.1.2⟩, hm.2⟩

theorem memPut_above {lo : Nat} {m : List Host.Cell} (k : Nat) (v : Byte) (hk : lo ≤ k) (h : memAbove lo m = true) :
    memAbove lo (memPut m k v) = true := by
  induction m generalizing lo with
  | nil =>
    simp only [memPut]
    split
    · rfl
    · next hv => simp only [memAbove, Bool.and_eq_true, decide_eq_true_eq, bne_iff_ne, ne_eq]; exact ⟨⟨hk, hv⟩, trivial⟩
  | cons c r ih =>
    obtain ⟨a, b⟩ := c
    simp only [memAbove, Bool.and_eq_true, decide_eq_true_eq] at h
    obtain ⟨⟨ha, hb⟩, hr⟩ := h
    simp only [memPut]
    split
    · next hlt => 
      split
      · simp only [memAbove, Bool.and_eq_true, decide_eq_true_eq]; exact ⟨⟨ha, hb⟩, hr⟩
      · next hv =>
        simp only [memAbove, Bool.and_eq_true, decide_eq_true_eq, bne_iff_ne, ne_eq]
        exact ⟨⟨hk, hv⟩, ⟨hlt, by simpa using hb⟩, hr⟩
    · next hge =>
      split
      · next he =>
        subst he
        split
        · exact memAbove_mono (by omega) hr
        · next hv => simp only [memAbove, Bool.and_eq_true, decide_eq_true_eq, bne_iff_ne, ne_eq]; exact ⟨⟨hk, hv⟩, hr⟩
      · next hne =>
        simp only [memAbove, Bool.and_eq_true, decide_eq_true_eq]
        exact ⟨⟨ha, hb⟩, ih (by omega) hr⟩

/-- A byte written keeps the canonical form. -/
theorem memPut_wf {m : List Host.Cell} (k : Nat) (v : Byte) (h : Memory.wf m = true) : Memory.wf (memPut m k v) = true :=
  memPut_above k v (Nat.zero_le k) h

/-- Bytes written keep the canonical form. -/
theorem memWrite_wf {m : List Host.Cell} (k : Nat) (l : List Byte) (h : Memory.wf m = true) : Memory.wf (memWrite m k l) = true := by
  induction l generalizing m k with
  | nil => exact h
  | cons b r ih => exact ih (k + 1) (memPut_wf k b h)

theorem memGet_above {lo : Nat} {m : List Host.Cell} {k : Nat} (h : memAbove lo m = true) (hk : k < lo) : memGet m k = 0 := by
  induction m generalizing lo with
  | nil => rfl
  | cons c r ih =>
    obtain ⟨a, b⟩ := c
    simp only [memAbove, Bool.and_eq_true, decide_eq_true_eq] at h
    simp only [memGet]
    rw [if_neg (by omega)]
    exact ih h.2 (by omega)

end Sys2Proof.Machine
end

