-- ==== Sys2Proof/Laws/Status.lean ====
section
/-!
SUPPORT. Laws/Status.lean: the frame of every operation of Machine/Status.lean: which parts of the state it may change, and that it keeps the bounds.
-/
namespace Sys2Proof.Machine

set_option Elab.async false
set_option linter.all false

theorem setLink_touches (p : Nat) (x : LinkSt) (s : State) : Touches [.bb] s (setLink p x s) := by
  unfold setLink
  with_reducible repeat' first
    | exact Touches.refl _ _
    | assumption
    | refine Touches.ite (fun _ => ?_) (fun _ => ?_)
    | refine Touches.foldl (fun _ _ _ => ?_) ?_
    | ((conv => arg 3; arg 29); first | refine Touches.bb_set (by decide) ?_ | refine Touches.set rfl rfl rfl rfl rfl ?_)
    | extract_lets -underBinder
    | split
    | ((conv => arg 3; fail_if_success arg 1); refine Touches.set rfl rfl rfl rfl rfl ?_)
    | (conv => arg 3; dsimp -zeta -proj +zetaDelta only)

theorem setLine_touches (l : Line) (x : LineSt) (s : State) : Touches [.bb] s (setLine l x s) := by
  unfold setLine
  with_reducible repeat' first
    | exact Touches.refl _ _
    | assumption
    | refine Touches.ite (fun _ => ?_) (fun _ => ?_)
    | refine Touches.foldl (fun _ _ _ => ?_) ?_
    | ((conv => arg 3; arg 29); first | refine Touches.bb_set (by decide) ?_ | refine Touches.set rfl rfl rfl rfl rfl ?_)
    | extract_lets -underBinder
    | split
    | ((conv => arg 3; fail_if_success arg 1); refine Touches.set rfl rfl rfl rfl rfl ?_)
    | (conv => arg 3; dsimp -zeta -proj +zetaDelta only)

theorem setMac_touches (p : Nat) (x : MacSt) (s : State) : Touches [.net] s (setMac p x s) := by
  unfold setMac
  with_reducible repeat' first
    | exact Touches.refl _ _
    | assumption
    | refine Touches.ite (fun _ => ?_) (fun _ => ?_)
    | refine Touches.foldl (fun _ _ _ => ?_) ?_
    | ((conv => arg 3; arg 29); first | refine Touches.net_set (by decide) ?_ | refine Touches.set rfl rfl rfl rfl rfl ?_)
    | extract_lets -underBinder
    | split
    | ((conv => arg 3; fail_if_success arg 1); refine Touches.set rfl rfl rfl rfl rfl ?_)
    | (conv => arg 3; dsimp -zeta -proj +zetaDelta only)

theorem setSched_touches (p : Nat) (x : SchedSt) (s : State) : Touches [.net] s (setSched p x s) := by
  unfold setSched
  with_reducible repeat' first
    | exact Touches.refl _ _
    | assumption
    | refine Touches.ite (fun _ => ?_) (fun _ => ?_)
    | refine Touches.foldl (fun _ _ _ => ?_) ?_
    | ((conv => arg 3; arg 29); first | refine Touches.net_set (by decide) ?_ | refine Touches.set rfl rfl rfl rfl rfl ?_)
    | extract_lets -underBinder
    | split
    | ((conv => arg 3; fail_if_success arg 1); refine Touches.set rfl rfl rfl rfl rfl ?_)
    | (conv => arg 3; dsimp -zeta -proj +zetaDelta only)

theorem setNb_touches (p : Nat) (x : NbSt) (s : State) : Touches [.ina] s (setNb p x s) := by
  unfold setNb
  with_reducible repeat' first
    | exact Touches.refl _ _
    | assumption
    | refine Touches.ite (fun _ => ?_) (fun _ => ?_)
    | refine Touches.foldl (fun _ _ _ => ?_) ?_
    | ((conv => arg 3; arg 29); first | refine Touches.ina_set (by decide) ?_ | refine Touches.set rfl rfl rfl rfl rfl ?_)
    | extract_lets -underBinder
    | split
    | ((conv => arg 3; fail_if_success arg 1); refine Touches.set rfl rfl rfl rfl rfl ?_)
    | (conv => arg 3; dsimp -zeta -proj +zetaDelta only)

theorem setPtp_touches (p : Nat) (x : PtpSt) (s : State) : Touches [.tim] s (setPtp p x s) := by
  unfold setPtp
  with_reducible repeat' first
    | exact Touches.refl _ _
    | assumption
    | refine Touches.ite (fun _ => ?_) (fun _ => ?_)
    | refine Touches.foldl (fun _ _ _ => ?_) ?_
    | ((conv => arg 3; arg 29); first | refine Touches.set rfl rfl rfl rfl rfl ?_)
    | extract_lets -underBinder
    | split
    | ((conv => arg 3; fail_if_success arg 1); refine Touches.set rfl rfl rfl rfl rfl ?_)
    | (conv => arg 3; dsimp -zeta -proj +zetaDelta only)

theorem turnedAway_touches (who : Requester) (s : State) : Touches [.out] s (turnedAway who s) := by
  unfold turnedAway
  with_reducible repeat' first
    | exact Touches.refl _ _
    | assumption
    | refine Touches.ite (fun _ => ?_) (fun _ => ?_)
    | refine (emit_touches ..).after (by decide) ?_
    | refine Touches.foldl (fun _ _ _ => ?_) ?_
    | extract_lets -underBinder
    | split
    | (conv => arg 3; dsimp -zeta -proj +zetaDelta only)

end Sys2Proof.Machine
end

