-- ==== Sys2Proof/Laws/Net.lean ====
section
/-!
SUPPORT. Laws/Net.lean: the frame of every operation of Machine/Net.lean: which parts of the state it may change, and that it keeps the bounds.
-/
namespace Sys2Proof.Machine

set_option Elab.async false
set_option linter.all false

theorem countMac_touches (p i n : Nat) (s : State) : Touches [.out, .reg, .irq, .net, .cpu] s (countMac p i n s) := by
  unfold countMac
  with_reducible repeat' first
    | (extract_lets -underBinder +onlyGivenNames x; refine Touches.mp (t := x) ?_ ?bb; case' bb => clear_value x; revert x; refine Touches.keep ?_; intro _ _)
    | exact Touches.refl _ _
    | assumption
    | refine Touches.ite (fun _ => ?_) (fun _ => ?_)
    | refine (bumpBy_touches ..).after (by decide) ?_
    | refine (raiseIrq_touches ..).after (by decide) ?_
    | refine (setMac_touches ..).after (by decide) ?_
    | refine Touches.foldl (fun _ _ _ => ?_) ?_
    | extract_lets -underBinder
    | split
    | (conv => arg 3; dsimp -zeta -proj +zetaDelta only)

theorem countKinds_touches (p c v b : Nat) (f : Frame) (s : State) : Touches [.out, .reg, .irq, .net, .cpu] s (countKinds p c v b f s) := by
  unfold countKinds
  with_reducible repeat' first
    | (extract_lets -underBinder +onlyGivenNames x; refine Touches.mp (t := x) ?_ ?bb; case' bb => clear_value x; revert x; refine Touches.keep ?_; intro _ _)
    | exact Touches.refl _ _
    | assumption
    | refine Touches.ite (fun _ => ?_) (fun _ => ?_)
    | refine (countMac_touches ..).after (by decide) ?_
    | refine Touches.foldl (fun _ _ _ => ?_) ?_
    | extract_lets -underBinder
    | split
    | (conv => arg 3; dsimp -zeta -proj +zetaDelta only)

theorem countRx_touches (p : Nat) (f : Frame) (s : State) : Touches [.out, .reg, .irq, .net, .cpu] s (countRx p f s) := by
  unfold countRx
  with_reducible repeat' first
    | exact Touches.refl _ _
    | assumption
    | refine Touches.ite (fun _ => ?_) (fun _ => ?_)
    | refine (countMac_touches ..).after (by decide) ?_
    | refine (countKinds_touches ..).after (by decide) ?_
    | refine Touches.foldl (fun _ _ _ => ?_) ?_
    | extract_lets -underBinder
    | split
    | (conv => arg 3; dsimp -zeta -proj +zetaDelta only)

theorem countTx_touches (p : Nat) (f : Frame) (s : State) : Touches [.out, .reg, .irq, .net, .cpu] s (countTx p f s) := by
  unfold countTx
  with_reducible repeat' first
    | exact Touches.refl _ _
    | assumption
    | refine Touches.ite (fun _ => ?_) (fun _ => ?_)
    | refine (countMac_touches ..).after (by decide) ?_
    | refine (countKinds_touches ..).after (by decide) ?_
    | refine Touches.foldl (fun _ _ _ => ?_) ?_
    | extract_lets -underBinder
    | split
    | (conv => arg 3; dsimp -zeta -proj +zetaDelta only)

theorem countIn_touches (p : Nat) (f : Frame) (s : State) : Touches [.out, .reg, .irq, .net, .cpu] s (countIn p f s) := by
  unfold countIn
  with_reducible repeat' first
    | exact Touches.refl _ _
    | assumption
    | refine Touches.ite (fun _ => ?_) (fun _ => ?_)
    | refine (countMac_touches ..).after (by decide) ?_
    | refine (countRx_touches ..).after (by decide) ?_
    | refine Touches.foldl (fun _ _ _ => ?_) ?_
    | extract_lets -underBinder
    | split
    | (conv => arg 3; dsimp -zeta -proj +zetaDelta only)

theorem enqueue_touches (p : Nat) (q : QFrame) (s : State) : Touches [.out, .reg, .irq, .net, .cpu] s (enqueue p q s) := by
  unfold enqueue
  with_reducible repeat' first
    | (extract_lets -underBinder +onlyGivenNames x; refine Touches.mp (t := x) ?_ ?bb; case' bb => clear_value x; revert x; refine Touches.keep ?_; intro _ _)
    | exact Touches.refl _ _
    | assumption
    | refine Touches.ite (fun _ => ?_) (fun _ => ?_)
    | refine (bump_touches ..).after (by decide) ?_
    | refine (setMac_touches ..).after (by decide) ?_
    | refine (countMac_touches ..).after (by decide) ?_
    | refine Touches.foldl (fun _ _ _ => ?_) ?_
    | extract_lets -underBinder
    | split
    | (conv => arg 3; dsimp -zeta -proj +zetaDelta only)

theorem newId_touches (s : State) : Touches [.net] s (newId s).2 := by
  unfold newId
  with_reducible repeat' first
    | exact Touches.refl _ _
    | assumption
    | refine Touches.ite (fun _ => ?_) (fun _ => ?_)
    | ((conv => arg 3; arg 1; (fail_if_success arg 3); arg 2); refine Touches.pair ?_)
    | refine Touches.iteSnd ?_ ?_
    | refine Touches.foldl (fun _ _ _ => ?_) ?_
    | ((conv => arg 3; arg 29); first | refine Touches.net_set (by decide) ?_ | refine Touches.set rfl rfl rfl rfl rfl ?_)
    | extract_lets -underBinder
    | split
    | ((conv => arg 3; fail_if_success arg 1); refine Touches.set rfl rfl rfl rfl rfl ?_)
    | (conv => arg 3; dsimp -zeta -proj +zetaDelta only)

theorem sendOn_touches (p ingress : Nat) (f : Frame) (s : State) : Touches [.out, .reg, .irq, .net, .cpu] s (sendOn p ingress f s) := by
  unfold sendOn
  with_reducible repeat' first
    | (extract_lets -underBinder +onlyGivenNames x; refine Touches.mp (t := x) ?_ ?bb; case' bb => clear_value x; revert x; refine Touches.keep ?_; intro _ _)
    | exact Touches.refl _ _
    | assumption
    | refine Touches.ite (fun _ => ?_) (fun _ => ?_)
    | refine (enqueue_touches ..).after (by decide) ?_
    | refine (newId_touches ..).after (by decide) ?_
    | refine (Touches.ofPair ‹newId _ = _› (newId_touches ..)).after (by decide) ?_
    | refine Touches.foldl (fun _ _ _ => ?_) ?_
    | extract_lets -underBinder
    | split
    | (conv => arg 3; dsimp -zeta -proj +zetaDelta only)

theorem pairSend_touches (p : Nat) (f : Frame) (s : State) : Touches [.out, .reg, .irq, .net, .cpu] s (pairSend p f s) := by
  unfold pairSend
  with_reducible repeat' first
    | exact Touches.refl _ _
    | assumption
    | refine Touches.ite (fun _ => ?_) (fun _ => ?_)
    | refine (countIn_touches ..).after (by decide) ?_
    | refine (sendOn_touches ..).after (by decide) ?_
    | refine Touches.foldl (fun _ _ _ => ?_) ?_
    | extract_lets -underBinder
    | split
    | (conv => arg 3; dsimp -zeta -proj +zetaDelta only)

theorem verifySend_touches (p : Nat) (s : State) : Touches [.out, .net] s (verifySend p s) := by
  unfold verifySend
  with_reducible repeat' first
    | (extract_lets -underBinder +onlyGivenNames x; refine Touches.mp (t := x) ?_ ?bb; case' bb => clear_value x; revert x; refine Touches.keep ?_; intro _ _)
    | exact Touches.refl _ _
    | assumption
    | refine Touches.ite (fun _ => ?_) (fun _ => ?_)
    | refine (emit_touches ..).after (by decide) ?_
    | refine (setSched_touches ..).after (by decide) ?_
    | refine Touches.foldl (fun _ _ _ => ?_) ?_
    | extract_lets -underBinder
    | split
    | (conv => arg 3; dsimp -zeta -proj +zetaDelta only)

theorem verifyStart_touches (p : Nat) (s : State) : Touches [.out, .net] s (verifyStart p s) := by
  unfold verifyStart
  with_reducible repeat' first
    | (extract_lets -underBinder +onlyGivenNames x; refine Touches.mp (t := x) ?_ ?bb; case' bb => clear_value x; revert x; refine Touches.keep ?_; intro _ _)
    | exact Touches.refl _ _
    | assumption
    | refine Touches.ite (fun _ => ?_) (fun _ => ?_)
    | refine (setSched_touches ..).after (by decide) ?_
    | refine (verifySend_touches ..).after (by decide) ?_
    | refine Touches.foldl (fun _ _ _ => ?_) ?_
    | extract_lets -underBinder
    | split
    | (conv => arg 3; dsimp -zeta -proj +zetaDelta only)

theorem pauseOut_touches (p time : Nat) (s : State) : Touches [.out, .reg, .irq, .net, .cpu] s (pauseOut p time s) := by
  unfold pauseOut
  with_reducible repeat' first
    | (extract_lets -underBinder +onlyGivenNames x; refine Touches.mp (t := x) ?_ ?bb; case' bb => clear_value x; revert x; refine Touches.keep ?_; intro _ _)
    | exact Touches.refl _ _
    | assumption
    | refine Touches.ite (fun _ => ?_) (fun _ => ?_)
    | refine (emit_touches ..).after (by decide) ?_
    | refine (setMac_touches ..).after (by decide) ?_
    | refine (countMac_touches ..).after (by decide) ?_
    | refine (countTx_touches ..).after (by decide) ?_
    | refine Touches.foldl (fun _ _ _ => ?_) ?_
    | extract_lets -underBinder
    | split
    | (conv => arg 3; dsimp -zeta -proj +zetaDelta only)

theorem pauseFlush_touches (p : Nat) (s : State) : Touches [.out, .reg, .irq, .net, .cpu] s (pauseFlush p s) := by
  unfold pauseFlush
  with_reducible repeat' first
    | exact Touches.refl _ _
    | assumption
    | refine Touches.ite (fun _ => ?_) (fun _ => ?_)
    | refine (pauseOut_touches ..).after (by decide) ?_
    | refine Touches.foldl (fun _ _ _ => ?_) ?_
    | extract_lets -underBinder
    | split
    | (conv => arg 3; dsimp -zeta -proj +zetaDelta only)

theorem pauseSend_touches (p time : Nat) (s : State) : Touches [.out, .reg, .irq, .net, .cpu] s (pauseSend p time s) := by
  unfold pauseSend
  with_reducible repeat' first
    | exact Touches.refl _ _
    | assumption
    | refine Touches.ite (fun _ => ?_) (fun _ => ?_)
    | refine (setMac_touches ..).after (by decide) ?_
    | refine (pauseOut_touches ..).after (by decide) ?_
    | refine Touches.foldl (fun _ _ _ => ?_) ?_
    | extract_lets -underBinder
    | split
    | (conv => arg 3; dsimp -zeta -proj +zetaDelta only)

theorem flowCheck_touches (p : Nat) (s : State) : Touches [.out, .reg, .irq, .net, .cpu] s (flowCheck p s) := by
  unfold flowCheck
  with_reducible repeat' first
    | (extract_lets -underBinder +onlyGivenNames x; refine Touches.mp (t := x) ?_ ?bb; case' bb => clear_value x; revert x; refine Touches.keep ?_; intro _ _)
    | exact Touches.refl _ _
    | assumption
    | refine Touches.ite (fun _ => ?_) (fun _ => ?_)
    | refine (pauseSend_touches ..).after (by decide) ?_
    | refine Touches.foldl (fun _ _ _ => ?_) ?_
    | extract_lets -underBinder
    | split
    | (conv => arg 3; dsimp -zeta -proj +zetaDelta only)

theorem flowAll_touches (s : State) : Touches [.out, .reg, .irq, .net, .cpu] s (flowAll s) := by
  unfold flowAll
  with_reducible repeat' first
    | exact Touches.refl _ _
    | assumption
    | refine Touches.ite (fun _ => ?_) (fun _ => ?_)
    | refine (flowCheck_touches ..).after (by decide) ?_
    | refine Touches.foldl (fun _ _ _ => ?_) ?_
    | extract_lets -underBinder
    | split
    | (conv => arg 3; dsimp -zeta -proj +zetaDelta only)

theorem flowApply_touches (p : Nat) (s : State) : Touches [.out, .reg, .irq, .net, .cpu] s (flowApply p s) := by
  unfold flowApply
  with_reducible repeat' first
    | exact Touches.refl _ _
    | assumption
    | refine Touches.ite (fun _ => ?_) (fun _ => ?_)
    | refine (setMac_touches ..).after (by decide) ?_
    | refine (flowCheck_touches ..).after (by decide) ?_
    | refine Touches.foldl (fun _ _ _ => ?_) ?_
    | extract_lets -underBinder
    | split
    | (conv => arg 3; dsimp -zeta -proj +zetaDelta only)

theorem pauseStart_touches (p time at_ : Nat) (s : State) : Touches [.net] s (pauseStart p time at_ s) := by
  unfold pauseStart
  with_reducible repeat' first
    | (extract_lets -underBinder +onlyGivenNames x; refine Touches.mp (t := x) ?_ ?bb; case' bb => clear_value x; revert x; refine Touches.keep ?_; intro _ _)
    | exact Touches.refl _ _
    | assumption
    | refine Touches.ite (fun _ => ?_) (fun _ => ?_)
    | refine (setMac_touches ..).after (by decide) ?_
    | refine Touches.foldl (fun _ _ _ => ?_) ?_
    | extract_lets -underBinder
    | split
    | (conv => arg 3; dsimp -zeta -proj +zetaDelta only)

theorem pauseCount_touches (p until_ : Nat) (s : State) : Touches [.out, .reg, .irq, .net, .cpu] s (pauseCount p until_ s) := by
  unfold pauseCount
  with_reducible repeat' first
    | (extract_lets -underBinder +onlyGivenNames x; refine Touches.mp (t := x) ?_ ?bb; case' bb => clear_value x; revert x; refine Touches.keep ?_; intro _ _)
    | exact Touches.refl _ _
    | assumption
    | refine Touches.ite (fun _ => ?_) (fun _ => ?_)
    | refine (setMac_touches ..).after (by decide) ?_
    | refine (countMac_touches ..).after (by decide) ?_
    | refine Touches.foldl (fun _ _ _ => ?_) ?_
    | extract_lets -underBinder
    | split
    | (conv => arg 3; dsimp -zeta -proj +zetaDelta only)

theorem pauseEnd_touches (p : Nat) (s : State) : Touches [.out, .reg, .irq, .net, .cpu] s (pauseEnd p s) := by
  unfold pauseEnd
  with_reducible repeat' first
    | (extract_lets -underBinder +onlyGivenNames x; refine Touches.mp (t := x) ?_ ?bb; case' bb => clear_value x; revert x; refine Touches.keep ?_; intro _ _)
    | exact Touches.refl _ _
    | assumption
    | refine Touches.ite (fun _ => ?_) (fun _ => ?_)
    | refine (setMac_touches ..).after (by decide) ?_
    | refine (pauseCount_touches ..).after (by decide) ?_
    | refine Touches.foldl (fun _ _ _ => ?_) ?_
    | extract_lets -underBinder
    | split
    | (conv => arg 3; dsimp -zeta -proj +zetaDelta only)

theorem fragment_touches (p : Nat) (w : Wire) (s : State) : Touches [.now, .up, .out, .reg, .irq, .log, .net, .cpu] s (fragment p w s) := by
  unfold fragment
  with_reducible repeat' first
    | (extract_lets -underBinder +onlyGivenNames x; refine Touches.mp (t := x) ?_ ?bb; case' bb => clear_value x; revert x; refine Touches.keep ?_; intro _ _)
    | exact Touches.refl _ _
    | assumption
    | refine Touches.ite (fun _ => ?_) (fun _ => ?_)
    | refine (bump_touches ..).after (by decide) ?_
    | refine (passTo_touches ..).after (by decide) ?_
    | refine (setMac_touches ..).after (by decide) ?_
    | refine (pauseFlush_touches ..).after (by decide) ?_
    | refine Touches.foldl (fun _ _ _ => ?_) ?_
    | extract_lets -underBinder
    | split
    | (conv => arg 3; dsimp -zeta -proj +zetaDelta only)

theorem flowReset_touches (p : Nat) (s : State) : Touches [.out, .reg, .irq, .net, .cpu] s (flowReset p s) := by
  unfold flowReset
  with_reducible repeat' first
    | (extract_lets -underBinder +onlyGivenNames x; refine Touches.mp (t := x) ?_ ?bb; case' bb => clear_value x; revert x; refine Touches.keep ?_; intro _ _)
    | exact Touches.refl _ _
    | assumption
    | refine Touches.ite (fun _ => ?_) (fun _ => ?_)
    | refine (setMac_touches ..).after (by decide) ?_
    | refine (pauseEnd_touches ..).after (by decide) ?_
    | refine Touches.foldl (fun _ _ _ => ?_) ?_
    | extract_lets -underBinder
    | split
    | (conv => arg 3; dsimp -zeta -proj +zetaDelta only)

theorem wireFree_touches (p at_ : Nat) (s : State) : Touches [.out, .reg, .irq, .net, .cpu] s (wireFree p at_ s) := by
  unfold wireFree
  with_reducible repeat' first
    | (extract_lets -underBinder +onlyGivenNames x; refine Touches.mp (t := x) ?_ ?bb; case' bb => clear_value x; revert x; refine Touches.keep ?_; intro _ _)
    | exact Touches.refl _ _
    | assumption
    | refine Touches.ite (fun _ => ?_) (fun _ => ?_)
    | refine (verifyStart_touches ..).after (by decide) ?_
    | refine (pauseFlush_touches ..).after (by decide) ?_
    | refine (pauseStart_touches ..).after (by decide) ?_
    | refine Touches.foldl (fun _ _ _ => ?_) ?_
    | extract_lets -underBinder
    | split
    | (conv => arg 3; dsimp -zeta -proj +zetaDelta only)

theorem ptpQueue_touches (p ingress : Nat) (cut : Bool) (m : PtpMsg) (s : State) : Touches [.out, .reg, .irq, .net, .cpu] s (ptpQueue p ingress cut m s) := by
  unfold ptpQueue
  with_reducible repeat' first
    | (extract_lets -underBinder +onlyGivenNames x; refine Touches.mp (t := x) ?_ ?bb; case' bb => clear_value x; revert x; refine Touches.keep ?_; intro _ _)
    | exact Touches.refl _ _
    | assumption
    | refine Touches.ite (fun _ => ?_) (fun _ => ?_)
    | refine (enqueue_touches ..).after (by decide) ?_
    | refine (newId_touches ..).after (by decide) ?_
    | refine (Touches.ofPair ‹newId _ = _› (newId_touches ..)).after (by decide) ?_
    | refine Touches.foldl (fun _ _ _ => ?_) ?_
    | extract_lets -underBinder
    | split
    | (conv => arg 3; dsimp -zeta -proj +zetaDelta only)

theorem ptpSend_touches (p : Nat) (m : PtpMsg) (s : State) : Touches [.out, .reg, .irq, .net, .cpu] s (ptpSend p m s) := by
  unfold ptpSend
  with_reducible repeat' first
    | exact Touches.refl _ _
    | assumption
    | refine Touches.ite (fun _ => ?_) (fun _ => ?_)
    | refine (ptpQueue_touches ..).after (by decide) ?_
    | refine Touches.foldl (fun _ _ _ => ?_) ?_
    | extract_lets -underBinder
    | split
    | (conv => arg 3; dsimp -zeta -proj +zetaDelta only)

theorem ptpSent_touches (p : Nat) (m : PtpMsg) (s : State) : Touches [.out, .reg, .irq, .net, .cpu] s (ptpSent p m s) := by
  unfold ptpSent
  with_reducible repeat' first
    | (extract_lets -underBinder +onlyGivenNames x; refine Touches.mp (t := x) ?_ ?bb; case' bb => clear_value x; revert x; refine Touches.keep ?_; intro _ _)
    | exact Touches.refl _ _
    | assumption
    | refine Touches.ite (fun _ => ?_) (fun _ => ?_)
    | refine (emit_touches ..).after (by decide) ?_
    | refine (bump_touches ..).after (by decide) ?_
    | refine (ptpSend_touches ..).after (by decide) ?_
    | refine Touches.foldl (fun _ _ _ => ?_) ?_
    | extract_lets -underBinder
    | split
    | (conv => arg 3; dsimp -zeta -proj +zetaDelta only)

theorem wireEnd_touches (p : Nat) (s : State) : Touches [.out, .reg, .irq, .net, .cpu] s (wireEnd p s) := by
  unfold wireEnd
  with_reducible repeat' first
    | (extract_lets -underBinder +onlyGivenNames x; refine Touches.mp (t := x) ?_ ?bb; case' bb => clear_value x; revert x; refine Touches.keep ?_; intro _ _)
    | exact Touches.refl _ _
    | assumption
    | refine Touches.ite (fun _ => ?_) (fun _ => ?_)
    | refine (emit_touches ..).after (by decide) ?_
    | refine (setMac_touches ..).after (by decide) ?_
    | refine (countMac_touches ..).after (by decide) ?_
    | refine (countTx_touches ..).after (by decide) ?_
    | refine (flowCheck_touches ..).after (by decide) ?_
    | refine (wireFree_touches ..).after (by decide) ?_
    | refine (ptpSent_touches ..).after (by decide) ?_
    | refine Touches.foldl (fun _ _ _ => ?_) ?_
    | extract_lets -underBinder
    | split
    | (conv => arg 3; dsimp -zeta -proj +zetaDelta only)

theorem settleWire_touches (p : Nat) (s : State) : Touches [.out, .reg, .irq, .net, .cpu] s (settleWire p s) := by
  unfold settleWire
  with_reducible repeat' first
    | exact Touches.refl _ _
    | assumption
    | refine Touches.ite (fun _ => ?_) (fun _ => ?_)
    | refine (wireEnd_touches ..).after (by decide) ?_
    | refine Touches.foldl (fun _ _ _ => ?_) ?_
    | extract_lets -underBinder
    | split
    | (conv => arg 3; dsimp -zeta -proj +zetaDelta only)

theorem pauseAfter_touches (p time : Nat) (w : Wire) (s : State) : Touches [.now, .up, .out, .reg, .irq, .log, .net, .cpu] s (pauseAfter p time w s) := by
  unfold pauseAfter
  with_reducible repeat' first
    | (extract_lets -underBinder +onlyGivenNames x; refine Touches.mp (t := x) ?_ ?bb; case' bb => clear_value x; revert x; refine Touches.keep ?_; intro _ _)
    | exact Touches.refl _ _
    | assumption
    | refine Touches.ite (fun _ => ?_) (fun _ => ?_)
    | refine (passTo_touches ..).after (by decide) ?_
    | refine (setMac_touches ..).after (by decide) ?_
    | refine (pauseStart_touches ..).after (by decide) ?_
    | refine (fragment_touches ..).after (by decide) ?_
    | refine Touches.foldl (fun _ _ _ => ?_) ?_
    | extract_lets -underBinder
    | split
    | (conv => arg 3; dsimp -zeta -proj +zetaDelta only)

theorem pauseIn_touches (p time : Nat) (s : State) : Touches [.now, .up, .out, .reg, .irq, .log, .net, .cpu] s (pauseIn p time s) := by
  unfold pauseIn
  with_reducible repeat' first
    | (extract_lets -underBinder +onlyGivenNames x; refine Touches.mp (t := x) ?_ ?bb; case' bb => clear_value x; revert x; refine Touches.keep ?_; intro _ _)
    | exact Touches.refl _ _
    | assumption
    | refine Touches.ite (fun _ => ?_) (fun _ => ?_)
    | refine (setMac_touches ..).after (by decide) ?_
    | refine (countMac_touches ..).after (by decide) ?_
    | refine (pauseStart_touches ..).after (by decide) ?_
    | refine (pauseCount_touches ..).after (by decide) ?_
    | refine (pauseEnd_touches ..).after (by decide) ?_
    | refine (settleWire_touches ..).after (by decide) ?_
    | refine (pauseAfter_touches ..).after (by decide) ?_
    | refine Touches.foldl (fun _ _ _ => ?_) ?_
    | extract_lets -underBinder
    | split
    | (conv => arg 3; dsimp -zeta -proj +zetaDelta only)

theorem setMs_touches (p : Nat) (x : MacsecSt) (s : State) : Touches [.cpu] s (setMs p x s) := by
  unfold setMs
  with_reducible repeat' first
    | exact Touches.refl _ _
    | assumption
    | refine Touches.ite (fun _ => ?_) (fun _ => ?_)
    | refine Touches.foldl (fun _ _ _ => ?_) ?_
    | ((conv => arg 3; arg 29); first | refine Touches.cpu_set (by decide) (by with_reducible rfl) ?_ | refine Touches.set rfl rfl rfl rfl rfl ?_)
    | extract_lets -underBinder
    | split
    | ((conv => arg 3; fail_if_success arg 1); refine Touches.set rfl rfl rfl rfl rfl ?_)
    | (conv => arg 3; dsimp -zeta -proj +zetaDelta only)

theorem secSend_touches (p : Nat) (f : Frame) (s : State) : Touches [.cpu] s (secSend p f s).2 := by
  unfold secSend
  with_reducible repeat' first
    | (extract_lets -underBinder +onlyGivenNames x; refine Touches.mp (t := x) ?_ ?bb; case' bb => clear_value x; revert x; refine Touches.keep ?_; intro _ _)
    | exact Touches.refl _ _
    | assumption
    | refine Touches.ite (fun _ => ?_) (fun _ => ?_)
    | ((conv => arg 3; arg 1; (fail_if_success arg 3); arg 2); refine Touches.pair ?_)
    | refine Touches.iteSnd ?_ ?_
    | refine (setMs_touches ..).after (by decide) ?_
    | refine Touches.foldl (fun _ _ _ => ?_) ?_
    | extract_lets -underBinder
    | split
    | (conv => arg 3; dsimp -zeta -proj +zetaDelta only)

theorem wireStart_touches (p queue : Nat) (express : Bool) (q : QFrame) (s : State) : Touches [.net, .cpu] s (wireStart p queue express q s) := by
  unfold wireStart
  with_reducible repeat' first
    | (extract_lets -underBinder +onlyGivenNames x; refine Touches.mp (t := x) ?_ ?bb; case' bb => clear_value x; revert x; refine Touches.keep ?_; intro _ _)
    | exact Touches.refl _ _
    | assumption
    | refine Touches.ite (fun _ => ?_) (fun _ => ?_)
    | refine (setMac_touches ..).after (by decide) ?_
    | refine (secSend_touches ..).after (by decide) ?_
    | refine (Touches.ofPair ‹secSend _ _ _ = _› (secSend_touches ..)).after (by decide) ?_
    | refine Touches.foldl (fun _ _ _ => ?_) ?_
    | extract_lets -underBinder
    | split
    | (conv => arg 3; dsimp -zeta -proj +zetaDelta only)

theorem wireMark_touches (p : Nat) (s : State) : Touches [.out, .reg, .irq, .net, .cpu] s (wireMark p s) := by
  unfold wireMark
  with_reducible repeat' first
    | exact Touches.refl _ _
    | assumption
    | refine Touches.ite (fun _ => ?_) (fun _ => ?_)
    | refine (emit_touches ..).after (by decide) ?_
    | refine (setMac_touches ..).after (by decide) ?_
    | refine (countMac_touches ..).after (by decide) ?_
    | refine (flowCheck_touches ..).after (by decide) ?_
    | refine (wireFree_touches ..).after (by decide) ?_
    | refine Touches.foldl (fun _ _ _ => ?_) ?_
    | extract_lets -underBinder
    | split
    | (conv => arg 3; dsimp -zeta -proj +zetaDelta only)

theorem dramPut_touches (a : Nat) (d : List Byte) (s : State) : Touches [.cpu] s (dramPut a d s) := by
  unfold dramPut
  split
  · exact Touches.set rfl rfl rfl rfl rfl (Touches.refl _ s) (apps := fun i => memWrite_wf _ _ i)
  · exact Touches.refl _ _

theorem descPut_touches (base : BitVec 64) (i : Nat) (d : Desc) (s : State) : Touches [.cpu] s (descPut base i d s) := by
  unfold descPut
  with_reducible repeat' first
    | exact Touches.refl _ _
    | assumption
    | refine Touches.ite (fun _ => ?_) (fun _ => ?_)
    | refine (dramPut_touches ..).after (by decide) ?_
    | refine Touches.foldl (fun _ _ _ => ?_) ?_
    | extract_lets -underBinder
    | split
    | (conv => arg 3; dsimp -zeta -proj +zetaDelta only)

theorem nicDeliver_touches (mark : Nat) (f : Frame) (s : State) : Touches [.out, .reg, .irq, .net, .cpu] s (nicDeliver mark f s) := by
  unfold nicDeliver
  with_reducible repeat' first
    | (extract_lets -underBinder +onlyGivenNames x; refine Touches.mp (t := x) ?_ ?bb; case' bb => clear_value x; revert x; refine Touches.keep ?_; intro _ _)
    | exact Touches.refl _ _
    | assumption
    | refine Touches.ite (fun _ => ?_) (fun _ => ?_)
    | refine (countMac_touches ..).after (by decide) ?_
    | refine (countTx_touches ..).after (by decide) ?_
    | refine (dramPut_touches ..).after (by decide) ?_
    | refine (descPut_touches ..).after (by decide) ?_
    | refine Touches.foldl (fun _ _ _ => ?_) ?_
    | ((conv => arg 3; arg 29); first | refine Touches.irq_set (by decide) ?_ | refine Touches.cpu_set (by decide) (by with_reducible rfl) ?_ | refine Touches.set rfl rfl rfl rfl rfl ?_)
    | extract_lets -underBinder
    | split
    | ((conv => arg 3; fail_if_success arg 1); refine Touches.set rfl rfl rfl rfl rfl ?_)
    | (conv => arg 3; dsimp -zeta -proj +zetaDelta only)

theorem missingLeave_touches (h : BitVec 16) (l : List (Nat × Nat)) (s : State) : Touches [.reg] s (missingLeave h l s) := by
  induction l generalizing s with
  | nil => exact Touches.refl _ _
  | cons x r ih =>
    unfold missingLeave
    with_reducible repeat' first
    | refine (ih ..).after (by decide) ?_
    | (extract_lets -underBinder +onlyGivenNames x; refine Touches.mp (t := x) ?_ ?bb; case' bb => clear_value x; revert x; refine Touches.keep ?_; intro _ _)
    | exact Touches.refl _ _
    | assumption
    | refine Touches.ite (fun _ => ?_) (fun _ => ?_)
    | refine (bump_touches ..).after (by decide) ?_
    | refine Touches.foldl (fun _ _ _ => ?_) ?_
    | extract_lets -underBinder
    | split
    | (conv => arg 3; dsimp -zeta -proj +zetaDelta only)

theorem rxInsert_touches (m : Mac) (r : RxSrc) (s : State) : Touches [.reg, .net] s (rxInsert m r s) := by
  unfold rxInsert
  with_reducible repeat' first
    | (extract_lets -underBinder +onlyGivenNames x; refine Touches.mp (t := x) ?_ ?bb; case' bb => clear_value x; revert x; refine Touches.keep ?_; intro _ _)
    | exact Touches.refl _ _
    | assumption
    | refine Touches.ite (fun _ => ?_) (fun _ => ?_)
    | refine (bump_touches ..).after (by decide) ?_
    | refine Touches.foldl (fun _ _ _ => ?_) ?_
    | ((conv => arg 3; arg 29); first | refine Touches.net_set (by decide) ?_ | refine Touches.set rfl rfl rfl rfl rfl ?_)
    | extract_lets -underBinder
    | split
    | ((conv => arg 3; fail_if_success arg 1); refine Touches.set rfl rfl rfl rfl rfl ?_)
    | (conv => arg 3; dsimp -zeta -proj +zetaDelta only)

theorem rxPut_touches (src : Mac) (r : RxSrc) (s : State) : Touches [.net] s (rxPut src r s) := by
  unfold rxPut
  with_reducible repeat' first
    | exact Touches.refl _ _
    | assumption
    | refine Touches.ite (fun _ => ?_) (fun _ => ?_)
    | refine Touches.foldl (fun _ _ _ => ?_) ?_
    | ((conv => arg 3; arg 29); first | refine Touches.net_set (by decide) ?_ | refine Touches.set rfl rfl rfl rfl rfl ?_)
    | extract_lets -underBinder
    | split
    | ((conv => arg 3; fail_if_success arg 1); refine Touches.set rfl rfl rfl rfl rfl ?_)
    | (conv => arg 3; dsimp -zeta -proj +zetaDelta only)

theorem dupReceive_touches (src : Mac) (q : BitVec 16) (l : Line) (s : State) : Touches [.reg, .net] s (dupReceive src q l s).2 := by
  unfold dupReceive
  with_reducible repeat' first
    | (extract_lets -underBinder +onlyGivenNames x; refine Touches.mp (t := x) ?_ ?bb; case' bb => clear_value x; revert x; refine Touches.keep ?_; intro _ _)
    | exact Touches.refl _ _
    | assumption
    | refine Touches.ite (fun _ => ?_) (fun _ => ?_)
    | ((conv => arg 3; arg 1; (fail_if_success arg 3); arg 2); refine Touches.pair ?_)
    | refine Touches.iteSnd ?_ ?_
    | refine (bump_touches ..).after (by decide) ?_
    | refine (missingLeave_touches ..).after (by decide) ?_
    | refine (rxInsert_touches ..).after (by decide) ?_
    | refine (rxPut_touches ..).after (by decide) ?_
    | refine Touches.foldl (fun _ _ _ => ?_) ?_
    | ((conv => arg 3; arg 29); first | refine Touches.net_set (by decide) ?_ | refine Touches.set rfl rfl rfl rfl rfl ?_)
    | extract_lets -underBinder
    | split
    | ((conv => arg 3; fail_if_success arg 1); refine Touches.set rfl rfl rfl rfl rfl ?_)
    | (conv => arg 3; dsimp -zeta -proj +zetaDelta only)

theorem txSequence_touches (m : Mac) (s : State) : Touches [.free, .reg, .net] s (txSequence m s).2 := by
  unfold txSequence
  with_reducible repeat' first
    | (extract_lets -underBinder +onlyGivenNames x; refine Touches.mp (t := x) ?_ ?bb; case' bb => clear_value x; revert x; refine Touches.keep ?_; intro _ _)
    | exact Touches.refl _ _
    | assumption
    | refine Touches.ite (fun _ => ?_) (fun _ => ?_)
    | ((conv => arg 3; arg 1; (fail_if_success arg 3); arg 2); refine Touches.pair ?_)
    | refine Touches.iteSnd ?_ ?_
    | refine (bump_touches ..).after (by decide) ?_
    | refine (nextFree_touches ..).after (by decide) ?_
    | refine (Touches.ofPair ‹nextFree _ = _› (nextFree_touches ..)).after (by decide) ?_
    | refine Touches.foldl (fun _ _ _ => ?_) ?_
    | ((conv => arg 3; arg 29); first | refine Touches.net_set (by decide) ?_ | refine Touches.set rfl rfl rfl rfl rfl ?_)
    | extract_lets -underBinder
    | split
    | ((conv => arg 3; fail_if_success arg 1); refine Touches.set rfl rfl rfl rfl rfl ?_)
    | (conv => arg 3; dsimp -zeta -proj +zetaDelta only)

theorem learn_touches (l : Line) (m : Mac) (p : Nat) (s : State) : Touches [.net] s (learn l m p s) := by
  unfold learn
  with_reducible repeat' first
    | exact Touches.refl _ _
    | assumption
    | refine Touches.ite (fun _ => ?_) (fun _ => ?_)
    | refine Touches.foldl (fun _ _ _ => ?_) ?_
    | ((conv => arg 3; arg 29); first | refine Touches.net_set (by decide) ?_ | refine Touches.set rfl rfl rfl rfl rfl ?_)
    | extract_lets -underBinder
    | split
    | ((conv => arg 3; fail_if_success arg 1); refine Touches.set rfl rfl rfl rfl rfl ?_)
    | (conv => arg 3; dsimp -zeta -proj +zetaDelta only)

theorem port19_touches (f : Frame) (s : State) : Touches [.out, .reg, .irq, .net, .cpu] s (port19 f s) := by
  unfold port19
  with_reducible repeat' first
    | exact Touches.refl _ _
    | assumption
    | refine Touches.ite (fun _ => ?_) (fun _ => ?_)
    | refine (emit_touches ..).after (by decide) ?_
    | refine (countTx_touches ..).after (by decide) ?_
    | refine Touches.foldl (fun _ _ _ => ?_) ?_
    | extract_lets -underBinder
    | split
    | (conv => arg 3; dsimp -zeta -proj +zetaDelta only)

theorem deliverLocal_touches (i ingress mark : Nat) (f : Frame) (s : State) (p : Nat) : Touches [.out, .reg, .irq, .net, .cpu] s (deliverLocal i ingress mark f s p) := by
  unfold deliverLocal
  with_reducible repeat' first
    | exact Touches.refl _ _
    | assumption
    | refine Touches.ite (fun _ => ?_) (fun _ => ?_)
    | refine (countTx_touches ..).after (by decide) ?_
    | refine (enqueue_touches ..).after (by decide) ?_
    | refine (nicDeliver_touches ..).after (by decide) ?_
    | refine (port19_touches ..).after (by decide) ?_
    | refine Touches.foldl (fun _ _ _ => ?_) ?_
    | extract_lets -underBinder
    | split
    | (conv => arg 3; dsimp -zeta -proj +zetaDelta only)

theorem planeForward_touches (i : Nat) (l : Line) (ingress mark : Nat) (f : Frame) (s : State) : Touches [.out, .reg, .irq, .net, .cpu] s (planeForward i l ingress mark f s) := by
  unfold planeForward
  with_reducible repeat' first
    | exact Touches.refl _ _
    | assumption
    | refine Touches.ite (fun _ => ?_) (fun _ => ?_)
    | refine (enqueue_touches ..).after (by decide) ?_
    | refine Touches.foldl (fun _ _ _ => ?_) ?_
    | extract_lets -underBinder
    | split
    | (conv => arg 3; dsimp -zeta -proj +zetaDelta only)

theorem seenDeliver_touches (i ingress : Nat) (f : Frame) (ports : List Nat) (s : State) : Touches [.free, .out, .reg, .irq, .net, .cpu] s (seenDeliver i ingress f ports s) := by
  unfold seenDeliver
  with_reducible repeat' first
    | (extract_lets -underBinder +onlyGivenNames x; refine Touches.mp (t := x) ?_ ?bb; case' bb => clear_value x; revert x; refine Touches.keep ?_; intro _ _)
    | exact Touches.refl _ _
    | assumption
    | refine Touches.ite (fun _ => ?_) (fun _ => ?_)
    | refine (nextFree_touches ..).after (by decide) ?_
    | refine (Touches.ofPair ‹nextFree _ = _› (nextFree_touches ..)).after (by decide) ?_
    | refine (deliverLocal_touches ..).after (by decide) ?_
    | refine Touches.foldl (fun _ _ _ => ?_) ?_
    | extract_lets -underBinder
    | split
    | (conv => arg 3; dsimp -zeta -proj +zetaDelta only)

theorem dupDeliver_touches (i : Nat) (l : Line) (ingress mark : Nat) (f : Frame) (s : State) : Touches [.free, .out, .reg, .irq, .net, .cpu] s (dupDeliver i l ingress mark f s) := by
  unfold dupDeliver
  with_reducible repeat' first
    | (extract_lets -underBinder +onlyGivenNames x; refine Touches.mp (t := x) ?_ ?bb; case' bb => clear_value x; revert x; refine Touches.keep ?_; intro _ _)
    | exact Touches.refl _ _
    | assumption
    | refine Touches.ite (fun _ => ?_) (fun _ => ?_)
    | refine (dupReceive_touches ..).after (by decide) ?_
    | refine (Touches.ofPair ‹dupReceive _ _ _ _ = _› (dupReceive_touches ..)).after (by decide) ?_
    | refine (deliverLocal_touches ..).after (by decide) ?_
    | refine (seenDeliver_touches ..).after (by decide) ?_
    | refine Touches.foldl (fun _ _ _ => ?_) ?_
    | extract_lets -underBinder
    | split
    | (conv => arg 3; dsimp -zeta -proj +zetaDelta only)

theorem planeIn_touches (i : Nat) (l : Line) (ingress mark : Nat) (f : Frame) (s : State) : Touches [.free, .out, .reg, .irq, .net, .cpu] s (planeIn i l ingress mark f s) := by
  unfold planeIn
  with_reducible repeat' first
    | exact Touches.refl _ _
    | assumption
    | refine Touches.ite (fun _ => ?_) (fun _ => ?_)
    | refine (planeForward_touches ..).after (by decide) ?_
    | refine (dupDeliver_touches ..).after (by decide) ?_
    | refine Touches.foldl (fun _ _ _ => ?_) ?_
    | extract_lets -underBinder
    | split
    | (conv => arg 3; dsimp -zeta -proj +zetaDelta only)

theorem linkLocalIn_touches (f : Frame) (s : State) : Touches [.out, .reg, .irq, .net, .cpu] s (linkLocalIn f s) := by
  unfold linkLocalIn
  with_reducible repeat' first
    | exact Touches.refl _ _
    | assumption
    | refine Touches.ite (fun _ => ?_) (fun _ => ?_)
    | refine (countTx_touches ..).after (by decide) ?_
    | refine (port19_touches ..).after (by decide) ?_
    | refine Touches.foldl (fun _ _ _ => ?_) ?_
    | extract_lets -underBinder
    | split
    | (conv => arg 3; dsimp -zeta -proj +zetaDelta only)

theorem dupTransmit_touches (ingress : Nat) (f : Frame) (s : State) : Touches [.free, .out, .reg, .irq, .net, .cpu] s (dupTransmit ingress f s) := by
  unfold dupTransmit
  with_reducible repeat' first
    | (extract_lets -underBinder +onlyGivenNames x; refine Touches.mp (t := x) ?_ ?bb; case' bb => clear_value x; revert x; refine Touches.keep ?_; intro _ _)
    | exact Touches.refl _ _
    | assumption
    | refine Touches.ite (fun _ => ?_) (fun _ => ?_)
    | refine (newId_touches ..).after (by decide) ?_
    | refine (Touches.ofPair ‹newId _ = _› (newId_touches ..)).after (by decide) ?_
    | refine (txSequence_touches ..).after (by decide) ?_
    | refine (Touches.ofPair ‹txSequence _ _ = _› (txSequence_touches ..)).after (by decide) ?_
    | refine (planeIn_touches ..).after (by decide) ?_
    | refine (linkLocalIn_touches ..).after (by decide) ?_
    | refine Touches.foldl (fun _ _ _ => ?_) ?_
    | extract_lets -underBinder
    | split
    | (conv => arg 3; dsimp -zeta -proj +zetaDelta only)

theorem badTransmit_touches (ingress mark : Nat) (f : Frame) (s : State) : Touches [.free, .out, .reg, .irq, .net, .cpu] s (badTransmit ingress mark f s) := by
  unfold badTransmit
  with_reducible repeat' first
    | (extract_lets -underBinder +onlyGivenNames x; refine Touches.mp (t := x) ?_ ?bb; case' bb => clear_value x; revert x; refine Touches.keep ?_; intro _ _)
    | exact Touches.refl _ _
    | assumption
    | refine Touches.ite (fun _ => ?_) (fun _ => ?_)
    | refine (newId_touches ..).after (by decide) ?_
    | refine (Touches.ofPair ‹newId _ = _› (newId_touches ..)).after (by decide) ?_
    | refine (planeForward_touches ..).after (by decide) ?_
    | refine (planeIn_touches ..).after (by decide) ?_
    | refine Touches.foldl (fun _ _ _ => ?_) ?_
    | extract_lets -underBinder
    | split
    | (conv => arg 3; dsimp -zeta -proj +zetaDelta only)

theorem sendInternal_touches (p : Nat) (f : Frame) (s : State) : Touches [.free, .out, .reg, .irq, .net, .cpu] s (sendInternal p f s) := by
  unfold sendInternal
  with_reducible repeat' first
    | exact Touches.refl _ _
    | assumption
    | refine Touches.ite (fun _ => ?_) (fun _ => ?_)
    | refine (countIn_touches ..).after (by decide) ?_
    | refine (dupTransmit_touches ..).after (by decide) ?_
    | refine Touches.foldl (fun _ _ _ => ?_) ?_
    | extract_lets -underBinder
    | split
    | (conv => arg 3; dsimp -zeta -proj +zetaDelta only)

theorem securityEvent_touches (kind arg : Nat) (s : State) : Touches [.out, .reg, .irq, .log, .cpu] s (securityEvent kind arg s) := by
  unfold securityEvent
  with_reducible repeat' first
    | exact Touches.refl _ _
    | assumption
    | refine Touches.ite (fun _ => ?_) (fun _ => ?_)
    | refine (raiseIrq_touches ..).after (by decide) ?_
    | refine (fire_touches ..).after (by decide) ?_
    | refine Touches.foldl (fun _ _ _ => ?_) ?_
    | extract_lets -underBinder
    | split
    | (conv => arg 3; dsimp -zeta -proj +zetaDelta only)

theorem secReceive_touches (p : Nat) (f : Frame) (sec : Option SecInfo) (mark : Nat) (s : State) : Touches [.out, .reg, .irq, .log, .cpu] s (secReceive p f sec mark s).2 := by
  unfold secReceive
  with_reducible repeat' first
    | (extract_lets -underBinder +onlyGivenNames x; refine Touches.mp (t := x) ?_ ?bb; case' bb => clear_value x; revert x; refine Touches.keep ?_; intro _ _)
    | exact Touches.refl _ _
    | assumption
    | refine Touches.ite (fun _ => ?_) (fun _ => ?_)
    | ((conv => arg 3; arg 1; (fail_if_success arg 3); arg 2); refine Touches.pair ?_)
    | refine Touches.iteSnd ?_ ?_
    | refine (bump_touches ..).after (by decide) ?_
    | refine (setMs_touches ..).after (by decide) ?_
    | refine (securityEvent_touches ..).after (by decide) ?_
    | refine Touches.foldl (fun _ _ _ => ?_) ?_
    | extract_lets -underBinder
    | split
    | (conv => arg 3; dsimp -zeta -proj +zetaDelta only)

theorem ptpRequestIn_touches (p : Nat) (b : List Byte) (s : State) : Touches [.out, .reg, .irq, .net, .cpu] s (ptpRequestIn p b s) := by
  unfold ptpRequestIn
  with_reducible repeat' first
    | (extract_lets -underBinder +onlyGivenNames x; refine Touches.mp (t := x) ?_ ?bb; case' bb => clear_value x; revert x; refine Touches.keep ?_; intro _ _)
    | exact Touches.refl _ _
    | assumption
    | refine Touches.ite (fun _ => ?_) (fun _ => ?_)
    | refine (bump_touches ..).after (by decide) ?_
    | refine (ptpSend_touches ..).after (by decide) ?_
    | refine Touches.foldl (fun _ _ _ => ?_) ?_
    | extract_lets -underBinder
    | split
    | (conv => arg 3; dsimp -zeta -proj +zetaDelta only)

theorem frameIn_touches (p mark : Nat) (f : Frame) (s : State) : Touches [.free, .out, .reg, .irq, .net, .cpu] s (frameIn p mark f s) := by
  unfold frameIn
  with_reducible repeat' first
    | (extract_lets -underBinder +onlyGivenNames x; refine Touches.mp (t := x) ?_ ?bb; case' bb => clear_value x; revert x; refine Touches.keep ?_; intro _ _)
    | exact Touches.refl _ _
    | assumption
    | refine Touches.ite (fun _ => ?_) (fun _ => ?_)
    | refine (bump_touches ..).after (by decide) ?_
    | refine (newId_touches ..).after (by decide) ?_
    | refine (Touches.ofPair ‹newId _ = _› (newId_touches ..)).after (by decide) ?_
    | refine (flowCheck_touches ..).after (by decide) ?_
    | refine (learn_touches ..).after (by decide) ?_
    | refine (planeIn_touches ..).after (by decide) ?_
    | refine (linkLocalIn_touches ..).after (by decide) ?_
    | refine (dupTransmit_touches ..).after (by decide) ?_
    | refine (badTransmit_touches ..).after (by decide) ?_
    | refine (ptpRequestIn_touches ..).after (by decide) ?_
    | refine Touches.foldl (fun _ _ _ => ?_) ?_
    | extract_lets -underBinder
    | split
    | (conv => arg 3; dsimp -zeta -proj +zetaDelta only)

theorem macControlIn_touches (p : Nat) (f : Frame) (s : State) : Touches [.now, .up, .out, .reg, .irq, .log, .net, .cpu] s (macControlIn p f s) := by
  unfold macControlIn
  with_reducible repeat' first
    | (extract_lets -underBinder +onlyGivenNames x; refine Touches.mp (t := x) ?_ ?bb; case' bb => clear_value x; revert x; refine Touches.keep ?_; intro _ _)
    | exact Touches.refl _ _
    | assumption
    | refine Touches.ite (fun _ => ?_) (fun _ => ?_)
    | refine (countMac_touches ..).after (by decide) ?_
    | refine (pauseIn_touches ..).after (by decide) ?_
    | refine Touches.foldl (fun _ _ _ => ?_) ?_
    | extract_lets -underBinder
    | split
    | (conv => arg 3; dsimp -zeta -proj +zetaDelta only)

theorem keepAlive_touches (p : Nat) (s : State) : Touches [.reg, .wak] s (keepAlive p s) := by
  unfold keepAlive
  with_reducible repeat' first
    | exact Touches.refl _ _
    | assumption
    | refine Touches.ite (fun _ => ?_) (fun _ => ?_)
    | refine (bump_touches ..).after (by decide) ?_
    | refine Touches.foldl (fun _ _ _ => ?_) ?_
    | ((conv => arg 3; arg 29); first | refine Touches.wak_set (by decide) ?_ | refine Touches.set rfl rfl rfl rfl rfl ?_)
    | extract_lets -underBinder
    | split
    | ((conv => arg 3; fail_if_success arg 1); refine Touches.set rfl rfl rfl rfl rfl ?_)
    | (conv => arg 3; dsimp -zeta -proj +zetaDelta only)

theorem dropPartial_touches (p : Nat) (s : State) : Touches [.reg, .net] s (dropPartial p s) := by
  unfold dropPartial
  with_reducible repeat' first
    | exact Touches.refl _ _
    | assumption
    | refine Touches.ite (fun _ => ?_) (fun _ => ?_)
    | refine (bump_touches ..).after (by decide) ?_
    | refine (setMac_touches ..).after (by decide) ?_
    | refine Touches.foldl (fun _ _ _ => ?_) ?_
    | extract_lets -underBinder
    | split
    | (conv => arg 3; dsimp -zeta -proj +zetaDelta only)

theorem fragmentIn_touches (p n : Nat) (fcs : Fcs) (s : State) : Touches [.reg, .net] s (fragmentIn p n fcs s) := by
  unfold fragmentIn
  with_reducible repeat' first
    | exact Touches.refl _ _
    | assumption
    | refine Touches.ite (fun _ => ?_) (fun _ => ?_)
    | refine (bump_touches ..).after (by decide) ?_
    | refine (setMac_touches ..).after (by decide) ?_
    | refine Touches.foldl (fun _ _ _ => ?_) ?_
    | extract_lets -underBinder
    | split
    | (conv => arg 3; dsimp -zeta -proj +zetaDelta only)

theorem reassemble_touches (p : Nat) (r : RxInfo) (s : State) : Touches [.reg, .net] s (reassemble p r s).2 := by
  unfold reassemble
  with_reducible repeat' first
    | (extract_lets -underBinder +onlyGivenNames x; refine Touches.mp (t := x) ?_ ?bb; case' bb => clear_value x; revert x; refine Touches.keep ?_; intro _ _)
    | exact Touches.refl _ _
    | assumption
    | refine Touches.ite (fun _ => ?_) (fun _ => ?_)
    | ((conv => arg 3; arg 1; (fail_if_success arg 3); arg 2); refine Touches.pair ?_)
    | refine Touches.iteSnd ?_ ?_
    | refine (bump_touches ..).after (by decide) ?_
    | refine (setMac_touches ..).after (by decide) ?_
    | refine (dropPartial_touches ..).after (by decide) ?_
    | refine (fragmentIn_touches ..).after (by decide) ?_
    | refine Touches.foldl (fun _ _ _ => ?_) ?_
    | extract_lets -underBinder
    | split
    | (conv => arg 3; dsimp -zeta -proj +zetaDelta only)

theorem resendFrom_touches (i : Nat) (s : State) (o : Nat) : Touches [.reg, .net] s (resendFrom i s o) := by
  unfold resendFrom
  with_reducible repeat' first
    | (extract_lets -underBinder +onlyGivenNames x; refine Touches.mp (t := x) ?_ ?bb; case' bb => clear_value x; revert x; refine Touches.keep ?_; intro _ _)
    | exact Touches.refl _ _
    | assumption
    | refine Touches.ite (fun _ => ?_) (fun _ => ?_)
    | refine (bump_touches ..).after (by decide) ?_
    | refine (setMac_touches ..).after (by decide) ?_
    | refine Touches.foldl (fun _ _ _ => ?_) ?_
    | extract_lets -underBinder
    | split
    | (conv => arg 3; dsimp -zeta -proj +zetaDelta only)

theorem resendDrop_touches (i : Nat) (s : State) (o : Nat) : Touches [.net] s (resendDrop i s o) := by
  unfold resendDrop
  with_reducible repeat' first
    | (extract_lets -underBinder +onlyGivenNames x; refine Touches.mp (t := x) ?_ ?bb; case' bb => clear_value x; revert x; refine Touches.keep ?_; intro _ _)
    | exact Touches.refl _ _
    | assumption
    | refine Touches.ite (fun _ => ?_) (fun _ => ?_)
    | refine (setMac_touches ..).after (by decide) ?_
    | refine Touches.foldl (fun _ _ _ => ?_) ?_
    | extract_lets -underBinder
    | split
    | (conv => arg 3; dsimp -zeta -proj +zetaDelta only)

theorem dropAwaited_touches (p : Nat) (s : State) : Touches [.out, .reg, .irq, .net, .cpu] s (dropAwaited p s) := by
  unfold dropAwaited
  with_reducible repeat' first
    | (extract_lets -underBinder +onlyGivenNames x; refine Touches.mp (t := x) ?_ ?bb; case' bb => clear_value x; revert x; refine Touches.keep ?_; intro _ _)
    | exact Touches.refl _ _
    | assumption
    | refine Touches.ite (fun _ => ?_) (fun _ => ?_)
    | refine (bump_touches ..).after (by decide) ?_
    | refine (setMac_touches ..).after (by decide) ?_
    | refine (flowCheck_touches ..).after (by decide) ?_
    | refine (resendDrop_touches ..).after (by decide) ?_
    | refine Touches.foldl (fun _ _ _ => ?_) ?_
    | extract_lets -underBinder
    | split
    | (conv => arg 3; dsimp -zeta -proj +zetaDelta only)

theorem awaitedIn_touches (p : Nat) (r : RxInfo) (s : State) : Touches [.out, .reg, .irq, .net, .cpu] s (awaitedIn p r s) := by
  unfold awaitedIn
  with_reducible repeat' first
    | exact Touches.refl _ _
    | assumption
    | refine Touches.ite (fun _ => ?_) (fun _ => ?_)
    | refine (bump_touches ..).after (by decide) ?_
    | refine (setMac_touches ..).after (by decide) ?_
    | refine (fragmentIn_touches ..).after (by decide) ?_
    | refine (resendFrom_touches ..).after (by decide) ?_
    | refine (dropAwaited_touches ..).after (by decide) ?_
    | refine Touches.foldl (fun _ _ _ => ?_) ?_
    | extract_lets -underBinder
    | split
    | (conv => arg 3; dsimp -zeta -proj +zetaDelta only)

theorem badIn_touches (p mark : Nat) (f : Frame) (s : State) : Touches [.free, .out, .reg, .irq, .net, .cpu] s (badIn p mark f s) := by
  unfold badIn
  with_reducible repeat' first
    | exact Touches.refl _ _
    | assumption
    | refine Touches.ite (fun _ => ?_) (fun _ => ?_)
    | refine (bump_touches ..).after (by decide) ?_
    | refine (frameIn_touches ..).after (by decide) ?_
    | refine Touches.foldl (fun _ _ _ => ?_) ?_
    | extract_lets -underBinder
    | split
    | (conv => arg 3; dsimp -zeta -proj +zetaDelta only)

theorem frameReceive_touches (p : Nat) (f : Frame) (r : RxInfo) (s : State) : Touches [.now, .up, .free, .out, .reg, .irq, .log, .wak, .net, .cpu] s (frameReceive p f r s) := by
  unfold frameReceive
  with_reducible repeat' first
    | (extract_lets -underBinder +onlyGivenNames x; refine Touches.mp (t := x) ?_ ?bb; case' bb => clear_value x; revert x; refine Touches.keep ?_; intro _ _)
    | exact Touches.refl _ _
    | assumption
    | refine Touches.ite (fun _ => ?_) (fun _ => ?_)
    | refine (bump_touches ..).after (by decide) ?_
    | refine (countMac_touches ..).after (by decide) ?_
    | refine (countRx_touches ..).after (by decide) ?_
    | refine (secReceive_touches ..).after (by decide) ?_
    | refine (Touches.ofPair ‹secReceive _ _ _ _ _ = _› (secReceive_touches ..)).after (by decide) ?_
    | refine (frameIn_touches ..).after (by decide) ?_
    | refine (macControlIn_touches ..).after (by decide) ?_
    | refine (keepAlive_touches ..).after (by decide) ?_
    | refine (badIn_touches ..).after (by decide) ?_
    | refine Touches.foldl (fun _ _ _ => ?_) ?_
    | extract_lets -underBinder
    | split
    | (conv => arg 3; dsimp -zeta -proj +zetaDelta only)

theorem frameEnds_touches (p : Nat) (f : Frame) (r : RxInfo) (s : State) : Touches [.now, .up, .free, .out, .reg, .irq, .log, .wak, .net, .cpu] s (frameEnds p f r s) := by
  unfold frameEnds
  with_reducible repeat' first
    | (extract_lets -underBinder +onlyGivenNames x; refine Touches.mp (t := x) ?_ ?bb; case' bb => clear_value x; revert x; refine Touches.keep ?_; intro _ _)
    | exact Touches.refl _ _
    | assumption
    | refine Touches.ite (fun _ => ?_) (fun _ => ?_)
    | refine (reassemble_touches ..).after (by decide) ?_
    | refine (Touches.ofPair ‹reassemble _ _ _ = _› (reassemble_touches ..)).after (by decide) ?_
    | refine (dropAwaited_touches ..).after (by decide) ?_
    | refine (awaitedIn_touches ..).after (by decide) ?_
    | refine (frameReceive_touches ..).after (by decide) ?_
    | refine Touches.foldl (fun _ _ _ => ?_) ?_
    | extract_lets -underBinder
    | split
    | (conv => arg 3; dsimp -zeta -proj +zetaDelta only)

theorem macReceive_touches (p : Nat) (f : Frame) (r : RxInfo) (s : State) : Touches [.now, .up, .free, .out, .reg, .irq, .log, .wak, .net, .cpu] s (macReceive p f r s) := by
  unfold macReceive
  with_reducible repeat' first
    | (extract_lets -underBinder +onlyGivenNames x; refine Touches.mp (t := x) ?_ ?bb; case' bb => clear_value x; revert x; refine Touches.keep ?_; intro _ _)
    | exact Touches.refl _ _
    | assumption
    | refine Touches.ite (fun _ => ?_) (fun _ => ?_)
    | refine (setMac_touches ..).after (by decide) ?_
    | refine (frameEnds_touches ..).after (by decide) ?_
    | refine Touches.foldl (fun _ _ _ => ?_) ?_
    | extract_lets -underBinder
    | split
    | (conv => arg 3; dsimp -zeta -proj +zetaDelta only)

end Sys2Proof.Machine
end

