-- ==== Sys2Proof/Laws/Transport.lean ====
section
/-!
SUPPORT. Laws/Transport.lean: the frame of every operation of Machine/Transport.lean: which parts of the state it may change, and that it keeps the bounds.
-/
namespace Sys2Proof.Machine

set_option Elab.async false
set_option linter.all false

theorem bulisOut_touches (b : Bulis) (mac : Mac) (s : State) : Touches [.free, .out, .reg, .irq, .net, .cpu] s (bulisOut b mac s) := by
  unfold bulisOut
  with_reducible repeat' first
    | exact Touches.refl _ _
    | assumption
    | refine Touches.ite (fun _ => ?_) (fun _ => ?_)
    | refine (sendInternal_touches ..).after (by decide) ?_
    | refine Touches.foldl (fun _ _ _ => ?_) ?_
    | extract_lets -underBinder
    | split
    | (conv => arg 3; dsimp -zeta -proj +zetaDelta only)

theorem setSender_touches (x : SendSt) (s : State) : Touches [.spl] s (setSender x s) := by
  unfold setSender
  with_reducible repeat' first
    | exact Touches.refl _ _
    | assumption
    | refine Touches.ite (fun _ => ?_) (fun _ => ?_)
    | refine Touches.foldl (fun _ _ _ => ?_) ?_
    | ((conv => arg 3; arg 29); first | refine Touches.set rfl rfl rfl rfl rfl ?_)
    | extract_lets -underBinder
    | split
    | ((conv => arg 3; fail_if_success arg 1); refine Touches.set rfl rfl rfl rfl rfl ?_)
    | (conv => arg 3; dsimp -zeta -proj +zetaDelta only)

theorem takeSeq_touches (u : Uid) (stream : Nat) (s : State) : Touches [.free, .spl] s (takeSeq u stream s).2.2 := by
  unfold takeSeq
  with_reducible repeat' first
    | (extract_lets -underBinder +onlyGivenNames x; refine Touches.mp (t := x) ?_ ?bb; case' bb => clear_value x; revert x; refine Touches.keep ?_; intro _ _)
    | exact Touches.refl _ _
    | assumption
    | refine Touches.ite (fun _ => ?_) (fun _ => ?_)
    | ((conv => arg 3; arg 1; arg 1; (fail_if_success arg 3); arg 2); refine Touches.pair2 ?_)
    | refine Touches.iteSnd2 ?_ ?_
    | refine (nextFree_touches ..).after (by decide) ?_
    | refine (Touches.ofPair ‹nextFree _ = _› (nextFree_touches ..)).after (by decide) ?_
    | refine (setSender_touches ..).after (by decide) ?_
    | refine Touches.foldl (fun _ _ _ => ?_) ?_
    | extract_lets -underBinder
    | split
    | (conv => arg 3; dsimp -zeta -proj +zetaDelta only)

theorem bulisGroupSend_touches (type prio stream : Nat) (csc : Word) (payload : List Byte) (s : State) : Touches [.free, .out, .reg, .irq, .net, .spl, .cpu] s (bulisGroupSend type prio stream csc payload s) := by
  unfold bulisGroupSend
  with_reducible repeat' first
    | (extract_lets -underBinder +onlyGivenNames x; refine Touches.mp (t := x) ?_ ?bb; case' bb => clear_value x; revert x; refine Touches.keep ?_; intro _ _)
    | exact Touches.refl _ _
    | assumption
    | refine Touches.ite (fun _ => ?_) (fun _ => ?_)
    | refine (bump_touches ..).after (by decide) ?_
    | refine (bulisOut_touches ..).after (by decide) ?_
    | refine (takeSeq_touches ..).after (by decide) ?_
    | refine (Touches.ofPair2 ‹takeSeq _ _ _ = _› (takeSeq_touches ..)).after (by decide) ?_
    | refine Touches.foldl (fun _ _ _ => ?_) ?_
    | extract_lets -underBinder
    | split
    | (conv => arg 3; dsimp -zeta -proj +zetaDelta only)

theorem neighbourSend_touches (p : Nat) (s : State) : Touches [.free, .out, .node, .reg, .irq, .net, .ina, .spl, .cpu] s (neighbourSend p s) := by
  unfold neighbourSend
  with_reducible repeat' first
    | (extract_lets -underBinder +onlyGivenNames x; refine Touches.mp (t := x) ?_ ?bb; case' bb => clear_value x; revert x; refine Touches.keep ?_; intro _ _)
    | exact Touches.refl _ _
    | assumption
    | refine Touches.ite (fun _ => ?_) (fun _ => ?_)
    | refine (bump_touches ..).after (by decide) ?_
    | refine (setNb_touches ..).after (by decide) ?_
    | refine (countIn_touches ..).after (by decide) ?_
    | refine (sendOn_touches ..).after (by decide) ?_
    | refine (takeSeq_touches ..).after (by decide) ?_
    | refine (Touches.ofPair2 ‹takeSeq _ _ _ = _› (takeSeq_touches ..)).after (by decide) ?_
    | refine Touches.foldl (fun _ _ _ => ?_) ?_
    | ((conv => arg 3; arg 29); first | refine Touches.node_set (by decide) ?_ | refine Touches.set rfl rfl rfl rfl rfl ?_)
    | extract_lets -underBinder
    | split
    | ((conv => arg 3; fail_if_success arg 1); refine Touches.set rfl rfl rfl rfl rfl ?_)
    | (conv => arg 3; dsimp -zeta -proj +zetaDelta only)

end Sys2Proof.Machine
end

