-- ==== Sys2Proof/Laws/Splice.lean ====
section
/-!
SUPPORT. Laws/Splice.lean: the frame of every operation of Machine/Splice.lean: which parts of the state it may change, and that it keeps the bounds.
-/
namespace Sys2Proof.Machine

set_option Elab.async false
set_option linter.all false

theorem setOp_touches (o : Op) (s : State) : Touches [.spl] s (setOp o s) := by
  unfold setOp
  with_reducible repeat' first
    | exact Touches.refl _ _
    | assumption
    | refine Touches.ite (fun _ => ?_) (fun _ => ?_)
    | refine Touches.foldl (fun _ _ _ => ?_) ?_
    | ((conv => arg 3; arg 29); first | refine Touches.set rfl rfl rfl rfl rfl ?_)
    | extract_lets -underBinder
    | split
    | ((conv => arg 3; fail_if_success arg 1); refine Touches.set rfl rfl rfl rfl rfl ?_)
    | (conv => arg 3; dsimp -zeta -proj +zetaDelta only)

theorem takeTag_touches (s : State) : Touches [.free] s (takeTag s).2 := by
  unfold takeTag
  with_reducible repeat' first
    | (extract_lets -underBinder +onlyGivenNames x; refine Touches.mp (t := x) ?_ ?bb; case' bb => clear_value x; revert x; refine Touches.keep ?_; intro _ _)
    | exact Touches.refl _ _
    | assumption
    | refine Touches.ite (fun _ => ?_) (fun _ => ?_)
    | ((conv => arg 3; arg 1; (fail_if_success arg 3); arg 2); refine Touches.pair ?_)
    | refine Touches.iteSnd ?_ ?_
    | refine (nextFree_touches ..).after (by decide) ?_
    | refine (Touches.ofPair ‹nextFree _ = _› (nextFree_touches ..)).after (by decide) ?_
    | refine Touches.foldl (fun _ _ _ => ?_) ?_
    | extract_lets -underBinder
    | split
    | (conv => arg 3; dsimp -zeta -proj +zetaDelta only)

theorem pwfPush_touches (o : Op) (code : Nat) (s : State) : Touches [.out, .reg, .irq, .spl, .cpu] s (pwfPush o code s) := by
  unfold pwfPush
  with_reducible repeat' first
    | (extract_lets -underBinder +onlyGivenNames x; refine Touches.mp (t := x) ?_ ?bb; case' bb => clear_value x; revert x; refine Touches.keep ?_; intro _ _)
    | exact Touches.refl _ _
    | assumption
    | refine Touches.ite (fun _ => ?_) (fun _ => ?_)
    | refine (bump_touches ..).after (by decide) ?_
    | refine (raiseIrq_touches ..).after (by decide) ?_
    | refine Touches.foldl (fun _ _ _ => ?_) ?_
    | ((conv => arg 3; arg 29); first | refine Touches.set rfl rfl rfl rfl rfl ?_)
    | extract_lets -underBinder
    | split
    | ((conv => arg 3; fail_if_success arg 1); refine Touches.set rfl rfl rfl rfl rfl ?_)
    | (conv => arg 3; dsimp -zeta -proj +zetaDelta only)

theorem cePush_touches (o : Op) (code : Nat) (s : State) : Touches [.out, .reg, .irq, .spl, .cpu] s (cePush o code s) := by
  unfold cePush
  with_reducible repeat' first
    | (extract_lets -underBinder +onlyGivenNames x; refine Touches.mp (t := x) ?_ ?bb; case' bb => clear_value x; revert x; refine Touches.keep ?_; intro _ _)
    | exact Touches.refl _ _
    | assumption
    | refine Touches.ite (fun _ => ?_) (fun _ => ?_)
    | refine (raiseIrq_touches ..).after (by decide) ?_
    | refine Touches.foldl (fun _ _ _ => ?_) ?_
    | ((conv => arg 3; arg 29); first | refine Touches.set rfl rfl rfl rfl rfl ?_)
    | extract_lets -underBinder
    | split
    | ((conv => arg 3; fail_if_success arg 1); refine Touches.set rfl rfl rfl rfl rfl ?_)
    | (conv => arg 3; dsimp -zeta -proj +zetaDelta only)

theorem pdlPush_touches (w stream off len : Nat) (seq : Word) (s : State) : Touches [.out, .reg, .irq, .spl, .cpu] s (pdlPush w stream off len seq s) := by
  unfold pdlPush
  with_reducible repeat' first
    | (extract_lets -underBinder +onlyGivenNames x; refine Touches.mp (t := x) ?_ ?bb; case' bb => clear_value x; revert x; refine Touches.keep ?_; intro _ _)
    | exact Touches.refl _ _
    | assumption
    | refine Touches.ite (fun _ => ?_) (fun _ => ?_)
    | refine (bump_touches ..).after (by decide) ?_
    | refine (raiseIrq_touches ..).after (by decide) ?_
    | refine Touches.foldl (fun _ _ _ => ?_) ?_
    | ((conv => arg 3; arg 29); first | refine Touches.set rfl rfl rfl rfl rfl ?_)
    | extract_lets -underBinder
    | split
    | ((conv => arg 3; fail_if_success arg 1); refine Touches.set rfl rfl rfl rfl rfl ?_)
    | (conv => arg 3; dsimp -zeta -proj +zetaDelta only)

theorem discardFetched_touches (x : Prefetched) (s : State) : Touches [.out, .reg, .irq, .spl, .cpu] s (discardFetched x s) := by
  unfold discardFetched
  with_reducible repeat' first
    | exact Touches.refl _ _
    | assumption
    | refine Touches.ite (fun _ => ?_) (fun _ => ?_)
    | refine (bump_touches ..).after (by decide) ?_
    | refine (pdlPush_touches ..).after (by decide) ?_
    | refine Touches.foldl (fun _ _ _ => ?_) ?_
    | ((conv => arg 3; arg 29); first | refine Touches.set rfl rfl rfl rfl rfl ?_)
    | extract_lets -underBinder
    | split
    | ((conv => arg 3; fail_if_success arg 1); refine Touches.set rfl rfl rfl rfl rfl ?_)
    | (conv => arg 3; dsimp -zeta -proj +zetaDelta only)

theorem readDone_touches (r : HostRead) (s : State) : Touches [.out, .spl] s (readDone r s) := by
  unfold readDone
  with_reducible repeat' first
    | (extract_lets -underBinder +onlyGivenNames x; refine Touches.mp (t := x) ?_ ?bb; case' bb => clear_value x; revert x; refine Touches.keep ?_; intro _ _)
    | exact Touches.refl _ _
    | assumption
    | refine Touches.ite (fun _ => ?_) (fun _ => ?_)
    | refine (emit_touches ..).after (by decide) ?_
    | refine Touches.foldl (fun _ _ _ => ?_) ?_
    | ((conv => arg 3; arg 29); first | refine Touches.set rfl rfl rfl rfl rfl ?_)
    | extract_lets -underBinder
    | split
    | ((conv => arg 3; fail_if_success arg 1); refine Touches.set rfl rfl rfl rfl rfl ?_)
    | (conv => arg 3; dsimp -zeta -proj +zetaDelta only)

theorem readPart_touches (o : Op) (code : Nat) (data : List Byte) (s : State) : Touches [.out, .spl] s (readPart o code data s) := by
  unfold readPart
  with_reducible repeat' first
    | (extract_lets -underBinder +onlyGivenNames x; refine Touches.mp (t := x) ?_ ?bb; case' bb => clear_value x; revert x; refine Touches.keep ?_; intro _ _)
    | exact Touches.refl _ _
    | assumption
    | refine Touches.ite (fun _ => ?_) (fun _ => ?_)
    | refine (readDone_touches ..).after (by decide) ?_
    | refine Touches.foldl (fun _ _ _ => ?_) ?_
    | ((conv => arg 3; arg 29); first | refine Touches.set rfl rfl rfl rfl rfl ?_)
    | extract_lets -underBinder
    | split
    | ((conv => arg 3; fail_if_success arg 1); refine Touches.set rfl rfl rfl rfl rfl ?_)
    | (conv => arg 3; dsimp -zeta -proj +zetaDelta only)

theorem npFail_touches (o : Op) (code : Nat) (s : State) : Touches [.out, .reg, .irq, .spl, .cpu] s (npFail o code s) := by
  unfold npFail
  with_reducible repeat' first
    | (extract_lets -underBinder +onlyGivenNames x; refine Touches.mp (t := x) ?_ ?bb; case' bb => clear_value x; revert x; refine Touches.keep ?_; intro _ _)
    | exact Touches.refl _ _
    | assumption
    | refine Touches.ite (fun _ => ?_) (fun _ => ?_)
    | refine (emit_touches ..).after (by decide) ?_
    | refine (cePush_touches ..).after (by decide) ?_
    | refine (readPart_touches ..).after (by decide) ?_
    | refine Touches.foldl (fun _ _ _ => ?_) ?_
    | ((conv => arg 3; arg 29); first | refine Touches.set rfl rfl rfl rfl rfl ?_)
    | extract_lets -underBinder
    | split
    | ((conv => arg 3; fail_if_success arg 1); refine Touches.set rfl rfl rfl rfl rfl ?_)
    | (conv => arg 3; dsimp -zeta -proj +zetaDelta only)

theorem npOk_touches (o : Op) (data : List Byte) (s : State) : Touches [.out, .spl] s (npOk o data s) := by
  unfold npOk
  with_reducible repeat' first
    | exact Touches.refl _ _
    | assumption
    | refine Touches.ite (fun _ => ?_) (fun _ => ?_)
    | refine (emit_touches ..).after (by decide) ?_
    | refine (readPart_touches ..).after (by decide) ?_
    | refine Touches.foldl (fun _ _ _ => ?_) ?_
    | ((conv => arg 3; arg 29); first | refine Touches.set rfl rfl rfl rfl rfl ?_)
    | extract_lets -underBinder
    | split
    | ((conv => arg 3; fail_if_success arg 1); refine Touches.set rfl rfl rfl rfl rfl ?_)
    | (conv => arg 3; dsimp -zeta -proj +zetaDelta only)

theorem prefetchEnd_touches (o : Op) (code : Nat) (answered : Bool) (data : List Byte) (s : State) : Touches [.out, .reg, .irq, .spl, .cpu] s (prefetchEnd o code answered data s) := by
  unfold prefetchEnd
  with_reducible repeat' first
    | (extract_lets -underBinder +onlyGivenNames x; refine Touches.mp (t := x) ?_ ?bb; case' bb => clear_value x; revert x; refine Touches.keep ?_; intro _ _)
    | exact Touches.refl _ _
    | assumption
    | refine Touches.ite (fun _ => ?_) (fun _ => ?_)
    | refine (cePush_touches ..).after (by decide) ?_
    | refine (pdlPush_touches ..).after (by decide) ?_
    | refine (discardFetched_touches ..).after (by decide) ?_
    | refine Touches.foldl (fun _ _ _ => ?_) ?_
    | ((conv => arg 3; arg 29); first | refine Touches.set rfl rfl rfl rfl rfl ?_)
    | extract_lets -underBinder
    | split
    | ((conv => arg 3; fail_if_success arg 1); refine Touches.set rfl rfl rfl rfl rfl ?_)
    | (conv => arg 3; dsimp -zeta -proj +zetaDelta only)

theorem recordClose_touches (o : Op) (code : Nat) (answered : Bool) (data : List Byte) (s : State) : Touches [.out, .reg, .irq, .spl, .cpu] s (recordClose o code answered data s) := by
  unfold recordClose
  with_reducible repeat' first
    | (extract_lets -underBinder +onlyGivenNames x; refine Touches.mp (t := x) ?_ ?bb; case' bb => clear_value x; revert x; refine Touches.keep ?_; intro _ _)
    | exact Touches.refl _ _
    | assumption
    | refine Touches.ite (fun _ => ?_) (fun _ => ?_)
    | refine (emit_touches ..).after (by decide) ?_
    | refine (bump_touches ..).after (by decide) ?_
    | refine (pwfPush_touches ..).after (by decide) ?_
    | refine (npFail_touches ..).after (by decide) ?_
    | refine (npOk_touches ..).after (by decide) ?_
    | refine (prefetchEnd_touches ..).after (by decide) ?_
    | refine Touches.foldl (fun _ _ _ => ?_) ?_
    | extract_lets -underBinder
    | split
    | (conv => arg 3; dsimp -zeta -proj +zetaDelta only)

theorem dropPoisoned_touches (s : State) (o : Op) : Touches [.out, .reg, .irq, .spl, .cpu] s (dropPoisoned s o) := by
  unfold dropPoisoned
  with_reducible repeat' first
    | exact Touches.refl _ _
    | assumption
    | refine Touches.ite (fun _ => ?_) (fun _ => ?_)
    | refine (bump_touches ..).after (by decide) ?_
    | refine (recordClose_touches ..).after (by decide) ?_
    | refine Touches.foldl (fun _ _ _ => ?_) ?_
    | extract_lets -underBinder
    | split
    | (conv => arg 3; dsimp -zeta -proj +zetaDelta only)

theorem poison_touches (o : Op) (s : State) : Touches [.out, .reg, .irq, .spl, .cpu] s (poison o s) := by
  unfold poison
  with_reducible repeat' first
    | (extract_lets -underBinder +onlyGivenNames x; refine Touches.mp (t := x) ?_ ?bb; case' bb => clear_value x; revert x; refine Touches.keep ?_; intro _ _)
    | exact Touches.refl _ _
    | assumption
    | refine Touches.ite (fun _ => ?_) (fun _ => ?_)
    | refine (bump_touches ..).after (by decide) ?_
    | refine (dropPoisoned_touches ..).after (by decide) ?_
    | refine Touches.foldl (fun _ _ _ => ?_) ?_
    | ((conv => arg 3; arg 29); first | refine Touches.set rfl rfl rfl rfl rfl ?_)
    | extract_lets -underBinder
    | split
    | ((conv => arg 3; fail_if_success arg 1); refine Touches.set rfl rfl rfl rfl rfl ?_)
    | (conv => arg 3; dsimp -zeta -proj +zetaDelta only)

theorem bpCheck_touches (s : State) : Touches [.spl] s (bpCheck s) := by
  unfold bpCheck
  with_reducible repeat' first
    | exact Touches.refl _ _
    | assumption
    | refine Touches.ite (fun _ => ?_) (fun _ => ?_)
    | refine Touches.foldl (fun _ _ _ => ?_) ?_
    | ((conv => arg 3; arg 29); first | refine Touches.set rfl rfl rfl rfl rfl ?_)
    | extract_lets -underBinder
    | split
    | ((conv => arg 3; fail_if_success arg 1); refine Touches.set rfl rfl rfl rfl rfl ?_)
    | (conv => arg 3; dsimp -zeta -proj +zetaDelta only)

theorem closeBatch_touches (sel : Op → Option (Nat × Bool)) (s : State) : Touches [.out, .reg, .irq, .spl, .cpu] s (closeBatch sel s) := by
  unfold closeBatch
  with_reducible repeat' first
    | (extract_lets -underBinder +onlyGivenNames x; refine Touches.mp (t := x) ?_ ?bb; case' bb => clear_value x; revert x; refine Touches.keep ?_; intro _ _)
    | exact Touches.refl _ _
    | assumption
    | refine Touches.ite (fun _ => ?_) (fun _ => ?_)
    | refine (recordClose_touches ..).after (by decide) ?_
    | refine (poison_touches ..).after (by decide) ?_
    | refine (bpCheck_touches ..).after (by decide) ?_
    | refine Touches.foldl (fun _ _ _ => ?_) ?_
    | ((conv => arg 3; arg 29); first | refine Touches.set rfl rfl rfl rfl rfl ?_)
    | extract_lets -underBinder
    | split
    | ((conv => arg 3; fail_if_success arg 1); refine Touches.set rfl rfl rfl rfl rfl ?_)
    | (conv => arg 3; dsimp -zeta -proj +zetaDelta only)

theorem closeOne_touches (o : Op) (code : Nat) (answered : Bool) (data : List Byte) (s : State) : Touches [.out, .reg, .irq, .spl, .cpu] s (closeOne o code answered data s) := by
  unfold closeOne
  with_reducible repeat' first
    | (extract_lets -underBinder +onlyGivenNames x; refine Touches.mp (t := x) ?_ ?bb; case' bb => clear_value x; revert x; refine Touches.keep ?_; intro _ _)
    | exact Touches.refl _ _
    | assumption
    | refine Touches.ite (fun _ => ?_) (fun _ => ?_)
    | refine (recordClose_touches ..).after (by decide) ?_
    | refine (poison_touches ..).after (by decide) ?_
    | refine (bpCheck_touches ..).after (by decide) ?_
    | refine Touches.foldl (fun _ _ _ => ?_) ?_
    | ((conv => arg 3; arg 29); first | refine Touches.set rfl rfl rfl rfl rfl ?_)
    | extract_lets -underBinder
    | split
    | ((conv => arg 3; fail_if_success arg 1); refine Touches.set rfl rfl rfl rfl rfl ?_)
    | (conv => arg 3; dsimp -zeta -proj +zetaDelta only)

theorem setRecv_touches (r : RecvSt) (s : State) : Touches [.spl] s (setRecv r s) := by
  unfold setRecv
  with_reducible repeat' first
    | exact Touches.refl _ _
    | assumption
    | refine Touches.ite (fun _ => ?_) (fun _ => ?_)
    | refine Touches.foldl (fun _ _ _ => ?_) ?_
    | ((conv => arg 3; arg 29); first | refine Touches.set rfl rfl rfl rfl rfl ?_)
    | extract_lets -underBinder
    | split
    | ((conv => arg 3; fail_if_success arg 1); refine Touches.set rfl rfl rfl rfl rfl ?_)
    | (conv => arg 3; dsimp -zeta -proj +zetaDelta only)

theorem poisonPair_touches (u : Uid) (stream : Nat) (s : State) : Touches [.spl] s (poisonPair u stream s) := by
  unfold poisonPair
  with_reducible repeat' first
    | exact Touches.refl _ _
    | assumption
    | refine Touches.ite (fun _ => ?_) (fun _ => ?_)
    | refine (setRecv_touches ..).after (by decide) ?_
    | refine Touches.foldl (fun _ _ _ => ?_) ?_
    | extract_lets -underBinder
    | split
    | (conv => arg 3; dsimp -zeta -proj +zetaDelta only)

theorem freeSems_touches (u : Uid) (stream : Nat) (s : State) : Touches [.spl] s (freeSems u stream s) := by
  unfold freeSems
  with_reducible repeat' first
    | exact Touches.refl _ _
    | assumption
    | refine Touches.ite (fun _ => ?_) (fun _ => ?_)
    | refine Touches.foldl (fun _ _ _ => ?_) ?_
    | ((conv => arg 3; arg 29); first | refine Touches.set rfl rfl rfl rfl rfl ?_)
    | extract_lets -underBinder
    | split
    | ((conv => arg 3; fail_if_success arg 1); refine Touches.set rfl rfl rfl rfl rfl ?_)
    | (conv => arg 3; dsimp -zeta -proj +zetaDelta only)

theorem countRegion_touches (r code : Nat) (s : State) : Touches [.reg] s (countRegion r code s) := by
  unfold countRegion
  with_reducible repeat' first
    | exact Touches.refl _ _
    | assumption
    | refine Touches.ite (fun _ => ?_) (fun _ => ?_)
    | refine (bump_touches ..).after (by decide) ?_
    | refine Touches.foldl (fun _ _ _ => ?_) ?_
    | extract_lets -underBinder
    | split
    | (conv => arg 3; dsimp -zeta -proj +zetaDelta only)

theorem doorbellApply_touches (u : Uid) (stream r : Nat) (v : Word) (s : State) : Touches [.out, .reg, .irq, .spl, .cpu] s (doorbellApply u stream r v s) := by
  unfold doorbellApply
  with_reducible repeat' first
    | (extract_lets -underBinder +onlyGivenNames x; refine Touches.mp (t := x) ?_ ?bb; case' bb => clear_value x; revert x; refine Touches.keep ?_; intro _ _)
    | exact Touches.refl _ _
    | assumption
    | refine Touches.ite (fun _ => ?_) (fun _ => ?_)
    | refine (bump_touches ..).after (by decide) ?_
    | refine (raiseIrq_touches ..).after (by decide) ?_
    | refine Touches.foldl (fun _ _ _ => ?_) ?_
    | ((conv => arg 3; arg 29); first | refine Touches.set rfl rfl rfl rfl rfl ?_)
    | extract_lets -underBinder
    | split
    | ((conv => arg 3; fail_if_success arg 1); refine Touches.set rfl rfl rfl rfl rfl ?_)
    | (conv => arg 3; dsimp -zeta -proj +zetaDelta only)

theorem targetOp_touches (u : Uid) (stream : Nat) (h : OpHead) (d : List Byte) (ecc : Bool) (s : State) :
    Touches [.reg, .spl] s (targetOp u stream h d ecc s).2.2 := by
  have hm : ∀ (a : Nat) (l : List Byte) (x : Tab Sem),
      Touches [.reg, .spl] s { s with spl.mem := memWrite s.spl.mem a l, spl.sems := x } := fun a l x =>
    Touches.set rfl rfl rfl rfl rfl (Touches.refl _ s) (mem := fun i => memWrite_wf a l i)
  have hs : ∀ x : Tab Sem, Touches [.reg, .spl] s { s with spl.sems := x } := fun x => Touches.set rfl rfl rfl rfl rfl (Touches.refl _ s)
  have ok : ∀ t, Touches [.reg, .spl] s t → Touches [.reg, .spl] s (countRegion h.region 0 t) := fun t ht =>
    (countRegion_touches ..).after (by decide) ht
  have self : Touches [.reg, .spl] s s := Touches.refl _ s
  unfold targetOp
  dsimp only
  split
  · exact self
  split
  · exact (countRegion_touches ..).wider (by decide)
  split
  · exact ok _ (hm ..)
  · exact ok _ self
  · split
    · exact self
    · split
      · exact ok _ self
      · exact ok _ (hs _)
  · split
    · exact ok _ self
    · split
      · exact ok _ (hs _)
      · exact self
  · split
    · exact self
    · split
      · exact self
      · exact ok _ (hm ..)

theorem targetServe_touches (u : Uid) (stream type : Nat) (h : OpHead) (d : List Byte) (ecc : Bool) (s : State) : Touches [.out, .reg, .irq, .spl, .cpu] s (targetServe u stream type h d ecc s).2.2 := by
  unfold targetServe
  with_reducible repeat' first
    | (extract_lets -underBinder +onlyGivenNames x; refine Touches.mp (t := x) ?_ ?bb; case' bb => clear_value x; revert x; refine Touches.keep ?_; intro _ _)
    | exact Touches.refl _ _
    | assumption
    | refine Touches.ite (fun _ => ?_) (fun _ => ?_)
    | ((conv => arg 3; arg 1; arg 1; (fail_if_success arg 3); arg 2); refine Touches.pair2 ?_)
    | refine Touches.iteSnd2 ?_ ?_
    | refine (poisonPair_touches ..).after (by decide) ?_
    | refine (countRegion_touches ..).after (by decide) ?_
    | refine (doorbellApply_touches ..).after (by decide) ?_
    | refine (targetOp_touches ..).after (by decide) ?_
    | refine (Touches.ofPair2 ‹targetOp _ _ _ _ _ _ = _› (targetOp_touches ..)).after (by decide) ?_
    | refine Touches.foldl (fun _ _ _ => ?_) ?_
    | extract_lets -underBinder
    | split
    | (conv => arg 3; dsimp -zeta -proj +zetaDelta only)

theorem targetApply_touches (u : Uid) (stream type : Nat) (payload : List Byte) (ecc : Bool) (s : State) : Touches [.out, .reg, .irq, .spl, .cpu] s (targetApply u stream type payload ecc s).2.2 := by
  unfold targetApply
  with_reducible repeat' first
    | exact Touches.refl _ _
    | assumption
    | refine Touches.ite (fun _ => ?_) (fun _ => ?_)
    | ((conv => arg 3; arg 1; arg 1; (fail_if_success arg 3); arg 2); refine Touches.pair2 ?_)
    | refine Touches.iteSnd2 ?_ ?_
    | refine (targetServe_touches ..).after (by decide) ?_
    | refine (Touches.ofPair2 ‹targetServe _ _ _ _ _ _ _ = _› (targetServe_touches ..)).after (by decide) ?_
    | refine Touches.foldl (fun _ _ _ => ?_) ?_
    | extract_lets -underBinder
    | split
    | (conv => arg 3; dsimp -zeta -proj +zetaDelta only)

theorem sendOp_touches (o : Op) (s : State) : Touches [.free, .out, .reg, .irq, .net, .spl, .cpu] s (sendOp o s) := by
  unfold sendOp
  with_reducible repeat' first
    | (extract_lets -underBinder +onlyGivenNames x; refine Touches.mp (t := x) ?_ ?bb; case' bb => clear_value x; revert x; refine Touches.keep ?_; intro _ _)
    | exact Touches.refl _ _
    | assumption
    | refine Touches.ite (fun _ => ?_) (fun _ => ?_)
    | refine (countIn_touches ..).after (by decide) ?_
    | refine (sendOn_touches ..).after (by decide) ?_
    | refine (bulisOut_touches ..).after (by decide) ?_
    | refine (setOp_touches ..).after (by decide) ?_
    | refine Touches.foldl (fun _ _ _ => ?_) ?_
    | extract_lets -underBinder
    | split
    | (conv => arg 3; dsimp -zeta -proj +zetaDelta only)

theorem resendOp_touches (o : Op) (s : State) : Touches [.free, .out, .reg, .irq, .net, .spl, .cpu] s (resendOp o s) := by
  unfold resendOp
  with_reducible repeat' first
    | exact Touches.refl _ _
    | assumption
    | refine Touches.ite (fun _ => ?_) (fun _ => ?_)
    | refine (bump_touches ..).after (by decide) ?_
    | refine (sendOp_touches ..).after (by decide) ?_
    | refine Touches.foldl (fun _ _ _ => ?_) ?_
    | extract_lets -underBinder
    | split
    | (conv => arg 3; dsimp -zeta -proj +zetaDelta only)

theorem semHeld_touches (o : Op) (s : State) : Touches [.out, .reg, .irq, .spl, .cpu] s (semHeld o s) := by
  unfold semHeld
  with_reducible repeat' first
    | (extract_lets -underBinder +onlyGivenNames x; refine Touches.mp (t := x) ?_ ?bb; case' bb => clear_value x; revert x; refine Touches.keep ?_; intro _ _)
    | exact Touches.refl _ _
    | assumption
    | refine Touches.ite (fun _ => ?_) (fun _ => ?_)
    | refine (bump_touches ..).after (by decide) ?_
    | refine (setOp_touches ..).after (by decide) ?_
    | refine (closeOne_touches ..).after (by decide) ?_
    | refine Touches.foldl (fun _ _ _ => ?_) ?_
    | extract_lets -underBinder
    | split
    | (conv => arg 3; dsimp -zeta -proj +zetaDelta only)

theorem answerNp_touches (o : Op) (code : Nat) (data : List Byte) (s : State) : Touches [.out, .reg, .irq, .spl, .cpu] s (answerNp o code data s) := by
  unfold answerNp
  with_reducible repeat' first
    | exact Touches.refl _ _
    | assumption
    | refine Touches.ite (fun _ => ?_) (fun _ => ?_)
    | refine (closeOne_touches ..).after (by decide) ?_
    | refine (semHeld_touches ..).after (by decide) ?_
    | refine Touches.foldl (fun _ _ _ => ?_) ?_
    | extract_lets -underBinder
    | split
    | (conv => arg 3; dsimp -zeta -proj +zetaDelta only)

theorem localOp_touches (o : Op) (s : State) : Touches [.free, .out, .reg, .irq, .spl, .cpu] s (localOp o s) := by
  unfold localOp
  with_reducible repeat' first
    | (extract_lets -underBinder +onlyGivenNames x; refine Touches.mp (t := x) ?_ ?bb; case' bb => clear_value x; revert x; refine Touches.keep ?_; intro _ _)
    | exact Touches.refl _ _
    | assumption
    | refine Touches.ite (fun _ => ?_) (fun _ => ?_)
    | refine (nextFree_touches ..).after (by decide) ?_
    | refine (Touches.ofPair ‹nextFree _ = _› (nextFree_touches ..)).after (by decide) ?_
    | refine (closeOne_touches ..).after (by decide) ?_
    | refine (setRecv_touches ..).after (by decide) ?_
    | refine (freeSems_touches ..).after (by decide) ?_
    | refine (targetServe_touches ..).after (by decide) ?_
    | refine (Touches.ofPair2 ‹targetServe _ _ _ _ _ _ _ = _› (targetServe_touches ..)).after (by decide) ?_
    | refine (answerNp_touches ..).after (by decide) ?_
    | refine Touches.foldl (fun _ _ _ => ?_) ?_
    | extract_lets -underBinder
    | split
    | (conv => arg 3; dsimp -zeta -proj +zetaDelta only)

theorem transmitOp_touches (o : Op) (s : State) : Touches [.free, .out, .reg, .irq, .net, .spl, .cpu] s (transmitOp o s) := by
  unfold transmitOp
  with_reducible repeat' first
    | (extract_lets -underBinder +onlyGivenNames x; refine Touches.mp (t := x) ?_ ?bb; case' bb => clear_value x; revert x; refine Touches.keep ?_; intro _ _)
    | exact Touches.refl _ _
    | assumption
    | refine Touches.ite (fun _ => ?_) (fun _ => ?_)
    | refine (bump_touches ..).after (by decide) ?_
    | refine (takeSeq_touches ..).after (by decide) ?_
    | refine (Touches.ofPair2 ‹takeSeq _ _ _ = _› (takeSeq_touches ..)).after (by decide) ?_
    | refine (setOp_touches ..).after (by decide) ?_
    | refine (sendOp_touches ..).after (by decide) ?_
    | refine (localOp_touches ..).after (by decide) ?_
    | refine Touches.foldl (fun _ _ _ => ?_) ?_
    | extract_lets -underBinder
    | split
    | (conv => arg 3; dsimp -zeta -proj +zetaDelta only)

theorem spoilPrefetch_touches (o : Op) (s : State) : Touches [.out, .reg, .irq, .spl, .cpu] s (spoilPrefetch o s) := by
  unfold spoilPrefetch
  with_reducible repeat' first
    | (extract_lets -underBinder +onlyGivenNames x; refine Touches.mp (t := x) ?_ ?bb; case' bb => clear_value x; revert x; refine Touches.keep ?_; intro _ _)
    | exact Touches.refl _ _
    | assumption
    | refine Touches.ite (fun _ => ?_) (fun _ => ?_)
    | refine (discardFetched_touches ..).after (by decide) ?_
    | refine Touches.foldl (fun _ _ _ => ?_) ?_
    | ((conv => arg 3; arg 29); first | refine Touches.set rfl rfl rfl rfl rfl ?_)
    | extract_lets -underBinder
    | split
    | ((conv => arg 3; fail_if_success arg 1); refine Touches.set rfl rfl rfl rfl rfl ?_)
    | (conv => arg 3; dsimp -zeta -proj +zetaDelta only)

theorem bpStart_touches (s : State) : Touches [.reg, .spl] s (bpStart s) := by
  unfold bpStart
  with_reducible repeat' first
    | (extract_lets -underBinder +onlyGivenNames x; refine Touches.mp (t := x) ?_ ?bb; case' bb => clear_value x; revert x; refine Touches.keep ?_; intro _ _)
    | exact Touches.refl _ _
    | assumption
    | refine Touches.ite (fun _ => ?_) (fun _ => ?_)
    | refine (bump_touches ..).after (by decide) ?_
    | refine Touches.foldl (fun _ _ _ => ?_) ?_
    | ((conv => arg 3; arg 29); first | refine Touches.set rfl rfl rfl rfl rfl ?_)
    | extract_lets -underBinder
    | split
    | ((conv => arg 3; fail_if_success arg 1); refine Touches.set rfl rfl rfl rfl rfl ?_)
    | (conv => arg 3; dsimp -zeta -proj +zetaDelta only)

theorem enterOp_touches (o : Op) (s : State) : Touches [.free, .out, .reg, .irq, .spl, .cpu] s (enterOp o s) := by
  unfold enterOp
  with_reducible repeat' first
    | (extract_lets -underBinder +onlyGivenNames x; refine Touches.mp (t := x) ?_ ?bb; case' bb => clear_value x; revert x; refine Touches.keep ?_; intro _ _)
    | exact Touches.refl _ _
    | assumption
    | refine Touches.ite (fun _ => ?_) (fun _ => ?_)
    | refine (takeTag_touches ..).after (by decide) ?_
    | refine (Touches.ofPair ‹takeTag _ = _› (takeTag_touches ..)).after (by decide) ?_
    | refine (recordClose_touches ..).after (by decide) ?_
    | refine (dropPoisoned_touches ..).after (by decide) ?_
    | refine (poison_touches ..).after (by decide) ?_
    | refine (bpStart_touches ..).after (by decide) ?_
    | refine Touches.foldl (fun _ _ _ => ?_) ?_
    | ((conv => arg 3; arg 29); first | refine Touches.set rfl rfl rfl rfl rfl ?_)
    | extract_lets -underBinder
    | split
    | ((conv => arg 3; fail_if_success arg 1); refine Touches.set rfl rfl rfl rfl rfl ?_)
    | (conv => arg 3; dsimp -zeta -proj +zetaDelta only)

theorem acceptOp_touches (o : Op) (s : State) : Touches [.free, .out, .reg, .irq, .spl, .cpu] s (acceptOp o s) := by
  unfold acceptOp
  with_reducible repeat' first
    | (extract_lets -underBinder +onlyGivenNames x; refine Touches.mp (t := x) ?_ ?bb; case' bb => clear_value x; revert x; refine Touches.keep ?_; intro _ _)
    | exact Touches.refl _ _
    | assumption
    | refine Touches.ite (fun _ => ?_) (fun _ => ?_)
    | refine (enterOp_touches ..).after (by decide) ?_
    | refine Touches.foldl (fun _ _ _ => ?_) ?_
    | ((conv => arg 3; arg 29); first | refine Touches.set rfl rfl rfl rfl rfl ?_)
    | extract_lets -underBinder
    | split
    | ((conv => arg 3; fail_if_success arg 1); refine Touches.set rfl rfl rfl rfl rfl ?_)
    | (conv => arg 3; dsimp -zeta -proj +zetaDelta only)

theorem turnAway_touches (o : Op) (s : State) : Touches [.out, .reg, .spl] s (turnAway o s) := by
  unfold turnAway
  with_reducible repeat' first
    | (extract_lets -underBinder +onlyGivenNames x; refine Touches.mp (t := x) ?_ ?bb; case' bb => clear_value x; revert x; refine Touches.keep ?_; intro _ _)
    | exact Touches.refl _ _
    | assumption
    | refine Touches.ite (fun _ => ?_) (fun _ => ?_)
    | refine (emit_touches ..).after (by decide) ?_
    | refine (bump_touches ..).after (by decide) ?_
    | refine (readPart_touches ..).after (by decide) ?_
    | refine Touches.foldl (fun _ _ _ => ?_) ?_
    | ((conv => arg 3; arg 29); first | refine Touches.set rfl rfl rfl rfl rfl ?_)
    | extract_lets -underBinder
    | split
    | ((conv => arg 3; fail_if_success arg 1); refine Touches.set rfl rfl rfl rfl rfl ?_)
    | (conv => arg 3; dsimp -zeta -proj +zetaDelta only)

theorem pumpN_touches (n : Nat) (s : State) : Touches [.free, .out, .reg, .irq, .net, .spl, .cpu] s (pumpN n s) := by
  induction n generalizing s with
  | zero => exact Touches.refl _ _
  | succ n ih =>
    unfold pumpN
    with_reducible repeat' first
    | refine (ih ..).after (by decide) ?_
    | (extract_lets -underBinder +onlyGivenNames x; refine Touches.mp (t := x) ?_ ?bb; case' bb => clear_value x; revert x; refine Touches.keep ?_; intro _ _)
    | exact Touches.refl _ _
    | assumption
    | refine Touches.ite (fun _ => ?_) (fun _ => ?_)
    | refine (transmitOp_touches ..).after (by decide) ?_
    | refine (spoilPrefetch_touches ..).after (by decide) ?_
    | refine (enterOp_touches ..).after (by decide) ?_
    | refine (turnAway_touches ..).after (by decide) ?_
    | refine Touches.foldl (fun _ _ _ => ?_) ?_
    | ((conv => arg 3; arg 29); first | refine Touches.set rfl rfl rfl rfl rfl ?_)
    | extract_lets -underBinder
    | split
    | ((conv => arg 3; fail_if_success arg 1); refine Touches.set rfl rfl rfl rfl rfl ?_)
    | (conv => arg 3; dsimp -zeta -proj +zetaDelta only)

theorem pump_touches (s : State) : Touches [.free, .out, .reg, .irq, .net, .spl, .cpu] s (pump s) := by
  unfold pump
  with_reducible repeat' first
    | exact Touches.refl _ _
    | assumption
    | refine Touches.ite (fun _ => ?_) (fun _ => ?_)
    | refine (pumpN_touches ..).after (by decide) ?_
    | refine Touches.foldl (fun _ _ _ => ?_) ?_
    | extract_lets -underBinder
    | split
    | (conv => arg 3; dsimp -zeta -proj +zetaDelta only)

theorem sendMessage_touches (type stream prio : Nat) (target : Uid) (mac : Option Mac) (port : Option Nat) (csc0 : Bool) (payload : List Byte) (s : State) : Touches [.free, .out, .reg, .irq, .net, .spl, .cpu] s (sendMessage type stream prio target mac port csc0 payload s) := by
  unfold sendMessage
  with_reducible repeat' first
    | (extract_lets -underBinder +onlyGivenNames x; refine Touches.mp (t := x) ?_ ?bb; case' bb => clear_value x; revert x; refine Touches.keep ?_; intro _ _)
    | exact Touches.refl _ _
    | assumption
    | refine Touches.ite (fun _ => ?_) (fun _ => ?_)
    | refine (pump_touches ..).after (by decide) ?_
    | refine Touches.foldl (fun _ _ _ => ?_) ?_
    | ((conv => arg 3; arg 29); first | refine Touches.set rfl rfl rfl rfl rfl ?_)
    | extract_lets -underBinder
    | split
    | ((conv => arg 3; fail_if_success arg 1); refine Touches.set rfl rfl rfl rfl rfl ?_)
    | (conv => arg 3; dsimp -zeta -proj +zetaDelta only)

theorem fenceComplete_touches (n : Nat) (s : State) : Touches [.free, .out, .reg, .irq, .net, .spl, .cpu] s (fenceComplete n s) := by
  unfold fenceComplete
  with_reducible repeat' first
    | (extract_lets -underBinder +onlyGivenNames x; refine Touches.mp (t := x) ?_ ?bb; case' bb => clear_value x; revert x; refine Touches.keep ?_; intro _ _)
    | exact Touches.refl _ _
    | assumption
    | refine Touches.ite (fun _ => ?_) (fun _ => ?_)
    | refine (bump_touches ..).after (by decide) ?_
    | refine (pump_touches ..).after (by decide) ?_
    | refine Touches.foldl (fun _ _ _ => ?_) ?_
    | ((conv => arg 3; arg 29); first | refine Touches.set rfl rfl rfl rfl rfl ?_)
    | extract_lets -underBinder
    | split
    | ((conv => arg 3; fail_if_success arg 1); refine Touches.set rfl rfl rfl rfl rfl ?_)
    | (conv => arg 3; dsimp -zeta -proj +zetaDelta only)

theorem fenceCheck_touches (n : Nat) (s : State) : Touches [.free, .out, .reg, .irq, .net, .spl, .cpu] s (fenceCheck n s) := by
  unfold fenceCheck
  with_reducible repeat' first
    | exact Touches.refl _ _
    | assumption
    | refine Touches.ite (fun _ => ?_) (fun _ => ?_)
    | refine (fenceComplete_touches ..).after (by decide) ?_
    | refine Touches.foldl (fun _ _ _ => ?_) ?_
    | extract_lets -underBinder
    | split
    | (conv => arg 3; dsimp -zeta -proj +zetaDelta only)

theorem fenceFrame_touches (n : Nat) (s : State) (x : SendSt) : Touches [.free, .out, .reg, .irq, .net, .spl, .cpu] s (fenceFrame n s x) := by
  unfold fenceFrame
  with_reducible repeat' first
    | (extract_lets -underBinder +onlyGivenNames x; refine Touches.mp (t := x) ?_ ?bb; case' bb => clear_value x; revert x; refine Touches.keep ?_; intro _ _)
    | exact Touches.refl _ _
    | assumption
    | refine Touches.ite (fun _ => ?_) (fun _ => ?_)
    | refine (bump_touches ..).after (by decide) ?_
    | refine (setSender_touches ..).after (by decide) ?_
    | refine (sendOp_touches ..).after (by decide) ?_
    | refine (localOp_touches ..).after (by decide) ?_
    | refine Touches.foldl (fun _ _ _ => ?_) ?_
    | ((conv => arg 3; arg 29); first | refine Touches.set rfl rfl rfl rfl rfl ?_)
    | extract_lets -underBinder
    | split
    | ((conv => arg 3; fail_if_success arg 1); refine Touches.set rfl rfl rfl rfl rfl ?_)
    | (conv => arg 3; dsimp -zeta -proj +zetaDelta only)

theorem fenceSend_touches (n : Nat) (s : State) : Touches [.free, .out, .reg, .irq, .net, .spl, .cpu] s (fenceSend n s) := by
  unfold fenceSend
  with_reducible repeat' first
    | (extract_lets -underBinder +onlyGivenNames x; refine Touches.mp (t := x) ?_ ?bb; case' bb => clear_value x; revert x; refine Touches.keep ?_; intro _ _)
    | exact Touches.refl _ _
    | assumption
    | refine Touches.ite (fun _ => ?_) (fun _ => ?_)
    | refine (fenceCheck_touches ..).after (by decide) ?_
    | refine (fenceFrame_touches ..).after (by decide) ?_
    | refine Touches.foldl (fun _ _ _ => ?_) ?_
    | ((conv => arg 3; arg 29); first | refine Touches.set rfl rfl rfl rfl rfl ?_)
    | extract_lets -underBinder
    | split
    | ((conv => arg 3; fail_if_success arg 1); refine Touches.set rfl rfl rfl rfl rfl ?_)
    | (conv => arg 3; dsimp -zeta -proj +zetaDelta only)

theorem fenceRequest_touches (s : State) (n : Nat) : Touches [.free, .out, .reg, .irq, .net, .spl, .cpu] s (fenceRequest s n) := by
  unfold fenceRequest
  with_reducible repeat' first
    | exact Touches.refl _ _
    | assumption
    | refine Touches.ite (fun _ => ?_) (fun _ => ?_)
    | refine (bump_touches ..).after (by decide) ?_
    | refine (fenceSend_touches ..).after (by decide) ?_
    | refine Touches.foldl (fun _ _ _ => ?_) ?_
    | ((conv => arg 3; arg 29); first | refine Touches.set rfl rfl rfl rfl rfl ?_)
    | extract_lets -underBinder
    | split
    | ((conv => arg 3; fail_if_success arg 1); refine Touches.set rfl rfl rfl rfl rfl ?_)
    | (conv => arg 3; dsimp -zeta -proj +zetaDelta only)

theorem forceClose_touches (sel : Op → Bool) (s : State) : Touches [.out, .reg, .irq, .spl, .cpu] s (forceClose sel s) := by
  unfold forceClose
  with_reducible repeat' first
    | (extract_lets -underBinder +onlyGivenNames x; refine Touches.mp (t := x) ?_ ?bb; case' bb => clear_value x; revert x; refine Touches.keep ?_; intro _ _)
    | exact Touches.refl _ _
    | assumption
    | refine Touches.ite (fun _ => ?_) (fun _ => ?_)
    | refine (bumpBy_touches ..).after (by decide) ?_
    | refine (closeBatch_touches ..).after (by decide) ?_
    | refine Touches.foldl (fun _ _ _ => ?_) ?_
    | extract_lets -underBinder
    | split
    | (conv => arg 3; dsimp -zeta -proj +zetaDelta only)

theorem fencesGoOn_touches (s : State) : Touches [.free, .out, .reg, .irq, .net, .spl, .cpu] s (fencesGoOn s) := by
  unfold fencesGoOn
  with_reducible repeat' first
    | exact Touches.refl _ _
    | assumption
    | refine Touches.ite (fun _ => ?_) (fun _ => ?_)
    | refine (fenceCheck_touches ..).after (by decide) ?_
    | refine (fenceSend_touches ..).after (by decide) ?_
    | refine Touches.foldl (fun _ _ _ => ?_) ?_
    | extract_lets -underBinder
    | split
    | (conv => arg 3; dsimp -zeta -proj +zetaDelta only)

theorem abortWindow_touches (w : Nat) (s : State) : Touches [.free, .out, .reg, .irq, .net, .spl, .cpu] s (abortWindow w s) := by
  unfold abortWindow
  with_reducible repeat' first
    | (extract_lets -underBinder +onlyGivenNames x; refine Touches.mp (t := x) ?_ ?bb; case' bb => clear_value x; revert x; refine Touches.keep ?_; intro _ _)
    | exact Touches.refl _ _
    | assumption
    | refine Touches.ite (fun _ => ?_) (fun _ => ?_)
    | refine (bumpBy_touches ..).after (by decide) ?_
    | refine (pump_touches ..).after (by decide) ?_
    | refine (forceClose_touches ..).after (by decide) ?_
    | refine (fencesGoOn_touches ..).after (by decide) ?_
    | refine Touches.foldl (fun _ _ _ => ?_) ?_
    | ((conv => arg 3; arg 29); first | refine Touches.set rfl rfl rfl rfl rfl ?_)
    | extract_lets -underBinder
    | split
    | ((conv => arg 3; fail_if_success arg 1); refine Touches.set rfl rfl rfl rfl rfl ?_)
    | (conv => arg 3; dsimp -zeta -proj +zetaDelta only)

theorem splForce_touches (s : State) : Touches [.free, .out, .reg, .irq, .od, .net, .spl, .cpu] s (splForce s) := by
  unfold splForce
  with_reducible repeat' first
    | (extract_lets -underBinder +onlyGivenNames x; refine Touches.mp (t := x) ?_ ?bb; case' bb => clear_value x; revert x; refine Touches.keep ?_; intro _ _)
    | exact Touches.refl _ _
    | assumption
    | refine Touches.ite (fun _ => ?_) (fun _ => ?_)
    | refine (applyVals_touches ..).after (by decide) ?_
    | refine (pump_touches ..).after (by decide) ?_
    | refine (forceClose_touches ..).after (by decide) ?_
    | refine (fencesGoOn_touches ..).after (by decide) ?_
    | refine Touches.foldl (fun _ _ _ => ?_) ?_
    | ((conv => arg 3; arg 29); first | refine Touches.set rfl rfl rfl rfl rfl ?_)
    | extract_lets -underBinder
    | split
    | ((conv => arg 3; fail_if_success arg 1); refine Touches.set rfl rfl rfl rfl rfl ?_)
    | (conv => arg 3; dsimp -zeta -proj +zetaDelta only)

theorem winForce_touches (w : Nat) (s : State) : Touches [.free, .out, .reg, .irq, .od, .net, .spl, .cpu] s (winForce w s) := by
  unfold winForce
  with_reducible repeat' first
    | (extract_lets -underBinder +onlyGivenNames x; refine Touches.mp (t := x) ?_ ?bb; case' bb => clear_value x; revert x; refine Touches.keep ?_; intro _ _)
    | exact Touches.refl _ _
    | assumption
    | refine Touches.ite (fun _ => ?_) (fun _ => ?_)
    | refine (applyVals_touches ..).after (by decide) ?_
    | refine (pump_touches ..).after (by decide) ?_
    | refine (forceClose_touches ..).after (by decide) ?_
    | refine (fencesGoOn_touches ..).after (by decide) ?_
    | refine Touches.foldl (fun _ _ _ => ?_) ?_
    | ((conv => arg 3; arg 29); first | refine Touches.set rfl rfl rfl rfl rfl ?_)
    | extract_lets -underBinder
    | split
    | ((conv => arg 3; fail_if_success arg 1); refine Touches.set rfl rfl rfl rfl rfl ?_)
    | (conv => arg 3; dsimp -zeta -proj +zetaDelta only)

theorem stmForce_touches (n : Nat) (s : State) : Touches [.free, .out, .reg, .irq, .od, .net, .spl, .cpu] s (stmForce n s) := by
  unfold stmForce
  with_reducible repeat' first
    | (extract_lets -underBinder +onlyGivenNames x; refine Touches.mp (t := x) ?_ ?bb; case' bb => clear_value x; revert x; refine Touches.keep ?_; intro _ _)
    | exact Touches.refl _ _
    | assumption
    | refine Touches.ite (fun _ => ?_) (fun _ => ?_)
    | refine (applyVals_touches ..).after (by decide) ?_
    | refine (pump_touches ..).after (by decide) ?_
    | refine (forceClose_touches ..).after (by decide) ?_
    | refine (fencesGoOn_touches ..).after (by decide) ?_
    | refine Touches.foldl (fun _ _ _ => ?_) ?_
    | ((conv => arg 3; arg 29); first | refine Touches.set rfl rfl rfl rfl rfl ?_)
    | extract_lets -underBinder
    | split
    | ((conv => arg 3; fail_if_success arg 1); refine Touches.set rfl rfl rfl rfl rfl ?_)
    | (conv => arg 3; dsimp -zeta -proj +zetaDelta only)

theorem hostSpliceClose_touches (s : State) : Touches [.free, .out, .reg, .irq, .net, .spl, .cpu] s (hostSpliceClose s) := by
  unfold hostSpliceClose
  with_reducible repeat' first
    | exact Touches.refl _ _
    | assumption
    | refine Touches.ite (fun _ => ?_) (fun _ => ?_)
    | refine (pump_touches ..).after (by decide) ?_
    | refine (forceClose_touches ..).after (by decide) ?_
    | refine (fencesGoOn_touches ..).after (by decide) ?_
    | refine Touches.foldl (fun _ _ _ => ?_) ?_
    | extract_lets -underBinder
    | split
    | (conv => arg 3; dsimp -zeta -proj +zetaDelta only)

theorem coreSpliceClose_touches (s : State) : Touches [.free, .out, .reg, .irq, .net, .spl, .cpu] s (coreSpliceClose s) := by
  unfold coreSpliceClose
  with_reducible repeat' first
    | (extract_lets -underBinder +onlyGivenNames x; refine Touches.mp (t := x) ?_ ?bb; case' bb => clear_value x; revert x; refine Touches.keep ?_; intro _ _)
    | exact Touches.refl _ _
    | assumption
    | refine Touches.ite (fun _ => ?_) (fun _ => ?_)
    | refine (pump_touches ..).after (by decide) ?_
    | refine (forceClose_touches ..).after (by decide) ?_
    | refine (fencesGoOn_touches ..).after (by decide) ?_
    | refine Touches.foldl (fun _ _ _ => ?_) ?_
    | ((conv => arg 3; arg 29); first | refine Touches.set rfl rfl rfl rfl rfl ?_)
    | extract_lets -underBinder
    | split
    | ((conv => arg 3; fail_if_success arg 1); refine Touches.set rfl rfl rfl rfl rfl ?_)
    | (conv => arg 3; dsimp -zeta -proj +zetaDelta only)

theorem topologyClose_touches (s : State) : Touches [.free, .out, .reg, .irq, .net, .spl, .cpu] s (topologyClose s) := by
  unfold topologyClose
  with_reducible repeat' first
    | (extract_lets -underBinder +onlyGivenNames x; refine Touches.mp (t := x) ?_ ?bb; case' bb => clear_value x; revert x; refine Touches.keep ?_; intro _ _)
    | exact Touches.refl _ _
    | assumption
    | refine Touches.ite (fun _ => ?_) (fun _ => ?_)
    | refine (closeBatch_touches ..).after (by decide) ?_
    | refine (pump_touches ..).after (by decide) ?_
    | refine (fencesGoOn_touches ..).after (by decide) ?_
    | refine Touches.foldl (fun _ _ _ => ?_) ?_
    | ((conv => arg 3; arg 29); first | refine Touches.set rfl rfl rfl rfl rfl ?_)
    | extract_lets -underBinder
    | split
    | ((conv => arg 3; fail_if_success arg 1); refine Touches.set rfl rfl rfl rfl rfl ?_)
    | (conv => arg 3; dsimp -zeta -proj +zetaDelta only)

end Sys2Proof.Machine
end

