-- ==== Sys2Proof/Laws/Bridge.lean ====
section
/-!
SUPPORT. Laws/Bridge.lean: the frame of every operation of Machine/Bridge.lean: which parts of the state it may change, and that it keeps the bounds.
-/
namespace Sys2Proof.Machine

set_option Elab.async false
set_option linter.all false

theorem unmapped_touches (who : Requester) (s : State) : Touches [.out, .reg] s (unmapped who s) := by
  unfold unmapped
  with_reducible repeat' first
    | (extract_lets -underBinder +onlyGivenNames x; refine Touches.mp (t := x) ?_ ?bb; case' bb => clear_value x; revert x; refine Touches.keep ?_; intro _ _)
    | exact Touches.refl _ _
    | assumption
    | refine Touches.ite (fun _ => ?_) (fun _ => ?_)
    | refine (emit_touches ..).after (by decide) ?_
    | refine (bump_touches ..).after (by decide) ?_
    | refine Touches.foldl (fun _ _ _ => ?_) ?_
    | extract_lets -underBinder
    | split
    | (conv => arg 3; dsimp -zeta -proj +zetaDelta only)

theorem writeAccess_touches (w woff : Nat) (d : List Byte) (who : Requester) (s : State) : Touches [.free, .out, .reg, .irq, .net, .spl, .cpu] s (writeAccess w woff d who s) := by
  unfold writeAccess
  with_reducible repeat' first
    | exact Touches.refl _ _
    | assumption
    | refine Touches.ite (fun _ => ?_) (fun _ => ?_)
    | refine (spoilPrefetch_touches ..).after (by decide) ?_
    | refine (acceptOp_touches ..).after (by decide) ?_
    | refine (pump_touches ..).after (by decide) ?_
    | refine Touches.foldl (fun _ _ _ => ?_) ?_
    | extract_lets -underBinder
    | split
    | (conv => arg 3; dsimp -zeta -proj +zetaDelta only)

theorem writeFrom_touches (bar4 : Bool) (n a : Nat) (d : List Byte) (s : State) : Touches [.free, .out, .reg, .irq, .net, .spl, .cpu] s (writeFrom bar4 n a d s) := by
  induction n generalizing a d s with
  | zero => exact Touches.refl _ _
  | succ n ih =>
    unfold writeFrom
    with_reducible repeat' first
    | refine (ih ..).after (by decide) ?_
    | (extract_lets -underBinder +onlyGivenNames x; refine Touches.mp (t := x) ?_ ?bb; case' bb => clear_value x; revert x; refine Touches.keep ?_; intro _ _)
    | exact Touches.refl _ _
    | assumption
    | refine Touches.ite (fun _ => ?_) (fun _ => ?_)
    | refine (unmapped_touches ..).after (by decide) ?_
    | refine (writeAccess_touches ..).after (by decide) ?_
    | refine Touches.foldl (fun _ _ _ => ?_) ?_
    | extract_lets -underBinder
    | split
    | (conv => arg 3; dsimp -zeta -proj +zetaDelta only)

theorem useFetched_touches (l : List Prefetched) (s : State) : Touches [.spl] s (useFetched l s) := by
  unfold useFetched
  with_reducible repeat' first
    | exact Touches.refl _ _
    | assumption
    | refine Touches.ite (fun _ => ?_) (fun _ => ?_)
    | refine Touches.foldl (fun _ _ _ => ?_) ?_
    | ((conv => arg 3; arg 29); first | refine Touches.set rfl rfl rfl rfl rfl ?_)
    | extract_lets -underBinder
    | split
    | ((conv => arg 3; fail_if_success arg 1); refine Touches.set rfl rfl rfl rfl rfl ?_)
    | (conv => arg 3; dsimp -zeta -proj +zetaDelta only)

theorem dropOverlap_touches (w woff len : Nat) (s : State) : Touches [.out, .reg, .irq, .spl, .cpu] s (dropOverlap w woff len s) := by
  unfold dropOverlap
  with_reducible repeat' first
    | exact Touches.refl _ _
    | assumption
    | refine Touches.ite (fun _ => ?_) (fun _ => ?_)
    | refine (discardFetched_touches ..).after (by decide) ?_
    | refine Touches.foldl (fun _ _ _ => ?_) ?_
    | extract_lets -underBinder
    | split
    | (conv => arg 3; dsimp -zeta -proj +zetaDelta only)

theorem readOps_touches (req w n woff len : Nat) (s : State) : Touches [.free, .out, .reg, .irq, .spl, .cpu] s (readOps req w n woff len s) := by
  induction n generalizing woff len s with
  | zero => exact Touches.refl _ _
  | succ n ih =>
    unfold readOps
    with_reducible repeat' first
    | refine (ih ..).after (by decide) ?_
    | (extract_lets -underBinder +onlyGivenNames x; refine Touches.mp (t := x) ?_ ?bb; case' bb => clear_value x; revert x; refine Touches.keep ?_; intro _ _)
    | exact Touches.refl _ _
    | assumption
    | refine Touches.ite (fun _ => ?_) (fun _ => ?_)
    | refine (acceptOp_touches ..).after (by decide) ?_
    | refine Touches.foldl (fun _ _ _ => ?_) ?_
    | extract_lets -underBinder
    | split
    | (conv => arg 3; dsimp -zeta -proj +zetaDelta only)

theorem plainPart_touches (req : Nat) (d : List Byte) (s : State) : Touches [.spl] s (plainPart req d s) := by
  unfold plainPart
  with_reducible repeat' first
    | exact Touches.refl _ _
    | assumption
    | refine Touches.ite (fun _ => ?_) (fun _ => ?_)
    | refine Touches.foldl (fun _ _ _ => ?_) ?_
    | ((conv => arg 3; arg 29); first | refine Touches.set rfl rfl rfl rfl rfl ?_)
    | extract_lets -underBinder
    | split
    | ((conv => arg 3; fail_if_success arg 1); refine Touches.set rfl rfl rfl rfl rfl ?_)
    | (conv => arg 3; dsimp -zeta -proj +zetaDelta only)

theorem readAccess_touches (req w woff len : Nat) (s : State) : Touches [.free, .out, .reg, .irq, .spl, .cpu] s (readAccess req w woff len s) := by
  unfold readAccess
  with_reducible repeat' first
    | exact Touches.refl _ _
    | assumption
    | refine Touches.ite (fun _ => ?_) (fun _ => ?_)
    | refine (useFetched_touches ..).after (by decide) ?_
    | refine (dropOverlap_touches ..).after (by decide) ?_
    | refine (readOps_touches ..).after (by decide) ?_
    | refine (plainPart_touches ..).after (by decide) ?_
    | refine Touches.foldl (fun _ _ _ => ?_) ?_
    | extract_lets -underBinder
    | split
    | (conv => arg 3; dsimp -zeta -proj +zetaDelta only)

theorem prefetchIssue_touches (w n off stop : Nat) (s : State) : Touches [.free, .out, .reg, .irq, .spl, .cpu] s (prefetchIssue w n off stop s) := by
  induction n generalizing off s with
  | zero => exact Touches.refl _ _
  | succ n ih =>
    unfold prefetchIssue
    with_reducible repeat' first
    | refine (ih ..).after (by decide) ?_
    | (extract_lets -underBinder +onlyGivenNames x; refine Touches.mp (t := x) ?_ ?bb; case' bb => clear_value x; revert x; refine Touches.keep ?_; intro _ _)
    | exact Touches.refl _ _
    | assumption
    | refine Touches.ite (fun _ => ?_) (fun _ => ?_)
    | refine (bump_touches ..).after (by decide) ?_
    | refine (acceptOp_touches ..).after (by decide) ?_
    | refine Touches.foldl (fun _ _ _ => ?_) ?_
    | extract_lets -underBinder
    | split
    | (conv => arg 3; dsimp -zeta -proj +zetaDelta only)

theorem prefetchAfter_touches (w e : Nat) (s : State) : Touches [.free, .out, .reg, .irq, .spl, .cpu] s (prefetchAfter w e s) := by
  unfold prefetchAfter
  with_reducible repeat' first
    | exact Touches.refl _ _
    | assumption
    | refine Touches.ite (fun _ => ?_) (fun _ => ?_)
    | refine (prefetchIssue_touches ..).after (by decide) ?_
    | refine Touches.foldl (fun _ _ _ => ?_) ?_
    | extract_lets -underBinder
    | split
    | (conv => arg 3; dsimp -zeta -proj +zetaDelta only)

theorem coreRead_touches (w woff n : Nat) (s : State) : Touches [.free, .out, .reg, .irq, .spl, .cpu] s (coreRead w woff n s) := by
  unfold coreRead
  with_reducible repeat' first
    | exact Touches.refl _ _
    | assumption
    | refine Touches.ite (fun _ => ?_) (fun _ => ?_)
    | refine (emit_touches ..).after (by decide) ?_
    | refine (acceptOp_touches ..).after (by decide) ?_
    | refine (useFetched_touches ..).after (by decide) ?_
    | refine (dropOverlap_touches ..).after (by decide) ?_
    | refine (prefetchAfter_touches ..).after (by decide) ?_
    | refine Touches.foldl (fun _ _ _ => ?_) ?_
    | extract_lets -underBinder
    | split
    | (conv => arg 3; dsimp -zeta -proj +zetaDelta only)

theorem readFrom_touches (req : Nat) (bar4 : Bool) (n a len : Nat) (s : State) : Touches [.free, .out, .reg, .irq, .spl, .cpu] s (readFrom req bar4 n a len s) := by
  induction n generalizing a len s with
  | zero => exact Touches.refl _ _
  | succ n ih =>
    unfold readFrom
    with_reducible repeat' first
    | refine (ih ..).after (by decide) ?_
    | (extract_lets -underBinder +onlyGivenNames x; refine Touches.mp (t := x) ?_ ?bb; case' bb => clear_value x; revert x; refine Touches.keep ?_; intro _ _)
    | exact Touches.refl _ _
    | assumption
    | refine Touches.ite (fun _ => ?_) (fun _ => ?_)
    | refine (unmapped_touches ..).after (by decide) ?_
    | refine (plainPart_touches ..).after (by decide) ?_
    | refine (readAccess_touches ..).after (by decide) ?_
    | refine (prefetchAfter_touches ..).after (by decide) ?_
    | refine Touches.foldl (fun _ _ _ => ?_) ?_
    | extract_lets -underBinder
    | split
    | (conv => arg 3; dsimp -zeta -proj +zetaDelta only)

theorem execHostApertureWrite_answers (bar4 : Bool) (a : BitVec 30) (d : List Byte) (s : State) : Answers [.free, .out, .reg, .irq, .net, .spl, .cpu] s (execHostApertureWrite bar4 a d s) := by
  unfold execHostApertureWrite
  with_reducible repeat' first
    | refine Answers.next ?_
    | refine Answers.ite (fun _ => ?_) (fun _ => ?_)
    | exact Touches.refl _ _
    | assumption
    | refine Touches.ite (fun _ => ?_) (fun _ => ?_)
    | refine (writeFrom_touches ..).after (by decide) ?_
    | refine Touches.foldl (fun _ _ _ => ?_) ?_
    | extract_lets -underBinder
    | split
    | (conv => arg 3; dsimp -zeta -proj +zetaDelta only)

theorem openRead_touches (bar4 : Bool) (a : Nat) (s : State) : Touches [.spl] s (openRead bar4 a s) := by
  unfold openRead
  with_reducible repeat' first
    | exact Touches.refl _ _
    | assumption
    | refine Touches.ite (fun _ => ?_) (fun _ => ?_)
    | refine Touches.foldl (fun _ _ _ => ?_) ?_
    | ((conv => arg 3; arg 29); first | refine Touches.set rfl rfl rfl rfl rfl ?_)
    | extract_lets -underBinder
    | split
    | ((conv => arg 3; fail_if_success arg 1); refine Touches.set rfl rfl rfl rfl rfl ?_)
    | (conv => arg 3; dsimp -zeta -proj +zetaDelta only)

theorem closeRead_touches (req : Nat) (s : State) : Touches [.out, .spl] s (closeRead req s) := by
  unfold closeRead
  with_reducible repeat' first
    | (extract_lets -underBinder +onlyGivenNames x; refine Touches.mp (t := x) ?_ ?bb; case' bb => clear_value x; revert x; refine Touches.keep ?_; intro _ _)
    | exact Touches.refl _ _
    | assumption
    | refine Touches.ite (fun _ => ?_) (fun _ => ?_)
    | refine (readDone_touches ..).after (by decide) ?_
    | refine Touches.foldl (fun _ _ _ => ?_) ?_
    | ((conv => arg 3; arg 29); first | refine Touches.set rfl rfl rfl rfl rfl ?_)
    | extract_lets -underBinder
    | split
    | ((conv => arg 3; fail_if_success arg 1); refine Touches.set rfl rfl rfl rfl rfl ?_)
    | (conv => arg 3; dsimp -zeta -proj +zetaDelta only)

theorem execHostApertureRead_answers (bar4 : Bool) (a : BitVec 30) (len : Fin 4097) (s : State) : Answers [.free, .out, .reg, .irq, .net, .spl, .cpu] s (execHostApertureRead bar4 a len s) := by
  unfold execHostApertureRead
  with_reducible repeat' first
    | refine Answers.next ?_
    | refine Answers.ite (fun _ => ?_) (fun _ => ?_)
    | exact Touches.refl _ _
    | assumption
    | refine Touches.ite (fun _ => ?_) (fun _ => ?_)
    | refine (turnedAway_touches ..).after (by decide) ?_
    | refine (pump_touches ..).after (by decide) ?_
    | refine (readFrom_touches ..).after (by decide) ?_
    | refine (openRead_touches ..).after (by decide) ?_
    | refine (closeRead_touches ..).after (by decide) ?_
    | refine Touches.foldl (fun _ _ _ => ?_) ?_
    | extract_lets -underBinder
    | split
    | (conv => arg 3; dsimp -zeta -proj +zetaDelta only)

theorem execHostAtomicOp_answers (bar4 : Bool) (a : BitVec 30) (op : Fin 3) (wide : Bool) (operand compare : BitVec 64) (s : State) : Answers [.free, .out, .reg, .irq, .net, .spl, .cpu] s (execHostAtomicOp bar4 a op wide operand compare s) := by
  unfold execHostAtomicOp
  with_reducible repeat' first
    | refine Answers.next ?_
    | refine Answers.ite (fun _ => ?_) (fun _ => ?_)
    | exact Touches.refl _ _
    | assumption
    | refine Touches.ite (fun _ => ?_) (fun _ => ?_)
    | refine (emit_touches ..).after (by decide) ?_
    | refine (turnedAway_touches ..).after (by decide) ?_
    | refine (acceptOp_touches ..).after (by decide) ?_
    | refine (pump_touches ..).after (by decide) ?_
    | refine (unmapped_touches ..).after (by decide) ?_
    | refine Touches.foldl (fun _ _ _ => ?_) ?_
    | extract_lets -underBinder
    | split
    | (conv => arg 3; dsimp -zeta -proj +zetaDelta only)

theorem coreAperture_touches (bar4 : Bool) (a n : Nat) (x : CoreAccess) (s : State) : Touches [.free, .out, .reg, .irq, .net, .spl, .cpu] s (coreAperture bar4 a n x s) := by
  unfold coreAperture
  with_reducible repeat' first
    | (extract_lets -underBinder +onlyGivenNames x; refine Touches.mp (t := x) ?_ ?bb; case' bb => clear_value x; revert x; refine Touches.keep ?_; intro _ _)
    | exact Touches.refl _ _
    | assumption
    | refine Touches.ite (fun _ => ?_) (fun _ => ?_)
    | refine (emit_touches ..).after (by decide) ?_
    | refine (acceptOp_touches ..).after (by decide) ?_
    | refine (pump_touches ..).after (by decide) ?_
    | refine (unmapped_touches ..).after (by decide) ?_
    | refine (writeAccess_touches ..).after (by decide) ?_
    | refine (coreRead_touches ..).after (by decide) ?_
    | refine Touches.foldl (fun _ _ _ => ?_) ?_
    | extract_lets -underBinder
    | split
    | (conv => arg 3; dsimp -zeta -proj +zetaDelta only)

theorem doorbellSend_touches (who : Requester) (w : Nat) (v : Word) (s : State) : Touches [.free, .out, .reg, .irq, .net, .spl, .cpu] s (doorbellSend who w v s) := by
  unfold doorbellSend
  with_reducible repeat' first
    | exact Touches.refl _ _
    | assumption
    | refine Touches.ite (fun _ => ?_) (fun _ => ?_)
    | refine (acceptOp_touches ..).after (by decide) ?_
    | refine (pump_touches ..).after (by decide) ?_
    | refine (unmapped_touches ..).after (by decide) ?_
    | refine Touches.foldl (fun _ _ _ => ?_) ?_
    | extract_lets -underBinder
    | split
    | (conv => arg 3; dsimp -zeta -proj +zetaDelta only)

theorem semAcquire_touches (who : Requester) (w : Nat) (s : State) : Touches [.free, .out, .reg, .irq, .net, .spl, .cpu] s (semAcquire who w s) := by
  unfold semAcquire
  with_reducible repeat' first
    | exact Touches.refl _ _
    | assumption
    | refine Touches.ite (fun _ => ?_) (fun _ => ?_)
    | refine (acceptOp_touches ..).after (by decide) ?_
    | refine (pump_touches ..).after (by decide) ?_
    | refine (unmapped_touches ..).after (by decide) ?_
    | refine Touches.foldl (fun _ _ _ => ?_) ?_
    | ((conv => arg 3; arg 29); first | refine Touches.set rfl rfl rfl rfl rfl ?_)
    | extract_lets -underBinder
    | split
    | ((conv => arg 3; fail_if_success arg 1); refine Touches.set rfl rfl rfl rfl rfl ?_)
    | (conv => arg 3; dsimp -zeta -proj +zetaDelta only)

theorem semRelease_touches (who : Requester) (w : Nat) (s : State) : Touches [.free, .out, .reg, .irq, .net, .spl, .cpu] s (semRelease who w s) := by
  unfold semRelease
  with_reducible repeat' first
    | exact Touches.refl _ _
    | assumption
    | refine Touches.ite (fun _ => ?_) (fun _ => ?_)
    | refine (acceptOp_touches ..).after (by decide) ?_
    | refine (pump_touches ..).after (by decide) ?_
    | refine (unmapped_touches ..).after (by decide) ?_
    | refine Touches.foldl (fun _ _ _ => ?_) ?_
    | ((conv => arg 3; arg 29); first | refine Touches.set rfl rfl rfl rfl rfl ?_)
    | extract_lets -underBinder
    | split
    | ((conv => arg 3; fail_if_success arg 1); refine Touches.set rfl rfl rfl rfl rfl ?_)
    | (conv => arg 3; dsimp -zeta -proj +zetaDelta only)

theorem execWinDoorbellWrite_answers (who : Requester) (w : Fin 64) (v : Word) (s : State) : Answers [.free, .out, .reg, .irq, .net, .spl, .cpu] s (execWinDoorbellWrite who w v s) := by
  unfold execWinDoorbellWrite
  with_reducible repeat' first
    | refine Answers.next ?_
    | refine Answers.ite (fun _ => ?_) (fun _ => ?_)
    | exact Touches.refl _ _
    | assumption
    | refine Touches.ite (fun _ => ?_) (fun _ => ?_)
    | refine (doorbellSend_touches ..).after (by decide) ?_
    | refine Touches.foldl (fun _ _ _ => ?_) ?_
    | extract_lets -underBinder
    | split
    | (conv => arg 3; dsimp -zeta -proj +zetaDelta only)

theorem execWinSemAcquire_answers (who : Requester) (w : Fin 64) (s : State) : Answers [.free, .out, .reg, .irq, .net, .spl, .cpu] s (execWinSemAcquire who w s) := by
  unfold execWinSemAcquire
  with_reducible repeat' first
    | refine Answers.next ?_
    | refine Answers.ite (fun _ => ?_) (fun _ => ?_)
    | exact Touches.refl _ _
    | assumption
    | refine Touches.ite (fun _ => ?_) (fun _ => ?_)
    | refine (semAcquire_touches ..).after (by decide) ?_
    | refine Touches.foldl (fun _ _ _ => ?_) ?_
    | extract_lets -underBinder
    | split
    | (conv => arg 3; dsimp -zeta -proj +zetaDelta only)

theorem execWinSemRelease_answers (who : Requester) (w : Fin 64) (s : State) : Answers [.free, .out, .reg, .irq, .net, .spl, .cpu] s (execWinSemRelease who w s) := by
  unfold execWinSemRelease
  with_reducible repeat' first
    | refine Answers.next ?_
    | refine Answers.ite (fun _ => ?_) (fun _ => ?_)
    | exact Touches.refl _ _
    | assumption
    | refine Touches.ite (fun _ => ?_) (fun _ => ?_)
    | refine (semRelease_touches ..).after (by decide) ?_
    | refine Touches.foldl (fun _ _ _ => ?_) ?_
    | extract_lets -underBinder
    | split
    | (conv => arg 3; dsimp -zeta -proj +zetaDelta only)

theorem headerDrop_touches (s : State) : Touches [.reg] s (headerDrop s) := by
  unfold headerDrop
  with_reducible repeat' first
    | exact Touches.refl _ _
    | assumption
    | refine Touches.ite (fun _ => ?_) (fun _ => ?_)
    | refine (bump_touches ..).after (by decide) ?_
    | refine Touches.foldl (fun _ _ _ => ?_) ?_
    | extract_lets -underBinder
    | split
    | (conv => arg 3; dsimp -zeta -proj +zetaDelta only)

theorem checkDrop_touches (s : State) : Touches [.reg] s (checkDrop s) := by
  unfold checkDrop
  with_reducible repeat' first
    | exact Touches.refl _ _
    | assumption
    | refine Touches.ite (fun _ => ?_) (fun _ => ?_)
    | refine (bump_touches ..).after (by decide) ?_
    | refine Touches.foldl (fun _ _ _ => ?_) ?_
    | extract_lets -underBinder
    | split
    | (conv => arg 3; dsimp -zeta -proj +zetaDelta only)

theorem lateAnswer_touches (b : Bulis) (s : State) : Touches [.reg] s (lateAnswer b s) := by
  unfold lateAnswer
  with_reducible repeat' first
    | exact Touches.refl _ _
    | assumption
    | refine Touches.ite (fun _ => ?_) (fun _ => ?_)
    | refine (bump_touches ..).after (by decide) ?_
    | refine Touches.foldl (fun _ _ _ => ?_) ?_
    | extract_lets -underBinder
    | split
    | (conv => arg 3; dsimp -zeta -proj +zetaDelta only)

theorem staleResend_touches (o : Op) (s : State) : Touches [.free, .out, .reg, .irq, .net, .spl, .cpu] s (staleResend o s) := by
  unfold staleResend
  with_reducible repeat' first
    | exact Touches.refl _ _
    | assumption
    | refine Touches.ite (fun _ => ?_) (fun _ => ?_)
    | refine (resendOp_touches ..).after (by decide) ?_
    | refine Touches.foldl (fun _ _ _ => ?_) ?_
    | extract_lets -underBinder
    | split
    | (conv => arg 3; dsimp -zeta -proj +zetaDelta only)

theorem ackApply_touches (b : Bulis) (o : Op) (s : State) : Touches [.free, .out, .reg, .irq, .net, .spl, .cpu] s (ackApply b o s) := by
  unfold ackApply
  with_reducible repeat' first
    | exact Touches.refl _ _
    | assumption
    | refine Touches.ite (fun _ => ?_) (fun _ => ?_)
    | refine (closeBatch_touches ..).after (by decide) ?_
    | refine (closeOne_touches ..).after (by decide) ?_
    | refine (lateAnswer_touches ..).after (by decide) ?_
    | refine (staleResend_touches ..).after (by decide) ?_
    | refine Touches.foldl (fun _ _ _ => ?_) ?_
    | extract_lets -underBinder
    | split
    | (conv => arg 3; dsimp -zeta -proj +zetaDelta only)

theorem ackIn_touches (b : Bulis) (s : State) : Touches [.free, .out, .reg, .irq, .net, .spl, .cpu] s (ackIn b s) := by
  unfold ackIn
  with_reducible repeat' first
    | (extract_lets -underBinder +onlyGivenNames x; refine Touches.mp (t := x) ?_ ?bb; case' bb => clear_value x; revert x; refine Touches.keep ?_; intro _ _)
    | exact Touches.refl _ _
    | assumption
    | refine Touches.ite (fun _ => ?_) (fun _ => ?_)
    | refine (pump_touches ..).after (by decide) ?_
    | refine (fencesGoOn_touches ..).after (by decide) ?_
    | refine (headerDrop_touches ..).after (by decide) ?_
    | refine (checkDrop_touches ..).after (by decide) ?_
    | refine (lateAnswer_touches ..).after (by decide) ?_
    | refine (ackApply_touches ..).after (by decide) ?_
    | refine Touches.foldl (fun _ _ _ => ?_) ?_
    | extract_lets -underBinder
    | split
    | (conv => arg 3; dsimp -zeta -proj +zetaDelta only)

theorem completionIn_touches (b : Bulis) (s : State) : Touches [.free, .out, .reg, .irq, .net, .spl, .cpu] s (completionIn b s) := by
  unfold completionIn
  with_reducible repeat' first
    | (extract_lets -underBinder +onlyGivenNames x; refine Touches.mp (t := x) ?_ ?bb; case' bb => clear_value x; revert x; refine Touches.keep ?_; intro _ _)
    | exact Touches.refl _ _
    | assumption
    | refine Touches.ite (fun _ => ?_) (fun _ => ?_)
    | refine (answerNp_touches ..).after (by decide) ?_
    | refine (acceptOp_touches ..).after (by decide) ?_
    | refine (pump_touches ..).after (by decide) ?_
    | refine (fencesGoOn_touches ..).after (by decide) ?_
    | refine (headerDrop_touches ..).after (by decide) ?_
    | refine (checkDrop_touches ..).after (by decide) ?_
    | refine (lateAnswer_touches ..).after (by decide) ?_
    | refine Touches.foldl (fun _ _ _ => ?_) ?_
    | extract_lets -underBinder
    | split
    | (conv => arg 3; dsimp -zeta -proj +zetaDelta only)

theorem execBulisAckReceive_answers (b : Bulis) (s : State) : Answers [.free, .out, .reg, .irq, .net, .spl, .cpu] s (execBulisAckReceive b s) := by
  unfold execBulisAckReceive
  with_reducible repeat' first
    | refine Answers.next ?_
    | refine Answers.ite (fun _ => ?_) (fun _ => ?_)
    | exact Touches.refl _ _
    | assumption
    | refine Touches.ite (fun _ => ?_) (fun _ => ?_)
    | refine (ackIn_touches ..).after (by decide) ?_
    | refine Touches.foldl (fun _ _ _ => ?_) ?_
    | extract_lets -underBinder
    | split
    | (conv => arg 3; dsimp -zeta -proj +zetaDelta only)

theorem execCompletionReceive_answers (b : Bulis) (s : State) : Answers [.free, .out, .reg, .irq, .net, .spl, .cpu] s (execCompletionReceive b s) := by
  unfold execCompletionReceive
  with_reducible repeat' first
    | refine Answers.next ?_
    | refine Answers.ite (fun _ => ?_) (fun _ => ?_)
    | exact Touches.refl _ _
    | assumption
    | refine Touches.ite (fun _ => ?_) (fun _ => ?_)
    | refine (completionIn_touches ..).after (by decide) ?_
    | refine Touches.foldl (fun _ _ _ => ?_) ?_
    | extract_lets -underBinder
    | split
    | (conv => arg 3; dsimp -zeta -proj +zetaDelta only)

theorem execBulisAckTimeout_answers (u : Uid) (stream : Byte) (q : Word) (s : State) : Answers [.now, .up, .free, .out, .reg, .irq, .log, .net, .spl, .cpu] s (execBulisAckTimeout u stream q s) := by
  unfold execBulisAckTimeout
  with_reducible repeat' first
    | (extract_lets -underBinder +onlyGivenNames x; (first | refine Answers.mp (t := x) ?_ ?bb | refine Touches.mp (t := x) ?_ ?bb); case' bb => clear_value x; revert x; refine Touches.keep ?_; intro _ _)
    | refine Answers.next ?_
    | refine Answers.ite (fun _ => ?_) (fun _ => ?_)
    | exact Touches.refl _ _
    | assumption
    | refine Touches.ite (fun _ => ?_) (fun _ => ?_)
    | refine (passTo_touches ..).after (by decide) ?_
    | refine (resendOp_touches ..).after (by decide) ?_
    | refine Touches.foldl (fun _ _ _ => ?_) ?_
    | extract_lets -underBinder
    | split
    | (conv => arg 3; dsimp -zeta -proj +zetaDelta only)

theorem execCompletionTimeout_answers (tag : BitVec 9) (s : State) : Answers [.now, .up, .free, .out, .reg, .irq, .log, .net, .spl, .cpu] s (execCompletionTimeout tag s) := by
  unfold execCompletionTimeout
  with_reducible repeat' first
    | (extract_lets -underBinder +onlyGivenNames x; (first | refine Answers.mp (t := x) ?_ ?bb | refine Touches.mp (t := x) ?_ ?bb); case' bb => clear_value x; revert x; refine Touches.keep ?_; intro _ _)
    | refine Answers.next ?_
    | refine Answers.ite (fun _ => ?_) (fun _ => ?_)
    | exact Touches.refl _ _
    | assumption
    | refine Touches.ite (fun _ => ?_) (fun _ => ?_)
    | refine (passTo_touches ..).after (by decide) ?_
    | refine (closeOne_touches ..).after (by decide) ?_
    | refine (pump_touches ..).after (by decide) ?_
    | refine (fencesGoOn_touches ..).after (by decide) ?_
    | refine Touches.foldl (fun _ _ _ => ?_) ?_
    | extract_lets -underBinder
    | split
    | (conv => arg 3; dsimp -zeta -proj +zetaDelta only)

theorem execSemRetryTimer_answers (tag : BitVec 9) (s : State) : Answers [.now, .up, .free, .out, .reg, .irq, .log, .net, .spl, .cpu] s (execSemRetryTimer tag s) := by
  unfold execSemRetryTimer
  with_reducible repeat' first
    | refine Answers.next ?_
    | refine Answers.ite (fun _ => ?_) (fun _ => ?_)
    | exact Touches.refl _ _
    | assumption
    | refine Touches.ite (fun _ => ?_) (fun _ => ?_)
    | refine (passTo_touches ..).after (by decide) ?_
    | refine (pump_touches ..).after (by decide) ?_
    | refine Touches.foldl (fun _ _ _ => ?_) ?_
    | extract_lets -underBinder
    | split
    | (conv => arg 3; dsimp -zeta -proj +zetaDelta only)

theorem execSemAcquireTimeout_answers (tag : BitVec 9) (s : State) : Answers [.now, .up, .free, .out, .reg, .irq, .log, .net, .spl, .cpu] s (execSemAcquireTimeout tag s) := by
  unfold execSemAcquireTimeout
  with_reducible repeat' first
    | (extract_lets -underBinder +onlyGivenNames x; (first | refine Answers.mp (t := x) ?_ ?bb | refine Touches.mp (t := x) ?_ ?bb); case' bb => clear_value x; revert x; refine Touches.keep ?_; intro _ _)
    | refine Answers.next ?_
    | refine Answers.ite (fun _ => ?_) (fun _ => ?_)
    | exact Touches.refl _ _
    | assumption
    | refine Touches.ite (fun _ => ?_) (fun _ => ?_)
    | refine (passTo_touches ..).after (by decide) ?_
    | refine (setOp_touches ..).after (by decide) ?_
    | refine (closeOne_touches ..).after (by decide) ?_
    | refine (pump_touches ..).after (by decide) ?_
    | refine (fencesGoOn_touches ..).after (by decide) ?_
    | refine Touches.foldl (fun _ _ _ => ?_) ?_
    | extract_lets -underBinder
    | split
    | (conv => arg 3; dsimp -zeta -proj +zetaDelta only)

theorem execSemHoldLimit_answers (n : Fin 64) (s : State) : Answers [.now, .up, .out, .reg, .irq, .log, .spl, .cpu] s (execSemHoldLimit n s) := by
  unfold execSemHoldLimit
  with_reducible repeat' first
    | (extract_lets -underBinder +onlyGivenNames x; (first | refine Answers.mp (t := x) ?_ ?bb | refine Touches.mp (t := x) ?_ ?bb); case' bb => clear_value x; revert x; refine Touches.keep ?_; intro _ _)
    | refine Answers.next ?_
    | refine Answers.ite (fun _ => ?_) (fun _ => ?_)
    | exact Touches.refl _ _
    | assumption
    | refine Touches.ite (fun _ => ?_) (fun _ => ?_)
    | refine (bump_touches ..).after (by decide) ?_
    | refine (passTo_touches ..).after (by decide) ?_
    | refine (passToInstant_touches ..).after (by decide) ?_
    | refine (fire_touches ..).after (by decide) ?_
    | refine Touches.foldl (fun _ _ _ => ?_) ?_
    | ((conv => arg 3; arg 29); first | refine Touches.set rfl rfl rfl rfl rfl ?_)
    | extract_lets -underBinder
    | split
    | ((conv => arg 3; fail_if_success arg 1); refine Touches.set rfl rfl rfl rfl rfl ?_)
    | (conv => arg 3; dsimp -zeta -proj +zetaDelta only)

theorem execPrefetchLifetimeExpiry_answers (s : State) : Answers [.now, .up, .out, .reg, .irq, .log, .spl, .cpu] s (execPrefetchLifetimeExpiry s) := by
  unfold execPrefetchLifetimeExpiry
  with_reducible repeat' first
    | refine Answers.next ?_
    | refine Answers.ite (fun _ => ?_) (fun _ => ?_)
    | exact Touches.refl _ _
    | assumption
    | refine Touches.ite (fun _ => ?_) (fun _ => ?_)
    | refine (passTo_touches ..).after (by decide) ?_
    | refine (discardFetched_touches ..).after (by decide) ?_
    | refine Touches.foldl (fun _ _ _ => ?_) ?_
    | extract_lets -underBinder
    | split
    | (conv => arg 3; dsimp -zeta -proj +zetaDelta only)

theorem execCompletionRetentionExpiry_answers (u : Uid) (stream : Byte) (q : Word) (s : State) : Answers [.now, .up, .out, .reg, .irq, .log, .spl, .cpu] s (execCompletionRetentionExpiry u stream q s) := by
  unfold execCompletionRetentionExpiry
  with_reducible repeat' first
    | (extract_lets -underBinder +onlyGivenNames x; (first | refine Answers.mp (t := x) ?_ ?bb | refine Touches.mp (t := x) ?_ ?bb); case' bb => clear_value x; revert x; refine Touches.keep ?_; intro _ _)
    | refine Answers.next ?_
    | refine Answers.ite (fun _ => ?_) (fun _ => ?_)
    | exact Touches.refl _ _
    | assumption
    | refine Touches.ite (fun _ => ?_) (fun _ => ?_)
    | refine (passTo_touches ..).after (by decide) ?_
    | refine Touches.foldl (fun _ _ _ => ?_) ?_
    | ((conv => arg 3; arg 29); first | refine Touches.set rfl rfl rfl rfl rfl ?_)
    | extract_lets -underBinder
    | split
    | ((conv => arg 3; fail_if_success arg 1); refine Touches.set rfl rfl rfl rfl rfl ?_)
    | (conv => arg 3; dsimp -zeta -proj +zetaDelta only)

theorem execBulisRxForget_answers (u : Uid) (stream : Byte) (s : State) : Answers [.now, .up, .out, .reg, .irq, .log, .spl, .cpu] s (execBulisRxForget u stream s) := by
  unfold execBulisRxForget
  with_reducible repeat' first
    | (extract_lets -underBinder +onlyGivenNames x; (first | refine Answers.mp (t := x) ?_ ?bb | refine Touches.mp (t := x) ?_ ?bb); case' bb => clear_value x; revert x; refine Touches.keep ?_; intro _ _)
    | refine Answers.next ?_
    | refine Answers.ite (fun _ => ?_) (fun _ => ?_)
    | exact Touches.refl _ _
    | assumption
    | refine Touches.ite (fun _ => ?_) (fun _ => ?_)
    | refine (passTo_touches ..).after (by decide) ?_
    | refine Touches.foldl (fun _ _ _ => ?_) ?_
    | ((conv => arg 3; arg 29); first | refine Touches.set rfl rfl rfl rfl rfl ?_)
    | extract_lets -underBinder
    | split
    | ((conv => arg 3; fail_if_success arg 1); refine Touches.set rfl rfl rfl rfl rfl ?_)
    | (conv => arg 3; dsimp -zeta -proj +zetaDelta only)

theorem spliceDrained_touches (x : SpliceUnit) (s : State) : Touches [.spl] s (spliceDrained x s) := by
  unfold spliceDrained
  with_reducible repeat' first
    | exact Touches.refl _ _
    | assumption
    | refine Touches.ite (fun _ => ?_) (fun _ => ?_)
    | refine Touches.foldl (fun _ _ _ => ?_) ?_
    | ((conv => arg 3; arg 29); first | refine Touches.set rfl rfl rfl rfl rfl ?_)
    | extract_lets -underBinder
    | split
    | ((conv => arg 3; fail_if_success arg 1); refine Touches.set rfl rfl rfl rfl rfl ?_)
    | (conv => arg 3; dsimp -zeta -proj +zetaDelta only)

theorem cePop_touches (s : State) : Touches [.spl] s (cePop s) := by
  unfold cePop
  with_reducible repeat' first
    | exact Touches.refl _ _
    | assumption
    | refine Touches.ite (fun _ => ?_) (fun _ => ?_)
    | refine Touches.foldl (fun _ _ _ => ?_) ?_
    | ((conv => arg 3; arg 29); first | refine Touches.set rfl rfl rfl rfl rfl ?_)
    | extract_lets -underBinder
    | split
    | ((conv => arg 3; fail_if_success arg 1); refine Touches.set rfl rfl rfl rfl rfl ?_)
    | (conv => arg 3; dsimp -zeta -proj +zetaDelta only)

theorem pwfPop_touches (s : State) : Touches [.spl] s (pwfPop s) := by
  unfold pwfPop
  with_reducible repeat' first
    | exact Touches.refl _ _
    | assumption
    | refine Touches.ite (fun _ => ?_) (fun _ => ?_)
    | refine Touches.foldl (fun _ _ _ => ?_) ?_
    | ((conv => arg 3; arg 29); first | refine Touches.set rfl rfl rfl rfl rfl ?_)
    | extract_lets -underBinder
    | split
    | ((conv => arg 3; fail_if_success arg 1); refine Touches.set rfl rfl rfl rfl rfl ?_)
    | (conv => arg 3; dsimp -zeta -proj +zetaDelta only)

theorem coreDenied_touches (s : State) : Touches [.out, .reg] s (coreDenied s) := by
  unfold coreDenied
  with_reducible repeat' first
    | exact Touches.refl _ _
    | assumption
    | refine Touches.ite (fun _ => ?_) (fun _ => ?_)
    | refine (emit_touches ..).after (by decide) ?_
    | refine (bump_touches ..).after (by decide) ?_
    | refine Touches.foldl (fun _ _ _ => ?_) ?_
    | extract_lets -underBinder
    | split
    | (conv => arg 3; dsimp -zeta -proj +zetaDelta only)

theorem popBy_touches {k : List Blk} {who : Requester} {n : Nat} {f : State → State} {s t : State} (hk : Blk.sub [.reg] k = true)
    (hf : ∀ u, Touches k s u → Touches k s (f u)) (h : Touches k s t) : Touches k s (popBy who n f t) := by
  unfold popBy
  exact Touches.ite (fun _ => h) (fun _ => Touches.ite (fun _ => (bump_touches ..).after (Blk.sub_trans (by decide) hk) h) (fun _ => hf _ h))

theorem execCePop_answers (who : Requester) (s : State) : Answers [.reg, .spl] s (execCePop who s) := by
  unfold execCePop
  with_reducible repeat' first
    | refine Answers.next ?_
    | refine Answers.ite (fun _ => ?_) (fun _ => ?_)
    | exact Touches.refl _ _
    | assumption
    | refine Touches.ite (fun _ => ?_) (fun _ => ?_)
    | refine (cePop_touches ..).after (by decide) ?_
    | refine popBy_touches (by decide) (fun _ _ => ?_) ?_
    | refine Touches.foldl (fun _ _ _ => ?_) ?_
    | extract_lets -underBinder
    | split
    | (conv => arg 3; dsimp -zeta -proj +zetaDelta only)

theorem execPwfPop_answers (who : Requester) (s : State) : Answers [.reg, .spl] s (execPwfPop who s) := by
  unfold execPwfPop
  with_reducible repeat' first
    | refine Answers.next ?_
    | refine Answers.ite (fun _ => ?_) (fun _ => ?_)
    | exact Touches.refl _ _
    | assumption
    | refine Touches.ite (fun _ => ?_) (fun _ => ?_)
    | refine (pwfPop_touches ..).after (by decide) ?_
    | refine popBy_touches (by decide) (fun _ _ => ?_) ?_
    | refine Touches.foldl (fun _ _ _ => ?_) ?_
    | extract_lets -underBinder
    | split
    | (conv => arg 3; dsimp -zeta -proj +zetaDelta only)

theorem execDbValueRead_answers (who : Requester) (s : State) : Answers [.out, .reg, .spl] s (execDbValueRead who s) := by
  unfold execDbValueRead
  with_reducible repeat' first
    | (extract_lets -underBinder +onlyGivenNames x; (first | refine Answers.mp (t := x) ?_ ?bb | refine Touches.mp (t := x) ?_ ?bb); case' bb => clear_value x; revert x; refine Touches.keep ?_; intro _ _)
    | refine Answers.next ?_
    | refine Answers.ite (fun _ => ?_) (fun _ => ?_)
    | exact Touches.refl _ _
    | assumption
    | refine Touches.ite (fun _ => ?_) (fun _ => ?_)
    | refine (emit_touches ..).after (by decide) ?_
    | refine (bump_touches ..).after (by decide) ?_
    | refine (turnedAway_touches ..).after (by decide) ?_
    | refine Touches.foldl (fun _ _ _ => ?_) ?_
    | ((conv => arg 3; arg 29); first | refine Touches.set rfl rfl rfl rfl rfl ?_)
    | extract_lets -underBinder
    | split
    | ((conv => arg 3; fail_if_success arg 1); refine Touches.set rfl rfl rfl rfl rfl ?_)
    | (conv => arg 3; dsimp -zeta -proj +zetaDelta only)

theorem fenceMask_touches (mask : Nat) (s : State) : Touches [.free, .out, .reg, .irq, .net, .spl, .cpu] s (fenceMask mask s) := by
  unfold fenceMask
  with_reducible repeat' first
    | exact Touches.refl _ _
    | assumption
    | refine Touches.ite (fun _ => ?_) (fun _ => ?_)
    | refine (fenceRequest_touches ..).after (by decide) ?_
    | refine Touches.foldl (fun _ _ _ => ?_) ?_
    | extract_lets -underBinder
    | split
    | (conv => arg 3; dsimp -zeta -proj +zetaDelta only)

theorem execStmFence_answers (who : Requester) (mask : BitVec 16) (s : State) : Answers [.free, .out, .reg, .irq, .net, .spl, .cpu] s (execStmFence who mask s) := by
  unfold execStmFence
  with_reducible repeat' first
    | refine Answers.next ?_
    | refine Answers.ite (fun _ => ?_) (fun _ => ?_)
    | exact Touches.refl _ _
    | assumption
    | refine Touches.ite (fun _ => ?_) (fun _ => ?_)
    | refine (fenceMask_touches ..).after (by decide) ?_
    | refine Touches.foldl (fun _ _ _ => ?_) ?_
    | extract_lets -underBinder
    | split
    | (conv => arg 3; dsimp -zeta -proj +zetaDelta only)

theorem execFenceFramesSend_answers (n : Fin 16) (s : State) : Answers [.free, .out, .reg, .irq, .net, .spl, .cpu] s (execFenceFramesSend n s) := by
  unfold execFenceFramesSend
  with_reducible repeat' first
    | refine Answers.next ?_
    | refine Answers.ite (fun _ => ?_) (fun _ => ?_)
    | exact Touches.refl _ _
    | assumption
    | refine Touches.ite (fun _ => ?_) (fun _ => ?_)
    | refine (fenceSend_touches ..).after (by decide) ?_
    | refine Touches.foldl (fun _ _ _ => ?_) ?_
    | extract_lets -underBinder
    | split
    | (conv => arg 3; dsimp -zeta -proj +zetaDelta only)

theorem execAbortGo_answers (w : Fin 64) (s : State) : Answers [.free, .out, .reg, .irq, .net, .spl, .cpu] s (execAbortGo w s) := by
  unfold execAbortGo
  with_reducible repeat' first
    | refine Answers.next ?_
    | refine Answers.ite (fun _ => ?_) (fun _ => ?_)
    | exact Touches.refl _ _
    | assumption
    | refine Touches.ite (fun _ => ?_) (fun _ => ?_)
    | refine (abortWindow_touches ..).after (by decide) ?_
    | refine Touches.foldl (fun _ _ _ => ?_) ?_
    | extract_lets -underBinder
    | split
    | (conv => arg 3; dsimp -zeta -proj +zetaDelta only)

theorem execSplForceDisable_answers (s : State) : Answers [.free, .out, .reg, .irq, .od, .net, .spl, .cpu] s (execSplForceDisable s) := by
  unfold execSplForceDisable
  with_reducible repeat' first
    | refine Answers.next ?_
    | refine Answers.ite (fun _ => ?_) (fun _ => ?_)
    | exact Touches.refl _ _
    | assumption
    | refine Touches.ite (fun _ => ?_) (fun _ => ?_)
    | refine (splForce_touches ..).after (by decide) ?_
    | refine Touches.foldl (fun _ _ _ => ?_) ?_
    | extract_lets -underBinder
    | split
    | (conv => arg 3; dsimp -zeta -proj +zetaDelta only)

theorem execWinForceDisable_answers (w : Fin 64) (s : State) : Answers [.free, .out, .reg, .irq, .od, .net, .spl, .cpu] s (execWinForceDisable w s) := by
  unfold execWinForceDisable
  with_reducible repeat' first
    | refine Answers.next ?_
    | refine Answers.ite (fun _ => ?_) (fun _ => ?_)
    | exact Touches.refl _ _
    | assumption
    | refine Touches.ite (fun _ => ?_) (fun _ => ?_)
    | refine (winForce_touches ..).after (by decide) ?_
    | refine Touches.foldl (fun _ _ _ => ?_) ?_
    | extract_lets -underBinder
    | split
    | (conv => arg 3; dsimp -zeta -proj +zetaDelta only)

theorem execStmForceDisable_answers (n : Fin 16) (s : State) : Answers [.free, .out, .reg, .irq, .od, .net, .spl, .cpu] s (execStmForceDisable n s) := by
  unfold execStmForceDisable
  with_reducible repeat' first
    | refine Answers.next ?_
    | refine Answers.ite (fun _ => ?_) (fun _ => ?_)
    | exact Touches.refl _ _
    | assumption
    | refine Touches.ite (fun _ => ?_) (fun _ => ?_)
    | refine (stmForce_touches ..).after (by decide) ?_
    | refine Touches.foldl (fun _ _ _ => ?_) ?_
    | extract_lets -underBinder
    | split
    | (conv => arg 3; dsimp -zeta -proj +zetaDelta only)

end Sys2Proof.Machine
end

