-- ==== Sys2Proof/Laws/Mac.lean ====
section
/-!
SUPPORT. Laws/Mac.lean: the frame of every operation of Machine/Mac.lean: which parts of the state it may change, and that it keeps the bounds.
-/
namespace Sys2Proof.Machine

set_option Elab.async false
set_option linter.all false

theorem verifyFail_touches (p : Nat) (s : State) : Touches [.out, .reg, .irq, .log, .net, .cpu] s (verifyFail p s) := by
  unfold verifyFail
  with_reducible repeat' first
    | (extract_lets -underBinder +onlyGivenNames x; refine Touches.mp (t := x) ?_ ?bb; case' bb => clear_value x; revert x; refine Touches.keep ?_; intro _ _)
    | exact Touches.refl _ _
    | assumption
    | refine Touches.ite (fun _ => ?_) (fun _ => ?_)
    | refine (bump_touches ..).after (by decide) ?_
    | refine (raiseIrq_touches ..).after (by decide) ?_
    | refine (setSched_touches ..).after (by decide) ?_
    | refine (fire_touches ..).after (by decide) ?_
    | refine Touches.foldl (fun _ _ _ => ?_) ?_
    | ((conv => arg 3; arg 29); first | refine Touches.net_set (by decide) ?_ | refine Touches.set rfl rfl rfl rfl rfl ?_)
    | extract_lets -underBinder
    | split
    | ((conv => arg 3; fail_if_success arg 1); refine Touches.set rfl rfl rfl rfl rfl ?_)
    | (conv => arg 3; dsimp -zeta -proj +zetaDelta only)

theorem flushQueues_touches (p : Nat) (s : State) : Touches [.out, .reg, .irq, .net, .cpu] s (flushQueues p s) := by
  unfold flushQueues
  with_reducible repeat' first
    | (extract_lets -underBinder +onlyGivenNames x; refine Touches.mp (t := x) ?_ ?bb; case' bb => clear_value x; revert x; refine Touches.keep ?_; intro _ _)
    | exact Touches.refl _ _
    | assumption
    | refine Touches.ite (fun _ => ?_) (fun _ => ?_)
    | refine (setMac_touches ..).after (by decide) ?_
    | refine (countMac_touches ..).after (by decide) ?_
    | refine (flowAll_touches ..).after (by decide) ?_
    | refine Touches.foldl (fun _ _ _ => ?_) ?_
    | extract_lets -underBinder
    | split
    | (conv => arg 3; dsimp -zeta -proj +zetaDelta only)

theorem tlvSend_touches (p : Nat) (s : State) : Touches [.out, .reg, .irq, .net, .cpu] s (tlvSend p s) := by
  unfold tlvSend
  with_reducible repeat' first
    | exact Touches.refl _ _
    | assumption
    | refine Touches.ite (fun _ => ?_) (fun _ => ?_)
    | refine (pairSend_touches ..).after (by decide) ?_
    | refine Touches.foldl (fun _ _ _ => ?_) ?_
    | extract_lets -underBinder
    | split
    | (conv => arg 3; dsimp -zeta -proj +zetaDelta only)

theorem macUp_touches (p : Nat) (s : State) : Touches [.out, .reg, .irq, .net, .cpu] s (macUp p s) := by
  unfold macUp
  with_reducible repeat' first
    | exact Touches.refl _ _
    | assumption
    | refine Touches.ite (fun _ => ?_) (fun _ => ?_)
    | refine (setSched_touches ..).after (by decide) ?_
    | refine (verifyStart_touches ..).after (by decide) ?_
    | refine (flowCheck_touches ..).after (by decide) ?_
    | refine (tlvSend_touches ..).after (by decide) ?_
    | refine Touches.foldl (fun _ _ _ => ?_) ?_
    | extract_lets -underBinder
    | split
    | (conv => arg 3; dsimp -zeta -proj +zetaDelta only)

theorem macDown_touches (p : Nat) (s : State) : Touches [.out, .reg, .irq, .net, .cpu] s (macDown p s) := by
  unfold macDown
  with_reducible repeat' first
    | (extract_lets -underBinder +onlyGivenNames x; refine Touches.mp (t := x) ?_ ?bb; case' bb => clear_value x; revert x; refine Touches.keep ?_; intro _ _)
    | exact Touches.refl _ _
    | assumption
    | refine Touches.ite (fun _ => ?_) (fun _ => ?_)
    | refine (setMac_touches ..).after (by decide) ?_
    | refine (setSched_touches ..).after (by decide) ?_
    | refine (flowAll_touches ..).after (by decide) ?_
    | refine (flowReset_touches ..).after (by decide) ?_
    | refine (dropPartial_touches ..).after (by decide) ?_
    | refine (dropAwaited_touches ..).after (by decide) ?_
    | refine (flushQueues_touches ..).after (by decide) ?_
    | refine Touches.foldl (fun _ _ _ => ?_) ?_
    | extract_lets -underBinder
    | split
    | (conv => arg 3; dsimp -zeta -proj +zetaDelta only)

theorem countHold_touches (p : Nat) (x : QFrame) (s : State) : Touches [.reg, .net] s (countHold p x s) := by
  unfold countHold
  with_reducible repeat' first
    | (extract_lets -underBinder +onlyGivenNames x; refine Touches.mp (t := x) ?_ ?bb; case' bb => clear_value x; revert x; refine Touches.keep ?_; intro _ _)
    | exact Touches.refl _ _
    | assumption
    | refine Touches.ite (fun _ => ?_) (fun _ => ?_)
    | refine (bump_touches ..).after (by decide) ?_
    | refine (setSched_touches ..).after (by decide) ?_
    | refine Touches.foldl (fun _ _ _ => ?_) ?_
    | extract_lets -underBinder
    | split
    | (conv => arg 3; dsimp -zeta -proj +zetaDelta only)

theorem resumeRest_touches (p : Nat) (w : Wire) (s : State) : Touches [.net] s (resumeRest p w s) := by
  unfold resumeRest
  with_reducible repeat' first
    | exact Touches.refl _ _
    | assumption
    | refine Touches.ite (fun _ => ?_) (fun _ => ?_)
    | refine (setMac_touches ..).after (by decide) ?_
    | refine Touches.foldl (fun _ _ _ => ?_) ?_
    | extract_lets -underBinder
    | split
    | (conv => arg 3; dsimp -zeta -proj +zetaDelta only)

theorem txDrain_touches (p : Nat) (s : State) : Touches [.net] s (txDrain p s) := by
  unfold txDrain
  with_reducible repeat' first
    | (extract_lets -underBinder +onlyGivenNames x; refine Touches.mp (t := x) ?_ ?bb; case' bb => clear_value x; revert x; refine Touches.keep ?_; intro _ _)
    | exact Touches.refl _ _
    | assumption
    | refine Touches.ite (fun _ => ?_) (fun _ => ?_)
    | refine (setMac_touches ..).after (by decide) ?_
    | refine Touches.foldl (fun _ _ _ => ?_) ?_
    | extract_lets -underBinder
    | split
    | (conv => arg 3; dsimp -zeta -proj +zetaDelta only)

theorem macEnables_touches (p : Nat) (s : State) : Touches [.out, .reg, .irq, .net, .cpu] s (macEnables p s) := by
  unfold macEnables
  with_reducible repeat' first
    | (extract_lets -underBinder +onlyGivenNames x; refine Touches.mp (t := x) ?_ ?bb; case' bb => clear_value x; revert x; refine Touches.keep ?_; intro _ _)
    | exact Touches.refl _ _
    | assumption
    | refine Touches.ite (fun _ => ?_) (fun _ => ?_)
    | refine (setMac_touches ..).after (by decide) ?_
    | refine (flushQueues_touches ..).after (by decide) ?_
    | refine (txDrain_touches ..).after (by decide) ?_
    | refine Touches.foldl (fun _ _ _ => ?_) ?_
    | extract_lets -underBinder
    | split
    | (conv => arg 3; dsimp -zeta -proj +zetaDelta only)

theorem schedStage_touches (p : Nat) (s : State) : Touches [.net] s (schedStage p s) := by
  unfold schedStage
  with_reducible repeat' first
    | (extract_lets -underBinder +onlyGivenNames x; refine Touches.mp (t := x) ?_ ?bb; case' bb => clear_value x; revert x; refine Touches.keep ?_; intro _ _)
    | exact Touches.refl _ _
    | assumption
    | refine Touches.ite (fun _ => ?_) (fun _ => ?_)
    | refine (setSched_touches ..).after (by decide) ?_
    | refine Touches.foldl (fun _ _ _ => ?_) ?_
    | extract_lets -underBinder
    | split
    | (conv => arg 3; dsimp -zeta -proj +zetaDelta only)

theorem relocateOne_touches (s : State) (p : Nat) : Touches [.reg, .net] s (relocateOne s p) := by
  unfold relocateOne
  with_reducible repeat' first
    | exact Touches.refl _ _
    | assumption
    | refine Touches.ite (fun _ => ?_) (fun _ => ?_)
    | refine (bump_touches ..).after (by decide) ?_
    | refine (setSched_touches ..).after (by decide) ?_
    | refine Touches.foldl (fun _ _ _ => ?_) ?_
    | extract_lets -underBinder
    | split
    | (conv => arg 3; dsimp -zeta -proj +zetaDelta only)

theorem relocate_touches (s : State) : Touches [.reg, .net] s (relocate s) := by
  unfold relocate
  with_reducible repeat' first
    | exact Touches.refl _ _
    | assumption
    | refine Touches.ite (fun _ => ?_) (fun _ => ?_)
    | refine (relocateOne_touches ..).after (by decide) ?_
    | refine Touches.foldl (fun _ _ _ => ?_) ?_
    | extract_lets -underBinder
    | split
    | (conv => arg 3; dsimp -zeta -proj +zetaDelta only)

theorem execMacFrameReceive_answers (p : Fin 17) (f : Frame) (r : RxInfo) (s : State) : Answers [.now, .up, .free, .out, .reg, .irq, .log, .wak, .net, .cpu] s (execMacFrameReceive p f r s) := by
  unfold execMacFrameReceive
  with_reducible repeat' first
    | refine Answers.next ?_
    | refine Answers.ite (fun _ => ?_) (fun _ => ?_)
    | exact Touches.refl _ _
    | assumption
    | refine Touches.ite (fun _ => ?_) (fun _ => ?_)
    | refine (macReceive_touches ..).after (by decide) ?_
    | refine Touches.foldl (fun _ _ _ => ?_) ?_
    | extract_lets -underBinder
    | split
    | (conv => arg 3; dsimp -zeta -proj +zetaDelta only)

theorem execTransmitUnderrun_answers (p : Fin 17) (s : State) : Answers [.out, .reg, .irq, .net, .cpu] s (execTransmitUnderrun p s) := by
  unfold execTransmitUnderrun
  with_reducible repeat' first
    | refine Answers.next ?_
    | refine Answers.ite (fun _ => ?_) (fun _ => ?_)
    | exact Touches.refl _ _
    | assumption
    | refine Touches.ite (fun _ => ?_) (fun _ => ?_)
    | refine (countMac_touches ..).after (by decide) ?_
    | refine (settleWire_touches ..).after (by decide) ?_
    | refine (wireMark_touches ..).after (by decide) ?_
    | refine Touches.foldl (fun _ _ _ => ?_) ?_
    | extract_lets -underBinder
    | split
    | (conv => arg 3; dsimp -zeta -proj +zetaDelta only)

theorem execPauseReceive_answers (p : Fin 17) (time : BitVec 16) (s : State) : Answers [.now, .up, .free, .out, .reg, .irq, .log, .wak, .net, .cpu] s (execPauseReceive p time s) := by
  unfold execPauseReceive
  with_reducible repeat' first
    | (extract_lets -underBinder +onlyGivenNames x; (first | refine Answers.mp (t := x) ?_ ?bb | refine Touches.mp (t := x) ?_ ?bb); case' bb => clear_value x; revert x; refine Touches.keep ?_; intro _ _)
    | refine Answers.next ?_
    | refine Answers.ite (fun _ => ?_) (fun _ => ?_)
    | exact Touches.refl _ _
    | assumption
    | refine Touches.ite (fun _ => ?_) (fun _ => ?_)
    | refine (macReceive_touches ..).after (by decide) ?_
    | refine Touches.foldl (fun _ _ _ => ?_) ?_
    | extract_lets -underBinder
    | split
    | (conv => arg 3; dsimp -zeta -proj +zetaDelta only)

theorem execPauseTimerExpiry_answers (p : Fin 17) (s : State) : Answers [.now, .up, .out, .reg, .irq, .log, .net, .cpu] s (execPauseTimerExpiry p s) := by
  unfold execPauseTimerExpiry
  with_reducible repeat' first
    | (extract_lets -underBinder +onlyGivenNames x; (first | refine Answers.mp (t := x) ?_ ?bb | refine Touches.mp (t := x) ?_ ?bb); case' bb => clear_value x; revert x; refine Touches.keep ?_; intro _ _)
    | refine Answers.next ?_
    | refine Answers.ite (fun _ => ?_) (fun _ => ?_)
    | exact Touches.refl _ _
    | assumption
    | refine Touches.ite (fun _ => ?_) (fun _ => ?_)
    | refine (passTo_touches ..).after (by decide) ?_
    | refine (pauseEnd_touches ..).after (by decide) ?_
    | refine (settleWire_touches ..).after (by decide) ?_
    | refine Touches.foldl (fun _ _ _ => ?_) ?_
    | extract_lets -underBinder
    | split
    | (conv => arg 3; dsimp -zeta -proj +zetaDelta only)

theorem execPauseRefreshTimer_answers (p : Fin 17) (s : State) : Answers [.now, .up, .out, .reg, .irq, .log, .net, .cpu] s (execPauseRefreshTimer p s) := by
  unfold execPauseRefreshTimer
  with_reducible repeat' first
    | (extract_lets -underBinder +onlyGivenNames x; (first | refine Answers.mp (t := x) ?_ ?bb | refine Touches.mp (t := x) ?_ ?bb); case' bb => clear_value x; revert x; refine Touches.keep ?_; intro _ _)
    | refine Answers.next ?_
    | refine Answers.ite (fun _ => ?_) (fun _ => ?_)
    | exact Touches.refl _ _
    | assumption
    | refine Touches.ite (fun _ => ?_) (fun _ => ?_)
    | refine (passTo_touches ..).after (by decide) ?_
    | refine (pauseSend_touches ..).after (by decide) ?_
    | refine (flowApply_touches ..).after (by decide) ?_
    | refine Touches.foldl (fun _ _ _ => ?_) ?_
    | extract_lets -underBinder
    | split
    | (conv => arg 3; dsimp -zeta -proj +zetaDelta only)

theorem execPauseWatchdogExpiry_answers (p : Fin 17) (s : State) : Answers [.now, .up, .out, .reg, .irq, .log, .net, .cpu] s (execPauseWatchdogExpiry p s) := by
  unfold execPauseWatchdogExpiry
  with_reducible repeat' first
    | (extract_lets -underBinder +onlyGivenNames x; (first | refine Answers.mp (t := x) ?_ ?bb | refine Touches.mp (t := x) ?_ ?bb); case' bb => clear_value x; revert x; refine Touches.keep ?_; intro _ _)
    | refine Answers.next ?_
    | refine Answers.ite (fun _ => ?_) (fun _ => ?_)
    | exact Touches.refl _ _
    | assumption
    | refine Touches.ite (fun _ => ?_) (fun _ => ?_)
    | refine (raiseIrq_touches ..).after (by decide) ?_
    | refine (passTo_touches ..).after (by decide) ?_
    | refine (setMac_touches ..).after (by decide) ?_
    | refine (fire_touches ..).after (by decide) ?_
    | refine (countMac_touches ..).after (by decide) ?_
    | refine (pauseEnd_touches ..).after (by decide) ?_
    | refine (settleWire_touches ..).after (by decide) ?_
    | refine Touches.foldl (fun _ _ _ => ?_) ?_
    | ((conv => arg 3; arg 29); first | refine Touches.irq_set (by decide) ?_ | refine Touches.set rfl rfl rfl rfl rfl ?_)
    | extract_lets -underBinder
    | split
    | ((conv => arg 3; fail_if_success arg 1); refine Touches.set rfl rfl rfl rfl rfl ?_)
    | (conv => arg 3; dsimp -zeta -proj +zetaDelta only)

theorem execPauseWatchdogReset_answers (p : Fin 17) (s : State) : Answers [.now, .up, .out, .reg, .irq, .log, .net, .cpu] s (execPauseWatchdogReset p s) := by
  unfold execPauseWatchdogReset
  with_reducible repeat' first
    | (extract_lets -underBinder +onlyGivenNames x; (first | refine Answers.mp (t := x) ?_ ?bb | refine Touches.mp (t := x) ?_ ?bb); case' bb => clear_value x; revert x; refine Touches.keep ?_; intro _ _)
    | refine Answers.next ?_
    | refine Answers.ite (fun _ => ?_) (fun _ => ?_)
    | exact Touches.refl _ _
    | assumption
    | refine Touches.ite (fun _ => ?_) (fun _ => ?_)
    | refine (passTo_touches ..).after (by decide) ?_
    | refine (setMac_touches ..).after (by decide) ?_
    | refine (settleWire_touches ..).after (by decide) ?_
    | refine Touches.foldl (fun _ _ _ => ?_) ?_
    | extract_lets -underBinder
    | split
    | (conv => arg 3; dsimp -zeta -proj +zetaDelta only)

theorem execWdIgnoringExpiry_answers (p : Fin 17) (s : State) : Answers [.now, .up, .out, .reg, .irq, .log, .net, .cpu] s (execWdIgnoringExpiry p s) := by
  unfold execWdIgnoringExpiry
  with_reducible repeat' first
    | (extract_lets -underBinder +onlyGivenNames x; (first | refine Answers.mp (t := x) ?_ ?bb | refine Touches.mp (t := x) ?_ ?bb); case' bb => clear_value x; revert x; refine Touches.keep ?_; intro _ _)
    | refine Answers.next ?_
    | refine Answers.ite (fun _ => ?_) (fun _ => ?_)
    | exact Touches.refl _ _
    | assumption
    | refine Touches.ite (fun _ => ?_) (fun _ => ?_)
    | refine (passTo_touches ..).after (by decide) ?_
    | refine (setMac_touches ..).after (by decide) ?_
    | refine Touches.foldl (fun _ _ _ => ?_) ?_
    | extract_lets -underBinder
    | split
    | (conv => arg 3; dsimp -zeta -proj +zetaDelta only)

theorem macForceStop_touches (p : Nat) (s : State) : Touches [.out, .reg, .irq, .od, .net, .cpu] s (macForceStop p s) := by
  unfold macForceStop
  with_reducible repeat' first
    | (extract_lets -underBinder +onlyGivenNames x; refine Touches.mp (t := x) ?_ ?bb; case' bb => clear_value x; revert x; refine Touches.keep ?_; intro _ _)
    | exact Touches.refl _ _
    | assumption
    | refine Touches.ite (fun _ => ?_) (fun _ => ?_)
    | refine (applyVals_touches ..).after (by decide) ?_
    | refine (setMac_touches ..).after (by decide) ?_
    | refine (verifyStart_touches ..).after (by decide) ?_
    | refine (flowAll_touches ..).after (by decide) ?_
    | refine (settleWire_touches ..).after (by decide) ?_
    | refine (wireMark_touches ..).after (by decide) ?_
    | refine (flushQueues_touches ..).after (by decide) ?_
    | refine Touches.foldl (fun _ _ _ => ?_) ?_
    | extract_lets -underBinder
    | split
    | (conv => arg 3; dsimp -zeta -proj +zetaDelta only)

theorem execMacForceStop_answers (p : Fin 17) (s : State) : Answers [.out, .reg, .irq, .od, .net, .cpu] s (execMacForceStop p s) := by
  unfold execMacForceStop
  with_reducible repeat' first
    | refine Answers.next ?_
    | refine Answers.ite (fun _ => ?_) (fun _ => ?_)
    | exact Touches.refl _ _
    | assumption
    | refine Touches.ite (fun _ => ?_) (fun _ => ?_)
    | refine (macForceStop_touches ..).after (by decide) ?_
    | refine Touches.foldl (fun _ _ _ => ?_) ?_
    | extract_lets -underBinder
    | split
    | (conv => arg 3; dsimp -zeta -proj +zetaDelta only)

theorem execMacDrained_answers (p : Fin 17) (tx : Bool) (s : State) : Answers [.now, .up, .out, .reg, .irq, .log, .net, .cpu] s (execMacDrained p tx s) := by
  unfold execMacDrained
  with_reducible repeat' first
    | (extract_lets -underBinder +onlyGivenNames x; (first | refine Answers.mp (t := x) ?_ ?bb | refine Touches.mp (t := x) ?_ ?bb); case' bb => clear_value x; revert x; refine Touches.keep ?_; intro _ _)
    | refine Answers.next ?_
    | refine Answers.ite (fun _ => ?_) (fun _ => ?_)
    | exact Touches.refl _ _
    | assumption
    | refine Touches.ite (fun _ => ?_) (fun _ => ?_)
    | refine (passTo_touches ..).after (by decide) ?_
    | refine (setMac_touches ..).after (by decide) ?_
    | refine (pauseEnd_touches ..).after (by decide) ?_
    | refine (wireEnd_touches ..).after (by decide) ?_
    | refine (resumeRest_touches ..).after (by decide) ?_
    | refine (txDrain_touches ..).after (by decide) ?_
    | refine Touches.foldl (fun _ _ _ => ?_) ?_
    | extract_lets -underBinder
    | split
    | (conv => arg 3; dsimp -zeta -proj +zetaDelta only)

theorem startQueue_touches (p q : Nat) (s : State) : Touches [.out, .reg, .irq, .net, .cpu] s (startQueue p q s) := by
  unfold startQueue
  with_reducible repeat' first
    | (extract_lets -underBinder +onlyGivenNames x; refine Touches.mp (t := x) ?_ ?bb; case' bb => clear_value x; revert x; refine Touches.keep ?_; intro _ _)
    | exact Touches.refl _ _
    | assumption
    | refine Touches.ite (fun _ => ?_) (fun _ => ?_)
    | refine (bump_touches ..).after (by decide) ?_
    | refine (setMac_touches ..).after (by decide) ?_
    | refine (countMac_touches ..).after (by decide) ?_
    | refine (flowCheck_touches ..).after (by decide) ?_
    | refine (wireStart_touches ..).after (by decide) ?_
    | refine (countHold_touches ..).after (by decide) ?_
    | refine Touches.foldl (fun _ _ _ => ?_) ?_
    | extract_lets -underBinder
    | split
    | (conv => arg 3; dsimp -zeta -proj +zetaDelta only)

theorem execFrameTransmitStart_answers (p : Fin 17) (q : Fin 8) (s : State) : Answers [.now, .up, .out, .reg, .irq, .log, .net, .cpu] s (execFrameTransmitStart p q s) := by
  unfold execFrameTransmitStart
  with_reducible repeat' first
    | (extract_lets -underBinder +onlyGivenNames x; (first | refine Answers.mp (t := x) ?_ ?bb | refine Touches.mp (t := x) ?_ ?bb); case' bb => clear_value x; revert x; refine Touches.keep ?_; intro _ _)
    | refine Answers.next ?_
    | refine Answers.ite (fun _ => ?_) (fun _ => ?_)
    | exact Touches.refl _ _
    | assumption
    | refine Touches.ite (fun _ => ?_) (fun _ => ?_)
    | refine (passTo_touches ..).after (by decide) ?_
    | refine (wireEnd_touches ..).after (by decide) ?_
    | refine (countHold_touches ..).after (by decide) ?_
    | refine (resumeRest_touches ..).after (by decide) ?_
    | refine (startQueue_touches ..).after (by decide) ?_
    | refine Touches.foldl (fun _ _ _ => ?_) ?_
    | extract_lets -underBinder
    | split
    | (conv => arg 3; dsimp -zeta -proj +zetaDelta only)

theorem execExpressPreempt_answers (p : Fin 17) (q : Fin 8) (s : State) : Answers [.now, .up, .out, .reg, .irq, .log, .net, .cpu] s (execExpressPreempt p q s) := by
  unfold execExpressPreempt
  with_reducible repeat' first
    | (extract_lets -underBinder +onlyGivenNames x; (first | refine Answers.mp (t := x) ?_ ?bb | refine Touches.mp (t := x) ?_ ?bb); case' bb => clear_value x; revert x; refine Touches.keep ?_; intro _ _)
    | refine Answers.next ?_
    | refine Answers.ite (fun _ => ?_) (fun _ => ?_)
    | exact Touches.refl _ _
    | assumption
    | refine Touches.ite (fun _ => ?_) (fun _ => ?_)
    | refine (passTo_touches ..).after (by decide) ?_
    | refine (fragment_touches ..).after (by decide) ?_
    | refine (startQueue_touches ..).after (by decide) ?_
    | refine Touches.foldl (fun _ _ _ => ?_) ?_
    | extract_lets -underBinder
    | split
    | (conv => arg 3; dsimp -zeta -proj +zetaDelta only)

theorem execVerifyMpacketReceive_answers (p : Fin 17) (s : State) : Answers [.out] s (execVerifyMpacketReceive p s) := by
  unfold execVerifyMpacketReceive
  with_reducible repeat' first
    | refine Answers.next ?_
    | refine Answers.ite (fun _ => ?_) (fun _ => ?_)
    | exact Touches.refl _ _
    | assumption
    | refine Touches.ite (fun _ => ?_) (fun _ => ?_)
    | refine (emit_touches ..).after (by decide) ?_
    | refine Touches.foldl (fun _ _ _ => ?_) ?_
    | extract_lets -underBinder
    | split
    | (conv => arg 3; dsimp -zeta -proj +zetaDelta only)

theorem execVerifyRespondReceive_answers (p : Fin 17) (s : State) : Answers [.net] s (execVerifyRespondReceive p s) := by
  unfold execVerifyRespondReceive
  with_reducible repeat' first
    | (extract_lets -underBinder +onlyGivenNames x; (first | refine Answers.mp (t := x) ?_ ?bb | refine Touches.mp (t := x) ?_ ?bb); case' bb => clear_value x; revert x; refine Touches.keep ?_; intro _ _)
    | refine Answers.next ?_
    | refine Answers.ite (fun _ => ?_) (fun _ => ?_)
    | exact Touches.refl _ _
    | assumption
    | refine Touches.ite (fun _ => ?_) (fun _ => ?_)
    | refine (setSched_touches ..).after (by decide) ?_
    | refine Touches.foldl (fun _ _ _ => ?_) ?_
    | extract_lets -underBinder
    | split
    | (conv => arg 3; dsimp -zeta -proj +zetaDelta only)

theorem execVerifyTimer_answers (p : Fin 17) (s : State) : Answers [.now, .up, .out, .reg, .irq, .log, .net, .cpu] s (execVerifyTimer p s) := by
  unfold execVerifyTimer
  with_reducible repeat' first
    | (extract_lets -underBinder +onlyGivenNames x; (first | refine Answers.mp (t := x) ?_ ?bb | refine Touches.mp (t := x) ?_ ?bb); case' bb => clear_value x; revert x; refine Touches.keep ?_; intro _ _)
    | refine Answers.next ?_
    | refine Answers.ite (fun _ => ?_) (fun _ => ?_)
    | exact Touches.refl _ _
    | assumption
    | refine Touches.ite (fun _ => ?_) (fun _ => ?_)
    | refine (passTo_touches ..).after (by decide) ?_
    | refine (verifySend_touches ..).after (by decide) ?_
    | refine (verifyFail_touches ..).after (by decide) ?_
    | refine Touches.foldl (fun _ _ _ => ?_) ?_
    | extract_lets -underBinder
    | split
    | (conv => arg 3; dsimp -zeta -proj +zetaDelta only)

theorem verifyRestart_touches (p : Nat) (s : State) : Touches [.out, .net] s (verifyRestart p s) := by
  unfold verifyRestart
  with_reducible repeat' first
    | exact Touches.refl _ _
    | assumption
    | refine Touches.ite (fun _ => ?_) (fun _ => ?_)
    | refine (setSched_touches ..).after (by decide) ?_
    | refine (verifySend_touches ..).after (by decide) ?_
    | refine Touches.foldl (fun _ _ _ => ?_) ?_
    | extract_lets -underBinder
    | split
    | (conv => arg 3; dsimp -zeta -proj +zetaDelta only)

theorem execVerifyRestart_answers (p : Fin 17) (s : State) : Answers [.out, .net] s (execVerifyRestart p s) := by
  unfold execVerifyRestart
  with_reducible repeat' first
    | refine Answers.next ?_
    | refine Answers.ite (fun _ => ?_) (fun _ => ?_)
    | exact Touches.refl _ _
    | assumption
    | refine Touches.ite (fun _ => ?_) (fun _ => ?_)
    | refine (verifyRestart_touches ..).after (by decide) ?_
    | refine Touches.foldl (fun _ _ _ => ?_) ?_
    | extract_lets -underBinder
    | split
    | (conv => arg 3; dsimp -zeta -proj +zetaDelta only)

theorem execPreemptTlvReceive_answers (p : Fin 17) (supported : Bool) (s : State) : Answers [.out, .reg, .irq, .log, .net, .cpu] s (execPreemptTlvReceive p supported s) := by
  unfold execPreemptTlvReceive
  with_reducible repeat' first
    | refine Answers.next ?_
    | refine Answers.ite (fun _ => ?_) (fun _ => ?_)
    | exact Touches.refl _ _
    | assumption
    | refine Touches.ite (fun _ => ?_) (fun _ => ?_)
    | refine (verifyFail_touches ..).after (by decide) ?_
    | refine Touches.foldl (fun _ _ _ => ?_) ?_
    | extract_lets -underBinder
    | split
    | (conv => arg 3; dsimp -zeta -proj +zetaDelta only)

theorem execCutThroughIngressPreempt_answers (ingress o : Fin 17) (s : State) : Answers [.now, .up, .out, .reg, .irq, .log, .net, .cpu] s (execCutThroughIngressPreempt ingress o s) := by
  unfold execCutThroughIngressPreempt
  with_reducible repeat' first
    | (extract_lets -underBinder +onlyGivenNames x; (first | refine Answers.mp (t := x) ?_ ?bb | refine Touches.mp (t := x) ?_ ?bb); case' bb => clear_value x; revert x; refine Touches.keep ?_; intro _ _)
    | refine Answers.next ?_
    | refine Answers.ite (fun _ => ?_) (fun _ => ?_)
    | exact Touches.refl _ _
    | assumption
    | refine Touches.ite (fun _ => ?_) (fun _ => ?_)
    | refine (setMac_touches ..).after (by decide) ?_
    | refine (countMac_touches ..).after (by decide) ?_
    | refine (fragment_touches ..).after (by decide) ?_
    | refine (wireMark_touches ..).after (by decide) ?_
    | refine Touches.foldl (fun _ _ _ => ?_) ?_
    | extract_lets -underBinder
    | split
    | (conv => arg 3; dsimp -zeta -proj +zetaDelta only)

theorem execGateEntryBoundary_answers (p : Fin 17) (s : State) : Answers [.now, .up, .out, .reg, .irq, .log, .net, .cpu] s (execGateEntryBoundary p s) := by
  unfold execGateEntryBoundary
  with_reducible repeat' first
    | (extract_lets -underBinder +onlyGivenNames x; (first | refine Answers.mp (t := x) ?_ ?bb | refine Touches.mp (t := x) ?_ ?bb); case' bb => clear_value x; revert x; refine Touches.keep ?_; intro _ _)
    | refine Answers.next ?_
    | refine Answers.ite (fun _ => ?_) (fun _ => ?_)
    | exact Touches.refl _ _
    | assumption
    | refine Touches.ite (fun _ => ?_) (fun _ => ?_)
    | refine (passToInstant_touches ..).after (by decide) ?_
    | refine (setSched_touches ..).after (by decide) ?_
    | refine Touches.foldl (fun _ _ _ => ?_) ?_
    | extract_lets -underBinder
    | split
    | (conv => arg 3; dsimp -zeta -proj +zetaDelta only)

theorem scheduleSwitch_touches (p : Nat) (s : State) : Touches [.out, .reg, .irq, .net, .cpu] s (scheduleSwitch p s) := by
  unfold scheduleSwitch
  with_reducible repeat' first
    | exact Touches.refl _ _
    | assumption
    | refine Touches.ite (fun _ => ?_) (fun _ => ?_)
    | refine (bump_touches ..).after (by decide) ?_
    | refine (raiseIrq_touches ..).after (by decide) ?_
    | refine (setSched_touches ..).after (by decide) ?_
    | refine Touches.foldl (fun _ _ _ => ?_) ?_
    | extract_lets -underBinder
    | split
    | (conv => arg 3; dsimp -zeta -proj +zetaDelta only)

theorem execScheduleSwitch_answers (p : Fin 17) (s : State) : Answers [.now, .up, .out, .reg, .irq, .log, .net, .cpu] s (execScheduleSwitch p s) := by
  unfold execScheduleSwitch
  with_reducible repeat' first
    | refine Answers.next ?_
    | refine Answers.ite (fun _ => ?_) (fun _ => ?_)
    | exact Touches.refl _ _
    | assumption
    | refine Touches.ite (fun _ => ?_) (fun _ => ?_)
    | refine (passToInstant_touches ..).after (by decide) ?_
    | refine (scheduleSwitch_touches ..).after (by decide) ?_
    | refine Touches.foldl (fun _ _ _ => ?_) ?_
    | extract_lets -underBinder
    | split
    | (conv => arg 3; dsimp -zeta -proj +zetaDelta only)

end Sys2Proof.Machine
end

