-- ==== Sys2Proof/Laws/TrainLines.lean ====
section
/-!
SUPPORT. Laws/TrainLines.lean: the frame of every operation of Machine/TrainLines.lean: which parts of the state it may change, and that it keeps the bounds.
-/
namespace Sys2Proof.Machine

set_option Elab.async false
set_option linter.all false

theorem setIn_touches (i : Nat) (x : InSt) (s : State) : Touches [.tln] s (setIn i x s) := by
  unfold setIn
  with_reducible repeat' first
    | exact Touches.refl _ _
    | assumption
    | refine Touches.ite (fun _ => ?_) (fun _ => ?_)
    | refine Touches.foldl (fun _ _ _ => ?_) ?_
    | ((conv => arg 3; arg 29); first | refine Touches.set rfl rfl rfl rfl rfl ?_)
    | extract_lets -underBinder
    | split
    | ((conv => arg 3; fail_if_success arg 1); refine Touches.set rfl rfl rfl rfl rfl ?_)
    | (conv => arg 3; dsimp -zeta -proj +zetaDelta only)

theorem setOut_touches (k : Nat) (o : OutSt) (s : State) : Touches [.tln] s (setOut k o s) := by
  unfold setOut
  with_reducible repeat' first
    | exact Touches.refl _ _
    | assumption
    | refine Touches.ite (fun _ => ?_) (fun _ => ?_)
    | refine Touches.foldl (fun _ _ _ => ?_) ?_
    | ((conv => arg 3; arg 29); first | refine Touches.set rfl rfl rfl rfl rfl ?_)
    | extract_lets -underBinder
    | split
    | ((conv => arg 3; fail_if_success arg 1); refine Touches.set rfl rfl rfl rfl rfl ?_)
    | (conv => arg 3; dsimp -zeta -proj +zetaDelta only)

theorem setCs_touches (c : Nat) (x : CsSt) (s : State) : Touches [.tln] s (setCs c x s) := by
  unfold setCs
  with_reducible repeat' first
    | exact Touches.refl _ _
    | assumption
    | refine Touches.ite (fun _ => ?_) (fun _ => ?_)
    | refine Touches.foldl (fun _ _ _ => ?_) ?_
    | ((conv => arg 3; arg 29); first | refine Touches.set rfl rfl rfl rfl rfl ?_)
    | extract_lets -underBinder
    | split
    | ((conv => arg 3; fail_if_success arg 1); refine Touches.set rfl rfl rfl rfl rfl ?_)
    | (conv => arg 3; dsimp -zeta -proj +zetaDelta only)

theorem fireTrainFault_touches (kind chan bit v : Nat) (s : State) : Touches [.out, .reg, .irq, .log, .cpu] s (fireTrainFault kind chan bit v s) := by
  unfold fireTrainFault
  with_reducible repeat' first
    | exact Touches.refl _ _
    | assumption
    | refine Touches.ite (fun _ => ?_) (fun _ => ?_)
    | refine (fire_touches ..).after (by decide) ?_
    | refine Touches.foldl (fun _ _ _ => ?_) ?_
    | extract_lets -underBinder
    | split
    | (conv => arg 3; dsimp -zeta -proj +zetaDelta only)

theorem followOne_touches (s : State) (k : Nat) : Touches [.tln] s (followOne s k) := by
  unfold followOne
  with_reducible repeat' first
    | (extract_lets -underBinder +onlyGivenNames x; refine Touches.mp (t := x) ?_ ?bb; case' bb => clear_value x; revert x; refine Touches.keep ?_; intro _ _)
    | exact Touches.refl _ _
    | assumption
    | refine Touches.ite (fun _ => ?_) (fun _ => ?_)
    | refine (setOut_touches ..).after (by decide) ?_
    | refine Touches.foldl (fun _ _ _ => ?_) ?_
    | extract_lets -underBinder
    | split
    | (conv => arg 3; dsimp -zeta -proj +zetaDelta only)

theorem noteDriven_touches (old s : State) : Touches [.tln] s (noteDriven old s) := by
  unfold noteDriven
  with_reducible repeat' first
    | exact Touches.refl _ _
    | assumption
    | refine Touches.ite (fun _ => ?_) (fun _ => ?_)
    | refine (setOut_touches ..).after (by decide) ?_
    | refine Touches.foldl (fun _ _ _ => ?_) ?_
    | extract_lets -underBinder
    | split
    | (conv => arg 3; dsimp -zeta -proj +zetaDelta only)

theorem followAll_touches (s : State) : Touches [.tln] s (followAll s) := by
  unfold followAll
  with_reducible repeat' first
    | exact Touches.refl _ _
    | assumption
    | refine Touches.ite (fun _ => ?_) (fun _ => ?_)
    | refine (followOne_touches ..).after (by decide) ?_
    | refine (noteDriven_touches ..).after (by decide) ?_
    | refine Touches.foldl (fun _ _ _ => ?_) ?_
    | extract_lets -underBinder
    | split
    | (conv => arg 3; dsimp -zeta -proj +zetaDelta only)

theorem inputFollows_touches (i : Nat) (s : State) : Touches [.tln] s (inputFollows i s) := by
  unfold inputFollows
  with_reducible repeat' first
    | (extract_lets -underBinder +onlyGivenNames x; refine Touches.mp (t := x) ?_ ?bb; case' bb => clear_value x; revert x; refine Touches.keep ?_; intro _ _)
    | exact Touches.refl _ _
    | assumption
    | refine Touches.ite (fun _ => ?_) (fun _ => ?_)
    | refine (setIn_touches ..).after (by decide) ?_
    | refine Touches.foldl (fun _ _ _ => ?_) ?_
    | extract_lets -underBinder
    | split
    | (conv => arg 3; dsimp -zeta -proj +zetaDelta only)

theorem holdOutputs_touches (s : State) : Touches [.tln] s (holdOutputs s) := by
  unfold holdOutputs
  with_reducible repeat' first
    | exact Touches.refl _ _
    | assumption
    | refine Touches.ite (fun _ => ?_) (fun _ => ?_)
    | refine (setOut_touches ..).after (by decide) ?_
    | refine Touches.foldl (fun _ _ _ => ?_) ?_
    | extract_lets -underBinder
    | split
    | (conv => arg 3; dsimp -zeta -proj +zetaDelta only)

theorem edgeEvent_touches (i : Nat) (rising : Bool) (ts : Word) (s : State) : Touches [.out, .reg, .irq, .log, .tln, .cpu] s (edgeEvent i rising ts s) := by
  unfold edgeEvent
  with_reducible repeat' first
    | (extract_lets -underBinder +onlyGivenNames x; refine Touches.mp (t := x) ?_ ?bb; case' bb => clear_value x; revert x; refine Touches.keep ?_; intro _ _)
    | exact Touches.refl _ _
    | assumption
    | refine Touches.ite (fun _ => ?_) (fun _ => ?_)
    | refine (bump_touches ..).after (by decide) ?_
    | refine (raiseIrq_touches ..).after (by decide) ?_
    | refine (fire_touches ..).after (by decide) ?_
    | refine Touches.foldl (fun _ _ _ => ?_) ?_
    | ((conv => arg 3; arg 29); first | refine Touches.set rfl rfl rfl rfl rfl ?_)
    | extract_lets -underBinder
    | split
    | ((conv => arg 3; fail_if_success arg 1); refine Touches.set rfl rfl rfl rfl rfl ?_)
    | (conv => arg 3; dsimp -zeta -proj +zetaDelta only)

theorem measureOut_touches (k : Nat) (current : BitVec 16) (s : State) : Touches [.free, .tln] s (measureOut k current s) := by
  unfold measureOut
  with_reducible repeat' first
    | (extract_lets -underBinder +onlyGivenNames x; refine Touches.mp (t := x) ?_ ?bb; case' bb => clear_value x; revert x; refine Touches.keep ?_; intro _ _)
    | exact Touches.refl _ _
    | assumption
    | refine Touches.ite (fun _ => ?_) (fun _ => ?_)
    | refine (nextFree_touches ..).after (by decide) ?_
    | refine (Touches.ofPair ‹nextFree _ = _› (nextFree_touches ..)).after (by decide) ?_
    | refine (setOut_touches ..).after (by decide) ?_
    | refine Touches.foldl (fun _ _ _ => ?_) ?_
    | extract_lets -underBinder
    | split
    | (conv => arg 3; dsimp -zeta -proj +zetaDelta only)

theorem inputStart_touches (i : Nat) (s : State) : Touches [.tln] s (inputStart i s) := by
  unfold inputStart
  with_reducible repeat' first
    | (extract_lets -underBinder +onlyGivenNames x; refine Touches.mp (t := x) ?_ ?bb; case' bb => clear_value x; revert x; refine Touches.keep ?_; intro _ _)
    | exact Touches.refl _ _
    | assumption
    | refine Touches.ite (fun _ => ?_) (fun _ => ?_)
    | refine (setIn_touches ..).after (by decide) ?_
    | refine Touches.foldl (fun _ _ _ => ?_) ?_
    | extract_lets -underBinder
    | split
    | (conv => arg 3; dsimp -zeta -proj +zetaDelta only)

theorem trainLinesLost_touches (s : State) : Touches [.tln] s (trainLinesLost s) := by
  unfold trainLinesLost
  with_reducible repeat' first
    | (extract_lets -underBinder +onlyGivenNames x; refine Touches.mp (t := x) ?_ ?bb; case' bb => clear_value x; revert x; refine Touches.keep ?_; intro _ _)
    | exact Touches.refl _ _
    | assumption
    | refine Touches.ite (fun _ => ?_) (fun _ => ?_)
    | refine (setIn_touches ..).after (by decide) ?_
    | refine (setOut_touches ..).after (by decide) ?_
    | refine (inputStart_touches ..).after (by decide) ?_
    | refine Touches.foldl (fun _ _ _ => ?_) ?_
    | extract_lets -underBinder
    | split
    | (conv => arg 3; dsimp -zeta -proj +zetaDelta only)

theorem invertApply_touches (i : Nat) (s : State) : Touches [.tln] s (invertApply i s) := by
  unfold invertApply
  with_reducible repeat' first
    | (extract_lets -underBinder +onlyGivenNames x; refine Touches.mp (t := x) ?_ ?bb; case' bb => clear_value x; revert x; refine Touches.keep ?_; intro _ _)
    | exact Touches.refl _ _
    | assumption
    | refine Touches.ite (fun _ => ?_) (fun _ => ?_)
    | refine (setIn_touches ..).after (by decide) ?_
    | refine (inputFollows_touches ..).after (by decide) ?_
    | refine Touches.foldl (fun _ _ _ => ?_) ?_
    | extract_lets -underBinder
    | split
    | (conv => arg 3; dsimp -zeta -proj +zetaDelta only)

theorem inputApply_touches (old : State) (keys : List Nat) (s : State) (i : Nat) : Touches [.tln] s (inputApply old keys s i) := by
  unfold inputApply
  with_reducible repeat' first
    | (extract_lets -underBinder +onlyGivenNames x; refine Touches.mp (t := x) ?_ ?bb; case' bb => clear_value x; revert x; refine Touches.keep ?_; intro _ _)
    | exact Touches.refl _ _
    | assumption
    | refine Touches.ite (fun _ => ?_) (fun _ => ?_)
    | refine (setIn_touches ..).after (by decide) ?_
    | refine (inputStart_touches ..).after (by decide) ?_
    | refine (invertApply_touches ..).after (by decide) ?_
    | refine Touches.foldl (fun _ _ _ => ?_) ?_
    | extract_lets -underBinder
    | split
    | (conv => arg 3; dsimp -zeta -proj +zetaDelta only)

theorem outFaultReport_touches (k bit cnt : Nat) (s : State) : Touches [.out, .reg, .irq, .log, .cpu] s (outFaultReport k bit cnt s) := by
  unfold outFaultReport
  with_reducible repeat' first
    | exact Touches.refl _ _
    | assumption
    | refine Touches.ite (fun _ => ?_) (fun _ => ?_)
    | refine (bump_touches ..).after (by decide) ?_
    | refine (raiseIrq_touches ..).after (by decide) ?_
    | refine (fireTrainFault_touches ..).after (by decide) ?_
    | refine Touches.foldl (fun _ _ _ => ?_) ?_
    | extract_lets -underBinder
    | split
    | (conv => arg 3; dsimp -zeta -proj +zetaDelta only)

theorem setOutCmd_touches (v : Byte) (s : State) : Touches [.tln] s (setOutCmd v s) := by
  unfold setOutCmd
  with_reducible repeat' first
    | exact Touches.refl _ _
    | assumption
    | refine Touches.ite (fun _ => ?_) (fun _ => ?_)
    | refine (noteDriven_touches ..).after (by decide) ?_
    | refine Touches.foldl (fun _ _ _ => ?_) ?_
    | ((conv => arg 3; arg 29); first | refine Touches.set rfl rfl rfl rfl rfl ?_)
    | extract_lets -underBinder
    | split
    | ((conv => arg 3; fail_if_success arg 1); refine Touches.set rfl rfl rfl rfl rfl ?_)
    | (conv => arg 3; dsimp -zeta -proj +zetaDelta only)

theorem loseWrites_touches (s : State) : Touches [.tln] s (loseWrites s) := by
  unfold loseWrites
  with_reducible repeat' first
    | exact Touches.refl _ _
    | assumption
    | refine Touches.ite (fun _ => ?_) (fun _ => ?_)
    | refine Touches.foldl (fun _ _ _ => ?_) ?_
    | ((conv => arg 3; arg 29); first | refine Touches.set rfl rfl rfl rfl rfl ?_)
    | extract_lets -underBinder
    | split
    | ((conv => arg 3; fail_if_success arg 1); refine Touches.set rfl rfl rfl rfl rfl ?_)
    | (conv => arg 3; dsimp -zeta -proj +zetaDelta only)

theorem doForceSafe_touches (s : State) : Touches [.tln] s (doForceSafe s) := by
  unfold doForceSafe
  with_reducible repeat' first
    | exact Touches.refl _ _
    | assumption
    | refine Touches.ite (fun _ => ?_) (fun _ => ?_)
    | refine (noteDriven_touches ..).after (by decide) ?_
    | refine (holdOutputs_touches ..).after (by decide) ?_
    | refine Touches.foldl (fun _ _ _ => ?_) ?_
    | ((conv => arg 3; arg 29); first | refine Touches.set rfl rfl rfl rfl rfl ?_)
    | extract_lets -underBinder
    | split
    | ((conv => arg 3; fail_if_success arg 1); refine Touches.set rfl rfl rfl rfl rfl ?_)
    | (conv => arg 3; dsimp -zeta -proj +zetaDelta only)

theorem doResume_touches (s : State) : Touches [.tln] s (doResume s) := by
  unfold doResume
  with_reducible repeat' first
    | exact Touches.refl _ _
    | assumption
    | refine Touches.ite (fun _ => ?_) (fun _ => ?_)
    | refine (noteDriven_touches ..).after (by decide) ?_
    | refine Touches.foldl (fun _ _ _ => ?_) ?_
    | ((conv => arg 3; arg 29); first | refine Touches.set rfl rfl rfl rfl rfl ?_)
    | extract_lets -underBinder
    | split
    | ((conv => arg 3; fail_if_success arg 1); refine Touches.set rfl rfl rfl rfl rfl ?_)
    | (conv => arg 3; dsimp -zeta -proj +zetaDelta only)

theorem doTripClear_touches (k : Nat) (s : State) : Touches [.tln] s (doTripClear k s) := by
  unfold doTripClear
  with_reducible repeat' first
    | (extract_lets -underBinder +onlyGivenNames x; refine Touches.mp (t := x) ?_ ?bb; case' bb => clear_value x; revert x; refine Touches.keep ?_; intro _ _)
    | exact Touches.refl _ _
    | assumption
    | refine Touches.ite (fun _ => ?_) (fun _ => ?_)
    | refine (setOut_touches ..).after (by decide) ?_
    | refine (noteDriven_touches ..).after (by decide) ?_
    | refine Touches.foldl (fun _ _ _ => ?_) ?_
    | extract_lets -underBinder
    | split
    | (conv => arg 3; dsimp -zeta -proj +zetaDelta only)

theorem execDebounceRunComplete_answers (i : Fin 16) (above : Bool) (ts : Word) (level : BitVec 16) (s : State) : Answers [.free, .out, .node, .reg, .irq, .log, .tln, .net, .ina, .spl, .cpu] s (execDebounceRunComplete i above ts level s) := by
  unfold execDebounceRunComplete
  with_reducible repeat' first
    | (extract_lets -underBinder +onlyGivenNames x; (first | refine Answers.mp (t := x) ?_ ?bb | refine Touches.mp (t := x) ?_ ?bb); case' bb => clear_value x; revert x; refine Touches.keep ?_; intro _ _)
    | refine Answers.next ?_
    | refine Answers.ite (fun _ => ?_) (fun _ => ?_)
    | exact Touches.refl _ _
    | assumption
    | refine Touches.ite (fun _ => ?_) (fun _ => ?_)
    | refine (recordChanged_touches ..).after (by decide) ?_
    | refine (setIn_touches ..).after (by decide) ?_
    | refine (followAll_touches ..).after (by decide) ?_
    | refine (inputFollows_touches ..).after (by decide) ?_
    | refine (edgeEvent_touches ..).after (by decide) ?_
    | refine Touches.foldl (fun _ _ _ => ?_) ?_
    | extract_lets -underBinder
    | split
    | (conv => arg 3; dsimp -zeta -proj +zetaDelta only)

theorem execThresholdUpdate_answers (i : Fin 16) (whole : Bool) (samples : List (BitVec 16)) (s : State) : Answers [.now, .up, .out, .reg, .irq, .log, .tln, .cpu] s (execThresholdUpdate i whole samples s) := by
  unfold execThresholdUpdate
  with_reducible repeat' first
    | (extract_lets -underBinder +onlyGivenNames x; (first | refine Answers.mp (t := x) ?_ ?bb | refine Touches.mp (t := x) ?_ ?bb); case' bb => clear_value x; revert x; refine Touches.keep ?_; intro _ _)
    | refine Answers.next ?_
    | refine Answers.ite (fun _ => ?_) (fun _ => ?_)
    | exact Touches.refl _ _
    | assumption
    | refine Touches.ite (fun _ => ?_) (fun _ => ?_)
    | refine (toFrame_touches ..).after (by decide) ?_
    | refine (setIn_touches ..).after (by decide) ?_
    | refine Touches.foldl (fun _ _ _ => ?_) ?_
    | extract_lets -underBinder
    | split
    | (conv => arg 3; dsimp -zeta -proj +zetaDelta only)

theorem execSwingLowTimer_answers (i : Fin 16) (recovered : Bool) (s : State) : Answers [.now, .up, .out, .reg, .irq, .log, .tln, .cpu] s (execSwingLowTimer i recovered s) := by
  unfold execSwingLowTimer
  with_reducible repeat' first
    | (extract_lets -underBinder +onlyGivenNames x; (first | refine Answers.mp (t := x) ?_ ?bb | refine Touches.mp (t := x) ?_ ?bb); case' bb => clear_value x; revert x; refine Touches.keep ?_; intro _ _)
    | refine Answers.next ?_
    | refine Answers.ite (fun _ => ?_) (fun _ => ?_)
    | exact Touches.refl _ _
    | assumption
    | refine Touches.ite (fun _ => ?_) (fun _ => ?_)
    | refine (bump_touches ..).after (by decide) ?_
    | refine (passTo_touches ..).after (by decide) ?_
    | refine (setIn_touches ..).after (by decide) ?_
    | refine (fireTrainFault_touches ..).after (by decide) ?_
    | refine (followAll_touches ..).after (by decide) ?_
    | refine (inputFollows_touches ..).after (by decide) ?_
    | refine Touches.foldl (fun _ _ _ => ?_) ?_
    | extract_lets -underBinder
    | split
    | (conv => arg 3; dsimp -zeta -proj +zetaDelta only)

theorem execInputOverrange_answers (i : Fin 16) (level : BitVec 16) (s : State) : Answers [.out, .reg, .irq, .log, .tln, .cpu] s (execInputOverrange i level s) := by
  unfold execInputOverrange
  with_reducible repeat' first
    | (extract_lets -underBinder +onlyGivenNames x; (first | refine Answers.mp (t := x) ?_ ?bb | refine Touches.mp (t := x) ?_ ?bb); case' bb => clear_value x; revert x; refine Touches.keep ?_; intro _ _)
    | refine Answers.next ?_
    | refine Answers.ite (fun _ => ?_) (fun _ => ?_)
    | exact Touches.refl _ _
    | assumption
    | refine Touches.ite (fun _ => ?_) (fun _ => ?_)
    | refine (bump_touches ..).after (by decide) ?_
    | refine (setIn_touches ..).after (by decide) ?_
    | refine (fireTrainFault_touches ..).after (by decide) ?_
    | refine Touches.foldl (fun _ _ _ => ?_) ?_
    | extract_lets -underBinder
    | split
    | (conv => arg 3; dsimp -zeta -proj +zetaDelta only)

theorem execCsOvervolt_answers (c : Fin 4) (s : State) : Answers [.out, .reg, .irq, .log, .tln, .cpu] s (execCsOvervolt c s) := by
  unfold execCsOvervolt
  with_reducible repeat' first
    | (extract_lets -underBinder +onlyGivenNames x; (first | refine Answers.mp (t := x) ?_ ?bb | refine Touches.mp (t := x) ?_ ?bb); case' bb => clear_value x; revert x; refine Touches.keep ?_; intro _ _)
    | refine Answers.next ?_
    | refine Answers.ite (fun _ => ?_) (fun _ => ?_)
    | exact Touches.refl _ _
    | assumption
    | refine Touches.ite (fun _ => ?_) (fun _ => ?_)
    | refine (bump_touches ..).after (by decide) ?_
    | refine (setCs_touches ..).after (by decide) ?_
    | refine (fireTrainFault_touches ..).after (by decide) ?_
    | refine Touches.foldl (fun _ _ _ => ?_) ?_
    | extract_lets -underBinder
    | split
    | (conv => arg 3; dsimp -zeta -proj +zetaDelta only)

theorem execOutputTrip_answers (k : Fin 8) (current : BitVec 16) (s : State) : Answers [.free, .out, .reg, .irq, .log, .tln, .cpu] s (execOutputTrip k current s) := by
  unfold execOutputTrip
  with_reducible repeat' first
    | (extract_lets -underBinder +onlyGivenNames x; (first | refine Answers.mp (t := x) ?_ ?bb | refine Touches.mp (t := x) ?_ ?bb); case' bb => clear_value x; revert x; refine Touches.keep ?_; intro _ _)
    | refine Answers.next ?_
    | refine Answers.ite (fun _ => ?_) (fun _ => ?_)
    | exact Touches.refl _ _
    | assumption
    | refine Touches.ite (fun _ => ?_) (fun _ => ?_)
    | refine (setOut_touches ..).after (by decide) ?_
    | refine (measureOut_touches ..).after (by decide) ?_
    | refine (outFaultReport_touches ..).after (by decide) ?_
    | refine Touches.foldl (fun _ _ _ => ?_) ?_
    | extract_lets -underBinder
    | split
    | (conv => arg 3; dsimp -zeta -proj +zetaDelta only)

theorem execOutputRetry_answers (k : Fin 8) (s : State) : Answers [.now, .up, .out, .reg, .irq, .log, .tln, .cpu] s (execOutputRetry k s) := by
  unfold execOutputRetry
  with_reducible repeat' first
    | (extract_lets -underBinder +onlyGivenNames x; (first | refine Answers.mp (t := x) ?_ ?bb | refine Touches.mp (t := x) ?_ ?bb); case' bb => clear_value x; revert x; refine Touches.keep ?_; intro _ _)
    | refine Answers.next ?_
    | refine Answers.ite (fun _ => ?_) (fun _ => ?_)
    | exact Touches.refl _ _
    | assumption
    | refine Touches.ite (fun _ => ?_) (fun _ => ?_)
    | refine (passTo_touches ..).after (by decide) ?_
    | refine (setOut_touches ..).after (by decide) ?_
    | refine Touches.foldl (fun _ _ _ => ?_) ?_
    | extract_lets -underBinder
    | split
    | (conv => arg 3; dsimp -zeta -proj +zetaDelta only)

theorem execTripClear_answers (k : Fin 8) (s : State) : Answers [.tln] s (execTripClear k s) := by
  unfold execTripClear
  with_reducible repeat' first
    | refine Answers.next ?_
    | refine Answers.ite (fun _ => ?_) (fun _ => ?_)
    | exact Touches.refl _ _
    | assumption
    | refine Touches.ite (fun _ => ?_) (fun _ => ?_)
    | refine (doTripClear_touches ..).after (by decide) ?_
    | refine Touches.foldl (fun _ _ _ => ?_) ?_
    | extract_lets -underBinder
    | split
    | (conv => arg 3; dsimp -zeta -proj +zetaDelta only)

theorem execOpenLoad_answers (k : Fin 8) (current : BitVec 16) (s : State) : Answers [.free, .out, .reg, .irq, .log, .tln, .cpu] s (execOpenLoad k current s) := by
  unfold execOpenLoad
  with_reducible repeat' first
    | refine Answers.next ?_
    | refine Answers.ite (fun _ => ?_) (fun _ => ?_)
    | exact Touches.refl _ _
    | assumption
    | refine Touches.ite (fun _ => ?_) (fun _ => ?_)
    | refine (setOut_touches ..).after (by decide) ?_
    | refine (measureOut_touches ..).after (by decide) ?_
    | refine (outFaultReport_touches ..).after (by decide) ?_
    | refine Touches.foldl (fun _ _ _ => ?_) ?_
    | extract_lets -underBinder
    | split
    | (conv => arg 3; dsimp -zeta -proj +zetaDelta only)

theorem execStuckOn_answers (k : Fin 8) (current : BitVec 16) (s : State) : Answers [.free, .out, .reg, .irq, .log, .tln, .cpu] s (execStuckOn k current s) := by
  unfold execStuckOn
  with_reducible repeat' first
    | refine Answers.next ?_
    | refine Answers.ite (fun _ => ?_) (fun _ => ?_)
    | exact Touches.refl _ _
    | assumption
    | refine Touches.ite (fun _ => ?_) (fun _ => ?_)
    | refine (setOut_touches ..).after (by decide) ?_
    | refine (measureOut_touches ..).after (by decide) ?_
    | refine (outFaultReport_touches ..).after (by decide) ?_
    | refine Touches.foldl (fun _ _ _ => ?_) ?_
    | extract_lets -underBinder
    | split
    | (conv => arg 3; dsimp -zeta -proj +zetaDelta only)

theorem execFollowDelayExpiry_answers (k : Fin 8) (s : State) : Answers [.now, .up, .out, .reg, .irq, .log, .tln, .cpu] s (execFollowDelayExpiry k s) := by
  unfold execFollowDelayExpiry
  with_reducible repeat' first
    | (extract_lets -underBinder +onlyGivenNames x; (first | refine Answers.mp (t := x) ?_ ?bb | refine Touches.mp (t := x) ?_ ?bb); case' bb => clear_value x; revert x; refine Touches.keep ?_; intro _ _)
    | refine Answers.next ?_
    | refine Answers.ite (fun _ => ?_) (fun _ => ?_)
    | exact Touches.refl _ _
    | assumption
    | refine Touches.ite (fun _ => ?_) (fun _ => ?_)
    | refine (passTo_touches ..).after (by decide) ?_
    | refine (setOut_touches ..).after (by decide) ?_
    | refine (noteDriven_touches ..).after (by decide) ?_
    | refine Touches.foldl (fun _ _ _ => ?_) ?_
    | extract_lets -underBinder
    | split
    | (conv => arg 3; dsimp -zeta -proj +zetaDelta only)

theorem execIsoLinkLost_answers (s : State) : Answers [.out, .reg, .irq, .log, .tln, .cpu] s (execIsoLinkLost s) := by
  unfold execIsoLinkLost
  with_reducible repeat' first
    | (extract_lets -underBinder +onlyGivenNames x; (first | refine Answers.mp (t := x) ?_ ?bb | refine Touches.mp (t := x) ?_ ?bb); case' bb => clear_value x; revert x; refine Touches.keep ?_; intro _ _)
    | refine Answers.next ?_
    | refine Answers.ite (fun _ => ?_) (fun _ => ?_)
    | exact Touches.refl _ _
    | assumption
    | refine Touches.ite (fun _ => ?_) (fun _ => ?_)
    | refine (bump_touches ..).after (by decide) ?_
    | refine (raiseIrq_touches ..).after (by decide) ?_
    | refine (fireTrainFault_touches ..).after (by decide) ?_
    | refine (noteDriven_touches ..).after (by decide) ?_
    | refine (holdOutputs_touches ..).after (by decide) ?_
    | refine (loseWrites_touches ..).after (by decide) ?_
    | refine Touches.foldl (fun _ _ _ => ?_) ?_
    | ((conv => arg 3; arg 29); first | refine Touches.set rfl rfl rfl rfl rfl ?_)
    | extract_lets -underBinder
    | split
    | ((conv => arg 3; fail_if_success arg 1); refine Touches.set rfl rfl rfl rfl rfl ?_)
    | (conv => arg 3; dsimp -zeta -proj +zetaDelta only)

theorem linkBack_touches (s : State) : Touches [.out, .reg, .irq, .tln, .cpu] s (linkBack s) := by
  unfold linkBack
  with_reducible repeat' first
    | exact Touches.refl _ _
    | assumption
    | refine Touches.ite (fun _ => ?_) (fun _ => ?_)
    | refine (raiseIrq_touches ..).after (by decide) ?_
    | refine (noteDriven_touches ..).after (by decide) ?_
    | refine Touches.foldl (fun _ _ _ => ?_) ?_
    | ((conv => arg 3; arg 29); first | refine Touches.set rfl rfl rfl rfl rfl ?_)
    | extract_lets -underBinder
    | split
    | ((conv => arg 3; fail_if_success arg 1); refine Touches.set rfl rfl rfl rfl rfl ?_)
    | (conv => arg 3; dsimp -zeta -proj +zetaDelta only)

theorem execIsoLinkReturn_answers (s : State) : Answers [.now, .up, .out, .reg, .irq, .log, .tln, .cpu] s (execIsoLinkReturn s) := by
  unfold execIsoLinkReturn
  with_reducible repeat' first
    | refine Answers.next ?_
    | refine Answers.ite (fun _ => ?_) (fun _ => ?_)
    | exact Touches.refl _ _
    | assumption
    | refine Touches.ite (fun _ => ?_) (fun _ => ?_)
    | refine (passToInstant_touches ..).after (by decide) ?_
    | refine (linkBack_touches ..).after (by decide) ?_
    | refine Touches.foldl (fun _ _ _ => ?_) ?_
    | extract_lets -underBinder
    | split
    | (conv => arg 3; dsimp -zeta -proj +zetaDelta only)

theorem execForceSafe_answers (s : State) : Answers [.tln] s (execForceSafe s) := by
  unfold execForceSafe
  with_reducible repeat' first
    | refine Answers.next ?_
    | refine Answers.ite (fun _ => ?_) (fun _ => ?_)
    | exact Touches.refl _ _
    | assumption
    | refine Touches.ite (fun _ => ?_) (fun _ => ?_)
    | refine (doForceSafe_touches ..).after (by decide) ?_
    | refine Touches.foldl (fun _ _ _ => ?_) ?_
    | extract_lets -underBinder
    | split
    | (conv => arg 3; dsimp -zeta -proj +zetaDelta only)

theorem execResume_answers (s : State) : Answers [.tln] s (execResume s) := by
  unfold execResume
  with_reducible repeat' first
    | refine Answers.next ?_
    | refine Answers.ite (fun _ => ?_) (fun _ => ?_)
    | exact Touches.refl _ _
    | assumption
    | refine Touches.ite (fun _ => ?_) (fun _ => ?_)
    | refine (doResume_touches ..).after (by decide) ?_
    | refine Touches.foldl (fun _ _ _ => ?_) ?_
    | extract_lets -underBinder
    | split
    | (conv => arg 3; dsimp -zeta -proj +zetaDelta only)

theorem execEvtTsRead_answers (who : Requester) (s : State) : Answers [.out, .reg, .tln] s (execEvtTsRead who s) := by
  unfold execEvtTsRead
  with_reducible repeat' first
    | (extract_lets -underBinder +onlyGivenNames x; (first | refine Answers.mp (t := x) ?_ ?bb | refine Touches.mp (t := x) ?_ ?bb); case' bb => clear_value x; revert x; refine Touches.keep ?_; intro _ _)
    | refine Answers.next ?_
    | refine Answers.ite (fun _ => ?_) (fun _ => ?_)
    | exact Touches.refl _ _
    | assumption
    | refine Touches.ite (fun _ => ?_) (fun _ => ?_)
    | refine (emit_touches ..).after (by decide) ?_
    | refine (bump_touches ..).after (by decide) ?_
    | refine (turnedAway_touches ..).after (by decide) ?_
    | refine Touches.foldl (fun _ _ _ => ?_) ?_
    | ((conv => arg 3; arg 29); first | refine Touches.set rfl rfl rfl rfl rfl ?_)
    | extract_lets -underBinder
    | split
    | ((conv => arg 3; fail_if_success arg 1); refine Touches.set rfl rfl rfl rfl rfl ?_)
    | (conv => arg 3; dsimp -zeta -proj +zetaDelta only)

end Sys2Proof.Machine
end

