-- ==== Sys2Proof/Laws/Link.lean ====
section
/-!
SUPPORT. Laws/Link.lean: the frame of every operation of Machine/Link.lean: which parts of the state it may change, and that it keeps the bounds.
-/
namespace Sys2Proof.Machine

set_option Elab.async false
set_option linter.all false

theorem evalLine_touches (p : Nat) (s : State) (l : Line) : Touches [.out, .reg, .irq, .log, .bb, .cpu] s (evalLine p s l) := by
  unfold evalLine
  with_reducible repeat' first
    | (extract_lets -underBinder +onlyGivenNames x; refine Touches.mp (t := x) ?_ ?bb; case' bb => clear_value x; revert x; refine Touches.keep ?_; intro _ _)
    | exact Touches.refl _ _
    | assumption
    | refine Touches.ite (fun _ => ?_) (fun _ => ?_)
    | refine (raiseIrq_touches ..).after (by decide) ?_
    | refine (setLine_touches ..).after (by decide) ?_
    | refine (fire_touches ..).after (by decide) ?_
    | refine Touches.foldl (fun _ _ _ => ?_) ?_
    | extract_lets -underBinder
    | split
    | (conv => arg 3; dsimp -zeta -proj +zetaDelta only)

theorem evalLines_touches (p : Nat) (s : State) : Touches [.out, .reg, .irq, .log, .bb, .cpu] s (evalLines p s) := by
  unfold evalLines
  with_reducible repeat' first
    | exact Touches.refl _ _
    | assumption
    | refine Touches.ite (fun _ => ?_) (fun _ => ?_)
    | refine (evalLine_touches ..).after (by decide) ?_
    | refine Touches.foldl (fun _ _ _ => ?_) ?_
    | extract_lets -underBinder
    | split
    | (conv => arg 3; dsimp -zeta -proj +zetaDelta only)

theorem reportLine_touches (l : Line) (s : State) : Touches [.free, .out, .reg, .irq, .log, .cpu] s (reportLine l s) := by
  unfold reportLine
  with_reducible repeat' first
    | (extract_lets -underBinder +onlyGivenNames x; refine Touches.mp (t := x) ?_ ?bb; case' bb => clear_value x; revert x; refine Touches.keep ?_; intro _ _)
    | exact Touches.refl _ _
    | assumption
    | refine Touches.ite (fun _ => ?_) (fun _ => ?_)
    | refine (nextFree_touches ..).after (by decide) ?_
    | refine (Touches.ofPair ‹nextFree _ = _› (nextFree_touches ..)).after (by decide) ?_
    | refine (raiseIrq_touches ..).after (by decide) ?_
    | refine (fire_touches ..).after (by decide) ?_
    | refine Touches.foldl (fun _ _ _ => ?_) ?_
    | extract_lets -underBinder
    | split
    | (conv => arg 3; dsimp -zeta -proj +zetaDelta only)

theorem portChanged_touches (p : Nat) (s : State) : Touches [.out, .reg, .irq, .cpu] s (portChanged p s) := by
  unfold portChanged
  with_reducible repeat' first
    | exact Touches.refl _ _
    | assumption
    | refine Touches.ite (fun _ => ?_) (fun _ => ?_)
    | refine (raiseIrq_touches ..).after (by decide) ?_
    | refine Touches.foldl (fun _ _ _ => ?_) ?_
    | ((conv => arg 3; arg 29); first | refine Touches.irq_set (by decide) ?_ | refine Touches.set rfl rfl rfl rfl rfl ?_)
    | extract_lets -underBinder
    | split
    | ((conv => arg 3; fail_if_success arg 1); refine Touches.set rfl rfl rfl rfl rfl ?_)
    | (conv => arg 3; dsimp -zeta -proj +zetaDelta only)

theorem setPortState_touches (p : Nat) (st : PortState) (s : State) : Touches [.out, .reg, .irq, .bb, .cpu] s (setPortState p st s) := by
  unfold setPortState
  with_reducible repeat' first
    | exact Touches.refl _ _
    | assumption
    | refine Touches.ite (fun _ => ?_) (fun _ => ?_)
    | refine (setLink_touches ..).after (by decide) ?_
    | refine (portChanged_touches ..).after (by decide) ?_
    | refine Touches.foldl (fun _ _ _ => ?_) ?_
    | extract_lets -underBinder
    | split
    | (conv => arg 3; dsimp -zeta -proj +zetaDelta only)

theorem startTraining_touches (p : Nat) (s : State) : Touches [.out, .reg, .irq, .bb, .cpu] s (startTraining p s) := by
  unfold startTraining
  with_reducible repeat' first
    | exact Touches.refl _ _
    | assumption
    | refine Touches.ite (fun _ => ?_) (fun _ => ?_)
    | refine (setLink_touches ..).after (by decide) ?_
    | refine (setPortState_touches ..).after (by decide) ?_
    | refine Touches.foldl (fun _ _ _ => ?_) ?_
    | extract_lets -underBinder
    | split
    | (conv => arg 3; dsimp -zeta -proj +zetaDelta only)

theorem ptpRestart_touches (p : Nat) (s : State) : Touches [.tim] s (ptpRestart p s) := by
  unfold ptpRestart
  with_reducible repeat' first
    | exact Touches.refl _ _
    | assumption
    | refine Touches.ite (fun _ => ?_) (fun _ => ?_)
    | refine (setPtp_touches ..).after (by decide) ?_
    | refine Touches.foldl (fun _ _ _ => ?_) ?_
    | extract_lets -underBinder
    | split
    | (conv => arg 3; dsimp -zeta -proj +zetaDelta only)

theorem leaveUp_touches (p cause : Nat) (s : State) : Touches [.free, .out, .node, .reg, .irq, .log, .wak, .bb, .net, .ina, .tim, .spl, .cpu] s (leaveUp p cause s) := by
  unfold leaveUp
  with_reducible repeat' first
    | (extract_lets -underBinder +onlyGivenNames x; refine Touches.mp (t := x) ?_ ?bb; case' bb => clear_value x; revert x; refine Touches.keep ?_; intro _ _)
    | exact Touches.refl _ _
    | assumption
    | refine Touches.ite (fun _ => ?_) (fun _ => ?_)
    | refine (setLink_touches ..).after (by decide) ?_
    | refine (setPtp_touches ..).after (by decide) ?_
    | refine (setMs_touches ..).after (by decide) ?_
    | refine (macDown_touches ..).after (by decide) ?_
    | refine (inaPortDown_touches ..).after (by decide) ?_
    | refine (syncPortLost_touches ..).after (by decide) ?_
    | refine (evalLines_touches ..).after (by decide) ?_
    | refine (portChanged_touches ..).after (by decide) ?_
    | refine Touches.foldl (fun _ _ _ => ?_) ?_
    | ((conv => arg 3; arg 29); first | refine Touches.wak_set (by decide) ?_ | refine Touches.ina_set (by decide) ?_ | refine Touches.set rfl rfl rfl rfl rfl ?_)
    | extract_lets -underBinder
    | split
    | ((conv => arg 3; fail_if_success arg 1); refine Touches.set rfl rfl rfl rfl rfl ?_)
    | (conv => arg 3; dsimp -zeta -proj +zetaDelta only)

theorem portDisable_touches (p cause : Nat) (s : State) : Touches [.free, .out, .node, .reg, .irq, .log, .wak, .bb, .net, .ina, .tim, .spl, .cpu] s (portDisable p cause s) := by
  unfold portDisable
  with_reducible repeat' first
    | (extract_lets -underBinder +onlyGivenNames x; refine Touches.mp (t := x) ?_ ?bb; case' bb => clear_value x; revert x; refine Touches.keep ?_; intro _ _)
    | exact Touches.refl _ _
    | assumption
    | refine Touches.ite (fun _ => ?_) (fun _ => ?_)
    | refine (setLink_touches ..).after (by decide) ?_
    | refine (setPortState_touches ..).after (by decide) ?_
    | refine (leaveUp_touches ..).after (by decide) ?_
    | refine Touches.foldl (fun _ _ _ => ?_) ?_
    | extract_lets -underBinder
    | split
    | (conv => arg 3; dsimp -zeta -proj +zetaDelta only)

theorem startLoopCheck_touches (l : Line) (s : State) : Touches [.bb] s (startLoopCheck l s) := by
  unfold startLoopCheck
  with_reducible repeat' first
    | exact Touches.refl _ _
    | assumption
    | refine Touches.ite (fun _ => ?_) (fun _ => ?_)
    | refine (setLine_touches ..).after (by decide) ?_
    | refine Touches.foldl (fun _ _ _ => ?_) ?_
    | extract_lets -underBinder
    | split
    | (conv => arg 3; dsimp -zeta -proj +zetaDelta only)

theorem portEnable_touches (p : Nat) (s : State) : Touches [.out, .reg, .irq, .bb, .cpu] s (portEnable p s) := by
  unfold portEnable
  with_reducible repeat' first
    | exact Touches.refl _ _
    | assumption
    | refine Touches.ite (fun _ => ?_) (fun _ => ?_)
    | refine (setPortState_touches ..).after (by decide) ?_
    | refine (startTraining_touches ..).after (by decide) ?_
    | refine (startLoopCheck_touches ..).after (by decide) ?_
    | refine Touches.foldl (fun _ _ _ => ?_) ?_
    | extract_lets -underBinder
    | split
    | (conv => arg 3; dsimp -zeta -proj +zetaDelta only)

theorem portEnableApply_touches (p : Nat) (s : State) : Touches [.free, .out, .node, .reg, .irq, .log, .wak, .bb, .net, .ina, .tim, .spl, .cpu] s (portEnableApply p s) := by
  unfold portEnableApply
  with_reducible repeat' first
    | exact Touches.refl _ _
    | assumption
    | refine Touches.ite (fun _ => ?_) (fun _ => ?_)
    | refine (portDisable_touches ..).after (by decide) ?_
    | refine (portEnable_touches ..).after (by decide) ?_
    | refine Touches.foldl (fun _ _ _ => ?_) ?_
    | extract_lets -underBinder
    | split
    | (conv => arg 3; dsimp -zeta -proj +zetaDelta only)

theorem retrain_touches (p cause : Nat) (s : State) : Touches [.free, .out, .node, .reg, .irq, .log, .wak, .bb, .net, .ina, .tim, .spl, .cpu] s (retrain p cause s) := by
  unfold retrain
  with_reducible repeat' first
    | exact Touches.refl _ _
    | assumption
    | refine Touches.ite (fun _ => ?_) (fun _ => ?_)
    | refine (startTraining_touches ..).after (by decide) ?_
    | refine (leaveUp_touches ..).after (by decide) ?_
    | refine Touches.foldl (fun _ _ _ => ?_) ?_
    | extract_lets -underBinder
    | split
    | (conv => arg 3; dsimp -zeta -proj +zetaDelta only)

theorem linkParams_touches (p : Nat) (s : State) : Touches [.free, .out, .node, .reg, .irq, .log, .wak, .bb, .net, .ina, .tim, .spl, .cpu] s (linkParams p s) := by
  unfold linkParams
  with_reducible repeat' first
    | (extract_lets -underBinder +onlyGivenNames x; refine Touches.mp (t := x) ?_ ?bb; case' bb => clear_value x; revert x; refine Touches.keep ?_; intro _ _)
    | exact Touches.refl _ _
    | assumption
    | refine Touches.ite (fun _ => ?_) (fun _ => ?_)
    | refine (startTraining_touches ..).after (by decide) ?_
    | refine (retrain_touches ..).after (by decide) ?_
    | refine Touches.foldl (fun _ _ _ => ?_) ?_
    | extract_lets -underBinder
    | split
    | (conv => arg 3; dsimp -zeta -proj +zetaDelta only)

theorem relayPort_touches (on : Bool) (s : State) (p : Nat) : Touches [.free, .out, .node, .reg, .irq, .log, .wak, .bb, .net, .ina, .tim, .spl, .cpu] s (relayPort on s p) := by
  unfold relayPort
  with_reducible repeat' first
    | (extract_lets -underBinder +onlyGivenNames x; refine Touches.mp (t := x) ?_ ?bb; case' bb => clear_value x; revert x; refine Touches.keep ?_; intro _ _)
    | exact Touches.refl _ _
    | assumption
    | refine Touches.ite (fun _ => ?_) (fun _ => ?_)
    | refine (setLink_touches ..).after (by decide) ?_
    | refine (setPortState_touches ..).after (by decide) ?_
    | refine (startTraining_touches ..).after (by decide) ?_
    | refine (leaveUp_touches ..).after (by decide) ?_
    | refine Touches.foldl (fun _ _ _ => ?_) ?_
    | extract_lets -underBinder
    | split
    | (conv => arg 3; dsimp -zeta -proj +zetaDelta only)

theorem relaySwitch_touches (l : Line) (on : Bool) (s : State) : Touches [.free, .out, .node, .reg, .irq, .log, .wak, .bb, .net, .ina, .tim, .spl, .cpu] s (relaySwitch l on s) := by
  unfold relaySwitch
  with_reducible repeat' first
    | (extract_lets -underBinder +onlyGivenNames x; refine Touches.mp (t := x) ?_ ?bb; case' bb => clear_value x; revert x; refine Touches.keep ?_; intro _ _)
    | exact Touches.refl _ _
    | assumption
    | refine Touches.ite (fun _ => ?_) (fun _ => ?_)
    | refine (bump_touches ..).after (by decide) ?_
    | refine (setLine_touches ..).after (by decide) ?_
    | refine (recordChanged_touches ..).after (by decide) ?_
    | refine (evalLines_touches ..).after (by decide) ?_
    | refine (relayPort_touches ..).after (by decide) ?_
    | refine Touches.foldl (fun _ _ _ => ?_) ?_
    | ((conv => arg 3; arg 29); first | refine Touches.bb_set (by decide) ?_ | refine Touches.set rfl rfl rfl rfl rfl ?_)
    | extract_lets -underBinder
    | split
    | ((conv => arg 3; fail_if_success arg 1); refine Touches.set rfl rfl rfl rfl rfl ?_)
    | (conv => arg 3; dsimp -zeta -proj +zetaDelta only)

theorem insertProgress_touches (s : State) : Touches [.bb] s (insertProgress s) := by
  unfold insertProgress
  with_reducible repeat' first
    | (extract_lets -underBinder +onlyGivenNames x; refine Touches.mp (t := x) ?_ ?bb; case' bb => clear_value x; revert x; refine Touches.keep ?_; intro _ _)
    | exact Touches.refl _ _
    | assumption
    | refine Touches.ite (fun _ => ?_) (fun _ => ?_)
    | refine (setLine_touches ..).after (by decide) ?_
    | refine Touches.foldl (fun _ _ _ => ?_) ?_
    | ((conv => arg 3; arg 29); first | refine Touches.bb_set (by decide) ?_ | refine Touches.set rfl rfl rfl rfl rfl ?_)
    | extract_lets -underBinder
    | split
    | ((conv => arg 3; fail_if_success arg 1); refine Touches.set rfl rfl rfl rfl rfl ?_)
    | (conv => arg 3; dsimp -zeta -proj +zetaDelta only)

theorem singleProgress_touches (s : State) (l : Line) : Touches [.bb] s (singleProgress s l) := by
  unfold singleProgress
  with_reducible repeat' first
    | (extract_lets -underBinder +onlyGivenNames x; refine Touches.mp (t := x) ?_ ?bb; case' bb => clear_value x; revert x; refine Touches.keep ?_; intro _ _)
    | exact Touches.refl _ _
    | assumption
    | refine Touches.ite (fun _ => ?_) (fun _ => ?_)
    | refine (setLine_touches ..).after (by decide) ?_
    | refine Touches.foldl (fun _ _ _ => ?_) ?_
    | extract_lets -underBinder
    | split
    | (conv => arg 3; dsimp -zeta -proj +zetaDelta only)

theorem progress_touches (s : State) : Touches [.bb] s (progress s) := by
  unfold progress
  with_reducible repeat' first
    | exact Touches.refl _ _
    | assumption
    | refine Touches.ite (fun _ => ?_) (fun _ => ?_)
    | refine (insertProgress_touches ..).after (by decide) ?_
    | refine (singleProgress_touches ..).after (by decide) ?_
    | refine Touches.foldl (fun _ _ _ => ?_) ?_
    | extract_lets -underBinder
    | split
    | (conv => arg 3; dsimp -zeta -proj +zetaDelta only)

theorem waitInsert_touches (l : Line) (s : State) : Touches [.bb] s (waitInsert l s) := by
  unfold waitInsert
  with_reducible repeat' first
    | exact Touches.refl _ _
    | assumption
    | refine Touches.ite (fun _ => ?_) (fun _ => ?_)
    | refine (setLine_touches ..).after (by decide) ?_
    | refine Touches.foldl (fun _ _ _ => ?_) ?_
    | extract_lets -underBinder
    | split
    | (conv => arg 3; dsimp -zeta -proj +zetaDelta only)

theorem dropSeq_touches (l : Line) (s : State) : Touches [.bb] s (dropSeq l s) := by
  unfold dropSeq
  with_reducible repeat' first
    | exact Touches.refl _ _
    | assumption
    | refine Touches.ite (fun _ => ?_) (fun _ => ?_)
    | refine (waitInsert_touches ..).after (by decide) ?_
    | refine Touches.foldl (fun _ _ _ => ?_) ?_
    | ((conv => arg 3; arg 29); first | refine Touches.bb_set (by decide) ?_ | refine Touches.set rfl rfl rfl rfl rfl ?_)
    | extract_lets -underBinder
    | split
    | ((conv => arg 3; fail_if_success arg 1); refine Touches.set rfl rfl rfl rfl rfl ?_)
    | (conv => arg 3; dsimp -zeta -proj +zetaDelta only)

theorem dropInsertion_touches (l : Line) (s : State) : Touches [.bb] s (dropInsertion l s) := by
  unfold dropInsertion
  with_reducible repeat' first
    | (extract_lets -underBinder +onlyGivenNames x; refine Touches.mp (t := x) ?_ ?bb; case' bb => clear_value x; revert x; refine Touches.keep ?_; intro _ _)
    | exact Touches.refl _ _
    | assumption
    | refine Touches.ite (fun _ => ?_) (fun _ => ?_)
    | refine (setLine_touches ..).after (by decide) ?_
    | refine (dropSeq_touches ..).after (by decide) ?_
    | refine Touches.foldl (fun _ _ _ => ?_) ?_
    | ((conv => arg 3; arg 29); first | refine Touches.bb_set (by decide) ?_ | refine Touches.set rfl rfl rfl rfl rfl ?_)
    | extract_lets -underBinder
    | split
    | ((conv => arg 3; fail_if_success arg 1); refine Touches.set rfl rfl rfl rfl rfl ?_)
    | (conv => arg 3; dsimp -zeta -proj +zetaDelta only)

theorem doEnergise_touches (l : Line) (s : State) : Touches [.free, .out, .node, .reg, .irq, .log, .wak, .bb, .net, .ina, .tim, .spl, .cpu] s (doEnergise l s) := by
  unfold doEnergise
  with_reducible repeat' first
    | (extract_lets -underBinder +onlyGivenNames x; refine Touches.mp (t := x) ?_ ?bb; case' bb => clear_value x; revert x; refine Touches.keep ?_; intro _ _)
    | exact Touches.refl _ _
    | assumption
    | refine Touches.ite (fun _ => ?_) (fun _ => ?_)
    | refine (setLine_touches ..).after (by decide) ?_
    | refine (relaySwitch_touches ..).after (by decide) ?_
    | refine (progress_touches ..).after (by decide) ?_
    | refine (dropInsertion_touches ..).after (by decide) ?_
    | refine Touches.foldl (fun _ _ _ => ?_) ?_
    | extract_lets -underBinder
    | split
    | (conv => arg 3; dsimp -zeta -proj +zetaDelta only)

theorem leftAlone_touches (l : Line) (s : State) : Touches [.bb] s (leftAlone l s) := by
  unfold leftAlone
  with_reducible repeat' first
    | exact Touches.refl _ _
    | assumption
    | refine Touches.ite (fun _ => ?_) (fun _ => ?_)
    | refine (setLine_touches ..).after (by decide) ?_
    | refine Touches.foldl (fun _ _ _ => ?_) ?_
    | extract_lets -underBinder
    | split
    | (conv => arg 3; dsimp -zeta -proj +zetaDelta only)

theorem doRelease_touches (l : Line) (both : Bool) (s : State) : Touches [.free, .out, .node, .reg, .irq, .log, .wak, .bb, .net, .ina, .tim, .spl, .cpu] s (doRelease l both s) := by
  unfold doRelease
  with_reducible repeat' first
    | (extract_lets -underBinder +onlyGivenNames x; refine Touches.mp (t := x) ?_ ?bb; case' bb => clear_value x; revert x; refine Touches.keep ?_; intro _ _)
    | exact Touches.refl _ _
    | assumption
    | refine Touches.ite (fun _ => ?_) (fun _ => ?_)
    | refine (relaySwitch_touches ..).after (by decide) ?_
    | refine (leftAlone_touches ..).after (by decide) ?_
    | refine Touches.foldl (fun _ _ _ => ?_) ?_
    | ((conv => arg 3; arg 29); first | refine Touches.bb_set (by decide) ?_ | refine Touches.set rfl rfl rfl rfl rfl ?_)
    | extract_lets -underBinder
    | split
    | ((conv => arg 3; fail_if_success arg 1); refine Touches.set rfl rfl rfl rfl rfl ?_)
    | (conv => arg 3; dsimp -zeta -proj +zetaDelta only)

theorem noteContact_touches (l : Line) (s : State) : Touches [.free, .out, .reg, .irq, .log, .bb, .cpu] s (noteContact l s) := by
  unfold noteContact
  with_reducible repeat' first
    | exact Touches.refl _ _
    | assumption
    | refine Touches.ite (fun _ => ?_) (fun _ => ?_)
    | refine (setLine_touches ..).after (by decide) ?_
    | refine (reportLine_touches ..).after (by decide) ?_
    | refine Touches.foldl (fun _ _ _ => ?_) ?_
    | extract_lets -underBinder
    | split
    | (conv => arg 3; dsimp -zeta -proj +zetaDelta only)

theorem insertWithout_touches (seq : RelaySeq) (l : Line) (s : State) : Touches [.bb] s (insertWithout seq l s) := by
  unfold insertWithout
  with_reducible repeat' first
    | exact Touches.refl _ _
    | assumption
    | refine Touches.ite (fun _ => ?_) (fun _ => ?_)
    | refine Touches.foldl (fun _ _ _ => ?_) ?_
    | ((conv => arg 3; arg 29); first | refine Touches.bb_set (by decide) ?_ | refine Touches.set rfl rfl rfl rfl rfl ?_)
    | extract_lets -underBinder
    | split
    | ((conv => arg 3; fail_if_success arg 1); refine Touches.set rfl rfl rfl rfl rfl ?_)
    | (conv => arg 3; dsimp -zeta -proj +zetaDelta only)

theorem insertFailed_touches (l : Line) (s : State) : Touches [.free, .out, .node, .reg, .irq, .log, .wak, .bb, .net, .ina, .tim, .spl, .cpu] s (insertFailed l s) := by
  unfold insertFailed
  with_reducible repeat' first
    | exact Touches.refl _ _
    | assumption
    | refine Touches.ite (fun _ => ?_) (fun _ => ?_)
    | refine (relaySwitch_touches ..).after (by decide) ?_
    | refine (noteContact_touches ..).after (by decide) ?_
    | refine (insertWithout_touches ..).after (by decide) ?_
    | refine Touches.foldl (fun _ _ _ => ?_) ?_
    | extract_lets -underBinder
    | split
    | (conv => arg 3; dsimp -zeta -proj +zetaDelta only)

theorem makeSwitch_touches (l : Line) (why : SwitchWhy) (s : State) : Touches [.free, .out, .node, .reg, .irq, .log, .wak, .bb, .net, .ina, .tim, .spl, .cpu] s (makeSwitch l why s) := by
  unfold makeSwitch
  with_reducible repeat' first
    | exact Touches.refl _ _
    | assumption
    | refine Touches.ite (fun _ => ?_) (fun _ => ?_)
    | refine (doEnergise_touches ..).after (by decide) ?_
    | refine (doRelease_touches ..).after (by decide) ?_
    | refine (insertFailed_touches ..).after (by decide) ?_
    | refine Touches.foldl (fun _ _ _ => ?_) ?_
    | extract_lets -underBinder
    | split
    | (conv => arg 3; dsimp -zeta -proj +zetaDelta only)

theorem deferSwitch_touches (l : Line) (why : SwitchWhy) (own : Bool) (s : State) : Touches [.bb] s (deferSwitch l why own s) := by
  unfold deferSwitch
  with_reducible repeat' first
    | exact Touches.refl _ _
    | assumption
    | refine Touches.ite (fun _ => ?_) (fun _ => ?_)
    | refine Touches.foldl (fun _ _ _ => ?_) ?_
    | ((conv => arg 3; arg 29); first | refine Touches.bb_set (by decide) ?_ | refine Touches.set rfl rfl rfl rfl rfl ?_)
    | extract_lets -underBinder
    | split
    | ((conv => arg 3; fail_if_success arg 1); refine Touches.set rfl rfl rfl rfl rfl ?_)
    | (conv => arg 3; dsimp -zeta -proj +zetaDelta only)

theorem controlled_touches (l : Line) (why : SwitchWhy) (own : Bool) (s : State) : Touches [.free, .out, .node, .reg, .irq, .log, .wak, .bb, .net, .ina, .tim, .spl, .cpu] s (controlled l why own s) := by
  unfold controlled
  with_reducible repeat' first
    | exact Touches.refl _ _
    | assumption
    | refine Touches.ite (fun _ => ?_) (fun _ => ?_)
    | refine (makeSwitch_touches ..).after (by decide) ?_
    | refine (deferSwitch_touches ..).after (by decide) ?_
    | refine Touches.foldl (fun _ _ _ => ?_) ?_
    | extract_lets -underBinder
    | split
    | (conv => arg 3; dsimp -zeta -proj +zetaDelta only)

theorem insertFrom_touches (first : Line) (s : State) : Touches [.free, .out, .node, .reg, .irq, .log, .wak, .bb, .net, .ina, .tim, .spl, .cpu] s (insertFrom first s) := by
  unfold insertFrom
  with_reducible repeat' first
    | exact Touches.refl _ _
    | assumption
    | refine Touches.ite (fun _ => ?_) (fun _ => ?_)
    | refine (controlled_touches ..).after (by decide) ?_
    | refine Touches.foldl (fun _ _ _ => ?_) ?_
    | ((conv => arg 3; arg 29); first | refine Touches.bb_set (by decide) ?_ | refine Touches.set rfl rfl rfl rfl rfl ?_)
    | extract_lets -underBinder
    | split
    | ((conv => arg 3; fail_if_success arg 1); refine Touches.set rfl rfl rfl rfl rfl ?_)
    | (conv => arg 3; dsimp -zeta -proj +zetaDelta only)

theorem startJoinWait_touches (s : State) : Touches [.ina] s (startJoinWait s) := by
  unfold startJoinWait
  with_reducible repeat' first
    | exact Touches.refl _ _
    | assumption
    | refine Touches.ite (fun _ => ?_) (fun _ => ?_)
    | refine Touches.foldl (fun _ _ _ => ?_) ?_
    | ((conv => arg 3; arg 29); first | refine Touches.ina_set (by decide) ?_ | refine Touches.set rfl rfl rfl rfl rfl ?_)
    | extract_lets -underBinder
    | split
    | ((conv => arg 3; fail_if_success arg 1); refine Touches.set rfl rfl rfl rfl rfl ?_)
    | (conv => arg 3; dsimp -zeta -proj +zetaDelta only)

theorem waitIfMay_touches (l : Line) (s : State) : Touches [.bb] s (waitIfMay l s) := by
  unfold waitIfMay
  with_reducible repeat' first
    | exact Touches.refl _ _
    | assumption
    | refine Touches.ite (fun _ => ?_) (fun _ => ?_)
    | refine (waitInsert_touches ..).after (by decide) ?_
    | refine Touches.foldl (fun _ _ _ => ?_) ?_
    | extract_lets -underBinder
    | split
    | (conv => arg 3; dsimp -zeta -proj +zetaDelta only)

theorem startInsertion_touches (s : State) : Touches [.free, .out, .node, .reg, .irq, .log, .wak, .bb, .net, .ina, .tim, .spl, .cpu] s (startInsertion s) := by
  unfold startInsertion
  with_reducible repeat' first
    | (extract_lets -underBinder +onlyGivenNames x; refine Touches.mp (t := x) ?_ ?bb; case' bb => clear_value x; revert x; refine Touches.keep ?_; intro _ _)
    | exact Touches.refl _ _
    | assumption
    | refine Touches.ite (fun _ => ?_) (fun _ => ?_)
    | refine (setNode_touches ..).after (by decide) ?_
    | refine (insertFrom_touches ..).after (by decide) ?_
    | refine (startJoinWait_touches ..).after (by decide) ?_
    | refine (waitIfMay_touches ..).after (by decide) ?_
    | refine Touches.foldl (fun _ _ _ => ?_) ?_
    | extract_lets -underBinder
    | split
    | (conv => arg 3; dsimp -zeta -proj +zetaDelta only)

theorem insertLine_touches (l : Line) (s : State) : Touches [.free, .out, .node, .reg, .irq, .log, .wak, .bb, .net, .ina, .tim, .spl, .cpu] s (insertLine l s) := by
  unfold insertLine
  with_reducible repeat' first
    | (extract_lets -underBinder +onlyGivenNames x; refine Touches.mp (t := x) ?_ ?bb; case' bb => clear_value x; revert x; refine Touches.keep ?_; intro _ _)
    | exact Touches.refl _ _
    | assumption
    | refine Touches.ite (fun _ => ?_) (fun _ => ?_)
    | refine (setLine_touches ..).after (by decide) ?_
    | refine (startLoopCheck_touches ..).after (by decide) ?_
    | refine (waitInsert_touches ..).after (by decide) ?_
    | refine (startInsertion_touches ..).after (by decide) ?_
    | refine Touches.foldl (fun _ _ _ => ?_) ?_
    | extract_lets -underBinder
    | split
    | (conv => arg 3; dsimp -zeta -proj +zetaDelta only)

theorem resumeInsert_touches (s : State) : Touches [.free, .out, .node, .reg, .irq, .log, .wak, .bb, .net, .ina, .tim, .spl, .cpu] s (resumeInsert s) := by
  unfold resumeInsert
  with_reducible repeat' first
    | (extract_lets -underBinder +onlyGivenNames x; refine Touches.mp (t := x) ?_ ?bb; case' bb => clear_value x; revert x; refine Touches.keep ?_; intro _ _)
    | exact Touches.refl _ _
    | assumption
    | refine Touches.ite (fun _ => ?_) (fun _ => ?_)
    | refine (setLine_touches ..).after (by decide) ?_
    | refine (insertLine_touches ..).after (by decide) ?_
    | refine Touches.foldl (fun _ _ _ => ?_) ?_
    | extract_lets -underBinder
    | split
    | (conv => arg 3; dsimp -zeta -proj +zetaDelta only)

theorem stopInsertion_touches (s : State) : Touches [.bb] s (stopInsertion s) := by
  unfold stopInsertion
  with_reducible repeat' first
    | (extract_lets -underBinder +onlyGivenNames x; refine Touches.mp (t := x) ?_ ?bb; case' bb => clear_value x; revert x; refine Touches.keep ?_; intro _ _)
    | exact Touches.refl _ _
    | assumption
    | refine Touches.ite (fun _ => ?_) (fun _ => ?_)
    | refine (setLine_touches ..).after (by decide) ?_
    | refine Touches.foldl (fun _ _ _ => ?_) ?_
    | ((conv => arg 3; arg 29); first | refine Touches.bb_set (by decide) ?_ | refine Touches.set rfl rfl rfl rfl rfl ?_)
    | extract_lets -underBinder
    | split
    | ((conv => arg 3; fail_if_success arg 1); refine Touches.set rfl rfl rfl rfl rfl ?_)
    | (conv => arg 3; dsimp -zeta -proj +zetaDelta only)

theorem stopSequence_touches (s : State) : Touches [.bb] s (stopSequence s) := by
  unfold stopSequence
  with_reducible repeat' first
    | exact Touches.refl _ _
    | assumption
    | refine Touches.ite (fun _ => ?_) (fun _ => ?_)
    | refine (stopInsertion_touches ..).after (by decide) ?_
    | refine Touches.foldl (fun _ _ _ => ?_) ?_
    | ((conv => arg 3; arg 29); first | refine Touches.bb_set (by decide) ?_ | refine Touches.set rfl rfl rfl rfl rfl ?_)
    | extract_lets -underBinder
    | split
    | ((conv => arg 3; fail_if_success arg 1); refine Touches.set rfl rfl rfl rfl rfl ?_)
    | (conv => arg 3; dsimp -zeta -proj +zetaDelta only)

theorem dropRelease_touches (l : Line) (s : State) : Touches [.bb] s (dropRelease l s) := by
  unfold dropRelease
  with_reducible repeat' first
    | (extract_lets -underBinder +onlyGivenNames x; refine Touches.mp (t := x) ?_ ?bb; case' bb => clear_value x; revert x; refine Touches.keep ?_; intro _ _)
    | exact Touches.refl _ _
    | assumption
    | refine Touches.ite (fun _ => ?_) (fun _ => ?_)
    | refine Touches.foldl (fun _ _ _ => ?_) ?_
    | ((conv => arg 3; arg 29); first | refine Touches.bb_set (by decide) ?_ | refine Touches.set rfl rfl rfl rfl rfl ?_)
    | extract_lets -underBinder
    | split
    | ((conv => arg 3; fail_if_success arg 1); refine Touches.set rfl rfl rfl rfl rfl ?_)
    | (conv => arg 3; dsimp -zeta -proj +zetaDelta only)

theorem releaseFirst_touches (l : Line) (both : Bool) (s : State) : Touches [.free, .out, .node, .reg, .irq, .log, .wak, .bb, .net, .ina, .tim, .spl, .cpu] s (releaseFirst l both s) := by
  unfold releaseFirst
  with_reducible repeat' first
    | exact Touches.refl _ _
    | assumption
    | refine Touches.ite (fun _ => ?_) (fun _ => ?_)
    | refine (controlled_touches ..).after (by decide) ?_
    | refine Touches.foldl (fun _ _ _ => ?_) ?_
    | ((conv => arg 3; arg 29); first | refine Touches.bb_set (by decide) ?_ | refine Touches.set rfl rfl rfl rfl rfl ?_)
    | extract_lets -underBinder
    | split
    | ((conv => arg 3; fail_if_success arg 1); refine Touches.set rfl rfl rfl rfl rfl ?_)
    | (conv => arg 3; dsimp -zeta -proj +zetaDelta only)

theorem startRelease_touches (s : State) : Touches [.free, .out, .node, .reg, .irq, .log, .wak, .bb, .net, .ina, .tim, .spl, .cpu] s (startRelease s) := by
  unfold startRelease
  with_reducible repeat' first
    | (extract_lets -underBinder +onlyGivenNames x; refine Touches.mp (t := x) ?_ ?bb; case' bb => clear_value x; revert x; refine Touches.keep ?_; intro _ _)
    | exact Touches.refl _ _
    | assumption
    | refine Touches.ite (fun _ => ?_) (fun _ => ?_)
    | refine (stopSequence_touches ..).after (by decide) ?_
    | refine (releaseFirst_touches ..).after (by decide) ?_
    | refine Touches.foldl (fun _ _ _ => ?_) ?_
    | ((conv => arg 3; arg 29); first | refine Touches.bb_set (by decide) ?_ | refine Touches.set rfl rfl rfl rfl rfl ?_)
    | extract_lets -underBinder
    | split
    | ((conv => arg 3; fail_if_success arg 1); refine Touches.set rfl rfl rfl rfl rfl ?_)
    | (conv => arg 3; dsimp -zeta -proj +zetaDelta only)

theorem releaseLine_touches (l : Line) (s : State) : Touches [.free, .out, .node, .reg, .irq, .log, .wak, .bb, .net, .ina, .tim, .spl, .cpu] s (releaseLine l s) := by
  unfold releaseLine
  with_reducible repeat' first
    | (extract_lets -underBinder +onlyGivenNames x; refine Touches.mp (t := x) ?_ ?bb; case' bb => clear_value x; revert x; refine Touches.keep ?_; intro _ _)
    | exact Touches.refl _ _
    | assumption
    | refine Touches.ite (fun _ => ?_) (fun _ => ?_)
    | refine (waitInsert_touches ..).after (by decide) ?_
    | refine (dropInsertion_touches ..).after (by decide) ?_
    | refine (releaseFirst_touches ..).after (by decide) ?_
    | refine (startRelease_touches ..).after (by decide) ?_
    | refine Touches.foldl (fun _ _ _ => ?_) ?_
    | ((conv => arg 3; arg 29); first | refine Touches.bb_set (by decide) ?_ | refine Touches.set rfl rfl rfl rfl rfl ?_)
    | extract_lets -underBinder
    | split
    | ((conv => arg 3; fail_if_success arg 1); refine Touches.set rfl rfl rfl rfl rfl ?_)
    | (conv => arg 3; dsimp -zeta -proj +zetaDelta only)

theorem releaseNow_touches (l : Line) (s : State) : Touches [.free, .out, .node, .reg, .irq, .log, .wak, .bb, .net, .ina, .tim, .spl, .cpu] s (releaseNow l s) := by
  unfold releaseNow
  with_reducible repeat' first
    | (extract_lets -underBinder +onlyGivenNames x; refine Touches.mp (t := x) ?_ ?bb; case' bb => clear_value x; revert x; refine Touches.keep ?_; intro _ _)
    | exact Touches.refl _ _
    | assumption
    | refine Touches.ite (fun _ => ?_) (fun _ => ?_)
    | refine (bump_touches ..).after (by decide) ?_
    | refine (relaySwitch_touches ..).after (by decide) ?_
    | refine (dropInsertion_touches ..).after (by decide) ?_
    | refine Touches.foldl (fun _ _ _ => ?_) ?_
    | extract_lets -underBinder
    | split
    | (conv => arg 3; dsimp -zeta -proj +zetaDelta only)

theorem releaseBoth_touches (s : State) : Touches [.free, .out, .node, .reg, .irq, .log, .wak, .bb, .net, .ina, .tim, .spl, .cpu] s (releaseBoth s) := by
  unfold releaseBoth
  with_reducible repeat' first
    | exact Touches.refl _ _
    | assumption
    | refine Touches.ite (fun _ => ?_) (fun _ => ?_)
    | refine (stopSequence_touches ..).after (by decide) ?_
    | refine (releaseNow_touches ..).after (by decide) ?_
    | refine Touches.foldl (fun _ _ _ => ?_) ?_
    | extract_lets -underBinder
    | split
    | (conv => arg 3; dsimp -zeta -proj +zetaDelta only)

theorem unforce_touches (l : Line) (s : State) : Touches [.bb] s (unforce l s) := by
  unfold unforce
  with_reducible repeat' first
    | exact Touches.refl _ _
    | assumption
    | refine Touches.ite (fun _ => ?_) (fun _ => ?_)
    | refine (dropRelease_touches ..).after (by decide) ?_
    | refine Touches.foldl (fun _ _ _ => ?_) ?_
    | extract_lets -underBinder
    | split
    | (conv => arg 3; dsimp -zeta -proj +zetaDelta only)

theorem forceOut_touches (l : Line) (s : State) : Touches [.free, .out, .node, .reg, .irq, .log, .wak, .bb, .net, .ina, .tim, .spl, .cpu] s (forceOut l s) := by
  unfold forceOut
  with_reducible repeat' first
    | exact Touches.refl _ _
    | assumption
    | refine Touches.ite (fun _ => ?_) (fun _ => ?_)
    | refine (releaseLine_touches ..).after (by decide) ?_
    | refine Touches.foldl (fun _ _ _ => ?_) ?_
    | extract_lets -underBinder
    | split
    | (conv => arg 3; dsimp -zeta -proj +zetaDelta only)

theorem forceBypassApply_touches (old : Nat) (s : State) : Touches [.free, .out, .node, .reg, .irq, .log, .wak, .bb, .net, .ina, .tim, .spl, .cpu] s (forceBypassApply old s) := by
  unfold forceBypassApply
  with_reducible repeat' first
    | (extract_lets -underBinder +onlyGivenNames x; refine Touches.mp (t := x) ?_ ?bb; case' bb => clear_value x; revert x; refine Touches.keep ?_; intro _ _)
    | exact Touches.refl _ _
    | assumption
    | refine Touches.ite (fun _ => ?_) (fun _ => ?_)
    | refine (insertLine_touches ..).after (by decide) ?_
    | refine (startRelease_touches ..).after (by decide) ?_
    | refine (unforce_touches ..).after (by decide) ?_
    | refine (forceOut_touches ..).after (by decide) ?_
    | refine Touches.foldl (fun _ _ _ => ?_) ?_
    | extract_lets -underBinder
    | split
    | (conv => arg 3; dsimp -zeta -proj +zetaDelta only)

theorem linkParamsApply_touches (old : Nat → Nat → Nat) (s : State) : Touches [.free, .out, .node, .reg, .irq, .log, .wak, .bb, .net, .ina, .tim, .spl, .cpu] s (linkParamsApply old s) := by
  unfold linkParamsApply
  with_reducible repeat' first
    | (extract_lets -underBinder +onlyGivenNames x; refine Touches.mp (t := x) ?_ ?bb; case' bb => clear_value x; revert x; refine Touches.keep ?_; intro _ _)
    | exact Touches.refl _ _
    | assumption
    | refine Touches.ite (fun _ => ?_) (fun _ => ?_)
    | refine (linkParams_touches ..).after (by decide) ?_
    | refine Touches.foldl (fun _ _ _ => ?_) ?_
    | ((conv => arg 3; arg 29); first | refine Touches.bb_set (by decide) ?_ | refine Touches.set rfl rfl rfl rfl rfl ?_)
    | extract_lets -underBinder
    | split
    | ((conv => arg 3; fail_if_success arg 1); refine Touches.set rfl rfl rfl rfl rfl ?_)
    | (conv => arg 3; dsimp -zeta -proj +zetaDelta only)

theorem linkUp_touches (p mode : Nat) (ext native : Bool) (s : State) : Touches [.free, .out, .node, .reg, .irq, .log, .wak, .bb, .net, .ina, .tim, .spl, .cpu] s (linkUp p mode ext native s) := by
  unfold linkUp
  with_reducible repeat' first
    | (extract_lets -underBinder +onlyGivenNames x; refine Touches.mp (t := x) ?_ ?bb; case' bb => clear_value x; revert x; refine Touches.keep ?_; intro _ _)
    | exact Touches.refl _ _
    | assumption
    | refine Touches.ite (fun _ => ?_) (fun _ => ?_)
    | refine (setReg_touches ..).after (by decide) ?_
    | refine (setLink_touches ..).after (by decide) ?_
    | refine (macUp_touches ..).after (by decide) ?_
    | refine (inaPortUp_touches ..).after (by decide) ?_
    | refine (evalLines_touches ..).after (by decide) ?_
    | refine (portChanged_touches ..).after (by decide) ?_
    | refine (ptpRestart_touches ..).after (by decide) ?_
    | refine (progress_touches ..).after (by decide) ?_
    | refine (resumeInsert_touches ..).after (by decide) ?_
    | refine Touches.foldl (fun _ _ _ => ?_) ?_
    | ((conv => arg 3; arg 29); first | refine Touches.ina_set (by decide) ?_ | refine Touches.set rfl rfl rfl rfl rfl ?_)
    | extract_lets -underBinder
    | split
    | ((conv => arg 3; fail_if_success arg 1); refine Touches.set rfl rfl rfl rfl rfl ?_)
    | (conv => arg 3; dsimp -zeta -proj +zetaDelta only)

theorem execLinkTrainingDone_answers (p : Fin 17) (mode : Fin 8) (ext native : Bool) (s : State) : Answers [.free, .out, .node, .reg, .irq, .log, .wak, .bb, .net, .ina, .tim, .spl, .cpu] s (execLinkTrainingDone p mode ext native s) := by
  unfold execLinkTrainingDone
  with_reducible repeat' first
    | (extract_lets -underBinder +onlyGivenNames x; (first | refine Answers.mp (t := x) ?_ ?bb | refine Touches.mp (t := x) ?_ ?bb); case' bb => clear_value x; revert x; refine Touches.keep ?_; intro _ _)
    | refine Answers.next ?_
    | refine Answers.ite (fun _ => ?_) (fun _ => ?_)
    | exact Touches.refl _ _
    | assumption
    | refine Touches.ite (fun _ => ?_) (fun _ => ?_)
    | refine (linkUp_touches ..).after (by decide) ?_
    | refine Touches.foldl (fun _ _ _ => ?_) ?_
    | extract_lets -underBinder
    | split
    | (conv => arg 3; dsimp -zeta -proj +zetaDelta only)

theorem execAnAttemptTimeout_answers (p : Fin 17) (s : State) : Answers [.now, .up, .out, .reg, .irq, .log, .bb, .cpu] s (execAnAttemptTimeout p s) := by
  unfold execAnAttemptTimeout
  with_reducible repeat' first
    | (extract_lets -underBinder +onlyGivenNames x; (first | refine Answers.mp (t := x) ?_ ?bb | refine Touches.mp (t := x) ?_ ?bb); case' bb => clear_value x; revert x; refine Touches.keep ?_; intro _ _)
    | refine Answers.next ?_
    | refine Answers.ite (fun _ => ?_) (fun _ => ?_)
    | exact Touches.refl _ _
    | assumption
    | refine Touches.ite (fun _ => ?_) (fun _ => ?_)
    | refine (bump_touches ..).after (by decide) ?_
    | refine (passTo_touches ..).after (by decide) ?_
    | refine (setLink_touches ..).after (by decide) ?_
    | refine Touches.foldl (fun _ _ _ => ?_) ?_
    | extract_lets -underBinder
    | split
    | (conv => arg 3; dsimp -zeta -proj +zetaDelta only)

theorem execLinkLost_answers (p : Fin 17) (phyFault : Bool) (energy : Option (BitVec 32)) (s : State) : Answers [.free, .out, .node, .reg, .irq, .log, .wak, .bb, .net, .ina, .tim, .spl, .cpu] s (execLinkLost p phyFault energy s) := by
  unfold execLinkLost
  with_reducible repeat' first
    | (extract_lets -underBinder +onlyGivenNames x; (first | refine Answers.mp (t := x) ?_ ?bb | refine Touches.mp (t := x) ?_ ?bb); case' bb => clear_value x; revert x; refine Touches.keep ?_; intro _ _)
    | refine Answers.next ?_
    | refine Answers.ite (fun _ => ?_) (fun _ => ?_)
    | exact Touches.refl _ _
    | assumption
    | refine Touches.ite (fun _ => ?_) (fun _ => ?_)
    | refine (bump_touches ..).after (by decide) ?_
    | refine (setLink_touches ..).after (by decide) ?_
    | refine (startTraining_touches ..).after (by decide) ?_
    | refine (leaveUp_touches ..).after (by decide) ?_
    | refine Touches.foldl (fun _ _ _ => ?_) ?_
    | extract_lets -underBinder
    | split
    | (conv => arg 3; dsimp -zeta -proj +zetaDelta only)

theorem execReacquisitionDone_answers (p : Fin 4) (s : State) : Answers [.free, .out, .node, .reg, .irq, .log, .wak, .bb, .net, .ina, .tim, .spl, .cpu] s (execReacquisitionDone p s) := by
  unfold execReacquisitionDone
  with_reducible repeat' first
    | (extract_lets -underBinder +onlyGivenNames x; (first | refine Answers.mp (t := x) ?_ ?bb | refine Touches.mp (t := x) ?_ ?bb); case' bb => clear_value x; revert x; refine Touches.keep ?_; intro _ _)
    | refine Answers.next ?_
    | refine Answers.ite (fun _ => ?_) (fun _ => ?_)
    | exact Touches.refl _ _
    | assumption
    | refine Touches.ite (fun _ => ?_) (fun _ => ?_)
    | refine (bump_touches ..).after (by decide) ?_
    | refine (linkUp_touches ..).after (by decide) ?_
    | refine Touches.foldl (fun _ _ _ => ?_) ?_
    | extract_lets -underBinder
    | split
    | (conv => arg 3; dsimp -zeta -proj +zetaDelta only)

theorem execReacquisitionTimeout_answers (p : Fin 4) (s : State) : Answers [.now, .up, .out, .reg, .irq, .log, .bb, .cpu] s (execReacquisitionTimeout p s) := by
  unfold execReacquisitionTimeout
  with_reducible repeat' first
    | (extract_lets -underBinder +onlyGivenNames x; (first | refine Answers.mp (t := x) ?_ ?bb | refine Touches.mp (t := x) ?_ ?bb); case' bb => clear_value x; revert x; refine Touches.keep ?_; intro _ _)
    | refine Answers.next ?_
    | refine Answers.ite (fun _ => ?_) (fun _ => ?_)
    | exact Touches.refl _ _
    | assumption
    | refine Touches.ite (fun _ => ?_) (fun _ => ?_)
    | refine (passTo_touches ..).after (by decide) ?_
    | refine (setLink_touches ..).after (by decide) ?_
    | refine Touches.foldl (fun _ _ _ => ?_) ?_
    | extract_lets -underBinder
    | split
    | (conv => arg 3; dsimp -zeta -proj +zetaDelta only)

theorem execEqLoopSample_answers (p : Fin 4) (margin : Byte) (saturated : Bool) (s : State) : Answers [.bb] s (execEqLoopSample p margin saturated s) := by
  unfold execEqLoopSample
  with_reducible repeat' first
    | (extract_lets -underBinder +onlyGivenNames x; (first | refine Answers.mp (t := x) ?_ ?bb | refine Touches.mp (t := x) ?_ ?bb); case' bb => clear_value x; revert x; refine Touches.keep ?_; intro _ _)
    | refine Answers.next ?_
    | refine Answers.ite (fun _ => ?_) (fun _ => ?_)
    | exact Touches.refl _ _
    | assumption
    | refine Touches.ite (fun _ => ?_) (fun _ => ?_)
    | refine (setLink_touches ..).after (by decide) ?_
    | refine Touches.foldl (fun _ _ _ => ?_) ?_
    | extract_lets -underBinder
    | split
    | (conv => arg 3; dsimp -zeta -proj +zetaDelta only)

theorem execMarginLow_answers (p : Fin 4) (s : State) : Answers [.now, .up, .out, .reg, .irq, .log, .bb, .cpu] s (execMarginLow p s) := by
  unfold execMarginLow
  with_reducible repeat' first
    | (extract_lets -underBinder +onlyGivenNames x; (first | refine Answers.mp (t := x) ?_ ?bb | refine Touches.mp (t := x) ?_ ?bb); case' bb => clear_value x; revert x; refine Touches.keep ?_; intro _ _)
    | refine Answers.next ?_
    | refine Answers.ite (fun _ => ?_) (fun _ => ?_)
    | exact Touches.refl _ _
    | assumption
    | refine Touches.ite (fun _ => ?_) (fun _ => ?_)
    | refine (bump_touches ..).after (by decide) ?_
    | refine (passTo_touches ..).after (by decide) ?_
    | refine (setLink_touches ..).after (by decide) ?_
    | refine Touches.foldl (fun _ _ _ => ?_) ?_
    | extract_lets -underBinder
    | split
    | (conv => arg 3; dsimp -zeta -proj +zetaDelta only)

theorem doLinkRestart_touches (p : Nat) (s : State) : Touches [.free, .out, .node, .reg, .irq, .log, .wak, .bb, .net, .ina, .tim, .spl, .cpu] s (doLinkRestart p s) := by
  unfold doLinkRestart
  with_reducible repeat' first
    | exact Touches.refl _ _
    | assumption
    | refine Touches.ite (fun _ => ?_) (fun _ => ?_)
    | refine (retrain_touches ..).after (by decide) ?_
    | refine Touches.foldl (fun _ _ _ => ?_) ?_
    | extract_lets -underBinder
    | split
    | (conv => arg 3; dsimp -zeta -proj +zetaDelta only)

theorem execLinkRestart_answers (p : Fin 17) (s : State) : Answers [.free, .out, .node, .reg, .irq, .log, .wak, .bb, .net, .ina, .tim, .spl, .cpu] s (execLinkRestart p s) := by
  unfold execLinkRestart
  with_reducible repeat' first
    | refine Answers.next ?_
    | refine Answers.ite (fun _ => ?_) (fun _ => ?_)
    | exact Touches.refl _ _
    | assumption
    | refine Touches.ite (fun _ => ?_) (fun _ => ?_)
    | refine (doLinkRestart_touches ..).after (by decide) ?_
    | refine Touches.foldl (fun _ _ _ => ?_) ?_
    | extract_lets -underBinder
    | split
    | (conv => arg 3; dsimp -zeta -proj +zetaDelta only)

theorem execLoopCheckDone_answers (l : Line) (ok : Bool) (s : State) : Answers [.free, .out, .node, .reg, .irq, .log, .wak, .bb, .net, .ina, .tim, .spl, .cpu] s (execLoopCheckDone l ok s) := by
  unfold execLoopCheckDone
  with_reducible repeat' first
    | (extract_lets -underBinder +onlyGivenNames x; (first | refine Answers.mp (t := x) ?_ ?bb | refine Touches.mp (t := x) ?_ ?bb); case' bb => clear_value x; revert x; refine Touches.keep ?_; intro _ _)
    | refine Answers.next ?_
    | refine Answers.ite (fun _ => ?_) (fun _ => ?_)
    | exact Touches.refl _ _
    | assumption
    | refine Touches.ite (fun _ => ?_) (fun _ => ?_)
    | refine (setLine_touches ..).after (by decide) ?_
    | refine (reportLine_touches ..).after (by decide) ?_
    | refine (startInsertion_touches ..).after (by decide) ?_
    | refine Touches.foldl (fun _ _ _ => ?_) ?_
    | extract_lets -underBinder
    | split
    | (conv => arg 3; dsimp -zeta -proj +zetaDelta only)

theorem execInsertionTimeout_answers (l : Line) (s : State) : Answers [.now, .up, .free, .out, .node, .reg, .irq, .log, .wak, .bb, .net, .ina, .tim, .spl, .cpu] s (execInsertionTimeout l s) := by
  unfold execInsertionTimeout
  with_reducible repeat' first
    | (extract_lets -underBinder +onlyGivenNames x; (first | refine Answers.mp (t := x) ?_ ?bb | refine Touches.mp (t := x) ?_ ?bb); case' bb => clear_value x; revert x; refine Touches.keep ?_; intro _ _)
    | refine Answers.next ?_
    | refine Answers.ite (fun _ => ?_) (fun _ => ?_)
    | exact Touches.refl _ _
    | assumption
    | refine Touches.ite (fun _ => ?_) (fun _ => ?_)
    | refine (passTo_touches ..).after (by decide) ?_
    | refine (setLine_touches ..).after (by decide) ?_
    | refine (progress_touches ..).after (by decide) ?_
    | refine (controlled_touches ..).after (by decide) ?_
    | refine (resumeInsert_touches ..).after (by decide) ?_
    | refine Touches.foldl (fun _ _ _ => ?_) ?_
    | extract_lets -underBinder
    | split
    | (conv => arg 3; dsimp -zeta -proj +zetaDelta only)

theorem joinHold_touches (l : Line) (s : State) : Touches [.bb] s (joinHold l s) := by
  unfold joinHold
  with_reducible repeat' first
    | exact Touches.refl _ _
    | assumption
    | refine Touches.ite (fun _ => ?_) (fun _ => ?_)
    | refine Touches.foldl (fun _ _ _ => ?_) ?_
    | ((conv => arg 3; arg 29); first | refine Touches.bb_set (by decide) ?_ | refine Touches.set rfl rfl rfl rfl rfl ?_)
    | extract_lets -underBinder
    | split
    | ((conv => arg 3; fail_if_success arg 1); refine Touches.set rfl rfl rfl rfl rfl ?_)
    | (conv => arg 3; dsimp -zeta -proj +zetaDelta only)

theorem execRelayStaggerExpiry_answers (s : State) : Answers [.now, .up, .free, .out, .node, .reg, .irq, .log, .wak, .bb, .net, .ina, .tim, .spl, .cpu] s (execRelayStaggerExpiry s) := by
  unfold execRelayStaggerExpiry
  with_reducible repeat' first
    | (extract_lets -underBinder +onlyGivenNames x; (first | refine Answers.mp (t := x) ?_ ?bb | refine Touches.mp (t := x) ?_ ?bb); case' bb => clear_value x; revert x; refine Touches.keep ?_; intro _ _)
    | refine Answers.next ?_
    | refine Answers.ite (fun _ => ?_) (fun _ => ?_)
    | exact Touches.refl _ _
    | assumption
    | refine Touches.ite (fun _ => ?_) (fun _ => ?_)
    | refine (passTo_touches ..).after (by decide) ?_
    | refine (controlled_touches ..).after (by decide) ?_
    | refine (resumeInsert_touches ..).after (by decide) ?_
    | refine (joinHold_touches ..).after (by decide) ?_
    | refine Touches.foldl (fun _ _ _ => ?_) ?_
    | ((conv => arg 3; arg 29); first | refine Touches.bb_set (by decide) ?_ | refine Touches.set rfl rfl rfl rfl rfl ?_)
    | extract_lets -underBinder
    | split
    | ((conv => arg 3; fail_if_success arg 1); refine Touches.set rfl rfl rfl rfl rfl ?_)
    | (conv => arg 3; dsimp -zeta -proj +zetaDelta only)

theorem spaced_touches (l : Line) (s : State) : Touches [.now, .up, .out, .reg, .irq, .log, .cpu] s (spaced l s) := by
  unfold spaced
  with_reducible repeat' first
    | exact Touches.refl _ _
    | assumption
    | refine Touches.ite (fun _ => ?_) (fun _ => ?_)
    | refine (passTo_touches ..).after (by decide) ?_
    | refine Touches.foldl (fun _ _ _ => ?_) ?_
    | extract_lets -underBinder
    | split
    | (conv => arg 3; dsimp -zeta -proj +zetaDelta only)

theorem execSingleLineInsert_answers (l : Line) (s : State) : Answers [.now, .up, .free, .out, .node, .reg, .irq, .log, .wak, .bb, .net, .ina, .tim, .spl, .cpu] s (execSingleLineInsert l s) := by
  unfold execSingleLineInsert
  with_reducible repeat' first
    | (extract_lets -underBinder +onlyGivenNames x; (first | refine Answers.mp (t := x) ?_ ?bb | refine Touches.mp (t := x) ?_ ?bb); case' bb => clear_value x; revert x; refine Touches.keep ?_; intro _ _)
    | refine Answers.next ?_
    | refine Answers.ite (fun _ => ?_) (fun _ => ?_)
    | exact Touches.refl _ _
    | assumption
    | refine Touches.ite (fun _ => ?_) (fun _ => ?_)
    | refine (toFrame_touches ..).after (by decide) ?_
    | refine (setLine_touches ..).after (by decide) ?_
    | refine (controlled_touches ..).after (by decide) ?_
    | refine (insertLine_touches ..).after (by decide) ?_
    | refine (joinHold_touches ..).after (by decide) ?_
    | refine (spaced_touches ..).after (by decide) ?_
    | refine Touches.foldl (fun _ _ _ => ?_) ?_
    | extract_lets -underBinder
    | split
    | (conv => arg 3; dsimp -zeta -proj +zetaDelta only)

theorem resumeSwitch_touches (d : Deferred) (s : State) : Touches [.now, .up, .free, .out, .node, .reg, .irq, .log, .wak, .bb, .net, .ina, .tim, .spl, .cpu] s (resumeSwitch d s) := by
  unfold resumeSwitch
  with_reducible repeat' first
    | (extract_lets -underBinder +onlyGivenNames x; refine Touches.mp (t := x) ?_ ?bb; case' bb => clear_value x; revert x; refine Touches.keep ?_; intro _ _)
    | exact Touches.refl _ _
    | assumption
    | refine Touches.ite (fun _ => ?_) (fun _ => ?_)
    | refine (toFrame_touches ..).after (by decide) ?_
    | refine (makeSwitch_touches ..).after (by decide) ?_
    | refine (resumeInsert_touches ..).after (by decide) ?_
    | refine (spaced_touches ..).after (by decide) ?_
    | refine Touches.foldl (fun _ _ _ => ?_) ?_
    | ((conv => arg 3; arg 29); first | refine Touches.bb_set (by decide) ?_ | refine Touches.set rfl rfl rfl rfl rfl ?_)
    | extract_lets -underBinder
    | split
    | ((conv => arg 3; fail_if_success arg 1); refine Touches.set rfl rfl rfl rfl rfl ?_)
    | (conv => arg 3; dsimp -zeta -proj +zetaDelta only)

theorem execRelayDeferExpiry_answers (s : State) : Answers [.now, .up, .free, .out, .node, .reg, .irq, .log, .wak, .bb, .net, .ina, .tim, .spl, .cpu] s (execRelayDeferExpiry s) := by
  unfold execRelayDeferExpiry
  with_reducible repeat' first
    | (extract_lets -underBinder +onlyGivenNames x; (first | refine Answers.mp (t := x) ?_ ?bb | refine Touches.mp (t := x) ?_ ?bb); case' bb => clear_value x; revert x; refine Touches.keep ?_; intro _ _)
    | refine Answers.next ?_
    | refine Answers.ite (fun _ => ?_) (fun _ => ?_)
    | exact Touches.refl _ _
    | assumption
    | refine Touches.ite (fun _ => ?_) (fun _ => ?_)
    | refine (bump_touches ..).after (by decide) ?_
    | refine (passTo_touches ..).after (by decide) ?_
    | refine (startRelease_touches ..).after (by decide) ?_
    | refine (resumeSwitch_touches ..).after (by decide) ?_
    | refine Touches.foldl (fun _ _ _ => ?_) ?_
    | ((conv => arg 3; arg 29); first | refine Touches.bb_set (by decide) ?_ | refine Touches.set rfl rfl rfl rfl rfl ?_)
    | extract_lets -underBinder
    | split
    | ((conv => arg 3; fail_if_success arg 1); refine Touches.set rfl rfl rfl rfl rfl ?_)
    | (conv => arg 3; dsimp -zeta -proj +zetaDelta only)

theorem execDeferredSwitchResume_answers (s : State) : Answers [.now, .up, .free, .out, .node, .reg, .irq, .log, .wak, .bb, .net, .ina, .tim, .spl, .cpu] s (execDeferredSwitchResume s) := by
  unfold execDeferredSwitchResume
  with_reducible repeat' first
    | refine Answers.next ?_
    | refine Answers.ite (fun _ => ?_) (fun _ => ?_)
    | exact Touches.refl _ _
    | assumption
    | refine Touches.ite (fun _ => ?_) (fun _ => ?_)
    | refine (resumeSwitch_touches ..).after (by decide) ?_
    | refine Touches.foldl (fun _ _ _ => ?_) ?_
    | extract_lets -underBinder
    | split
    | (conv => arg 3; dsimp -zeta -proj +zetaDelta only)

theorem execJoinRetryTimer_answers (s : State) : Answers [.now, .up, .free, .out, .node, .reg, .irq, .log, .wak, .bb, .net, .ina, .tim, .spl, .cpu] s (execJoinRetryTimer s) := by
  unfold execJoinRetryTimer
  with_reducible repeat' first
    | (extract_lets -underBinder +onlyGivenNames x; (first | refine Answers.mp (t := x) ?_ ?bb | refine Touches.mp (t := x) ?_ ?bb); case' bb => clear_value x; revert x; refine Touches.keep ?_; intro _ _)
    | refine Answers.next ?_
    | refine Answers.ite (fun _ => ?_) (fun _ => ?_)
    | exact Touches.refl _ _
    | assumption
    | refine Touches.ite (fun _ => ?_) (fun _ => ?_)
    | refine (passTo_touches ..).after (by decide) ?_
    | refine (startInsertion_touches ..).after (by decide) ?_
    | refine Touches.foldl (fun _ _ _ => ?_) ?_
    | ((conv => arg 3; arg 29); first | refine Touches.bb_set (by decide) ?_ | refine Touches.set rfl rfl rfl rfl rfl ?_)
    | extract_lets -underBinder
    | split
    | ((conv => arg 3; fail_if_success arg 1); refine Touches.set rfl rfl rfl rfl rfl ?_)
    | (conv => arg 3; dsimp -zeta -proj +zetaDelta only)

theorem execLinkLossClassify_answers (p : Fin 4) (s : State) : Answers [.now, .up, .free, .out, .node, .reg, .irq, .log, .bb, .net, .ina, .spl, .cpu] s (execLinkLossClassify p s) := by
  unfold execLinkLossClassify
  with_reducible repeat' first
    | (extract_lets -underBinder +onlyGivenNames x; (first | refine Answers.mp (t := x) ?_ ?bb | refine Touches.mp (t := x) ?_ ?bb); case' bb => clear_value x; revert x; refine Touches.keep ?_; intro _ _)
    | refine Answers.next ?_
    | refine Answers.ite (fun _ => ?_) (fun _ => ?_)
    | exact Touches.refl _ _
    | assumption
    | refine Touches.ite (fun _ => ?_) (fun _ => ?_)
    | refine (passTo_touches ..).after (by decide) ?_
    | refine (setLink_touches ..).after (by decide) ?_
    | refine (lossRecognised_touches ..).after (by decide) ?_
    | refine Touches.foldl (fun _ _ _ => ?_) ?_
    | extract_lets -underBinder
    | split
    | (conv => arg 3; dsimp -zeta -proj +zetaDelta only)

theorem clearContacts_touches (ls : List Line) (s : State) : Touches [.free, .out, .node, .reg, .irq, .log, .wak, .bb, .net, .ina, .tim, .spl, .cpu] s (clearContacts ls s) := by
  unfold clearContacts
  with_reducible repeat' first
    | (extract_lets -underBinder +onlyGivenNames x; refine Touches.mp (t := x) ?_ ?bb; case' bb => clear_value x; revert x; refine Touches.keep ?_; intro _ _)
    | exact Touches.refl _ _
    | assumption
    | refine Touches.ite (fun _ => ?_) (fun _ => ?_)
    | refine (setLine_touches ..).after (by decide) ?_
    | refine (insertLine_touches ..).after (by decide) ?_
    | refine Touches.foldl (fun _ _ _ => ?_) ?_
    | extract_lets -underBinder
    | split
    | (conv => arg 3; dsimp -zeta -proj +zetaDelta only)

theorem execContactFaultClear_answers (l : Line) (s : State) : Answers [.free, .out, .node, .reg, .irq, .log, .wak, .bb, .net, .ina, .tim, .spl, .cpu] s (execContactFaultClear l s) := by
  unfold execContactFaultClear
  with_reducible repeat' first
    | refine Answers.next ?_
    | refine Answers.ite (fun _ => ?_) (fun _ => ?_)
    | exact Touches.refl _ _
    | assumption
    | refine Touches.ite (fun _ => ?_) (fun _ => ?_)
    | refine (clearContacts_touches ..).after (by decide) ?_
    | refine Touches.foldl (fun _ _ _ => ?_) ?_
    | extract_lets -underBinder
    | split
    | (conv => arg 3; dsimp -zeta -proj +zetaDelta only)

theorem execModeMaskLineBApply_answers (s : State) : Answers [.now, .up, .free, .out, .node, .reg, .irq, .log, .wak, .bb, .net, .ina, .tim, .spl, .cpu] s (execModeMaskLineBApply s) := by
  unfold execModeMaskLineBApply
  with_reducible repeat' first
    | (extract_lets -underBinder +onlyGivenNames x; (first | refine Answers.mp (t := x) ?_ ?bb | refine Touches.mp (t := x) ?_ ?bb); case' bb => clear_value x; revert x; refine Touches.keep ?_; intro _ _)
    | refine Answers.next ?_
    | refine Answers.ite (fun _ => ?_) (fun _ => ?_)
    | exact Touches.refl _ _
    | assumption
    | refine Touches.ite (fun _ => ?_) (fun _ => ?_)
    | refine (passTo_touches ..).after (by decide) ?_
    | refine (linkParams_touches ..).after (by decide) ?_
    | refine Touches.foldl (fun _ _ _ => ?_) ?_
    | ((conv => arg 3; arg 29); first | refine Touches.bb_set (by decide) ?_ | refine Touches.set rfl rfl rfl rfl rfl ?_)
    | extract_lets -underBinder
    | split
    | ((conv => arg 3; fail_if_success arg 1); refine Touches.set rfl rfl rfl rfl rfl ?_)
    | (conv => arg 3; dsimp -zeta -proj +zetaDelta only)

theorem senseError_touches (e : End) (s : State) : Touches [.ina] s (senseError e s) := by
  unfold senseError
  with_reducible repeat' first
    | (extract_lets -underBinder +onlyGivenNames x; refine Touches.mp (t := x) ?_ ?bb; case' bb => clear_value x; revert x; refine Touches.keep ?_; intro _ _)
    | exact Touches.refl _ _
    | assumption
    | refine Touches.ite (fun _ => ?_) (fun _ => ?_)
    | refine Touches.foldl (fun _ _ _ => ?_) ?_
    | ((conv => arg 3; arg 29); first | refine Touches.ina_set (by decide) ?_ | refine Touches.set rfl rfl rfl rfl rfl ?_)
    | extract_lets -underBinder
    | split
    | ((conv => arg 3; fail_if_success arg 1); refine Touches.set rfl rfl rfl rfl rfl ?_)
    | (conv => arg 3; dsimp -zeta -proj +zetaDelta only)

theorem endTrain_touches (e : End) (s : State) : Touches [.out, .reg, .irq, .bb, .ina, .cpu] s (endTrain e s) := by
  unfold endTrain
  with_reducible repeat' first
    | (extract_lets -underBinder +onlyGivenNames x; refine Touches.mp (t := x) ?_ ?bb; case' bb => clear_value x; revert x; refine Touches.keep ?_; intro _ _)
    | exact Touches.refl _ _
    | assumption
    | refine Touches.ite (fun _ => ?_) (fun _ => ?_)
    | refine (setPre_touches ..).after (by decide) ?_
    | refine (startTraining_touches ..).after (by decide) ?_
    | refine Touches.foldl (fun _ _ _ => ?_) ?_
    | ((conv => arg 3; arg 29); first | refine Touches.ina_set (by decide) ?_ | refine Touches.set rfl rfl rfl rfl rfl ?_)
    | extract_lets -underBinder
    | split
    | ((conv => arg 3; fail_if_success arg 1); refine Touches.set rfl rfl rfl rfl rfl ?_)
    | (conv => arg 3; dsimp -zeta -proj +zetaDelta only)

theorem endMate_touches (e : End) (s : State) : Touches [.out, .reg, .irq, .wak, .bb, .ina, .cpu] s (endMate e s) := by
  unfold endMate
  with_reducible repeat' first
    | exact Touches.refl _ _
    | assumption
    | refine Touches.ite (fun _ => ?_) (fun _ => ?_)
    | refine (noteWake_touches ..).after (by decide) ?_
    | refine (endTrain_touches ..).after (by decide) ?_
    | refine Touches.foldl (fun _ _ _ => ?_) ?_
    | extract_lets -underBinder
    | split
    | (conv => arg 3; dsimp -zeta -proj +zetaDelta only)

theorem endUnmate_touches (e : End) (s : State) : Touches [.reg, .ina] s (endUnmate e s) := by
  unfold endUnmate
  with_reducible repeat' first
    | (extract_lets -underBinder +onlyGivenNames x; refine Touches.mp (t := x) ?_ ?bb; case' bb => clear_value x; revert x; refine Touches.keep ?_; intro _ _)
    | exact Touches.refl _ _
    | assumption
    | refine Touches.ite (fun _ => ?_) (fun _ => ?_)
    | refine (bump_touches ..).after (by decide) ?_
    | refine (setPre_touches ..).after (by decide) ?_
    | refine Touches.foldl (fun _ _ _ => ?_) ?_
    | ((conv => arg 3; arg 29); first | refine Touches.ina_set (by decide) ?_ | refine Touches.set rfl rfl rfl rfl rfl ?_)
    | extract_lets -underBinder
    | split
    | ((conv => arg 3; fail_if_success arg 1); refine Touches.set rfl rfl rfl rfl rfl ?_)
    | (conv => arg 3; dsimp -zeta -proj +zetaDelta only)

theorem endFollow_touches (e : End) (old : Nat) (s : State) : Touches [.free, .out, .node, .reg, .irq, .log, .wak, .bb, .net, .ina, .tim, .spl, .cpu] s (endFollow e old s) := by
  unfold endFollow
  with_reducible repeat' first
    | (extract_lets -underBinder +onlyGivenNames x; refine Touches.mp (t := x) ?_ ?bb; case' bb => clear_value x; revert x; refine Touches.keep ?_; intro _ _)
    | exact Touches.refl _ _
    | assumption
    | refine Touches.ite (fun _ => ?_) (fun _ => ?_)
    | refine (neighbourSend_touches ..).after (by decide) ?_
    | refine (lossRecognised_touches ..).after (by decide) ?_
    | refine (evalLines_touches ..).after (by decide) ?_
    | refine (progress_touches ..).after (by decide) ?_
    | refine (resumeInsert_touches ..).after (by decide) ?_
    | refine (senseError_touches ..).after (by decide) ?_
    | refine (endMate_touches ..).after (by decide) ?_
    | refine (endUnmate_touches ..).after (by decide) ?_
    | refine Touches.foldl (fun _ _ _ => ?_) ?_
    | extract_lets -underBinder
    | split
    | (conv => arg 3; dsimp -zeta -proj +zetaDelta only)

theorem execCouplerSenseChange_answers (c : Fin 4) (m : SenseIn) (s : State) : Answers [.free, .out, .node, .reg, .irq, .log, .wak, .tln, .bb, .net, .ina, .tim, .spl, .cpu] s (execCouplerSenseChange c m s) := by
  unfold execCouplerSenseChange
  with_reducible repeat' first
    | (extract_lets -underBinder +onlyGivenNames x; (first | refine Answers.mp (t := x) ?_ ?bb | refine Touches.mp (t := x) ?_ ?bb); case' bb => clear_value x; revert x; refine Touches.keep ?_; intro _ _)
    | refine Answers.next ?_
    | refine Answers.ite (fun _ => ?_) (fun _ => ?_)
    | exact Touches.refl _ _
    | assumption
    | refine Touches.ite (fun _ => ?_) (fun _ => ?_)
    | refine (setCs_touches ..).after (by decide) ?_
    | refine (endFollow_touches ..).after (by decide) ?_
    | refine Touches.foldl (fun _ _ _ => ?_) ?_
    | extract_lets -underBinder
    | split
    | (conv => arg 3; dsimp -zeta -proj +zetaDelta only)

theorem execSenseErrorPersist_answers (e : End) (s : State) : Answers [.now, .up, .out, .reg, .irq, .log, .ina, .cpu] s (execSenseErrorPersist e s) := by
  unfold execSenseErrorPersist
  with_reducible repeat' first
    | refine Answers.next ?_
    | refine Answers.ite (fun _ => ?_) (fun _ => ?_)
    | exact Touches.refl _ _
    | assumption
    | refine Touches.ite (fun _ => ?_) (fun _ => ?_)
    | refine (raiseIrq_touches ..).after (by decide) ?_
    | refine (passTo_touches ..).after (by decide) ?_
    | refine Touches.foldl (fun _ _ _ => ?_) ?_
    | ((conv => arg 3; arg 29); first | refine Touches.ina_set (by decide) ?_ | refine Touches.set rfl rfl rfl rfl rfl ?_)
    | extract_lets -underBinder
    | split
    | ((conv => arg 3; fail_if_success arg 1); refine Touches.set rfl rfl rfl rfl rfl ?_)
    | (conv => arg 3; dsimp -zeta -proj +zetaDelta only)

theorem execDupTxSrcEvict_answers (m : Mac) (s : State) : Answers [.now, .up, .out, .reg, .irq, .log, .net, .cpu] s (execDupTxSrcEvict m s) := by
  unfold execDupTxSrcEvict
  with_reducible repeat' first
    | (extract_lets -underBinder +onlyGivenNames x; (first | refine Answers.mp (t := x) ?_ ?bb | refine Touches.mp (t := x) ?_ ?bb); case' bb => clear_value x; revert x; refine Touches.keep ?_; intro _ _)
    | refine Answers.next ?_
    | refine Answers.ite (fun _ => ?_) (fun _ => ?_)
    | exact Touches.refl _ _
    | assumption
    | refine Touches.ite (fun _ => ?_) (fun _ => ?_)
    | refine (passTo_touches ..).after (by decide) ?_
    | refine Touches.foldl (fun _ _ _ => ?_) ?_
    | ((conv => arg 3; arg 29); first | refine Touches.net_set (by decide) ?_ | refine Touches.set rfl rfl rfl rfl rfl ?_)
    | extract_lets -underBinder
    | split
    | ((conv => arg 3; fail_if_success arg 1); refine Touches.set rfl rfl rfl rfl rfl ?_)
    | (conv => arg 3; dsimp -zeta -proj +zetaDelta only)

theorem execDupRxSrcForget_answers (m : Mac) (s : State) : Answers [.now, .up, .out, .reg, .irq, .log, .net, .cpu] s (execDupRxSrcForget m s) := by
  unfold execDupRxSrcForget
  with_reducible repeat' first
    | (extract_lets -underBinder +onlyGivenNames x; (first | refine Answers.mp (t := x) ?_ ?bb | refine Touches.mp (t := x) ?_ ?bb); case' bb => clear_value x; revert x; refine Touches.keep ?_; intro _ _)
    | refine Answers.next ?_
    | refine Answers.ite (fun _ => ?_) (fun _ => ?_)
    | exact Touches.refl _ _
    | assumption
    | refine Touches.ite (fun _ => ?_) (fun _ => ?_)
    | refine (passTo_touches ..).after (by decide) ?_
    | refine Touches.foldl (fun _ _ _ => ?_) ?_
    | ((conv => arg 3; arg 29); first | refine Touches.net_set (by decide) ?_ | refine Touches.set rfl rfl rfl rfl rfl ?_)
    | extract_lets -underBinder
    | split
    | ((conv => arg 3; fail_if_success arg 1); refine Touches.set rfl rfl rfl rfl rfl ?_)
    | (conv => arg 3; dsimp -zeta -proj +zetaDelta only)

theorem supNoted_touches (s : State) : Touches [.net] s (supNoted s) := by
  unfold supNoted
  with_reducible repeat' first
    | exact Touches.refl _ _
    | assumption
    | refine Touches.ite (fun _ => ?_) (fun _ => ?_)
    | refine Touches.foldl (fun _ _ _ => ?_) ?_
    | ((conv => arg 3; arg 29); first | refine Touches.net_set (by decide) ?_ | refine Touches.set rfl rfl rfl rfl rfl ?_)
    | extract_lets -underBinder
    | split
    | ((conv => arg 3; fail_if_success arg 1); refine Touches.set rfl rfl rfl rfl rfl ?_)
    | (conv => arg 3; dsimp -zeta -proj +zetaDelta only)

theorem supSend_touches (s : State) : Touches [.free, .out, .reg, .irq, .net, .cpu] s (supSend s) := by
  unfold supSend
  with_reducible repeat' first
    | (extract_lets -underBinder +onlyGivenNames x; refine Touches.mp (t := x) ?_ ?bb; case' bb => clear_value x; revert x; refine Touches.keep ?_; intro _ _)
    | exact Touches.refl _ _
    | assumption
    | refine Touches.ite (fun _ => ?_) (fun _ => ?_)
    | refine (newId_touches ..).after (by decide) ?_
    | refine (Touches.ofPair ‹newId _ = _› (newId_touches ..)).after (by decide) ?_
    | refine (txSequence_touches ..).after (by decide) ?_
    | refine (Touches.ofPair ‹txSequence _ _ = _› (txSequence_touches ..)).after (by decide) ?_
    | refine (planeIn_touches ..).after (by decide) ?_
    | refine (supNoted_touches ..).after (by decide) ?_
    | refine Touches.foldl (fun _ _ _ => ?_) ?_
    | extract_lets -underBinder
    | split
    | (conv => arg 3; dsimp -zeta -proj +zetaDelta only)

theorem execSupervisionFrameSend_answers (s : State) : Answers [.now, .up, .free, .out, .reg, .irq, .log, .net, .cpu] s (execSupervisionFrameSend s) := by
  unfold execSupervisionFrameSend
  with_reducible repeat' first
    | refine Answers.next ?_
    | refine Answers.ite (fun _ => ?_) (fun _ => ?_)
    | exact Touches.refl _ _
    | assumption
    | refine Touches.ite (fun _ => ?_) (fun _ => ?_)
    | refine (passTo_touches ..).after (by decide) ?_
    | refine (supSend_touches ..).after (by decide) ?_
    | refine Touches.foldl (fun _ _ _ => ?_) ?_
    | extract_lets -underBinder
    | split
    | (conv => arg 3; dsimp -zeta -proj +zetaDelta only)

theorem execDupDrained_answers (s : State) : Answers [.net] s (execDupDrained s) := by
  unfold execDupDrained
  with_reducible repeat' first
    | refine Answers.next ?_
    | refine Answers.ite (fun _ => ?_) (fun _ => ?_)
    | exact Touches.refl _ _
    | assumption
    | refine Touches.ite (fun _ => ?_) (fun _ => ?_)
    | refine Touches.foldl (fun _ _ _ => ?_) ?_
    | ((conv => arg 3; arg 29); first | refine Touches.net_set (by decide) ?_ | refine Touches.set rfl rfl rfl rfl rfl ?_)
    | extract_lets -underBinder
    | split
    | ((conv => arg 3; fail_if_success arg 1); refine Touches.set rfl rfl rfl rfl rfl ?_)
    | (conv => arg 3; dsimp -zeta -proj +zetaDelta only)

end Sys2Proof.Machine
end

