-- ==== Sys2Proof/Laws/Check.lean ====
section
/-!
SUPPORT. Laws/Check.lean: the frame of every operation of Machine/Check.lean: which parts of the state it may change, and that it keeps the bounds.
-/
namespace Sys2Proof.Machine

set_option Elab.async false
set_option linter.all false

theorem chkCollide_touches (s : State) : Touches [.chk] s (chkCollide s) := by
  unfold chkCollide
  with_reducible repeat' first
    | exact Touches.refl _ _
    | assumption
    | refine Touches.ite (fun _ => ?_) (fun _ => ?_)
    | refine Touches.foldl (fun _ _ _ => ?_) ?_
    | ((conv => arg 3; arg 29); first | refine Touches.chk_set (by decide) ?_ | refine Touches.set rfl rfl rfl rfl rfl ?_)
    | extract_lets -underBinder
    | split
    | ((conv => arg 3; fail_if_success arg 1); refine Touches.set rfl rfl rfl rfl rfl ?_)
    | (conv => arg 3; dsimp -zeta -proj +zetaDelta only)

theorem chkStart_touches (s : State) : Touches [.chk] s (chkStart s) := by
  unfold chkStart
  with_reducible repeat' first
    | exact Touches.refl _ _
    | assumption
    | refine Touches.ite (fun _ => ?_) (fun _ => ?_)
    | refine (chkCollide_touches ..).after (by decide) ?_
    | refine Touches.foldl (fun _ _ _ => ?_) ?_
    | ((conv => arg 3; arg 29); first | refine Touches.chk_set (by decide) ?_ | refine Touches.set rfl rfl rfl rfl rfl ?_)
    | extract_lets -underBinder
    | split
    | ((conv => arg 3; fail_if_success arg 1); refine Touches.set rfl rfl rfl rfl rfl ?_)
    | (conv => arg 3; dsimp -zeta -proj +zetaDelta only)

theorem chkData_touches (l : List Byte) (s : State) : Touches [.chk] s (chkData l s) := by
  unfold chkData
  with_reducible repeat' first
    | exact Touches.refl _ _
    | assumption
    | refine Touches.ite (fun _ => ?_) (fun _ => ?_)
    | refine (chkCollide_touches ..).after (by decide) ?_
    | refine Touches.foldl (fun _ _ _ => ?_) ?_
    | ((conv => arg 3; arg 29); first | refine Touches.chk_set (by decide) ?_ | refine Touches.set rfl rfl rfl rfl rfl ?_)
    | extract_lets -underBinder
    | split
    | ((conv => arg 3; fail_if_success arg 1); refine Touches.set rfl rfl rfl rfl rfl ?_)
    | (conv => arg 3; dsimp -zeta -proj +zetaDelta only)

theorem chkSetDone_touches (s : State) : Touches [.out, .reg, .irq, .chk, .cpu] s (chkSetDone s) := by
  unfold chkSetDone
  with_reducible repeat' first
    | (extract_lets -underBinder +onlyGivenNames x; refine Touches.mp (t := x) ?_ ?bb; case' bb => clear_value x; revert x; refine Touches.keep ?_; intro _ _)
    | exact Touches.refl _ _
    | assumption
    | refine Touches.ite (fun _ => ?_) (fun _ => ?_)
    | refine (raiseIrq_touches ..).after (by decide) ?_
    | refine Touches.foldl (fun _ _ _ => ?_) ?_
    | ((conv => arg 3; arg 29); first | refine Touches.chk_set (by decide) ?_ | refine Touches.set rfl rfl rfl rfl rfl ?_)
    | extract_lets -underBinder
    | split
    | ((conv => arg 3; fail_if_success arg 1); refine Touches.set rfl rfl rfl rfl rfl ?_)
    | (conv => arg 3; dsimp -zeta -proj +zetaDelta only)

theorem chkResult_touches (c : Word) (s : State) : Touches [.out, .reg, .irq, .chk, .cpu] s (chkResult c s) := by
  unfold chkResult
  with_reducible repeat' first
    | exact Touches.refl _ _
    | assumption
    | refine Touches.ite (fun _ => ?_) (fun _ => ?_)
    | refine (bump_touches ..).after (by decide) ?_
    | refine (chkSetDone_touches ..).after (by decide) ?_
    | refine Touches.foldl (fun _ _ _ => ?_) ?_
    | ((conv => arg 3; arg 29); first | refine Touches.chk_set (by decide) ?_ | refine Touches.set rfl rfl rfl rfl rfl ?_)
    | extract_lets -underBinder
    | split
    | ((conv => arg 3; fail_if_success arg 1); refine Touches.set rfl rfl rfl rfl rfl ?_)
    | (conv => arg 3; dsimp -zeta -proj +zetaDelta only)

theorem chkFinish_touches (s : State) : Touches [.out, .reg, .irq, .chk, .cpu] s (chkFinish s) := by
  unfold chkFinish
  with_reducible repeat' first
    | exact Touches.refl _ _
    | assumption
    | refine Touches.ite (fun _ => ?_) (fun _ => ?_)
    | refine (chkCollide_touches ..).after (by decide) ?_
    | refine (chkResult_touches ..).after (by decide) ?_
    | refine Touches.foldl (fun _ _ _ => ?_) ?_
    | extract_lets -underBinder
    | split
    | (conv => arg 3; dsimp -zeta -proj +zetaDelta only)

theorem chkGo_touches (s : State) : Touches [.chk] s (chkGo s) := by
  unfold chkGo
  with_reducible repeat' first
    | exact Touches.refl _ _
    | assumption
    | refine Touches.ite (fun _ => ?_) (fun _ => ?_)
    | refine (chkCollide_touches ..).after (by decide) ?_
    | refine Touches.foldl (fun _ _ _ => ?_) ?_
    | ((conv => arg 3; arg 29); first | refine Touches.chk_set (by decide) ?_ | refine Touches.set rfl rfl rfl rfl rfl ?_)
    | extract_lets -underBinder
    | split
    | ((conv => arg 3; fail_if_success arg 1); refine Touches.set rfl rfl rfl rfl rfl ?_)
    | (conv => arg 3; dsimp -zeta -proj +zetaDelta only)

theorem chkDisable_touches (s : State) : Touches [.chk] s (chkDisable s) := by
  unfold chkDisable
  with_reducible repeat' first
    | exact Touches.refl _ _
    | assumption
    | refine Touches.ite (fun _ => ?_) (fun _ => ?_)
    | refine Touches.foldl (fun _ _ _ => ?_) ?_
    | ((conv => arg 3; arg 29); first | refine Touches.chk_set (by decide) ?_ | refine Touches.set rfl rfl rfl rfl rfl ?_)
    | extract_lets -underBinder
    | split
    | ((conv => arg 3; fail_if_success arg 1); refine Touches.set rfl rfl rfl rfl rfl ?_)
    | (conv => arg 3; dsimp -zeta -proj +zetaDelta only)

theorem chkBy_touches {k : List Blk} {who : Requester} {f : State → State} {s t : State} (hk : Blk.sub [.reg] k = true)
    (hf : ∀ u, Touches k s u → Touches k s (f u)) (h : Touches k s t) : Touches k s (chkBy who f t) := by
  unfold chkBy
  exact Touches.ite (fun _ => h) (fun _ => Touches.ite (fun _ => (bump_touches ..).after hk h) (fun _ => hf _ h))

theorem execChkStart_answers (who : Requester) (s : State) : Answers [.reg, .chk] s (execChkStart who s) := by
  unfold execChkStart
  with_reducible repeat' first
    | refine Answers.next ?_
    | refine Answers.ite (fun _ => ?_) (fun _ => ?_)
    | exact Touches.refl _ _
    | assumption
    | refine Touches.ite (fun _ => ?_) (fun _ => ?_)
    | refine (chkStart_touches ..).after (by decide) ?_
    | refine chkBy_touches (by decide) (fun _ _ => ?_) ?_
    | refine Touches.foldl (fun _ _ _ => ?_) ?_
    | extract_lets -underBinder
    | split
    | (conv => arg 3; dsimp -zeta -proj +zetaDelta only)

theorem execChkData_answers (who : Requester) (v : Word) (s : State) : Answers [.reg, .chk] s (execChkData who v s) := by
  unfold execChkData
  with_reducible repeat' first
    | refine Answers.next ?_
    | refine Answers.ite (fun _ => ?_) (fun _ => ?_)
    | exact Touches.refl _ _
    | assumption
    | refine Touches.ite (fun _ => ?_) (fun _ => ?_)
    | refine (chkData_touches ..).after (by decide) ?_
    | refine chkBy_touches (by decide) (fun _ _ => ?_) ?_
    | refine Touches.foldl (fun _ _ _ => ?_) ?_
    | extract_lets -underBinder
    | split
    | (conv => arg 3; dsimp -zeta -proj +zetaDelta only)

theorem execChkData8_answers (who : Requester) (b : Byte) (s : State) : Answers [.reg, .chk] s (execChkData8 who b s) := by
  unfold execChkData8
  with_reducible repeat' first
    | refine Answers.next ?_
    | refine Answers.ite (fun _ => ?_) (fun _ => ?_)
    | exact Touches.refl _ _
    | assumption
    | refine Touches.ite (fun _ => ?_) (fun _ => ?_)
    | refine (chkData_touches ..).after (by decide) ?_
    | refine chkBy_touches (by decide) (fun _ _ => ?_) ?_
    | refine Touches.foldl (fun _ _ _ => ?_) ?_
    | extract_lets -underBinder
    | split
    | (conv => arg 3; dsimp -zeta -proj +zetaDelta only)

theorem execChkFinish_answers (who : Requester) (s : State) : Answers [.out, .reg, .irq, .chk, .cpu] s (execChkFinish who s) := by
  unfold execChkFinish
  with_reducible repeat' first
    | refine Answers.next ?_
    | refine Answers.ite (fun _ => ?_) (fun _ => ?_)
    | exact Touches.refl _ _
    | assumption
    | refine Touches.ite (fun _ => ?_) (fun _ => ?_)
    | refine (chkFinish_touches ..).after (by decide) ?_
    | refine chkBy_touches (by decide) (fun _ _ => ?_) ?_
    | refine Touches.foldl (fun _ _ _ => ?_) ?_
    | extract_lets -underBinder
    | split
    | (conv => arg 3; dsimp -zeta -proj +zetaDelta only)

theorem execChkGo_answers (who : Requester) (s : State) : Answers [.reg, .chk] s (execChkGo who s) := by
  unfold execChkGo
  with_reducible repeat' first
    | refine Answers.next ?_
    | refine Answers.ite (fun _ => ?_) (fun _ => ?_)
    | exact Touches.refl _ _
    | assumption
    | refine Touches.ite (fun _ => ?_) (fun _ => ?_)
    | refine (chkGo_touches ..).after (by decide) ?_
    | refine chkBy_touches (by decide) (fun _ _ => ?_) ?_
    | refine Touches.foldl (fun _ _ _ => ?_) ?_
    | extract_lets -underBinder
    | split
    | (conv => arg 3; dsimp -zeta -proj +zetaDelta only)

theorem chkFail_touches (n : Nat) (s : State) : Touches [.out, .reg, .irq, .chk, .cpu] s (chkFail n s) := by
  unfold chkFail
  with_reducible repeat' first
    | exact Touches.refl _ _
    | assumption
    | refine Touches.ite (fun _ => ?_) (fun _ => ?_)
    | refine (raiseIrq_touches ..).after (by decide) ?_
    | refine Touches.foldl (fun _ _ _ => ?_) ?_
    | ((conv => arg 3; arg 29); first | refine Touches.chk_set (by decide) ?_ | refine Touches.set rfl rfl rfl rfl rfl ?_)
    | extract_lets -underBinder
    | split
    | ((conv => arg 3; fail_if_success arg 1); refine Touches.set rfl rfl rfl rfl rfl ?_)
    | (conv => arg 3; dsimp -zeta -proj +zetaDelta only)

theorem chkLost_touches (s : State) : Touches [.free, .out, .reg, .irq, .chk, .cpu] s (chkLost s) := by
  unfold chkLost
  with_reducible repeat' first
    | (extract_lets -underBinder +onlyGivenNames x; refine Touches.mp (t := x) ?_ ?bb; case' bb => clear_value x; revert x; refine Touches.keep ?_; intro _ _)
    | exact Touches.refl _ _
    | assumption
    | refine Touches.ite (fun _ => ?_) (fun _ => ?_)
    | refine (nextFree_touches ..).after (by decide) ?_
    | refine (Touches.ofPair ‹nextFree _ = _› (nextFree_touches ..)).after (by decide) ?_
    | refine (chkFail_touches ..).after (by decide) ?_
    | refine Touches.foldl (fun _ _ _ => ?_) ?_
    | extract_lets -underBinder
    | split
    | (conv => arg 3; dsimp -zeta -proj +zetaDelta only)

theorem execChkDescriptorDone_answers (eccError : Bool) (data : List Byte) (s : State) : Answers [.out, .reg, .irq, .chk, .cpu] s (execChkDescriptorDone eccError data s) := by
  unfold execChkDescriptorDone
  with_reducible repeat' first
    | (extract_lets -underBinder +onlyGivenNames x; (first | refine Answers.mp (t := x) ?_ ?bb | refine Touches.mp (t := x) ?_ ?bb); case' bb => clear_value x; revert x; refine Touches.keep ?_; intro _ _)
    | refine Answers.next ?_
    | refine Answers.ite (fun _ => ?_) (fun _ => ?_)
    | exact Touches.refl _ _
    | assumption
    | refine Touches.ite (fun _ => ?_) (fun _ => ?_)
    | refine (chkResult_touches ..).after (by decide) ?_
    | refine (chkFail_touches ..).after (by decide) ?_
    | refine Touches.foldl (fun _ _ _ => ?_) ?_
    | ((conv => arg 3; arg 29); first | refine Touches.chk_set (by decide) ?_ | refine Touches.set rfl rfl rfl rfl rfl ?_)
    | extract_lets -underBinder
    | split
    | ((conv => arg 3; fail_if_success arg 1); refine Touches.set rfl rfl rfl rfl rfl ?_)
    | (conv => arg 3; dsimp -zeta -proj +zetaDelta only)

theorem execChkDisable_answers (who : Requester) (s : State) : Answers [.reg, .chk] s (execChkDisable who s) := by
  unfold execChkDisable
  with_reducible repeat' first
    | refine Answers.next ?_
    | refine Answers.ite (fun _ => ?_) (fun _ => ?_)
    | exact Touches.refl _ _
    | assumption
    | refine Touches.ite (fun _ => ?_) (fun _ => ?_)
    | refine (chkDisable_touches ..).after (by decide) ?_
    | refine chkBy_touches (by decide) (fun _ _ => ?_) ?_
    | refine Touches.foldl (fun _ _ _ => ?_) ?_
    | extract_lets -underBinder
    | split
    | (conv => arg 3; dsimp -zeta -proj +zetaDelta only)

end Sys2Proof.Machine
end

