-- ==== Sys2Proof/Laws/Power.lean ====
section
/-!
SUPPORT. Laws/Power.lean: the frame of every operation of Machine/Power.lean: which parts of the state it may change, and that it keeps the bounds.
-/
namespace Sys2Proof.Machine

set_option Elab.async false
set_option linter.all false

theorem setDom_touches (d : Dom) (x : DomSt) (s : State) : Touches [.pwr] s (setDom d x s) := by
  unfold setDom
  with_reducible repeat' first
    | exact Touches.refl _ _
    | assumption
    | refine Touches.ite (fun _ => ?_) (fun _ => ?_)
    | refine Touches.foldl (fun _ _ _ => ?_) ?_
    | ((conv => arg 3; arg 29); first | refine Touches.pwr_set (by decide) ?_ | refine Touches.set rfl rfl rfl rfl rfl ?_)
    | extract_lets -underBinder
    | split
    | ((conv => arg 3; fail_if_success arg 1); refine Touches.set rfl rfl rfl rfl rfl ?_)
    | (conv => arg 3; dsimp -zeta -proj +zetaDelta only)

theorem dropPlane_touches (l : Line) (s : State) : Touches [.out, .reg, .irq, .net, .cpu] s (dropPlane l s) := by
  unfold dropPlane
  with_reducible repeat' first
    | exact Touches.refl _ _
    | assumption
    | refine Touches.ite (fun _ => ?_) (fun _ => ?_)
    | refine (setMac_touches ..).after (by decide) ?_
    | refine (flowAll_touches ..).after (by decide) ?_
    | refine Touches.foldl (fun _ _ _ => ?_) ?_
    | extract_lets -underBinder
    | split
    | (conv => arg 3; dsimp -zeta -proj +zetaDelta only)

theorem planeDown_touches (l : Line) (s : State) : Touches [.free, .out, .node, .reg, .irq, .log, .wak, .bb, .net, .ina, .tim, .spl, .cpu] s (planeDown l s) := by
  unfold planeDown
  with_reducible repeat' first
    | exact Touches.refl _ _
    | assumption
    | refine Touches.ite (fun _ => ?_) (fun _ => ?_)
    | refine (evalLine_touches ..).after (by decide) ?_
    | refine (releaseNow_touches ..).after (by decide) ?_
    | refine (dropPlane_touches ..).after (by decide) ?_
    | refine Touches.foldl (fun _ _ _ => ?_) ?_
    | extract_lets -underBinder
    | split
    | (conv => arg 3; dsimp -zeta -proj +zetaDelta only)

theorem macStop_touches (p : Nat) (s : State) : Touches [.out, .reg, .irq, .net, .cpu] s (macStop p s) := by
  unfold macStop
  with_reducible repeat' first
    | (extract_lets -underBinder +onlyGivenNames x; refine Touches.mp (t := x) ?_ ?bb; case' bb => clear_value x; revert x; refine Touches.keep ?_; intro _ _)
    | exact Touches.refl _ _
    | assumption
    | refine Touches.ite (fun _ => ?_) (fun _ => ?_)
    | refine (setMac_touches ..).after (by decide) ?_
    | refine (flowAll_touches ..).after (by decide) ?_
    | refine (settleWire_touches ..).after (by decide) ?_
    | refine (wireMark_touches ..).after (by decide) ?_
    | refine (flushQueues_touches ..).after (by decide) ?_
    | refine Touches.foldl (fun _ _ _ => ?_) ?_
    | extract_lets -underBinder
    | split
    | (conv => arg 3; dsimp -zeta -proj +zetaDelta only)

theorem endpointReset_touches (s : State) : Touches [.free, .out, .reg, .irq, .od, .tak, .net, .spl, .pdb, .cpu] s (endpointReset s) := by
  unfold endpointReset
  with_reducible repeat' first
    | (extract_lets -underBinder +onlyGivenNames x; refine Touches.mp (t := x) ?_ ?bb; case' bb => clear_value x; revert x; refine Touches.keep ?_; intro _ _)
    | exact Touches.refl _ _
    | assumption
    | refine Touches.ite (fun _ => ?_) (fun _ => ?_)
    | refine (setSess_touches ..).after (by decide) ?_
    | refine (scrapUser_touches ..).after (by decide) ?_
    | refine Touches.foldl (fun _ _ _ => ?_) ?_
    | ((conv => arg 3; arg 29); first | refine Touches.reg_set (by decide) ?_ | refine Touches.irq_set (by decide) ?_ | refine Touches.od_set (by decide) ?_ | refine Touches.set rfl rfl rfl rfl rfl ?_)
    | extract_lets -underBinder
    | split
    | ((conv => arg 3; fail_if_success arg 1); refine Touches.set rfl rfl rfl rfl rfl ?_)
    | (conv => arg 3; dsimp -zeta -proj +zetaDelta only)

theorem domLost_touches (d : Dom) (s : State) : Touches [.free, .out, .node, .reg, .irq, .pwr, .log, .od, .tak, .wak, .tln, .bb, .net, .ina, .tim, .spl, .chk, .pdb, .cpu] s (domLost d s) := by
  unfold domLost
  with_reducible repeat' first
    | (extract_lets -underBinder +onlyGivenNames x; refine Touches.mp (t := x) ?_ ?bb; case' bb => clear_value x; revert x; refine Touches.keep ?_; intro _ _)
    | exact Touches.refl _ _
    | assumption
    | refine Touches.ite (fun _ => ?_) (fun _ => ?_)
    | refine (raiseIrq_touches ..).after (by decide) ?_
    | refine (recLost_touches ..).after (by decide) ?_
    | refine (noteDriven_touches ..).after (by decide) ?_
    | refine (trainLinesLost_touches ..).after (by decide) ?_
    | refine (portDisable_touches ..).after (by decide) ?_
    | refine (releaseBoth_touches ..).after (by decide) ?_
    | refine (hostSpliceClose_touches ..).after (by decide) ?_
    | refine (coreSpliceClose_touches ..).after (by decide) ?_
    | refine (chkLost_touches ..).after (by decide) ?_
    | refine (setDom_touches ..).after (by decide) ?_
    | refine (planeDown_touches ..).after (by decide) ?_
    | refine (macStop_touches ..).after (by decide) ?_
    | refine (endpointReset_touches ..).after (by decide) ?_
    | refine Touches.foldl (fun _ _ _ => ?_) ?_
    | ((conv => arg 3; arg 29); first | refine Touches.cpu_set (by decide) (by with_reducible rfl) ?_ | refine Touches.set rfl rfl rfl rfl rfl ?_)
    | extract_lets -underBinder
    | split
    | ((conv => arg 3; fail_if_success arg 1); refine Touches.set rfl rfl rfl rfl rfl ?_)
    | (conv => arg 3; dsimp -zeta -proj +zetaDelta only)

theorem domBack_touches (d : Dom) (s : State) : Touches [.free, .out, .node, .reg, .irq, .pwr, .log, .wak, .tln, .bb, .net, .ina, .tim, .spl, .cpu] s (domBack d s) := by
  unfold domBack
  with_reducible repeat' first
    | (extract_lets -underBinder +onlyGivenNames x; refine Touches.mp (t := x) ?_ ?bb; case' bb => clear_value x; revert x; refine Touches.keep ?_; intro _ _)
    | exact Touches.refl _ _
    | assumption
    | refine Touches.ite (fun _ => ?_) (fun _ => ?_)
    | refine (macEnables_touches ..).after (by decide) ?_
    | refine (noteDriven_touches ..).after (by decide) ?_
    | refine (followAll_touches ..).after (by decide) ?_
    | refine (portEnable_touches ..).after (by decide) ?_
    | refine (startInsertion_touches ..).after (by decide) ?_
    | refine (setDom_touches ..).after (by decide) ?_
    | refine Touches.foldl (fun _ _ _ => ?_) ?_
    | extract_lets -underBinder
    | split
    | (conv => arg 3; dsimp -zeta -proj +zetaDelta only)

theorem planeBack_touches (before s : State) (l : Line) : Touches [.pwr, .bb] s (planeBack before s l) := by
  unfold planeBack
  with_reducible repeat' first
    | (extract_lets -underBinder +onlyGivenNames x; refine Touches.mp (t := x) ?_ ?bb; case' bb => clear_value x; revert x; refine Touches.keep ?_; intro _ _)
    | exact Touches.refl _ _
    | assumption
    | refine Touches.ite (fun _ => ?_) (fun _ => ?_)
    | refine (setLine_touches ..).after (by decide) ?_
    | refine (startLoopCheck_touches ..).after (by decide) ?_
    | refine Touches.foldl (fun _ _ _ => ?_) ?_
    | ((conv => arg 3; arg 29); first | refine Touches.pwr_set (by decide) ?_ | refine Touches.set rfl rfl rfl rfl rfl ?_)
    | extract_lets -underBinder
    | split
    | ((conv => arg 3; fail_if_success arg 1); refine Touches.set rfl rfl rfl rfl rfl ?_)
    | (conv => arg 3; dsimp -zeta -proj +zetaDelta only)

theorem followLow_touches (s : State) : Touches [.pwr] s (followLow s) := by
  unfold followLow
  with_reducible repeat' first
    | (extract_lets -underBinder +onlyGivenNames x; refine Touches.mp (t := x) ?_ ?bb; case' bb => clear_value x; revert x; refine Touches.keep ?_; intro _ _)
    | exact Touches.refl _ _
    | assumption
    | refine Touches.ite (fun _ => ?_) (fun _ => ?_)
    | refine (setDom_touches ..).after (by decide) ?_
    | refine Touches.foldl (fun _ _ _ => ?_) ?_
    | extract_lets -underBinder
    | split
    | (conv => arg 3; dsimp -zeta -proj +zetaDelta only)

theorem domsOff_touches (l : List Dom) (s : State) : Touches [.free, .out, .node, .reg, .irq, .pwr, .log, .od, .tak, .wak, .tln, .bb, .net, .ina, .tim, .spl, .chk, .pdb, .cpu] s (domsOff l s) := by
  unfold domsOff
  with_reducible repeat' first
    | exact Touches.refl _ _
    | assumption
    | refine Touches.ite (fun _ => ?_) (fun _ => ?_)
    | refine (setDom_touches ..).after (by decide) ?_
    | refine (domLost_touches ..).after (by decide) ?_
    | refine Touches.foldl (fun _ _ _ => ?_) ?_
    | extract_lets -underBinder
    | split
    | (conv => arg 3; dsimp -zeta -proj +zetaDelta only)

theorem domsOn_touches (l : List Dom) (s : State) : Touches [.free, .out, .node, .reg, .irq, .pwr, .log, .wak, .tln, .bb, .net, .ina, .tim, .spl, .cpu] s (domsOn l s) := by
  unfold domsOn
  with_reducible repeat' first
    | exact Touches.refl _ _
    | assumption
    | refine Touches.ite (fun _ => ?_) (fun _ => ?_)
    | refine (setDom_touches ..).after (by decide) ?_
    | refine (domBack_touches ..).after (by decide) ?_
    | refine Touches.foldl (fun _ _ _ => ?_) ?_
    | extract_lets -underBinder
    | split
    | (conv => arg 3; dsimp -zeta -proj +zetaDelta only)

theorem powerFollowBy_touches (order : List Dom) (s : State) : Touches [.free, .out, .node, .reg, .irq, .pwr, .log, .od, .tak, .wak, .tln, .bb, .net, .ina, .tim, .spl, .chk, .pdb, .cpu] s (powerFollowBy order s) := by
  unfold powerFollowBy
  with_reducible repeat' first
    | (extract_lets -underBinder +onlyGivenNames x; refine Touches.mp (t := x) ?_ ?bb; case' bb => clear_value x; revert x; refine Touches.keep ?_; intro _ _)
    | exact Touches.refl _ _
    | assumption
    | refine Touches.ite (fun _ => ?_) (fun _ => ?_)
    | refine (evalLines_touches ..).after (by decide) ?_
    | refine (resumeInsert_touches ..).after (by decide) ?_
    | refine (planeBack_touches ..).after (by decide) ?_
    | refine (followLow_touches ..).after (by decide) ?_
    | refine (domsOff_touches ..).after (by decide) ?_
    | refine (domsOn_touches ..).after (by decide) ?_
    | refine Touches.foldl (fun _ _ _ => ?_) ?_
    | extract_lets -underBinder
    | split
    | (conv => arg 3; dsimp -zeta -proj +zetaDelta only)

theorem powerFollow_touches (s : State) : Touches [.free, .out, .node, .reg, .irq, .pwr, .log, .od, .tak, .wak, .tln, .bb, .net, .ina, .tim, .spl, .chk, .pdb, .cpu] s (powerFollow s) := by
  unfold powerFollow
  with_reducible repeat' first
    | exact Touches.refl _ _
    | assumption
    | refine Touches.ite (fun _ => ?_) (fun _ => ?_)
    | refine (powerFollowBy_touches ..).after (by decide) ?_
    | refine Touches.foldl (fun _ _ _ => ?_) ?_
    | extract_lets -underBinder
    | split
    | (conv => arg 3; dsimp -zeta -proj +zetaDelta only)

theorem startDrain_touches (d : Dom) (s : State) : Touches [.pwr, .cpu] s (startDrain d s) := by
  unfold startDrain
  with_reducible repeat' first
    | (extract_lets -underBinder +onlyGivenNames x; refine Touches.mp (t := x) ?_ ?bb; case' bb => clear_value x; revert x; refine Touches.keep ?_; intro _ _)
    | exact Touches.refl _ _
    | assumption
    | refine Touches.ite (fun _ => ?_) (fun _ => ?_)
    | refine (setDom_touches ..).after (by decide) ?_
    | refine Touches.foldl (fun _ _ _ => ?_) ?_
    | ((conv => arg 3; arg 29); first | refine Touches.cpu_set (by decide) (by with_reducible rfl) ?_ | refine Touches.set rfl rfl rfl rfl rfl ?_)
    | extract_lets -underBinder
    | split
    | ((conv => arg 3; fail_if_success arg 1); refine Touches.set rfl rfl rfl rfl rfl ?_)
    | (conv => arg 3; dsimp -zeta -proj +zetaDelta only)

theorem drainCheck_touches (d : Dom) (s : State) : Touches [.free, .out, .node, .reg, .irq, .pwr, .log, .od, .tak, .wak, .tln, .bb, .net, .ina, .tim, .spl, .chk, .pdb, .cpu] s (drainCheck d s) := by
  unfold drainCheck
  with_reducible repeat' first
    | exact Touches.refl _ _
    | assumption
    | refine Touches.ite (fun _ => ?_) (fun _ => ?_)
    | refine (setDom_touches ..).after (by decide) ?_
    | refine (powerFollow_touches ..).after (by decide) ?_
    | refine Touches.foldl (fun _ _ _ => ?_) ?_
    | extract_lets -underBinder
    | split
    | (conv => arg 3; dsimp -zeta -proj +zetaDelta only)

theorem domEnablesApply_touches (old : Nat) (s : State) : Touches [.free, .out, .node, .reg, .irq, .pwr, .log, .od, .tak, .wak, .tln, .bb, .net, .ina, .tim, .spl, .chk, .pdb, .cpu] s (domEnablesApply old s) := by
  unfold domEnablesApply
  with_reducible repeat' first
    | (extract_lets -underBinder +onlyGivenNames x; refine Touches.mp (t := x) ?_ ?bb; case' bb => clear_value x; revert x; refine Touches.keep ?_; intro _ _)
    | exact Touches.refl _ _
    | assumption
    | refine Touches.ite (fun _ => ?_) (fun _ => ?_)
    | refine (setDom_touches ..).after (by decide) ?_
    | refine (powerFollow_touches ..).after (by decide) ?_
    | refine (startDrain_touches ..).after (by decide) ?_
    | refine Touches.foldl (fun _ _ _ => ?_) ?_
    | extract_lets -underBinder
    | split
    | (conv => arg 3; dsimp -zeta -proj +zetaDelta only)

theorem planeGoesOut_touches (l : Line) (s : State) : Touches [.free, .out, .node, .reg, .irq, .pwr, .log, .od, .tak, .wak, .tln, .bb, .net, .ina, .tim, .spl, .chk, .pdb, .cpu] s (planeGoesOut l s) := by
  unfold planeGoesOut
  with_reducible repeat' first
    | (extract_lets -underBinder +onlyGivenNames x; refine Touches.mp (t := x) ?_ ?bb; case' bb => clear_value x; revert x; refine Touches.keep ?_; intro _ _)
    | exact Touches.refl _ _
    | assumption
    | refine Touches.ite (fun _ => ?_) (fun _ => ?_)
    | refine (releaseLine_touches ..).after (by decide) ?_
    | refine (powerFollow_touches ..).after (by decide) ?_
    | refine Touches.foldl (fun _ _ _ => ?_) ?_
    | ((conv => arg 3; arg 29); first | refine Touches.pwr_set (by decide) ?_ | refine Touches.set rfl rfl rfl rfl rfl ?_)
    | extract_lets -underBinder
    | split
    | ((conv => arg 3; fail_if_success arg 1); refine Touches.set rfl rfl rfl rfl rfl ?_)
    | (conv => arg 3; dsimp -zeta -proj +zetaDelta only)

theorem planeReturns_touches (l : Line) (s : State) : Touches [.free, .out, .node, .reg, .irq, .pwr, .log, .od, .tak, .wak, .tln, .bb, .net, .ina, .tim, .spl, .chk, .pdb, .cpu] s (planeReturns l s) := by
  unfold planeReturns
  with_reducible repeat' first
    | (extract_lets -underBinder +onlyGivenNames x; refine Touches.mp (t := x) ?_ ?bb; case' bb => clear_value x; revert x; refine Touches.keep ?_; intro _ _)
    | exact Touches.refl _ _
    | assumption
    | refine Touches.ite (fun _ => ?_) (fun _ => ?_)
    | refine (insertLine_touches ..).after (by decide) ?_
    | refine (unforce_touches ..).after (by decide) ?_
    | refine (planeBack_touches ..).after (by decide) ?_
    | refine (powerFollow_touches ..).after (by decide) ?_
    | refine Touches.foldl (fun _ _ _ => ?_) ?_
    | ((conv => arg 3; arg 29); first | refine Touches.pwr_set (by decide) ?_ | refine Touches.set rfl rfl rfl rfl rfl ?_)
    | extract_lets -underBinder
    | split
    | ((conv => arg 3; fail_if_success arg 1); refine Touches.set rfl rfl rfl rfl rfl ?_)
    | (conv => arg 3; dsimp -zeta -proj +zetaDelta only)

theorem planeOutApply_touches (old : Nat) (s : State) : Touches [.free, .out, .node, .reg, .irq, .pwr, .log, .od, .tak, .wak, .tln, .bb, .net, .ina, .tim, .spl, .chk, .pdb, .cpu] s (planeOutApply old s) := by
  unfold planeOutApply
  with_reducible repeat' first
    | (extract_lets -underBinder +onlyGivenNames x; refine Touches.mp (t := x) ?_ ?bb; case' bb => clear_value x; revert x; refine Touches.keep ?_; intro _ _)
    | exact Touches.refl _ _
    | assumption
    | refine Touches.ite (fun _ => ?_) (fun _ => ?_)
    | refine (startRelease_touches ..).after (by decide) ?_
    | refine (planeGoesOut_touches ..).after (by decide) ?_
    | refine (planeReturns_touches ..).after (by decide) ?_
    | refine Touches.foldl (fun _ _ _ => ?_) ?_
    | ((conv => arg 3; arg 29); first | refine Touches.pwr_set (by decide) ?_ | refine Touches.set rfl rfl rfl rfl rfl ?_)
    | extract_lets -underBinder
    | split
    | ((conv => arg 3; fail_if_success arg 1); refine Touches.set rfl rfl rfl rfl rfl ?_)
    | (conv => arg 3; dsimp -zeta -proj +zetaDelta only)

theorem enterFault_touches (s : State) : Touches [.free, .out, .node, .reg, .irq, .pwr, .hpl, .log, .od, .tak, .wak, .tln, .bb, .net, .ina, .tim, .spl, .chk, .pdb, .cpu] s (enterFault s) := by
  unfold enterFault
  with_reducible repeat' first
    | (extract_lets -underBinder +onlyGivenNames x; refine Touches.mp (t := x) ?_ ?bb; case' bb => clear_value x; revert x; refine Touches.keep ?_; intro _ _)
    | exact Touches.refl _ _
    | assumption
    | refine Touches.ite (fun _ => ?_) (fun _ => ?_)
    | refine (nextFree_touches ..).after (by decide) ?_
    | refine (Touches.ofPair ‹nextFree _ = _› (nextFree_touches ..)).after (by decide) ?_
    | refine (raiseIrq_touches ..).after (by decide) ?_
    | refine (fire_touches ..).after (by decide) ?_
    | refine (noteDriven_touches ..).after (by decide) ?_
    | refine (holdOutputs_touches ..).after (by decide) ?_
    | refine (setNode_touches ..).after (by decide) ?_
    | refine (releaseBoth_touches ..).after (by decide) ?_
    | refine (scrapUser_touches ..).after (by decide) ?_
    | refine (scrapSys_touches ..).after (by decide) ?_
    | refine (powerFollow_touches ..).after (by decide) ?_
    | refine (startDrain_touches ..).after (by decide) ?_
    | refine Touches.foldl (fun _ _ _ => ?_) ?_
    | ((conv => arg 3; arg 29); first | refine Touches.hpl_set (by decide) ?_ | refine Touches.wak_set (by decide) ?_ | refine Touches.bb_set (by decide) ?_ | refine Touches.set rfl rfl rfl rfl rfl ?_)
    | extract_lets -underBinder
    | split
    | ((conv => arg 3; fail_if_success arg 1); refine Touches.set rfl rfl rfl rfl rfl ?_)
    | (conv => arg 3; dsimp -zeta -proj +zetaDelta only)

theorem resetNode_touches (cause : Nat) (s : State) : Touches [.now, .up, .free, .out, .node, .fwVersion, .reg, .irq, .pwr, .hpl, .log, .od, .tak, .wak, .tln, .bb, .net, .ina, .tim, .spl, .chk, .pdb, .cpu] s (resetNode cause s) := by
  unfold resetNode
  with_reducible repeat' first
    | (extract_lets -underBinder +onlyGivenNames x; refine Touches.mp (t := x) ?_ ?bb; case' bb => clear_value x; revert x; refine Touches.keep ?_; intro _ _)
    | exact Touches.refl _ _
    | assumption
    | refine Touches.ite (fun _ => ?_) (fun _ => ?_)
    | refine (bump_touches ..).after (by decide) ?_
    | refine (recLost_touches ..).after (by decide) ?_
    | refine (releaseBoth_touches ..).after (by decide) ?_
    | refine (powerFollow_touches ..).after (by decide) ?_
    | refine Touches.foldl (fun _ _ _ => ?_) ?_
    | ((conv => arg 3; arg 29); first | refine Touches.fwVersion_set (by decide) ?_ | refine Touches.reg_set (by decide) ?_ | refine Touches.pwr_set (by decide) ?_ | refine Touches.hpl_set (by decide) ?_ | refine Touches.od_set (by decide) ?_ | refine Touches.wak_set (by decide) ?_ | refine Touches.bb_set (by decide) ?_ | refine Touches.cpu_set (by decide) (by with_reducible rfl) ?_ | refine Touches.set rfl rfl rfl rfl rfl ?_)
    | extract_lets -underBinder
    | split
    | ((conv => arg 3; fail_if_success arg 1); refine Touches.set rfl rfl rfl rfl rfl ?_)
    | (conv => arg 3; dsimp -zeta -proj +zetaDelta only)

theorem supplyLost_touches (s : State) : Touches [.now, .up, .free, .out, .node, .fwVersion, .reg, .irq, .pwr, .hpl, .log, .od, .tak, .wak, .tln, .bb, .net, .ina, .tim, .spl, .chk, .pdb, .cpu] s (supplyLost s) := by
  unfold supplyLost
  with_reducible repeat' first
    | (extract_lets -underBinder +onlyGivenNames x; refine Touches.mp (t := x) ?_ ?bb; case' bb => clear_value x; revert x; refine Touches.keep ?_; intro _ _)
    | exact Touches.refl _ _
    | assumption
    | refine Touches.ite (fun _ => ?_) (fun _ => ?_)
    | refine (releaseBoth_touches ..).after (by decide) ?_
    | refine Touches.foldl (fun _ _ _ => ?_) ?_
    | ((conv => arg 3; arg 29); first | refine Touches.node_set (by decide) ?_ | refine Touches.fwVersion_set (by decide) ?_ | refine Touches.pwr_set (by decide) ?_ | refine Touches.hpl_set (by decide) ?_ | refine Touches.od_set (by decide) ?_ | refine Touches.bb_set (by decide) ?_ | refine Touches.cpu_set (by decide) (by with_reducible rfl) ?_ | refine Touches.set rfl rfl rfl rfl rfl ?_)
    | extract_lets -underBinder
    | split
    | ((conv => arg 3; fail_if_success arg 1); refine Touches.set rfl rfl rfl rfl rfl ?_)
    | (conv => arg 3; dsimp -zeta -proj +zetaDelta only)

theorem faultDomain_touches (d : Dom) (s : State) : Touches [.free, .out, .node, .reg, .irq, .pwr, .hpl, .log, .od, .tak, .wak, .tln, .bb, .net, .ina, .tim, .spl, .chk, .pdb, .cpu] s (faultDomain d s) := by
  unfold faultDomain
  with_reducible repeat' first
    | (extract_lets -underBinder +onlyGivenNames x; refine Touches.mp (t := x) ?_ ?bb; case' bb => clear_value x; revert x; refine Touches.keep ?_; intro _ _)
    | exact Touches.refl _ _
    | assumption
    | refine Touches.ite (fun _ => ?_) (fun _ => ?_)
    | refine (bump_touches ..).after (by decide) ?_
    | refine (raiseIrq_touches ..).after (by decide) ?_
    | refine (fire_touches ..).after (by decide) ?_
    | refine (setDom_touches ..).after (by decide) ?_
    | refine (powerFollowBy_touches ..).after (by decide) ?_
    | refine (enterFault_touches ..).after (by decide) ?_
    | refine Touches.foldl (fun _ _ _ => ?_) ?_
    | ((conv => arg 3; arg 29); first | refine Touches.pwr_set (by decide) ?_ | refine Touches.set rfl rfl rfl rfl rfl ?_)
    | extract_lets -underBinder
    | split
    | ((conv => arg 3; fail_if_success arg 1); refine Touches.set rfl rfl rfl rfl rfl ?_)
    | (conv => arg 3; dsimp -zeta -proj +zetaDelta only)

theorem domainFault_touches (d : Dom) (s : State) : Touches [.now, .up, .free, .out, .node, .fwVersion, .reg, .irq, .pwr, .hpl, .log, .od, .tak, .wak, .tln, .bb, .net, .ina, .tim, .spl, .chk, .pdb, .cpu] s (domainFault d s) := by
  unfold domainFault
  with_reducible repeat' first
    | exact Touches.refl _ _
    | assumption
    | refine Touches.ite (fun _ => ?_) (fun _ => ?_)
    | refine (resetNode_touches ..).after (by decide) ?_
    | refine (supplyLost_touches ..).after (by decide) ?_
    | refine (faultDomain_touches ..).after (by decide) ?_
    | refine Touches.foldl (fun _ _ _ => ?_) ?_
    | extract_lets -underBinder
    | split
    | (conv => arg 3; dsimp -zeta -proj +zetaDelta only)

theorem execDomainFault_answers (d : Dom) (s : State) : Answers [.now, .up, .free, .out, .node, .fwVersion, .reg, .irq, .pwr, .hpl, .log, .od, .tak, .wak, .tln, .bb, .net, .ina, .tim, .spl, .chk, .pdb, .cpu] s (execDomainFault d s) := by
  unfold execDomainFault
  with_reducible repeat' first
    | refine Answers.next ?_
    | refine Answers.ite (fun _ => ?_) (fun _ => ?_)
    | exact Touches.refl _ _
    | assumption
    | refine Touches.ite (fun _ => ?_) (fun _ => ?_)
    | refine (domainFault_touches ..).after (by decide) ?_
    | refine Touches.foldl (fun _ _ _ => ?_) ?_
    | extract_lets -underBinder
    | split
    | (conv => arg 3; dsimp -zeta -proj +zetaDelta only)

theorem execDomainRetry_answers (d : Dom) (s : State) : Answers [.now, .up, .free, .out, .node, .reg, .irq, .pwr, .log, .od, .tak, .wak, .tln, .bb, .net, .ina, .tim, .spl, .chk, .pdb, .cpu] s (execDomainRetry d s) := by
  unfold execDomainRetry
  with_reducible repeat' first
    | (extract_lets -underBinder +onlyGivenNames x; (first | refine Answers.mp (t := x) ?_ ?bb | refine Touches.mp (t := x) ?_ ?bb); case' bb => clear_value x; revert x; refine Touches.keep ?_; intro _ _)
    | refine Answers.next ?_
    | refine Answers.ite (fun _ => ?_) (fun _ => ?_)
    | exact Touches.refl _ _
    | assumption
    | refine Touches.ite (fun _ => ?_) (fun _ => ?_)
    | refine (passTo_touches ..).after (by decide) ?_
    | refine (setDom_touches ..).after (by decide) ?_
    | refine (powerFollow_touches ..).after (by decide) ?_
    | refine Touches.foldl (fun _ _ _ => ?_) ?_
    | extract_lets -underBinder
    | split
    | (conv => arg 3; dsimp -zeta -proj +zetaDelta only)

theorem domFaultClear_touches (mask : Word) (s : State) : Touches [.free, .out, .node, .reg, .irq, .pwr, .log, .od, .tak, .wak, .tln, .bb, .net, .ina, .tim, .spl, .chk, .pdb, .cpu] s (domFaultClear mask s) := by
  unfold domFaultClear
  with_reducible repeat' first
    | (extract_lets -underBinder +onlyGivenNames x; refine Touches.mp (t := x) ?_ ?bb; case' bb => clear_value x; revert x; refine Touches.keep ?_; intro _ _)
    | exact Touches.refl _ _
    | assumption
    | refine Touches.ite (fun _ => ?_) (fun _ => ?_)
    | refine (setDom_touches ..).after (by decide) ?_
    | refine (powerFollow_touches ..).after (by decide) ?_
    | refine Touches.foldl (fun _ _ _ => ?_) ?_
    | extract_lets -underBinder
    | split
    | (conv => arg 3; dsimp -zeta -proj +zetaDelta only)

theorem execDomFaultClear_answers (mask : Word) (s : State) : Answers [.free, .out, .node, .reg, .irq, .pwr, .log, .od, .tak, .wak, .tln, .bb, .net, .ina, .tim, .spl, .chk, .pdb, .cpu] s (execDomFaultClear mask s) := by
  unfold execDomFaultClear
  with_reducible repeat' first
    | refine Answers.next ?_
    | refine Answers.ite (fun _ => ?_) (fun _ => ?_)
    | exact Touches.refl _ _
    | assumption
    | refine Touches.ite (fun _ => ?_) (fun _ => ?_)
    | refine (domFaultClear_touches ..).after (by decide) ?_
    | refine Touches.foldl (fun _ _ _ => ?_) ?_
    | extract_lets -underBinder
    | split
    | (conv => arg 3; dsimp -zeta -proj +zetaDelta only)

theorem execPlaneRejoin_answers (l : Line) (s : State) : Answers [.now, .up, .free, .out, .node, .reg, .irq, .pwr, .log, .wak, .bb, .net, .ina, .tim, .spl, .cpu] s (execPlaneRejoin l s) := by
  unfold execPlaneRejoin
  with_reducible repeat' first
    | (extract_lets -underBinder +onlyGivenNames x; (first | refine Answers.mp (t := x) ?_ ?bb | refine Touches.mp (t := x) ?_ ?bb); case' bb => clear_value x; revert x; refine Touches.keep ?_; intro _ _)
    | refine Answers.next ?_
    | refine Answers.ite (fun _ => ?_) (fun _ => ?_)
    | exact Touches.refl _ _
    | assumption
    | refine Touches.ite (fun _ => ?_) (fun _ => ?_)
    | refine (toFrame_touches ..).after (by decide) ?_
    | refine (insertLine_touches ..).after (by decide) ?_
    | refine Touches.foldl (fun _ _ _ => ?_) ?_
    | ((conv => arg 3; arg 29); first | refine Touches.pwr_set (by decide) ?_ | refine Touches.set rfl rfl rfl rfl rfl ?_)
    | extract_lets -underBinder
    | split
    | ((conv => arg 3; fail_if_success arg 1); refine Touches.set rfl rfl rfl rfl rfl ?_)
    | (conv => arg 3; dsimp -zeta -proj +zetaDelta only)

theorem execPlaneDomainsOff_answers (l : Line) (s : State) : Answers [.free, .out, .node, .reg, .irq, .pwr, .log, .od, .tak, .wak, .tln, .bb, .net, .ina, .tim, .spl, .chk, .pdb, .cpu] s (execPlaneDomainsOff l s) := by
  unfold execPlaneDomainsOff
  with_reducible repeat' first
    | (extract_lets -underBinder +onlyGivenNames x; (first | refine Answers.mp (t := x) ?_ ?bb | refine Touches.mp (t := x) ?_ ?bb); case' bb => clear_value x; revert x; refine Touches.keep ?_; intro _ _)
    | refine Answers.next ?_
    | refine Answers.ite (fun _ => ?_) (fun _ => ?_)
    | exact Touches.refl _ _
    | assumption
    | refine Touches.ite (fun _ => ?_) (fun _ => ?_)
    | refine (powerFollow_touches ..).after (by decide) ?_
    | refine Touches.foldl (fun _ _ _ => ?_) ?_
    | ((conv => arg 3; arg 29); first | refine Touches.pwr_set (by decide) ?_ | refine Touches.set rfl rfl rfl rfl rfl ?_)
    | extract_lets -underBinder
    | split
    | ((conv => arg 3; fail_if_success arg 1); refine Touches.set rfl rfl rfl rfl rfl ?_)
    | (conv => arg 3; dsimp -zeta -proj +zetaDelta only)

theorem execDomainOffDrainTimeout_answers (d : Dom) (s : State) : Answers [.now, .up, .free, .out, .node, .reg, .irq, .pwr, .log, .od, .tak, .wak, .tln, .bb, .net, .ina, .tim, .spl, .chk, .pdb, .cpu] s (execDomainOffDrainTimeout d s) := by
  unfold execDomainOffDrainTimeout
  with_reducible repeat' first
    | (extract_lets -underBinder +onlyGivenNames x; (first | refine Answers.mp (t := x) ?_ ?bb | refine Touches.mp (t := x) ?_ ?bb); case' bb => clear_value x; revert x; refine Touches.keep ?_; intro _ _)
    | refine Answers.next ?_
    | refine Answers.ite (fun _ => ?_) (fun _ => ?_)
    | exact Touches.refl _ _
    | assumption
    | refine Touches.ite (fun _ => ?_) (fun _ => ?_)
    | refine (passTo_touches ..).after (by decide) ?_
    | refine (setDom_touches ..).after (by decide) ?_
    | refine (powerFollow_touches ..).after (by decide) ?_
    | refine Touches.foldl (fun _ _ _ => ?_) ?_
    | extract_lets -underBinder
    | split
    | (conv => arg 3; dsimp -zeta -proj +zetaDelta only)

theorem execSpliceDrained_answers (x : SpliceUnit) (s : State) : Answers [.free, .out, .node, .reg, .irq, .pwr, .log, .od, .tak, .wak, .tln, .bb, .net, .ina, .tim, .spl, .chk, .pdb, .cpu] s (execSpliceDrained x s) := by
  unfold execSpliceDrained
  with_reducible repeat' first
    | refine Answers.next ?_
    | refine Answers.ite (fun _ => ?_) (fun _ => ?_)
    | exact Touches.refl _ _
    | assumption
    | refine Touches.ite (fun _ => ?_) (fun _ => ?_)
    | refine (spliceDrained_touches ..).after (by decide) ?_
    | refine (drainCheck_touches ..).after (by decide) ?_
    | refine Touches.foldl (fun _ _ _ => ?_) ?_
    | extract_lets -underBinder
    | split
    | (conv => arg 3; dsimp -zeta -proj +zetaDelta only)

theorem execCommonFabricFault_answers (s : State) : Answers [.free, .out, .node, .reg, .irq, .pwr, .hpl, .log, .od, .tak, .wak, .tln, .bb, .net, .ina, .tim, .spl, .chk, .pdb, .cpu] s (execCommonFabricFault s) := by
  unfold execCommonFabricFault
  with_reducible repeat' first
    | refine Answers.next ?_
    | refine Answers.ite (fun _ => ?_) (fun _ => ?_)
    | exact Touches.refl _ _
    | assumption
    | refine Touches.ite (fun _ => ?_) (fun _ => ?_)
    | refine (enterFault_touches ..).after (by decide) ?_
    | refine Touches.foldl (fun _ _ _ => ?_) ?_
    | extract_lets -underBinder
    | split
    | (conv => arg 3; dsimp -zeta -proj +zetaDelta only)

theorem execRelayCoilFault_answers (m : CoilIn) (s : State) : Answers [.free, .out, .node, .reg, .irq, .log, .wak, .bb, .net, .ina, .tim, .spl, .cpu] s (execRelayCoilFault m s) := by
  unfold execRelayCoilFault
  with_reducible repeat' first
    | (extract_lets -underBinder +onlyGivenNames x; (first | refine Answers.mp (t := x) ?_ ?bb | refine Touches.mp (t := x) ?_ ?bb); case' bb => clear_value x; revert x; refine Touches.keep ?_; intro _ _)
    | refine Answers.next ?_
    | refine Answers.ite (fun _ => ?_) (fun _ => ?_)
    | exact Touches.refl _ _
    | assumption
    | refine Touches.ite (fun _ => ?_) (fun _ => ?_)
    | refine (setLine_touches ..).after (by decide) ?_
    | refine (reportLine_touches ..).after (by decide) ?_
    | refine (resumeInsert_touches ..).after (by decide) ?_
    | refine (releaseNow_touches ..).after (by decide) ?_
    | refine Touches.foldl (fun _ _ _ => ?_) ?_
    | extract_lets -underBinder
    | split
    | (conv => arg 3; dsimp -zeta -proj +zetaDelta only)

theorem takeSupply_touches (m : Supply) (s : State) : Touches [.pwr] s (takeSupply m s) := by
  unfold takeSupply
  with_reducible repeat' first
    | exact Touches.refl _ _
    | assumption
    | refine Touches.ite (fun _ => ?_) (fun _ => ?_)
    | refine Touches.foldl (fun _ _ _ => ?_) ?_
    | ((conv => arg 3; arg 29); first | refine Touches.pwr_set (by decide) ?_ | refine Touches.set rfl rfl rfl rfl rfl ?_)
    | extract_lets -underBinder
    | split
    | ((conv => arg 3; fail_if_success arg 1); refine Touches.set rfl rfl rfl rfl rfl ?_)
    | (conv => arg 3; dsimp -zeta -proj +zetaDelta only)

theorem execHoldupSwitchClose_answers (m : Supply) (s : State) : Answers [.reg, .pwr] s (execHoldupSwitchClose m s) := by
  unfold execHoldupSwitchClose
  with_reducible repeat' first
    | (extract_lets -underBinder +onlyGivenNames x; (first | refine Answers.mp (t := x) ?_ ?bb | refine Touches.mp (t := x) ?_ ?bb); case' bb => clear_value x; revert x; refine Touches.keep ?_; intro _ _)
    | refine Answers.next ?_
    | refine Answers.ite (fun _ => ?_) (fun _ => ?_)
    | exact Touches.refl _ _
    | assumption
    | refine Touches.ite (fun _ => ?_) (fun _ => ?_)
    | refine (bump_touches ..).after (by decide) ?_
    | refine (takeSupply_touches ..).after (by decide) ?_
    | refine Touches.foldl (fun _ _ _ => ?_) ?_
    | ((conv => arg 3; arg 29); first | refine Touches.pwr_set (by decide) ?_ | refine Touches.set rfl rfl rfl rfl rfl ?_)
    | extract_lets -underBinder
    | split
    | ((conv => arg 3; fail_if_success arg 1); refine Touches.set rfl rfl rfl rfl rfl ?_)
    | (conv => arg 3; dsimp -zeta -proj +zetaDelta only)

theorem execHoldupSwitchOpen_answers (m : Supply) (s : State) : Answers [.pwr] s (execHoldupSwitchOpen m s) := by
  unfold execHoldupSwitchOpen
  with_reducible repeat' first
    | (extract_lets -underBinder +onlyGivenNames x; (first | refine Answers.mp (t := x) ?_ ?bb | refine Touches.mp (t := x) ?_ ?bb); case' bb => clear_value x; revert x; refine Touches.keep ?_; intro _ _)
    | refine Answers.next ?_
    | refine Answers.ite (fun _ => ?_) (fun _ => ?_)
    | exact Touches.refl _ _
    | assumption
    | refine Touches.ite (fun _ => ?_) (fun _ => ?_)
    | refine (takeSupply_touches ..).after (by decide) ?_
    | refine Touches.foldl (fun _ _ _ => ?_) ?_
    | ((conv => arg 3; arg 29); first | refine Touches.pwr_set (by decide) ?_ | refine Touches.set rfl rfl rfl rfl rfl ?_)
    | extract_lets -underBinder
    | split
    | ((conv => arg 3; fail_if_success arg 1); refine Touches.set rfl rfl rfl rfl rfl ?_)
    | (conv => arg 3; dsimp -zeta -proj +zetaDelta only)

theorem execBankOk_answers (m : Supply) (s : State) : Answers [.pwr] s (execBankOk m s) := by
  unfold execBankOk
  with_reducible repeat' first
    | refine Answers.next ?_
    | refine Answers.ite (fun _ => ?_) (fun _ => ?_)
    | exact Touches.refl _ _
    | assumption
    | refine Touches.ite (fun _ => ?_) (fun _ => ?_)
    | refine (takeSupply_touches ..).after (by decide) ?_
    | refine Touches.foldl (fun _ _ _ => ?_) ?_
    | extract_lets -underBinder
    | split
    | (conv => arg 3; dsimp -zeta -proj +zetaDelta only)

theorem execHoldupLow_answers (m : Supply) (s : State) : Answers [.pwr] s (execHoldupLow m s) := by
  unfold execHoldupLow
  with_reducible repeat' first
    | refine Answers.next ?_
    | refine Answers.ite (fun _ => ?_) (fun _ => ?_)
    | exact Touches.refl _ _
    | assumption
    | refine Touches.ite (fun _ => ?_) (fun _ => ?_)
    | refine (takeSupply_touches ..).after (by decide) ?_
    | refine Touches.foldl (fun _ _ _ => ?_) ?_
    | extract_lets -underBinder
    | split
    | (conv => arg 3; dsimp -zeta -proj +zetaDelta only)

theorem execBusLow_answers (m : Supply) (s : State) : Answers [.now, .up, .free, .out, .node, .fwVersion, .reg, .irq, .pwr, .hpl, .log, .od, .tak, .wak, .tln, .bb, .net, .ina, .tim, .spl, .chk, .pdb, .cpu] s (execBusLow m s) := by
  unfold execBusLow
  with_reducible repeat' first
    | refine Answers.next ?_
    | refine Answers.ite (fun _ => ?_) (fun _ => ?_)
    | exact Touches.refl _ _
    | assumption
    | refine Touches.ite (fun _ => ?_) (fun _ => ?_)
    | refine (resetNode_touches ..).after (by decide) ?_
    | refine (takeSupply_touches ..).after (by decide) ?_
    | refine Touches.foldl (fun _ _ _ => ?_) ?_
    | extract_lets -underBinder
    | split
    | (conv => arg 3; dsimp -zeta -proj +zetaDelta only)

theorem execD0SupplyLost_answers (s : State) : Answers [.now, .up, .free, .out, .node, .fwVersion, .reg, .irq, .pwr, .hpl, .log, .od, .tak, .wak, .tln, .bb, .net, .ina, .tim, .spl, .chk, .pdb, .cpu] s (execD0SupplyLost s) := by
  unfold execD0SupplyLost
  with_reducible repeat' first
    | refine Answers.next ?_
    | refine Answers.ite (fun _ => ?_) (fun _ => ?_)
    | exact Touches.refl _ _
    | assumption
    | refine Touches.ite (fun _ => ?_) (fun _ => ?_)
    | refine (supplyLost_touches ..).after (by decide) ?_
    | refine Touches.foldl (fun _ _ _ => ?_) ?_
    | extract_lets -underBinder
    | split
    | (conv => arg 3; dsimp -zeta -proj +zetaDelta only)

theorem imageDone_touches (x : SlotImage) (s : State) : Touches [.cpu] s (imageDone x s) := by
  unfold imageDone
  with_reducible repeat' first
    | exact Touches.refl _ _
    | assumption
    | refine Touches.ite (fun _ => ?_) (fun _ => ?_)
    | refine Touches.foldl (fun _ _ _ => ?_) ?_
    | ((conv => arg 3; arg 29); first | refine Touches.cpu_set (by decide) (by with_reducible rfl) ?_ | refine Touches.set rfl rfl rfl rfl rfl ?_)
    | extract_lets -underBinder
    | split
    | ((conv => arg 3; fail_if_success arg 1); refine Touches.set rfl rfl rfl rfl rfl ?_)
    | (conv => arg 3; dsimp -zeta -proj +zetaDelta only)

theorem storeAnswer_touches (x : Storing) (r : Rsp) (s : State) : Touches [.free, .out, .reg, .irq, .od, .net, .spl, .pdb, .cpu] s (storeAnswer x r s) := by
  unfold storeAnswer
  with_reducible repeat' first
    | exact Touches.refl _ _
    | assumption
    | refine Touches.ite (fun _ => ?_) (fun _ => ?_)
    | refine (finish_touches ..).after (by decide) ?_
    | refine Touches.foldl (fun _ _ _ => ?_) ?_
    | extract_lets -underBinder
    | split
    | (conv => arg 3; dsimp -zeta -proj +zetaDelta only)

theorem storeStopped_touches (s : State) : Touches [.free, .out, .reg, .irq, .od, .net, .spl, .pdb, .cpu] s (storeStopped s) := by
  unfold storeStopped
  with_reducible repeat' first
    | exact Touches.refl _ _
    | assumption
    | refine Touches.ite (fun _ => ?_) (fun _ => ?_)
    | refine (storeAnswer_touches ..).after (by decide) ?_
    | refine Touches.foldl (fun _ _ _ => ?_) ?_
    | ((conv => arg 3; arg 29); first | refine Touches.od_set (by decide) ?_ | refine Touches.set rfl rfl rfl rfl rfl ?_)
    | extract_lets -underBinder
    | split
    | ((conv => arg 3; fail_if_success arg 1); refine Touches.set rfl rfl rfl rfl rfl ?_)
    | (conv => arg 3; dsimp -zeta -proj +zetaDelta only)

theorem execSagBegin_answers (input bus : Bool) (m : Supply) (s : State) : Answers [.free, .out, .reg, .irq, .pwr, .log, .od, .net, .spl, .pdb, .cpu] s (execSagBegin input bus m s) := by
  unfold execSagBegin
  with_reducible repeat' first
    | (extract_lets -underBinder +onlyGivenNames x; (first | refine Answers.mp (t := x) ?_ ?bb | refine Touches.mp (t := x) ?_ ?bb); case' bb => clear_value x; revert x; refine Touches.keep ?_; intro _ _)
    | refine Answers.next ?_
    | refine Answers.ite (fun _ => ?_) (fun _ => ?_)
    | exact Touches.refl _ _
    | assumption
    | refine Touches.ite (fun _ => ?_) (fun _ => ?_)
    | refine (bump_touches ..).after (by decide) ?_
    | refine (raiseIrq_touches ..).after (by decide) ?_
    | refine (fire_touches ..).after (by decide) ?_
    | refine (takeSupply_touches ..).after (by decide) ?_
    | refine (storeStopped_touches ..).after (by decide) ?_
    | refine Touches.foldl (fun _ _ _ => ?_) ?_
    | ((conv => arg 3; arg 29); first | refine Touches.pwr_set (by decide) ?_ | refine Touches.set rfl rfl rfl rfl rfl ?_)
    | extract_lets -underBinder
    | split
    | ((conv => arg 3; fail_if_success arg 1); refine Touches.set rfl rfl rfl rfl rfl ?_)
    | (conv => arg 3; dsimp -zeta -proj +zetaDelta only)

theorem execSagEnd_answers (m : Supply) (s : State) : Answers [.out, .reg, .irq, .pwr, .cpu] s (execSagEnd m s) := by
  unfold execSagEnd
  with_reducible repeat' first
    | (extract_lets -underBinder +onlyGivenNames x; (first | refine Answers.mp (t := x) ?_ ?bb | refine Touches.mp (t := x) ?_ ?bb); case' bb => clear_value x; revert x; refine Touches.keep ?_; intro _ _)
    | refine Answers.next ?_
    | refine Answers.ite (fun _ => ?_) (fun _ => ?_)
    | exact Touches.refl _ _
    | assumption
    | refine Touches.ite (fun _ => ?_) (fun _ => ?_)
    | refine (raiseIrq_touches ..).after (by decide) ?_
    | refine (raiseFuse_touches ..).after (by decide) ?_
    | refine (takeSupply_touches ..).after (by decide) ?_
    | refine (imageDone_touches ..).after (by decide) ?_
    | refine Touches.foldl (fun _ _ _ => ?_) ?_
    | ((conv => arg 3; arg 29); first | refine Touches.pwr_set (by decide) ?_ | refine Touches.cpu_set (by decide) (by with_reducible rfl) ?_ | refine Touches.set rfl rfl rfl rfl rfl ?_)
    | extract_lets -underBinder
    | split
    | ((conv => arg 3; fail_if_success arg 1); refine Touches.set rfl rfl rfl rfl rfl ?_)
    | (conv => arg 3; dsimp -zeta -proj +zetaDelta only)

theorem setLoop_touches (k : Nat) (x : LoopSt) (s : State) : Touches [.pwr] s (setLoop k x s) := by
  unfold setLoop
  with_reducible repeat' first
    | exact Touches.refl _ _
    | assumption
    | refine Touches.ite (fun _ => ?_) (fun _ => ?_)
    | refine Touches.foldl (fun _ _ _ => ?_) ?_
    | ((conv => arg 3; arg 29); first | refine Touches.pwr_set (by decide) ?_ | refine Touches.set rfl rfl rfl rfl rfl ?_)
    | extract_lets -underBinder
    | split
    | ((conv => arg 3; fail_if_success arg 1); refine Touches.set rfl rfl rfl rfl rfl ?_)
    | (conv => arg 3; dsimp -zeta -proj +zetaDelta only)

theorem execLoopUpdate_answers (k : Fin 8) (occ : Fin 101) (completions : Word) (floorV : BitVec 10) (s : State) : Answers [.now, .free, .pwr] s (execLoopUpdate k occ completions floorV s) := by
  unfold execLoopUpdate
  with_reducible repeat' first
    | (extract_lets -underBinder +onlyGivenNames x; (first | refine Answers.mp (t := x) ?_ ?bb | refine Touches.mp (t := x) ?_ ?bb); case' bb => clear_value x; revert x; refine Touches.keep ?_; intro _ _)
    | refine Answers.next ?_
    | refine Answers.ite (fun _ => ?_) (fun _ => ?_)
    | exact Touches.refl _ _
    | assumption
    | refine Touches.ite (fun _ => ?_) (fun _ => ?_)
    | refine (nextFree_touches ..).after (by decide) ?_
    | refine (Touches.ofPair ‹nextFree _ = _› (nextFree_touches ..)).after (by decide) ?_
    | refine (setLoop_touches ..).after (by decide) ?_
    | refine Touches.foldl (fun _ _ _ => ?_) ?_
    | ((conv => arg 3; arg 29); first | refine Touches.set rfl rfl rfl rfl rfl ?_)
    | extract_lets -underBinder
    | split
    | ((conv => arg 3; fail_if_success arg 1); refine Touches.set rfl rfl rfl rfl rfl ?_)
    | (conv => arg 3; dsimp -zeta -proj +zetaDelta only)

theorem execLoopSaturation_answers (k : Fin 8) (s : State) : Answers [.now, .up, .out, .reg, .irq, .pwr, .log, .cpu] s (execLoopSaturation k s) := by
  unfold execLoopSaturation
  with_reducible repeat' first
    | (extract_lets -underBinder +onlyGivenNames x; (first | refine Answers.mp (t := x) ?_ ?bb | refine Touches.mp (t := x) ?_ ?bb); case' bb => clear_value x; revert x; refine Touches.keep ?_; intro _ _)
    | refine Answers.next ?_
    | refine Answers.ite (fun _ => ?_) (fun _ => ?_)
    | exact Touches.refl _ _
    | assumption
    | refine Touches.ite (fun _ => ?_) (fun _ => ?_)
    | refine (bump_touches ..).after (by decide) ?_
    | refine (passTo_touches ..).after (by decide) ?_
    | refine (passToInstant_touches ..).after (by decide) ?_
    | refine (setLoop_touches ..).after (by decide) ?_
    | refine Touches.foldl (fun _ _ _ => ?_) ?_
    | extract_lets -underBinder
    | split
    | (conv => arg 3; dsimp -zeta -proj +zetaDelta only)

theorem execLoopSatLong_answers (k : Fin 4) (s : State) : Answers [.now, .up, .out, .reg, .irq, .pwr, .log, .cpu] s (execLoopSatLong k s) := by
  unfold execLoopSatLong
  with_reducible repeat' first
    | (extract_lets -underBinder +onlyGivenNames x; (first | refine Answers.mp (t := x) ?_ ?bb | refine Touches.mp (t := x) ?_ ?bb); case' bb => clear_value x; revert x; refine Touches.keep ?_; intro _ _)
    | refine Answers.next ?_
    | refine Answers.ite (fun _ => ?_) (fun _ => ?_)
    | exact Touches.refl _ _
    | assumption
    | refine Touches.ite (fun _ => ?_) (fun _ => ?_)
    | refine (passTo_touches ..).after (by decide) ?_
    | refine (fire_touches ..).after (by decide) ?_
    | refine (setLoop_touches ..).after (by decide) ?_
    | refine Touches.foldl (fun _ _ _ => ?_) ?_
    | extract_lets -underBinder
    | split
    | (conv => arg 3; dsimp -zeta -proj +zetaDelta only)

theorem loopsApply_touches (s : State) : Touches [.pwr] s (loopsApply s) := by
  unfold loopsApply
  with_reducible repeat' first
    | (extract_lets -underBinder +onlyGivenNames x; refine Touches.mp (t := x) ?_ ?bb; case' bb => clear_value x; revert x; refine Touches.keep ?_; intro _ _)
    | exact Touches.refl _ _
    | assumption
    | refine Touches.ite (fun _ => ?_) (fun _ => ?_)
    | refine (setLoop_touches ..).after (by decide) ?_
    | refine Touches.foldl (fun _ _ _ => ?_) ?_
    | extract_lets -underBinder
    | split
    | (conv => arg 3; dsimp -zeta -proj +zetaDelta only)

theorem setTemp_touches (t : Int) (s : State) : Touches [.pwr] s (setTemp t s) := by
  unfold setTemp
  with_reducible repeat' first
    | exact Touches.refl _ _
    | assumption
    | refine Touches.ite (fun _ => ?_) (fun _ => ?_)
    | refine Touches.foldl (fun _ _ _ => ?_) ?_
    | ((conv => arg 3; arg 29); first | refine Touches.pwr_set (by decide) ?_ | refine Touches.set rfl rfl rfl rfl rfl ?_)
    | extract_lets -underBinder
    | split
    | ((conv => arg 3; fail_if_success arg 1); refine Touches.set rfl rfl rfl rfl rfl ?_)
    | (conv => arg 3; dsimp -zeta -proj +zetaDelta only)

theorem takeTemp_touches (t : BitVec 16) (s : State) : Touches [.out, .reg, .irq, .pwr, .log, .cpu] s (takeTemp t s) := by
  unfold takeTemp
  with_reducible repeat' first
    | (extract_lets -underBinder +onlyGivenNames x; refine Touches.mp (t := x) ?_ ?bb; case' bb => clear_value x; revert x; refine Touches.keep ?_; intro _ _)
    | exact Touches.refl _ _
    | assumption
    | refine Touches.ite (fun _ => ?_) (fun _ => ?_)
    | refine (fire_touches ..).after (by decide) ?_
    | refine (setTemp_touches ..).after (by decide) ?_
    | refine Touches.foldl (fun _ _ _ => ?_) ?_
    | ((conv => arg 3; arg 29); first | refine Touches.pwr_set (by decide) ?_ | refine Touches.set rfl rfl rfl rfl rfl ?_)
    | extract_lets -underBinder
    | split
    | ((conv => arg 3; fail_if_success arg 1); refine Touches.set rfl rfl rfl rfl rfl ?_)
    | (conv => arg 3; dsimp -zeta -proj +zetaDelta only)

theorem execTempExcursion_answers (t : BitVec 16) (s : State) : Answers [.out, .reg, .irq, .pwr, .log, .cpu] s (execTempExcursion t s) := by
  unfold execTempExcursion
  with_reducible repeat' first
    | refine Answers.next ?_
    | refine Answers.ite (fun _ => ?_) (fun _ => ?_)
    | exact Touches.refl _ _
    | assumption
    | refine Touches.ite (fun _ => ?_) (fun _ => ?_)
    | refine (takeTemp_touches ..).after (by decide) ?_
    | refine Touches.foldl (fun _ _ _ => ?_) ?_
    | extract_lets -underBinder
    | split
    | (conv => arg 3; dsimp -zeta -proj +zetaDelta only)

theorem execThermalFault_answers (t : BitVec 16) (s : State) : Answers [.free, .out, .node, .reg, .irq, .pwr, .hpl, .log, .od, .tak, .wak, .tln, .bb, .net, .ina, .tim, .spl, .chk, .pdb, .cpu] s (execThermalFault t s) := by
  unfold execThermalFault
  with_reducible repeat' first
    | (extract_lets -underBinder +onlyGivenNames x; (first | refine Answers.mp (t := x) ?_ ?bb | refine Touches.mp (t := x) ?_ ?bb); case' bb => clear_value x; revert x; refine Touches.keep ?_; intro _ _)
    | refine Answers.next ?_
    | refine Answers.ite (fun _ => ?_) (fun _ => ?_)
    | exact Touches.refl _ _
    | assumption
    | refine Touches.ite (fun _ => ?_) (fun _ => ?_)
    | refine (bump_touches ..).after (by decide) ?_
    | refine (enterFault_touches ..).after (by decide) ?_
    | refine (takeTemp_touches ..).after (by decide) ?_
    | refine Touches.foldl (fun _ _ _ => ?_) ?_
    | ((conv => arg 3; arg 29); first | refine Touches.pwr_set (by decide) ?_ | refine Touches.set rfl rfl rfl rfl rfl ?_)
    | extract_lets -underBinder
    | split
    | ((conv => arg 3; fail_if_success arg 1); refine Touches.set rfl rfl rfl rfl rfl ?_)
    | (conv => arg 3; dsimp -zeta -proj +zetaDelta only)

theorem execTempStatusRead_answers (who : Requester) (s : State) : Answers [.out, .pwr] s (execTempStatusRead who s) := by
  unfold execTempStatusRead
  with_reducible repeat' first
    | refine Answers.next ?_
    | refine Answers.ite (fun _ => ?_) (fun _ => ?_)
    | exact Touches.refl _ _
    | assumption
    | refine Touches.ite (fun _ => ?_) (fun _ => ?_)
    | refine (emit_touches ..).after (by decide) ?_
    | refine (turnedAway_touches ..).after (by decide) ?_
    | refine Touches.foldl (fun _ _ _ => ?_) ?_
    | ((conv => arg 3; arg 29); first | refine Touches.pwr_set (by decide) ?_ | refine Touches.set rfl rfl rfl rfl rfl ?_)
    | extract_lets -underBinder
    | split
    | ((conv => arg 3; fail_if_success arg 1); refine Touches.set rfl rfl rfl rfl rfl ?_)
    | (conv => arg 3; dsimp -zeta -proj +zetaDelta only)

theorem execLoopStatusRead_answers (who : Requester) (k : Fin 8) (s : State) : Answers [.out, .pwr] s (execLoopStatusRead who k s) := by
  unfold execLoopStatusRead
  with_reducible repeat' first
    | (extract_lets -underBinder +onlyGivenNames x; (first | refine Answers.mp (t := x) ?_ ?bb | refine Touches.mp (t := x) ?_ ?bb); case' bb => clear_value x; revert x; refine Touches.keep ?_; intro _ _)
    | refine Answers.next ?_
    | refine Answers.ite (fun _ => ?_) (fun _ => ?_)
    | exact Touches.refl _ _
    | assumption
    | refine Touches.ite (fun _ => ?_) (fun _ => ?_)
    | refine (emit_touches ..).after (by decide) ?_
    | refine (turnedAway_touches ..).after (by decide) ?_
    | refine (setLoop_touches ..).after (by decide) ?_
    | refine Touches.foldl (fun _ _ _ => ?_) ?_
    | extract_lets -underBinder
    | split
    | (conv => arg 3; dsimp -zeta -proj +zetaDelta only)

theorem execEqStatusRead_answers (who : Requester) (p : Fin 4) (s : State) : Answers [.out, .bb] s (execEqStatusRead who p s) := by
  unfold execEqStatusRead
  with_reducible repeat' first
    | refine Answers.next ?_
    | refine Answers.ite (fun _ => ?_) (fun _ => ?_)
    | exact Touches.refl _ _
    | assumption
    | refine Touches.ite (fun _ => ?_) (fun _ => ?_)
    | refine (emit_touches ..).after (by decide) ?_
    | refine (setLink_touches ..).after (by decide) ?_
    | refine (turnedAway_touches ..).after (by decide) ?_
    | refine Touches.foldl (fun _ _ _ => ?_) ?_
    | extract_lets -underBinder
    | split
    | (conv => arg 3; dsimp -zeta -proj +zetaDelta only)

end Sys2Proof.Machine
end

