-- ==== Sys2Proof/Laws/Startup.lean ====
section
/-!
SUPPORT. Laws/Startup.lean: the frame of every operation of Machine/Startup.lean: which parts of the state it may change, and that it keeps the bounds.
-/
namespace Sys2Proof.Machine

set_option Elab.async false
set_option linter.all false

theorem execPowerOn_answers (handleLocked : Bool) (s : State) : Answers [.now, .up, .free, .out, .node, .fwVersion, .reg, .irq, .pwr, .hpl, .log, .od, .tak, .wak, .tln, .bb, .net, .ina, .tim, .spl, .chk, .pdb, .cpu] s (execPowerOn handleLocked s) := by
  unfold execPowerOn
  refine Answers.ite (fun _ => .next (Touches.refl _ s)) (fun _ => ?_)
  exact .next (Touches.set rfl rfl rfl rfl rfl (Touches.refl _ s))

theorem execBusInRange_answers (s : State) : Answers [.free, .out, .node, .reg, .irq, .pwr, .hpl, .log, .od, .tak, .wak, .tln, .bb, .net, .ina, .tim, .spl, .chk, .pdb, .cpu] s (execBusInRange s) := by
  unfold execBusInRange
  with_reducible repeat' first
    | refine Answers.next ?_
    | refine Answers.ite (fun _ => ?_) (fun _ => ?_)
    | exact Touches.refl _ _
    | assumption
    | refine Touches.ite (fun _ => ?_) (fun _ => ?_)
    | refine (powerFollow_touches ..).after (by decide) ?_
    | refine Touches.foldl (fun _ _ _ => ?_) ?_
    | ((conv => arg 3; arg 29); first | refine Touches.hpl_set (by decide) ?_ | refine Touches.set rfl rfl rfl rfl rfl ?_)
    | extract_lets -underBinder
    | split
    | ((conv => arg 3; fail_if_success arg 1); refine Touches.set rfl rfl rfl rfl rfl ?_)
    | (conv => arg 3; dsimp -zeta -proj +zetaDelta only)

theorem execFirmwareVerified_answers (active other : ImageCheck) (s : State) : Answers [.free, .out, .node, .reg, .irq, .pwr, .hpl, .log, .od, .tak, .wak, .tln, .bb, .net, .ina, .tim, .spl, .chk, .pdb, .cpu] s (execFirmwareVerified active other s) := by
  unfold execFirmwareVerified
  with_reducible repeat' first
    | (extract_lets -underBinder +onlyGivenNames x; (first | refine Answers.mp (t := x) ?_ ?bb | refine Touches.mp (t := x) ?_ ?bb); case' bb => clear_value x; revert x; refine Touches.keep ?_; intro _ _)
    | refine Answers.next ?_
    | refine Answers.ite (fun _ => ?_) (fun _ => ?_)
    | exact Touches.refl _ _
    | assumption
    | refine Touches.ite (fun _ => ?_) (fun _ => ?_)
    | refine (securityEvent_touches ..).after (by decide) ?_
    | refine (enterFault_touches ..).after (by decide) ?_
    | refine Touches.foldl (fun _ _ _ => ?_) ?_
    | ((conv => arg 3; arg 29); first | refine Touches.hpl_set (by decide) ?_ | refine Touches.cpu_set (by decide) (by with_reducible rfl) ?_ | refine Touches.set rfl rfl rfl rfl rfl ?_)
    | extract_lets -underBinder
    | split
    | ((conv => arg 3; fail_if_success arg 1); refine Touches.set rfl rfl rfl rfl rfl ?_)
    | (conv => arg 3; dsimp -zeta -proj +zetaDelta only)

theorem startConfigured_touches (s : State) : Touches [.reg, .pwr, .net, .tim] s (startConfigured s) := by
  unfold startConfigured
  with_reducible repeat' first
    | (extract_lets -underBinder +onlyGivenNames x; refine Touches.mp (t := x) ?_ ?bb; case' bb => clear_value x; revert x; refine Touches.keep ?_; intro _ _)
    | exact Touches.refl _ _
    | assumption
    | refine Touches.ite (fun _ => ?_) (fun _ => ?_)
    | refine (schedStage_touches ..).after (by decide) ?_
    | refine (ppsApply_touches ..).after (by decide) ?_
    | refine (loopsApply_touches ..).after (by decide) ?_
    | refine Touches.foldl (fun _ _ _ => ?_) ?_
    | extract_lets -underBinder
    | split
    | (conv => arg 3; dsimp -zeta -proj +zetaDelta only)

theorem comeUp_touches (s : State) : Touches [.free, .out, .node, .reg, .irq, .pwr, .hpl, .log, .od, .tak, .wak, .tln, .bb, .net, .ina, .tim, .spl, .chk, .pdb, .cpu] s (comeUp s) := by
  unfold comeUp
  with_reducible repeat' first
    | exact Touches.refl _ _
    | assumption
    | refine Touches.ite (fun _ => ?_) (fun _ => ?_)
    | refine (powerFollow_touches ..).after (by decide) ?_
    | refine (restoreStored_touches ..).after (by decide) ?_
    | refine Touches.foldl (fun _ _ _ => ?_) ?_
    | ((conv => arg 3; arg 29); first | refine Touches.hpl_set (by decide) ?_ | refine Touches.wak_set (by decide) ?_ | refine Touches.set rfl rfl rfl rfl rfl ?_)
    | extract_lets -underBinder
    | split
    | ((conv => arg 3; fail_if_success arg 1); refine Touches.set rfl rfl rfl rfl rfl ?_)
    | (conv => arg 3; dsimp -zeta -proj +zetaDelta only)

theorem noteStart_touches (s : State) : Touches [.out, .reg, .irq, .log, .cpu] s (noteStart s) := by
  unfold noteStart
  with_reducible repeat' first
    | exact Touches.refl _ _
    | assumption
    | refine Touches.ite (fun _ => ?_) (fun _ => ?_)
    | refine (fire_touches ..).after (by decide) ?_
    | refine Touches.foldl (fun _ _ _ => ?_) ?_
    | extract_lets -underBinder
    | split
    | (conv => arg 3; dsimp -zeta -proj +zetaDelta only)

theorem execPoweronDawn_answers (s : State) : Answers [.free, .out, .node, .reg, .irq, .pwr, .hpl, .log, .od, .tak, .wak, .tln, .bb, .net, .ina, .tim, .spl, .chk, .pdb, .cpu] s (execPoweronDawn s) := by
  unfold execPoweronDawn
  with_reducible repeat' first
    | refine Answers.next ?_
    | refine Answers.ite (fun _ => ?_) (fun _ => ?_)
    | exact Touches.refl _ _
    | assumption
    | refine Touches.ite (fun _ => ?_) (fun _ => ?_)
    | refine (canStart_touches ..).after (by decide) ?_
    | refine (reportReplaced_touches ..).after (by decide) ?_
    | refine (startConfigured_touches ..).after (by decide) ?_
    | refine (comeUp_touches ..).after (by decide) ?_
    | refine (noteStart_touches ..).after (by decide) ?_
    | refine Touches.foldl (fun _ _ _ => ?_) ?_
    | extract_lets -underBinder
    | split
    | (conv => arg 3; dsimp -zeta -proj +zetaDelta only)

theorem execAppImageVerified_answers (ok : Bool) (s : State) : Answers [.free, .out, .node, .reg, .irq, .pwr, .log, .od, .tak, .wak, .tln, .bb, .net, .ina, .tim, .spl, .chk, .pdb, .cpu] s (execAppImageVerified ok s) := by
  unfold execAppImageVerified
  with_reducible repeat' first
    | refine Answers.next ?_
    | refine Answers.ite (fun _ => ?_) (fun _ => ?_)
    | exact Touches.refl _ _
    | assumption
    | refine Touches.ite (fun _ => ?_) (fun _ => ?_)
    | refine (securityEvent_touches ..).after (by decide) ?_
    | refine (setDom_touches ..).after (by decide) ?_
    | refine (powerFollow_touches ..).after (by decide) ?_
    | refine Touches.foldl (fun _ _ _ => ?_) ?_
    | ((conv => arg 3; arg 29); first | refine Touches.cpu_set (by decide) (by with_reducible rfl) ?_ | refine Touches.set rfl rfl rfl rfl rfl ?_)
    | extract_lets -underBinder
    | split
    | ((conv => arg 3; fail_if_success arg 1); refine Touches.set rfl rfl rfl rfl rfl ?_)
    | (conv => arg 3; dsimp -zeta -proj +zetaDelta only)

theorem execLampTestEnd_answers (s : State) : Answers [.now, .up, .out, .reg, .irq, .hpl, .log, .cpu] s (execLampTestEnd s) := by
  unfold execLampTestEnd
  with_reducible repeat' first
    | refine Answers.next ?_
    | refine Answers.ite (fun _ => ?_) (fun _ => ?_)
    | exact Touches.refl _ _
    | assumption
    | refine Touches.ite (fun _ => ?_) (fun _ => ?_)
    | refine (passTo_touches ..).after (by decide) ?_
    | refine Touches.foldl (fun _ _ _ => ?_) ?_
    | ((conv => arg 3; arg 29); first | refine Touches.hpl_set (by decide) ?_ | refine Touches.set rfl rfl rfl rfl rfl ?_)
    | extract_lets -underBinder
    | split
    | ((conv => arg 3; fail_if_success arg 1); refine Touches.set rfl rfl rfl rfl rfl ?_)
    | (conv => arg 3; dsimp -zeta -proj +zetaDelta only)

theorem execNodeReset_answers (c : ResetCause) (s : State) : Answers [.now, .up, .free, .out, .node, .fwVersion, .reg, .irq, .pwr, .hpl, .log, .od, .tak, .wak, .tln, .bb, .net, .ina, .tim, .spl, .chk, .pdb, .cpu] s (execNodeReset c s) := by
  unfold execNodeReset
  with_reducible repeat' first
    | refine Answers.next ?_
    | refine Answers.ite (fun _ => ?_) (fun _ => ?_)
    | exact Touches.refl _ _
    | assumption
    | refine Touches.ite (fun _ => ?_) (fun _ => ?_)
    | refine (resetNode_touches ..).after (by decide) ?_
    | refine Touches.foldl (fun _ _ _ => ?_) ?_
    | extract_lets -underBinder
    | split
    | (conv => arg 3; dsimp -zeta -proj +zetaDelta only)

theorem execPair0WatchdogExpiry_answers (s : State) : Answers [.now, .up, .free, .out, .node, .fwVersion, .reg, .irq, .pwr, .hpl, .log, .od, .tak, .wak, .tln, .bb, .net, .ina, .tim, .spl, .chk, .pdb, .cpu] s (execPair0WatchdogExpiry s) := by
  unfold execPair0WatchdogExpiry
  with_reducible repeat' first
    | refine Answers.next ?_
    | refine Answers.ite (fun _ => ?_) (fun _ => ?_)
    | exact Touches.refl _ _
    | assumption
    | refine Touches.ite (fun _ => ?_) (fun _ => ?_)
    | refine (resetNode_touches ..).after (by decide) ?_
    | refine Touches.foldl (fun _ _ _ => ?_) ?_
    | extract_lets -underBinder
    | split
    | (conv => arg 3; dsimp -zeta -proj +zetaDelta only)

theorem execFaultRecoveryExpiry_answers (s : State) : Answers [.now, .up, .free, .out, .node, .fwVersion, .reg, .irq, .pwr, .hpl, .log, .od, .tak, .wak, .tln, .bb, .net, .ina, .tim, .spl, .chk, .pdb, .cpu] s (execFaultRecoveryExpiry s) := by
  unfold execFaultRecoveryExpiry
  with_reducible repeat' first
    | (extract_lets -underBinder +onlyGivenNames x; (first | refine Answers.mp (t := x) ?_ ?bb | refine Touches.mp (t := x) ?_ ?bb); case' bb => clear_value x; revert x; refine Touches.keep ?_; intro _ _)
    | refine Answers.next ?_
    | refine Answers.ite (fun _ => ?_) (fun _ => ?_)
    | exact Touches.refl _ _
    | assumption
    | refine Touches.ite (fun _ => ?_) (fun _ => ?_)
    | refine (passTo_touches ..).after (by decide) ?_
    | refine (resetNode_touches ..).after (by decide) ?_
    | refine Touches.foldl (fun _ _ _ => ?_) ?_
    | ((conv => arg 3; arg 29); first | refine Touches.hpl_set (by decide) ?_ | refine Touches.set rfl rfl rfl rfl rfl ?_)
    | extract_lets -underBinder
    | split
    | ((conv => arg 3; fail_if_success arg 1); refine Touches.set rfl rfl rfl rfl rfl ?_)
    | (conv => arg 3; dsimp -zeta -proj +zetaDelta only)

theorem execThermalResetCooled_answers (t : BitVec 16) (s : State) : Answers [.now, .up, .free, .out, .node, .fwVersion, .reg, .irq, .pwr, .hpl, .log, .od, .tak, .wak, .tln, .bb, .net, .ina, .tim, .spl, .chk, .pdb, .cpu] s (execThermalResetCooled t s) := by
  unfold execThermalResetCooled
  with_reducible repeat' first
    | refine Answers.next ?_
    | refine Answers.ite (fun _ => ?_) (fun _ => ?_)
    | exact Touches.refl _ _
    | assumption
    | refine Touches.ite (fun _ => ?_) (fun _ => ?_)
    | refine (resetNode_touches ..).after (by decide) ?_
    | refine (takeTemp_touches ..).after (by decide) ?_
    | refine Touches.foldl (fun _ _ _ => ?_) ?_
    | extract_lets -underBinder
    | split
    | (conv => arg 3; dsimp -zeta -proj +zetaDelta only)

theorem watchLock_touches (s : State) : Touches [.hpl] s (watchLock s) := by
  unfold watchLock
  with_reducible repeat' first
    | exact Touches.refl _ _
    | assumption
    | refine Touches.ite (fun _ => ?_) (fun _ => ?_)
    | refine Touches.foldl (fun _ _ _ => ?_) ?_
    | ((conv => arg 3; arg 29); first | refine Touches.hpl_set (by decide) ?_ | refine Touches.set rfl rfl rfl rfl rfl ?_)
    | extract_lets -underBinder
    | split
    | ((conv => arg 3; fail_if_success arg 1); refine Touches.set rfl rfl rfl rfl rfl ?_)
    | (conv => arg 3; dsimp -zeta -proj +zetaDelta only)

theorem endHostHold_touches (s : State) : Touches [.free, .out, .node, .reg, .irq, .pwr, .hpl, .log, .od, .tak, .wak, .tln, .bb, .net, .ina, .tim, .spl, .chk, .pdb, .cpu] s (endHostHold s) := by
  unfold endHostHold
  with_reducible repeat' first
    | exact Touches.refl _ _
    | assumption
    | refine Touches.ite (fun _ => ?_) (fun _ => ?_)
    | refine (powerFollow_touches ..).after (by decide) ?_
    | refine (watchLock_touches ..).after (by decide) ?_
    | refine Touches.foldl (fun _ _ _ => ?_) ?_
    | ((conv => arg 3; arg 29); first | refine Touches.hpl_set (by decide) ?_ | refine Touches.set rfl rfl rfl rfl rfl ?_)
    | extract_lets -underBinder
    | split
    | ((conv => arg 3; fail_if_success arg 1); refine Touches.set rfl rfl rfl rfl rfl ?_)
    | (conv => arg 3; dsimp -zeta -proj +zetaDelta only)

theorem reachSafe_touches (s : State) : Touches [.now, .up, .free, .out, .node, .fwVersion, .reg, .irq, .pwr, .hpl, .log, .od, .tak, .wak, .tln, .bb, .net, .ina, .tim, .spl, .chk, .pdb, .cpu] s (reachSafe s) := by
  unfold reachSafe
  with_reducible repeat' first
    | (extract_lets -underBinder +onlyGivenNames x; refine Touches.mp (t := x) ?_ ?bb; case' bb => clear_value x; revert x; refine Touches.keep ?_; intro _ _)
    | exact Touches.refl _ _
    | assumption
    | refine Touches.ite (fun _ => ?_) (fun _ => ?_)
    | refine (bump_touches ..).after (by decide) ?_
    | refine (powerFollow_touches ..).after (by decide) ?_
    | refine (resetNode_touches ..).after (by decide) ?_
    | refine (endHostHold_touches ..).after (by decide) ?_
    | refine Touches.foldl (fun _ _ _ => ?_) ?_
    | ((conv => arg 3; arg 29); first | refine Touches.hpl_set (by decide) ?_ | refine Touches.set rfl rfl rfl rfl rfl ?_)
    | extract_lets -underBinder
    | split
    | ((conv => arg 3; fail_if_success arg 1); refine Touches.set rfl rfl rfl rfl rfl ?_)
    | (conv => arg 3; dsimp -zeta -proj +zetaDelta only)

theorem startExit_touches (s : State) : Touches [.free, .out, .node, .reg, .irq, .pwr, .hpl, .log, .od, .tak, .wak, .tln, .bb, .net, .ina, .tim, .spl, .chk, .pdb, .cpu] s (startExit s) := by
  unfold startExit
  with_reducible repeat' first
    | (extract_lets -underBinder +onlyGivenNames x; refine Touches.mp (t := x) ?_ ?bb; case' bb => clear_value x; revert x; refine Touches.keep ?_; intro _ _)
    | exact Touches.refl _ _
    | assumption
    | refine Touches.ite (fun _ => ?_) (fun _ => ?_)
    | refine (applyVals_touches ..).after (by decide) ?_
    | refine (recordChanged_touches ..).after (by decide) ?_
    | refine (announceLeave_touches ..).after (by decide) ?_
    | refine (setNode_touches ..).after (by decide) ?_
    | refine (stopInsertion_touches ..).after (by decide) ?_
    | refine (scrapUser_touches ..).after (by decide) ?_
    | refine (powerFollow_touches ..).after (by decide) ?_
    | refine Touches.foldl (fun _ _ _ => ?_) ?_
    | ((conv => arg 3; arg 29); first | refine Touches.hpl_set (by decide) ?_ | refine Touches.tak_set (by decide) ?_ | refine Touches.wak_set (by decide) ?_ | refine Touches.set rfl rfl rfl rfl rfl ?_)
    | extract_lets -underBinder
    | split
    | ((conv => arg 3; fail_if_success arg 1); refine Touches.set rfl rfl rfl rfl rfl ?_)
    | (conv => arg 3; dsimp -zeta -proj +zetaDelta only)

theorem warn_touches (src : Nat) (s : State) : Touches [.now, .up, .free, .out, .node, .fwVersion, .reg, .irq, .pwr, .hpl, .log, .od, .tak, .wak, .tln, .bb, .net, .ina, .tim, .spl, .chk, .pdb, .cpu] s (warn src s) := by
  unfold warn
  with_reducible repeat' first
    | (extract_lets -underBinder +onlyGivenNames x; refine Touches.mp (t := x) ?_ ?bb; case' bb => clear_value x; revert x; refine Touches.keep ?_; intro _ _)
    | exact Touches.refl _ _
    | assumption
    | refine Touches.ite (fun _ => ?_) (fun _ => ?_)
    | refine (bump_touches ..).after (by decide) ?_
    | refine (raiseIrq_touches ..).after (by decide) ?_
    | refine (fire_touches ..).after (by decide) ?_
    | refine (setNode_touches ..).after (by decide) ?_
    | refine (reachSafe_touches ..).after (by decide) ?_
    | refine (startExit_touches ..).after (by decide) ?_
    | refine Touches.foldl (fun _ _ _ => ?_) ?_
    | ((conv => arg 3; arg 29); first | refine Touches.hpl_set (by decide) ?_ | refine Touches.set rfl rfl rfl rfl rfl ?_)
    | extract_lets -underBinder
    | split
    | ((conv => arg 3; fail_if_success arg 1); refine Touches.set rfl rfl rfl rfl rfl ?_)
    | (conv => arg 3; dsimp -zeta -proj +zetaDelta only)

theorem execEjectOpen_answers (s : State) : Answers [.now, .up, .free, .out, .node, .fwVersion, .reg, .irq, .pwr, .hpl, .log, .od, .tak, .wak, .tln, .bb, .net, .ina, .tim, .spl, .chk, .pdb, .cpu] s (execEjectOpen s) := by
  unfold execEjectOpen
  with_reducible repeat' first
    | refine Answers.next ?_
    | refine Answers.ite (fun _ => ?_) (fun _ => ?_)
    | exact Touches.refl _ _
    | assumption
    | refine Touches.ite (fun _ => ?_) (fun _ => ?_)
    | refine (warn_touches ..).after (by decide) ?_
    | refine Touches.foldl (fun _ _ _ => ?_) ?_
    | ((conv => arg 3; arg 29); first | refine Touches.hpl_set (by decide) ?_ | refine Touches.set rfl rfl rfl rfl rfl ?_)
    | extract_lets -underBinder
    | split
    | ((conv => arg 3; fail_if_success arg 1); refine Touches.set rfl rfl rfl rfl rfl ?_)
    | (conv => arg 3; dsimp -zeta -proj +zetaDelta only)

theorem execEjectClose_answers (s : State) : Answers [.hpl] s (execEjectClose s) := by
  unfold execEjectClose
  with_reducible repeat' first
    | (extract_lets -underBinder +onlyGivenNames x; (first | refine Answers.mp (t := x) ?_ ?bb | refine Touches.mp (t := x) ?_ ?bb); case' bb => clear_value x; revert x; refine Touches.keep ?_; intro _ _)
    | refine Answers.next ?_
    | refine Answers.ite (fun _ => ?_) (fun _ => ?_)
    | exact Touches.refl _ _
    | assumption
    | refine Touches.ite (fun _ => ?_) (fun _ => ?_)
    | refine (watchLock_touches ..).after (by decide) ?_
    | refine Touches.foldl (fun _ _ _ => ?_) ?_
    | ((conv => arg 3; arg 29); first | refine Touches.hpl_set (by decide) ?_ | refine Touches.set rfl rfl rfl rfl rfl ?_)
    | extract_lets -underBinder
    | split
    | ((conv => arg 3; fail_if_success arg 1); refine Touches.set rfl rfl rfl rfl rfl ?_)
    | (conv => arg 3; dsimp -zeta -proj +zetaDelta only)

theorem execExitReq_answers (k : Byte) (s : State) : Answers [.now, .up, .free, .out, .node, .fwVersion, .reg, .irq, .pwr, .hpl, .log, .od, .tak, .wak, .tln, .bb, .net, .ina, .tim, .spl, .chk, .pdb, .cpu] s (execExitReq k s) := by
  unfold execExitReq
  with_reducible repeat' first
    | refine Answers.next ?_
    | refine Answers.ite (fun _ => ?_) (fun _ => ?_)
    | exact Touches.refl _ _
    | assumption
    | refine Touches.ite (fun _ => ?_) (fun _ => ?_)
    | refine (warn_touches ..).after (by decide) ?_
    | refine Touches.foldl (fun _ _ _ => ?_) ?_
    | extract_lets -underBinder
    | split
    | (conv => arg 3; dsimp -zeta -proj +zetaDelta only)

theorem execSeatedOpen_answers (hv : Bool) (s : State) : Answers [.free, .out, .node, .reg, .irq, .hpl, .log, .wak, .bb, .net, .ina, .tim, .spl, .cpu] s (execSeatedOpen hv s) := by
  unfold execSeatedOpen
  with_reducible repeat' first
    | (extract_lets -underBinder +onlyGivenNames x; (first | refine Answers.mp (t := x) ?_ ?bb | refine Touches.mp (t := x) ?_ ?bb); case' bb => clear_value x; revert x; refine Touches.keep ?_; intro _ _)
    | refine Answers.next ?_
    | refine Answers.ite (fun _ => ?_) (fun _ => ?_)
    | exact Touches.refl _ _
    | assumption
    | refine Touches.ite (fun _ => ?_) (fun _ => ?_)
    | refine (releaseBoth_touches ..).after (by decide) ?_
    | refine Touches.foldl (fun _ _ _ => ?_) ?_
    | ((conv => arg 3; arg 29); first | refine Touches.hpl_set (by decide) ?_ | refine Touches.set rfl rfl rfl rfl rfl ?_)
    | extract_lets -underBinder
    | split
    | ((conv => arg 3; fail_if_success arg 1); refine Touches.set rfl rfl rfl rfl rfl ?_)
    | (conv => arg 3; dsimp -zeta -proj +zetaDelta only)

theorem execExitReleaseStart_answers (s : State) : Answers [.now, .up, .free, .out, .node, .reg, .irq, .hpl, .log, .wak, .bb, .net, .ina, .tim, .spl, .cpu] s (execExitReleaseStart s) := by
  unfold execExitReleaseStart
  with_reducible repeat' first
    | refine Answers.next ?_
    | refine Answers.ite (fun _ => ?_) (fun _ => ?_)
    | exact Touches.refl _ _
    | assumption
    | refine Touches.ite (fun _ => ?_) (fun _ => ?_)
    | refine (passToInstant_touches ..).after (by decide) ?_
    | refine (startRelease_touches ..).after (by decide) ?_
    | refine Touches.foldl (fun _ _ _ => ?_) ?_
    | ((conv => arg 3; arg 29); first | refine Touches.hpl_set (by decide) ?_ | refine Touches.set rfl rfl rfl rfl rfl ?_)
    | extract_lets -underBinder
    | split
    | ((conv => arg 3; fail_if_success arg 1); refine Touches.set rfl rfl rfl rfl rfl ?_)
    | (conv => arg 3; dsimp -zeta -proj +zetaDelta only)

theorem exitReleased_touches (s : State) : Touches [.free, .out, .node, .reg, .irq, .pwr, .hpl, .log, .od, .tak, .wak, .tln, .bb, .net, .ina, .tim, .spl, .chk, .pdb, .cpu] s (exitReleased s) := by
  unfold exitReleased
  with_reducible repeat' first
    | exact Touches.refl _ _
    | assumption
    | refine Touches.ite (fun _ => ?_) (fun _ => ?_)
    | refine (splForce_touches ..).after (by decide) ?_
    | refine (powerFollow_touches ..).after (by decide) ?_
    | refine Touches.foldl (fun _ _ _ => ?_) ?_
    | ((conv => arg 3; arg 29); first | refine Touches.hpl_set (by decide) ?_ | refine Touches.set rfl rfl rfl rfl rfl ?_)
    | extract_lets -underBinder
    | split
    | ((conv => arg 3; fail_if_success arg 1); refine Touches.set rfl rfl rfl rfl rfl ?_)
    | (conv => arg 3; dsimp -zeta -proj +zetaDelta only)

theorem execRelDoneTimer_answers (s : State) : Answers [.now, .up, .free, .out, .node, .fwVersion, .reg, .irq, .pwr, .hpl, .log, .od, .tak, .wak, .tln, .bb, .net, .ina, .tim, .spl, .chk, .pdb, .cpu] s (execRelDoneTimer s) := by
  unfold execRelDoneTimer
  with_reducible repeat' first
    | (extract_lets -underBinder +onlyGivenNames x; (first | refine Answers.mp (t := x) ?_ ?bb | refine Touches.mp (t := x) ?_ ?bb); case' bb => clear_value x; revert x; refine Touches.keep ?_; intro _ _)
    | refine Answers.next ?_
    | refine Answers.ite (fun _ => ?_) (fun _ => ?_)
    | exact Touches.refl _ _
    | assumption
    | refine Touches.ite (fun _ => ?_) (fun _ => ?_)
    | refine (passTo_touches ..).after (by decide) ?_
    | refine (resumeInsert_touches ..).after (by decide) ?_
    | refine (reachSafe_touches ..).after (by decide) ?_
    | refine (exitReleased_touches ..).after (by decide) ?_
    | refine Touches.foldl (fun _ _ _ => ?_) ?_
    | ((conv => arg 3; arg 29); first | refine Touches.bb_set (by decide) ?_ | refine Touches.set rfl rfl rfl rfl rfl ?_)
    | extract_lets -underBinder
    | split
    | ((conv => arg 3; fail_if_success arg 1); refine Touches.set rfl rfl rfl rfl rfl ?_)
    | (conv => arg 3; dsimp -zeta -proj +zetaDelta only)

theorem exitDrained_touches (s : State) : Touches [.now, .up, .free, .out, .node, .fwVersion, .reg, .irq, .pwr, .hpl, .log, .od, .tak, .wak, .tln, .bb, .net, .ina, .tim, .spl, .chk, .pdb, .cpu] s (exitDrained s) := by
  unfold exitDrained
  with_reducible repeat' first
    | exact Touches.refl _ _
    | assumption
    | refine Touches.ite (fun _ => ?_) (fun _ => ?_)
    | refine (reachSafe_touches ..).after (by decide) ?_
    | refine Touches.foldl (fun _ _ _ => ?_) ?_
    | extract_lets -underBinder
    | split
    | (conv => arg 3; dsimp -zeta -proj +zetaDelta only)

theorem execRecorderDrainLimit_answers (s : State) : Answers [.now, .up, .free, .out, .node, .fwVersion, .reg, .irq, .pwr, .hpl, .log, .od, .tak, .wak, .tln, .bb, .net, .ina, .tim, .spl, .chk, .pdb, .cpu] s (execRecorderDrainLimit s) := by
  unfold execRecorderDrainLimit
  with_reducible repeat' first
    | refine Answers.next ?_
    | refine Answers.ite (fun _ => ?_) (fun _ => ?_)
    | exact Touches.refl _ _
    | assumption
    | refine Touches.ite (fun _ => ?_) (fun _ => ?_)
    | refine (passTo_touches ..).after (by decide) ?_
    | refine (reachSafe_touches ..).after (by decide) ?_
    | refine (exitDrained_touches ..).after (by decide) ?_
    | refine Touches.foldl (fun _ _ _ => ?_) ?_
    | extract_lets -underBinder
    | split
    | (conv => arg 3; dsimp -zeta -proj +zetaDelta only)

theorem doHostDone_touches (s : State) : Touches [.free, .out, .node, .reg, .irq, .pwr, .hpl, .log, .od, .tak, .wak, .tln, .bb, .net, .ina, .tim, .spl, .chk, .pdb, .cpu] s (doHostDone s) := by
  unfold doHostDone
  with_reducible repeat' first
    | exact Touches.refl _ _
    | assumption
    | refine Touches.ite (fun _ => ?_) (fun _ => ?_)
    | refine (endHostHold_touches ..).after (by decide) ?_
    | refine Touches.foldl (fun _ _ _ => ?_) ?_
    | extract_lets -underBinder
    | split
    | (conv => arg 3; dsimp -zeta -proj +zetaDelta only)

theorem execHostDone_answers (s : State) : Answers [.free, .out, .node, .reg, .irq, .pwr, .hpl, .log, .od, .tak, .wak, .tln, .bb, .net, .ina, .tim, .spl, .chk, .pdb, .cpu] s (execHostDone s) := by
  unfold execHostDone
  with_reducible repeat' first
    | refine Answers.next ?_
    | refine Answers.ite (fun _ => ?_) (fun _ => ?_)
    | exact Touches.refl _ _
    | assumption
    | refine Touches.ite (fun _ => ?_) (fun _ => ?_)
    | refine (doHostDone_touches ..).after (by decide) ?_
    | refine Touches.foldl (fun _ _ _ => ?_) ?_
    | extract_lets -underBinder
    | split
    | (conv => arg 3; dsimp -zeta -proj +zetaDelta only)

theorem execHostHoldExpiry_answers (s : State) : Answers [.now, .up, .free, .out, .node, .reg, .irq, .pwr, .hpl, .log, .od, .tak, .wak, .tln, .bb, .net, .ina, .tim, .spl, .chk, .pdb, .cpu] s (execHostHoldExpiry s) := by
  unfold execHostHoldExpiry
  with_reducible repeat' first
    | refine Answers.next ?_
    | refine Answers.ite (fun _ => ?_) (fun _ => ?_)
    | exact Touches.refl _ _
    | assumption
    | refine Touches.ite (fun _ => ?_) (fun _ => ?_)
    | refine (passTo_touches ..).after (by decide) ?_
    | refine (endHostHold_touches ..).after (by decide) ?_
    | refine Touches.foldl (fun _ _ _ => ?_) ?_
    | extract_lets -underBinder
    | split
    | (conv => arg 3; dsimp -zeta -proj +zetaDelta only)

theorem execExitCancel_answers (s : State) : Answers [.now, .up, .free, .out, .node, .fwVersion, .reg, .irq, .pwr, .hpl, .log, .od, .tak, .wak, .tln, .bb, .net, .ina, .tim, .spl, .chk, .pdb, .cpu] s (execExitCancel s) := by
  unfold execExitCancel
  with_reducible repeat' first
    | refine Answers.next ?_
    | refine Answers.ite (fun _ => ?_) (fun _ => ?_)
    | exact Touches.refl _ _
    | assumption
    | refine Touches.ite (fun _ => ?_) (fun _ => ?_)
    | refine (passTo_touches ..).after (by decide) ?_
    | refine (resetNode_touches ..).after (by decide) ?_
    | refine Touches.foldl (fun _ _ _ => ?_) ?_
    | extract_lets -underBinder
    | split
    | (conv => arg 3; dsimp -zeta -proj +zetaDelta only)

theorem askReset_touches (c : ResetCause) (s : State) : Touches [.now, .up, .free, .out, .node, .fwVersion, .reg, .irq, .pwr, .hpl, .log, .od, .tak, .wak, .tln, .bb, .net, .ina, .tim, .spl, .chk, .pdb, .cpu] s (askReset c s) := by
  unfold askReset
  with_reducible repeat' first
    | exact Touches.refl _ _
    | assumption
    | refine Touches.ite (fun _ => ?_) (fun _ => ?_)
    | refine (resetNode_touches ..).after (by decide) ?_
    | refine (startExit_touches ..).after (by decide) ?_
    | refine Touches.foldl (fun _ _ _ => ?_) ?_
    | ((conv => arg 3; arg 29); first | refine Touches.hpl_set (by decide) ?_ | refine Touches.set rfl rfl rfl rfl rfl ?_)
    | extract_lets -underBinder
    | split
    | ((conv => arg 3; fail_if_success arg 1); refine Touches.set rfl rfl rfl rfl rfl ?_)
    | (conv => arg 3; dsimp -zeta -proj +zetaDelta only)

theorem execNodeResetRequest_answers (k : Byte) (s : State) : Answers [.now, .up, .free, .out, .node, .fwVersion, .reg, .irq, .pwr, .hpl, .log, .od, .tak, .wak, .tln, .bb, .net, .ina, .tim, .spl, .chk, .pdb, .cpu] s (execNodeResetRequest k s) := by
  unfold execNodeResetRequest
  with_reducible repeat' first
    | refine Answers.next ?_
    | refine Answers.ite (fun _ => ?_) (fun _ => ?_)
    | exact Touches.refl _ _
    | assumption
    | refine Touches.ite (fun _ => ?_) (fun _ => ?_)
    | refine (askReset_touches ..).after (by decide) ?_
    | refine Touches.foldl (fun _ _ _ => ?_) ?_
    | extract_lets -underBinder
    | split
    | (conv => arg 3; dsimp -zeta -proj +zetaDelta only)

theorem execPcieReset_answers (s : State) : Answers [.free, .out, .node, .reg, .irq, .pwr, .hpl, .log, .od, .tak, .wak, .tln, .bb, .net, .ina, .tim, .spl, .chk, .pdb, .cpu] s (execPcieReset s) := by
  unfold execPcieReset
  with_reducible repeat' first
    | (extract_lets -underBinder +onlyGivenNames x; (first | refine Answers.mp (t := x) ?_ ?bb | refine Touches.mp (t := x) ?_ ?bb); case' bb => clear_value x; revert x; refine Touches.keep ?_; intro _ _)
    | refine Answers.next ?_
    | refine Answers.ite (fun _ => ?_) (fun _ => ?_)
    | exact Touches.refl _ _
    | assumption
    | refine Touches.ite (fun _ => ?_) (fun _ => ?_)
    | refine (forceClose_touches ..).after (by decide) ?_
    | refine (fencesGoOn_touches ..).after (by decide) ?_
    | refine (endpointReset_touches ..).after (by decide) ?_
    | refine (endHostHold_touches ..).after (by decide) ?_
    | refine Touches.foldl (fun _ _ _ => ?_) ?_
    | ((conv => arg 3; arg 29); first | refine Touches.hpl_set (by decide) ?_ | refine Touches.set rfl rfl rfl rfl rfl ?_)
    | extract_lets -underBinder
    | split
    | ((conv => arg 3; fail_if_success arg 1); refine Touches.set rfl rfl rfl rfl rfl ?_)
    | (conv => arg 3; dsimp -zeta -proj +zetaDelta only)

end Sys2Proof.Machine
end

