-- ==== Sys2Proof/Laws/Time.lean ====
section
/-!
SUPPORT. Laws/Time.lean: the frame of every operation of Machine/Time.lean: which parts of the state it may change, and that it keeps the bounds.
-/
namespace Sys2Proof.Machine

set_option Elab.async false
set_option linter.all false

theorem steer_touches (s : State) : Touches [.free, .tim] s (steer s) := by
  unfold steer
  with_reducible repeat' first
    | (extract_lets -underBinder +onlyGivenNames x; refine Touches.mp (t := x) ?_ ?bb; case' bb => clear_value x; revert x; refine Touches.keep ?_; intro _ _)
    | exact Touches.refl _ _
    | assumption
    | refine Touches.ite (fun _ => ?_) (fun _ => ?_)
    | refine (nextFree_touches ..).after (by decide) ?_
    | refine (Touches.ofPair ‹nextFree _ = _› (nextFree_touches ..)).after (by decide) ?_
    | refine Touches.foldl (fun _ _ _ => ?_) ?_
    | ((conv => arg 3; arg 29); first | refine Touches.set rfl rfl rfl rfl rfl ?_)
    | extract_lets -underBinder
    | split
    | ((conv => arg 3; fail_if_success arg 1); refine Touches.set rfl rfl rfl rfl rfl ?_)
    | (conv => arg 3; dsimp -zeta -proj +zetaDelta only)

theorem steerLocked_touches (o : Int) (s : State) : Touches [.free, .tim] s (steerLocked o s) := by
  unfold steerLocked
  with_reducible repeat' first
    | (extract_lets -underBinder +onlyGivenNames x; refine Touches.mp (t := x) ?_ ?bb; case' bb => clear_value x; revert x; refine Touches.keep ?_; intro _ _)
    | exact Touches.refl _ _
    | assumption
    | refine Touches.ite (fun _ => ?_) (fun _ => ?_)
    | refine (nextFree_touches ..).after (by decide) ?_
    | refine (Touches.ofPair ‹nextFree _ = _› (nextFree_touches ..)).after (by decide) ?_
    | refine (slewRate_touches ..).after (by decide) ?_
    | refine (startSlew_touches ..).after (by decide) ?_
    | refine Touches.foldl (fun _ _ _ => ?_) ?_
    | ((conv => arg 3; arg 29); first | refine Touches.set rfl rfl rfl rfl rfl ?_)
    | extract_lets -underBinder
    | split
    | ((conv => arg 3; fail_if_success arg 1); refine Touches.set rfl rfl rfl rfl rfl ?_)
    | (conv => arg 3; dsimp -zeta -proj +zetaDelta only)

theorem lineDiffCheck_touches (s : State) : Touches [.out, .reg, .irq, .log, .tim, .cpu] s (lineDiffCheck s) := by
  unfold lineDiffCheck
  with_reducible repeat' first
    | (extract_lets -underBinder +onlyGivenNames x; refine Touches.mp (t := x) ?_ ?bb; case' bb => clear_value x; revert x; refine Touches.keep ?_; intro _ _)
    | exact Touches.refl _ _
    | assumption
    | refine Touches.ite (fun _ => ?_) (fun _ => ?_)
    | refine (fire_touches ..).after (by decide) ?_
    | refine Touches.foldl (fun _ _ _ => ?_) ?_
    | ((conv => arg 3; arg 29); first | refine Touches.set rfl rfl rfl rfl rfl ?_)
    | extract_lets -underBinder
    | split
    | ((conv => arg 3; fail_if_success arg 1); refine Touches.set rfl rfl rfl rfl rfl ?_)
    | (conv => arg 3; dsimp -zeta -proj +zetaDelta only)

theorem servoUpdate_touches (o : Int) (s : State) : Touches [.now, .free, .out, .reg, .irq, .log, .net, .tim, .cpu] s (servoUpdate o s) := by
  unfold servoUpdate
  with_reducible repeat' first
    | (extract_lets -underBinder +onlyGivenNames x; refine Touches.mp (t := x) ?_ ?bb; case' bb => clear_value x; revert x; refine Touches.keep ?_; intro _ _)
    | exact Touches.refl _ _
    | assumption
    | refine Touches.ite (fun _ => ?_) (fun _ => ?_)
    | refine (setServo_touches ..).after (by decide) ?_
    | refine (stepTime_touches ..).after (by decide) ?_
    | refine (enterSuspect_touches ..).after (by decide) ?_
    | refine (lockSlewing_touches ..).after (by decide) ?_
    | refine (steer_touches ..).after (by decide) ?_
    | refine (steerLocked_touches ..).after (by decide) ?_
    | refine Touches.foldl (fun _ _ _ => ?_) ?_
    | ((conv => arg 3; arg 29); first | refine Touches.set rfl rfl rfl rfl rfl ?_)
    | extract_lets -underBinder
    | split
    | ((conv => arg 3; fail_if_success arg 1); refine Touches.set rfl rfl rfl rfl rfl ?_)
    | (conv => arg 3; dsimp -zeta -proj +zetaDelta only)

theorem chooseLine_touches (l : Line) (s : State) : Touches [.out, .reg, .irq, .log, .tim, .cpu] s (chooseLine l s) := by
  unfold chooseLine
  with_reducible repeat' first
    | exact Touches.refl _ _
    | assumption
    | refine Touches.ite (fun _ => ?_) (fun _ => ?_)
    | refine (switchTimeLine_touches ..).after (by decide) ?_
    | refine Touches.foldl (fun _ _ _ => ?_) ?_
    | ((conv => arg 3; arg 29); first | refine Touches.set rfl rfl rfl rfl rfl ?_)
    | extract_lets -underBinder
    | split
    | ((conv => arg 3; fail_if_success arg 1); refine Touches.set rfl rfl rfl rfl rfl ?_)
    | (conv => arg 3; dsimp -zeta -proj +zetaDelta only)

theorem ptpForward_touches (p : Nat) (m : PtpMsg) (s : State) : Touches [.out, .reg, .irq, .net, .cpu] s (ptpForward p m s) := by
  unfold ptpForward
  with_reducible repeat' first
    | exact Touches.refl _ _
    | assumption
    | refine Touches.ite (fun _ => ?_) (fun _ => ?_)
    | refine (ptpQueue_touches ..).after (by decide) ?_
    | refine Touches.foldl (fun _ _ _ => ?_) ?_
    | extract_lets -underBinder
    | split
    | (conv => arg 3; dsimp -zeta -proj +zetaDelta only)

theorem forwardSync_touches (p : Nat) (m : SyncIn) (s : State) : Touches [.out, .reg, .irq, .net, .cpu] s (forwardSync p m s) := by
  unfold forwardSync
  with_reducible repeat' first
    | (extract_lets -underBinder +onlyGivenNames x; refine Touches.mp (t := x) ?_ ?bb; case' bb => clear_value x; revert x; refine Touches.keep ?_; intro _ _)
    | exact Touches.refl _ _
    | assumption
    | refine Touches.ite (fun _ => ?_) (fun _ => ?_)
    | refine (ptpForward_touches ..).after (by decide) ?_
    | refine Touches.foldl (fun _ _ _ => ?_) ?_
    | extract_lets -underBinder
    | split
    | (conv => arg 3; dsimp -zeta -proj +zetaDelta only)

theorem noteSync_touches (p : Nat) (m : SyncIn) (s : State) : Touches [.tim] s (noteSync p m s) := by
  unfold noteSync
  with_reducible repeat' first
    | (extract_lets -underBinder +onlyGivenNames x; refine Touches.mp (t := x) ?_ ?bb; case' bb => clear_value x; revert x; refine Touches.keep ?_; intro _ _)
    | exact Touches.refl _ _
    | assumption
    | refine Touches.ite (fun _ => ?_) (fun _ => ?_)
    | refine (setPtp_touches ..).after (by decide) ?_
    | refine Touches.foldl (fun _ _ _ => ?_) ?_
    | extract_lets -underBinder
    | split
    | (conv => arg 3; dsimp -zeta -proj +zetaDelta only)

theorem syncServo_touches (p : Nat) (m : SyncIn) (s : State) : Touches [.now, .free, .out, .reg, .irq, .log, .net, .tim, .cpu] s (syncServo p m s) := by
  unfold syncServo
  with_reducible repeat' first
    | (extract_lets -underBinder +onlyGivenNames x; refine Touches.mp (t := x) ?_ ?bb; case' bb => clear_value x; revert x; refine Touches.keep ?_; intro _ _)
    | exact Touches.refl _ _
    | assumption
    | refine Touches.ite (fun _ => ?_) (fun _ => ?_)
    | refine (lineDiffCheck_touches ..).after (by decide) ?_
    | refine (servoUpdate_touches ..).after (by decide) ?_
    | refine (chooseLine_touches ..).after (by decide) ?_
    | refine Touches.foldl (fun _ _ _ => ?_) ?_
    | ((conv => arg 3; arg 29); first | refine Touches.set rfl rfl rfl rfl rfl ?_)
    | extract_lets -underBinder
    | split
    | ((conv => arg 3; fail_if_success arg 1); refine Touches.set rfl rfl rfl rfl rfl ?_)
    | (conv => arg 3; dsimp -zeta -proj +zetaDelta only)

theorem syncIn_touches (p : Nat) (m : SyncIn) (s : State) : Touches [.now, .free, .out, .reg, .irq, .log, .net, .tim, .cpu] s (syncIn p m s) := by
  unfold syncIn
  with_reducible repeat' first
    | (extract_lets -underBinder +onlyGivenNames x; refine Touches.mp (t := x) ?_ ?bb; case' bb => clear_value x; revert x; refine Touches.keep ?_; intro _ _)
    | exact Touches.refl _ _
    | assumption
    | refine Touches.ite (fun _ => ?_) (fun _ => ?_)
    | refine (bump_touches ..).after (by decide) ?_
    | refine (setPtp_touches ..).after (by decide) ?_
    | refine (servoUpdate_touches ..).after (by decide) ?_
    | refine (forwardSync_touches ..).after (by decide) ?_
    | refine (noteSync_touches ..).after (by decide) ?_
    | refine (syncServo_touches ..).after (by decide) ?_
    | refine Touches.foldl (fun _ _ _ => ?_) ?_
    | extract_lets -underBinder
    | split
    | (conv => arg 3; dsimp -zeta -proj +zetaDelta only)

theorem execSyncOriginate_answers (s : State) : Answers [.now, .up, .out, .reg, .irq, .log, .net, .tim, .cpu] s (execSyncOriginate s) := by
  unfold execSyncOriginate
  with_reducible repeat' first
    | (extract_lets -underBinder +onlyGivenNames x; (first | refine Answers.mp (t := x) ?_ ?bb | refine Touches.mp (t := x) ?_ ?bb); case' bb => clear_value x; revert x; refine Touches.keep ?_; intro _ _)
    | refine Answers.next ?_
    | refine Answers.ite (fun _ => ?_) (fun _ => ?_)
    | exact Touches.refl _ _
    | assumption
    | refine Touches.ite (fun _ => ?_) (fun _ => ?_)
    | refine (passTo_touches ..).after (by decide) ?_
    | refine (setPtp_touches ..).after (by decide) ?_
    | refine (ptpSend_touches ..).after (by decide) ?_
    | refine Touches.foldl (fun _ _ _ => ?_) ?_
    | extract_lets -underBinder
    | split
    | (conv => arg 3; dsimp -zeta -proj +zetaDelta only)

theorem execConsistSyncSend_answers (p : Fin 17) (s : State) : Answers [.now, .up, .out, .reg, .irq, .log, .net, .tim, .cpu] s (execConsistSyncSend p s) := by
  unfold execConsistSyncSend
  with_reducible repeat' first
    | (extract_lets -underBinder +onlyGivenNames x; (first | refine Answers.mp (t := x) ?_ ?bb | refine Touches.mp (t := x) ?_ ?bb); case' bb => clear_value x; revert x; refine Touches.keep ?_; intro _ _)
    | refine Answers.next ?_
    | refine Answers.ite (fun _ => ?_) (fun _ => ?_)
    | exact Touches.refl _ _
    | assumption
    | refine Touches.ite (fun _ => ?_) (fun _ => ?_)
    | refine (passTo_touches ..).after (by decide) ?_
    | refine (setPtp_touches ..).after (by decide) ?_
    | refine (ptpSend_touches ..).after (by decide) ?_
    | refine Touches.foldl (fun _ _ _ => ?_) ?_
    | extract_lets -underBinder
    | split
    | (conv => arg 3; dsimp -zeta -proj +zetaDelta only)

theorem execAnnounceSend_answers (s : State) : Answers [.now, .up, .out, .reg, .irq, .log, .net, .tim, .cpu] s (execAnnounceSend s) := by
  unfold execAnnounceSend
  with_reducible repeat' first
    | (extract_lets -underBinder +onlyGivenNames x; (first | refine Answers.mp (t := x) ?_ ?bb | refine Touches.mp (t := x) ?_ ?bb); case' bb => clear_value x; revert x; refine Touches.keep ?_; intro _ _)
    | refine Answers.next ?_
    | refine Answers.ite (fun _ => ?_) (fun _ => ?_)
    | exact Touches.refl _ _
    | assumption
    | refine Touches.ite (fun _ => ?_) (fun _ => ?_)
    | refine (passTo_touches ..).after (by decide) ?_
    | refine (setPtp_touches ..).after (by decide) ?_
    | refine (becomeGm_touches ..).after (by decide) ?_
    | refine (announceAll_touches ..).after (by decide) ?_
    | refine Touches.foldl (fun _ _ _ => ?_) ?_
    | extract_lets -underBinder
    | split
    | (conv => arg 3; dsimp -zeta -proj +zetaDelta only)

theorem announceIn_touches (p : Nat) (m : AnnounceIn) (s : State) : Touches [.out, .reg, .irq, .log, .net, .tim, .cpu] s (announceIn p m s) := by
  unfold announceIn
  with_reducible repeat' first
    | (extract_lets -underBinder +onlyGivenNames x; refine Touches.mp (t := x) ?_ ?bb; case' bb => clear_value x; revert x; refine Touches.keep ?_; intro _ _)
    | exact Touches.refl _ _
    | assumption
    | refine Touches.ite (fun _ => ?_) (fun _ => ?_)
    | refine (bump_touches ..).after (by decide) ?_
    | refine (bmca_touches ..).after (by decide) ?_
    | refine (ptpForward_touches ..).after (by decide) ?_
    | refine Touches.foldl (fun _ _ _ => ?_) ?_
    | ((conv => arg 3; arg 29); first | refine Touches.set rfl rfl rfl rfl rfl ?_)
    | extract_lets -underBinder
    | split
    | ((conv => arg 3; fail_if_success arg 1); refine Touches.set rfl rfl rfl rfl rfl ?_)
    | (conv => arg 3; dsimp -zeta -proj +zetaDelta only)

theorem execAnnounceReceive_answers (p : Fin 17) (m : AnnounceIn) (s : State) : Answers [.out, .reg, .irq, .log, .net, .tim, .cpu] s (execAnnounceReceive p m s) := by
  unfold execAnnounceReceive
  with_reducible repeat' first
    | refine Answers.next ?_
    | refine Answers.ite (fun _ => ?_) (fun _ => ?_)
    | exact Touches.refl _ _
    | assumption
    | refine Touches.ite (fun _ => ?_) (fun _ => ?_)
    | refine (announceIn_touches ..).after (by decide) ?_
    | refine Touches.foldl (fun _ _ _ => ?_) ?_
    | extract_lets -underBinder
    | split
    | (conv => arg 3; dsimp -zeta -proj +zetaDelta only)

theorem pdelayLost_touches (p : Nat) (s : State) : Touches [.out, .reg, .irq, .log, .tim, .cpu] s (pdelayLost p s) := by
  unfold pdelayLost
  with_reducible repeat' first
    | (extract_lets -underBinder +onlyGivenNames x; refine Touches.mp (t := x) ?_ ?bb; case' bb => clear_value x; revert x; refine Touches.keep ?_; intro _ _)
    | exact Touches.refl _ _
    | assumption
    | refine Touches.ite (fun _ => ?_) (fun _ => ?_)
    | refine (bump_touches ..).after (by decide) ?_
    | refine (setPtp_touches ..).after (by decide) ?_
    | refine (timeLineFailed_touches ..).after (by decide) ?_
    | refine Touches.foldl (fun _ _ _ => ?_) ?_
    | extract_lets -underBinder
    | split
    | (conv => arg 3; dsimp -zeta -proj +zetaDelta only)

theorem execPdelayRequestTimer_answers (p : Fin 17) (s : State) : Answers [.now, .up, .out, .reg, .irq, .log, .net, .tim, .cpu] s (execPdelayRequestTimer p s) := by
  unfold execPdelayRequestTimer
  with_reducible repeat' first
    | (extract_lets -underBinder +onlyGivenNames x; (first | refine Answers.mp (t := x) ?_ ?bb | refine Touches.mp (t := x) ?_ ?bb); case' bb => clear_value x; revert x; refine Touches.keep ?_; intro _ _)
    | refine Answers.next ?_
    | refine Answers.ite (fun _ => ?_) (fun _ => ?_)
    | exact Touches.refl _ _
    | assumption
    | refine Touches.ite (fun _ => ?_) (fun _ => ?_)
    | refine (passTo_touches ..).after (by decide) ?_
    | refine (setPtp_touches ..).after (by decide) ?_
    | refine (ptpSend_touches ..).after (by decide) ?_
    | refine (pdelayLost_touches ..).after (by decide) ?_
    | refine Touches.foldl (fun _ _ _ => ?_) ?_
    | extract_lets -underBinder
    | split
    | (conv => arg 3; dsimp -zeta -proj +zetaDelta only)

theorem execPdelayResponseReceive_answers (p : Fin 17) (delay : BitVec 32) (nrr : BitVec 32) (s : State) : Answers [.tim] s (execPdelayResponseReceive p delay nrr s) := by
  unfold execPdelayResponseReceive
  with_reducible repeat' first
    | (extract_lets -underBinder +onlyGivenNames x; (first | refine Answers.mp (t := x) ?_ ?bb | refine Touches.mp (t := x) ?_ ?bb); case' bb => clear_value x; revert x; refine Touches.keep ?_; intro _ _)
    | refine Answers.next ?_
    | refine Answers.ite (fun _ => ?_) (fun _ => ?_)
    | exact Touches.refl _ _
    | assumption
    | refine Touches.ite (fun _ => ?_) (fun _ => ?_)
    | refine (setPtp_touches ..).after (by decide) ?_
    | refine Touches.foldl (fun _ _ _ => ?_) ?_
    | extract_lets -underBinder
    | split
    | (conv => arg 3; dsimp -zeta -proj +zetaDelta only)

theorem execTimeLineFail_answers (s : State) : Answers [.now, .up, .out, .reg, .irq, .log, .tim, .cpu] s (execTimeLineFail s) := by
  unfold execTimeLineFail
  with_reducible repeat' first
    | (extract_lets -underBinder +onlyGivenNames x; (first | refine Answers.mp (t := x) ?_ ?bb | refine Touches.mp (t := x) ?_ ?bb); case' bb => clear_value x; revert x; refine Touches.keep ?_; intro _ _)
    | refine Answers.next ?_
    | refine Answers.ite (fun _ => ?_) (fun _ => ?_)
    | exact Touches.refl _ _
    | assumption
    | refine Touches.ite (fun _ => ?_) (fun _ => ?_)
    | refine (passTo_touches ..).after (by decide) ?_
    | refine (timeLineFailed_touches ..).after (by decide) ?_
    | refine (syncPortLost_touches ..).after (by decide) ?_
    | refine Touches.foldl (fun _ _ _ => ?_) ?_
    | extract_lets -underBinder
    | split
    | (conv => arg 3; dsimp -zeta -proj +zetaDelta only)

theorem execSyncLossHoldover_answers (gmLost : Bool) (s : State) : Answers [.now, .up, .out, .reg, .irq, .log, .tim, .cpu] s (execSyncLossHoldover gmLost s) := by
  unfold execSyncLossHoldover
  with_reducible repeat' first
    | (extract_lets -underBinder +onlyGivenNames x; (first | refine Answers.mp (t := x) ?_ ?bb | refine Touches.mp (t := x) ?_ ?bb); case' bb => clear_value x; revert x; refine Touches.keep ?_; intro _ _)
    | refine Answers.next ?_
    | refine Answers.ite (fun _ => ?_) (fun _ => ?_)
    | exact Touches.refl _ _
    | assumption
    | refine Touches.ite (fun _ => ?_) (fun _ => ?_)
    | refine (passTo_touches ..).after (by decide) ?_
    | refine (setPtp_touches ..).after (by decide) ?_
    | refine (enterHoldover_touches ..).after (by decide) ?_
    | refine (forgetLine_touches ..).after (by decide) ?_
    | refine (loseGm_touches ..).after (by decide) ?_
    | refine Touches.foldl (fun _ _ _ => ?_) ?_
    | extract_lets -underBinder
    | split
    | (conv => arg 3; dsimp -zeta -proj +zetaDelta only)

theorem suspectEnd_touches (s : State) : Touches [.now, .free, .out, .reg, .irq, .log, .net, .tim, .cpu] s (suspectEnd s) := by
  unfold suspectEnd
  with_reducible repeat' first
    | (extract_lets -underBinder +onlyGivenNames x; refine Touches.mp (t := x) ?_ ?bb; case' bb => clear_value x; revert x; refine Touches.keep ?_; intro _ _)
    | exact Touches.refl _ _
    | assumption
    | refine Touches.ite (fun _ => ?_) (fun _ => ?_)
    | refine (bump_touches ..).after (by decide) ?_
    | refine (setServo_touches ..).after (by decide) ?_
    | refine (stepTime_touches ..).after (by decide) ?_
    | refine (endFreeRun_touches ..).after (by decide) ?_
    | refine (lockSlewing_touches ..).after (by decide) ?_
    | refine Touches.foldl (fun _ _ _ => ?_) ?_
    | ((conv => arg 3; arg 29); first | refine Touches.set rfl rfl rfl rfl rfl ?_)
    | extract_lets -underBinder
    | split
    | ((conv => arg 3; fail_if_success arg 1); refine Touches.set rfl rfl rfl rfl rfl ?_)
    | (conv => arg 3; dsimp -zeta -proj +zetaDelta only)

theorem execHoldEstimateUpdate_answers (s : State) : Answers [.now, .up, .out, .reg, .irq, .log, .tim, .cpu] s (execHoldEstimateUpdate s) := by
  unfold execHoldEstimateUpdate
  with_reducible repeat' first
    | (extract_lets -underBinder +onlyGivenNames x; (first | refine Answers.mp (t := x) ?_ ?bb | refine Touches.mp (t := x) ?_ ?bb); case' bb => clear_value x; revert x; refine Touches.keep ?_; intro _ _)
    | refine Answers.next ?_
    | refine Answers.ite (fun _ => ?_) (fun _ => ?_)
    | exact Touches.refl _ _
    | assumption
    | refine Touches.ite (fun _ => ?_) (fun _ => ?_)
    | refine (toFrame_touches ..).after (by decide) ?_
    | refine (fire_touches ..).after (by decide) ?_
    | refine Touches.foldl (fun _ _ _ => ?_) ?_
    | ((conv => arg 3; arg 29); first | refine Touches.set rfl rfl rfl rfl rfl ?_)
    | extract_lets -underBinder
    | split
    | ((conv => arg 3; fail_if_success arg 1); refine Touches.set rfl rfl rfl rfl rfl ?_)
    | (conv => arg 3; dsimp -zeta -proj +zetaDelta only)

theorem execSlewDone_answers (s : State) : Answers [.now, .up, .out, .reg, .irq, .log, .tim, .cpu] s (execSlewDone s) := by
  unfold execSlewDone
  with_reducible repeat' first
    | refine Answers.next ?_
    | refine Answers.ite (fun _ => ?_) (fun _ => ?_)
    | exact Touches.refl _ _
    | assumption
    | refine Touches.ite (fun _ => ?_) (fun _ => ?_)
    | refine (passTo_touches ..).after (by decide) ?_
    | refine Touches.foldl (fun _ _ _ => ?_) ?_
    | ((conv => arg 3; arg 29); first | refine Touches.set rfl rfl rfl rfl rfl ?_)
    | extract_lets -underBinder
    | split
    | ((conv => arg 3; fail_if_success arg 1); refine Touches.set rfl rfl rfl rfl rfl ?_)
    | (conv => arg 3; dsimp -zeta -proj +zetaDelta only)

theorem execReelWrap_answers (s : State) : Answers [.now, .up, .out, .reg, .irq, .log, .cpu] s (execReelWrap s) := by
  unfold execReelWrap
  with_reducible repeat' first
    | refine Answers.next ?_
    | refine Answers.ite (fun _ => ?_) (fun _ => ?_)
    | exact Touches.refl _ _
    | assumption
    | refine Touches.ite (fun _ => ?_) (fun _ => ?_)
    | refine (passToInstant_touches ..).after (by decide) ?_
    | refine Touches.foldl (fun _ _ _ => ?_) ?_
    | extract_lets -underBinder
    | split
    | (conv => arg 3; dsimp -zeta -proj +zetaDelta only)

theorem execPulseEdge_answers (k : Fin 4) (s : State) : Answers [.now, .up, .out, .reg, .irq, .log, .tim, .cpu] s (execPulseEdge k s) := by
  unfold execPulseEdge
  with_reducible repeat' first
    | (extract_lets -underBinder +onlyGivenNames x; (first | refine Answers.mp (t := x) ?_ ?bb | refine Touches.mp (t := x) ?_ ?bb); case' bb => clear_value x; revert x; refine Touches.keep ?_; intro _ _)
    | refine Answers.next ?_
    | refine Answers.ite (fun _ => ?_) (fun _ => ?_)
    | exact Touches.refl _ _
    | assumption
    | refine Touches.ite (fun _ => ?_) (fun _ => ?_)
    | refine (emit_touches ..).after (by decide) ?_
    | refine (bump_touches ..).after (by decide) ?_
    | refine (passToInstant_touches ..).after (by decide) ?_
    | refine (setPps_touches ..).after (by decide) ?_
    | refine Touches.foldl (fun _ _ _ => ?_) ?_
    | extract_lets -underBinder
    | split
    | (conv => arg 3; dsimp -zeta -proj +zetaDelta only)

theorem mem_tset {α : Type} {l : Tab α} {k : Nat} {x : α} {e : Nat × α} (h : e ∈ tset l k x) : e ∈ l ∨ e = (k, x) := by
  induction l with
  | nil => simp [tset] at h; exact .inr h
  | cons c r ih =>
    obtain ⟨a, y⟩ := c
    simp only [tset] at h
    split at h
    · rcases List.mem_cons.mp h with h | h
      · exact .inr h
      · exact .inl h
    · split at h
      · rcases List.mem_cons.mp h with h | h
        · exact .inr h
        · exact .inl (List.mem_cons_of_mem _ h)
      · rcases List.mem_cons.mp h with h | h
        · exact .inl (h ▸ List.mem_cons_self ..)
        · exact (ih h).imp_left (List.mem_cons_of_mem _)

/-- A value of a table is its default or one of its entries'. -/
theorem tget_mem {α : Type} {l : Tab α} {k : Nat} {d : α} : tget l k d = d ∨ (k, tget l k d) ∈ l := by
  induction l with
  | nil => exact .inl rfl
  | cons c r ih =>
    obtain ⟨a, y⟩ := c
    simp only [tget]
    split
    · next h => subst h; exact .inr (List.mem_cons_self ..)
    · exact ih.imp_right (List.mem_cons_of_mem _)

theorem capSt_bound {s : State} {k : Nat} (h : ∀ e ∈ s.tim.caps, e.2.fifo.length ≤ 16) : (capSt s k).fifo.length ≤ 16 := by
  unfold capSt
  rcases tget_mem (l := s.tim.caps) (k := k) (d := {}) with e | m
  · rw [e]; exact Nat.zero_le _
  · exact h _ m

/-- A capture input takes a new state whose FIFO is within its bound if the old one was. -/
theorem setCap_touches {k : Nat} {x : CapSt} {s : State} (hx : (capSt s k).fifo.length ≤ 16 → x.fifo.length ≤ 16) :
    Touches [.tim] s (setCap k x s) := by
  unfold setCap
  refine Touches.set rfl rfl rfl rfl rfl (Touches.refl _ s) (captures := ?_)
  intro h e he
  rcases mem_tset he with he | rfl
  · exact h e he
  · exact hx (capSt_bound h)

theorem execCaptureEdge_answers (k : Fin 4) (rising : Bool) (s : State) : Answers [.out, .reg, .irq, .tim, .cpu] s (execCaptureEdge k rising s) := by
  unfold execCaptureEdge
  refine Answers.ite (fun _ => .next (Touches.refl _ s)) (fun _ => Answers.ite (fun _ => ?_) (fun hn => ?_))
  · refine .next ((bump_touches ..).after (by decide) ?_)
    refine Touches.wider (setCap_touches (fun h => h)) ?_
    decide
  · simp only [Bool.or_eq_true, decide_eq_true_eq, not_or, Nat.not_le] at hn
    have hs : Touches [.out, .reg, .irq, .tim, .cpu] s (setCap k.val { capSt s k.val with
        fifo := (capSt s k.val).fifo ++ [(rising, timeNs s)], lastEdge := some s.up } s) :=
      (setCap_touches (fun _ => by simp only [List.length_append, List.length_singleton]; omega)).wider (by decide)
    refine .next (Touches.ite (fun _ => ?_) (fun _ => ?_))
    · exact (raiseIrq_touches ..).after (by decide) ((bump_touches ..).after (by decide) hs)
    · exact (bump_touches ..).after (by decide) hs

theorem execCapTsRead_answers (who : Requester) (k : Fin 4) (s : State) : Answers [.out, .reg, .tim] s (execCapTsRead who k s) := by
  unfold execCapTsRead
  dsimp only
  split
  · exact .next ((turnedAway_touches ..).wider (by decide))
  split
  · exact .next ((bump_touches ..).after (by decide) ((emit_touches ..).wider (by decide)))
  · exact .next ((emit_touches ..).after (by decide)
      ((setCap_touches (fun h => by simp only [List.length_tail]; omega)).wider (by decide)))

end Sys2Proof.Machine
end

