-- ==== Sys2Proof/Laws/Takes.lean ====
section
/-!
SUPPORT. Laws/Takes.lean: the frame of every operation of Machine/Takes.lean: which parts of the state it may change, and that it keeps the bounds.
-/
namespace Sys2Proof.Machine

set_option Elab.async false
set_option linter.all false

theorem verifyAgain_touches (frag p : Nat) (s : State) : Touches [.out, .net] s (verifyAgain frag p s) := by
  unfold verifyAgain
  with_reducible repeat' first
    | (extract_lets -underBinder +onlyGivenNames x; refine Touches.mp (t := x) ?_ ?bb; case' bb => clear_value x; revert x; refine Touches.keep ?_; intro _ _)
    | exact Touches.refl _ _
    | assumption
    | refine Touches.ite (fun _ => ?_) (fun _ => ?_)
    | refine (setSched_touches ..).after (by decide) ?_
    | refine (verifyStart_touches ..).after (by decide) ?_
    | refine Touches.foldl (fun _ _ _ => ?_) ?_
    | extract_lets -underBinder
    | split
    | (conv => arg 3; dsimp -zeta -proj +zetaDelta only)

theorem portApply_touches (old : State) (keys : List Nat) (s : State) (p : Nat) : Touches [.free, .out, .node, .reg, .irq, .log, .wak, .bb, .net, .ina, .tim, .spl, .cpu] s (portApply old keys s p) := by
  unfold portApply
  with_reducible repeat' first
    | (extract_lets -underBinder +onlyGivenNames x; refine Touches.mp (t := x) ?_ ?bb; case' bb => clear_value x; revert x; refine Touches.keep ?_; intro _ _)
    | exact Touches.refl _ _
    | assumption
    | refine Touches.ite (fun _ => ?_) (fun _ => ?_)
    | refine (setMac_touches ..).after (by decide) ?_
    | refine (setSched_touches ..).after (by decide) ?_
    | refine (verifyStart_touches ..).after (by decide) ?_
    | refine (flowApply_touches ..).after (by decide) ?_
    | refine (macEnables_touches ..).after (by decide) ?_
    | refine (schedStage_touches ..).after (by decide) ?_
    | refine (portEnableApply_touches ..).after (by decide) ?_
    | refine (linkParams_touches ..).after (by decide) ?_
    | refine (verifyAgain_touches ..).after (by decide) ?_
    | refine Touches.foldl (fun _ _ _ => ?_) ?_
    | extract_lets -underBinder
    | split
    | (conv => arg 3; dsimp -zeta -proj +zetaDelta only)

theorem resumeDrained_touches (s : State) : Touches [.net, .spl, .pdb] s (resumeDrained s) := by
  unfold resumeDrained
  with_reducible repeat' first
    | (extract_lets -underBinder +onlyGivenNames x; refine Touches.mp (t := x) ?_ ?bb; case' bb => clear_value x; revert x; refine Touches.keep ?_; intro _ _)
    | exact Touches.refl _ _
    | assumption
    | refine Touches.ite (fun _ => ?_) (fun _ => ?_)
    | refine Touches.foldl (fun _ _ _ => ?_) ?_
    | ((conv => arg 3; arg 29); first | refine Touches.net_set (by decide) ?_ | refine Touches.pdb_set (by decide) ?_ | refine Touches.set rfl rfl rfl rfl rfl ?_)
    | extract_lets -underBinder
    | split
    | ((conv => arg 3; fail_if_success arg 1); refine Touches.set rfl rfl rfl rfl rfl ?_)
    | (conv => arg 3; dsimp -zeta -proj +zetaDelta only)

theorem trainLinesApply_touches (old : State) (keys : List Nat) (s : State) : Touches [.tln] s (trainLinesApply old keys s) := by
  unfold trainLinesApply
  with_reducible repeat' first
    | (extract_lets -underBinder +onlyGivenNames x; refine Touches.mp (t := x) ?_ ?bb; case' bb => clear_value x; revert x; refine Touches.keep ?_; intro _ _)
    | exact Touches.refl _ _
    | assumption
    | refine Touches.ite (fun _ => ?_) (fun _ => ?_)
    | refine (setOut_touches ..).after (by decide) ?_
    | refine (followOne_touches ..).after (by decide) ?_
    | refine (noteDriven_touches ..).after (by decide) ?_
    | refine (inputApply_touches ..).after (by decide) ?_
    | refine Touches.foldl (fun _ _ _ => ?_) ?_
    | ((conv => arg 3; arg 29); first | refine Touches.set rfl rfl rfl rfl rfl ?_)
    | extract_lets -underBinder
    | split
    | ((conv => arg 3; fail_if_success arg 1); refine Touches.set rfl rfl rfl rfl rfl ?_)
    | (conv => arg 3; dsimp -zeta -proj +zetaDelta only)

theorem timeHooks_touches (old : State) (keys : List Nat) (s : State) : Touches [.out, .reg, .irq, .log, .tim, .cpu] s (timeHooks old keys s) := by
  unfold timeHooks
  with_reducible repeat' first
    | (extract_lets -underBinder +onlyGivenNames x; refine Touches.mp (t := x) ?_ ?bb; case' bb => clear_value x; revert x; refine Touches.keep ?_; intro _ _)
    | exact Touches.refl _ _
    | assumption
    | refine Touches.ite (fun _ => ?_) (fun _ => ?_)
    | refine (ppsApply_touches ..).after (by decide) ?_
    | refine (gmCapableApply_touches ..).after (by decide) ?_
    | refine (refApply_touches ..).after (by decide) ?_
    | refine (servoApply_touches ..).after (by decide) ?_
    | refine Touches.foldl (fun _ _ _ => ?_) ?_
    | extract_lets -underBinder
    | split
    | (conv => arg 3; dsimp -zeta -proj +zetaDelta only)

theorem powerHooks_touches (old : State) (keys : List Nat) (s : State) : Touches [.free, .out, .node, .reg, .irq, .pwr, .log, .od, .tak, .wak, .tln, .bb, .net, .ina, .tim, .spl, .chk, .pdb, .cpu] s (powerHooks old keys s) := by
  unfold powerHooks
  with_reducible repeat' first
    | (extract_lets -underBinder +onlyGivenNames x; refine Touches.mp (t := x) ?_ ?bb; case' bb => clear_value x; revert x; refine Touches.keep ?_; intro _ _)
    | exact Touches.refl _ _
    | assumption
    | refine Touches.ite (fun _ => ?_) (fun _ => ?_)
    | refine (forceBypassApply_touches ..).after (by decide) ?_
    | refine (domEnablesApply_touches ..).after (by decide) ?_
    | refine (planeOutApply_touches ..).after (by decide) ?_
    | refine (loopsApply_touches ..).after (by decide) ?_
    | refine (cpuEnableApply_touches ..).after (by decide) ?_
    | refine (secApply_touches ..).after (by decide) ?_
    | refine Touches.foldl (fun _ _ _ => ?_) ?_
    | extract_lets -underBinder
    | split
    | (conv => arg 3; dsimp -zeta -proj +zetaDelta only)

theorem applyHooks_touches (old : State) (keys : List Nat) (s : State) : Touches [.free, .out, .node, .reg, .irq, .pwr, .log, .od, .tak, .wak, .tln, .bb, .net, .ina, .tim, .spl, .chk, .pdb, .cpu] s (applyHooks old keys s) := by
  unfold applyHooks
  with_reducible repeat' first
    | (extract_lets -underBinder +onlyGivenNames x; refine Touches.mp (t := x) ?_ ?bb; case' bb => clear_value x; revert x; refine Touches.keep ?_; intro _ _)
    | exact Touches.refl _ _
    | assumption
    | refine Touches.ite (fun _ => ?_) (fun _ => ?_)
    | refine (recordChanged_touches ..).after (by decide) ?_
    | refine (linkParamsApply_touches ..).after (by decide) ?_
    | refine (pdbConfigApply_touches ..).after (by decide) ?_
    | refine (ttdpApply_touches ..).after (by decide) ?_
    | refine (idleApply_touches ..).after (by decide) ?_
    | refine (portApply_touches ..).after (by decide) ?_
    | refine (resumeDrained_touches ..).after (by decide) ?_
    | refine (trainLinesApply_touches ..).after (by decide) ?_
    | refine (timeHooks_touches ..).after (by decide) ?_
    | refine (powerHooks_touches ..).after (by decide) ?_
    | refine Touches.foldl (fun _ _ _ => ?_) ?_
    | extract_lets -underBinder
    | split
    | (conv => arg 3; dsimp -zeta -proj +zetaDelta only)

theorem applyMember_touches (s : State) (e : Nat × Val) : Touches [.od, .wak, .tln, .ina] s (applyMember s e) := by
  unfold applyMember
  with_reducible repeat' first
    | exact Touches.refl _ _
    | assumption
    | refine Touches.ite (fun _ => ?_) (fun _ => ?_)
    | refine (applyOne_touches ..).after (by decide) ?_
    | refine Touches.foldl (fun _ _ _ => ?_) ?_
    | ((conv => arg 3; arg 29); first | refine Touches.od_set (by decide) ?_ | refine Touches.set rfl rfl rfl rfl rfl ?_)
    | extract_lets -underBinder
    | split
    | ((conv => arg 3; fail_if_success arg 1); refine Touches.set rfl rfl rfl rfl rfl ?_)
    | (conv => arg 3; dsimp -zeta -proj +zetaDelta only)

theorem applyStaged_touches (l : Tab Val) (s : State) : Touches [.free, .out, .node, .reg, .irq, .pwr, .log, .od, .tak, .wak, .tln, .bb, .net, .ina, .tim, .spl, .chk, .pdb, .cpu] s (applyStaged l s) := by
  unfold applyStaged
  with_reducible repeat' first
    | exact Touches.refl _ _
    | assumption
    | refine Touches.ite (fun _ => ?_) (fun _ => ?_)
    | refine (applyHooks_touches ..).after (by decide) ?_
    | refine (applyMember_touches ..).after (by decide) ?_
    | refine Touches.foldl (fun _ _ _ => ?_) ?_
    | extract_lets -underBinder
    | split
    | (conv => arg 3; dsimp -zeta -proj +zetaDelta only)

theorem applyUser_touches (result : Nat) (s : State) : Touches [.free, .out, .node, .reg, .irq, .pwr, .log, .od, .tak, .wak, .tln, .bb, .net, .ina, .tim, .spl, .chk, .pdb, .cpu] s (applyUser result s) := by
  unfold applyUser
  with_reducible repeat' first
    | (extract_lets -underBinder +onlyGivenNames x; refine Touches.mp (t := x) ?_ ?bb; case' bb => clear_value x; revert x; refine Touches.keep ?_; intro _ _)
    | exact Touches.refl _ _
    | assumption
    | refine Touches.ite (fun _ => ?_) (fun _ => ?_)
    | refine (bump_touches ..).after (by decide) ?_
    | refine (raiseIrq_touches ..).after (by decide) ?_
    | refine (fire_touches ..).after (by decide) ?_
    | refine (answerWaiting_touches ..).after (by decide) ?_
    | refine (applyStaged_touches ..).after (by decide) ?_
    | refine Touches.foldl (fun _ _ _ => ?_) ?_
    | ((conv => arg 3; arg 29); first | refine Touches.tak_set (by decide) ?_ | refine Touches.set rfl rfl rfl rfl rfl ?_)
    | extract_lets -underBinder
    | split
    | ((conv => arg 3; fail_if_success arg 1); refine Touches.set rfl rfl rfl rfl rfl ?_)
    | (conv => arg 3; dsimp -zeta -proj +zetaDelta only)

theorem userDue_touches (t : Instant) (s : State) : Touches [.free, .out, .node, .reg, .irq, .pwr, .log, .od, .tak, .wak, .tln, .bb, .net, .ina, .tim, .spl, .chk, .pdb, .cpu] s (userDue t s) := by
  unfold userDue
  with_reducible repeat' first
    | exact Touches.refl _ _
    | assumption
    | refine Touches.ite (fun _ => ?_) (fun _ => ?_)
    | refine (applyUser_touches ..).after (by decide) ?_
    | refine Touches.foldl (fun _ _ _ => ?_) ?_
    | extract_lets -underBinder
    | split
    | (conv => arg 3; dsimp -zeta -proj +zetaDelta only)

theorem execTakeApply_answers (s : State) : Answers [.now, .up, .free, .out, .node, .reg, .irq, .pwr, .log, .od, .tak, .wak, .tln, .bb, .net, .ina, .tim, .spl, .chk, .pdb, .cpu] s (execTakeApply s) := by
  unfold execTakeApply
  with_reducible repeat' first
    | refine Answers.next ?_
    | refine Answers.ite (fun _ => ?_) (fun _ => ?_)
    | exact Touches.refl _ _
    | assumption
    | refine Touches.ite (fun _ => ?_) (fun _ => ?_)
    | refine (passToInstant_touches ..).after (by decide) ?_
    | refine (applyUser_touches ..).after (by decide) ?_
    | refine Touches.foldl (fun _ _ _ => ?_) ?_
    | extract_lets -underBinder
    | split
    | (conv => arg 3; dsimp -zeta -proj +zetaDelta only)

theorem switchDue_touches (s : State) (p : Nat) : Touches [.out, .reg, .irq, .net, .cpu] s (switchDue s p) := by
  unfold switchDue
  with_reducible repeat' first
    | exact Touches.refl _ _
    | assumption
    | refine Touches.ite (fun _ => ?_) (fun _ => ?_)
    | refine (scheduleSwitch_touches ..).after (by decide) ?_
    | refine Touches.foldl (fun _ _ _ => ?_) ?_
    | extract_lets -underBinder
    | split
    | (conv => arg 3; dsimp -zeta -proj +zetaDelta only)

theorem stepDues_touches (before s : State) : Touches [.now, .up, .free, .out, .node, .reg, .irq, .pwr, .hpl, .log, .od, .tak, .wak, .tln, .bb, .net, .ina, .tim, .spl, .chk, .pdb, .cpu] s (stepDues before s) := by
  unfold stepDues
  with_reducible repeat' first
    | (extract_lets -underBinder +onlyGivenNames x; refine Touches.mp (t := x) ?_ ?bb; case' bb => clear_value x; revert x; refine Touches.keep ?_; intro _ _)
    | exact Touches.refl _ _
    | assumption
    | refine Touches.ite (fun _ => ?_) (fun _ => ?_)
    | refine (applySheet_touches ..).after (by decide) ?_
    | refine (duskInstant_touches ..).after (by decide) ?_
    | refine (userDue_touches ..).after (by decide) ?_
    | refine (switchDue_touches ..).after (by decide) ?_
    | refine Touches.foldl (fun _ _ _ => ?_) ?_
    | extract_lets -underBinder
    | split
    | (conv => arg 3; dsimp -zeta -proj +zetaDelta only)

theorem execSyncReceive_answers (p : Fin 17) (m : SyncIn) (s : State) : Answers [.now, .up, .free, .out, .node, .reg, .irq, .pwr, .hpl, .log, .od, .tak, .wak, .tln, .bb, .net, .ina, .tim, .spl, .chk, .pdb, .cpu] s (execSyncReceive p m s) := by
  unfold execSyncReceive
  with_reducible repeat' first
    | refine Answers.next ?_
    | refine Answers.ite (fun _ => ?_) (fun _ => ?_)
    | exact Touches.refl _ _
    | assumption
    | refine Touches.ite (fun _ => ?_) (fun _ => ?_)
    | refine (syncIn_touches ..).after (by decide) ?_
    | refine (stepDues_touches ..).after (by decide) ?_
    | refine Touches.foldl (fun _ _ _ => ?_) ?_
    | extract_lets -underBinder
    | split
    | (conv => arg 3; dsimp -zeta -proj +zetaDelta only)

theorem execStepSuspectExpiry_answers (s : State) : Answers [.now, .up, .free, .out, .node, .reg, .irq, .pwr, .hpl, .log, .od, .tak, .wak, .tln, .bb, .net, .ina, .tim, .spl, .chk, .pdb, .cpu] s (execStepSuspectExpiry s) := by
  unfold execStepSuspectExpiry
  with_reducible repeat' first
    | (extract_lets -underBinder +onlyGivenNames x; (first | refine Answers.mp (t := x) ?_ ?bb | refine Touches.mp (t := x) ?_ ?bb); case' bb => clear_value x; revert x; refine Touches.keep ?_; intro _ _)
    | refine Answers.next ?_
    | refine Answers.ite (fun _ => ?_) (fun _ => ?_)
    | exact Touches.refl _ _
    | assumption
    | refine Touches.ite (fun _ => ?_) (fun _ => ?_)
    | refine (passTo_touches ..).after (by decide) ?_
    | refine (suspectEnd_touches ..).after (by decide) ?_
    | refine (stepDues_touches ..).after (by decide) ?_
    | refine Touches.foldl (fun _ _ _ => ?_) ?_
    | extract_lets -underBinder
    | split
    | (conv => arg 3; dsimp -zeta -proj +zetaDelta only)

theorem execCallSheetActivation_answers (s : State) : Answers [.now, .up, .free, .out, .node, .reg, .irq, .pwr, .hpl, .log, .od, .tak, .wak, .tln, .bb, .net, .ina, .tim, .spl, .chk, .pdb, .cpu] s (execCallSheetActivation s) := by
  unfold execCallSheetActivation
  with_reducible repeat' first
    | (extract_lets -underBinder +onlyGivenNames x; (first | refine Answers.mp (t := x) ?_ ?bb | refine Touches.mp (t := x) ?_ ?bb); case' bb => clear_value x; revert x; refine Touches.keep ?_; intro _ _)
    | refine Answers.next ?_
    | refine Answers.ite (fun _ => ?_) (fun _ => ?_)
    | exact Touches.refl _ _
    | assumption
    | refine Touches.ite (fun _ => ?_) (fun _ => ?_)
    | refine (passToInstant_touches ..).after (by decide) ?_
    | refine (applySheet_touches ..).after (by decide) ?_
    | refine (userDue_touches ..).after (by decide) ?_
    | refine Touches.foldl (fun _ _ _ => ?_) ?_
    | extract_lets -underBinder
    | split
    | (conv => arg 3; dsimp -zeta -proj +zetaDelta only)

theorem execDuskInstant_answers (s : State) : Answers [.now, .up, .free, .out, .node, .reg, .irq, .pwr, .log, .od, .tak, .wak, .tln, .bb, .net, .ina, .tim, .spl, .chk, .pdb, .cpu] s (execDuskInstant s) := by
  unfold execDuskInstant
  with_reducible repeat' first
    | (extract_lets -underBinder +onlyGivenNames x; (first | refine Answers.mp (t := x) ?_ ?bb | refine Touches.mp (t := x) ?_ ?bb); case' bb => clear_value x; revert x; refine Touches.keep ?_; intro _ _)
    | refine Answers.next ?_
    | refine Answers.ite (fun _ => ?_) (fun _ => ?_)
    | exact Touches.refl _ _
    | assumption
    | refine Touches.ite (fun _ => ?_) (fun _ => ?_)
    | refine (passToInstant_touches ..).after (by decide) ?_
    | refine (releaseSecond_touches ..).after (by decide) ?_
    | refine (duskInstant_touches ..).after (by decide) ?_
    | refine (userDue_touches ..).after (by decide) ?_
    | refine Touches.foldl (fun _ _ _ => ?_) ?_
    | extract_lets -underBinder
    | split
    | (conv => arg 3; dsimp -zeta -proj +zetaDelta only)

theorem prepareSend_touches (u : Uid) (share : List Byte) (m : TakeMsg) (s : State) : Touches [.free, .out, .reg, .irq, .net, .spl, .cpu] s (prepareSend u share m s) := by
  unfold prepareSend
  with_reducible repeat' first
    | (extract_lets -underBinder +onlyGivenNames x; refine Touches.mp (t := x) ?_ ?bb; case' bb => clear_value x; revert x; refine Touches.keep ?_; intro _ _)
    | exact Touches.refl _ _
    | assumption
    | refine Touches.ite (fun _ => ?_) (fun _ => ?_)
    | refine (takeTo_touches ..).after (by decide) ?_
    | refine Touches.foldl (fun _ _ _ => ?_) ?_
    | extract_lets -underBinder
    | split
    | (conv => arg 3; dsimp -zeta -proj +zetaDelta only)

theorem userPrintIfAll_touches (s : State) : Touches [.free, .out, .reg, .irq, .od, .tak, .net, .spl, .pdb, .cpu] s (userPrintIfAll s) := by
  unfold userPrintIfAll
  with_reducible repeat' first
    | (extract_lets -underBinder +onlyGivenNames x; refine Touches.mp (t := x) ?_ ?bb; case' bb => clear_value x; revert x; refine Touches.keep ?_; intro _ _)
    | exact Touches.refl _ _
    | assumption
    | refine Touches.ite (fun _ => ?_) (fun _ => ?_)
    | refine (answerWaiting_touches ..).after (by decide) ?_
    | refine (takeGroup_touches ..).after (by decide) ?_
    | refine (keepOutcome_touches ..).after (by decide) ?_
    | refine Touches.foldl (fun _ _ _ => ?_) ?_
    | ((conv => arg 3; arg 29); first | refine Touches.tak_set (by decide) ?_ | refine Touches.set rfl rfl rfl rfl rfl ?_)
    | extract_lets -underBinder
    | split
    | ((conv => arg 3; fail_if_success arg 1); refine Touches.set rfl rfl rfl rfl rfl ?_)
    | (conv => arg 3; dsimp -zeta -proj +zetaDelta only)

theorem ownVote_touches (share : List Byte) (s : State) : Touches [.free, .out, .reg, .irq, .od, .tak, .net, .spl, .pdb, .cpu] s (ownVote share s) := by
  unfold ownVote
  with_reducible repeat' first
    | (extract_lets -underBinder +onlyGivenNames x; refine Touches.mp (t := x) ?_ ?bb; case' bb => clear_value x; revert x; refine Touches.keep ?_; intro _ _)
    | exact Touches.refl _ _
    | assumption
    | refine Touches.ite (fun _ => ?_) (fun _ => ?_)
    | refine (coordScrap_touches ..).after (by decide) ?_
    | refine (userPrintIfAll_touches ..).after (by decide) ?_
    | refine Touches.foldl (fun _ _ _ => ?_) ?_
    | ((conv => arg 3; arg 29); first | refine Touches.tak_set (by decide) ?_ | refine Touches.set rfl rfl rfl rfl rfl ?_)
    | extract_lets -underBinder
    | split
    | ((conv => arg 3; fail_if_success arg 1); refine Touches.set rfl rfl rfl rfl rfl ?_)
    | (conv => arg 3; dsimp -zeta -proj +zetaDelta only)

theorem startTrainWide_touches (instant voteBy : Instant) (l : List TwEntry) (s : State) : Touches [.free, .out, .reg, .irq, .od, .tak, .net, .spl, .pdb, .cpu] s (startTrainWide instant voteBy l s) := by
  unfold startTrainWide
  with_reducible repeat' first
    | (extract_lets -underBinder +onlyGivenNames x; refine Touches.mp (t := x) ?_ ?bb; case' bb => clear_value x; revert x; refine Touches.keep ?_; intro _ _)
    | exact Touches.refl _ _
    | assumption
    | refine Touches.ite (fun _ => ?_) (fun _ => ?_)
    | refine (prepareSend_touches ..).after (by decide) ?_
    | refine (ownVote_touches ..).after (by decide) ?_
    | refine Touches.foldl (fun _ _ _ => ?_) ?_
    | ((conv => arg 3; arg 29); first | refine Touches.tak_set (by decide) ?_ | refine Touches.set rfl rfl rfl rfl rfl ?_)
    | extract_lets -underBinder
    | split
    | ((conv => arg 3; fail_if_success arg 1); refine Touches.set rfl rfl rfl rfl rfl ?_)
    | (conv => arg 3; dsimp -zeta -proj +zetaDelta only)

/-- The state that a PRINT leaves. -/
def Printed.left : Printed → State
  | .refused _ _ _ s => s
  | .done s => s
  | .waits s => s

theorem printOpen_touches (inst : Option Nat) (s : State) : Touches [.free, .out, .reg, .irq, .od, .tak, .net, .spl, .pdb, .cpu] s (printOpen inst s).left := by
  unfold printOpen
  dsimp only
  repeat' split
  all_goals first
    | exact Touches.refl _ s
    | exact (bump_touches ..).wider (by decide)
    | exact (startTrainWide_touches ..).wider (by decide)
    | exact Touches.tak_set (by decide) (Touches.refl _ s)

theorem userVote_touches (m : TakeMsg) (reason idx sub : Nat) (s : State) : Touches [.free, .out, .reg, .irq, .tak, .net, .spl, .cpu] s (userVote m reason idx sub s) := by
  unfold userVote
  with_reducible repeat' first
    | (extract_lets -underBinder +onlyGivenNames x; refine Touches.mp (t := x) ?_ ?bb; case' bb => clear_value x; revert x; refine Touches.keep ?_; intro _ _)
    | exact Touches.refl _ _
    | assumption
    | refine Touches.ite (fun _ => ?_) (fun _ => ?_)
    | refine (takeTo_touches ..).after (by decide) ?_
    | refine (firstSeen_touches ..).after (by decide) ?_
    | refine (Touches.ofPair ‹firstSeen _ _ _ = _› (firstSeen_touches ..)).after (by decide) ?_
    | refine Touches.foldl (fun _ _ _ => ?_) ?_
    | ((conv => arg 3; arg 29); first | refine Touches.tak_set (by decide) ?_ | refine Touches.set rfl rfl rfl rfl rfl ?_)
    | extract_lets -underBinder
    | split
    | ((conv => arg 3; fail_if_success arg 1); refine Touches.set rfl rfl rfl rfl rfl ?_)
    | (conv => arg 3; dsimp -zeta -proj +zetaDelta only)

theorem voteShare_touches (m : TakeMsg) (share : List Byte) (s : State) : Touches [.free, .out, .reg, .irq, .tak, .net, .spl, .cpu] s (voteShare m share s) := by
  unfold voteShare
  with_reducible repeat' first
    | exact Touches.refl _ _
    | assumption
    | refine Touches.ite (fun _ => ?_) (fun _ => ?_)
    | refine (userVote_touches ..).after (by decide) ?_
    | refine Touches.foldl (fun _ _ _ => ?_) ?_
    | ((conv => arg 3; arg 29); first | refine Touches.tak_set (by decide) ?_ | refine Touches.set rfl rfl rfl rfl rfl ?_)
    | extract_lets -underBinder
    | split
    | ((conv => arg 3; fail_if_success arg 1); refine Touches.set rfl rfl rfl rfl rfl ?_)
    | (conv => arg 3; dsimp -zeta -proj +zetaDelta only)

theorem userPrepareIn_touches (src : Uid) (m : TakeMsg) (s : State) : Touches [.free, .out, .reg, .irq, .tak, .net, .spl, .cpu] s (userPrepareIn src m s) := by
  unfold userPrepareIn
  with_reducible repeat' first
    | (extract_lets -underBinder +onlyGivenNames x; refine Touches.mp (t := x) ?_ ?bb; case' bb => clear_value x; revert x; refine Touches.keep ?_; intro _ _)
    | exact Touches.refl _ _
    | assumption
    | refine Touches.ite (fun _ => ?_) (fun _ => ?_)
    | refine (userVote_touches ..).after (by decide) ?_
    | refine (voteShare_touches ..).after (by decide) ?_
    | refine Touches.foldl (fun _ _ _ => ?_) ?_
    | ((conv => arg 3; arg 29); first | refine Touches.tak_set (by decide) ?_ | refine Touches.set rfl rfl rfl rfl rfl ?_)
    | extract_lets -underBinder
    | split
    | ((conv => arg 3; fail_if_success arg 1); refine Touches.set rfl rfl rfl rfl rfl ?_)
    | (conv => arg 3; dsimp -zeta -proj +zetaDelta only)

theorem duskPrepareIn_touches (m : TakeMsg) (s : State) : Touches [.free, .out, .reg, .irq, .od, .tak, .net, .spl, .pdb, .cpu] s (duskPrepareIn m s) := by
  unfold duskPrepareIn
  with_reducible repeat' first
    | (extract_lets -underBinder +onlyGivenNames x; refine Touches.mp (t := x) ?_ ?bb; case' bb => clear_value x; revert x; refine Touches.keep ?_; intro _ _)
    | exact Touches.refl _ _
    | assumption
    | refine Touches.ite (fun _ => ?_) (fun _ => ?_)
    | refine (takeTo_touches ..).after (by decide) ?_
    | refine (sysPrepareHits_touches ..).after (by decide) ?_
    | refine Touches.foldl (fun _ _ _ => ?_) ?_
    | ((conv => arg 3; arg 29); first | refine Touches.tak_set (by decide) ?_ | refine Touches.set rfl rfl rfl rfl rfl ?_)
    | extract_lets -underBinder
    | split
    | ((conv => arg 3; fail_if_success arg 1); refine Touches.set rfl rfl rfl rfl rfl ?_)
    | (conv => arg 3; dsimp -zeta -proj +zetaDelta only)

theorem prepareIn_touches (src : Uid) (m : TakeMsg) (s : State) : Touches [.free, .out, .reg, .irq, .od, .tak, .net, .ina, .spl, .pdb, .cpu] s (prepareIn src m s) := by
  unfold prepareIn
  with_reducible repeat' first
    | (extract_lets -underBinder +onlyGivenNames x; refine Touches.mp (t := x) ?_ ?bb; case' bb => clear_value x; revert x; refine Touches.keep ?_; intro _ _)
    | exact Touches.refl _ _
    | assumption
    | refine Touches.ite (fun _ => ?_) (fun _ => ?_)
    | refine (firstSeen_touches ..).after (by decide) ?_
    | refine (Touches.ofPair ‹firstSeen _ _ _ = _› (firstSeen_touches ..)).after (by decide) ?_
    | refine (inaVote_touches ..).after (by decide) ?_
    | refine (userPrepareIn_touches ..).after (by decide) ?_
    | refine (duskPrepareIn_touches ..).after (by decide) ?_
    | refine Touches.foldl (fun _ _ _ => ?_) ?_
    | extract_lets -underBinder
    | split
    | (conv => arg 3; dsimp -zeta -proj +zetaDelta only)

theorem execTakePrepareReceive_answers (src : Uid) (m : TakeMsg) (s : State) : Answers [.free, .out, .reg, .irq, .od, .tak, .net, .ina, .spl, .pdb, .cpu] s (execTakePrepareReceive src m s) := by
  unfold execTakePrepareReceive
  with_reducible repeat' first
    | refine Answers.next ?_
    | refine Answers.ite (fun _ => ?_) (fun _ => ?_)
    | exact Touches.refl _ _
    | assumption
    | refine Touches.ite (fun _ => ?_) (fun _ => ?_)
    | refine (prepareIn_touches ..).after (by decide) ?_
    | refine Touches.foldl (fun _ _ _ => ?_) ?_
    | extract_lets -underBinder
    | split
    | (conv => arg 3; dsimp -zeta -proj +zetaDelta only)

theorem printIn_touches (m : TakeMsg) (s : State) : Touches [.free, .out, .node, .reg, .irq, .pwr, .log, .od, .tak, .wak, .tln, .bb, .net, .ina, .tim, .spl, .chk, .pdb, .cpu] s (printIn m s) := by
  unfold printIn
  with_reducible repeat' first
    | (extract_lets -underBinder +onlyGivenNames x; refine Touches.mp (t := x) ?_ ?bb; case' bb => clear_value x; revert x; refine Touches.keep ?_; intro _ _)
    | exact Touches.refl _ _
    | assumption
    | refine Touches.ite (fun _ => ?_) (fun _ => ?_)
    | refine (firstSeen_touches ..).after (by decide) ?_
    | refine (Touches.ofPair ‹firstSeen _ _ _ = _› (firstSeen_touches ..)).after (by decide) ?_
    | refine (keepOutcome_touches ..).after (by decide) ?_
    | refine (sysPrinted_touches ..).after (by decide) ?_
    | refine (userDue_touches ..).after (by decide) ?_
    | refine Touches.foldl (fun _ _ _ => ?_) ?_
    | ((conv => arg 3; arg 29); first | refine Touches.tak_set (by decide) ?_ | refine Touches.set rfl rfl rfl rfl rfl ?_)
    | extract_lets -underBinder
    | split
    | ((conv => arg 3; fail_if_success arg 1); refine Touches.set rfl rfl rfl rfl rfl ?_)
    | (conv => arg 3; dsimp -zeta -proj +zetaDelta only)

theorem execTakePrintReceive_answers (m : TakeMsg) (s : State) : Answers [.free, .out, .node, .reg, .irq, .pwr, .log, .od, .tak, .wak, .tln, .bb, .net, .ina, .tim, .spl, .chk, .pdb, .cpu] s (execTakePrintReceive m s) := by
  unfold execTakePrintReceive
  with_reducible repeat' first
    | refine Answers.next ?_
    | refine Answers.ite (fun _ => ?_) (fun _ => ?_)
    | exact Touches.refl _ _
    | assumption
    | refine Touches.ite (fun _ => ?_) (fun _ => ?_)
    | refine (printIn_touches ..).after (by decide) ?_
    | refine Touches.foldl (fun _ _ _ => ?_) ?_
    | extract_lets -underBinder
    | split
    | (conv => arg 3; dsimp -zeta -proj +zetaDelta only)

theorem scrapIn_touches (m : TakeMsg) (s : State) : Touches [.free, .out, .reg, .irq, .log, .od, .tak, .wak, .net, .ina, .spl, .pdb, .cpu] s (scrapIn m s) := by
  unfold scrapIn
  with_reducible repeat' first
    | (extract_lets -underBinder +onlyGivenNames x; refine Touches.mp (t := x) ?_ ?bb; case' bb => clear_value x; revert x; refine Touches.keep ?_; intro _ _)
    | exact Touches.refl _ _
    | assumption
    | refine Touches.ite (fun _ => ?_) (fun _ => ?_)
    | refine (collect_touches ..).after (by decide) ?_
    | refine (firstSeen_touches ..).after (by decide) ?_
    | refine (Touches.ofPair ‹firstSeen _ _ _ = _› (firstSeen_touches ..)).after (by decide) ?_
    | refine (keepOutcome_touches ..).after (by decide) ?_
    | refine (scrapUser_touches ..).after (by decide) ?_
    | refine (inaScrapped_touches ..).after (by decide) ?_
    | refine (scrapSys_touches ..).after (by decide) ?_
    | refine Touches.foldl (fun _ _ _ => ?_) ?_
    | ((conv => arg 3; arg 29); first | refine Touches.ina_set (by decide) ?_ | refine Touches.set rfl rfl rfl rfl rfl ?_)
    | extract_lets -underBinder
    | split
    | ((conv => arg 3; fail_if_success arg 1); refine Touches.set rfl rfl rfl rfl rfl ?_)
    | (conv => arg 3; dsimp -zeta -proj +zetaDelta only)

theorem execTakeScrapReceive_answers (m : TakeMsg) (s : State) : Answers [.free, .out, .reg, .irq, .log, .od, .tak, .wak, .net, .ina, .spl, .pdb, .cpu] s (execTakeScrapReceive m s) := by
  unfold execTakeScrapReceive
  with_reducible repeat' first
    | refine Answers.next ?_
    | refine Answers.ite (fun _ => ?_) (fun _ => ?_)
    | exact Touches.refl _ _
    | assumption
    | refine Touches.ite (fun _ => ?_) (fun _ => ?_)
    | refine (scrapIn_touches ..).after (by decide) ?_
    | refine Touches.foldl (fun _ _ _ => ?_) ?_
    | extract_lets -underBinder
    | split
    | (conv => arg 3; dsimp -zeta -proj +zetaDelta only)

theorem voteIn_touches (src : Uid) (m : TakeMsg) (s : State) : Touches [.free, .out, .node, .reg, .irq, .log, .od, .tak, .wak, .net, .ina, .spl, .pdb, .cpu] s (voteIn src m s) := by
  unfold voteIn
  with_reducible repeat' first
    | (extract_lets -underBinder +onlyGivenNames x; refine Touches.mp (t := x) ?_ ?bb; case' bb => clear_value x; revert x; refine Touches.keep ?_; intro _ _)
    | exact Touches.refl _ _
    | assumption
    | refine Touches.ite (fun _ => ?_) (fun _ => ?_)
    | refine (coordScrap_touches ..).after (by decide) ?_
    | refine (sysCoordScrap_touches ..).after (by decide) ?_
    | refine (sysPrintIfAll_touches ..).after (by decide) ?_
    | refine (userPrintIfAll_touches ..).after (by decide) ?_
    | refine Touches.foldl (fun _ _ _ => ?_) ?_
    | ((conv => arg 3; arg 29); first | refine Touches.tak_set (by decide) ?_ | refine Touches.set rfl rfl rfl rfl rfl ?_)
    | extract_lets -underBinder
    | split
    | ((conv => arg 3; fail_if_success arg 1); refine Touches.set rfl rfl rfl rfl rfl ?_)
    | (conv => arg 3; dsimp -zeta -proj +zetaDelta only)

theorem execTakeVoteReceive_answers (src : Uid) (m : TakeMsg) (s : State) : Answers [.free, .out, .node, .reg, .irq, .log, .od, .tak, .wak, .net, .ina, .spl, .pdb, .cpu] s (execTakeVoteReceive src m s) := by
  unfold execTakeVoteReceive
  with_reducible repeat' first
    | refine Answers.next ?_
    | refine Answers.ite (fun _ => ?_) (fun _ => ?_)
    | exact Touches.refl _ _
    | assumption
    | refine Touches.ite (fun _ => ?_) (fun _ => ?_)
    | refine (voteIn_touches ..).after (by decide) ?_
    | refine Touches.foldl (fun _ _ _ => ?_) ?_
    | extract_lets -underBinder
    | split
    | (conv => arg 3; dsimp -zeta -proj +zetaDelta only)

theorem partsExpire_touches (p : Parts) (s : State) : Touches [.now, .up, .free, .out, .reg, .irq, .log, .tak, .net, .spl, .cpu] s (partsExpire p s) := by
  unfold partsExpire
  with_reducible repeat' first
    | exact Touches.refl _ _
    | assumption
    | refine Touches.ite (fun _ => ?_) (fun _ => ?_)
    | refine (passToInstant_touches ..).after (by decide) ?_
    | refine (userVote_touches ..).after (by decide) ?_
    | refine Touches.foldl (fun _ _ _ => ?_) ?_
    | extract_lets -underBinder
    | split
    | (conv => arg 3; dsimp -zeta -proj +zetaDelta only)

theorem execTakeVoteWindowExpiry_answers (slot : TakeSlot) (s : State) : Answers [.now, .up, .free, .out, .reg, .irq, .log, .od, .tak, .wak, .net, .ina, .spl, .pdb, .cpu] s (execTakeVoteWindowExpiry slot s) := by
  unfold execTakeVoteWindowExpiry
  with_reducible repeat' first
    | refine Answers.next ?_
    | refine Answers.ite (fun _ => ?_) (fun _ => ?_)
    | exact Touches.refl _ _
    | assumption
    | refine Touches.ite (fun _ => ?_) (fun _ => ?_)
    | refine (passToInstant_touches ..).after (by decide) ?_
    | refine (coordScrap_touches ..).after (by decide) ?_
    | refine (sysCoordScrap_touches ..).after (by decide) ?_
    | refine (partsExpire_touches ..).after (by decide) ?_
    | refine Touches.foldl (fun _ _ _ => ?_) ?_
    | extract_lets -underBinder
    | split
    | (conv => arg 3; dsimp -zeta -proj +zetaDelta only)

theorem nextSend_touches (last : Nat) (s : State) : Touches [.now, .up, .out, .reg, .irq, .log, .cpu] s (nextSend last s) := by
  unfold nextSend
  with_reducible repeat' first
    | exact Touches.refl _ _
    | assumption
    | refine Touches.ite (fun _ => ?_) (fun _ => ?_)
    | refine (passTo_touches ..).after (by decide) ?_
    | refine Touches.foldl (fun _ _ _ => ?_) ?_
    | extract_lets -underBinder
    | split
    | (conv => arg 3; dsimp -zeta -proj +zetaDelta only)

theorem execTakePrintRepeat_answers (slot : TakeSlot) (s : State) : Answers [.now, .up, .free, .out, .reg, .irq, .log, .tak, .net, .spl, .cpu] s (execTakePrintRepeat slot s) := by
  unfold execTakePrintRepeat
  with_reducible repeat' first
    | (extract_lets -underBinder +onlyGivenNames x; (first | refine Answers.mp (t := x) ?_ ?bb | refine Touches.mp (t := x) ?_ ?bb); case' bb => clear_value x; revert x; refine Touches.keep ?_; intro _ _)
    | refine Answers.next ?_
    | refine Answers.ite (fun _ => ?_) (fun _ => ?_)
    | exact Touches.refl _ _
    | assumption
    | refine Touches.ite (fun _ => ?_) (fun _ => ?_)
    | refine (takeGroup_touches ..).after (by decide) ?_
    | refine (nextSend_touches ..).after (by decide) ?_
    | refine Touches.foldl (fun _ _ _ => ?_) ?_
    | ((conv => arg 3; arg 29); first | refine Touches.tak_set (by decide) ?_ | refine Touches.set rfl rfl rfl rfl rfl ?_)
    | extract_lets -underBinder
    | split
    | ((conv => arg 3; fail_if_success arg 1); refine Touches.set rfl rfl rfl rfl rfl ?_)
    | (conv => arg 3; dsimp -zeta -proj +zetaDelta only)

theorem scrapAgain_touches (x : ScrapRun) (s : State) : Touches [.free, .out, .reg, .irq, .net, .spl, .cpu] s (scrapAgain x s) := by
  unfold scrapAgain
  with_reducible repeat' first
    | exact Touches.refl _ _
    | assumption
    | refine Touches.ite (fun _ => ?_) (fun _ => ?_)
    | refine (takeGroup_touches ..).after (by decide) ?_
    | refine Touches.foldl (fun _ _ _ => ?_) ?_
    | extract_lets -underBinder
    | split
    | (conv => arg 3; dsimp -zeta -proj +zetaDelta only)

theorem execTakeScrapRepeat_answers (slot : TakeSlot) (s : State) : Answers [.now, .up, .free, .out, .reg, .irq, .log, .tak, .net, .spl, .cpu] s (execTakeScrapRepeat slot s) := by
  unfold execTakeScrapRepeat
  with_reducible repeat' first
    | (extract_lets -underBinder +onlyGivenNames x; (first | refine Answers.mp (t := x) ?_ ?bb | refine Touches.mp (t := x) ?_ ?bb); case' bb => clear_value x; revert x; refine Touches.keep ?_; intro _ _)
    | refine Answers.next ?_
    | refine Answers.ite (fun _ => ?_) (fun _ => ?_)
    | exact Touches.refl _ _
    | assumption
    | refine Touches.ite (fun _ => ?_) (fun _ => ?_)
    | refine (nextSend_touches ..).after (by decide) ?_
    | refine (scrapAgain_touches ..).after (by decide) ?_
    | refine Touches.foldl (fun _ _ _ => ?_) ?_
    | ((conv => arg 3; arg 29); first | refine Touches.tak_set (by decide) ?_ | refine Touches.set rfl rfl rfl rfl rfl ?_)
    | extract_lets -underBinder
    | split
    | ((conv => arg 3; fail_if_success arg 1); refine Touches.set rfl rfl rfl rfl rfl ?_)
    | (conv => arg 3; dsimp -zeta -proj +zetaDelta only)

theorem querySend_touches (kind : Nat) (coord : Uid) (num : Word) (instant : Instant) (s : State) : Touches [.free, .out, .reg, .irq, .net, .spl, .cpu] s (querySend kind coord num instant s) := by
  unfold querySend
  with_reducible repeat' first
    | exact Touches.refl _ _
    | assumption
    | refine Touches.ite (fun _ => ?_) (fun _ => ?_)
    | refine (takeGroup_touches ..).after (by decide) ?_
    | refine Touches.foldl (fun _ _ _ => ?_) ?_
    | extract_lets -underBinder
    | split
    | (conv => arg 3; dsimp -zeta -proj +zetaDelta only)

theorem execTakeDoubtTimer_answers (slot : TakeSlot) (s : State) : Answers [.now, .up, .free, .out, .reg, .irq, .log, .tak, .net, .spl, .cpu] s (execTakeDoubtTimer slot s) := by
  unfold execTakeDoubtTimer
  with_reducible repeat' first
    | (extract_lets -underBinder +onlyGivenNames x; (first | refine Answers.mp (t := x) ?_ ?bb | refine Touches.mp (t := x) ?_ ?bb); case' bb => clear_value x; revert x; refine Touches.keep ?_; intro _ _)
    | refine Answers.next ?_
    | refine Answers.ite (fun _ => ?_) (fun _ => ?_)
    | exact Touches.refl _ _
    | assumption
    | refine Touches.ite (fun _ => ?_) (fun _ => ?_)
    | refine (passToInstant_touches ..).after (by decide) ?_
    | refine (querySend_touches ..).after (by decide) ?_
    | refine Touches.foldl (fun _ _ _ => ?_) ?_
    | ((conv => arg 3; arg 29); first | refine Touches.tak_set (by decide) ?_ | refine Touches.set rfl rfl rfl rfl rfl ?_)
    | extract_lets -underBinder
    | split
    | ((conv => arg 3; fail_if_success arg 1); refine Touches.set rfl rfl rfl rfl rfl ?_)
    | (conv => arg 3; dsimp -zeta -proj +zetaDelta only)

theorem execTakeQueryRepeat_answers (slot : TakeSlot) (s : State) : Answers [.now, .up, .free, .out, .reg, .irq, .log, .tak, .net, .spl, .cpu] s (execTakeQueryRepeat slot s) := by
  unfold execTakeQueryRepeat
  with_reducible repeat' first
    | (extract_lets -underBinder +onlyGivenNames x; (first | refine Answers.mp (t := x) ?_ ?bb | refine Touches.mp (t := x) ?_ ?bb); case' bb => clear_value x; revert x; refine Touches.keep ?_; intro _ _)
    | refine Answers.next ?_
    | refine Answers.ite (fun _ => ?_) (fun _ => ?_)
    | exact Touches.refl _ _
    | assumption
    | refine Touches.ite (fun _ => ?_) (fun _ => ?_)
    | refine (nextSend_touches ..).after (by decide) ?_
    | refine (querySend_touches ..).after (by decide) ?_
    | refine Touches.foldl (fun _ _ _ => ?_) ?_
    | ((conv => arg 3; arg 29); first | refine Touches.tak_set (by decide) ?_ | refine Touches.set rfl rfl rfl rfl rfl ?_)
    | extract_lets -underBinder
    | split
    | ((conv => arg 3; fail_if_success arg 1); refine Touches.set rfl rfl rfl rfl rfl ?_)
    | (conv => arg 3; dsimp -zeta -proj +zetaDelta only)

theorem queryIn_touches (src : Uid) (m : TakeMsg) (s : State) : Touches [.free, .out, .reg, .irq, .tak, .net, .spl, .cpu] s (queryIn src m s) := by
  unfold queryIn
  with_reducible repeat' first
    | (extract_lets -underBinder +onlyGivenNames x; refine Touches.mp (t := x) ?_ ?bb; case' bb => clear_value x; revert x; refine Touches.keep ?_; intro _ _)
    | exact Touches.refl _ _
    | assumption
    | refine Touches.ite (fun _ => ?_) (fun _ => ?_)
    | refine (takeTo_touches ..).after (by decide) ?_
    | refine (firstSeen_touches ..).after (by decide) ?_
    | refine (Touches.ofPair ‹firstSeen _ _ _ = _› (firstSeen_touches ..)).after (by decide) ?_
    | refine Touches.foldl (fun _ _ _ => ?_) ?_
    | extract_lets -underBinder
    | split
    | (conv => arg 3; dsimp -zeta -proj +zetaDelta only)

theorem execTakeQueryReceive_answers (src : Uid) (m : TakeMsg) (s : State) : Answers [.free, .out, .reg, .irq, .tak, .net, .spl, .cpu] s (execTakeQueryReceive src m s) := by
  unfold execTakeQueryReceive
  with_reducible repeat' first
    | refine Answers.next ?_
    | refine Answers.ite (fun _ => ?_) (fun _ => ?_)
    | exact Touches.refl _ _
    | assumption
    | refine Touches.ite (fun _ => ?_) (fun _ => ?_)
    | refine (queryIn_touches ..).after (by decide) ?_
    | refine Touches.foldl (fun _ _ _ => ?_) ?_
    | extract_lets -underBinder
    | split
    | (conv => arg 3; dsimp -zeta -proj +zetaDelta only)

theorem doubtScrap_touches (slot : TakeSlot) (reason : Option Nat) (s : State) : Touches [.free, .out, .reg, .irq, .log, .od, .tak, .wak, .net, .ina, .spl, .pdb, .cpu] s (doubtScrap slot reason s) := by
  unfold doubtScrap
  with_reducible repeat' first
    | (extract_lets -underBinder +onlyGivenNames x; refine Touches.mp (t := x) ?_ ?bb; case' bb => clear_value x; revert x; refine Touches.keep ?_; intro _ _)
    | exact Touches.refl _ _
    | assumption
    | refine Touches.ite (fun _ => ?_) (fun _ => ?_)
    | refine (bump_touches ..).after (by decide) ?_
    | refine (nextFree_touches ..).after (by decide) ?_
    | refine (Touches.ofPair ‹nextFree _ = _› (nextFree_touches ..)).after (by decide) ?_
    | refine (fire_touches ..).after (by decide) ?_
    | refine (keepOutcome_touches ..).after (by decide) ?_
    | refine (scrapUser_touches ..).after (by decide) ?_
    | refine (scrapSys_touches ..).after (by decide) ?_
    | refine Touches.foldl (fun _ _ _ => ?_) ?_
    | extract_lets -underBinder
    | split
    | (conv => arg 3; dsimp -zeta -proj +zetaDelta only)

theorem doubtApply_touches (slot : TakeSlot) (s : State) : Touches [.now, .up, .free, .out, .node, .reg, .irq, .pwr, .hpl, .log, .od, .tak, .wak, .tln, .bb, .net, .ina, .tim, .spl, .chk, .pdb, .cpu] s (doubtApply slot s) := by
  unfold doubtApply
  with_reducible repeat' first
    | (extract_lets -underBinder +onlyGivenNames x; refine Touches.mp (t := x) ?_ ?bb; case' bb => clear_value x; revert x; refine Touches.keep ?_; intro _ _)
    | exact Touches.refl _ _
    | assumption
    | refine Touches.ite (fun _ => ?_) (fun _ => ?_)
    | refine (bump_touches ..).after (by decide) ?_
    | refine (keepOutcome_touches ..).after (by decide) ?_
    | refine (applySheet_touches ..).after (by decide) ?_
    | refine (duskLate_touches ..).after (by decide) ?_
    | refine (applyUser_touches ..).after (by decide) ?_
    | refine Touches.foldl (fun _ _ _ => ?_) ?_
    | ((conv => arg 3; arg 29); first | refine Touches.tak_set (by decide) ?_ | refine Touches.set rfl rfl rfl rfl rfl ?_)
    | extract_lets -underBinder
    | split
    | ((conv => arg 3; fail_if_success arg 1); refine Touches.set rfl rfl rfl rfl rfl ?_)
    | (conv => arg 3; dsimp -zeta -proj +zetaDelta only)

theorem replyIn_touches (print : Bool) (m : TakeMsg) (s : State) : Touches [.now, .up, .free, .out, .node, .reg, .irq, .pwr, .hpl, .log, .od, .tak, .wak, .tln, .bb, .net, .ina, .tim, .spl, .chk, .pdb, .cpu] s (replyIn print m s) := by
  unfold replyIn
  with_reducible repeat' first
    | (extract_lets -underBinder +onlyGivenNames x; refine Touches.mp (t := x) ?_ ?bb; case' bb => clear_value x; revert x; refine Touches.keep ?_; intro _ _)
    | exact Touches.refl _ _
    | assumption
    | refine Touches.ite (fun _ => ?_) (fun _ => ?_)
    | refine (doubtScrap_touches ..).after (by decide) ?_
    | refine (doubtApply_touches ..).after (by decide) ?_
    | refine Touches.foldl (fun _ _ _ => ?_) ?_
    | extract_lets -underBinder
    | split
    | (conv => arg 3; dsimp -zeta -proj +zetaDelta only)

theorem execTakeReplyReceive_answers (print : Bool) (m : TakeMsg) (s : State) : Answers [.now, .up, .free, .out, .node, .reg, .irq, .pwr, .hpl, .log, .od, .tak, .wak, .tln, .bb, .net, .ina, .tim, .spl, .chk, .pdb, .cpu] s (execTakeReplyReceive print m s) := by
  unfold execTakeReplyReceive
  with_reducible repeat' first
    | refine Answers.next ?_
    | refine Answers.ite (fun _ => ?_) (fun _ => ?_)
    | exact Touches.refl _ _
    | assumption
    | refine Touches.ite (fun _ => ?_) (fun _ => ?_)
    | refine (replyIn_touches ..).after (by decide) ?_
    | refine Touches.foldl (fun _ _ _ => ?_) ?_
    | extract_lets -underBinder
    | split
    | (conv => arg 3; dsimp -zeta -proj +zetaDelta only)

theorem execTakeDoubtExpiry_answers (slot : TakeSlot) (s : State) : Answers [.now, .up, .free, .out, .reg, .irq, .log, .od, .tak, .wak, .net, .ina, .spl, .pdb, .cpu] s (execTakeDoubtExpiry slot s) := by
  unfold execTakeDoubtExpiry
  with_reducible repeat' first
    | (extract_lets -underBinder +onlyGivenNames x; (first | refine Answers.mp (t := x) ?_ ?bb | refine Touches.mp (t := x) ?_ ?bb); case' bb => clear_value x; revert x; refine Touches.keep ?_; intro _ _)
    | refine Answers.next ?_
    | refine Answers.ite (fun _ => ?_) (fun _ => ?_)
    | exact Touches.refl _ _
    | assumption
    | refine Touches.ite (fun _ => ?_) (fun _ => ?_)
    | refine (passToInstant_touches ..).after (by decide) ?_
    | refine (doubtScrap_touches ..).after (by decide) ?_
    | refine Touches.foldl (fun _ _ _ => ?_) ?_
    | extract_lets -underBinder
    | split
    | (conv => arg 3; dsimp -zeta -proj +zetaDelta only)

theorem execTakeOutcomeExpiry_answers (kind : Fin 4) (coord : Uid) (num : Word) (s : State) : Answers [.now, .up, .out, .reg, .irq, .log, .tak, .cpu] s (execTakeOutcomeExpiry kind coord num s) := by
  unfold execTakeOutcomeExpiry
  with_reducible repeat' first
    | (extract_lets -underBinder +onlyGivenNames x; (first | refine Answers.mp (t := x) ?_ ?bb | refine Touches.mp (t := x) ?_ ?bb); case' bb => clear_value x; revert x; refine Touches.keep ?_; intro _ _)
    | refine Answers.next ?_
    | refine Answers.ite (fun _ => ?_) (fun _ => ?_)
    | exact Touches.refl _ _
    | assumption
    | refine Touches.ite (fun _ => ?_) (fun _ => ?_)
    | refine (passTo_touches ..).after (by decide) ?_
    | refine Touches.foldl (fun _ _ _ => ?_) ?_
    | ((conv => arg 3; arg 29); first | refine Touches.tak_set (by decide) ?_ | refine Touches.set rfl rfl rfl rfl rfl ?_)
    | extract_lets -underBinder
    | split
    | ((conv => arg 3; fail_if_success arg 1); refine Touches.set rfl rfl rfl rfl rfl ?_)
    | (conv => arg 3; dsimp -zeta -proj +zetaDelta only)

theorem execTakeIdleExpiry_answers (s : State) : Answers [.now, .up, .free, .out, .reg, .irq, .log, .od, .tak, .net, .spl, .pdb, .cpu] s (execTakeIdleExpiry s) := by
  unfold execTakeIdleExpiry
  with_reducible repeat' first
    | refine Answers.next ?_
    | refine Answers.ite (fun _ => ?_) (fun _ => ?_)
    | exact Touches.refl _ _
    | assumption
    | refine Touches.ite (fun _ => ?_) (fun _ => ?_)
    | refine (bump_touches ..).after (by decide) ?_
    | refine (passTo_touches ..).after (by decide) ?_
    | refine (scrapUser_touches ..).after (by decide) ?_
    | refine Touches.foldl (fun _ _ _ => ?_) ?_
    | extract_lets -underBinder
    | split
    | (conv => arg 3; dsimp -zeta -proj +zetaDelta only)

end Sys2Proof.Machine
end

