-- ==== Sys2Proof/Laws/Dictionary.lean ====
section
/-!
SUPPORT. Laws/Dictionary.lean: the frame of every operation of Machine/Dictionary.lean: which parts of the state it may change, and that it keeps the bounds.
-/
namespace Sys2Proof.Machine

set_option Elab.async false
set_option linter.all false

theorem lockReport_touches (code kind : Nat) (s : State) : Touches [.out, .reg, .irq, .log, .od, .cpu] s (lockReport code kind s) := by
  unfold lockReport
  with_reducible repeat' first
    | exact Touches.refl _ _
    | assumption
    | refine Touches.ite (fun _ => ?_) (fun _ => ?_)
    | refine (raiseIrq_touches ..).after (by decide) ?_
    | refine (fire_touches ..).after (by decide) ?_
    | refine (bumpOd_touches ..).after (by decide) ?_
    | refine Touches.foldl (fun _ _ _ => ?_) ?_
    | extract_lets -underBinder
    | split
    | (conv => arg 3; dsimp -zeta -proj +zetaDelta only)

theorem authRefused_touches (i : Session) (s : State) : Touches [.out, .reg, .irq, .log, .od, .cpu] s (authRefused i s) := by
  unfold authRefused
  with_reducible repeat' first
    | (extract_lets -underBinder +onlyGivenNames x; refine Touches.mp (t := x) ?_ ?bb; case' bb => clear_value x; revert x; refine Touches.keep ?_; intro _ _)
    | exact Touches.refl _ _
    | assumption
    | refine Touches.ite (fun _ => ?_) (fun _ => ?_)
    | refine (setSess_touches ..).after (by decide) ?_
    | refine (bumpOd_touches ..).after (by decide) ?_
    | refine (lockReport_touches ..).after (by decide) ?_
    | refine Touches.foldl (fun _ _ _ => ?_) ?_
    | ((conv => arg 3; arg 29); first | refine Touches.od_set (by decide) ?_ | refine Touches.set rfl rfl rfl rfl rfl ?_)
    | extract_lets -underBinder
    | split
    | ((conv => arg 3; fail_if_success arg 1); refine Touches.set rfl rfl rfl rfl rfl ?_)
    | (conv => arg 3; dsimp -zeta -proj +zetaDelta only)

theorem respond_touches (i : Session) (d : List Byte) (s : State) : Touches [.out, .reg, .irq, .log, .od, .cpu] s (respond i d s).2 := by
  unfold respond
  with_reducible repeat' first
    | (extract_lets -underBinder +onlyGivenNames x; refine Touches.mp (t := x) ?_ ?bb; case' bb => clear_value x; revert x; refine Touches.keep ?_; intro _ _)
    | exact Touches.refl _ _
    | assumption
    | refine Touches.ite (fun _ => ?_) (fun _ => ?_)
    | ((conv => arg 3; arg 1; (fail_if_success arg 3); arg 2); refine Touches.pair ?_)
    | refine Touches.iteSnd ?_ ?_
    | refine (setSess_touches ..).after (by decide) ?_
    | refine (authRefused_touches ..).after (by decide) ?_
    | refine Touches.foldl (fun _ _ _ => ?_) ?_
    | extract_lets -underBinder
    | split
    | (conv => arg 3; dsimp -zeta -proj +zetaDelta only)

theorem requestLevel_touches (i : Session) (n : Nat) (s : State) : Touches [.od] s (requestLevel i n s).2 := by
  unfold requestLevel
  with_reducible repeat' first
    | exact Touches.refl _ _
    | assumption
    | refine Touches.ite (fun _ => ?_) (fun _ => ?_)
    | ((conv => arg 3; arg 1; (fail_if_success arg 3); arg 2); refine Touches.pair ?_)
    | refine Touches.iteSnd ?_ ?_
    | refine (setSess_touches ..).after (by decide) ?_
    | refine Touches.foldl (fun _ _ _ => ?_) ?_
    | extract_lets -underBinder
    | split
    | (conv => arg 3; dsimp -zeta -proj +zetaDelta only)

theorem randomBytes_touches (n : Nat) (s : State) : Touches [.free] s (randomBytes n s).2 := by
  induction n generalizing s with
  | zero => exact Touches.refl _ _
  | succ n ih =>
    unfold randomBytes
    exact (ih _).after (by decide) (nextFree_touches s)

theorem newChallenge_touches (i : Session) (s : State) : Touches [.free, .od] s (newChallenge i s) := by
  unfold newChallenge
  with_reducible repeat' first
    | (extract_lets -underBinder +onlyGivenNames x; refine Touches.mp (t := x) ?_ ?bb; case' bb => clear_value x; revert x; refine Touches.keep ?_; intro _ _)
    | exact Touches.refl _ _
    | assumption
    | refine Touches.ite (fun _ => ?_) (fun _ => ?_)
    | refine (setSess_touches ..).after (by decide) ?_
    | refine (randomBytes_touches ..).after (by decide) ?_
    | refine (Touches.ofPair ‹randomBytes _ = _› (randomBytes_touches ..)).after (by decide) ?_
    | refine Touches.foldl (fun _ _ _ => ?_) ?_
    | extract_lets -underBinder
    | split
    | (conv => arg 3; dsimp -zeta -proj +zetaDelta only)

theorem dropSession_touches (i : Session) (s : State) : Touches [.free, .out, .reg, .irq, .od, .tak, .net, .spl, .pdb, .cpu] s (dropSession i s) := by
  unfold dropSession
  with_reducible repeat' first
    | (extract_lets -underBinder +onlyGivenNames x; refine Touches.mp (t := x) ?_ ?bb; case' bb => clear_value x; revert x; refine Touches.keep ?_; intro _ _)
    | exact Touches.refl _ _
    | assumption
    | refine Touches.ite (fun _ => ?_) (fun _ => ?_)
    | refine (setSess_touches ..).after (by decide) ?_
    | refine (scrapUser_touches ..).after (by decide) ?_
    | refine Touches.foldl (fun _ _ _ => ?_) ?_
    | ((conv => arg 3; arg 29); first | refine Touches.od_set (by decide) ?_ | refine Touches.tak_set (by decide) ?_ | refine Touches.set rfl rfl rfl rfl rfl ?_)
    | extract_lets -underBinder
    | split
    | ((conv => arg 3; fail_if_success arg 1); refine Touches.set rfl rfl rfl rfl rfl ?_)
    | (conv => arg 3; dsimp -zeta -proj +zetaDelta only)

theorem setSdo_touches (c : Nat) (x : Option Sdo) (s : State) : Touches [.od] s (setSdo c x s) := by
  unfold setSdo
  with_reducible repeat' first
    | exact Touches.refl _ _
    | assumption
    | refine Touches.ite (fun _ => ?_) (fun _ => ?_)
    | refine Touches.foldl (fun _ _ _ => ?_) ?_
    | ((conv => arg 3; arg 29); first | refine Touches.od_set (by decide) ?_ | refine Touches.set rfl rfl rfl rfl rfl ?_)
    | extract_lets -underBinder
    | split
    | ((conv => arg 3; fail_if_success arg 1); refine Touches.set rfl rfl rfl rfl rfl ?_)
    | (conv => arg 3; dsimp -zeta -proj +zetaDelta only)

theorem sdoRead_touches (i : Session) (q : Req) (whole : List Byte) (s : State) : Touches [.free, .out, .reg, .irq, .od, .net, .spl, .pdb, .cpu] s (sdoRead i q whole s) := by
  unfold sdoRead
  with_reducible repeat' first
    | (extract_lets -underBinder +onlyGivenNames x; refine Touches.mp (t := x) ?_ ?bb; case' bb => clear_value x; revert x; refine Touches.keep ?_; intro _ _)
    | exact Touches.refl _ _
    | assumption
    | refine Touches.ite (fun _ => ?_) (fun _ => ?_)
    | refine (finish_touches ..).after (by decide) ?_
    | refine (setSdo_touches ..).after (by decide) ?_
    | refine Touches.foldl (fun _ _ _ => ?_) ?_
    | extract_lets -underBinder
    | split
    | (conv => arg 3; dsimp -zeta -proj +zetaDelta only)

theorem readFirst_touches (i : Session) (q : Req) (s : State) : Touches [.free, .out, .reg, .irq, .od, .net, .spl, .pdb, .cpu] s (readFirst i q s) := by
  unfold readFirst
  with_reducible repeat' first
    | (extract_lets -underBinder +onlyGivenNames x; refine Touches.mp (t := x) ?_ ?bb; case' bb => clear_value x; revert x; refine Touches.keep ?_; intro _ _)
    | exact Touches.refl _ _
    | assumption
    | refine Touches.ite (fun _ => ?_) (fun _ => ?_)
    | refine (setSess_touches ..).after (by decide) ?_
    | refine (finish_touches ..).after (by decide) ?_
    | refine (newChallenge_touches ..).after (by decide) ?_
    | refine (sdoRead_touches ..).after (by decide) ?_
    | refine Touches.foldl (fun _ _ _ => ?_) ?_
    | extract_lets -underBinder
    | split
    | (conv => arg 3; dsimp -zeta -proj +zetaDelta only)

theorem readLater_touches (i : Session) (q : Req) (s : State) : Touches [.free, .out, .reg, .irq, .od, .net, .spl, .pdb, .cpu] s (readLater i q s) := by
  unfold readLater
  with_reducible repeat' first
    | (extract_lets -underBinder +onlyGivenNames x; refine Touches.mp (t := x) ?_ ?bb; case' bb => clear_value x; revert x; refine Touches.keep ?_; intro _ _)
    | exact Touches.refl _ _
    | assumption
    | refine Touches.ite (fun _ => ?_) (fun _ => ?_)
    | refine (setSess_touches ..).after (by decide) ?_
    | refine (finish_touches ..).after (by decide) ?_
    | refine Touches.foldl (fun _ _ _ => ?_) ?_
    | extract_lets -underBinder
    | split
    | (conv => arg 3; dsimp -zeta -proj +zetaDelta only)

theorem doRead_touches (i : Session) (q : Req) (s : State) : Touches [.free, .out, .reg, .irq, .od, .net, .spl, .pdb, .cpu] s (doRead i q s) := by
  unfold doRead
  with_reducible repeat' first
    | (extract_lets -underBinder +onlyGivenNames x; refine Touches.mp (t := x) ?_ ?bb; case' bb => clear_value x; revert x; refine Touches.keep ?_; intro _ _)
    | exact Touches.refl _ _
    | assumption
    | refine Touches.ite (fun _ => ?_) (fun _ => ?_)
    | refine (finish_touches ..).after (by decide) ?_
    | refine (readFirst_touches ..).after (by decide) ?_
    | refine (readLater_touches ..).after (by decide) ?_
    | refine Touches.foldl (fun _ _ _ => ?_) ?_
    | extract_lets -underBinder
    | split
    | (conv => arg 3; dsimp -zeta -proj +zetaDelta only)

theorem storeStart_touches (i : Session) (q : Req) (s : State) : Touches [.free, .out, .reg, .irq, .od, .net, .spl, .pdb, .cpu] s (storeStart i q s) := by
  unfold storeStart
  with_reducible repeat' first
    | exact Touches.refl _ _
    | assumption
    | refine Touches.ite (fun _ => ?_) (fun _ => ?_)
    | refine (finish_touches ..).after (by decide) ?_
    | refine (setCopy_touches ..).after (by decide) ?_
    | refine Touches.foldl (fun _ _ _ => ?_) ?_
    | ((conv => arg 3; arg 29); first | refine Touches.od_set (by decide) ?_ | refine Touches.set rfl rfl rfl rfl rfl ?_)
    | extract_lets -underBinder
    | split
    | ((conv => arg 3; fail_if_success arg 1); refine Touches.set rfl rfl rfl rfl rfl ?_)
    | (conv => arg 3; dsimp -zeta -proj +zetaDelta only)

theorem storeEnd_touches (ok : Bool) (s : State) : Touches [.free, .out, .reg, .irq, .od, .net, .spl, .pdb, .cpu] s (storeEnd ok s) := by
  unfold storeEnd
  with_reducible repeat' first
    | (extract_lets -underBinder +onlyGivenNames x; refine Touches.mp (t := x) ?_ ?bb; case' bb => clear_value x; revert x; refine Touches.keep ?_; intro _ _)
    | exact Touches.refl _ _
    | assumption
    | refine Touches.ite (fun _ => ?_) (fun _ => ?_)
    | refine (nextFree_touches ..).after (by decide) ?_
    | refine (Touches.ofPair ‹nextFree _ = _› (nextFree_touches ..)).after (by decide) ?_
    | refine (storeAnswer_touches ..).after (by decide) ?_
    | refine (setCopy_touches ..).after (by decide) ?_
    | refine Touches.foldl (fun _ _ _ => ?_) ?_
    | ((conv => arg 3; arg 29); first | refine Touches.od_set (by decide) ?_ | refine Touches.set rfl rfl rfl rfl rfl ?_)
    | extract_lets -underBinder
    | split
    | ((conv => arg 3; fail_if_success arg 1); refine Touches.set rfl rfl rfl rfl rfl ?_)
    | (conv => arg 3; dsimp -zeta -proj +zetaDelta only)

theorem restoreDefaults_touches (sub : Nat) (s : State) : Touches [.od] s (restoreDefaults sub s) := by
  unfold restoreDefaults
  with_reducible repeat' first
    | (extract_lets -underBinder +onlyGivenNames x; refine Touches.mp (t := x) ?_ ?bb; case' bb => clear_value x; revert x; refine Touches.keep ?_; intro _ _)
    | exact Touches.refl _ _
    | assumption
    | refine Touches.ite (fun _ => ?_) (fun _ => ?_)
    | refine Touches.foldl (fun _ _ _ => ?_) ?_
    | ((conv => arg 3; arg 29); first | refine Touches.od_set (by decide) ?_ | refine Touches.set rfl rfl rfl rfl rfl ?_)
    | extract_lets -underBinder
    | split
    | ((conv => arg 3; fail_if_success arg 1); refine Touches.set rfl rfl rfl rfl rfl ?_)
    | (conv => arg 3; dsimp -zeta -proj +zetaDelta only)

theorem imageWrite_touches (x : SlotImage) (s : State) : Touches [.cpu] s (imageWrite x s) := by
  unfold imageWrite
  with_reducible repeat' first
    | exact Touches.refl _ _
    | assumption
    | refine Touches.ite (fun _ => ?_) (fun _ => ?_)
    | refine (imageDone_touches ..).after (by decide) ?_
    | refine Touches.foldl (fun _ _ _ => ?_) ?_
    | ((conv => arg 3; arg 29); first | refine Touches.cpu_set (by decide) (by with_reducible rfl) ?_ | refine Touches.set rfl rfl rfl rfl rfl ?_)
    | extract_lets -underBinder
    | split
    | ((conv => arg 3; fail_if_success arg 1); refine Touches.set rfl rfl rfl rfl rfl ?_)
    | (conv => arg 3; dsimp -zeta -proj +zetaDelta only)

theorem imageFree_touches (image : List Byte) (s : State) : Touches [.free, .cpu] s (imageFree image s) := by
  unfold imageFree
  with_reducible repeat' first
    | (extract_lets -underBinder +onlyGivenNames x; refine Touches.mp (t := x) ?_ ?bb; case' bb => clear_value x; revert x; refine Touches.keep ?_; intro _ _)
    | exact Touches.refl _ _
    | assumption
    | refine Touches.ite (fun _ => ?_) (fun _ => ?_)
    | refine (nextFree_touches ..).after (by decide) ?_
    | refine (Touches.ofPair ‹nextFree _ = _› (nextFree_touches ..)).after (by decide) ?_
    | refine (imageWrite_touches ..).after (by decide) ?_
    | refine Touches.foldl (fun _ _ _ => ?_) ?_
    | extract_lets -underBinder
    | split
    | (conv => arg 3; dsimp -zeta -proj +zetaDelta only)

theorem eachBit_touches {k : List Blk} {n mask : Nat} {f : Nat → State → State} {s t : State}
    (hf : ∀ i u, Touches k s u → Touches k s (f i u)) (h : Touches k s t) : Touches k s (eachBit n mask f t) :=
  Touches.foldl (fun _ _ hu => Touches.ite (fun _ => hf _ _ hu) (fun _ => hu)) h

theorem clearObject_touches (i : Session) (c : Nat) (s : State) : Touches [.out, .reg, .irq, .log, .cpu] s (clearObject i c s).2 := by
  unfold clearObject
  with_reducible repeat' first
    | exact Touches.refl _ _
    | assumption
    | refine Touches.ite (fun _ => ?_) (fun _ => ?_)
    | ((conv => arg 3; arg 1; (fail_if_success arg 3); arg 2); refine Touches.pair ?_)
    | refine Touches.iteSnd ?_ ?_
    | refine (clearStart_touches ..).after (by decide) ?_
    | refine Touches.foldl (fun _ _ _ => ?_) ?_
    | extract_lets -underBinder
    | split
    | (conv => arg 3; dsimp -zeta -proj +zetaDelta only)

theorem cursorObject_touches (i : Session) (n : Nat) (s : State) : Touches [.od] s (cursorObject i n s) := by
  unfold cursorObject
  with_reducible repeat' first
    | (extract_lets -underBinder +onlyGivenNames x; refine Touches.mp (t := x) ?_ ?bb; case' bb => clear_value x; revert x; refine Touches.keep ?_; intro _ _)
    | exact Touches.refl _ _
    | assumption
    | refine Touches.ite (fun _ => ?_) (fun _ => ?_)
    | refine (setSess_touches ..).after (by decide) ?_
    | refine Touches.foldl (fun _ _ _ => ?_) ?_
    | extract_lets -underBinder
    | split
    | (conv => arg 3; dsimp -zeta -proj +zetaDelta only)

theorem objAction_touches (i : Session) (idx sub : Nat) (d : List Byte) (s : State) : Touches [.free, .out, .node, .reg, .irq, .log, .od, .tak, .wak, .tln, .bb, .net, .ina, .spl, .cpu] s (objAction i idx sub d s).2 := by
  unfold objAction
  with_reducible repeat' first
    | (extract_lets -underBinder +onlyGivenNames x; refine Touches.mp (t := x) ?_ ?bb; case' bb => clear_value x; revert x; refine Touches.keep ?_; intro _ _)
    | exact Touches.refl _ _
    | assumption
    | refine Touches.ite (fun _ => ?_) (fun _ => ?_)
    | ((conv => arg 3; arg 1; (fail_if_success arg 3); arg 2); refine Touches.pair ?_)
    | refine Touches.iteSnd ?_ ?_
    | refine (setMs_touches ..).after (by decide) ?_
    | refine (verifyRestart_touches ..).after (by decide) ?_
    | refine (setOutCmd_touches ..).after (by decide) ?_
    | refine (abortWindow_touches ..).after (by decide) ?_
    | refine (winForce_touches ..).after (by decide) ?_
    | refine (stmForce_touches ..).after (by decide) ?_
    | refine (pwfPop_touches ..).after (by decide) ?_
    | refine (fenceMask_touches ..).after (by decide) ?_
    | refine (inaRestart_touches ..).after (by decide) ?_
    | refine (Touches.ofPair ‹inaRestart _ = _› (inaRestart_touches ..)).after (by decide) ?_
    | refine (setInhibit_touches ..).after (by decide) ?_
    | refine (softTrigger_touches ..).after (by decide) ?_
    | refine (stayAwake_touches ..).after (by decide) ?_
    | refine (respond_touches ..).after (by decide) ?_
    | refine (Touches.ofPair ‹respond _ _ _ = _› (respond_touches ..)).after (by decide) ?_
    | refine (requestLevel_touches ..).after (by decide) ?_
    | refine (Touches.ofPair ‹requestLevel _ _ _ = _› (requestLevel_touches ..)).after (by decide) ?_
    | refine (restoreDefaults_touches ..).after (by decide) ?_
    | refine (imageFree_touches ..).after (by decide) ?_
    | refine eachBit_touches (fun _ _ _ => ?_) ?_
    | refine (clearObject_touches ..).after (by decide) ?_
    | refine (Touches.ofPair ‹clearObject _ _ _ = _› (clearObject_touches ..)).after (by decide) ?_
    | refine (cursorObject_touches ..).after (by decide) ?_
    | refine Touches.foldl (fun _ _ _ => ?_) ?_
    | ((conv => arg 3; arg 29); first | refine Touches.od_set (by decide) ?_ | refine Touches.wak_set (by decide) ?_ | refine Touches.cpu_set (by decide) (by with_reducible rfl) ?_ | refine Touches.set rfl rfl rfl rfl rfl ?_)
    | extract_lets -underBinder
    | split
    | ((conv => arg 3; fail_if_success arg 1); refine Touches.set rfl rfl rfl rfl rfl ?_)
    | (conv => arg 3; dsimp -zeta -proj +zetaDelta only)

theorem tellScrap_touches (i : Session) (s : State) : Touches [.od] s (tellScrap i s).2 := by
  unfold tellScrap
  with_reducible repeat' first
    | (extract_lets -underBinder +onlyGivenNames x; refine Touches.mp (t := x) ?_ ?bb; case' bb => clear_value x; revert x; refine Touches.keep ?_; intro _ _)
    | exact Touches.refl _ _
    | assumption
    | refine Touches.ite (fun _ => ?_) (fun _ => ?_)
    | ((conv => arg 3; arg 1; (fail_if_success arg 3); arg 2); refine Touches.pair ?_)
    | refine Touches.iteSnd ?_ ?_
    | refine (setSess_touches ..).after (by decide) ?_
    | refine Touches.foldl (fun _ _ _ => ?_) ?_
    | extract_lets -underBinder
    | split
    | (conv => arg 3; dsimp -zeta -proj +zetaDelta only)

theorem renewTake_touches (i : Session) (s : State) : Touches [.tak] s (renewTake i s) := by
  unfold renewTake
  with_reducible repeat' first
    | exact Touches.refl _ _
    | assumption
    | refine Touches.ite (fun _ => ?_) (fun _ => ?_)
    | refine Touches.foldl (fun _ _ _ => ?_) ?_
    | ((conv => arg 3; arg 29); first | refine Touches.tak_set (by decide) ?_ | refine Touches.set rfl rfl rfl rfl rfl ?_)
    | extract_lets -underBinder
    | split
    | ((conv => arg 3; fail_if_success arg 1); refine Touches.set rfl rfl rfl rfl rfl ?_)
    | (conv => arg 3; dsimp -zeta -proj +zetaDelta only)

theorem slateFor_touches (i : Session) (s : State) : Touches [.tak] s (slateFor i s) := by
  unfold slateFor
  with_reducible repeat' first
    | exact Touches.refl _ _
    | assumption
    | refine Touches.ite (fun _ => ?_) (fun _ => ?_)
    | refine Touches.foldl (fun _ _ _ => ?_) ?_
    | ((conv => arg 3; arg 29); first | refine Touches.tak_set (by decide) ?_ | refine Touches.set rfl rfl rfl rfl rfl ?_)
    | extract_lets -underBinder
    | split
    | ((conv => arg 3; fail_if_success arg 1); refine Touches.set rfl rfl rfl rfl rfl ?_)
    | (conv => arg 3; dsimp -zeta -proj +zetaDelta only)

theorem stageIn_touches {level k : Nat} {v : Val} {s t : State} (h : stageIn level k v s = some t) : Touches [.tak] s t := by
  unfold stageIn at h
  dsimp only at h
  split at h <;> cases h
  exact Touches.tak_set (by decide) (Touches.refl _ s)

theorem takeWrite_touches (i : Session) (q : Req) (k : Nat) (v : Val) (len : Nat) (s : State) : Touches [.free, .out, .reg, .irq, .od, .tak, .net, .spl, .pdb, .cpu] s (takeWrite i q k v len s) := by
  unfold takeWrite
  with_reducible repeat' first
    | (extract_lets -underBinder +onlyGivenNames x; refine Touches.mp (t := x) ?_ ?bb; case' bb => clear_value x; revert x; refine Touches.keep ?_; intro _ _)
    | exact Touches.refl _ _
    | assumption
    | refine Touches.ite (fun _ => ?_) (fun _ => ?_)
    | refine (finish_touches ..).after (by decide) ?_
    | refine (tellScrap_touches ..).after (by decide) ?_
    | refine (Touches.ofPair ‹tellScrap _ _ = _› (tellScrap_touches ..)).after (by decide) ?_
    | refine (slateFor_touches ..).after (by decide) ?_
    | refine (stageIn_touches (h := by assumption)).after (by decide) ?_
    | refine Touches.foldl (fun _ _ _ => ?_) ?_
    | ((conv => arg 3; arg 29); first | refine Touches.od_set (by decide) ?_ | refine Touches.tak_set (by decide) ?_ | refine Touches.set rfl rfl rfl rfl rfl ?_)
    | extract_lets -underBinder
    | split
    | ((conv => arg 3; fail_if_success arg 1); refine Touches.set rfl rfl rfl rfl rfl ?_)
    | (conv => arg 3; dsimp -zeta -proj +zetaDelta only)

theorem relationState_touches (s : State) : Touches [.od] s (relationState s) := by
  unfold relationState
  with_reducible repeat' first
    | exact Touches.refl _ _
    | assumption
    | refine Touches.ite (fun _ => ?_) (fun _ => ?_)
    | refine (applyVals_touches ..).after (by decide) ?_
    | refine Touches.foldl (fun _ _ _ => ?_) ?_
    | extract_lets -underBinder
    | split
    | (conv => arg 3; dsimp -zeta -proj +zetaDelta only)

theorem plainWrite_touches (i : Session) (q : Req) (r : Obj) (k : Nat) (d : List Byte) (s : State) : Touches [.now, .up, .free, .out, .node, .fwVersion, .reg, .irq, .pwr, .hpl, .log, .od, .tak, .wak, .tln, .bb, .net, .ina, .tim, .spl, .chk, .pdb, .cpu] s (plainWrite i q r k d s) := by
  unfold plainWrite
  with_reducible repeat' first
    | (extract_lets -underBinder +onlyGivenNames x; refine Touches.mp (t := x) ?_ ?bb; case' bb => clear_value x; revert x; refine Touches.keep ?_; intro _ _)
    | exact Touches.refl _ _
    | assumption
    | refine Touches.ite (fun _ => ?_) (fun _ => ?_)
    | refine (applyVals_touches ..).after (by decide) ?_
    | refine (finish_touches ..).after (by decide) ?_
    | refine (warn_touches ..).after (by decide) ?_
    | refine (askReset_touches ..).after (by decide) ?_
    | refine (storeStart_touches ..).after (by decide) ?_
    | refine (objAction_touches ..).after (by decide) ?_
    | refine (Touches.ofPair ‹objAction _ _ _ _ _ = _› (objAction_touches ..)).after (by decide) ?_
    | refine (relationState_touches ..).after (by decide) ?_
    | refine Touches.foldl (fun _ _ _ => ?_) ?_
    | ((conv => arg 3; arg 29); first | refine Touches.od_set (by decide) ?_ | refine Touches.set rfl rfl rfl rfl rfl ?_)
    | extract_lets -underBinder
    | split
    | ((conv => arg 3; fail_if_success arg 1); refine Touches.set rfl rfl rfl rfl rfl ?_)
    | (conv => arg 3; dsimp -zeta -proj +zetaDelta only)

theorem writeWhole_touches (i : Session) (q : Req) (r : Obj) (d : List Byte) (s : State) : Touches [.now, .up, .free, .out, .node, .fwVersion, .reg, .irq, .pwr, .hpl, .log, .od, .tak, .wak, .tln, .bb, .net, .ina, .tim, .spl, .chk, .pdb, .cpu] s (writeWhole i q r d s) := by
  unfold writeWhole
  with_reducible repeat' first
    | (extract_lets -underBinder +onlyGivenNames x; refine Touches.mp (t := x) ?_ ?bb; case' bb => clear_value x; revert x; refine Touches.keep ?_; intro _ _)
    | exact Touches.refl _ _
    | assumption
    | refine Touches.ite (fun _ => ?_) (fun _ => ?_)
    | refine (finish_touches ..).after (by decide) ?_
    | refine (takeWrite_touches ..).after (by decide) ?_
    | refine (plainWrite_touches ..).after (by decide) ?_
    | refine Touches.foldl (fun _ _ _ => ?_) ?_
    | extract_lets -underBinder
    | split
    | (conv => arg 3; dsimp -zeta -proj +zetaDelta only)

theorem doWrite_touches (i : Session) (q : Req) (s : State) : Touches [.now, .up, .free, .out, .node, .fwVersion, .reg, .irq, .pwr, .hpl, .log, .od, .tak, .wak, .tln, .bb, .net, .ina, .tim, .spl, .chk, .pdb, .cpu] s (doWrite i q s) := by
  unfold doWrite
  with_reducible repeat' first
    | (extract_lets -underBinder +onlyGivenNames x; refine Touches.mp (t := x) ?_ ?bb; case' bb => clear_value x; revert x; refine Touches.keep ?_; intro _ _)
    | exact Touches.refl _ _
    | assumption
    | refine Touches.ite (fun _ => ?_) (fun _ => ?_)
    | refine (setSess_touches ..).after (by decide) ?_
    | refine (finish_touches ..).after (by decide) ?_
    | refine (renewTake_touches ..).after (by decide) ?_
    | refine (writeWhole_touches ..).after (by decide) ?_
    | refine Touches.foldl (fun _ _ _ => ?_) ?_
    | extract_lets -underBinder
    | split
    | (conv => arg 3; dsimp -zeta -proj +zetaDelta only)

theorem doSlate_touches (i : Session) (q : Req) (s : State) : Touches [.free, .out, .reg, .irq, .od, .tak, .net, .spl, .pdb, .cpu] s (doSlate i q s) := by
  unfold doSlate
  with_reducible repeat' first
    | (extract_lets -underBinder +onlyGivenNames x; refine Touches.mp (t := x) ?_ ?bb; case' bb => clear_value x; revert x; refine Touches.keep ?_; intro _ _)
    | exact Touches.refl _ _
    | assumption
    | refine Touches.ite (fun _ => ?_) (fun _ => ?_)
    | refine (finish_touches ..).after (by decide) ?_
    | refine (tellScrap_touches ..).after (by decide) ?_
    | refine (Touches.ofPair ‹tellScrap _ _ = _› (tellScrap_touches ..)).after (by decide) ?_
    | refine (renewTake_touches ..).after (by decide) ?_
    | refine (slateFor_touches ..).after (by decide) ?_
    | refine Touches.foldl (fun _ _ _ => ?_) ?_
    | extract_lets -underBinder
    | split
    | (conv => arg 3; dsimp -zeta -proj +zetaDelta only)

theorem waitAnswer_touches (i : Session) (q : Req) (s : State) : Touches [.od] s (waitAnswer i q s) := by
  unfold waitAnswer
  with_reducible repeat' first
    | exact Touches.refl _ _
    | assumption
    | refine Touches.ite (fun _ => ?_) (fun _ => ?_)
    | refine Touches.foldl (fun _ _ _ => ?_) ?_
    | ((conv => arg 3; arg 29); first | refine Touches.od_set (by decide) ?_ | refine Touches.set rfl rfl rfl rfl rfl ?_)
    | extract_lets -underBinder
    | split
    | ((conv => arg 3; fail_if_success arg 1); refine Touches.set rfl rfl rfl rfl rfl ?_)
    | (conv => arg 3; dsimp -zeta -proj +zetaDelta only)

theorem doPrint_touches (i : Session) (q : Req) (s : State) : Touches [.free, .out, .reg, .irq, .od, .tak, .net, .spl, .pdb, .cpu] s (doPrint i q s) := by
  have h0 : Touches [.free, .out, .reg, .irq, .od, .tak, .net, .spl, .pdb, .cpu] s (renewTake i s) := (renewTake_touches ..).wider (by decide)
  unfold doPrint
  dsimp only
  split
  · exact (finish_touches ..).after (by decide) h0
  · next inst _ =>
    have h1 : Touches [.free, .out, .reg, .irq, .od, .tak, .net, .spl, .pdb, .cpu] s (tellScrap i (renewTake i s)).2 := (tellScrap_touches ..).after (by decide) h0
    refine Touches.ite (fun _ => (finish_touches ..).after (by decide) h1) (fun _ => ?_)
    refine Touches.ite (fun _ => (finish_touches ..).after (by decide) h1) (fun _ => ?_)
    have h2 : Touches [.free, .out, .reg, .irq, .od, .tak, .net, .spl, .pdb, .cpu] s (printOpen inst (waitAnswer i q (tellScrap i (renewTake i s)).2)).left :=
      (printOpen_touches ..).after (by decide) ((waitAnswer_touches ..).after (by decide) h1)
    revert h2
    generalize printOpen inst (waitAnswer i q (tellScrap i (renewTake i s)).2) = r
    intro h2
    cases r with
    | refused c x y t => exact (finish_touches ..).after (by decide) (Touches.od_set (by decide) h2)
    | done t => exact (answerWaiting_touches ..).after (by decide) h2
    | waits t => exact h2

theorem doScrap_touches (i : Session) (q : Req) (s : State) : Touches [.free, .out, .reg, .irq, .od, .tak, .net, .spl, .pdb, .cpu] s (doScrap i q s) := by
  unfold doScrap
  with_reducible repeat' first
    | (extract_lets -underBinder +onlyGivenNames x; refine Touches.mp (t := x) ?_ ?bb; case' bb => clear_value x; revert x; refine Touches.keep ?_; intro _ _)
    | exact Touches.refl _ _
    | assumption
    | refine Touches.ite (fun _ => ?_) (fun _ => ?_)
    | refine (finish_touches ..).after (by decide) ?_
    | refine (scrapUser_touches ..).after (by decide) ?_
    | refine (coordScrap_touches ..).after (by decide) ?_
    | refine (tellScrap_touches ..).after (by decide) ?_
    | refine (Touches.ofPair ‹tellScrap _ _ = _› (tellScrap_touches ..)).after (by decide) ?_
    | refine Touches.foldl (fun _ _ _ => ?_) ?_
    | extract_lets -underBinder
    | split
    | (conv => arg 3; dsimp -zeta -proj +zetaDelta only)

theorem doClose_touches (i : Session) (q : Req) (s : State) : Touches [.free, .out, .reg, .irq, .od, .tak, .net, .spl, .pdb, .cpu] s (doClose i q s) := by
  unfold doClose
  with_reducible repeat' first
    | exact Touches.refl _ _
    | assumption
    | refine Touches.ite (fun _ => ?_) (fun _ => ?_)
    | refine (finish_touches ..).after (by decide) ?_
    | refine (dropSession_touches ..).after (by decide) ?_
    | refine Touches.foldl (fun _ _ _ => ?_) ?_
    | extract_lets -underBinder
    | split
    | (conv => arg 3; dsimp -zeta -proj +zetaDelta only)

theorem execute_touches (i : Session) (op : DictOp) (q : Req) (s : State) : Touches [.now, .up, .free, .out, .node, .fwVersion, .reg, .irq, .pwr, .hpl, .log, .od, .tak, .wak, .tln, .bb, .net, .ina, .tim, .spl, .chk, .pdb, .cpu] s (execute i op q s) := by
  unfold execute
  with_reducible repeat' first
    | (extract_lets -underBinder +onlyGivenNames x; refine Touches.mp (t := x) ?_ ?bb; case' bb => clear_value x; revert x; refine Touches.keep ?_; intro _ _)
    | exact Touches.refl _ _
    | assumption
    | refine Touches.ite (fun _ => ?_) (fun _ => ?_)
    | refine (setSess_touches ..).after (by decide) ?_
    | refine (bumpOd_touches ..).after (by decide) ?_
    | refine (doRead_touches ..).after (by decide) ?_
    | refine (doWrite_touches ..).after (by decide) ?_
    | refine (doSlate_touches ..).after (by decide) ?_
    | refine (doPrint_touches ..).after (by decide) ?_
    | refine (doScrap_touches ..).after (by decide) ?_
    | refine (doClose_touches ..).after (by decide) ?_
    | refine Touches.foldl (fun _ _ _ => ?_) ?_
    | extract_lets -underBinder
    | split
    | (conv => arg 3; dsimp -zeta -proj +zetaDelta only)

theorem executeEntry_touches (e : Nat × DictOp × Req) (s : State) : Touches [.now, .up, .free, .out, .node, .fwVersion, .reg, .irq, .pwr, .hpl, .log, .od, .tak, .wak, .tln, .bb, .net, .ina, .tim, .spl, .chk, .pdb, .cpu] s (executeEntry e s) := by
  unfold executeEntry
  with_reducible repeat' first
    | exact Touches.refl _ _
    | assumption
    | refine Touches.ite (fun _ => ?_) (fun _ => ?_)
    | refine (execute_touches ..).after (by decide) ?_
    | refine Touches.foldl (fun _ _ _ => ?_) ?_
    | extract_lets -underBinder
    | split
    | (conv => arg 3; dsimp -zeta -proj +zetaDelta only)

theorem enqueueReq_touches (i : Session) (op : DictOp) (q : Req) (s : State) : Touches [.free, .out, .reg, .irq, .od, .net, .spl, .pdb, .cpu] s (enqueueReq i op q s) := by
  unfold enqueueReq
  with_reducible repeat' first
    | (extract_lets -underBinder +onlyGivenNames x; refine Touches.mp (t := x) ?_ ?bb; case' bb => clear_value x; revert x; refine Touches.keep ?_; intro _ _)
    | exact Touches.refl _ _
    | assumption
    | refine Touches.ite (fun _ => ?_) (fun _ => ?_)
    | refine (setSess_touches ..).after (by decide) ?_
    | refine (finish_touches ..).after (by decide) ?_
    | refine Touches.foldl (fun _ _ _ => ?_) ?_
    | ((conv => arg 3; arg 29); first | refine Touches.od_set (by decide) ?_ | refine Touches.set rfl rfl rfl rfl rfl ?_)
    | extract_lets -underBinder
    | split
    | ((conv => arg 3; fail_if_success arg 1); refine Touches.set rfl rfl rfl rfl rfl ?_)
    | (conv => arg 3; dsimp -zeta -proj +zetaDelta only)

theorem runQueue_touches (n : Nat) (e : Nat × DictOp × Req) (s : State) : Touches [.now, .up, .free, .out, .node, .fwVersion, .reg, .irq, .pwr, .hpl, .log, .od, .tak, .wak, .tln, .bb, .net, .ina, .tim, .spl, .chk, .pdb, .cpu] s (runQueue n e s) := by
  induction n generalizing s with
  | zero => exact Touches.refl _ _
  | succ n ih =>
    unfold runQueue
    with_reducible repeat' first
    | refine (ih ..).after (by decide) ?_
    | (extract_lets -underBinder +onlyGivenNames x; refine Touches.mp (t := x) ?_ ?bb; case' bb => clear_value x; revert x; refine Touches.keep ?_; intro _ _)
    | exact Touches.refl _ _
    | assumption
    | refine Touches.ite (fun _ => ?_) (fun _ => ?_)
    | refine (executeEntry_touches ..).after (by decide) ?_
    | refine Touches.foldl (fun _ _ _ => ?_) ?_
    | ((conv => arg 3; arg 29); first | refine Touches.od_set (by decide) ?_ | refine Touches.set rfl rfl rfl rfl rfl ?_)
    | extract_lets -underBinder
    | split
    | ((conv => arg 3; fail_if_success arg 1); refine Touches.set rfl rfl rfl rfl rfl ?_)
    | (conv => arg 3; dsimp -zeta -proj +zetaDelta only)

theorem serve_touches (i : Session) (op : DictOp) (q : Req) (s : State) : Touches [.now, .up, .free, .out, .node, .fwVersion, .reg, .irq, .pwr, .hpl, .log, .od, .tak, .wak, .tln, .bb, .net, .ina, .tim, .spl, .chk, .pdb, .cpu] s (serve i op q s) := by
  unfold serve
  with_reducible repeat' first
    | (extract_lets -underBinder +onlyGivenNames x; refine Touches.mp (t := x) ?_ ?bb; case' bb => clear_value x; revert x; refine Touches.keep ?_; intro _ _)
    | exact Touches.refl _ _
    | assumption
    | refine Touches.ite (fun _ => ?_) (fun _ => ?_)
    | refine (enqueueReq_touches ..).after (by decide) ?_
    | refine (runQueue_touches ..).after (by decide) ?_
    | refine Touches.foldl (fun _ _ _ => ?_) ?_
    | extract_lets -underBinder
    | split
    | (conv => arg 3; dsimp -zeta -proj +zetaDelta only)

theorem execRead_answers (i : Session) (q : Req) (s : State) : Answers [.now, .up, .free, .out, .node, .fwVersion, .reg, .irq, .pwr, .hpl, .log, .od, .tak, .wak, .tln, .bb, .net, .ina, .tim, .spl, .chk, .pdb, .cpu] s (execRead i q s) := by
  unfold execRead
  with_reducible repeat' first
    | refine Answers.next ?_
    | refine Answers.ite (fun _ => ?_) (fun _ => ?_)
    | exact Touches.refl _ _
    | assumption
    | refine Touches.ite (fun _ => ?_) (fun _ => ?_)
    | refine (serve_touches ..).after (by decide) ?_
    | refine Touches.foldl (fun _ _ _ => ?_) ?_
    | extract_lets -underBinder
    | split
    | (conv => arg 3; dsimp -zeta -proj +zetaDelta only)

theorem execWrite_answers (i : Session) (q : Req) (s : State) : Answers [.now, .up, .free, .out, .node, .fwVersion, .reg, .irq, .pwr, .hpl, .log, .od, .tak, .wak, .tln, .bb, .net, .ina, .tim, .spl, .chk, .pdb, .cpu] s (execWrite i q s) := by
  unfold execWrite
  with_reducible repeat' first
    | refine Answers.next ?_
    | refine Answers.ite (fun _ => ?_) (fun _ => ?_)
    | exact Touches.refl _ _
    | assumption
    | refine Touches.ite (fun _ => ?_) (fun _ => ?_)
    | refine (serve_touches ..).after (by decide) ?_
    | refine Touches.foldl (fun _ _ _ => ?_) ?_
    | extract_lets -underBinder
    | split
    | (conv => arg 3; dsimp -zeta -proj +zetaDelta only)

theorem execSlate_answers (i : Session) (reqId : Word) (s : State) : Answers [.now, .up, .free, .out, .node, .fwVersion, .reg, .irq, .pwr, .hpl, .log, .od, .tak, .wak, .tln, .bb, .net, .ina, .tim, .spl, .chk, .pdb, .cpu] s (execSlate i reqId s) := by
  unfold execSlate
  with_reducible repeat' first
    | refine Answers.next ?_
    | refine Answers.ite (fun _ => ?_) (fun _ => ?_)
    | exact Touches.refl _ _
    | assumption
    | refine Touches.ite (fun _ => ?_) (fun _ => ?_)
    | refine (serve_touches ..).after (by decide) ?_
    | refine Touches.foldl (fun _ _ _ => ?_) ?_
    | extract_lets -underBinder
    | split
    | (conv => arg 3; dsimp -zeta -proj +zetaDelta only)

theorem execPrint_answers (i : Session) (reqId : Word) (instant : Option Instant) (s : State) : Answers [.now, .up, .free, .out, .node, .fwVersion, .reg, .irq, .pwr, .hpl, .log, .od, .tak, .wak, .tln, .bb, .net, .ina, .tim, .spl, .chk, .pdb, .cpu] s (execPrint i reqId instant s) := by
  unfold execPrint
  with_reducible repeat' first
    | refine Answers.next ?_
    | refine Answers.ite (fun _ => ?_) (fun _ => ?_)
    | exact Touches.refl _ _
    | assumption
    | refine Touches.ite (fun _ => ?_) (fun _ => ?_)
    | refine (serve_touches ..).after (by decide) ?_
    | refine Touches.foldl (fun _ _ _ => ?_) ?_
    | extract_lets -underBinder
    | split
    | (conv => arg 3; dsimp -zeta -proj +zetaDelta only)

theorem execScrap_answers (i : Session) (reqId : Word) (s : State) : Answers [.now, .up, .free, .out, .node, .fwVersion, .reg, .irq, .pwr, .hpl, .log, .od, .tak, .wak, .tln, .bb, .net, .ina, .tim, .spl, .chk, .pdb, .cpu] s (execScrap i reqId s) := by
  unfold execScrap
  with_reducible repeat' first
    | refine Answers.next ?_
    | refine Answers.ite (fun _ => ?_) (fun _ => ?_)
    | exact Touches.refl _ _
    | assumption
    | refine Touches.ite (fun _ => ?_) (fun _ => ?_)
    | refine (serve_touches ..).after (by decide) ?_
    | refine Touches.foldl (fun _ _ _ => ?_) ?_
    | extract_lets -underBinder
    | split
    | (conv => arg 3; dsimp -zeta -proj +zetaDelta only)

theorem execClose_answers (i : Session) (reqId : Word) (s : State) : Answers [.now, .up, .free, .out, .node, .fwVersion, .reg, .irq, .pwr, .hpl, .log, .od, .tak, .wak, .tln, .bb, .net, .ina, .tim, .spl, .chk, .pdb, .cpu] s (execClose i reqId s) := by
  unfold execClose
  with_reducible repeat' first
    | refine Answers.next ?_
    | refine Answers.ite (fun _ => ?_) (fun _ => ?_)
    | exact Touches.refl _ _
    | assumption
    | refine Touches.ite (fun _ => ?_) (fun _ => ?_)
    | refine (serve_touches ..).after (by decide) ?_
    | refine Touches.foldl (fun _ _ _ => ?_) ?_
    | extract_lets -underBinder
    | split
    | (conv => arg 3; dsimp -zeta -proj +zetaDelta only)

theorem execChallengeRead_answers (i : Session) (reqId : Word) (s : State) : Answers [.now, .up, .free, .out, .node, .fwVersion, .reg, .irq, .pwr, .hpl, .log, .od, .tak, .wak, .tln, .bb, .net, .ina, .tim, .spl, .chk, .pdb, .cpu] s (execChallengeRead i reqId s) := by
  unfold execChallengeRead
  with_reducible repeat' first
    | refine Answers.next ?_
    | refine Answers.ite (fun _ => ?_) (fun _ => ?_)
    | exact Touches.refl _ _
    | assumption
    | refine Touches.ite (fun _ => ?_) (fun _ => ?_)
    | refine (serve_touches ..).after (by decide) ?_
    | refine Touches.foldl (fun _ _ _ => ?_) ?_
    | extract_lets -underBinder
    | split
    | (conv => arg 3; dsimp -zeta -proj +zetaDelta only)

theorem execLevelRequest_answers (i : Session) (reqId : Word) (level : Byte) (s : State) : Answers [.now, .up, .free, .out, .node, .fwVersion, .reg, .irq, .pwr, .hpl, .log, .od, .tak, .wak, .tln, .bb, .net, .ina, .tim, .spl, .chk, .pdb, .cpu] s (execLevelRequest i reqId level s) := by
  unfold execLevelRequest
  with_reducible repeat' first
    | refine Answers.next ?_
    | refine Answers.ite (fun _ => ?_) (fun _ => ?_)
    | exact Touches.refl _ _
    | assumption
    | refine Touches.ite (fun _ => ?_) (fun _ => ?_)
    | refine (serve_touches ..).after (by decide) ?_
    | refine Touches.foldl (fun _ _ _ => ?_) ?_
    | extract_lets -underBinder
    | split
    | (conv => arg 3; dsimp -zeta -proj +zetaDelta only)

theorem execResponseWrite_answers (i : Session) (reqId : Word) (response : BitVec 128) (s : State) : Answers [.now, .up, .free, .out, .node, .fwVersion, .reg, .irq, .pwr, .hpl, .log, .od, .tak, .wak, .tln, .bb, .net, .ina, .tim, .spl, .chk, .pdb, .cpu] s (execResponseWrite i reqId response s) := by
  unfold execResponseWrite
  with_reducible repeat' first
    | refine Answers.next ?_
    | refine Answers.ite (fun _ => ?_) (fun _ => ?_)
    | exact Touches.refl _ _
    | assumption
    | refine Touches.ite (fun _ => ?_) (fun _ => ?_)
    | refine (serve_touches ..).after (by decide) ?_
    | refine Touches.foldl (fun _ _ _ => ?_) ?_
    | extract_lets -underBinder
    | split
    | (conv => arg 3; dsimp -zeta -proj +zetaDelta only)

theorem execKeyWrite_answers (i : Session) (reqId : Word) (maintainer : Bool) (k : BitVec 256) (s : State) : Answers [.now, .up, .free, .out, .node, .fwVersion, .reg, .irq, .pwr, .hpl, .log, .od, .tak, .wak, .tln, .bb, .net, .ina, .tim, .spl, .chk, .pdb, .cpu] s (execKeyWrite i reqId maintainer k s) := by
  unfold execKeyWrite
  with_reducible repeat' first
    | refine Answers.next ?_
    | refine Answers.ite (fun _ => ?_) (fun _ => ?_)
    | exact Touches.refl _ _
    | assumption
    | refine Touches.ite (fun _ => ?_) (fun _ => ?_)
    | refine (serve_touches ..).after (by decide) ?_
    | refine Touches.foldl (fun _ _ _ => ?_) ?_
    | extract_lets -underBinder
    | split
    | (conv => arg 3; dsimp -zeta -proj +zetaDelta only)

theorem execStoreParameters_answers (i : Session) (reqId : Word) (sub : Byte) (signature : Word) (s : State) : Answers [.now, .up, .free, .out, .node, .fwVersion, .reg, .irq, .pwr, .hpl, .log, .od, .tak, .wak, .tln, .bb, .net, .ina, .tim, .spl, .chk, .pdb, .cpu] s (execStoreParameters i reqId sub signature s) := by
  unfold execStoreParameters
  with_reducible repeat' first
    | refine Answers.next ?_
    | refine Answers.ite (fun _ => ?_) (fun _ => ?_)
    | exact Touches.refl _ _
    | assumption
    | refine Touches.ite (fun _ => ?_) (fun _ => ?_)
    | refine (serve_touches ..).after (by decide) ?_
    | refine Touches.foldl (fun _ _ _ => ?_) ?_
    | extract_lets -underBinder
    | split
    | (conv => arg 3; dsimp -zeta -proj +zetaDelta only)

theorem execStoreDone_answers (ok : Bool) (s : State) : Answers [.free, .out, .reg, .irq, .od, .net, .spl, .pdb, .cpu] s (execStoreDone ok s) := by
  unfold execStoreDone
  with_reducible repeat' first
    | refine Answers.next ?_
    | refine Answers.ite (fun _ => ?_) (fun _ => ?_)
    | exact Touches.refl _ _
    | assumption
    | refine Touches.ite (fun _ => ?_) (fun _ => ?_)
    | refine (storeEnd_touches ..).after (by decide) ?_
    | refine Touches.foldl (fun _ _ _ => ?_) ?_
    | extract_lets -underBinder
    | split
    | (conv => arg 3; dsimp -zeta -proj +zetaDelta only)

theorem execRestoreDefaults_answers (i : Session) (reqId : Word) (sub : Byte) (signature : Word) (s : State) : Answers [.now, .up, .free, .out, .node, .fwVersion, .reg, .irq, .pwr, .hpl, .log, .od, .tak, .wak, .tln, .bb, .net, .ina, .tim, .spl, .chk, .pdb, .cpu] s (execRestoreDefaults i reqId sub signature s) := by
  unfold execRestoreDefaults
  with_reducible repeat' first
    | refine Answers.next ?_
    | refine Answers.ite (fun _ => ?_) (fun _ => ?_)
    | exact Touches.refl _ _
    | assumption
    | refine Touches.ite (fun _ => ?_) (fun _ => ?_)
    | refine (serve_touches ..).after (by decide) ?_
    | refine Touches.foldl (fun _ _ _ => ?_) ?_
    | extract_lets -underBinder
    | split
    | (conv => arg 3; dsimp -zeta -proj +zetaDelta only)

theorem execExitRequestObject_answers (i : Session) (reqId : Word) (s : State) : Answers [.now, .up, .free, .out, .node, .fwVersion, .reg, .irq, .pwr, .hpl, .log, .od, .tak, .wak, .tln, .bb, .net, .ina, .tim, .spl, .chk, .pdb, .cpu] s (execExitRequestObject i reqId s) := by
  unfold execExitRequestObject
  with_reducible repeat' first
    | refine Answers.next ?_
    | refine Answers.ite (fun _ => ?_) (fun _ => ?_)
    | exact Touches.refl _ _
    | assumption
    | refine Touches.ite (fun _ => ?_) (fun _ => ?_)
    | refine (serve_touches ..).after (by decide) ?_
    | refine Touches.foldl (fun _ _ _ => ?_) ?_
    | extract_lets -underBinder
    | split
    | (conv => arg 3; dsimp -zeta -proj +zetaDelta only)

theorem execNodeResetObject_answers (i : Session) (reqId : Word) (s : State) : Answers [.now, .up, .free, .out, .node, .fwVersion, .reg, .irq, .pwr, .hpl, .log, .od, .tak, .wak, .tln, .bb, .net, .ina, .tim, .spl, .chk, .pdb, .cpu] s (execNodeResetObject i reqId s) := by
  unfold execNodeResetObject
  with_reducible repeat' first
    | refine Answers.next ?_
    | refine Answers.ite (fun _ => ?_) (fun _ => ?_)
    | exact Touches.refl _ _
    | assumption
    | refine Touches.ite (fun _ => ?_) (fun _ => ?_)
    | refine (serve_touches ..).after (by decide) ?_
    | refine Touches.foldl (fun _ _ _ => ?_) ?_
    | extract_lets -underBinder
    | split
    | (conv => arg 3; dsimp -zeta -proj +zetaDelta only)

theorem execSlotActivate_answers (i : Session) (reqId : Word) (s : State) : Answers [.now, .up, .free, .out, .node, .fwVersion, .reg, .irq, .pwr, .hpl, .log, .od, .tak, .wak, .tln, .bb, .net, .ina, .tim, .spl, .chk, .pdb, .cpu] s (execSlotActivate i reqId s) := by
  unfold execSlotActivate
  with_reducible repeat' first
    | refine Answers.next ?_
    | refine Answers.ite (fun _ => ?_) (fun _ => ?_)
    | exact Touches.refl _ _
    | assumption
    | refine Touches.ite (fun _ => ?_) (fun _ => ?_)
    | refine (serve_touches ..).after (by decide) ?_
    | refine Touches.foldl (fun _ _ _ => ?_) ?_
    | extract_lets -underBinder
    | split
    | (conv => arg 3; dsimp -zeta -proj +zetaDelta only)

theorem execAppKeyEnrol_answers (i : Session) (reqId : Word) (k : List Byte) (s : State) : Answers [.now, .up, .free, .out, .node, .fwVersion, .reg, .irq, .pwr, .hpl, .log, .od, .tak, .wak, .tln, .bb, .net, .ina, .tim, .spl, .chk, .pdb, .cpu] s (execAppKeyEnrol i reqId k s) := by
  unfold execAppKeyEnrol
  with_reducible repeat' first
    | refine Answers.next ?_
    | refine Answers.ite (fun _ => ?_) (fun _ => ?_)
    | exact Touches.refl _ _
    | assumption
    | refine Touches.ite (fun _ => ?_) (fun _ => ?_)
    | refine (serve_touches ..).after (by decide) ?_
    | refine Touches.foldl (fun _ _ _ => ?_) ?_
    | extract_lets -underBinder
    | split
    | (conv => arg 3; dsimp -zeta -proj +zetaDelta only)

theorem execCakWrite_answers (i : Session) (reqId : Word) (p : Fin 4) (k : List Byte) (s : State) : Answers [.now, .up, .free, .out, .node, .fwVersion, .reg, .irq, .pwr, .hpl, .log, .od, .tak, .wak, .tln, .bb, .net, .ina, .tim, .spl, .chk, .pdb, .cpu] s (execCakWrite i reqId p k s) := by
  unfold execCakWrite
  with_reducible repeat' first
    | refine Answers.next ?_
    | refine Answers.ite (fun _ => ?_) (fun _ => ?_)
    | exact Touches.refl _ _
    | assumption
    | refine Touches.ite (fun _ => ?_) (fun _ => ?_)
    | refine (serve_touches ..).after (by decide) ?_
    | refine Touches.foldl (fun _ _ _ => ?_) ?_
    | extract_lets -underBinder
    | split
    | (conv => arg 3; dsimp -zeta -proj +zetaDelta only)

theorem execFirmwareImageWrite_answers (i : Session) (reqId : Word) (image : List Byte) (check : ImageCheck) (s : State) : Answers [.now, .up, .free, .out, .node, .fwVersion, .reg, .irq, .pwr, .hpl, .log, .od, .tak, .wak, .tln, .bb, .net, .ina, .tim, .spl, .chk, .pdb, .cpu] s (execFirmwareImageWrite i reqId image check s) := by
  unfold execFirmwareImageWrite
  with_reducible repeat' first
    | (extract_lets -underBinder +onlyGivenNames x; (first | refine Answers.mp (t := x) ?_ ?bb | refine Touches.mp (t := x) ?_ ?bb); case' bb => clear_value x; revert x; refine Touches.keep ?_; intro _ _)
    | refine Answers.next ?_
    | refine Answers.ite (fun _ => ?_) (fun _ => ?_)
    | exact Touches.refl _ _
    | assumption
    | refine Touches.ite (fun _ => ?_) (fun _ => ?_)
    | refine (imageWrite_touches ..).after (by decide) ?_
    | refine (serve_touches ..).after (by decide) ?_
    | refine Touches.foldl (fun _ _ _ => ?_) ?_
    | extract_lets -underBinder
    | split
    | (conv => arg 3; dsimp -zeta -proj +zetaDelta only)

theorem regOrObject_touches {k : List Blk} {via : Via} {f : State → State} {q : Word → Req} {s t : State} (hk : Blk.sub [.now, .up, .free, .out, .node, .fwVersion, .reg, .irq, .pwr, .hpl, .log, .od, .tak, .wak, .tln, .bb, .net, .ina, .tim, .spl, .chk, .pdb, .cpu] k = true)
    (hf : ∀ u, Touches k s u → Touches k s (f u)) (h : Touches k s t) : Touches k s (regOrObject via f q t) := by
  unfold regOrObject
  split
  · exact Touches.ite (fun _ => hf _ h) (fun _ => h)
  · exact Touches.ite (fun _ => (coreDenied_touches ..).after (Blk.sub_trans (by decide) hk) h) (fun _ => h)
  · exact (serve_touches ..).after (Blk.sub_trans (by decide) hk) h

theorem execInaRestart_answers (via : Via) (s : State) : Answers [.now, .up, .free, .out, .node, .fwVersion, .reg, .irq, .pwr, .hpl, .log, .od, .tak, .wak, .tln, .bb, .net, .ina, .tim, .spl, .chk, .pdb, .cpu] s (execInaRestart via s) := by
  unfold execInaRestart
  with_reducible repeat' first
    | refine Answers.next ?_
    | refine Answers.ite (fun _ => ?_) (fun _ => ?_)
    | exact Touches.refl _ _
    | assumption
    | refine Touches.ite (fun _ => ?_) (fun _ => ?_)
    | refine (inaRestart_touches ..).after (by decide) ?_
    | refine (Touches.ofPair ‹inaRestart _ = _› (inaRestart_touches ..)).after (by decide) ?_
    | refine regOrObject_touches (by decide) (fun _ _ => ?_) ?_
    | refine Touches.foldl (fun _ _ _ => ?_) ?_
    | extract_lets -underBinder
    | split
    | (conv => arg 3; dsimp -zeta -proj +zetaDelta only)

theorem execOutCmdWrite_answers (via : Via) (v : Byte) (s : State) : Answers [.now, .up, .free, .out, .node, .fwVersion, .reg, .irq, .pwr, .hpl, .log, .od, .tak, .wak, .tln, .bb, .net, .ina, .tim, .spl, .chk, .pdb, .cpu] s (execOutCmdWrite via v s) := by
  unfold execOutCmdWrite
  with_reducible repeat' first
    | refine Answers.next ?_
    | refine Answers.ite (fun _ => ?_) (fun _ => ?_)
    | exact Touches.refl _ _
    | assumption
    | refine Touches.ite (fun _ => ?_) (fun _ => ?_)
    | refine (setOutCmd_touches ..).after (by decide) ?_
    | refine regOrObject_touches (by decide) (fun _ _ => ?_) ?_
    | refine Touches.foldl (fun _ _ _ => ?_) ?_
    | extract_lets -underBinder
    | split
    | (conv => arg 3; dsimp -zeta -proj +zetaDelta only)

theorem execRecorderClear_answers (via : Via) (c : Fin 8) (s : State) : Answers [.now, .up, .free, .out, .node, .fwVersion, .reg, .irq, .pwr, .hpl, .log, .od, .tak, .wak, .tln, .bb, .net, .ina, .tim, .spl, .chk, .pdb, .cpu] s (execRecorderClear via c s) := by
  unfold execRecorderClear
  with_reducible repeat' first
    | refine Answers.next ?_
    | refine Answers.ite (fun _ => ?_) (fun _ => ?_)
    | exact Touches.refl _ _
    | assumption
    | refine Touches.ite (fun _ => ?_) (fun _ => ?_)
    | refine (clearByRegister_touches ..).after (by decide) ?_
    | refine regOrObject_touches (by decide) (fun _ _ => ?_) ?_
    | refine Touches.foldl (fun _ _ _ => ?_) ?_
    | extract_lets -underBinder
    | split
    | (conv => arg 3; dsimp -zeta -proj +zetaDelta only)

theorem execRecTrigWrite_answers (via : Via) (source : BitVec 6) (sev : Fin 8) (data : BitVec 64) (s : State) : Answers [.now, .up, .free, .out, .node, .fwVersion, .reg, .irq, .pwr, .hpl, .log, .od, .tak, .wak, .tln, .bb, .net, .ina, .tim, .spl, .chk, .pdb, .cpu] s (execRecTrigWrite via source sev data s) := by
  unfold execRecTrigWrite
  with_reducible repeat' first
    | refine Answers.next ?_
    | refine Answers.ite (fun _ => ?_) (fun _ => ?_)
    | exact Touches.refl _ _
    | assumption
    | refine Touches.ite (fun _ => ?_) (fun _ => ?_)
    | refine (trigBy_touches ..).after (by decide) ?_
    | refine (serve_touches ..).after (by decide) ?_
    | refine Touches.foldl (fun _ _ _ => ?_) ?_
    | extract_lets -underBinder
    | split
    | (conv => arg 3; dsimp -zeta -proj +zetaDelta only)

theorem execSessionIdleExpiry_answers (i : Session) (s : State) : Answers [.now, .up, .out, .reg, .irq, .log, .od, .cpu] s (execSessionIdleExpiry i s) := by
  unfold execSessionIdleExpiry
  with_reducible repeat' first
    | (extract_lets -underBinder +onlyGivenNames x; (first | refine Answers.mp (t := x) ?_ ?bb | refine Touches.mp (t := x) ?_ ?bb); case' bb => clear_value x; revert x; refine Touches.keep ?_; intro _ _)
    | refine Answers.next ?_
    | refine Answers.ite (fun _ => ?_) (fun _ => ?_)
    | exact Touches.refl _ _
    | assumption
    | refine Touches.ite (fun _ => ?_) (fun _ => ?_)
    | refine (passTo_touches ..).after (by decide) ?_
    | refine (setSess_touches ..).after (by decide) ?_
    | refine Touches.foldl (fun _ _ _ => ?_) ?_
    | extract_lets -underBinder
    | split
    | (conv => arg 3; dsimp -zeta -proj +zetaDelta only)

theorem execAuthLockExpiry_answers (i : Option Session) (s : State) : Answers [.now, .up, .out, .reg, .irq, .log, .od, .cpu] s (execAuthLockExpiry i s) := by
  unfold execAuthLockExpiry
  with_reducible repeat' first
    | (extract_lets -underBinder +onlyGivenNames x; (first | refine Answers.mp (t := x) ?_ ?bb | refine Touches.mp (t := x) ?_ ?bb); case' bb => clear_value x; revert x; refine Touches.keep ?_; intro _ _)
    | refine Answers.next ?_
    | refine Answers.ite (fun _ => ?_) (fun _ => ?_)
    | exact Touches.refl _ _
    | assumption
    | refine Touches.ite (fun _ => ?_) (fun _ => ?_)
    | refine (passTo_touches ..).after (by decide) ?_
    | refine (setSess_touches ..).after (by decide) ?_
    | refine Touches.foldl (fun _ _ _ => ?_) ?_
    | ((conv => arg 3; arg 29); first | refine Touches.od_set (by decide) ?_ | refine Touches.set rfl rfl rfl rfl rfl ?_)
    | extract_lets -underBinder
    | split
    | ((conv => arg 3; fail_if_success arg 1); refine Touches.set rfl rfl rfl rfl rfl ?_)
    | (conv => arg 3; dsimp -zeta -proj +zetaDelta only)

theorem execSnapshotExpiry_answers (i : Session) (s : State) : Answers [.now, .up, .out, .reg, .irq, .log, .od, .cpu] s (execSnapshotExpiry i s) := by
  unfold execSnapshotExpiry
  with_reducible repeat' first
    | (extract_lets -underBinder +onlyGivenNames x; (first | refine Answers.mp (t := x) ?_ ?bb | refine Touches.mp (t := x) ?_ ?bb); case' bb => clear_value x; revert x; refine Touches.keep ?_; intro _ _)
    | refine Answers.next ?_
    | refine Answers.ite (fun _ => ?_) (fun _ => ?_)
    | exact Touches.refl _ _
    | assumption
    | refine Touches.ite (fun _ => ?_) (fun _ => ?_)
    | refine (passTo_touches ..).after (by decide) ?_
    | refine (setSess_touches ..).after (by decide) ?_
    | refine Touches.foldl (fun _ _ _ => ?_) ?_
    | extract_lets -underBinder
    | split
    | (conv => arg 3; dsimp -zeta -proj +zetaDelta only)

theorem execReqIdExpiry_answers (i : Session) (reqId : Word) (s : State) : Answers [.now, .up, .out, .reg, .irq, .log, .od, .cpu] s (execReqIdExpiry i reqId s) := by
  unfold execReqIdExpiry
  with_reducible repeat' first
    | (extract_lets -underBinder +onlyGivenNames x; (first | refine Answers.mp (t := x) ?_ ?bb | refine Touches.mp (t := x) ?_ ?bb); case' bb => clear_value x; revert x; refine Touches.keep ?_; intro _ _)
    | refine Answers.next ?_
    | refine Answers.ite (fun _ => ?_) (fun _ => ?_)
    | exact Touches.refl _ _
    | assumption
    | refine Touches.ite (fun _ => ?_) (fun _ => ?_)
    | refine (passTo_touches ..).after (by decide) ?_
    | refine (setSess_touches ..).after (by decide) ?_
    | refine Touches.foldl (fun _ _ _ => ?_) ?_
    | extract_lets -underBinder
    | split
    | (conv => arg 3; dsimp -zeta -proj +zetaDelta only)

theorem sdoAbort_touches (c : Fin 2) (idx sub : Nat) (code : Word) (s : State) : Touches [.free, .out, .reg, .irq, .od, .net, .spl, .pdb, .cpu] s (sdoAbort c idx sub code s) := by
  unfold sdoAbort
  with_reducible repeat' first
    | exact Touches.refl _ _
    | assumption
    | refine Touches.ite (fun _ => ?_) (fun _ => ?_)
    | refine (answer_touches ..).after (by decide) ?_
    | refine (setSdo_touches ..).after (by decide) ?_
    | refine Touches.foldl (fun _ _ _ => ?_) ?_
    | extract_lets -underBinder
    | split
    | (conv => arg 3; dsimp -zeta -proj +zetaDelta only)

theorem sdoConfirm_touches (c : Nat) (op : DictOp) (x : Sdo) (d : List Byte) (more : Bool) (s : State) : Touches [.free, .out, .reg, .pdb] s (sdoConfirm c op x d more s) := by
  unfold sdoConfirm
  with_reducible repeat' first
    | exact Touches.refl _ _
    | assumption
    | refine Touches.ite (fun _ => ?_) (fun _ => ?_)
    | refine (sdoSend_touches ..).after (by decide) ?_
    | refine Touches.foldl (fun _ _ _ => ?_) ?_
    | extract_lets -underBinder
    | split
    | (conv => arg 3; dsimp -zeta -proj +zetaDelta only)

theorem sdoDownload_touches (c : Fin 2) (x : Sdo) (toggle : Bool) (d : List Byte) (last : Bool) (s : State) : Touches [.now, .up, .free, .out, .node, .fwVersion, .reg, .irq, .pwr, .hpl, .log, .od, .tak, .wak, .tln, .bb, .net, .ina, .tim, .spl, .chk, .pdb, .cpu] s (sdoDownload c x toggle d last s) := by
  unfold sdoDownload
  with_reducible repeat' first
    | (extract_lets -underBinder +onlyGivenNames x; refine Touches.mp (t := x) ?_ ?bb; case' bb => clear_value x; revert x; refine Touches.keep ?_; intro _ _)
    | exact Touches.refl _ _
    | assumption
    | refine Touches.ite (fun _ => ?_) (fun _ => ?_)
    | refine (setSdo_touches ..).after (by decide) ?_
    | refine (serve_touches ..).after (by decide) ?_
    | refine (sdoAbort_touches ..).after (by decide) ?_
    | refine (sdoConfirm_touches ..).after (by decide) ?_
    | refine Touches.foldl (fun _ _ _ => ?_) ?_
    | extract_lets -underBinder
    | split
    | (conv => arg 3; dsimp -zeta -proj +zetaDelta only)

theorem sdoUpload_touches (c : Fin 2) (x : Sdo) (toggle : Bool) (room : Nat) (s : State) : Touches [.free, .out, .reg, .irq, .od, .net, .spl, .pdb, .cpu] s (sdoUpload c x toggle room s) := by
  unfold sdoUpload
  with_reducible repeat' first
    | (extract_lets -underBinder +onlyGivenNames x; refine Touches.mp (t := x) ?_ ?bb; case' bb => clear_value x; revert x; refine Touches.keep ?_; intro _ _)
    | exact Touches.refl _ _
    | assumption
    | refine Touches.ite (fun _ => ?_) (fun _ => ?_)
    | refine (setSdo_touches ..).after (by decide) ?_
    | refine (sdoAbort_touches ..).after (by decide) ?_
    | refine (sdoConfirm_touches ..).after (by decide) ?_
    | refine Touches.foldl (fun _ _ _ => ?_) ?_
    | extract_lets -underBinder
    | split
    | (conv => arg 3; dsimp -zeta -proj +zetaDelta only)

theorem sdoServe_touches (c : Fin 2) (m : SdoReq) (s : State) : Touches [.now, .up, .free, .out, .node, .fwVersion, .reg, .irq, .pwr, .hpl, .log, .od, .tak, .wak, .tln, .bb, .net, .ina, .tim, .spl, .chk, .pdb, .cpu] s (sdoServe c m s) := by
  unfold sdoServe
  with_reducible repeat' first
    | (extract_lets -underBinder +onlyGivenNames x; refine Touches.mp (t := x) ?_ ?bb; case' bb => clear_value x; revert x; refine Touches.keep ?_; intro _ _)
    | exact Touches.refl _ _
    | assumption
    | refine Touches.ite (fun _ => ?_) (fun _ => ?_)
    | refine (setSdo_touches ..).after (by decide) ?_
    | refine (serve_touches ..).after (by decide) ?_
    | refine (sdoAbort_touches ..).after (by decide) ?_
    | refine (sdoConfirm_touches ..).after (by decide) ?_
    | refine (sdoDownload_touches ..).after (by decide) ?_
    | refine (sdoUpload_touches ..).after (by decide) ?_
    | refine Touches.foldl (fun _ _ _ => ?_) ?_
    | extract_lets -underBinder
    | split
    | (conv => arg 3; dsimp -zeta -proj +zetaDelta only)

theorem execSdoRequestReceive_answers (c : Fin 2) (m : SdoIn) (s : State) : Answers [.now, .up, .free, .out, .node, .fwVersion, .reg, .irq, .pwr, .hpl, .log, .od, .tak, .wak, .tln, .bb, .net, .ina, .tim, .spl, .chk, .pdb, .cpu] s (execSdoRequestReceive c m s) := by
  unfold execSdoRequestReceive
  with_reducible repeat' first
    | refine Answers.next ?_
    | refine Answers.ite (fun _ => ?_) (fun _ => ?_)
    | exact Touches.refl _ _
    | assumption
    | refine Touches.ite (fun _ => ?_) (fun _ => ?_)
    | refine (sdoServe_touches ..).after (by decide) ?_
    | refine Touches.foldl (fun _ _ _ => ?_) ?_
    | ((conv => arg 3; arg 29); first | refine Touches.od_set (by decide) ?_ | refine Touches.set rfl rfl rfl rfl rfl ?_)
    | extract_lets -underBinder
    | split
    | ((conv => arg 3; fail_if_success arg 1); refine Touches.set rfl rfl rfl rfl rfl ?_)
    | (conv => arg 3; dsimp -zeta -proj +zetaDelta only)

theorem execSdoSegmentTimeout_answers (c : Fin 2) (s : State) : Answers [.now, .up, .free, .out, .reg, .irq, .log, .od, .net, .spl, .pdb, .cpu] s (execSdoSegmentTimeout c s) := by
  unfold execSdoSegmentTimeout
  with_reducible repeat' first
    | refine Answers.next ?_
    | refine Answers.ite (fun _ => ?_) (fun _ => ?_)
    | exact Touches.refl _ _
    | assumption
    | refine Touches.ite (fun _ => ?_) (fun _ => ?_)
    | refine (passTo_touches ..).after (by decide) ?_
    | refine (bumpOd_touches ..).after (by decide) ?_
    | refine (sdoAbort_touches ..).after (by decide) ?_
    | refine Touches.foldl (fun _ _ _ => ?_) ?_
    | extract_lets -underBinder
    | split
    | (conv => arg 3; dsimp -zeta -proj +zetaDelta only)

theorem execHeartbeatProduce_answers (c : Fin 2) (s : State) : Answers [.now, .up, .free, .out, .reg, .irq, .log, .od, .pdb, .cpu] s (execHeartbeatProduce c s) := by
  unfold execHeartbeatProduce
  with_reducible repeat' first
    | (extract_lets -underBinder +onlyGivenNames x; (first | refine Answers.mp (t := x) ?_ ?bb | refine Touches.mp (t := x) ?_ ?bb); case' bb => clear_value x; revert x; refine Touches.keep ?_; intro _ _)
    | refine Answers.next ?_
    | refine Answers.ite (fun _ => ?_) (fun _ => ?_)
    | exact Touches.refl _ _
    | assumption
    | refine Touches.ite (fun _ => ?_) (fun _ => ?_)
    | refine (passTo_touches ..).after (by decide) ?_
    | refine (canPut_touches ..).after (by decide) ?_
    | refine Touches.foldl (fun _ _ _ => ?_) ?_
    | ((conv => arg 3; arg 29); first | refine Touches.od_set (by decide) ?_ | refine Touches.set rfl rfl rfl rfl rfl ?_)
    | extract_lets -underBinder
    | split
    | ((conv => arg 3; fail_if_success arg 1); refine Touches.set rfl rfl rfl rfl rfl ?_)
    | (conv => arg 3; dsimp -zeta -proj +zetaDelta only)

theorem damCreate_touches (u : Uid) (client : Nat) (s : State) : Touches [.free, .out, .reg, .irq, .od, .tak, .net, .spl, .pdb, .cpu] s (damCreate u client s).2 := by
  unfold damCreate
  with_reducible repeat' first
    | (extract_lets -underBinder +onlyGivenNames x; refine Touches.mp (t := x) ?_ ?bb; case' bb => clear_value x; revert x; refine Touches.keep ?_; intro _ _)
    | exact Touches.refl _ _
    | assumption
    | refine Touches.ite (fun _ => ?_) (fun _ => ?_)
    | ((conv => arg 3; arg 1; (fail_if_success arg 3); arg 2); refine Touches.pair ?_)
    | refine Touches.iteSnd ?_ ?_
    | refine (setSess_touches ..).after (by decide) ?_
    | refine (bumpOd_touches ..).after (by decide) ?_
    | refine (dropSession_touches ..).after (by decide) ?_
    | refine Touches.foldl (fun _ _ _ => ?_) ?_
    | extract_lets -underBinder
    | split
    | (conv => arg 3; dsimp -zeta -proj +zetaDelta only)

theorem damExamine_touches (i : Session) (via : Mac × Nat) (p : List Byte) (s : State) : Touches [.free, .out, .reg, .irq, .od, .net, .spl, .pdb, .cpu] s (damExamine i via p s) := by
  unfold damExamine
  with_reducible repeat' first
    | (extract_lets -underBinder +onlyGivenNames x; refine Touches.mp (t := x) ?_ ?bb; case' bb => clear_value x; revert x; refine Touches.keep ?_; intro _ _)
    | exact Touches.refl _ _
    | assumption
    | refine Touches.ite (fun _ => ?_) (fun _ => ?_)
    | refine (sendRsp_touches ..).after (by decide) ?_
    | refine (finish_touches ..).after (by decide) ?_
    | refine (enqueueReq_touches ..).after (by decide) ?_
    | refine Touches.foldl (fun _ _ _ => ?_) ?_
    | extract_lets -underBinder
    | split
    | (conv => arg 3; dsimp -zeta -proj +zetaDelta only)

theorem damSession_touches (src : Uid) (client : Nat) (s : State) : Touches [.free, .out, .reg, .irq, .od, .tak, .net, .spl, .pdb, .cpu] s (damSession src client s).2 := by
  unfold damSession
  with_reducible repeat' first
    | exact Touches.refl _ _
    | assumption
    | refine Touches.ite (fun _ => ?_) (fun _ => ?_)
    | ((conv => arg 3; arg 1; (fail_if_success arg 3); arg 2); refine Touches.pair ?_)
    | refine Touches.iteSnd ?_ ?_
    | refine (damCreate_touches ..).after (by decide) ?_
    | refine (Touches.ofPair ‹damCreate _ _ _ = _› (damCreate_touches ..)).after (by decide) ?_
    | refine Touches.foldl (fun _ _ _ => ?_) ?_
    | extract_lets -underBinder
    | split
    | (conv => arg 3; dsimp -zeta -proj +zetaDelta only)

theorem damPayload_touches (port : Nat) (mac : Mac) (src : Uid) (p : List Byte) (s : State) : Touches [.free, .out, .reg, .irq, .od, .tak, .net, .spl, .pdb, .cpu] s (damPayload port mac src p s) := by
  unfold damPayload
  with_reducible repeat' first
    | exact Touches.refl _ _
    | assumption
    | refine Touches.ite (fun _ => ?_) (fun _ => ?_)
    | refine (setSess_touches ..).after (by decide) ?_
    | refine (bumpOd_touches ..).after (by decide) ?_
    | refine (damExamine_touches ..).after (by decide) ?_
    | refine (damSession_touches ..).after (by decide) ?_
    | refine (Touches.ofPair ‹damSession _ _ _ = _› (damSession_touches ..)).after (by decide) ?_
    | refine Touches.foldl (fun _ _ _ => ?_) ?_
    | extract_lets -underBinder
    | split
    | (conv => arg 3; dsimp -zeta -proj +zetaDelta only)

end Sys2Proof.Machine
end

