-- ==== Sys2Proof/Laws/Arrival.lean ====
section
/-!
SUPPORT. Laws/Arrival.lean: the frame of every operation of Machine/Arrival.lean: which parts of the state it may change, and that it keeps the bounds.
-/
namespace Sys2Proof.Machine

set_option Elab.async false
set_option linter.all false

theorem checkersDisagree_touches (first : Bool) (s : State) : Touches [.free, .out, .node, .reg, .irq, .pwr, .hpl, .log, .od, .tak, .wak, .tln, .bb, .net, .ina, .tim, .spl, .chk, .pdb, .cpu] s (checkersDisagree first s) := by
  unfold checkersDisagree
  with_reducible repeat' first
    | (extract_lets -underBinder +onlyGivenNames x; refine Touches.mp (t := x) ?_ ?bb; case' bb => clear_value x; revert x; refine Touches.keep ?_; intro _ _)
    | exact Touches.refl _ _
    | assumption
    | refine Touches.ite (fun _ => ?_) (fun _ => ?_)
    | refine (bump_touches ..).after (by decide) ?_
    | refine (raiseIrq_touches ..).after (by decide) ?_
    | refine (fire_touches ..).after (by decide) ?_
    | refine (checkDrop_touches ..).after (by decide) ?_
    | refine (enterFault_touches ..).after (by decide) ?_
    | refine Touches.foldl (fun _ _ _ => ?_) ?_
    | ((conv => arg 3; arg 29); first | refine Touches.set rfl rfl rfl rfl rfl ?_)
    | extract_lets -underBinder
    | split
    | ((conv => arg 3; fail_if_success arg 1); refine Touches.set rfl rfl rfl rfl rfl ?_)
    | (conv => arg 3; dsimp -zeta -proj +zetaDelta only)

theorem answerSend_touches (port : Nat) (mac : Mac) (a : Bulis) (s : State) : Touches [.free, .out, .reg, .irq, .net, .cpu] s (answerSend port mac a s) := by
  unfold answerSend
  with_reducible repeat' first
    | (extract_lets -underBinder +onlyGivenNames x; refine Touches.mp (t := x) ?_ ?bb; case' bb => clear_value x; revert x; refine Touches.keep ?_; intro _ _)
    | exact Touches.refl _ _
    | assumption
    | refine Touches.ite (fun _ => ?_) (fun _ => ?_)
    | refine (countIn_touches ..).after (by decide) ?_
    | refine (sendOn_touches ..).after (by decide) ?_
    | refine (bulisOut_touches ..).after (by decide) ?_
    | refine Touches.foldl (fun _ _ _ => ?_) ?_
    | extract_lets -underBinder
    | split
    | (conv => arg 3; dsimp -zeta -proj +zetaDelta only)

theorem modRecv_touches (u : Uid) (stream : Nat) (f : RecvSt → RecvSt) (s : State) : Touches [.spl] s (modRecv u stream f s) := by
  unfold modRecv
  with_reducible repeat' first
    | exact Touches.refl _ _
    | assumption
    | refine Touches.ite (fun _ => ?_) (fun _ => ?_)
    | refine (setRecv_touches ..).after (by decide) ?_
    | refine Touches.foldl (fun _ _ _ => ?_) ?_
    | extract_lets -underBinder
    | split
    | (conv => arg 3; dsimp -zeta -proj +zetaDelta only)

theorem respondTo_touches (b : Bulis) (status : Nat) (data : List Byte) (s : State) : Touches [.free, .out, .reg, .irq, .net, .spl, .cpu] s (respondTo b status data s) := by
  unfold respondTo
  with_reducible repeat' first
    | (extract_lets -underBinder +onlyGivenNames x; refine Touches.mp (t := x) ?_ ?bb; case' bb => clear_value x; revert x; refine Touches.keep ?_; intro _ _)
    | exact Touches.refl _ _
    | assumption
    | refine Touches.ite (fun _ => ?_) (fun _ => ?_)
    | refine (answerSend_touches ..).after (by decide) ?_
    | refine (modRecv_touches ..).after (by decide) ?_
    | refine Touches.foldl (fun _ _ _ => ?_) ?_
    | ((conv => arg 3; arg 29); first | refine Touches.set rfl rfl rfl rfl rfl ?_)
    | extract_lets -underBinder
    | split
    | ((conv => arg 3; fail_if_success arg 1); refine Touches.set rfl rfl rfl rfl rfl ?_)
    | (conv => arg 3; dsimp -zeta -proj +zetaDelta only)

theorem answerAgain_touches (b : Bulis) (s : State) : Touches [.free, .out, .reg, .irq, .net, .cpu] s (answerAgain b s) := by
  unfold answerAgain
  with_reducible repeat' first
    | (extract_lets -underBinder +onlyGivenNames x; refine Touches.mp (t := x) ?_ ?bb; case' bb => clear_value x; revert x; refine Touches.keep ?_; intro _ _)
    | exact Touches.refl _ _
    | assumption
    | refine Touches.ite (fun _ => ?_) (fun _ => ?_)
    | refine (bump_touches ..).after (by decide) ?_
    | refine (answerSend_touches ..).after (by decide) ?_
    | refine Touches.foldl (fun _ _ _ => ?_) ?_
    | extract_lets -underBinder
    | split
    | (conv => arg 3; dsimp -zeta -proj +zetaDelta only)

theorem takeIn_touches (src : Uid) (type : Nat) (p : List Byte) (s : State) : Touches [.now, .up, .free, .out, .node, .reg, .irq, .pwr, .hpl, .log, .od, .tak, .wak, .tln, .bb, .net, .ina, .tim, .spl, .chk, .pdb, .cpu] s (takeIn src type p s) := by
  unfold takeIn
  with_reducible repeat' first
    | exact Touches.refl _ _
    | assumption
    | refine Touches.ite (fun _ => ?_) (fun _ => ?_)
    | refine (prepareIn_touches ..).after (by decide) ?_
    | refine (printIn_touches ..).after (by decide) ?_
    | refine (scrapIn_touches ..).after (by decide) ?_
    | refine (voteIn_touches ..).after (by decide) ?_
    | refine (queryIn_touches ..).after (by decide) ?_
    | refine (replyIn_touches ..).after (by decide) ?_
    | refine Touches.foldl (fun _ _ _ => ?_) ?_
    | extract_lets -underBinder
    | split
    | (conv => arg 3; dsimp -zeta -proj +zetaDelta only)

theorem inaugurationIn_touches (port : Nat) (mac : Mac) (p : List Byte) (s : State) : Touches [.free, .out, .node, .reg, .irq, .net, .ina, .tim, .spl, .cpu] s (inaugurationIn port mac p s) := by
  unfold inaugurationIn
  with_reducible repeat' first
    | exact Touches.refl _ _
    | assumption
    | refine Touches.ite (fun _ => ?_) (fun _ => ?_)
    | refine (neighbourIn_touches ..).after (by decide) ?_
    | refine (recordIn_touches ..).after (by decide) ?_
    | refine (pump_touches ..).after (by decide) ?_
    | refine Touches.foldl (fun _ _ _ => ?_) ?_
    | extract_lets -underBinder
    | split
    | (conv => arg 3; dsimp -zeta -proj +zetaDelta only)

theorem messageIn_touches (port : Nat) (mac : Mac) (b : Bulis) (s : State) : Touches [.now, .up, .free, .out, .node, .reg, .irq, .pwr, .hpl, .log, .od, .tak, .wak, .tln, .bb, .net, .ina, .tim, .spl, .chk, .pdb, .cpu] s (messageIn port mac b s) := by
  unfold messageIn
  with_reducible repeat' first
    | exact Touches.refl _ _
    | assumption
    | refine Touches.ite (fun _ => ?_) (fun _ => ?_)
    | refine (ringIn_touches ..).after (by decide) ?_
    | refine (damPayload_touches ..).after (by decide) ?_
    | refine (takeIn_touches ..).after (by decide) ?_
    | refine (inaugurationIn_touches ..).after (by decide) ?_
    | refine Touches.foldl (fun _ _ _ => ?_) ?_
    | extract_lets -underBinder
    | split
    | (conv => arg 3; dsimp -zeta -proj +zetaDelta only)

theorem applyFrame_touches (port : Nat) (mac : Mac) (ecc : List Word) (b : Bulis) (s : State) : Touches [.now, .up, .free, .out, .node, .reg, .irq, .pwr, .hpl, .log, .od, .tak, .wak, .tln, .bb, .net, .ina, .tim, .spl, .chk, .pdb, .cpu] s (applyFrame port mac ecc b s) := by
  unfold applyFrame
  with_reducible repeat' first
    | (extract_lets -underBinder +onlyGivenNames x; refine Touches.mp (t := x) ?_ ?bb; case' bb => clear_value x; revert x; refine Touches.keep ?_; intro _ _)
    | exact Touches.refl _ _
    | assumption
    | refine Touches.ite (fun _ => ?_) (fun _ => ?_)
    | refine (targetApply_touches ..).after (by decide) ?_
    | refine (Touches.ofPair2 ‹targetApply _ _ _ _ _ _ = _› (targetApply_touches ..)).after (by decide) ?_
    | refine (respondTo_touches ..).after (by decide) ?_
    | refine (messageIn_touches ..).after (by decide) ?_
    | refine Touches.foldl (fun _ _ _ => ?_) ?_
    | extract_lets -underBinder
    | split
    | (conv => arg 3; dsimp -zeta -proj +zetaDelta only)

theorem turnOf_touches (port : Nat) (mac : Mac) (ecc : List Word) (b : Bulis) (s : State) : Touches [.now, .up, .free, .out, .node, .reg, .irq, .pwr, .hpl, .log, .od, .tak, .wak, .tln, .bb, .net, .ina, .tim, .spl, .chk, .pdb, .cpu] s (turnOf port mac ecc b s).2 := by
  unfold turnOf
  with_reducible repeat' first
    | (extract_lets -underBinder +onlyGivenNames x; refine Touches.mp (t := x) ?_ ?bb; case' bb => clear_value x; revert x; refine Touches.keep ?_; intro _ _)
    | exact Touches.refl _ _
    | assumption
    | refine Touches.ite (fun _ => ?_) (fun _ => ?_)
    | ((conv => arg 3; arg 1; (fail_if_success arg 3); arg 2); refine Touches.pair ?_)
    | refine Touches.iteSnd ?_ ?_
    | refine (bump_touches ..).after (by decide) ?_
    | refine (modRecv_touches ..).after (by decide) ?_
    | refine (applyFrame_touches ..).after (by decide) ?_
    | refine Touches.foldl (fun _ _ _ => ?_) ?_
    | extract_lets -underBinder
    | split
    | (conv => arg 3; dsimp -zeta -proj +zetaDelta only)

theorem releaseHeld_touches (port : Nat) (mac : Mac) (ecc : List Word) (u : Uid) (stream n : Nat) (s : State) :
    Touches [.now, .up, .free, .out, .node, .reg, .irq, .pwr, .hpl, .log, .od, .tak, .wak, .tln, .bb, .net, .ina, .tim, .spl, .chk, .pdb, .cpu] s (releaseHeld port mac ecc u stream n s) := by
  induction n generalizing s with
  | zero => exact Touches.refl _ _
  | succ n ih =>
    unfold releaseHeld
    with_reducible repeat' first
    | refine (ih ..).after (by decide) ?_
    | (extract_lets -underBinder +onlyGivenNames x; refine Touches.mp (t := x) ?_ ?bb; case' bb => clear_value x; revert x; refine Touches.keep ?_; intro _ _)
    | exact Touches.refl _ _
    | assumption
    | refine Touches.ite (fun _ => ?_) (fun _ => ?_)
    | refine (turnOf_touches ..).after (by decide) ?_
    | refine (Touches.ofPair ‹turnOf _ _ _ _ _ = _› (turnOf_touches ..)).after (by decide) ?_
    | refine Touches.foldl (fun _ _ _ => ?_) ?_
    | extract_lets -underBinder
    | split
    | (conv => arg 3; dsimp -zeta -proj +zetaDelta only)

theorem openRecv_touches (port : Nat) (mac : Mac) (b : Bulis) (s : State) : Touches [.spl] s (openRecv port mac b s) := by
  unfold openRecv
  with_reducible repeat' first
    | (extract_lets -underBinder +onlyGivenNames x; refine Touches.mp (t := x) ?_ ?bb; case' bb => clear_value x; revert x; refine Touches.keep ?_; intro _ _)
    | exact Touches.refl _ _
    | assumption
    | refine Touches.ite (fun _ => ?_) (fun _ => ?_)
    | refine (setRecv_touches ..).after (by decide) ?_
    | refine Touches.foldl (fun _ _ _ => ?_) ?_
    | extract_lets -underBinder
    | split
    | (conv => arg 3; dsimp -zeta -proj +zetaDelta only)

theorem fenceIn_touches (port : Nat) (mac : Mac) (b : Bulis) (s : State) : Touches [.free, .out, .reg, .irq, .net, .spl, .cpu] s (fenceIn port mac b s) := by
  unfold fenceIn
  with_reducible repeat' first
    | (extract_lets -underBinder +onlyGivenNames x; refine Touches.mp (t := x) ?_ ?bb; case' bb => clear_value x; revert x; refine Touches.keep ?_; intro _ _)
    | exact Touches.refl _ _
    | assumption
    | refine Touches.ite (fun _ => ?_) (fun _ => ?_)
    | refine (bumpBy_touches ..).after (by decide) ?_
    | refine (setRecv_touches ..).after (by decide) ?_
    | refine (freeSems_touches ..).after (by decide) ?_
    | refine (respondTo_touches ..).after (by decide) ?_
    | refine Touches.foldl (fun _ _ _ => ?_) ?_
    | extract_lets -underBinder
    | split
    | (conv => arg 3; dsimp -zeta -proj +zetaDelta only)

theorem holdFrame_touches (b : Bulis) (r : RecvSt) (s : State) : Touches [.reg, .spl] s (holdFrame b r s) := by
  unfold holdFrame
  with_reducible repeat' first
    | exact Touches.refl _ _
    | assumption
    | refine Touches.ite (fun _ => ?_) (fun _ => ?_)
    | refine (bump_touches ..).after (by decide) ?_
    | refine (setRecv_touches ..).after (by decide) ?_
    | refine Touches.foldl (fun _ _ _ => ?_) ?_
    | extract_lets -underBinder
    | split
    | (conv => arg 3; dsimp -zeta -proj +zetaDelta only)

theorem unicastIn_touches (port : Nat) (mac : Mac) (ecc : List Word) (b : Bulis) (s : State) : Touches [.now, .up, .free, .out, .node, .reg, .irq, .pwr, .hpl, .log, .od, .tak, .wak, .tln, .bb, .net, .ina, .tim, .spl, .chk, .pdb, .cpu] s (unicastIn port mac ecc b s) := by
  unfold unicastIn
  with_reducible repeat' first
    | (extract_lets -underBinder +onlyGivenNames x; refine Touches.mp (t := x) ?_ ?bb; case' bb => clear_value x; revert x; refine Touches.keep ?_; intro _ _)
    | exact Touches.refl _ _
    | assumption
    | refine Touches.ite (fun _ => ?_) (fun _ => ?_)
    | refine (bump_touches ..).after (by decide) ?_
    | refine (answerAgain_touches ..).after (by decide) ?_
    | refine (turnOf_touches ..).after (by decide) ?_
    | refine (Touches.ofPair ‹turnOf _ _ _ _ _ = _› (turnOf_touches ..)).after (by decide) ?_
    | refine (releaseHeld_touches ..).after (by decide) ?_
    | refine (openRecv_touches ..).after (by decide) ?_
    | refine (fenceIn_touches ..).after (by decide) ?_
    | refine (holdFrame_touches ..).after (by decide) ?_
    | refine Touches.foldl (fun _ _ _ => ?_) ?_
    | extract_lets -underBinder
    | split
    | (conv => arg 3; dsimp -zeta -proj +zetaDelta only)

theorem groupIn_touches (port : Nat) (mac : Mac) (b : Bulis) (s : State) : Touches [.now, .up, .free, .out, .node, .reg, .irq, .pwr, .hpl, .log, .od, .tak, .wak, .tln, .bb, .net, .ina, .tim, .spl, .chk, .pdb, .cpu] s (groupIn port mac b s) := by
  unfold groupIn
  with_reducible repeat' first
    | (extract_lets -underBinder +onlyGivenNames x; refine Touches.mp (t := x) ?_ ?bb; case' bb => clear_value x; revert x; refine Touches.keep ?_; intro _ _)
    | exact Touches.refl _ _
    | assumption
    | refine Touches.ite (fun _ => ?_) (fun _ => ?_)
    | refine (bump_touches ..).after (by decide) ?_
    | refine (setRecv_touches ..).after (by decide) ?_
    | refine (messageIn_touches ..).after (by decide) ?_
    | refine Touches.foldl (fun _ _ _ => ?_) ?_
    | extract_lets -underBinder
    | split
    | (conv => arg 3; dsimp -zeta -proj +zetaDelta only)

theorem staleFrame_touches (port : Nat) (mac : Mac) (b : Bulis) (s : State) : Touches [.free, .out, .reg, .irq, .net, .cpu] s (staleFrame port mac b s) := by
  unfold staleFrame
  with_reducible repeat' first
    | (extract_lets -underBinder +onlyGivenNames x; refine Touches.mp (t := x) ?_ ?bb; case' bb => clear_value x; revert x; refine Touches.keep ?_; intro _ _)
    | exact Touches.refl _ _
    | assumption
    | refine Touches.ite (fun _ => ?_) (fun _ => ?_)
    | refine (bump_touches ..).after (by decide) ?_
    | refine (answerSend_touches ..).after (by decide) ?_
    | refine Touches.foldl (fun _ _ _ => ?_) ?_
    | extract_lets -underBinder
    | split
    | (conv => arg 3; dsimp -zeta -proj +zetaDelta only)

theorem acceptedFrame_touches (port : Nat) (mac : Mac) (ecc : List Word) (b : Bulis) (s : State) : Touches [.now, .up, .free, .out, .node, .reg, .irq, .pwr, .hpl, .log, .od, .tak, .wak, .tln, .bb, .net, .ina, .tim, .spl, .chk, .pdb, .cpu] s (acceptedFrame port mac ecc b s) := by
  unfold acceptedFrame
  with_reducible repeat' first
    | exact Touches.refl _ _
    | assumption
    | refine Touches.ite (fun _ => ?_) (fun _ => ?_)
    | refine (ackIn_touches ..).after (by decide) ?_
    | refine (completionIn_touches ..).after (by decide) ?_
    | refine (unicastIn_touches ..).after (by decide) ?_
    | refine (groupIn_touches ..).after (by decide) ?_
    | refine Touches.foldl (fun _ _ _ => ?_) ?_
    | extract_lets -underBinder
    | split
    | (conv => arg 3; dsimp -zeta -proj +zetaDelta only)

theorem bulisIn_touches (port : Nat) (mac : Mac) (b : Bulis) (agree : Bool) (ecc : List Word) (s : State) : Touches [.now, .up, .free, .out, .node, .reg, .irq, .pwr, .hpl, .log, .od, .tak, .wak, .tln, .bb, .net, .ina, .tim, .spl, .chk, .pdb, .cpu] s (bulisIn port mac b agree ecc s) := by
  unfold bulisIn
  with_reducible repeat' first
    | (extract_lets -underBinder +onlyGivenNames x; refine Touches.mp (t := x) ?_ ?bb; case' bb => clear_value x; revert x; refine Touches.keep ?_; intro _ _)
    | exact Touches.refl _ _
    | assumption
    | refine Touches.ite (fun _ => ?_) (fun _ => ?_)
    | refine (headerDrop_touches ..).after (by decide) ?_
    | refine (checkDrop_touches ..).after (by decide) ?_
    | refine (bumpOd_touches ..).after (by decide) ?_
    | refine (checkersDisagree_touches ..).after (by decide) ?_
    | refine (staleFrame_touches ..).after (by decide) ?_
    | refine (acceptedFrame_touches ..).after (by decide) ?_
    | refine Touches.foldl (fun _ _ _ => ?_) ?_
    | extract_lets -underBinder
    | split
    | (conv => arg 3; dsimp -zeta -proj +zetaDelta only)

theorem execBulisFrameReceive_answers (port : Fin 20) (mac : Mac) (b : Bulis) (agree : Bool) (ecc : List Word) (s : State) : Answers [.now, .up, .free, .out, .node, .reg, .irq, .pwr, .hpl, .log, .od, .tak, .wak, .tln, .bb, .net, .ina, .tim, .spl, .chk, .pdb, .cpu] s (execBulisFrameReceive port mac b agree ecc s) := by
  unfold execBulisFrameReceive
  with_reducible repeat' first
    | refine Answers.next ?_
    | refine Answers.ite (fun _ => ?_) (fun _ => ?_)
    | exact Touches.refl _ _
    | assumption
    | refine Touches.ite (fun _ => ?_) (fun _ => ?_)
    | refine (bulisIn_touches ..).after (by decide) ?_
    | refine Touches.foldl (fun _ _ _ => ?_) ?_
    | extract_lets -underBinder
    | split
    | (conv => arg 3; dsimp -zeta -proj +zetaDelta only)

theorem execDamRequestReceive_answers (port : Fin 20) (mac : Mac) (b : Bulis) (s : State) : Answers [.now, .up, .free, .out, .node, .reg, .irq, .pwr, .hpl, .log, .od, .tak, .wak, .tln, .bb, .net, .ina, .tim, .spl, .chk, .pdb, .cpu] s (execDamRequestReceive port mac b s) := by
  unfold execDamRequestReceive
  with_reducible repeat' first
    | refine Answers.next ?_
    | refine Answers.ite (fun _ => ?_) (fun _ => ?_)
    | exact Touches.refl _ _
    | assumption
    | refine Touches.ite (fun _ => ?_) (fun _ => ?_)
    | refine (bulisIn_touches ..).after (by decide) ?_
    | refine Touches.foldl (fun _ _ _ => ?_) ?_
    | extract_lets -underBinder
    | split
    | (conv => arg 3; dsimp -zeta -proj +zetaDelta only)

theorem budgetEnd_touches (o : Op) (code : Nat) (s : State) : Touches [.out, .reg, .irq, .wak, .spl, .cpu] s (budgetEnd o code s) := by
  unfold budgetEnd
  with_reducible repeat' first
    | exact Touches.refl _ _
    | assumption
    | refine Touches.ite (fun _ => ?_) (fun _ => ?_)
    | refine (bump_touches ..).after (by decide) ?_
    | refine (closeOne_touches ..).after (by decide) ?_
    | refine (ringHopFailed_touches ..).after (by decide) ?_
    | refine Touches.foldl (fun _ _ _ => ?_) ?_
    | extract_lets -underBinder
    | split
    | (conv => arg 3; dsimp -zeta -proj +zetaDelta only)

theorem execRetryBudgetExpiry_answers (u : Uid) (stream : Byte) (q : Option Word) (s : State) : Answers [.now, .up, .free, .out, .reg, .irq, .log, .wak, .net, .spl, .cpu] s (execRetryBudgetExpiry u stream q s) := by
  unfold execRetryBudgetExpiry
  with_reducible repeat' first
    | refine Answers.next ?_
    | refine Answers.ite (fun _ => ?_) (fun _ => ?_)
    | exact Touches.refl _ _
    | assumption
    | refine Touches.ite (fun _ => ?_) (fun _ => ?_)
    | refine (passTo_touches ..).after (by decide) ?_
    | refine (pump_touches ..).after (by decide) ?_
    | refine (fencesGoOn_touches ..).after (by decide) ?_
    | refine (budgetEnd_touches ..).after (by decide) ?_
    | refine Touches.foldl (fun _ _ _ => ?_) ?_
    | extract_lets -underBinder
    | split
    | (conv => arg 3; dsimp -zeta -proj +zetaDelta only)

end Sys2Proof.Machine
end

