-- ==== Sys2Proof/Laws/RegWrite.lean ====
section
/-!
SUPPORT. Laws/RegWrite.lean: the frame of every operation of Machine/RegWrite.lean: which parts of the state it may change, and that it keeps the bounds.
-/
namespace Sys2Proof.Machine

set_option Elab.async false
set_option linter.all false

theorem rwtWrite_touches (who : Requester) (l : List RwtField) (v : Word) (s : State) : Touches [.reg, .od, .tak] s (rwtWrite who l v s) := by
  unfold rwtWrite
  with_reducible repeat' first
    | (extract_lets -underBinder +onlyGivenNames x; refine Touches.mp (t := x) ?_ ?bb; case' bb => clear_value x; revert x; refine Touches.keep ?_; intro _ _)
    | exact Touches.refl _ _
    | assumption
    | refine Touches.ite (fun _ => ?_) (fun _ => ?_)
    | refine (bump_touches ..).after (by decide) ?_
    | refine (setSess_touches ..).after (by decide) ?_
    | refine (renewTake_touches ..).after (by decide) ?_
    | refine Touches.foldl (fun _ _ _ => ?_) ?_
    | ((conv => arg 3; arg 29); first | refine Touches.tak_set (by decide) ?_ | refine Touches.set rfl rfl rfl rfl rfl ?_)
    | extract_lets -underBinder
    | split
    | ((conv => arg 3; fail_if_success arg 1); refine Touches.set rfl rfl rfl rfl rfl ?_)
    | (conv => arg 3; dsimp -zeta -proj +zetaDelta only)

theorem onBit_touches {k : List Blk} {v : Word} {i : Nat} {f : State → State} {s t : State} (hk : Blk.sub [] k = true)
    (hf : ∀ u, Touches k s u → Touches k s (f u)) (h : Touches k s t) : Touches k s (onBit v i f t) :=
  Touches.ite (fun _ => hf _ h) (fun _ => h)

theorem writeIdIrq_touches (a : Nat) (v : Word) (s : State) : Touches [.out, .reg, .irq] s (writeIdIrq a v s) := by
  unfold writeIdIrq
  with_reducible repeat' first
    | (extract_lets -underBinder +onlyGivenNames x; refine Touches.mp (t := x) ?_ ?bb; case' bb => clear_value x; revert x; refine Touches.keep ?_; intro _ _)
    | exact Touches.refl _ _
    | assumption
    | refine Touches.ite (fun _ => ?_) (fun _ => ?_)
    | refine (setReg_touches ..).after (by decide) ?_
    | refine (flushPba_touches ..).after (by decide) ?_
    | refine (causeClear_touches ..).after (by decide) ?_
    | refine (maskWrite_touches ..).after (by decide) ?_
    | refine (vecWrite_touches ..).after (by decide) ?_
    | refine Touches.foldl (fun _ _ _ => ?_) ?_
    | ((conv => arg 3; arg 29); first | refine Touches.irq_set (by decide) ?_ | refine Touches.set rfl rfl rfl rfl rfl ?_)
    | extract_lets -underBinder
    | split
    | ((conv => arg 3; fail_if_success arg 1); refine Touches.set rfl rfl rfl rfl rfl ?_)
    | (conv => arg 3; dsimp -zeta -proj +zetaDelta only)

theorem writePwr_touches (o : Nat) (v : Word) (s : State) : Touches [.free, .out, .node, .reg, .irq, .pwr, .log, .od, .tak, .wak, .tln, .bb, .net, .ina, .tim, .spl, .chk, .pdb, .cpu] s (writePwr o v s) := by
  unfold writePwr
  with_reducible repeat' first
    | (extract_lets -underBinder +onlyGivenNames x; refine Touches.mp (t := x) ?_ ?bb; case' bb => clear_value x; revert x; refine Touches.keep ?_; intro _ _)
    | exact Touches.refl _ _
    | assumption
    | refine Touches.ite (fun _ => ?_) (fun _ => ?_)
    | refine (domFaultClear_touches ..).after (by decide) ?_
    | refine (setLoop_touches ..).after (by decide) ?_
    | refine onBit_touches (by decide) (fun _ _ => ?_) ?_
    | refine Touches.foldl (fun _ _ _ => ?_) ?_
    | extract_lets -underBinder
    | split
    | (conv => arg 3; dsimp -zeta -proj +zetaDelta only)

theorem writeHpl_touches (o : Nat) (v : Word) (s : State) : Touches [.now, .up, .free, .out, .node, .fwVersion, .reg, .irq, .pwr, .hpl, .log, .od, .tak, .wak, .tln, .bb, .net, .ina, .tim, .spl, .chk, .pdb, .cpu] s (writeHpl o v s) := by
  unfold writeHpl
  with_reducible repeat' first
    | (extract_lets -underBinder +onlyGivenNames x; refine Touches.mp (t := x) ?_ ?bb; case' bb => clear_value x; revert x; refine Touches.keep ?_; intro _ _)
    | exact Touches.refl _ _
    | assumption
    | refine Touches.ite (fun _ => ?_) (fun _ => ?_)
    | refine (warn_touches ..).after (by decide) ?_
    | refine (doHostDone_touches ..).after (by decide) ?_
    | refine (askReset_touches ..).after (by decide) ?_
    | refine onBit_touches (by decide) (fun _ _ => ?_) ?_
    | refine Touches.foldl (fun _ _ _ => ?_) ?_
    | ((conv => arg 3; arg 29); first | refine Touches.hpl_set (by decide) ?_ | refine Touches.set rfl rfl rfl rfl rfl ?_)
    | extract_lets -underBinder
    | split
    | ((conv => arg 3; fail_if_success arg 1); refine Touches.set rfl rfl rfl rfl rfl ?_)
    | (conv => arg 3; dsimp -zeta -proj +zetaDelta only)

theorem writeWak_touches (o : Nat) (v : Word) (s : State) : Touches [.out, .reg, .irq, .wak, .bb, .cpu] s (writeWak o v s) := by
  unfold writeWak
  with_reducible repeat' first
    | exact Touches.refl _ _
    | assumption
    | refine Touches.ite (fun _ => ?_) (fun _ => ?_)
    | refine (stayAwake_touches ..).after (by decide) ?_
    | refine onBit_touches (by decide) (fun _ _ => ?_) ?_
    | refine Touches.foldl (fun _ _ _ => ?_) ?_
    | ((conv => arg 3; arg 29); first | refine Touches.wak_set (by decide) ?_ | refine Touches.set rfl rfl rfl rfl rfl ?_)
    | extract_lets -underBinder
    | split
    | ((conv => arg 3; fail_if_success arg 1); refine Touches.set rfl rfl rfl rfl rfl ?_)
    | (conv => arg 3; dsimp -zeta -proj +zetaDelta only)

theorem mbxCommand_touches (n : Nat) (s : State) : Touches [.free, .out, .reg, .irq, .od, .net, .spl, .pdb, .cpu] s (mbxCommand n s) := by
  unfold mbxCommand
  with_reducible repeat' first
    | (extract_lets -underBinder +onlyGivenNames x; refine Touches.mp (t := x) ?_ ?bb; case' bb => clear_value x; revert x; refine Touches.keep ?_; intro _ _)
    | exact Touches.refl _ _
    | assumption
    | refine Touches.ite (fun _ => ?_) (fun _ => ?_)
    | refine (finish_touches ..).after (by decide) ?_
    | refine (enqueueReq_touches ..).after (by decide) ?_
    | refine Touches.foldl (fun _ _ _ => ?_) ?_
    | ((conv => arg 3; arg 29); first | refine Touches.od_set (by decide) ?_ | refine Touches.set rfl rfl rfl rfl rfl ?_)
    | extract_lets -underBinder
    | split
    | ((conv => arg 3; fail_if_success arg 1); refine Touches.set rfl rfl rfl rfl rfl ?_)
    | (conv => arg 3; dsimp -zeta -proj +zetaDelta only)

theorem writeOdx_touches (o : Nat) (v : Word) (s : State) : Touches [.free, .out, .reg, .irq, .od, .net, .spl, .pdb, .cpu] s (writeOdx o v s) := by
  unfold writeOdx
  with_reducible repeat' first
    | exact Touches.refl _ _
    | assumption
    | refine Touches.ite (fun _ => ?_) (fun _ => ?_)
    | refine (setReg_touches ..).after (by decide) ?_
    | refine onBit_touches (by decide) (fun _ _ => ?_) ?_
    | refine (mbxCommand_touches ..).after (by decide) ?_
    | refine Touches.foldl (fun _ _ _ => ?_) ?_
    | ((conv => arg 3; arg 29); first | refine Touches.od_set (by decide) ?_ | refine Touches.set rfl rfl rfl rfl rfl ?_)
    | extract_lets -underBinder
    | split
    | ((conv => arg 3; fail_if_success arg 1); refine Touches.set rfl rfl rfl rfl rfl ?_)
    | (conv => arg 3; dsimp -zeta -proj +zetaDelta only)

theorem writeTak_touches (o : Nat) (v : Word) (s : State) : Touches [.tak] s (writeTak o v s) := by
  unfold writeTak
  with_reducible repeat' first
    | exact Touches.refl _ _
    | assumption
    | refine Touches.ite (fun _ => ?_) (fun _ => ?_)
    | refine onBit_touches (by decide) (fun _ _ => ?_) ?_
    | refine Touches.foldl (fun _ _ _ => ?_) ?_
    | ((conv => arg 3; arg 29); first | refine Touches.tak_set (by decide) ?_ | refine Touches.set rfl rfl rfl rfl rfl ?_)
    | extract_lets -underBinder
    | split
    | ((conv => arg 3; fail_if_success arg 1); refine Touches.set rfl rfl rfl rfl rfl ?_)
    | (conv => arg 3; dsimp -zeta -proj +zetaDelta only)

theorem writeHalf_touches (p i : Nat) (v : Word) (s : State) : Touches [.out, .reg, .irq, .net, .cpu] s (writeHalf p i v s) := by
  unfold writeHalf
  with_reducible repeat' first
    | (extract_lets -underBinder +onlyGivenNames x; refine Touches.mp (t := x) ?_ ?bb; case' bb => clear_value x; revert x; refine Touches.keep ?_; intro _ _)
    | exact Touches.refl _ _
    | assumption
    | refine Touches.ite (fun _ => ?_) (fun _ => ?_)
    | refine (raiseIrq_touches ..).after (by decide) ?_
    | refine (setMac_touches ..).after (by decide) ?_
    | refine (pauseCount_touches ..).after (by decide) ?_
    | refine Touches.foldl (fun _ _ _ => ?_) ?_
    | extract_lets -underBinder
    | split
    | (conv => arg 3; dsimp -zeta -proj +zetaDelta only)

theorem writePrt_touches (p o : Nat) (v : Word) (s : State) : Touches [.free, .out, .node, .reg, .irq, .log, .od, .wak, .bb, .net, .ina, .tim, .spl, .cpu] s (writePrt p o v s) := by
  unfold writePrt
  with_reducible repeat' first
    | exact Touches.refl _ _
    | assumption
    | refine Touches.ite (fun _ => ?_) (fun _ => ?_)
    | refine (setLink_touches ..).after (by decide) ?_
    | refine (macForceStop_touches ..).after (by decide) ?_
    | refine (verifyRestart_touches ..).after (by decide) ?_
    | refine (doLinkRestart_touches ..).after (by decide) ?_
    | refine onBit_touches (by decide) (fun _ _ => ?_) ?_
    | refine (writeHalf_touches ..).after (by decide) ?_
    | refine Touches.foldl (fun _ _ _ => ?_) ?_
    | extract_lets -underBinder
    | split
    | (conv => arg 3; dsimp -zeta -proj +zetaDelta only)

theorem maskRaises_touches (b : Nat) (newly : Bool) (s : State) : Touches [.out, .reg, .irq, .cpu] s (maskRaises b newly s) := by
  unfold maskRaises
  with_reducible repeat' first
    | exact Touches.refl _ _
    | assumption
    | refine Touches.ite (fun _ => ?_) (fun _ => ?_)
    | refine (raiseIrq_touches ..).after (by decide) ?_
    | refine Touches.foldl (fun _ _ _ => ?_) ?_
    | extract_lets -underBinder
    | split
    | (conv => arg 3; dsimp -zeta -proj +zetaDelta only)

theorem writeSch_touches (o : Nat) (v : Word) (s : State) : Touches [.out, .reg, .irq, .net, .cpu] s (writeSch o v s) := by
  unfold writeSch
  with_reducible repeat' first
    | (extract_lets -underBinder +onlyGivenNames x; refine Touches.mp (t := x) ?_ ?bb; case' bb => clear_value x; revert x; refine Touches.keep ?_; intro _ _)
    | exact Touches.refl _ _
    | assumption
    | refine Touches.ite (fun _ => ?_) (fun _ => ?_)
    | refine (maskRaises_touches ..).after (by decide) ?_
    | refine Touches.foldl (fun _ _ _ => ?_) ?_
    | ((conv => arg 3; arg 29); first | refine Touches.net_set (by decide) ?_ | refine Touches.set rfl rfl rfl rfl rfl ?_)
    | extract_lets -underBinder
    | split
    | ((conv => arg 3; fail_if_success arg 1); refine Touches.set rfl rfl rfl rfl rfl ?_)
    | (conv => arg 3; dsimp -zeta -proj +zetaDelta only)

theorem writeTim_touches (o : Nat) (v : Word) (s : State) : Touches [.tim] s (writeTim o v s) := by
  unfold writeTim
  with_reducible repeat' first
    | (extract_lets -underBinder +onlyGivenNames x; refine Touches.mp (t := x) ?_ ?bb; case' bb => clear_value x; revert x; refine Touches.keep ?_; intro _ _)
    | exact Touches.refl _ _
    | assumption
    | refine Touches.ite (fun _ => ?_) (fun _ => ?_)
    | refine (setPps_touches ..).after (by decide) ?_
    | refine (setCap_touches (by exact fun h => h)).after (by decide) ?_
    | refine onBit_touches (by decide) (fun _ _ => ?_) ?_
    | refine Touches.foldl (fun _ _ _ => ?_) ?_
    | extract_lets -underBinder
    | split
    | (conv => arg 3; dsimp -zeta -proj +zetaDelta only)

theorem writeIna_touches (o : Nat) (v : Word) (s : State) : Touches [.free, .out, .node, .reg, .irq, .log, .tak, .wak, .net, .ina, .spl, .cpu] s (writeIna o v s) := by
  unfold writeIna
  with_reducible repeat' first
    | (extract_lets -underBinder +onlyGivenNames x; refine Touches.mp (t := x) ?_ ?bb; case' bb => clear_value x; revert x; refine Touches.keep ?_; intro _ _)
    | exact Touches.refl _ _
    | assumption
    | refine Touches.ite (fun _ => ?_) (fun _ => ?_)
    | refine (inaRestart_touches ..).after (by decide) ?_
    | refine (Touches.ofPair ‹inaRestart _ = _› (inaRestart_touches ..)).after (by decide) ?_
    | refine (setInhibit_touches ..).after (by decide) ?_
    | refine onBit_touches (by decide) (fun _ _ => ?_) ?_
    | refine Touches.foldl (fun _ _ _ => ?_) ?_
    | ((conv => arg 3; arg 29); first | refine Touches.ina_set (by decide) ?_ | refine Touches.set rfl rfl rfl rfl rfl ?_)
    | extract_lets -underBinder
    | split
    | ((conv => arg 3; fail_if_success arg 1); refine Touches.set rfl rfl rfl rfl rfl ?_)
    | (conv => arg 3; dsimp -zeta -proj +zetaDelta only)

theorem owned_touches {k : List Blk} {who : Requester} {n : Nat} {f : State → State} {s t : State} (hk : Blk.sub [.reg] k = true)
    (hf : ∀ u, Touches k s u → Touches k s (f u)) (h : Touches k s t) : Touches k s (owned who n f t) :=
  Touches.ite (fun _ => (bump_touches ..).after hk h) (fun _ => hf _ h)

theorem writeSpl_touches (who : Requester) (o : Nat) (v : Word) (s : State) : Touches [.free, .out, .reg, .irq, .od, .net, .spl, .cpu] s (writeSpl who o v s) := by
  unfold writeSpl
  with_reducible repeat' first
    | exact Touches.refl _ _
    | assumption
    | refine Touches.ite (fun _ => ?_) (fun _ => ?_)
    | refine (splForce_touches ..).after (by decide) ?_
    | refine (doorbellSend_touches ..).after (by decide) ?_
    | refine (semAcquire_touches ..).after (by decide) ?_
    | refine (semRelease_touches ..).after (by decide) ?_
    | refine (cePop_touches ..).after (by decide) ?_
    | refine onBit_touches (by decide) (fun _ _ => ?_) ?_
    | refine owned_touches (by decide) (fun _ _ => ?_) ?_
    | refine Touches.foldl (fun _ _ _ => ?_) ?_
    | ((conv => arg 3; arg 29); first | refine Touches.set rfl rfl rfl rfl rfl ?_)
    | extract_lets -underBinder
    | split
    | ((conv => arg 3; fail_if_success arg 1); refine Touches.set rfl rfl rfl rfl rfl ?_)
    | (conv => arg 3; dsimp -zeta -proj +zetaDelta only)

theorem writeStm_touches (who : Requester) (o : Nat) (v : Word) (s : State) : Touches [.free, .out, .reg, .irq, .od, .net, .spl, .cpu] s (writeStm who o v s) := by
  unfold writeStm
  with_reducible repeat' first
    | exact Touches.refl _ _
    | assumption
    | refine Touches.ite (fun _ => ?_) (fun _ => ?_)
    | refine (abortWindow_touches ..).after (by decide) ?_
    | refine (winForce_touches ..).after (by decide) ?_
    | refine (stmForce_touches ..).after (by decide) ?_
    | refine (pwfPop_touches ..).after (by decide) ?_
    | refine (fenceMask_touches ..).after (by decide) ?_
    | refine eachBit_touches (fun _ _ _ => ?_) ?_
    | refine onBit_touches (by decide) (fun _ _ => ?_) ?_
    | refine owned_touches (by decide) (fun _ _ => ?_) ?_
    | refine Touches.foldl (fun _ _ _ => ?_) ?_
    | ((conv => arg 3; arg 29); first | refine Touches.set rfl rfl rfl rfl rfl ?_)
    | extract_lets -underBinder
    | split
    | ((conv => arg 3; fail_if_success arg 1); refine Touches.set rfl rfl rfl rfl rfl ?_)
    | (conv => arg 3; dsimp -zeta -proj +zetaDelta only)

theorem chkCtrl_touches (v : Word) (s : State) : Touches [.out, .reg, .irq, .chk, .cpu] s (chkCtrl v s) := by
  unfold chkCtrl
  with_reducible repeat' first
    | (extract_lets -underBinder +onlyGivenNames x; refine Touches.mp (t := x) ?_ ?bb; case' bb => clear_value x; revert x; refine Touches.keep ?_; intro _ _)
    | exact Touches.refl _ _
    | assumption
    | refine Touches.ite (fun _ => ?_) (fun _ => ?_)
    | refine (chkStart_touches ..).after (by decide) ?_
    | refine (chkFinish_touches ..).after (by decide) ?_
    | refine (chkGo_touches ..).after (by decide) ?_
    | refine (chkDisable_touches ..).after (by decide) ?_
    | refine onBit_touches (by decide) (fun _ _ => ?_) ?_
    | refine Touches.foldl (fun _ _ _ => ?_) ?_
    | ((conv => arg 3; arg 29); first | refine Touches.chk_set (by decide) ?_ | refine Touches.set rfl rfl rfl rfl rfl ?_)
    | extract_lets -underBinder
    | split
    | ((conv => arg 3; fail_if_success arg 1); refine Touches.set rfl rfl rfl rfl rfl ?_)
    | (conv => arg 3; dsimp -zeta -proj +zetaDelta only)

theorem writeChk_touches (who : Requester) (o : Nat) (v : Word) (s : State) : Touches [.out, .reg, .irq, .chk, .cpu] s (writeChk who o v s) := by
  unfold writeChk
  with_reducible repeat' first
    | (extract_lets -underBinder +onlyGivenNames x; refine Touches.mp (t := x) ?_ ?bb; case' bb => clear_value x; revert x; refine Touches.keep ?_; intro _ _)
    | exact Touches.refl _ _
    | assumption
    | refine Touches.ite (fun _ => ?_) (fun _ => ?_)
    | refine (chkData_touches ..).after (by decide) ?_
    | refine owned_touches (by decide) (fun _ _ => ?_) ?_
    | refine (chkCtrl_touches ..).after (by decide) ?_
    | refine Touches.foldl (fun _ _ _ => ?_) ?_
    | ((conv => arg 3; arg 29); first | refine Touches.chk_set (by decide) ?_ | refine Touches.set rfl rfl rfl rfl rfl ?_)
    | extract_lets -underBinder
    | split
    | ((conv => arg 3; fail_if_success arg 1); refine Touches.set rfl rfl rfl rfl rfl ?_)
    | (conv => arg 3; dsimp -zeta -proj +zetaDelta only)

theorem writePdb_touches (o : Nat) (v : Word) (s : State) : Touches [.free, .out, .reg, .irq, .od, .net, .pdb, .cpu] s (writePdb o v s) := by
  unfold writePdb
  with_reducible repeat' first
    | (extract_lets -underBinder +onlyGivenNames x; refine Touches.mp (t := x) ?_ ?bb; case' bb => clear_value x; revert x; refine Touches.keep ?_; intro _ _)
    | exact Touches.refl _ _
    | assumption
    | refine Touches.ite (fun _ => ?_) (fun _ => ?_)
    | refine (canRecoverWrite_touches ..).after (by decide) ?_
    | refine (pdbForceStop_touches ..).after (by decide) ?_
    | refine onBit_touches (by decide) (fun _ _ => ?_) ?_
    | refine (maskRaises_touches ..).after (by decide) ?_
    | refine Touches.foldl (fun _ _ _ => ?_) ?_
    | ((conv => arg 3; arg 29); first | refine Touches.pdb_set (by decide) ?_ | refine Touches.set rfl rfl rfl rfl rfl ?_)
    | extract_lets -underBinder
    | split
    | ((conv => arg 3; fail_if_success arg 1); refine Touches.set rfl rfl rfl rfl rfl ?_)
    | (conv => arg 3; dsimp -zeta -proj +zetaDelta only)

theorem writeRec_touches (who : Requester) (o : Nat) (v : Word) (s : State) : Touches [.out, .reg, .irq, .log, .od, .cpu] s (writeRec who o v s) := by
  unfold writeRec
  with_reducible repeat' first
    | exact Touches.refl _ _
    | assumption
    | refine Touches.ite (fun _ => ?_) (fun _ => ?_)
    | refine (setReg_touches ..).after (by decide) ?_
    | refine (clearAbort_touches ..).after (by decide) ?_
    | refine (recForceStop_touches ..).after (by decide) ?_
    | refine (cursorWrite_touches ..).after (by decide) ?_
    | refine (clearByRegister_touches ..).after (by decide) ?_
    | refine (trigWrite_touches ..).after (by decide) ?_
    | refine onBit_touches (by decide) (fun _ _ => ?_) ?_
    | refine Touches.foldl (fun _ _ _ => ?_) ?_
    | ((conv => arg 3; arg 29); first | refine Touches.set rfl rfl rfl rfl rfl ?_)
    | extract_lets -underBinder
    | split
    | ((conv => arg 3; fail_if_success arg 1); refine Touches.set rfl rfl rfl rfl rfl ?_)
    | (conv => arg 3; dsimp -zeta -proj +zetaDelta only)

theorem inFaultClear_touches (v : Word) (s : State) : Touches [.tln] s (inFaultClear v s) := by
  unfold inFaultClear
  with_reducible repeat' first
    | (extract_lets -underBinder +onlyGivenNames x; refine Touches.mp (t := x) ?_ ?bb; case' bb => clear_value x; revert x; refine Touches.keep ?_; intro _ _)
    | exact Touches.refl _ _
    | assumption
    | refine Touches.ite (fun _ => ?_) (fun _ => ?_)
    | refine (setIn_touches ..).after (by decide) ?_
    | refine (followAll_touches ..).after (by decide) ?_
    | refine (inputFollows_touches ..).after (by decide) ?_
    | refine Touches.foldl (fun _ _ _ => ?_) ?_
    | extract_lets -underBinder
    | split
    | (conv => arg 3; dsimp -zeta -proj +zetaDelta only)

theorem outFaultClear_touches (v : Word) (s : State) : Touches [.tln] s (outFaultClear v s) := by
  unfold outFaultClear
  with_reducible repeat' first
    | (extract_lets -underBinder +onlyGivenNames x; refine Touches.mp (t := x) ?_ ?bb; case' bb => clear_value x; revert x; refine Touches.keep ?_; intro _ _)
    | exact Touches.refl _ _
    | assumption
    | refine Touches.ite (fun _ => ?_) (fun _ => ?_)
    | refine (setOut_touches ..).after (by decide) ?_
    | refine Touches.foldl (fun _ _ _ => ?_) ?_
    | extract_lets -underBinder
    | split
    | (conv => arg 3; dsimp -zeta -proj +zetaDelta only)

theorem writeTln_touches (o : Nat) (v : Word) (s : State) : Touches [.out, .reg, .irq, .tln, .cpu] s (writeTln o v s) := by
  unfold writeTln
  with_reducible repeat' first
    | (extract_lets -underBinder +onlyGivenNames x; refine Touches.mp (t := x) ?_ ?bb; case' bb => clear_value x; revert x; refine Touches.keep ?_; intro _ _)
    | exact Touches.refl _ _
    | assumption
    | refine Touches.ite (fun _ => ?_) (fun _ => ?_)
    | refine (setOutCmd_touches ..).after (by decide) ?_
    | refine (doForceSafe_touches ..).after (by decide) ?_
    | refine (doResume_touches ..).after (by decide) ?_
    | refine (doTripClear_touches ..).after (by decide) ?_
    | refine onBit_touches (by decide) (fun _ _ => ?_) ?_
    | refine (maskRaises_touches ..).after (by decide) ?_
    | refine (inFaultClear_touches ..).after (by decide) ?_
    | refine (outFaultClear_touches ..).after (by decide) ?_
    | refine Touches.foldl (fun _ _ _ => ?_) ?_
    | ((conv => arg 3; arg 29); first | refine Touches.set rfl rfl rfl rfl rfl ?_)
    | extract_lets -underBinder
    | split
    | ((conv => arg 3; fail_if_success arg 1); refine Touches.set rfl rfl rfl rfl rfl ?_)
    | (conv => arg 3; dsimp -zeta -proj +zetaDelta only)

theorem setNic_touches (c : Nat) (n : NicSt) (s : State) : Touches [.cpu] s (setNic c n s) := by
  unfold setNic
  with_reducible repeat' first
    | exact Touches.refl _ _
    | assumption
    | refine Touches.ite (fun _ => ?_) (fun _ => ?_)
    | refine Touches.foldl (fun _ _ _ => ?_) ?_
    | ((conv => arg 3; arg 29); first | refine Touches.cpu_set (by decide) (by with_reducible rfl) ?_ | refine Touches.set rfl rfl rfl rfl rfl ?_)
    | extract_lets -underBinder
    | split
    | ((conv => arg 3; fail_if_success arg 1); refine Touches.set rfl rfl rfl rfl rfl ?_)
    | (conv => arg 3; dsimp -zeta -proj +zetaDelta only)

theorem writeNic_touches (c o : Nat) (v : Word) (s : State) : Touches [.cpu] s (writeNic c o v s) := by
  unfold writeNic
  with_reducible repeat' first
    | (extract_lets -underBinder +onlyGivenNames x; refine Touches.mp (t := x) ?_ ?bb; case' bb => clear_value x; revert x; refine Touches.keep ?_; intro _ _)
    | exact Touches.refl _ _
    | assumption
    | refine Touches.ite (fun _ => ?_) (fun _ => ?_)
    | refine (setNic_touches ..).after (by decide) ?_
    | refine Touches.foldl (fun _ _ _ => ?_) ?_
    | extract_lets -underBinder
    | split
    | (conv => arg 3; dsimp -zeta -proj +zetaDelta only)

theorem writeCpu_touches (o : Nat) (v : Word) (s : State) : Touches [.free, .out, .node, .reg, .irq, .pwr, .log, .od, .tak, .wak, .tln, .bb, .net, .ina, .tim, .spl, .chk, .pdb, .cpu] s (writeCpu o v s) := by
  unfold writeCpu
  with_reducible repeat' first
    | exact Touches.refl _ _
    | assumption
    | refine Touches.ite (fun _ => ?_) (fun _ => ?_)
    | refine (cpuForceStop_touches ..).after (by decide) ?_
    | refine (cpuCauseClear_touches ..).after (by decide) ?_
    | refine onBit_touches (by decide) (fun _ _ => ?_) ?_
    | refine (writeNic_touches ..).after (by decide) ?_
    | refine Touches.foldl (fun _ _ _ => ?_) ?_
    | ((conv => arg 3; arg 29); first | refine Touches.cpu_set (by decide) (by with_reducible rfl) ?_ | refine Touches.set rfl rfl rfl rfl rfl ?_)
    | extract_lets -underBinder
    | split
    | ((conv => arg 3; fail_if_success arg 1); refine Touches.set rfl rfl rfl rfl rfl ?_)
    | (conv => arg 3; dsimp -zeta -proj +zetaDelta only)

theorem relayClear_touches (v : Word) (s : State) : Touches [.free, .out, .node, .reg, .irq, .log, .wak, .bb, .net, .ina, .tim, .spl, .cpu] s (relayClear v s) := by
  unfold relayClear
  with_reducible repeat' first
    | (extract_lets -underBinder +onlyGivenNames x; refine Touches.mp (t := x) ?_ ?bb; case' bb => clear_value x; revert x; refine Touches.keep ?_; intro _ _)
    | exact Touches.refl _ _
    | assumption
    | refine Touches.ite (fun _ => ?_) (fun _ => ?_)
    | refine (setLine_touches ..).after (by decide) ?_
    | refine (clearContacts_touches ..).after (by decide) ?_
    | refine onBit_touches (by decide) (fun _ _ => ?_) ?_
    | refine Touches.foldl (fun _ _ _ => ?_) ?_
    | extract_lets -underBinder
    | split
    | (conv => arg 3; dsimp -zeta -proj +zetaDelta only)

theorem writeSw_touches (o : Nat) (v : Word) (s : State) : Touches [.free, .out, .node, .reg, .irq, .log, .wak, .bb, .net, .ina, .tim, .spl, .cpu] s (writeSw o v s) := by
  unfold writeSw
  with_reducible repeat' first
    | exact Touches.refl _ _
    | assumption
    | refine Touches.ite (fun _ => ?_) (fun _ => ?_)
    | refine (writeHalf_touches ..).after (by decide) ?_
    | refine (relayClear_touches ..).after (by decide) ?_
    | refine Touches.foldl (fun _ _ _ => ?_) ?_
    | extract_lets -underBinder
    | split
    | (conv => arg 3; dsimp -zeta -proj +zetaDelta only)

theorem writeFields_touches (who : Requester) (a : Nat) (v : Word) (s : State) : Touches [.now, .up, .free, .out, .node, .fwVersion, .reg, .irq, .pwr, .hpl, .log, .od, .tak, .wak, .tln, .bb, .net, .ina, .tim, .spl, .chk, .pdb, .cpu] s (writeFields who a v s) := by
  unfold writeFields
  with_reducible repeat' first
    | exact Touches.refl _ _
    | assumption
    | refine Touches.ite (fun _ => ?_) (fun _ => ?_)
    | refine (writeIdIrq_touches ..).after (by decide) ?_
    | refine (writePwr_touches ..).after (by decide) ?_
    | refine (writeHpl_touches ..).after (by decide) ?_
    | refine (writeWak_touches ..).after (by decide) ?_
    | refine (writeOdx_touches ..).after (by decide) ?_
    | refine (writeTak_touches ..).after (by decide) ?_
    | refine (writePrt_touches ..).after (by decide) ?_
    | refine (writeSch_touches ..).after (by decide) ?_
    | refine (writeTim_touches ..).after (by decide) ?_
    | refine (writeIna_touches ..).after (by decide) ?_
    | refine (writeSpl_touches ..).after (by decide) ?_
    | refine (writeStm_touches ..).after (by decide) ?_
    | refine (writeChk_touches ..).after (by decide) ?_
    | refine (writePdb_touches ..).after (by decide) ?_
    | refine (writeRec_touches ..).after (by decide) ?_
    | refine (writeTln_touches ..).after (by decide) ?_
    | refine (writeCpu_touches ..).after (by decide) ?_
    | refine (writeSw_touches ..).after (by decide) ?_
    | refine Touches.foldl (fun _ _ _ => ?_) ?_
    | extract_lets -underBinder
    | split
    | (conv => arg 3; dsimp -zeta -proj +zetaDelta only)

theorem mbxDataWrite_touches (o : Nat) (be : BitVec 4) (v : Word) (s : State) : Touches [.od] s (mbxDataWrite o be v s) := by
  unfold mbxDataWrite
  with_reducible repeat' first
    | (extract_lets -underBinder +onlyGivenNames x; refine Touches.mp (t := x) ?_ ?bb; case' bb => clear_value x; revert x; refine Touches.keep ?_; intro _ _)
    | exact Touches.refl _ _
    | assumption
    | refine Touches.ite (fun _ => ?_) (fun _ => ?_)
    | refine Touches.foldl (fun _ _ _ => ?_) ?_
    | ((conv => arg 3; arg 29); first | refine Touches.od_set (by decide) ?_ | refine Touches.set rfl rfl rfl rfl rfl ?_)
    | extract_lets -underBinder
    | split
    | ((conv => arg 3; fail_if_success arg 1); refine Touches.set rfl rfl rfl rfl rfl ?_)
    | (conv => arg 3; dsimp -zeta -proj +zetaDelta only)

theorem writeReg_touches (who : Requester) (a : Nat) (v : Word) (s : State) : Touches [.now, .up, .free, .out, .node, .fwVersion, .reg, .irq, .pwr, .hpl, .log, .od, .tak, .wak, .tln, .bb, .net, .ina, .tim, .spl, .chk, .pdb, .cpu] s (writeReg who a v s) := by
  unfold writeReg
  with_reducible repeat' first
    | exact Touches.refl _ _
    | assumption
    | refine Touches.ite (fun _ => ?_) (fun _ => ?_)
    | refine (rwtWrite_touches ..).after (by decide) ?_
    | refine (writeFields_touches ..).after (by decide) ?_
    | refine Touches.foldl (fun _ _ _ => ?_) ?_
    | extract_lets -underBinder
    | split
    | (conv => arg 3; dsimp -zeta -proj +zetaDelta only)

theorem regWrite_touches (who : Requester) (a : Nat) (be : BitVec 4) (v : Word) (s : State) : Touches [.now, .up, .free, .out, .node, .fwVersion, .reg, .irq, .pwr, .hpl, .log, .od, .tak, .wak, .tln, .bb, .net, .ina, .tim, .spl, .chk, .pdb, .cpu] s (regWrite who a be v s) := by
  unfold regWrite
  with_reducible repeat' first
    | exact Touches.refl _ _
    | assumption
    | refine Touches.ite (fun _ => ?_) (fun _ => ?_)
    | refine (bump_touches ..).after (by decide) ?_
    | refine (coreDenied_touches ..).after (by decide) ?_
    | refine (mbxDataWrite_touches ..).after (by decide) ?_
    | refine (writeReg_touches ..).after (by decide) ?_
    | refine Touches.foldl (fun _ _ _ => ?_) ?_
    | extract_lets -underBinder
    | split
    | (conv => arg 3; dsimp -zeta -proj +zetaDelta only)

theorem execRegisterWrite_answers (who : Requester) (a : BitVec 20) (be : BitVec 4) (v : Word) (s : State) : Answers [.now, .up, .free, .out, .node, .fwVersion, .reg, .irq, .pwr, .hpl, .log, .od, .tak, .wak, .tln, .bb, .net, .ina, .tim, .spl, .chk, .pdb, .cpu] s (execRegisterWrite who a be v s) := by
  unfold execRegisterWrite
  with_reducible repeat' first
    | refine Answers.next ?_
    | refine Answers.ite (fun _ => ?_) (fun _ => ?_)
    | exact Touches.refl _ _
    | assumption
    | refine Touches.ite (fun _ => ?_) (fun _ => ?_)
    | refine (regWrite_touches ..).after (by decide) ?_
    | refine Touches.foldl (fun _ _ _ => ?_) ?_
    | extract_lets -underBinder
    | split
    | (conv => arg 3; dsimp -zeta -proj +zetaDelta only)

end Sys2Proof.Machine
end

