-- ==== Sys2Proof/Laws/CoreMap.lean ====
section
/-!
SUPPORT. Laws/CoreMap.lean: the frame of every operation of Machine/CoreMap.lean: which parts of the state it may change, and that it keeps the bounds.
-/
namespace Sys2Proof.Machine

set_option Elab.async false
set_option linter.all false


/-- An access keeps the canonical form of the memory it acts on. -/
theorem memAccess_wf {m : List Host.Cell} (o : Nat) (x : CoreAccess) (h : Memory.wf m = true) : Memory.wf (memAccess m o x).2 = true := by
  cases x with
  | load n => exact h
  | store d => exact memWrite_wf _ _ h
  | amo op n v => exact memWrite_wf _ _ h
  | lrSc => exact h

theorem mtimecmpWrite_touches (hart : Nat) (v : Instant) (s : State) : Touches [.cpu] s (mtimecmpWrite hart v s) := by
  unfold mtimecmpWrite
  with_reducible repeat' first
    | exact Touches.refl _ _
    | assumption
    | refine Touches.ite (fun _ => ?_) (fun _ => ?_)
    | refine Touches.foldl (fun _ _ _ => ?_) ?_
    | ((conv => arg 3; arg 29); first | refine Touches.cpu_set (by decide) (by with_reducible rfl) ?_ | refine Touches.set rfl rfl rfl rfl rfl ?_)
    | extract_lets -underBinder
    | split
    | ((conv => arg 3; fail_if_success arg 1); refine Touches.set rfl rfl rfl rfl rfl ?_)
    | (conv => arg 3; dsimp -zeta -proj +zetaDelta only)

theorem aclintWrite_touches (o v : Nat) (s : State) : Touches [.cpu] s (aclintWrite o v s) := by
  unfold aclintWrite
  with_reducible repeat' first
    | exact Touches.refl _ _
    | assumption
    | refine Touches.ite (fun _ => ?_) (fun _ => ?_)
    | refine (mtimecmpWrite_touches ..).after (by decide) ?_
    | refine Touches.foldl (fun _ _ _ => ?_) ?_
    | ((conv => arg 3; arg 29); first | refine Touches.cpu_set (by decide) (by with_reducible rfl) ?_ | refine Touches.set rfl rfl rfl rfl rfl ?_)
    | extract_lets -underBinder
    | split
    | ((conv => arg 3; fail_if_success arg 1); refine Touches.set rfl rfl rfl rfl rfl ?_)
    | (conv => arg 3; dsimp -zeta -proj +zetaDelta only)

theorem plicClaim_touches (n : Nat) (s : State) : Touches [.irq, .cpu] s (plicClaim n s) := by
  unfold plicClaim
  with_reducible repeat' first
    | (extract_lets -underBinder +onlyGivenNames x; refine Touches.mp (t := x) ?_ ?bb; case' bb => clear_value x; revert x; refine Touches.keep ?_; intro _ _)
    | exact Touches.refl _ _
    | assumption
    | refine Touches.ite (fun _ => ?_) (fun _ => ?_)
    | refine (setNic_touches ..).after (by decide) ?_
    | refine Touches.foldl (fun _ _ _ => ?_) ?_
    | ((conv => arg 3; arg 29); first | refine Touches.irq_set (by decide) ?_ | refine Touches.cpu_set (by decide) (by with_reducible rfl) ?_ | refine Touches.set rfl rfl rfl rfl rfl ?_)
    | extract_lets -underBinder
    | split
    | ((conv => arg 3; fail_if_success arg 1); refine Touches.set rfl rfl rfl rfl rfl ?_)
    | (conv => arg 3; dsimp -zeta -proj +zetaDelta only)

theorem plicRead_touches (o : Nat) (s : State) : Touches [.irq, .cpu] s (plicRead o s).2 := by
  unfold plicRead
  with_reducible repeat' first
    | exact Touches.refl _ _
    | assumption
    | refine Touches.ite (fun _ => ?_) (fun _ => ?_)
    | ((conv => arg 3; arg 1; (fail_if_success arg 3); arg 2); refine Touches.pair ?_)
    | refine Touches.iteSnd ?_ ?_
    | refine (plicClaim_touches ..).after (by decide) ?_
    | refine Touches.foldl (fun _ _ _ => ?_) ?_
    | extract_lets -underBinder
    | split
    | (conv => arg 3; dsimp -zeta -proj +zetaDelta only)

theorem plicWrite_touches (o : Nat) (v : Word) (s : State) : Touches [.cpu] s (plicWrite o v s) := by
  unfold plicWrite
  with_reducible repeat' first
    | exact Touches.refl _ _
    | assumption
    | refine Touches.ite (fun _ => ?_) (fun _ => ?_)
    | refine Touches.foldl (fun _ _ _ => ?_) ?_
    | ((conv => arg 3; arg 29); first | refine Touches.cpu_set (by decide) (by with_reducible rfl) ?_ | refine Touches.set rfl rfl rfl rfl rfl ?_)
    | extract_lets -underBinder
    | split
    | ((conv => arg 3; fail_if_success arg 1); refine Touches.set rfl rfl rfl rfl rfl ?_)
    | (conv => arg 3; dsimp -zeta -proj +zetaDelta only)

theorem regLoad_touches (s : State) (a : Nat) : Touches [.out, .reg, .pwr, .tln, .bb, .tim, .spl] s (regLoad s a) := by
  have go : ∀ {m : List Blk} {x : Ans}, Blk.sub m [.out, .reg, .pwr, .tln, .bb, .tim, .spl] = true → Answers m s x → Touches [.out, .reg, .pwr, .tln, .bb, .tim, .spl] s (after s x) := by
    rintro m x hk ⟨t, rfl, h⟩
    exact h.wider hk
  unfold regLoad
  repeat' split
  · exact go (by decide) (execDbValueRead_answers ..)
  · exact go (by decide) (execEvtTsRead_answers ..)
  · exact go (by decide) (execCapTsRead_answers ..)
  · exact go (by decide) (execTempStatusRead_answers ..)
  · exact go (by decide) (execLoopStatusRead_answers ..)
  · exact go (by decide) (execEqStatusRead_answers ..)
  · exact (emit_touches ..).wider (by decide)

theorem coreRegs_touches (o : Nat) (x : CoreAccess) (s : State) : Touches [.now, .up, .free, .out, .node, .fwVersion, .reg, .irq, .pwr, .hpl, .log, .od, .tak, .wak, .tln, .bb, .net, .ina, .tim, .spl, .chk, .pdb, .cpu] s (coreRegs o x s) := by
  unfold coreRegs
  with_reducible repeat' first
    | exact Touches.refl _ _
    | assumption
    | refine Touches.ite (fun _ => ?_) (fun _ => ?_)
    | refine (emit_touches ..).after (by decide) ?_
    | refine (regWrite_touches ..).after (by decide) ?_
    | refine (regLoad_touches ..).after (by decide) ?_
    | refine Touches.foldl (fun _ _ _ => ?_) ?_
    | extract_lets -underBinder
    | split
    | (conv => arg 3; dsimp -zeta -proj +zetaDelta only)

theorem memAnswer_touches (hart : Nat) (d : List Byte) (s : State) : Touches [.out] s (memAnswer hart d s) := by
  unfold memAnswer
  with_reducible repeat' first
    | exact Touches.refl _ _
    | assumption
    | refine Touches.ite (fun _ => ?_) (fun _ => ?_)
    | refine (emit_touches ..).after (by decide) ?_
    | refine Touches.foldl (fun _ _ _ => ?_) ?_
    | extract_lets -underBinder
    | split
    | (conv => arg 3; dsimp -zeta -proj +zetaDelta only)

theorem dramAccess_touches (hart o : Nat) (x : CoreAccess) (s : State) : Touches [.out, .cpu] s (dramAccess hart o x s) :=
  (memAnswer_touches ..).after (by decide)
    (Touches.set (k := [.out, .cpu]) rfl rfl rfl rfl rfl (Touches.refl _ s) (apps := fun i => memAccess_wf o x i))

theorem exportAccess_touches (hart o : Nat) (x : CoreAccess) (s : State) : Touches [.out, .spl] s (exportAccess hart o x s) :=
  (memAnswer_touches ..).after (by decide)
    (Touches.set (k := [.out, .spl]) rfl rfl rfl rfl rfl (Touches.refl _ s) (mem := fun i => memAccess_wf o x i))

theorem execCoreSpliceAccess_answers (hart : Fin 8) (ecc : Bool) (a : BitVec 56) (x : CoreAccess) (s : State) : Answers [.now, .up, .free, .out, .node, .fwVersion, .reg, .irq, .pwr, .hpl, .log, .od, .tak, .wak, .tln, .bb, .net, .ina, .tim, .spl, .chk, .pdb, .cpu] s (execCoreSpliceAccess hart ecc a x s) := by
  unfold execCoreSpliceAccess
  with_reducible repeat' first
    | (extract_lets -underBinder +onlyGivenNames x; (first | refine Answers.mp (t := x) ?_ ?bb | refine Touches.mp (t := x) ?_ ?bb); case' bb => clear_value x; revert x; refine Touches.keep ?_; intro _ _)
    | refine Answers.next ?_
    | refine Answers.ite (fun _ => ?_) (fun _ => ?_)
    | exact Touches.refl _ _
    | assumption
    | refine Touches.ite (fun _ => ?_) (fun _ => ?_)
    | refine (emit_touches ..).after (by decide) ?_
    | refine (bump_touches ..).after (by decide) ?_
    | refine (coreAperture_touches ..).after (by decide) ?_
    | refine (aclintWrite_touches ..).after (by decide) ?_
    | refine (plicRead_touches ..).after (by decide) ?_
    | refine (Touches.ofPair ‹plicRead _ _ = _› (plicRead_touches ..)).after (by decide) ?_
    | refine (plicWrite_touches ..).after (by decide) ?_
    | refine (coreRegs_touches ..).after (by decide) ?_
    | refine (memAnswer_touches ..).after (by decide) ?_
    | refine (dramAccess_touches ..).after (by decide) ?_
    | refine (exportAccess_touches ..).after (by decide) ?_
    | refine Touches.foldl (fun _ _ _ => ?_) ?_
    | extract_lets -underBinder
    | split
    | (conv => arg 3; dsimp -zeta -proj +zetaDelta only)

end Sys2Proof.Machine
end

