-- ==== Sys2Proof/Laws/State.lean ====
section
/-!
SUPPORT. Laws/State.lean: what each shared update of the state leaves as it was, one lemma per field per update, and the laws of the
sparse tables that State holds.
-/
namespace Sys2Proof.Machine

set_option Elab.async false
set_option linter.all false

theorem tget_tset_same {α : Type} (t : Tab α) (k : Nat) (x d : α) : tget (tset t k x) k d = x := by
  induction t with
  | nil => simp [tset, tget]
  | cons e r ih =>
    obtain ⟨a, y⟩ := e
    simp only [tset]
    split
    · simp [tget]
    · split
      · simp [tget]
      · simp_all [tget]

theorem tget_tset_other {α : Type} (t : Tab α) (j k : Nat) (x d : α) (h : j ≠ k) : tget (tset t j x) k d = tget t k d := by
  induction t with
  | nil => simp [tset, tget, h]
  | cons e r ih =>
    obtain ⟨a, y⟩ := e
    simp only [tset]
    split
    · simp [tget, h]
    · split
      · next g => subst g; simp [tget, h]
      · simp [tget, ih]

/-- The values of objects rest on the dictionary alone. -/
theorem valOf_of_od {s t : State} (h : t.od = s.od) (k : Nat) : valOf t k = valOf s k := by
  unfold valOf; rw [h]

theorem cfg_of_od {s t : State} (h : t.od = s.od) (i j : Nat) : cfg t i j = cfg s i j := by
  unfold cfg; rw [valOf_of_od h]

theorem cfgOn_of_od {s t : State} (h : t.od = s.od) (i j : Nat) : cfgOn t i j = cfgOn s i j := by
  unfold cfgOn; rw [cfg_of_od h]

@[simp] theorem emit_pending (o : Out) (s : State) : (emit o s).pending = s.pending := (emit_touches .. ).pending
@[simp] theorem emit_uid (o : Out) (s : State) : (emit o s).uid = s.uid := (emit_touches .. ).uid
@[simp] theorem emit_baseMac (o : Out) (s : State) : (emit o s).baseMac = s.baseMac := (emit_touches .. ).baseMac
@[simp] theorem emit_serial (o : Out) (s : State) : (emit o s).serial = s.serial := (emit_touches .. ).serial
@[simp] theorem emit_hwRev (o : Out) (s : State) : (emit o s).hwRev = s.hwRev := (emit_touches .. ).hwRev
@[simp] theorem emit_now (o : Out) (s : State) : (emit o s).now = s.now := (emit_touches .. ).now.resolve_left (by decide)
@[simp] theorem emit_up (o : Out) (s : State) : (emit o s).up = s.up := (emit_touches .. ).up.resolve_left (by decide)
@[simp] theorem emit_frac (o : Out) (s : State) : (emit o s).frac = s.frac := (emit_touches .. ).frac.resolve_left (by decide)
@[simp] theorem emit_free (o : Out) (s : State) : (emit o s).free = s.free := (emit_touches .. ).free.resolve_left (by decide)
@[simp] theorem emit_node (o : Out) (s : State) : (emit o s).node = s.node := (emit_touches .. ).node.resolve_left (by decide)
@[simp] theorem emit_fwVersion (o : Out) (s : State) : (emit o s).fwVersion = s.fwVersion := (emit_touches .. ).fwVersion.resolve_left (by decide)
@[simp] theorem emit_reg (o : Out) (s : State) : (emit o s).reg = s.reg := (emit_touches .. ).reg.resolve_left (by decide)
@[simp] theorem emit_irq (o : Out) (s : State) : (emit o s).irq = s.irq := (emit_touches .. ).irq.resolve_left (by decide)
@[simp] theorem emit_pwr (o : Out) (s : State) : (emit o s).pwr = s.pwr := (emit_touches .. ).pwr.resolve_left (by decide)
@[simp] theorem emit_hpl (o : Out) (s : State) : (emit o s).hpl = s.hpl := (emit_touches .. ).hpl.resolve_left (by decide)
@[simp] theorem emit_log (o : Out) (s : State) : (emit o s).log = s.log := (emit_touches .. ).log.resolve_left (by decide)
@[simp] theorem emit_od (o : Out) (s : State) : (emit o s).od = s.od := (emit_touches .. ).od.resolve_left (by decide)
@[simp] theorem emit_tak (o : Out) (s : State) : (emit o s).tak = s.tak := (emit_touches .. ).tak.resolve_left (by decide)
@[simp] theorem emit_wak (o : Out) (s : State) : (emit o s).wak = s.wak := (emit_touches .. ).wak.resolve_left (by decide)
@[simp] theorem emit_tln (o : Out) (s : State) : (emit o s).tln = s.tln := (emit_touches .. ).tln.resolve_left (by decide)
@[simp] theorem emit_bb (o : Out) (s : State) : (emit o s).bb = s.bb := (emit_touches .. ).bb.resolve_left (by decide)
@[simp] theorem emit_net (o : Out) (s : State) : (emit o s).net = s.net := (emit_touches .. ).net.resolve_left (by decide)
@[simp] theorem emit_ina (o : Out) (s : State) : (emit o s).ina = s.ina := (emit_touches .. ).ina.resolve_left (by decide)
@[simp] theorem emit_tim (o : Out) (s : State) : (emit o s).tim = s.tim := (emit_touches .. ).tim.resolve_left (by decide)
@[simp] theorem emit_spl (o : Out) (s : State) : (emit o s).spl = s.spl := (emit_touches .. ).spl.resolve_left (by decide)
@[simp] theorem emit_chk (o : Out) (s : State) : (emit o s).chk = s.chk := (emit_touches .. ).chk.resolve_left (by decide)
@[simp] theorem emit_pdb (o : Out) (s : State) : (emit o s).pdb = s.pdb := (emit_touches .. ).pdb.resolve_left (by decide)
@[simp] theorem emit_cpu (o : Out) (s : State) : (emit o s).cpu = s.cpu := (emit_touches .. ).cpu.resolve_left (by decide)
@[simp] theorem valOf_emit (o : Out) (s : State) (k : Nat) : valOf (emit o s) k = valOf s k := valOf_of_od (emit_od ..) k
@[simp] theorem cfg_emit (o : Out) (s : State) (i j : Nat) : cfg (emit o s) i j = cfg s i j := cfg_of_od (emit_od ..) i j
@[simp] theorem cfgOn_emit (o : Out) (s : State) (i j : Nat) : cfgOn (emit o s) i j = cfgOn s i j := cfgOn_of_od (emit_od ..) i j

@[simp] theorem bumpBy_pending (a n : Nat) (s : State) : (bumpBy a n s).pending = s.pending := (bumpBy_touches .. ).pending
@[simp] theorem bumpBy_uid (a n : Nat) (s : State) : (bumpBy a n s).uid = s.uid := (bumpBy_touches .. ).uid
@[simp] theorem bumpBy_baseMac (a n : Nat) (s : State) : (bumpBy a n s).baseMac = s.baseMac := (bumpBy_touches .. ).baseMac
@[simp] theorem bumpBy_serial (a n : Nat) (s : State) : (bumpBy a n s).serial = s.serial := (bumpBy_touches .. ).serial
@[simp] theorem bumpBy_hwRev (a n : Nat) (s : State) : (bumpBy a n s).hwRev = s.hwRev := (bumpBy_touches .. ).hwRev
@[simp] theorem bumpBy_now (a n : Nat) (s : State) : (bumpBy a n s).now = s.now := (bumpBy_touches .. ).now.resolve_left (by decide)
@[simp] theorem bumpBy_up (a n : Nat) (s : State) : (bumpBy a n s).up = s.up := (bumpBy_touches .. ).up.resolve_left (by decide)
@[simp] theorem bumpBy_frac (a n : Nat) (s : State) : (bumpBy a n s).frac = s.frac := (bumpBy_touches .. ).frac.resolve_left (by decide)
@[simp] theorem bumpBy_free (a n : Nat) (s : State) : (bumpBy a n s).free = s.free := (bumpBy_touches .. ).free.resolve_left (by decide)
@[simp] theorem bumpBy_out (a n : Nat) (s : State) : (bumpBy a n s).out = s.out := (bumpBy_touches .. ).out.resolve_left (by decide)
@[simp] theorem bumpBy_node (a n : Nat) (s : State) : (bumpBy a n s).node = s.node := (bumpBy_touches .. ).node.resolve_left (by decide)
@[simp] theorem bumpBy_fwVersion (a n : Nat) (s : State) : (bumpBy a n s).fwVersion = s.fwVersion := (bumpBy_touches .. ).fwVersion.resolve_left (by decide)
@[simp] theorem bumpBy_irq (a n : Nat) (s : State) : (bumpBy a n s).irq = s.irq := (bumpBy_touches .. ).irq.resolve_left (by decide)
@[simp] theorem bumpBy_pwr (a n : Nat) (s : State) : (bumpBy a n s).pwr = s.pwr := (bumpBy_touches .. ).pwr.resolve_left (by decide)
@[simp] theorem bumpBy_hpl (a n : Nat) (s : State) : (bumpBy a n s).hpl = s.hpl := (bumpBy_touches .. ).hpl.resolve_left (by decide)
@[simp] theorem bumpBy_log (a n : Nat) (s : State) : (bumpBy a n s).log = s.log := (bumpBy_touches .. ).log.resolve_left (by decide)
@[simp] theorem bumpBy_od (a n : Nat) (s : State) : (bumpBy a n s).od = s.od := (bumpBy_touches .. ).od.resolve_left (by decide)
@[simp] theorem bumpBy_tak (a n : Nat) (s : State) : (bumpBy a n s).tak = s.tak := (bumpBy_touches .. ).tak.resolve_left (by decide)
@[simp] theorem bumpBy_wak (a n : Nat) (s : State) : (bumpBy a n s).wak = s.wak := (bumpBy_touches .. ).wak.resolve_left (by decide)
@[simp] theorem bumpBy_tln (a n : Nat) (s : State) : (bumpBy a n s).tln = s.tln := (bumpBy_touches .. ).tln.resolve_left (by decide)
@[simp] theorem bumpBy_bb (a n : Nat) (s : State) : (bumpBy a n s).bb = s.bb := (bumpBy_touches .. ).bb.resolve_left (by decide)
@[simp] theorem bumpBy_net (a n : Nat) (s : State) : (bumpBy a n s).net = s.net := (bumpBy_touches .. ).net.resolve_left (by decide)
@[simp] theorem bumpBy_ina (a n : Nat) (s : State) : (bumpBy a n s).ina = s.ina := (bumpBy_touches .. ).ina.resolve_left (by decide)
@[simp] theorem bumpBy_tim (a n : Nat) (s : State) : (bumpBy a n s).tim = s.tim := (bumpBy_touches .. ).tim.resolve_left (by decide)
@[simp] theorem bumpBy_spl (a n : Nat) (s : State) : (bumpBy a n s).spl = s.spl := (bumpBy_touches .. ).spl.resolve_left (by decide)
@[simp] theorem bumpBy_chk (a n : Nat) (s : State) : (bumpBy a n s).chk = s.chk := (bumpBy_touches .. ).chk.resolve_left (by decide)
@[simp] theorem bumpBy_pdb (a n : Nat) (s : State) : (bumpBy a n s).pdb = s.pdb := (bumpBy_touches .. ).pdb.resolve_left (by decide)
@[simp] theorem bumpBy_cpu (a n : Nat) (s : State) : (bumpBy a n s).cpu = s.cpu := (bumpBy_touches .. ).cpu.resolve_left (by decide)
@[simp] theorem valOf_bumpBy (a n : Nat) (s : State) (k : Nat) : valOf (bumpBy a n s) k = valOf s k := valOf_of_od (bumpBy_od ..) k
@[simp] theorem cfg_bumpBy (a n : Nat) (s : State) (i j : Nat) : cfg (bumpBy a n s) i j = cfg s i j := cfg_of_od (bumpBy_od ..) i j
@[simp] theorem cfgOn_bumpBy (a n : Nat) (s : State) (i j : Nat) : cfgOn (bumpBy a n s) i j = cfgOn s i j := cfgOn_of_od (bumpBy_od ..) i j

@[simp] theorem bump_pending (a : Nat) (s : State) : (bump a s).pending = s.pending := (bump_touches .. ).pending
@[simp] theorem bump_uid (a : Nat) (s : State) : (bump a s).uid = s.uid := (bump_touches .. ).uid
@[simp] theorem bump_baseMac (a : Nat) (s : State) : (bump a s).baseMac = s.baseMac := (bump_touches .. ).baseMac
@[simp] theorem bump_serial (a : Nat) (s : State) : (bump a s).serial = s.serial := (bump_touches .. ).serial
@[simp] theorem bump_hwRev (a : Nat) (s : State) : (bump a s).hwRev = s.hwRev := (bump_touches .. ).hwRev
@[simp] theorem bump_now (a : Nat) (s : State) : (bump a s).now = s.now := (bump_touches .. ).now.resolve_left (by decide)
@[simp] theorem bump_up (a : Nat) (s : State) : (bump a s).up = s.up := (bump_touches .. ).up.resolve_left (by decide)
@[simp] theorem bump_frac (a : Nat) (s : State) : (bump a s).frac = s.frac := (bump_touches .. ).frac.resolve_left (by decide)
@[simp] theorem bump_free (a : Nat) (s : State) : (bump a s).free = s.free := (bump_touches .. ).free.resolve_left (by decide)
@[simp] theorem bump_out (a : Nat) (s : State) : (bump a s).out = s.out := (bump_touches .. ).out.resolve_left (by decide)
@[simp] theorem bump_node (a : Nat) (s : State) : (bump a s).node = s.node := (bump_touches .. ).node.resolve_left (by decide)
@[simp] theorem bump_fwVersion (a : Nat) (s : State) : (bump a s).fwVersion = s.fwVersion := (bump_touches .. ).fwVersion.resolve_left (by decide)
@[simp] theorem bump_irq (a : Nat) (s : State) : (bump a s).irq = s.irq := (bump_touches .. ).irq.resolve_left (by decide)
@[simp] theorem bump_pwr (a : Nat) (s : State) : (bump a s).pwr = s.pwr := (bump_touches .. ).pwr.resolve_left (by decide)
@[simp] theorem bump_hpl (a : Nat) (s : State) : (bump a s).hpl = s.hpl := (bump_touches .. ).hpl.resolve_left (by decide)
@[simp] theorem bump_log (a : Nat) (s : State) : (bump a s).log = s.log := (bump_touches .. ).log.resolve_left (by decide)
@[simp] theorem bump_od (a : Nat) (s : State) : (bump a s).od = s.od := (bump_touches .. ).od.resolve_left (by decide)
@[simp] theorem bump_tak (a : Nat) (s : State) : (bump a s).tak = s.tak := (bump_touches .. ).tak.resolve_left (by decide)
@[simp] theorem bump_wak (a : Nat) (s : State) : (bump a s).wak = s.wak := (bump_touches .. ).wak.resolve_left (by decide)
@[simp] theorem bump_tln (a : Nat) (s : State) : (bump a s).tln = s.tln := (bump_touches .. ).tln.resolve_left (by decide)
@[simp] theorem bump_bb (a : Nat) (s : State) : (bump a s).bb = s.bb := (bump_touches .. ).bb.resolve_left (by decide)
@[simp] theorem bump_net (a : Nat) (s : State) : (bump a s).net = s.net := (bump_touches .. ).net.resolve_left (by decide)
@[simp] theorem bump_ina (a : Nat) (s : State) : (bump a s).ina = s.ina := (bump_touches .. ).ina.resolve_left (by decide)
@[simp] theorem bump_tim (a : Nat) (s : State) : (bump a s).tim = s.tim := (bump_touches .. ).tim.resolve_left (by decide)
@[simp] theorem bump_spl (a : Nat) (s : State) : (bump a s).spl = s.spl := (bump_touches .. ).spl.resolve_left (by decide)
@[simp] theorem bump_chk (a : Nat) (s : State) : (bump a s).chk = s.chk := (bump_touches .. ).chk.resolve_left (by decide)
@[simp] theorem bump_pdb (a : Nat) (s : State) : (bump a s).pdb = s.pdb := (bump_touches .. ).pdb.resolve_left (by decide)
@[simp] theorem bump_cpu (a : Nat) (s : State) : (bump a s).cpu = s.cpu := (bump_touches .. ).cpu.resolve_left (by decide)
@[simp] theorem valOf_bump (a : Nat) (s : State) (k : Nat) : valOf (bump a s) k = valOf s k := valOf_of_od (bump_od ..) k
@[simp] theorem cfg_bump (a : Nat) (s : State) (i j : Nat) : cfg (bump a s) i j = cfg s i j := cfg_of_od (bump_od ..) i j
@[simp] theorem cfgOn_bump (a : Nat) (s : State) (i j : Nat) : cfgOn (bump a s) i j = cfgOn s i j := cfgOn_of_od (bump_od ..) i j

@[simp] theorem setReg_pending (a : Nat) (w : Word) (s : State) : (setReg a w s).pending = s.pending := (setReg_touches .. ).pending
@[simp] theorem setReg_uid (a : Nat) (w : Word) (s : State) : (setReg a w s).uid = s.uid := (setReg_touches .. ).uid
@[simp] theorem setReg_baseMac (a : Nat) (w : Word) (s : State) : (setReg a w s).baseMac = s.baseMac := (setReg_touches .. ).baseMac
@[simp] theorem setReg_serial (a : Nat) (w : Word) (s : State) : (setReg a w s).serial = s.serial := (setReg_touches .. ).serial
@[simp] theorem setReg_hwRev (a : Nat) (w : Word) (s : State) : (setReg a w s).hwRev = s.hwRev := (setReg_touches .. ).hwRev
@[simp] theorem setReg_now (a : Nat) (w : Word) (s : State) : (setReg a w s).now = s.now := (setReg_touches .. ).now.resolve_left (by decide)
@[simp] theorem setReg_up (a : Nat) (w : Word) (s : State) : (setReg a w s).up = s.up := (setReg_touches .. ).up.resolve_left (by decide)
@[simp] theorem setReg_frac (a : Nat) (w : Word) (s : State) : (setReg a w s).frac = s.frac := (setReg_touches .. ).frac.resolve_left (by decide)
@[simp] theorem setReg_free (a : Nat) (w : Word) (s : State) : (setReg a w s).free = s.free := (setReg_touches .. ).free.resolve_left (by decide)
@[simp] theorem setReg_out (a : Nat) (w : Word) (s : State) : (setReg a w s).out = s.out := (setReg_touches .. ).out.resolve_left (by decide)
@[simp] theorem setReg_node (a : Nat) (w : Word) (s : State) : (setReg a w s).node = s.node := (setReg_touches .. ).node.resolve_left (by decide)
@[simp] theorem setReg_fwVersion (a : Nat) (w : Word) (s : State) : (setReg a w s).fwVersion = s.fwVersion := (setReg_touches .. ).fwVersion.resolve_left (by decide)
@[simp] theorem setReg_irq (a : Nat) (w : Word) (s : State) : (setReg a w s).irq = s.irq := (setReg_touches .. ).irq.resolve_left (by decide)
@[simp] theorem setReg_pwr (a : Nat) (w : Word) (s : State) : (setReg a w s).pwr = s.pwr := (setReg_touches .. ).pwr.resolve_left (by decide)
@[simp] theorem setReg_hpl (a : Nat) (w : Word) (s : State) : (setReg a w s).hpl = s.hpl := (setReg_touches .. ).hpl.resolve_left (by decide)
@[simp] theorem setReg_log (a : Nat) (w : Word) (s : State) : (setReg a w s).log = s.log := (setReg_touches .. ).log.resolve_left (by decide)
@[simp] theorem setReg_od (a : Nat) (w : Word) (s : State) : (setReg a w s).od = s.od := (setReg_touches .. ).od.resolve_left (by decide)
@[simp] theorem setReg_tak (a : Nat) (w : Word) (s : State) : (setReg a w s).tak = s.tak := (setReg_touches .. ).tak.resolve_left (by decide)
@[simp] theorem setReg_wak (a : Nat) (w : Word) (s : State) : (setReg a w s).wak = s.wak := (setReg_touches .. ).wak.resolve_left (by decide)
@[simp] theorem setReg_tln (a : Nat) (w : Word) (s : State) : (setReg a w s).tln = s.tln := (setReg_touches .. ).tln.resolve_left (by decide)
@[simp] theorem setReg_bb (a : Nat) (w : Word) (s : State) : (setReg a w s).bb = s.bb := (setReg_touches .. ).bb.resolve_left (by decide)
@[simp] theorem setReg_net (a : Nat) (w : Word) (s : State) : (setReg a w s).net = s.net := (setReg_touches .. ).net.resolve_left (by decide)
@[simp] theorem setReg_ina (a : Nat) (w : Word) (s : State) : (setReg a w s).ina = s.ina := (setReg_touches .. ).ina.resolve_left (by decide)
@[simp] theorem setReg_tim (a : Nat) (w : Word) (s : State) : (setReg a w s).tim = s.tim := (setReg_touches .. ).tim.resolve_left (by decide)
@[simp] theorem setReg_spl (a : Nat) (w : Word) (s : State) : (setReg a w s).spl = s.spl := (setReg_touches .. ).spl.resolve_left (by decide)
@[simp] theorem setReg_chk (a : Nat) (w : Word) (s : State) : (setReg a w s).chk = s.chk := (setReg_touches .. ).chk.resolve_left (by decide)
@[simp] theorem setReg_pdb (a : Nat) (w : Word) (s : State) : (setReg a w s).pdb = s.pdb := (setReg_touches .. ).pdb.resolve_left (by decide)
@[simp] theorem setReg_cpu (a : Nat) (w : Word) (s : State) : (setReg a w s).cpu = s.cpu := (setReg_touches .. ).cpu.resolve_left (by decide)
@[simp] theorem valOf_setReg (a : Nat) (w : Word) (s : State) (k : Nat) : valOf (setReg a w s) k = valOf s k := valOf_of_od (setReg_od ..) k
@[simp] theorem cfg_setReg (a : Nat) (w : Word) (s : State) (i j : Nat) : cfg (setReg a w s) i j = cfg s i j := cfg_of_od (setReg_od ..) i j
@[simp] theorem cfgOn_setReg (a : Nat) (w : Word) (s : State) (i j : Nat) : cfgOn (setReg a w s) i j = cfgOn s i j := cfgOn_of_od (setReg_od ..) i j

@[simp] theorem msixDue_pending (v : Nat) (s : State) : (msixDue v s).pending = s.pending := (msixDue_touches .. ).pending
@[simp] theorem msixDue_uid (v : Nat) (s : State) : (msixDue v s).uid = s.uid := (msixDue_touches .. ).uid
@[simp] theorem msixDue_baseMac (v : Nat) (s : State) : (msixDue v s).baseMac = s.baseMac := (msixDue_touches .. ).baseMac
@[simp] theorem msixDue_serial (v : Nat) (s : State) : (msixDue v s).serial = s.serial := (msixDue_touches .. ).serial
@[simp] theorem msixDue_hwRev (v : Nat) (s : State) : (msixDue v s).hwRev = s.hwRev := (msixDue_touches .. ).hwRev
@[simp] theorem msixDue_now (v : Nat) (s : State) : (msixDue v s).now = s.now := (msixDue_touches .. ).now.resolve_left (by decide)
@[simp] theorem msixDue_up (v : Nat) (s : State) : (msixDue v s).up = s.up := (msixDue_touches .. ).up.resolve_left (by decide)
@[simp] theorem msixDue_frac (v : Nat) (s : State) : (msixDue v s).frac = s.frac := (msixDue_touches .. ).frac.resolve_left (by decide)
@[simp] theorem msixDue_free (v : Nat) (s : State) : (msixDue v s).free = s.free := (msixDue_touches .. ).free.resolve_left (by decide)
@[simp] theorem msixDue_node (v : Nat) (s : State) : (msixDue v s).node = s.node := (msixDue_touches .. ).node.resolve_left (by decide)
@[simp] theorem msixDue_fwVersion (v : Nat) (s : State) : (msixDue v s).fwVersion = s.fwVersion := (msixDue_touches .. ).fwVersion.resolve_left (by decide)
@[simp] theorem msixDue_pwr (v : Nat) (s : State) : (msixDue v s).pwr = s.pwr := (msixDue_touches .. ).pwr.resolve_left (by decide)
@[simp] theorem msixDue_hpl (v : Nat) (s : State) : (msixDue v s).hpl = s.hpl := (msixDue_touches .. ).hpl.resolve_left (by decide)
@[simp] theorem msixDue_log (v : Nat) (s : State) : (msixDue v s).log = s.log := (msixDue_touches .. ).log.resolve_left (by decide)
@[simp] theorem msixDue_od (v : Nat) (s : State) : (msixDue v s).od = s.od := (msixDue_touches .. ).od.resolve_left (by decide)
@[simp] theorem msixDue_tak (v : Nat) (s : State) : (msixDue v s).tak = s.tak := (msixDue_touches .. ).tak.resolve_left (by decide)
@[simp] theorem msixDue_wak (v : Nat) (s : State) : (msixDue v s).wak = s.wak := (msixDue_touches .. ).wak.resolve_left (by decide)
@[simp] theorem msixDue_tln (v : Nat) (s : State) : (msixDue v s).tln = s.tln := (msixDue_touches .. ).tln.resolve_left (by decide)
@[simp] theorem msixDue_bb (v : Nat) (s : State) : (msixDue v s).bb = s.bb := (msixDue_touches .. ).bb.resolve_left (by decide)
@[simp] theorem msixDue_net (v : Nat) (s : State) : (msixDue v s).net = s.net := (msixDue_touches .. ).net.resolve_left (by decide)
@[simp] theorem msixDue_ina (v : Nat) (s : State) : (msixDue v s).ina = s.ina := (msixDue_touches .. ).ina.resolve_left (by decide)
@[simp] theorem msixDue_tim (v : Nat) (s : State) : (msixDue v s).tim = s.tim := (msixDue_touches .. ).tim.resolve_left (by decide)
@[simp] theorem msixDue_spl (v : Nat) (s : State) : (msixDue v s).spl = s.spl := (msixDue_touches .. ).spl.resolve_left (by decide)
@[simp] theorem msixDue_chk (v : Nat) (s : State) : (msixDue v s).chk = s.chk := (msixDue_touches .. ).chk.resolve_left (by decide)
@[simp] theorem msixDue_pdb (v : Nat) (s : State) : (msixDue v s).pdb = s.pdb := (msixDue_touches .. ).pdb.resolve_left (by decide)
@[simp] theorem msixDue_cpu (v : Nat) (s : State) : (msixDue v s).cpu = s.cpu := (msixDue_touches .. ).cpu.resolve_left (by decide)
@[simp] theorem valOf_msixDue (v : Nat) (s : State) (k : Nat) : valOf (msixDue v s) k = valOf s k := valOf_of_od (msixDue_od ..) k
@[simp] theorem cfg_msixDue (v : Nat) (s : State) (i j : Nat) : cfg (msixDue v s) i j = cfg s i j := cfg_of_od (msixDue_od ..) i j
@[simp] theorem cfgOn_msixDue (v : Nat) (s : State) (i j : Nat) : cfgOn (msixDue v s) i j = cfgOn s i j := cfgOn_of_od (msixDue_od ..) i j

@[simp] theorem riseCause_pending (b : Nat) (s : State) : (riseCause b s).pending = s.pending := (riseCause_touches .. ).pending
@[simp] theorem riseCause_uid (b : Nat) (s : State) : (riseCause b s).uid = s.uid := (riseCause_touches .. ).uid
@[simp] theorem riseCause_baseMac (b : Nat) (s : State) : (riseCause b s).baseMac = s.baseMac := (riseCause_touches .. ).baseMac
@[simp] theorem riseCause_serial (b : Nat) (s : State) : (riseCause b s).serial = s.serial := (riseCause_touches .. ).serial
@[simp] theorem riseCause_hwRev (b : Nat) (s : State) : (riseCause b s).hwRev = s.hwRev := (riseCause_touches .. ).hwRev
@[simp] theorem riseCause_now (b : Nat) (s : State) : (riseCause b s).now = s.now := (riseCause_touches .. ).now.resolve_left (by decide)
@[simp] theorem riseCause_up (b : Nat) (s : State) : (riseCause b s).up = s.up := (riseCause_touches .. ).up.resolve_left (by decide)
@[simp] theorem riseCause_frac (b : Nat) (s : State) : (riseCause b s).frac = s.frac := (riseCause_touches .. ).frac.resolve_left (by decide)
@[simp] theorem riseCause_free (b : Nat) (s : State) : (riseCause b s).free = s.free := (riseCause_touches .. ).free.resolve_left (by decide)
@[simp] theorem riseCause_node (b : Nat) (s : State) : (riseCause b s).node = s.node := (riseCause_touches .. ).node.resolve_left (by decide)
@[simp] theorem riseCause_fwVersion (b : Nat) (s : State) : (riseCause b s).fwVersion = s.fwVersion := (riseCause_touches .. ).fwVersion.resolve_left (by decide)
@[simp] theorem riseCause_pwr (b : Nat) (s : State) : (riseCause b s).pwr = s.pwr := (riseCause_touches .. ).pwr.resolve_left (by decide)
@[simp] theorem riseCause_hpl (b : Nat) (s : State) : (riseCause b s).hpl = s.hpl := (riseCause_touches .. ).hpl.resolve_left (by decide)
@[simp] theorem riseCause_log (b : Nat) (s : State) : (riseCause b s).log = s.log := (riseCause_touches .. ).log.resolve_left (by decide)
@[simp] theorem riseCause_od (b : Nat) (s : State) : (riseCause b s).od = s.od := (riseCause_touches .. ).od.resolve_left (by decide)
@[simp] theorem riseCause_tak (b : Nat) (s : State) : (riseCause b s).tak = s.tak := (riseCause_touches .. ).tak.resolve_left (by decide)
@[simp] theorem riseCause_wak (b : Nat) (s : State) : (riseCause b s).wak = s.wak := (riseCause_touches .. ).wak.resolve_left (by decide)
@[simp] theorem riseCause_tln (b : Nat) (s : State) : (riseCause b s).tln = s.tln := (riseCause_touches .. ).tln.resolve_left (by decide)
@[simp] theorem riseCause_bb (b : Nat) (s : State) : (riseCause b s).bb = s.bb := (riseCause_touches .. ).bb.resolve_left (by decide)
@[simp] theorem riseCause_net (b : Nat) (s : State) : (riseCause b s).net = s.net := (riseCause_touches .. ).net.resolve_left (by decide)
@[simp] theorem riseCause_ina (b : Nat) (s : State) : (riseCause b s).ina = s.ina := (riseCause_touches .. ).ina.resolve_left (by decide)
@[simp] theorem riseCause_tim (b : Nat) (s : State) : (riseCause b s).tim = s.tim := (riseCause_touches .. ).tim.resolve_left (by decide)
@[simp] theorem riseCause_spl (b : Nat) (s : State) : (riseCause b s).spl = s.spl := (riseCause_touches .. ).spl.resolve_left (by decide)
@[simp] theorem riseCause_chk (b : Nat) (s : State) : (riseCause b s).chk = s.chk := (riseCause_touches .. ).chk.resolve_left (by decide)
@[simp] theorem riseCause_pdb (b : Nat) (s : State) : (riseCause b s).pdb = s.pdb := (riseCause_touches .. ).pdb.resolve_left (by decide)
@[simp] theorem riseCause_cpu (b : Nat) (s : State) : (riseCause b s).cpu = s.cpu := (riseCause_touches .. ).cpu.resolve_left (by decide)
@[simp] theorem valOf_riseCause (b : Nat) (s : State) (k : Nat) : valOf (riseCause b s) k = valOf s k := valOf_of_od (riseCause_od ..) k
@[simp] theorem cfg_riseCause (b : Nat) (s : State) (i j : Nat) : cfg (riseCause b s) i j = cfg s i j := cfg_of_od (riseCause_od ..) i j
@[simp] theorem cfgOn_riseCause (b : Nat) (s : State) (i j : Nat) : cfgOn (riseCause b s) i j = cfgOn s i j := cfgOn_of_od (riseCause_od ..) i j

@[simp] theorem raiseIrq_pending (b : Nat) (s : State) : (raiseIrq b s).pending = s.pending := (raiseIrq_touches .. ).pending
@[simp] theorem raiseIrq_uid (b : Nat) (s : State) : (raiseIrq b s).uid = s.uid := (raiseIrq_touches .. ).uid
@[simp] theorem raiseIrq_baseMac (b : Nat) (s : State) : (raiseIrq b s).baseMac = s.baseMac := (raiseIrq_touches .. ).baseMac
@[simp] theorem raiseIrq_serial (b : Nat) (s : State) : (raiseIrq b s).serial = s.serial := (raiseIrq_touches .. ).serial
@[simp] theorem raiseIrq_hwRev (b : Nat) (s : State) : (raiseIrq b s).hwRev = s.hwRev := (raiseIrq_touches .. ).hwRev
@[simp] theorem raiseIrq_now (b : Nat) (s : State) : (raiseIrq b s).now = s.now := (raiseIrq_touches .. ).now.resolve_left (by decide)
@[simp] theorem raiseIrq_up (b : Nat) (s : State) : (raiseIrq b s).up = s.up := (raiseIrq_touches .. ).up.resolve_left (by decide)
@[simp] theorem raiseIrq_frac (b : Nat) (s : State) : (raiseIrq b s).frac = s.frac := (raiseIrq_touches .. ).frac.resolve_left (by decide)
@[simp] theorem raiseIrq_free (b : Nat) (s : State) : (raiseIrq b s).free = s.free := (raiseIrq_touches .. ).free.resolve_left (by decide)
@[simp] theorem raiseIrq_node (b : Nat) (s : State) : (raiseIrq b s).node = s.node := (raiseIrq_touches .. ).node.resolve_left (by decide)
@[simp] theorem raiseIrq_fwVersion (b : Nat) (s : State) : (raiseIrq b s).fwVersion = s.fwVersion := (raiseIrq_touches .. ).fwVersion.resolve_left (by decide)
@[simp] theorem raiseIrq_pwr (b : Nat) (s : State) : (raiseIrq b s).pwr = s.pwr := (raiseIrq_touches .. ).pwr.resolve_left (by decide)
@[simp] theorem raiseIrq_hpl (b : Nat) (s : State) : (raiseIrq b s).hpl = s.hpl := (raiseIrq_touches .. ).hpl.resolve_left (by decide)
@[simp] theorem raiseIrq_log (b : Nat) (s : State) : (raiseIrq b s).log = s.log := (raiseIrq_touches .. ).log.resolve_left (by decide)
@[simp] theorem raiseIrq_od (b : Nat) (s : State) : (raiseIrq b s).od = s.od := (raiseIrq_touches .. ).od.resolve_left (by decide)
@[simp] theorem raiseIrq_tak (b : Nat) (s : State) : (raiseIrq b s).tak = s.tak := (raiseIrq_touches .. ).tak.resolve_left (by decide)
@[simp] theorem raiseIrq_wak (b : Nat) (s : State) : (raiseIrq b s).wak = s.wak := (raiseIrq_touches .. ).wak.resolve_left (by decide)
@[simp] theorem raiseIrq_tln (b : Nat) (s : State) : (raiseIrq b s).tln = s.tln := (raiseIrq_touches .. ).tln.resolve_left (by decide)
@[simp] theorem raiseIrq_bb (b : Nat) (s : State) : (raiseIrq b s).bb = s.bb := (raiseIrq_touches .. ).bb.resolve_left (by decide)
@[simp] theorem raiseIrq_net (b : Nat) (s : State) : (raiseIrq b s).net = s.net := (raiseIrq_touches .. ).net.resolve_left (by decide)
@[simp] theorem raiseIrq_ina (b : Nat) (s : State) : (raiseIrq b s).ina = s.ina := (raiseIrq_touches .. ).ina.resolve_left (by decide)
@[simp] theorem raiseIrq_tim (b : Nat) (s : State) : (raiseIrq b s).tim = s.tim := (raiseIrq_touches .. ).tim.resolve_left (by decide)
@[simp] theorem raiseIrq_spl (b : Nat) (s : State) : (raiseIrq b s).spl = s.spl := (raiseIrq_touches .. ).spl.resolve_left (by decide)
@[simp] theorem raiseIrq_chk (b : Nat) (s : State) : (raiseIrq b s).chk = s.chk := (raiseIrq_touches .. ).chk.resolve_left (by decide)
@[simp] theorem raiseIrq_pdb (b : Nat) (s : State) : (raiseIrq b s).pdb = s.pdb := (raiseIrq_touches .. ).pdb.resolve_left (by decide)
@[simp] theorem valOf_raiseIrq (b : Nat) (s : State) (k : Nat) : valOf (raiseIrq b s) k = valOf s k := valOf_of_od (raiseIrq_od ..) k
@[simp] theorem cfg_raiseIrq (b : Nat) (s : State) (i j : Nat) : cfg (raiseIrq b s) i j = cfg s i j := cfg_of_od (raiseIrq_od ..) i j
@[simp] theorem cfgOn_raiseIrq (b : Nat) (s : State) (i j : Nat) : cfgOn (raiseIrq b s) i j = cfgOn s i j := cfgOn_of_od (raiseIrq_od ..) i j

@[simp] theorem flushPba_pending (s : State) : (flushPba s).pending = s.pending := (flushPba_touches .. ).pending
@[simp] theorem flushPba_uid (s : State) : (flushPba s).uid = s.uid := (flushPba_touches .. ).uid
@[simp] theorem flushPba_baseMac (s : State) : (flushPba s).baseMac = s.baseMac := (flushPba_touches .. ).baseMac
@[simp] theorem flushPba_serial (s : State) : (flushPba s).serial = s.serial := (flushPba_touches .. ).serial
@[simp] theorem flushPba_hwRev (s : State) : (flushPba s).hwRev = s.hwRev := (flushPba_touches .. ).hwRev
@[simp] theorem flushPba_now (s : State) : (flushPba s).now = s.now := (flushPba_touches .. ).now.resolve_left (by decide)
@[simp] theorem flushPba_up (s : State) : (flushPba s).up = s.up := (flushPba_touches .. ).up.resolve_left (by decide)
@[simp] theorem flushPba_frac (s : State) : (flushPba s).frac = s.frac := (flushPba_touches .. ).frac.resolve_left (by decide)
@[simp] theorem flushPba_free (s : State) : (flushPba s).free = s.free := (flushPba_touches .. ).free.resolve_left (by decide)
@[simp] theorem flushPba_node (s : State) : (flushPba s).node = s.node := (flushPba_touches .. ).node.resolve_left (by decide)
@[simp] theorem flushPba_fwVersion (s : State) : (flushPba s).fwVersion = s.fwVersion := (flushPba_touches .. ).fwVersion.resolve_left (by decide)
@[simp] theorem flushPba_pwr (s : State) : (flushPba s).pwr = s.pwr := (flushPba_touches .. ).pwr.resolve_left (by decide)
@[simp] theorem flushPba_hpl (s : State) : (flushPba s).hpl = s.hpl := (flushPba_touches .. ).hpl.resolve_left (by decide)
@[simp] theorem flushPba_log (s : State) : (flushPba s).log = s.log := (flushPba_touches .. ).log.resolve_left (by decide)
@[simp] theorem flushPba_od (s : State) : (flushPba s).od = s.od := (flushPba_touches .. ).od.resolve_left (by decide)
@[simp] theorem flushPba_tak (s : State) : (flushPba s).tak = s.tak := (flushPba_touches .. ).tak.resolve_left (by decide)
@[simp] theorem flushPba_wak (s : State) : (flushPba s).wak = s.wak := (flushPba_touches .. ).wak.resolve_left (by decide)
@[simp] theorem flushPba_tln (s : State) : (flushPba s).tln = s.tln := (flushPba_touches .. ).tln.resolve_left (by decide)
@[simp] theorem flushPba_bb (s : State) : (flushPba s).bb = s.bb := (flushPba_touches .. ).bb.resolve_left (by decide)
@[simp] theorem flushPba_net (s : State) : (flushPba s).net = s.net := (flushPba_touches .. ).net.resolve_left (by decide)
@[simp] theorem flushPba_ina (s : State) : (flushPba s).ina = s.ina := (flushPba_touches .. ).ina.resolve_left (by decide)
@[simp] theorem flushPba_tim (s : State) : (flushPba s).tim = s.tim := (flushPba_touches .. ).tim.resolve_left (by decide)
@[simp] theorem flushPba_spl (s : State) : (flushPba s).spl = s.spl := (flushPba_touches .. ).spl.resolve_left (by decide)
@[simp] theorem flushPba_chk (s : State) : (flushPba s).chk = s.chk := (flushPba_touches .. ).chk.resolve_left (by decide)
@[simp] theorem flushPba_pdb (s : State) : (flushPba s).pdb = s.pdb := (flushPba_touches .. ).pdb.resolve_left (by decide)
@[simp] theorem flushPba_cpu (s : State) : (flushPba s).cpu = s.cpu := (flushPba_touches .. ).cpu.resolve_left (by decide)
@[simp] theorem valOf_flushPba (s : State) (k : Nat) : valOf (flushPba s) k = valOf s k := valOf_of_od (flushPba_od ..) k
@[simp] theorem cfg_flushPba (s : State) (i j : Nat) : cfg (flushPba s) i j = cfg s i j := cfg_of_od (flushPba_od ..) i j
@[simp] theorem cfgOn_flushPba (s : State) (i j : Nat) : cfgOn (flushPba s) i j = cfgOn s i j := cfgOn_of_od (flushPba_od ..) i j

@[simp] theorem setNow_pending (t : Instant) (s : State) : (setNow t s).pending = s.pending := (setNow_touches .. ).pending
@[simp] theorem setNow_uid (t : Instant) (s : State) : (setNow t s).uid = s.uid := (setNow_touches .. ).uid
@[simp] theorem setNow_baseMac (t : Instant) (s : State) : (setNow t s).baseMac = s.baseMac := (setNow_touches .. ).baseMac
@[simp] theorem setNow_serial (t : Instant) (s : State) : (setNow t s).serial = s.serial := (setNow_touches .. ).serial
@[simp] theorem setNow_hwRev (t : Instant) (s : State) : (setNow t s).hwRev = s.hwRev := (setNow_touches .. ).hwRev
@[simp] theorem setNow_up (t : Instant) (s : State) : (setNow t s).up = s.up := (setNow_touches .. ).up.resolve_left (by decide)
@[simp] theorem setNow_free (t : Instant) (s : State) : (setNow t s).free = s.free := (setNow_touches .. ).free.resolve_left (by decide)
@[simp] theorem setNow_node (t : Instant) (s : State) : (setNow t s).node = s.node := (setNow_touches .. ).node.resolve_left (by decide)
@[simp] theorem setNow_fwVersion (t : Instant) (s : State) : (setNow t s).fwVersion = s.fwVersion := (setNow_touches .. ).fwVersion.resolve_left (by decide)
@[simp] theorem setNow_pwr (t : Instant) (s : State) : (setNow t s).pwr = s.pwr := (setNow_touches .. ).pwr.resolve_left (by decide)
@[simp] theorem setNow_hpl (t : Instant) (s : State) : (setNow t s).hpl = s.hpl := (setNow_touches .. ).hpl.resolve_left (by decide)
@[simp] theorem setNow_log (t : Instant) (s : State) : (setNow t s).log = s.log := (setNow_touches .. ).log.resolve_left (by decide)
@[simp] theorem setNow_od (t : Instant) (s : State) : (setNow t s).od = s.od := (setNow_touches .. ).od.resolve_left (by decide)
@[simp] theorem setNow_tak (t : Instant) (s : State) : (setNow t s).tak = s.tak := (setNow_touches .. ).tak.resolve_left (by decide)
@[simp] theorem setNow_wak (t : Instant) (s : State) : (setNow t s).wak = s.wak := (setNow_touches .. ).wak.resolve_left (by decide)
@[simp] theorem setNow_tln (t : Instant) (s : State) : (setNow t s).tln = s.tln := (setNow_touches .. ).tln.resolve_left (by decide)
@[simp] theorem setNow_bb (t : Instant) (s : State) : (setNow t s).bb = s.bb := (setNow_touches .. ).bb.resolve_left (by decide)
@[simp] theorem setNow_net (t : Instant) (s : State) : (setNow t s).net = s.net := (setNow_touches .. ).net.resolve_left (by decide)
@[simp] theorem setNow_ina (t : Instant) (s : State) : (setNow t s).ina = s.ina := (setNow_touches .. ).ina.resolve_left (by decide)
@[simp] theorem setNow_tim (t : Instant) (s : State) : (setNow t s).tim = s.tim := (setNow_touches .. ).tim.resolve_left (by decide)
@[simp] theorem setNow_spl (t : Instant) (s : State) : (setNow t s).spl = s.spl := (setNow_touches .. ).spl.resolve_left (by decide)
@[simp] theorem setNow_chk (t : Instant) (s : State) : (setNow t s).chk = s.chk := (setNow_touches .. ).chk.resolve_left (by decide)
@[simp] theorem setNow_pdb (t : Instant) (s : State) : (setNow t s).pdb = s.pdb := (setNow_touches .. ).pdb.resolve_left (by decide)
@[simp] theorem valOf_setNow (t : Instant) (s : State) (k : Nat) : valOf (setNow t s) k = valOf s k := valOf_of_od (setNow_od ..) k
@[simp] theorem cfg_setNow (t : Instant) (s : State) (i j : Nat) : cfg (setNow t s) i j = cfg s i j := cfg_of_od (setNow_od ..) i j
@[simp] theorem cfgOn_setNow (t : Instant) (s : State) (i j : Nat) : cfgOn (setNow t s) i j = cfgOn s i j := cfgOn_of_od (setNow_od ..) i j

@[simp] theorem passTo_pending (u : Nat) (s : State) : (passTo u s).pending = s.pending := (passTo_touches .. ).pending
@[simp] theorem passTo_uid (u : Nat) (s : State) : (passTo u s).uid = s.uid := (passTo_touches .. ).uid
@[simp] theorem passTo_baseMac (u : Nat) (s : State) : (passTo u s).baseMac = s.baseMac := (passTo_touches .. ).baseMac
@[simp] theorem passTo_serial (u : Nat) (s : State) : (passTo u s).serial = s.serial := (passTo_touches .. ).serial
@[simp] theorem passTo_hwRev (u : Nat) (s : State) : (passTo u s).hwRev = s.hwRev := (passTo_touches .. ).hwRev
@[simp] theorem passTo_free (u : Nat) (s : State) : (passTo u s).free = s.free := (passTo_touches .. ).free.resolve_left (by decide)
@[simp] theorem passTo_node (u : Nat) (s : State) : (passTo u s).node = s.node := (passTo_touches .. ).node.resolve_left (by decide)
@[simp] theorem passTo_fwVersion (u : Nat) (s : State) : (passTo u s).fwVersion = s.fwVersion := (passTo_touches .. ).fwVersion.resolve_left (by decide)
@[simp] theorem passTo_pwr (u : Nat) (s : State) : (passTo u s).pwr = s.pwr := (passTo_touches .. ).pwr.resolve_left (by decide)
@[simp] theorem passTo_hpl (u : Nat) (s : State) : (passTo u s).hpl = s.hpl := (passTo_touches .. ).hpl.resolve_left (by decide)
@[simp] theorem passTo_od (u : Nat) (s : State) : (passTo u s).od = s.od := (passTo_touches .. ).od.resolve_left (by decide)
@[simp] theorem passTo_tak (u : Nat) (s : State) : (passTo u s).tak = s.tak := (passTo_touches .. ).tak.resolve_left (by decide)
@[simp] theorem passTo_wak (u : Nat) (s : State) : (passTo u s).wak = s.wak := (passTo_touches .. ).wak.resolve_left (by decide)
@[simp] theorem passTo_tln (u : Nat) (s : State) : (passTo u s).tln = s.tln := (passTo_touches .. ).tln.resolve_left (by decide)
@[simp] theorem passTo_bb (u : Nat) (s : State) : (passTo u s).bb = s.bb := (passTo_touches .. ).bb.resolve_left (by decide)
@[simp] theorem passTo_net (u : Nat) (s : State) : (passTo u s).net = s.net := (passTo_touches .. ).net.resolve_left (by decide)
@[simp] theorem passTo_ina (u : Nat) (s : State) : (passTo u s).ina = s.ina := (passTo_touches .. ).ina.resolve_left (by decide)
@[simp] theorem passTo_tim (u : Nat) (s : State) : (passTo u s).tim = s.tim := (passTo_touches .. ).tim.resolve_left (by decide)
@[simp] theorem passTo_spl (u : Nat) (s : State) : (passTo u s).spl = s.spl := (passTo_touches .. ).spl.resolve_left (by decide)
@[simp] theorem passTo_chk (u : Nat) (s : State) : (passTo u s).chk = s.chk := (passTo_touches .. ).chk.resolve_left (by decide)
@[simp] theorem passTo_pdb (u : Nat) (s : State) : (passTo u s).pdb = s.pdb := (passTo_touches .. ).pdb.resolve_left (by decide)
@[simp] theorem valOf_passTo (u : Nat) (s : State) (k : Nat) : valOf (passTo u s) k = valOf s k := valOf_of_od (passTo_od ..) k
@[simp] theorem cfg_passTo (u : Nat) (s : State) (i j : Nat) : cfg (passTo u s) i j = cfg s i j := cfg_of_od (passTo_od ..) i j
@[simp] theorem cfgOn_passTo (u : Nat) (s : State) (i j : Nat) : cfgOn (passTo u s) i j = cfgOn s i j := cfgOn_of_od (passTo_od ..) i j

@[simp] theorem passToInstant_pending (t : Instant) (s : State) : (passToInstant t s).pending = s.pending := (passToInstant_touches .. ).pending
@[simp] theorem passToInstant_uid (t : Instant) (s : State) : (passToInstant t s).uid = s.uid := (passToInstant_touches .. ).uid
@[simp] theorem passToInstant_baseMac (t : Instant) (s : State) : (passToInstant t s).baseMac = s.baseMac := (passToInstant_touches .. ).baseMac
@[simp] theorem passToInstant_serial (t : Instant) (s : State) : (passToInstant t s).serial = s.serial := (passToInstant_touches .. ).serial
@[simp] theorem passToInstant_hwRev (t : Instant) (s : State) : (passToInstant t s).hwRev = s.hwRev := (passToInstant_touches .. ).hwRev
@[simp] theorem passToInstant_free (t : Instant) (s : State) : (passToInstant t s).free = s.free := (passToInstant_touches .. ).free.resolve_left (by decide)
@[simp] theorem passToInstant_node (t : Instant) (s : State) : (passToInstant t s).node = s.node := (passToInstant_touches .. ).node.resolve_left (by decide)
@[simp] theorem passToInstant_fwVersion (t : Instant) (s : State) : (passToInstant t s).fwVersion = s.fwVersion := (passToInstant_touches .. ).fwVersion.resolve_left (by decide)
@[simp] theorem passToInstant_pwr (t : Instant) (s : State) : (passToInstant t s).pwr = s.pwr := (passToInstant_touches .. ).pwr.resolve_left (by decide)
@[simp] theorem passToInstant_hpl (t : Instant) (s : State) : (passToInstant t s).hpl = s.hpl := (passToInstant_touches .. ).hpl.resolve_left (by decide)
@[simp] theorem passToInstant_od (t : Instant) (s : State) : (passToInstant t s).od = s.od := (passToInstant_touches .. ).od.resolve_left (by decide)
@[simp] theorem passToInstant_tak (t : Instant) (s : State) : (passToInstant t s).tak = s.tak := (passToInstant_touches .. ).tak.resolve_left (by decide)
@[simp] theorem passToInstant_wak (t : Instant) (s : State) : (passToInstant t s).wak = s.wak := (passToInstant_touches .. ).wak.resolve_left (by decide)
@[simp] theorem passToInstant_tln (t : Instant) (s : State) : (passToInstant t s).tln = s.tln := (passToInstant_touches .. ).tln.resolve_left (by decide)
@[simp] theorem passToInstant_bb (t : Instant) (s : State) : (passToInstant t s).bb = s.bb := (passToInstant_touches .. ).bb.resolve_left (by decide)
@[simp] theorem passToInstant_net (t : Instant) (s : State) : (passToInstant t s).net = s.net := (passToInstant_touches .. ).net.resolve_left (by decide)
@[simp] theorem passToInstant_ina (t : Instant) (s : State) : (passToInstant t s).ina = s.ina := (passToInstant_touches .. ).ina.resolve_left (by decide)
@[simp] theorem passToInstant_tim (t : Instant) (s : State) : (passToInstant t s).tim = s.tim := (passToInstant_touches .. ).tim.resolve_left (by decide)
@[simp] theorem passToInstant_spl (t : Instant) (s : State) : (passToInstant t s).spl = s.spl := (passToInstant_touches .. ).spl.resolve_left (by decide)
@[simp] theorem passToInstant_chk (t : Instant) (s : State) : (passToInstant t s).chk = s.chk := (passToInstant_touches .. ).chk.resolve_left (by decide)
@[simp] theorem passToInstant_pdb (t : Instant) (s : State) : (passToInstant t s).pdb = s.pdb := (passToInstant_touches .. ).pdb.resolve_left (by decide)
@[simp] theorem valOf_passToInstant (t : Instant) (s : State) (k : Nat) : valOf (passToInstant t s) k = valOf s k := valOf_of_od (passToInstant_od ..) k
@[simp] theorem cfg_passToInstant (t : Instant) (s : State) (i j : Nat) : cfg (passToInstant t s) i j = cfg s i j := cfg_of_od (passToInstant_od ..) i j
@[simp] theorem cfgOn_passToInstant (t : Instant) (s : State) (i j : Nat) : cfgOn (passToInstant t s) i j = cfgOn s i j := cfgOn_of_od (passToInstant_od ..) i j

@[simp] theorem toFrame_pending (s : State) : (toFrame s).pending = s.pending := (toFrame_touches .. ).pending
@[simp] theorem toFrame_uid (s : State) : (toFrame s).uid = s.uid := (toFrame_touches .. ).uid
@[simp] theorem toFrame_baseMac (s : State) : (toFrame s).baseMac = s.baseMac := (toFrame_touches .. ).baseMac
@[simp] theorem toFrame_serial (s : State) : (toFrame s).serial = s.serial := (toFrame_touches .. ).serial
@[simp] theorem toFrame_hwRev (s : State) : (toFrame s).hwRev = s.hwRev := (toFrame_touches .. ).hwRev
@[simp] theorem toFrame_free (s : State) : (toFrame s).free = s.free := (toFrame_touches .. ).free.resolve_left (by decide)
@[simp] theorem toFrame_node (s : State) : (toFrame s).node = s.node := (toFrame_touches .. ).node.resolve_left (by decide)
@[simp] theorem toFrame_fwVersion (s : State) : (toFrame s).fwVersion = s.fwVersion := (toFrame_touches .. ).fwVersion.resolve_left (by decide)
@[simp] theorem toFrame_pwr (s : State) : (toFrame s).pwr = s.pwr := (toFrame_touches .. ).pwr.resolve_left (by decide)
@[simp] theorem toFrame_hpl (s : State) : (toFrame s).hpl = s.hpl := (toFrame_touches .. ).hpl.resolve_left (by decide)
@[simp] theorem toFrame_od (s : State) : (toFrame s).od = s.od := (toFrame_touches .. ).od.resolve_left (by decide)
@[simp] theorem toFrame_tak (s : State) : (toFrame s).tak = s.tak := (toFrame_touches .. ).tak.resolve_left (by decide)
@[simp] theorem toFrame_wak (s : State) : (toFrame s).wak = s.wak := (toFrame_touches .. ).wak.resolve_left (by decide)
@[simp] theorem toFrame_tln (s : State) : (toFrame s).tln = s.tln := (toFrame_touches .. ).tln.resolve_left (by decide)
@[simp] theorem toFrame_bb (s : State) : (toFrame s).bb = s.bb := (toFrame_touches .. ).bb.resolve_left (by decide)
@[simp] theorem toFrame_net (s : State) : (toFrame s).net = s.net := (toFrame_touches .. ).net.resolve_left (by decide)
@[simp] theorem toFrame_ina (s : State) : (toFrame s).ina = s.ina := (toFrame_touches .. ).ina.resolve_left (by decide)
@[simp] theorem toFrame_tim (s : State) : (toFrame s).tim = s.tim := (toFrame_touches .. ).tim.resolve_left (by decide)
@[simp] theorem toFrame_spl (s : State) : (toFrame s).spl = s.spl := (toFrame_touches .. ).spl.resolve_left (by decide)
@[simp] theorem toFrame_chk (s : State) : (toFrame s).chk = s.chk := (toFrame_touches .. ).chk.resolve_left (by decide)
@[simp] theorem toFrame_pdb (s : State) : (toFrame s).pdb = s.pdb := (toFrame_touches .. ).pdb.resolve_left (by decide)
@[simp] theorem valOf_toFrame (s : State) (k : Nat) : valOf (toFrame s) k = valOf s k := valOf_of_od (toFrame_od ..) k
@[simp] theorem cfg_toFrame (s : State) (i j : Nat) : cfg (toFrame s) i j = cfg s i j := cfg_of_od (toFrame_od ..) i j
@[simp] theorem cfgOn_toFrame (s : State) (i j : Nat) : cfgOn (toFrame s) i j = cfgOn s i j := cfgOn_of_od (toFrame_od ..) i j

@[simp] theorem loseN_pending (n : Nat) (s : State) : (loseN n s).pending = s.pending := (loseN_touches .. ).pending
@[simp] theorem loseN_uid (n : Nat) (s : State) : (loseN n s).uid = s.uid := (loseN_touches .. ).uid
@[simp] theorem loseN_baseMac (n : Nat) (s : State) : (loseN n s).baseMac = s.baseMac := (loseN_touches .. ).baseMac
@[simp] theorem loseN_serial (n : Nat) (s : State) : (loseN n s).serial = s.serial := (loseN_touches .. ).serial
@[simp] theorem loseN_hwRev (n : Nat) (s : State) : (loseN n s).hwRev = s.hwRev := (loseN_touches .. ).hwRev
@[simp] theorem loseN_now (n : Nat) (s : State) : (loseN n s).now = s.now := (loseN_touches .. ).now.resolve_left (by decide)
@[simp] theorem loseN_up (n : Nat) (s : State) : (loseN n s).up = s.up := (loseN_touches .. ).up.resolve_left (by decide)
@[simp] theorem loseN_frac (n : Nat) (s : State) : (loseN n s).frac = s.frac := (loseN_touches .. ).frac.resolve_left (by decide)
@[simp] theorem loseN_free (n : Nat) (s : State) : (loseN n s).free = s.free := (loseN_touches .. ).free.resolve_left (by decide)
@[simp] theorem loseN_node (n : Nat) (s : State) : (loseN n s).node = s.node := (loseN_touches .. ).node.resolve_left (by decide)
@[simp] theorem loseN_fwVersion (n : Nat) (s : State) : (loseN n s).fwVersion = s.fwVersion := (loseN_touches .. ).fwVersion.resolve_left (by decide)
@[simp] theorem loseN_pwr (n : Nat) (s : State) : (loseN n s).pwr = s.pwr := (loseN_touches .. ).pwr.resolve_left (by decide)
@[simp] theorem loseN_hpl (n : Nat) (s : State) : (loseN n s).hpl = s.hpl := (loseN_touches .. ).hpl.resolve_left (by decide)
@[simp] theorem loseN_od (n : Nat) (s : State) : (loseN n s).od = s.od := (loseN_touches .. ).od.resolve_left (by decide)
@[simp] theorem loseN_tak (n : Nat) (s : State) : (loseN n s).tak = s.tak := (loseN_touches .. ).tak.resolve_left (by decide)
@[simp] theorem loseN_wak (n : Nat) (s : State) : (loseN n s).wak = s.wak := (loseN_touches .. ).wak.resolve_left (by decide)
@[simp] theorem loseN_tln (n : Nat) (s : State) : (loseN n s).tln = s.tln := (loseN_touches .. ).tln.resolve_left (by decide)
@[simp] theorem loseN_bb (n : Nat) (s : State) : (loseN n s).bb = s.bb := (loseN_touches .. ).bb.resolve_left (by decide)
@[simp] theorem loseN_net (n : Nat) (s : State) : (loseN n s).net = s.net := (loseN_touches .. ).net.resolve_left (by decide)
@[simp] theorem loseN_ina (n : Nat) (s : State) : (loseN n s).ina = s.ina := (loseN_touches .. ).ina.resolve_left (by decide)
@[simp] theorem loseN_tim (n : Nat) (s : State) : (loseN n s).tim = s.tim := (loseN_touches .. ).tim.resolve_left (by decide)
@[simp] theorem loseN_spl (n : Nat) (s : State) : (loseN n s).spl = s.spl := (loseN_touches .. ).spl.resolve_left (by decide)
@[simp] theorem loseN_chk (n : Nat) (s : State) : (loseN n s).chk = s.chk := (loseN_touches .. ).chk.resolve_left (by decide)
@[simp] theorem loseN_pdb (n : Nat) (s : State) : (loseN n s).pdb = s.pdb := (loseN_touches .. ).pdb.resolve_left (by decide)
@[simp] theorem valOf_loseN (n : Nat) (s : State) (k : Nat) : valOf (loseN n s) k = valOf s k := valOf_of_od (loseN_od ..) k
@[simp] theorem cfg_loseN (n : Nat) (s : State) (i j : Nat) : cfg (loseN n s) i j = cfg s i j := cfg_of_od (loseN_od ..) i j
@[simp] theorem cfgOn_loseN (n : Nat) (s : State) (i j : Nat) : cfgOn (loseN n s) i j = cfgOn s i j := cfgOn_of_od (loseN_od ..) i j

@[simp] theorem fire_pending (src sev : Nat) (data : List Byte) (s : State) : (fire src sev data s).pending = s.pending := (fire_touches .. ).pending
@[simp] theorem fire_uid (src sev : Nat) (data : List Byte) (s : State) : (fire src sev data s).uid = s.uid := (fire_touches .. ).uid
@[simp] theorem fire_baseMac (src sev : Nat) (data : List Byte) (s : State) : (fire src sev data s).baseMac = s.baseMac := (fire_touches .. ).baseMac
@[simp] theorem fire_serial (src sev : Nat) (data : List Byte) (s : State) : (fire src sev data s).serial = s.serial := (fire_touches .. ).serial
@[simp] theorem fire_hwRev (src sev : Nat) (data : List Byte) (s : State) : (fire src sev data s).hwRev = s.hwRev := (fire_touches .. ).hwRev
@[simp] theorem fire_now (src sev : Nat) (data : List Byte) (s : State) : (fire src sev data s).now = s.now := (fire_touches .. ).now.resolve_left (by decide)
@[simp] theorem fire_up (src sev : Nat) (data : List Byte) (s : State) : (fire src sev data s).up = s.up := (fire_touches .. ).up.resolve_left (by decide)
@[simp] theorem fire_frac (src sev : Nat) (data : List Byte) (s : State) : (fire src sev data s).frac = s.frac := (fire_touches .. ).frac.resolve_left (by decide)
@[simp] theorem fire_free (src sev : Nat) (data : List Byte) (s : State) : (fire src sev data s).free = s.free := (fire_touches .. ).free.resolve_left (by decide)
@[simp] theorem fire_node (src sev : Nat) (data : List Byte) (s : State) : (fire src sev data s).node = s.node := (fire_touches .. ).node.resolve_left (by decide)
@[simp] theorem fire_fwVersion (src sev : Nat) (data : List Byte) (s : State) : (fire src sev data s).fwVersion = s.fwVersion := (fire_touches .. ).fwVersion.resolve_left (by decide)
@[simp] theorem fire_pwr (src sev : Nat) (data : List Byte) (s : State) : (fire src sev data s).pwr = s.pwr := (fire_touches .. ).pwr.resolve_left (by decide)
@[simp] theorem fire_hpl (src sev : Nat) (data : List Byte) (s : State) : (fire src sev data s).hpl = s.hpl := (fire_touches .. ).hpl.resolve_left (by decide)
@[simp] theorem fire_od (src sev : Nat) (data : List Byte) (s : State) : (fire src sev data s).od = s.od := (fire_touches .. ).od.resolve_left (by decide)
@[simp] theorem fire_tak (src sev : Nat) (data : List Byte) (s : State) : (fire src sev data s).tak = s.tak := (fire_touches .. ).tak.resolve_left (by decide)
@[simp] theorem fire_wak (src sev : Nat) (data : List Byte) (s : State) : (fire src sev data s).wak = s.wak := (fire_touches .. ).wak.resolve_left (by decide)
@[simp] theorem fire_tln (src sev : Nat) (data : List Byte) (s : State) : (fire src sev data s).tln = s.tln := (fire_touches .. ).tln.resolve_left (by decide)
@[simp] theorem fire_bb (src sev : Nat) (data : List Byte) (s : State) : (fire src sev data s).bb = s.bb := (fire_touches .. ).bb.resolve_left (by decide)
@[simp] theorem fire_net (src sev : Nat) (data : List Byte) (s : State) : (fire src sev data s).net = s.net := (fire_touches .. ).net.resolve_left (by decide)
@[simp] theorem fire_ina (src sev : Nat) (data : List Byte) (s : State) : (fire src sev data s).ina = s.ina := (fire_touches .. ).ina.resolve_left (by decide)
@[simp] theorem fire_tim (src sev : Nat) (data : List Byte) (s : State) : (fire src sev data s).tim = s.tim := (fire_touches .. ).tim.resolve_left (by decide)
@[simp] theorem fire_spl (src sev : Nat) (data : List Byte) (s : State) : (fire src sev data s).spl = s.spl := (fire_touches .. ).spl.resolve_left (by decide)
@[simp] theorem fire_chk (src sev : Nat) (data : List Byte) (s : State) : (fire src sev data s).chk = s.chk := (fire_touches .. ).chk.resolve_left (by decide)
@[simp] theorem fire_pdb (src sev : Nat) (data : List Byte) (s : State) : (fire src sev data s).pdb = s.pdb := (fire_touches .. ).pdb.resolve_left (by decide)
@[simp] theorem valOf_fire (src sev : Nat) (data : List Byte) (s : State) (k : Nat) : valOf (fire src sev data s) k = valOf s k := valOf_of_od (fire_od ..) k
@[simp] theorem cfg_fire (src sev : Nat) (data : List Byte) (s : State) (i j : Nat) : cfg (fire src sev data s) i j = cfg s i j := cfg_of_od (fire_od ..) i j
@[simp] theorem cfgOn_fire (src sev : Nat) (data : List Byte) (s : State) (i j : Nat) : cfgOn (fire src sev data s) i j = cfgOn s i j := cfgOn_of_od (fire_od ..) i j

@[simp] theorem setLink_pending (p : Nat) (x : LinkSt) (s : State) : (setLink p x s).pending = s.pending := (setLink_touches .. ).pending
@[simp] theorem setLink_uid (p : Nat) (x : LinkSt) (s : State) : (setLink p x s).uid = s.uid := (setLink_touches .. ).uid
@[simp] theorem setLink_baseMac (p : Nat) (x : LinkSt) (s : State) : (setLink p x s).baseMac = s.baseMac := (setLink_touches .. ).baseMac
@[simp] theorem setLink_serial (p : Nat) (x : LinkSt) (s : State) : (setLink p x s).serial = s.serial := (setLink_touches .. ).serial
@[simp] theorem setLink_hwRev (p : Nat) (x : LinkSt) (s : State) : (setLink p x s).hwRev = s.hwRev := (setLink_touches .. ).hwRev
@[simp] theorem setLink_now (p : Nat) (x : LinkSt) (s : State) : (setLink p x s).now = s.now := (setLink_touches .. ).now.resolve_left (by decide)
@[simp] theorem setLink_up (p : Nat) (x : LinkSt) (s : State) : (setLink p x s).up = s.up := (setLink_touches .. ).up.resolve_left (by decide)
@[simp] theorem setLink_frac (p : Nat) (x : LinkSt) (s : State) : (setLink p x s).frac = s.frac := (setLink_touches .. ).frac.resolve_left (by decide)
@[simp] theorem setLink_free (p : Nat) (x : LinkSt) (s : State) : (setLink p x s).free = s.free := (setLink_touches .. ).free.resolve_left (by decide)
@[simp] theorem setLink_out (p : Nat) (x : LinkSt) (s : State) : (setLink p x s).out = s.out := (setLink_touches .. ).out.resolve_left (by decide)
@[simp] theorem setLink_node (p : Nat) (x : LinkSt) (s : State) : (setLink p x s).node = s.node := (setLink_touches .. ).node.resolve_left (by decide)
@[simp] theorem setLink_fwVersion (p : Nat) (x : LinkSt) (s : State) : (setLink p x s).fwVersion = s.fwVersion := (setLink_touches .. ).fwVersion.resolve_left (by decide)
@[simp] theorem setLink_reg (p : Nat) (x : LinkSt) (s : State) : (setLink p x s).reg = s.reg := (setLink_touches .. ).reg.resolve_left (by decide)
@[simp] theorem setLink_irq (p : Nat) (x : LinkSt) (s : State) : (setLink p x s).irq = s.irq := (setLink_touches .. ).irq.resolve_left (by decide)
@[simp] theorem setLink_pwr (p : Nat) (x : LinkSt) (s : State) : (setLink p x s).pwr = s.pwr := (setLink_touches .. ).pwr.resolve_left (by decide)
@[simp] theorem setLink_hpl (p : Nat) (x : LinkSt) (s : State) : (setLink p x s).hpl = s.hpl := (setLink_touches .. ).hpl.resolve_left (by decide)
@[simp] theorem setLink_log (p : Nat) (x : LinkSt) (s : State) : (setLink p x s).log = s.log := (setLink_touches .. ).log.resolve_left (by decide)
@[simp] theorem setLink_od (p : Nat) (x : LinkSt) (s : State) : (setLink p x s).od = s.od := (setLink_touches .. ).od.resolve_left (by decide)
@[simp] theorem setLink_tak (p : Nat) (x : LinkSt) (s : State) : (setLink p x s).tak = s.tak := (setLink_touches .. ).tak.resolve_left (by decide)
@[simp] theorem setLink_wak (p : Nat) (x : LinkSt) (s : State) : (setLink p x s).wak = s.wak := (setLink_touches .. ).wak.resolve_left (by decide)
@[simp] theorem setLink_tln (p : Nat) (x : LinkSt) (s : State) : (setLink p x s).tln = s.tln := (setLink_touches .. ).tln.resolve_left (by decide)
@[simp] theorem setLink_net (p : Nat) (x : LinkSt) (s : State) : (setLink p x s).net = s.net := (setLink_touches .. ).net.resolve_left (by decide)
@[simp] theorem setLink_ina (p : Nat) (x : LinkSt) (s : State) : (setLink p x s).ina = s.ina := (setLink_touches .. ).ina.resolve_left (by decide)
@[simp] theorem setLink_tim (p : Nat) (x : LinkSt) (s : State) : (setLink p x s).tim = s.tim := (setLink_touches .. ).tim.resolve_left (by decide)
@[simp] theorem setLink_spl (p : Nat) (x : LinkSt) (s : State) : (setLink p x s).spl = s.spl := (setLink_touches .. ).spl.resolve_left (by decide)
@[simp] theorem setLink_chk (p : Nat) (x : LinkSt) (s : State) : (setLink p x s).chk = s.chk := (setLink_touches .. ).chk.resolve_left (by decide)
@[simp] theorem setLink_pdb (p : Nat) (x : LinkSt) (s : State) : (setLink p x s).pdb = s.pdb := (setLink_touches .. ).pdb.resolve_left (by decide)
@[simp] theorem setLink_cpu (p : Nat) (x : LinkSt) (s : State) : (setLink p x s).cpu = s.cpu := (setLink_touches .. ).cpu.resolve_left (by decide)
@[simp] theorem valOf_setLink (p : Nat) (x : LinkSt) (s : State) (k : Nat) : valOf (setLink p x s) k = valOf s k := valOf_of_od (setLink_od ..) k
@[simp] theorem cfg_setLink (p : Nat) (x : LinkSt) (s : State) (i j : Nat) : cfg (setLink p x s) i j = cfg s i j := cfg_of_od (setLink_od ..) i j
@[simp] theorem cfgOn_setLink (p : Nat) (x : LinkSt) (s : State) (i j : Nat) : cfgOn (setLink p x s) i j = cfgOn s i j := cfgOn_of_od (setLink_od ..) i j

@[simp] theorem setLine_pending (l : Line) (x : LineSt) (s : State) : (setLine l x s).pending = s.pending := (setLine_touches .. ).pending
@[simp] theorem setLine_uid (l : Line) (x : LineSt) (s : State) : (setLine l x s).uid = s.uid := (setLine_touches .. ).uid
@[simp] theorem setLine_baseMac (l : Line) (x : LineSt) (s : State) : (setLine l x s).baseMac = s.baseMac := (setLine_touches .. ).baseMac
@[simp] theorem setLine_serial (l : Line) (x : LineSt) (s : State) : (setLine l x s).serial = s.serial := (setLine_touches .. ).serial
@[simp] theorem setLine_hwRev (l : Line) (x : LineSt) (s : State) : (setLine l x s).hwRev = s.hwRev := (setLine_touches .. ).hwRev
@[simp] theorem setLine_now (l : Line) (x : LineSt) (s : State) : (setLine l x s).now = s.now := (setLine_touches .. ).now.resolve_left (by decide)
@[simp] theorem setLine_up (l : Line) (x : LineSt) (s : State) : (setLine l x s).up = s.up := (setLine_touches .. ).up.resolve_left (by decide)
@[simp] theorem setLine_frac (l : Line) (x : LineSt) (s : State) : (setLine l x s).frac = s.frac := (setLine_touches .. ).frac.resolve_left (by decide)
@[simp] theorem setLine_free (l : Line) (x : LineSt) (s : State) : (setLine l x s).free = s.free := (setLine_touches .. ).free.resolve_left (by decide)
@[simp] theorem setLine_out (l : Line) (x : LineSt) (s : State) : (setLine l x s).out = s.out := (setLine_touches .. ).out.resolve_left (by decide)
@[simp] theorem setLine_node (l : Line) (x : LineSt) (s : State) : (setLine l x s).node = s.node := (setLine_touches .. ).node.resolve_left (by decide)
@[simp] theorem setLine_fwVersion (l : Line) (x : LineSt) (s : State) : (setLine l x s).fwVersion = s.fwVersion := (setLine_touches .. ).fwVersion.resolve_left (by decide)
@[simp] theorem setLine_reg (l : Line) (x : LineSt) (s : State) : (setLine l x s).reg = s.reg := (setLine_touches .. ).reg.resolve_left (by decide)
@[simp] theorem setLine_irq (l : Line) (x : LineSt) (s : State) : (setLine l x s).irq = s.irq := (setLine_touches .. ).irq.resolve_left (by decide)
@[simp] theorem setLine_pwr (l : Line) (x : LineSt) (s : State) : (setLine l x s).pwr = s.pwr := (setLine_touches .. ).pwr.resolve_left (by decide)
@[simp] theorem setLine_hpl (l : Line) (x : LineSt) (s : State) : (setLine l x s).hpl = s.hpl := (setLine_touches .. ).hpl.resolve_left (by decide)
@[simp] theorem setLine_log (l : Line) (x : LineSt) (s : State) : (setLine l x s).log = s.log := (setLine_touches .. ).log.resolve_left (by decide)
@[simp] theorem setLine_od (l : Line) (x : LineSt) (s : State) : (setLine l x s).od = s.od := (setLine_touches .. ).od.resolve_left (by decide)
@[simp] theorem setLine_tak (l : Line) (x : LineSt) (s : State) : (setLine l x s).tak = s.tak := (setLine_touches .. ).tak.resolve_left (by decide)
@[simp] theorem setLine_wak (l : Line) (x : LineSt) (s : State) : (setLine l x s).wak = s.wak := (setLine_touches .. ).wak.resolve_left (by decide)
@[simp] theorem setLine_tln (l : Line) (x : LineSt) (s : State) : (setLine l x s).tln = s.tln := (setLine_touches .. ).tln.resolve_left (by decide)
@[simp] theorem setLine_net (l : Line) (x : LineSt) (s : State) : (setLine l x s).net = s.net := (setLine_touches .. ).net.resolve_left (by decide)
@[simp] theorem setLine_ina (l : Line) (x : LineSt) (s : State) : (setLine l x s).ina = s.ina := (setLine_touches .. ).ina.resolve_left (by decide)
@[simp] theorem setLine_tim (l : Line) (x : LineSt) (s : State) : (setLine l x s).tim = s.tim := (setLine_touches .. ).tim.resolve_left (by decide)
@[simp] theorem setLine_spl (l : Line) (x : LineSt) (s : State) : (setLine l x s).spl = s.spl := (setLine_touches .. ).spl.resolve_left (by decide)
@[simp] theorem setLine_chk (l : Line) (x : LineSt) (s : State) : (setLine l x s).chk = s.chk := (setLine_touches .. ).chk.resolve_left (by decide)
@[simp] theorem setLine_pdb (l : Line) (x : LineSt) (s : State) : (setLine l x s).pdb = s.pdb := (setLine_touches .. ).pdb.resolve_left (by decide)
@[simp] theorem setLine_cpu (l : Line) (x : LineSt) (s : State) : (setLine l x s).cpu = s.cpu := (setLine_touches .. ).cpu.resolve_left (by decide)
@[simp] theorem valOf_setLine (l : Line) (x : LineSt) (s : State) (k : Nat) : valOf (setLine l x s) k = valOf s k := valOf_of_od (setLine_od ..) k
@[simp] theorem cfg_setLine (l : Line) (x : LineSt) (s : State) (i j : Nat) : cfg (setLine l x s) i j = cfg s i j := cfg_of_od (setLine_od ..) i j
@[simp] theorem cfgOn_setLine (l : Line) (x : LineSt) (s : State) (i j : Nat) : cfgOn (setLine l x s) i j = cfgOn s i j := cfgOn_of_od (setLine_od ..) i j

@[simp] theorem setMac_pending (p : Nat) (x : MacSt) (s : State) : (setMac p x s).pending = s.pending := (setMac_touches .. ).pending
@[simp] theorem setMac_uid (p : Nat) (x : MacSt) (s : State) : (setMac p x s).uid = s.uid := (setMac_touches .. ).uid
@[simp] theorem setMac_baseMac (p : Nat) (x : MacSt) (s : State) : (setMac p x s).baseMac = s.baseMac := (setMac_touches .. ).baseMac
@[simp] theorem setMac_serial (p : Nat) (x : MacSt) (s : State) : (setMac p x s).serial = s.serial := (setMac_touches .. ).serial
@[simp] theorem setMac_hwRev (p : Nat) (x : MacSt) (s : State) : (setMac p x s).hwRev = s.hwRev := (setMac_touches .. ).hwRev
@[simp] theorem setMac_now (p : Nat) (x : MacSt) (s : State) : (setMac p x s).now = s.now := (setMac_touches .. ).now.resolve_left (by decide)
@[simp] theorem setMac_up (p : Nat) (x : MacSt) (s : State) : (setMac p x s).up = s.up := (setMac_touches .. ).up.resolve_left (by decide)
@[simp] theorem setMac_frac (p : Nat) (x : MacSt) (s : State) : (setMac p x s).frac = s.frac := (setMac_touches .. ).frac.resolve_left (by decide)
@[simp] theorem setMac_free (p : Nat) (x : MacSt) (s : State) : (setMac p x s).free = s.free := (setMac_touches .. ).free.resolve_left (by decide)
@[simp] theorem setMac_out (p : Nat) (x : MacSt) (s : State) : (setMac p x s).out = s.out := (setMac_touches .. ).out.resolve_left (by decide)
@[simp] theorem setMac_node (p : Nat) (x : MacSt) (s : State) : (setMac p x s).node = s.node := (setMac_touches .. ).node.resolve_left (by decide)
@[simp] theorem setMac_fwVersion (p : Nat) (x : MacSt) (s : State) : (setMac p x s).fwVersion = s.fwVersion := (setMac_touches .. ).fwVersion.resolve_left (by decide)
@[simp] theorem setMac_reg (p : Nat) (x : MacSt) (s : State) : (setMac p x s).reg = s.reg := (setMac_touches .. ).reg.resolve_left (by decide)
@[simp] theorem setMac_irq (p : Nat) (x : MacSt) (s : State) : (setMac p x s).irq = s.irq := (setMac_touches .. ).irq.resolve_left (by decide)
@[simp] theorem setMac_pwr (p : Nat) (x : MacSt) (s : State) : (setMac p x s).pwr = s.pwr := (setMac_touches .. ).pwr.resolve_left (by decide)
@[simp] theorem setMac_hpl (p : Nat) (x : MacSt) (s : State) : (setMac p x s).hpl = s.hpl := (setMac_touches .. ).hpl.resolve_left (by decide)
@[simp] theorem setMac_log (p : Nat) (x : MacSt) (s : State) : (setMac p x s).log = s.log := (setMac_touches .. ).log.resolve_left (by decide)
@[simp] theorem setMac_od (p : Nat) (x : MacSt) (s : State) : (setMac p x s).od = s.od := (setMac_touches .. ).od.resolve_left (by decide)
@[simp] theorem setMac_tak (p : Nat) (x : MacSt) (s : State) : (setMac p x s).tak = s.tak := (setMac_touches .. ).tak.resolve_left (by decide)
@[simp] theorem setMac_wak (p : Nat) (x : MacSt) (s : State) : (setMac p x s).wak = s.wak := (setMac_touches .. ).wak.resolve_left (by decide)
@[simp] theorem setMac_tln (p : Nat) (x : MacSt) (s : State) : (setMac p x s).tln = s.tln := (setMac_touches .. ).tln.resolve_left (by decide)
@[simp] theorem setMac_bb (p : Nat) (x : MacSt) (s : State) : (setMac p x s).bb = s.bb := (setMac_touches .. ).bb.resolve_left (by decide)
@[simp] theorem setMac_ina (p : Nat) (x : MacSt) (s : State) : (setMac p x s).ina = s.ina := (setMac_touches .. ).ina.resolve_left (by decide)
@[simp] theorem setMac_tim (p : Nat) (x : MacSt) (s : State) : (setMac p x s).tim = s.tim := (setMac_touches .. ).tim.resolve_left (by decide)
@[simp] theorem setMac_spl (p : Nat) (x : MacSt) (s : State) : (setMac p x s).spl = s.spl := (setMac_touches .. ).spl.resolve_left (by decide)
@[simp] theorem setMac_chk (p : Nat) (x : MacSt) (s : State) : (setMac p x s).chk = s.chk := (setMac_touches .. ).chk.resolve_left (by decide)
@[simp] theorem setMac_pdb (p : Nat) (x : MacSt) (s : State) : (setMac p x s).pdb = s.pdb := (setMac_touches .. ).pdb.resolve_left (by decide)
@[simp] theorem setMac_cpu (p : Nat) (x : MacSt) (s : State) : (setMac p x s).cpu = s.cpu := (setMac_touches .. ).cpu.resolve_left (by decide)
@[simp] theorem valOf_setMac (p : Nat) (x : MacSt) (s : State) (k : Nat) : valOf (setMac p x s) k = valOf s k := valOf_of_od (setMac_od ..) k
@[simp] theorem cfg_setMac (p : Nat) (x : MacSt) (s : State) (i j : Nat) : cfg (setMac p x s) i j = cfg s i j := cfg_of_od (setMac_od ..) i j
@[simp] theorem cfgOn_setMac (p : Nat) (x : MacSt) (s : State) (i j : Nat) : cfgOn (setMac p x s) i j = cfgOn s i j := cfgOn_of_od (setMac_od ..) i j

@[simp] theorem setSched_pending (p : Nat) (x : SchedSt) (s : State) : (setSched p x s).pending = s.pending := (setSched_touches .. ).pending
@[simp] theorem setSched_uid (p : Nat) (x : SchedSt) (s : State) : (setSched p x s).uid = s.uid := (setSched_touches .. ).uid
@[simp] theorem setSched_baseMac (p : Nat) (x : SchedSt) (s : State) : (setSched p x s).baseMac = s.baseMac := (setSched_touches .. ).baseMac
@[simp] theorem setSched_serial (p : Nat) (x : SchedSt) (s : State) : (setSched p x s).serial = s.serial := (setSched_touches .. ).serial
@[simp] theorem setSched_hwRev (p : Nat) (x : SchedSt) (s : State) : (setSched p x s).hwRev = s.hwRev := (setSched_touches .. ).hwRev
@[simp] theorem setSched_now (p : Nat) (x : SchedSt) (s : State) : (setSched p x s).now = s.now := (setSched_touches .. ).now.resolve_left (by decide)
@[simp] theorem setSched_up (p : Nat) (x : SchedSt) (s : State) : (setSched p x s).up = s.up := (setSched_touches .. ).up.resolve_left (by decide)
@[simp] theorem setSched_frac (p : Nat) (x : SchedSt) (s : State) : (setSched p x s).frac = s.frac := (setSched_touches .. ).frac.resolve_left (by decide)
@[simp] theorem setSched_free (p : Nat) (x : SchedSt) (s : State) : (setSched p x s).free = s.free := (setSched_touches .. ).free.resolve_left (by decide)
@[simp] theorem setSched_out (p : Nat) (x : SchedSt) (s : State) : (setSched p x s).out = s.out := (setSched_touches .. ).out.resolve_left (by decide)
@[simp] theorem setSched_node (p : Nat) (x : SchedSt) (s : State) : (setSched p x s).node = s.node := (setSched_touches .. ).node.resolve_left (by decide)
@[simp] theorem setSched_fwVersion (p : Nat) (x : SchedSt) (s : State) : (setSched p x s).fwVersion = s.fwVersion := (setSched_touches .. ).fwVersion.resolve_left (by decide)
@[simp] theorem setSched_reg (p : Nat) (x : SchedSt) (s : State) : (setSched p x s).reg = s.reg := (setSched_touches .. ).reg.resolve_left (by decide)
@[simp] theorem setSched_irq (p : Nat) (x : SchedSt) (s : State) : (setSched p x s).irq = s.irq := (setSched_touches .. ).irq.resolve_left (by decide)
@[simp] theorem setSched_pwr (p : Nat) (x : SchedSt) (s : State) : (setSched p x s).pwr = s.pwr := (setSched_touches .. ).pwr.resolve_left (by decide)
@[simp] theorem setSched_hpl (p : Nat) (x : SchedSt) (s : State) : (setSched p x s).hpl = s.hpl := (setSched_touches .. ).hpl.resolve_left (by decide)
@[simp] theorem setSched_log (p : Nat) (x : SchedSt) (s : State) : (setSched p x s).log = s.log := (setSched_touches .. ).log.resolve_left (by decide)
@[simp] theorem setSched_od (p : Nat) (x : SchedSt) (s : State) : (setSched p x s).od = s.od := (setSched_touches .. ).od.resolve_left (by decide)
@[simp] theorem setSched_tak (p : Nat) (x : SchedSt) (s : State) : (setSched p x s).tak = s.tak := (setSched_touches .. ).tak.resolve_left (by decide)
@[simp] theorem setSched_wak (p : Nat) (x : SchedSt) (s : State) : (setSched p x s).wak = s.wak := (setSched_touches .. ).wak.resolve_left (by decide)
@[simp] theorem setSched_tln (p : Nat) (x : SchedSt) (s : State) : (setSched p x s).tln = s.tln := (setSched_touches .. ).tln.resolve_left (by decide)
@[simp] theorem setSched_bb (p : Nat) (x : SchedSt) (s : State) : (setSched p x s).bb = s.bb := (setSched_touches .. ).bb.resolve_left (by decide)
@[simp] theorem setSched_ina (p : Nat) (x : SchedSt) (s : State) : (setSched p x s).ina = s.ina := (setSched_touches .. ).ina.resolve_left (by decide)
@[simp] theorem setSched_tim (p : Nat) (x : SchedSt) (s : State) : (setSched p x s).tim = s.tim := (setSched_touches .. ).tim.resolve_left (by decide)
@[simp] theorem setSched_spl (p : Nat) (x : SchedSt) (s : State) : (setSched p x s).spl = s.spl := (setSched_touches .. ).spl.resolve_left (by decide)
@[simp] theorem setSched_chk (p : Nat) (x : SchedSt) (s : State) : (setSched p x s).chk = s.chk := (setSched_touches .. ).chk.resolve_left (by decide)
@[simp] theorem setSched_pdb (p : Nat) (x : SchedSt) (s : State) : (setSched p x s).pdb = s.pdb := (setSched_touches .. ).pdb.resolve_left (by decide)
@[simp] theorem setSched_cpu (p : Nat) (x : SchedSt) (s : State) : (setSched p x s).cpu = s.cpu := (setSched_touches .. ).cpu.resolve_left (by decide)
@[simp] theorem valOf_setSched (p : Nat) (x : SchedSt) (s : State) (k : Nat) : valOf (setSched p x s) k = valOf s k := valOf_of_od (setSched_od ..) k
@[simp] theorem cfg_setSched (p : Nat) (x : SchedSt) (s : State) (i j : Nat) : cfg (setSched p x s) i j = cfg s i j := cfg_of_od (setSched_od ..) i j
@[simp] theorem cfgOn_setSched (p : Nat) (x : SchedSt) (s : State) (i j : Nat) : cfgOn (setSched p x s) i j = cfgOn s i j := cfgOn_of_od (setSched_od ..) i j

@[simp] theorem setNb_pending (p : Nat) (x : NbSt) (s : State) : (setNb p x s).pending = s.pending := (setNb_touches .. ).pending
@[simp] theorem setNb_uid (p : Nat) (x : NbSt) (s : State) : (setNb p x s).uid = s.uid := (setNb_touches .. ).uid
@[simp] theorem setNb_baseMac (p : Nat) (x : NbSt) (s : State) : (setNb p x s).baseMac = s.baseMac := (setNb_touches .. ).baseMac
@[simp] theorem setNb_serial (p : Nat) (x : NbSt) (s : State) : (setNb p x s).serial = s.serial := (setNb_touches .. ).serial
@[simp] theorem setNb_hwRev (p : Nat) (x : NbSt) (s : State) : (setNb p x s).hwRev = s.hwRev := (setNb_touches .. ).hwRev
@[simp] theorem setNb_now (p : Nat) (x : NbSt) (s : State) : (setNb p x s).now = s.now := (setNb_touches .. ).now.resolve_left (by decide)
@[simp] theorem setNb_up (p : Nat) (x : NbSt) (s : State) : (setNb p x s).up = s.up := (setNb_touches .. ).up.resolve_left (by decide)
@[simp] theorem setNb_frac (p : Nat) (x : NbSt) (s : State) : (setNb p x s).frac = s.frac := (setNb_touches .. ).frac.resolve_left (by decide)
@[simp] theorem setNb_free (p : Nat) (x : NbSt) (s : State) : (setNb p x s).free = s.free := (setNb_touches .. ).free.resolve_left (by decide)
@[simp] theorem setNb_out (p : Nat) (x : NbSt) (s : State) : (setNb p x s).out = s.out := (setNb_touches .. ).out.resolve_left (by decide)
@[simp] theorem setNb_node (p : Nat) (x : NbSt) (s : State) : (setNb p x s).node = s.node := (setNb_touches .. ).node.resolve_left (by decide)
@[simp] theorem setNb_fwVersion (p : Nat) (x : NbSt) (s : State) : (setNb p x s).fwVersion = s.fwVersion := (setNb_touches .. ).fwVersion.resolve_left (by decide)
@[simp] theorem setNb_reg (p : Nat) (x : NbSt) (s : State) : (setNb p x s).reg = s.reg := (setNb_touches .. ).reg.resolve_left (by decide)
@[simp] theorem setNb_irq (p : Nat) (x : NbSt) (s : State) : (setNb p x s).irq = s.irq := (setNb_touches .. ).irq.resolve_left (by decide)
@[simp] theorem setNb_pwr (p : Nat) (x : NbSt) (s : State) : (setNb p x s).pwr = s.pwr := (setNb_touches .. ).pwr.resolve_left (by decide)
@[simp] theorem setNb_hpl (p : Nat) (x : NbSt) (s : State) : (setNb p x s).hpl = s.hpl := (setNb_touches .. ).hpl.resolve_left (by decide)
@[simp] theorem setNb_log (p : Nat) (x : NbSt) (s : State) : (setNb p x s).log = s.log := (setNb_touches .. ).log.resolve_left (by decide)
@[simp] theorem setNb_od (p : Nat) (x : NbSt) (s : State) : (setNb p x s).od = s.od := (setNb_touches .. ).od.resolve_left (by decide)
@[simp] theorem setNb_tak (p : Nat) (x : NbSt) (s : State) : (setNb p x s).tak = s.tak := (setNb_touches .. ).tak.resolve_left (by decide)
@[simp] theorem setNb_wak (p : Nat) (x : NbSt) (s : State) : (setNb p x s).wak = s.wak := (setNb_touches .. ).wak.resolve_left (by decide)
@[simp] theorem setNb_tln (p : Nat) (x : NbSt) (s : State) : (setNb p x s).tln = s.tln := (setNb_touches .. ).tln.resolve_left (by decide)
@[simp] theorem setNb_bb (p : Nat) (x : NbSt) (s : State) : (setNb p x s).bb = s.bb := (setNb_touches .. ).bb.resolve_left (by decide)
@[simp] theorem setNb_net (p : Nat) (x : NbSt) (s : State) : (setNb p x s).net = s.net := (setNb_touches .. ).net.resolve_left (by decide)
@[simp] theorem setNb_tim (p : Nat) (x : NbSt) (s : State) : (setNb p x s).tim = s.tim := (setNb_touches .. ).tim.resolve_left (by decide)
@[simp] theorem setNb_spl (p : Nat) (x : NbSt) (s : State) : (setNb p x s).spl = s.spl := (setNb_touches .. ).spl.resolve_left (by decide)
@[simp] theorem setNb_chk (p : Nat) (x : NbSt) (s : State) : (setNb p x s).chk = s.chk := (setNb_touches .. ).chk.resolve_left (by decide)
@[simp] theorem setNb_pdb (p : Nat) (x : NbSt) (s : State) : (setNb p x s).pdb = s.pdb := (setNb_touches .. ).pdb.resolve_left (by decide)
@[simp] theorem setNb_cpu (p : Nat) (x : NbSt) (s : State) : (setNb p x s).cpu = s.cpu := (setNb_touches .. ).cpu.resolve_left (by decide)
@[simp] theorem valOf_setNb (p : Nat) (x : NbSt) (s : State) (k : Nat) : valOf (setNb p x s) k = valOf s k := valOf_of_od (setNb_od ..) k
@[simp] theorem cfg_setNb (p : Nat) (x : NbSt) (s : State) (i j : Nat) : cfg (setNb p x s) i j = cfg s i j := cfg_of_od (setNb_od ..) i j
@[simp] theorem cfgOn_setNb (p : Nat) (x : NbSt) (s : State) (i j : Nat) : cfgOn (setNb p x s) i j = cfgOn s i j := cfgOn_of_od (setNb_od ..) i j

@[simp] theorem setPtp_pending (p : Nat) (x : PtpSt) (s : State) : (setPtp p x s).pending = s.pending := (setPtp_touches .. ).pending
@[simp] theorem setPtp_uid (p : Nat) (x : PtpSt) (s : State) : (setPtp p x s).uid = s.uid := (setPtp_touches .. ).uid
@[simp] theorem setPtp_baseMac (p : Nat) (x : PtpSt) (s : State) : (setPtp p x s).baseMac = s.baseMac := (setPtp_touches .. ).baseMac
@[simp] theorem setPtp_serial (p : Nat) (x : PtpSt) (s : State) : (setPtp p x s).serial = s.serial := (setPtp_touches .. ).serial
@[simp] theorem setPtp_hwRev (p : Nat) (x : PtpSt) (s : State) : (setPtp p x s).hwRev = s.hwRev := (setPtp_touches .. ).hwRev
@[simp] theorem setPtp_now (p : Nat) (x : PtpSt) (s : State) : (setPtp p x s).now = s.now := (setPtp_touches .. ).now.resolve_left (by decide)
@[simp] theorem setPtp_up (p : Nat) (x : PtpSt) (s : State) : (setPtp p x s).up = s.up := (setPtp_touches .. ).up.resolve_left (by decide)
@[simp] theorem setPtp_frac (p : Nat) (x : PtpSt) (s : State) : (setPtp p x s).frac = s.frac := (setPtp_touches .. ).frac.resolve_left (by decide)
@[simp] theorem setPtp_free (p : Nat) (x : PtpSt) (s : State) : (setPtp p x s).free = s.free := (setPtp_touches .. ).free.resolve_left (by decide)
@[simp] theorem setPtp_out (p : Nat) (x : PtpSt) (s : State) : (setPtp p x s).out = s.out := (setPtp_touches .. ).out.resolve_left (by decide)
@[simp] theorem setPtp_node (p : Nat) (x : PtpSt) (s : State) : (setPtp p x s).node = s.node := (setPtp_touches .. ).node.resolve_left (by decide)
@[simp] theorem setPtp_fwVersion (p : Nat) (x : PtpSt) (s : State) : (setPtp p x s).fwVersion = s.fwVersion := (setPtp_touches .. ).fwVersion.resolve_left (by decide)
@[simp] theorem setPtp_reg (p : Nat) (x : PtpSt) (s : State) : (setPtp p x s).reg = s.reg := (setPtp_touches .. ).reg.resolve_left (by decide)
@[simp] theorem setPtp_irq (p : Nat) (x : PtpSt) (s : State) : (setPtp p x s).irq = s.irq := (setPtp_touches .. ).irq.resolve_left (by decide)
@[simp] theorem setPtp_pwr (p : Nat) (x : PtpSt) (s : State) : (setPtp p x s).pwr = s.pwr := (setPtp_touches .. ).pwr.resolve_left (by decide)
@[simp] theorem setPtp_hpl (p : Nat) (x : PtpSt) (s : State) : (setPtp p x s).hpl = s.hpl := (setPtp_touches .. ).hpl.resolve_left (by decide)
@[simp] theorem setPtp_log (p : Nat) (x : PtpSt) (s : State) : (setPtp p x s).log = s.log := (setPtp_touches .. ).log.resolve_left (by decide)
@[simp] theorem setPtp_od (p : Nat) (x : PtpSt) (s : State) : (setPtp p x s).od = s.od := (setPtp_touches .. ).od.resolve_left (by decide)
@[simp] theorem setPtp_tak (p : Nat) (x : PtpSt) (s : State) : (setPtp p x s).tak = s.tak := (setPtp_touches .. ).tak.resolve_left (by decide)
@[simp] theorem setPtp_wak (p : Nat) (x : PtpSt) (s : State) : (setPtp p x s).wak = s.wak := (setPtp_touches .. ).wak.resolve_left (by decide)
@[simp] theorem setPtp_tln (p : Nat) (x : PtpSt) (s : State) : (setPtp p x s).tln = s.tln := (setPtp_touches .. ).tln.resolve_left (by decide)
@[simp] theorem setPtp_bb (p : Nat) (x : PtpSt) (s : State) : (setPtp p x s).bb = s.bb := (setPtp_touches .. ).bb.resolve_left (by decide)
@[simp] theorem setPtp_net (p : Nat) (x : PtpSt) (s : State) : (setPtp p x s).net = s.net := (setPtp_touches .. ).net.resolve_left (by decide)
@[simp] theorem setPtp_ina (p : Nat) (x : PtpSt) (s : State) : (setPtp p x s).ina = s.ina := (setPtp_touches .. ).ina.resolve_left (by decide)
@[simp] theorem setPtp_spl (p : Nat) (x : PtpSt) (s : State) : (setPtp p x s).spl = s.spl := (setPtp_touches .. ).spl.resolve_left (by decide)
@[simp] theorem setPtp_chk (p : Nat) (x : PtpSt) (s : State) : (setPtp p x s).chk = s.chk := (setPtp_touches .. ).chk.resolve_left (by decide)
@[simp] theorem setPtp_pdb (p : Nat) (x : PtpSt) (s : State) : (setPtp p x s).pdb = s.pdb := (setPtp_touches .. ).pdb.resolve_left (by decide)
@[simp] theorem setPtp_cpu (p : Nat) (x : PtpSt) (s : State) : (setPtp p x s).cpu = s.cpu := (setPtp_touches .. ).cpu.resolve_left (by decide)
@[simp] theorem valOf_setPtp (p : Nat) (x : PtpSt) (s : State) (k : Nat) : valOf (setPtp p x s) k = valOf s k := valOf_of_od (setPtp_od ..) k
@[simp] theorem cfg_setPtp (p : Nat) (x : PtpSt) (s : State) (i j : Nat) : cfg (setPtp p x s) i j = cfg s i j := cfg_of_od (setPtp_od ..) i j
@[simp] theorem cfgOn_setPtp (p : Nat) (x : PtpSt) (s : State) (i j : Nat) : cfgOn (setPtp p x s) i j = cfgOn s i j := cfgOn_of_od (setPtp_od ..) i j

end Sys2Proof.Machine
end

