-- ==== Sys2Proof/Laws/Counters.lean ====
section
/-!
SUPPORT. Laws/Counters.lean: what counting in a MAC leaves of the judgement of frames.
-/
namespace Sys2Proof.Machine
set_option Elab.async false
set_option linter.all false

@[simp] theorem macSt_raiseIrq (b j : Nat) (s : State) : macSt (raiseIrq b s) j = macSt s j := by
  unfold macSt; rw [raiseIrq_net]

/-- What a state that differs from another in one MAC keeps of the limit of every MAC. -/
theorem oldLimit_setMac {p j : Nat} {m : MacSt} {x s : State} (h : x.net = s.net) (g : m.oldLimit = (macSt s p).oldLimit) :
    (macSt (setMac p m x) j).oldLimit = (macSt s j).oldLimit := by
  by_cases c : p = j
  · subst c; simp only [macSt, setMac, tget_tset_same]; exact g
  · simp only [macSt, setMac, tget_tset_other _ _ _ _ _ c, h]

/-- A MAC counter leaves the limit that judged frames before its last change as it was. -/
theorem countMac_oldLimit (p i n j : Nat) (s : State) : (macSt (countMac p i n s) j).oldLimit = (macSt s j).oldLimit := by
  unfold countMac
  have hx : (bumpBy (macCounter p i) n s).net = s.net := bumpBy_net ..
  have hm : (macSt (bumpBy (macCounter p i) n s) p).oldLimit = (macSt s p).oldLimit := by unfold macSt; rw [hx]
  dsimp only
  split
  · rfl
  · split
    · unfold macSt; rw [hx]
    · split <;> split <;> (try rw [macSt_raiseIrq]) <;> exact oldLimit_setMac hx hm

@[simp] theorem rxLimit_countMac (p i n j : Nat) (f : Frame) (s : State) : rxLimit (countMac p i n s) j f = rxLimit s j f := by
  have o : (countMac p i n s).od = s.od := (countMac_touches ..).od.resolve_left (by decide)
  have u : (countMac p i n s).up = s.up := (countMac_touches ..).up.resolve_left (by decide)
  have b : (countMac p i n s).bb = s.bb := (countMac_touches ..).bb.resolve_left (by decide)
  have c : cfg (countMac p i n s) 0x2210 (j + 1) = cfg s 0x2210 (j + 1) := by unfold cfg valOf; rw [o]
  unfold rxLimit octetTicks linkSt
  rw [countMac_oldLimit, u, c, b]

end Sys2Proof.Machine
end

