-- ==== Sys2Proof/Laws/Requests.lean ====
section
/-!
SUPPORT. Laws/Requests.lean: a request of a ready session executes at once.
-/
namespace Sys2Proof.Machine
set_option Elab.async false
set_option linter.all false

@[simp] theorem namedBy_self (e : Nat × DictOp × Req) : namedBy e e = true := by simp [namedBy, sameRequest]

/-- A request of a ready session executes at once. -/
theorem serve_ready {i : Session} {op : DictOp} {q : Req} {s : State} (h : readyFor s i = true) :
    serve i op q s = execute i op q (setSess i { sessOf s i with lastReq := s.up } s) := by
  simp only [readyFor, Bool.and_eq_true, List.isEmpty_iff, Option.isNone_iff_eq_none] at h
  obtain ⟨⟨⟨⟨hs, hl⟩, hq⟩, hst⟩, hu⟩ := h
  have e1 : (setSess i { sessOf s i with lastReq := s.up } s).od.queue = [] := hq
  have e2 : (setSess i { sessOf s i with lastReq := s.up } s).od.storing = none := hst
  have e3 : (setSess i { sessOf s i with lastReq := s.up } s).od.unanswered = [] := hu
  simp only [serve, hs, hl, hq, enqueueReq]
  generalize setSess i { sessOf s i with lastReq := s.up } s = u at *
  have back : ({ u with od.queue := [], od.storing := none, od.unanswered := [] } : State) = u := by rw [← e1, ← e2, ← e3]
  simp -zeta [e1, e2, e3]
  simp [e2, runQueue, executeEntry, i.isLt]
  exact congrArg _ back

theorem execute_read {i : Session} {q : Req} {s : State} (h : readyFor s i = true) : serve i .read q s = doRead i q (requested i s) := serve_ready h
theorem execute_write {i : Session} {q : Req} {s : State} (h : readyFor s i = true) : serve i .write q s = doWrite i q (requested i s) := serve_ready h
theorem execute_slate {i : Session} {q : Req} {s : State} (h : readyFor s i = true) : serve i .slate q s = doSlate i q (requested i s) := serve_ready h
theorem execute_print {i : Session} {q : Req} {s : State} (h : readyFor s i = true) : serve i .print q s = doPrint i q (requested i s) := serve_ready h
theorem execute_scrap {i : Session} {q : Req} {s : State} (h : readyFor s i = true) : serve i .scrap q s = doScrap i q (requested i s) := serve_ready h
theorem execute_close {i : Session} {q : Req} {s : State} (h : readyFor s i = true) : serve i .close q s = doClose i q (requested i s) := serve_ready h

@[simp] theorem sessOf_setSess (i : Session) (x : Sess) (s : State) : sessOf (setSess i x s) i = x := by
  simp [sessOf, setSess, tget_tset_same]

@[simp] theorem sessOf_bumpOd (k : Nat) (i : Session) (s : State) : sessOf (bumpOd k s) i = sessOf s i := rfl

@[simp] theorem sessOf_requested (i : Session) (s : State) : sessOf (requested i s) i = { sessOf s i with lastReq := s.up } := by
  simp [requested]

/-- What a write keeps alive changes none of its checks. -/
@[simp] theorem accessCode_renewTake (i : Session) (q : Req) (s : State) : accessCode i q (renewTake i s) = accessCode i q s := by
  unfold renewTake; split <;> rfl

@[simp] theorem sessOf_renewTake (i j : Session) (s : State) : sessOf (renewTake i s) j = sessOf s j := by
  unfold renewTake; split <;> rfl

@[simp] theorem sessOf_wholeWrite (i : Session) (s : State) :
    sessOf (wholeWrite i s) i = { sessOf s i with lastReq := s.up, partialV := none } := by
  simp [wholeWrite]

@[simp] theorem wholeWrite_userState (i : Session) (s : State) : (wholeWrite i s).tak.user.state = s.tak.user.state := by
  unfold wholeWrite renewTake; split <;> rfl

@[simp] theorem wholeWrite_owner (i : Session) (s : State) : (wholeWrite i s).tak.user.owner = s.tak.user.owner := by
  unfold wholeWrite renewTake; split <;> rfl

@[simp] theorem wholeWrite_staged (i : Session) (s : State) : (wholeWrite i s).tak.user.staged = s.tak.user.staged := by
  unfold wholeWrite renewTake; split <;> rfl

/-- A write by the owner of the OPEN take has renewed it. -/
theorem wholeWrite_owned {i : Session} {s : State} (u : ownsOpen i s = true) :
    ({ wholeWrite i s with tak.user.lastReq := s.up } : State) = wholeWrite i s := by
  have u2 : ownsOpen i (requested i s) = true := u
  unfold wholeWrite renewTake; rw [if_pos u2]; rfl

@[simp] theorem requested_node (i : Session) (s : State) : (requested i s).node = s.node := rfl
@[simp] theorem writeState_requested (i : Session) (s : State) (x y : Nat) : writeState (requested i s) x y = writeState s x y := rfl

/-- A WRITE that its checks 1 to 5 refuse. -/
theorem doWrite_refused {i : Session} {q : Req} {s : State} (hc : accessCode i q (requested i s) ≠ 0) :
    doWrite i q (requested i s) = finish i .write q (codeRsp .write q (accessCode i q (requested i s)) 0) (wholeWrite i s) := by
  simp only [doWrite, accessCode_renewTake]
  rw [if_pos hc]; rfl

/-- The WRITE of a whole value by a ready session, past checks 1 to 6. -/
theorem doWrite_whole {i : Session} {q : Req} {r : Obj} {s : State} (hp : (sessOf s i).partialV = none)
    (hc : accessCode i q (requested i s) = 0) (hr : objRow q.index q.sub = some r) (ho : q.offset = 0)
    (ht : q.total = q.data.length)
    (hl : if r.ty.isScalar then q.data.length = r.ty.size else lengthOk (key q.index q.sub) r q.total = true) :
    doWrite i q (requested i s) = writeWhole i q r q.data (wholeWrite i s) := by
  have hs : segment i q r (renewTake i (requested i s)) = .whole q.data := by
    simp only [segment, sessOf_renewTake, sessOf_requested, hp, ho]
    by_cases h : r.ty.isScalar
    · simp only [h, if_true] at hl ⊢; simp [hl]
    · simp only [h, if_false, Bool.false_eq_true] at hl ⊢
      simp [hl, ht]
      simp [ht] at hl; exact hl
  simp only [doWrite, accessCode_renewTake, hc, hr, hs]; rfl

/-- A request that has passed checks 1 to 5 has the level that a whole value in it needs. -/
theorem level_of_access {i : Session} {q : Req} {s : State} (ho : q.offset = 0) (h : accessCode i q (requested i s) = 0) :
    ¬ (sessOf (wholeWrite i s) i).level < levelNeeded q.index q.sub q.data := by
  intro g
  simp only [accessCode, sessOf_requested, ho, if_true] at h
  simp only [sessOf_wholeWrite] at g
  split at h
  · contradiction
  · split at h
    · contradiction
    · first | (revert h; decide) | contradiction

/-- A whole value that passes its checks, of an object that no take governs. -/
theorem writeWhole_plain {i : Session} {q : Req} {r : Obj} {d : List Byte} {s : State}
    (hv : ¬ (sessOf s i).level < levelNeeded q.index q.sub d) (hw : wholeCode (key q.index q.sub) r d = 0) (ht : r.take ≠ .yes) :
    writeWhole i q r d s = plainWrite i q r (key q.index q.sub) d s := by
  simp only [writeWhole, if_neg hv, hw, if_neg ht]; simp

/-- A whole value of an object that acts, past its checks: it acts, and is answered with its code. -/
theorem writeWhole_acts {i : Session} {q : Req} {r : Obj} {d : List Byte} {s : State}
    (hv : levelNeeded q.index q.sub d ≤ (sessOf s i).level) (hw : wholeCode (key q.index q.sub) r d = 0) (ht : (r.take = .yes) = False)
    (hr : ∀ t, relationCode (key q.index q.sub) t = 0) (h1 : (q.index = 0x1010) = False) (h2 : (q.index = 0x2140) = False)
    (h3 : (q.index = 0x2141) = False) (ha : actsItself q.index = true) :
    writeWhole i q r d s =
      finish i .write q (codeRsp .write q (objAction i q.index q.sub d s).1 d.length) (objAction i q.index q.sub d s).2 := by
  rw [writeWhole_plain (Nat.not_lt.mpr hv) hw (by simp [ht])]
  simp only [plainWrite, hr, h1, h2, h3, ha]; rfl

/-- A whole value written by a ready session that has none begun: the checks of the access and of the length are passed. -/
theorem write_whole {i : Session} {n : Word} {idx sub : Nat} {d : List Byte} {r : Obj} {s : State} (ha : readyFor s i = true)
    (hp : (sessOf s i).partialV = none) (hv : levelNeeded idx sub d ≤ (sessOf s i).level) (hs : writeState s idx sub = 0)
    (he : existCode idx sub = 0) (hw : writeRight idx sub = 0) (hr : objRow idx sub = some r)
    (hl : if r.ty.isScalar then d.length = r.ty.size else lengthOk (key idx sub) r d.length = true) (ht : (r.take = .yes) = False) :
    serve i .write (writeReq n idx sub d) s = writeWhole i (writeReq n idx sub d) r d (wholeWrite i s) := by
  rw [execute_write ha]
  exact doWrite_whole hp (by
    simp only [accessCode, writeReq, he, hw, sessOf_requested, writeState_requested, hs]
    rw [if_neg (by simp), if_neg (by simp), if_neg (by simp; exact hv)]; simp) hr rfl rfl hl

/-- The same for an object that acts. -/
theorem write_acts {i : Session} {n : Word} {idx sub : Nat} {d : List Byte} {r : Obj} {s : State} (ha : readyFor s i = true)
    (hp : (sessOf s i).partialV = none) (hv : levelNeeded idx sub d ≤ (sessOf s i).level) (hs : writeState s idx sub = 0)
    (he : existCode idx sub = 0) (hw : writeRight idx sub = 0) (hr : objRow idx sub = some r)
    (hl : if r.ty.isScalar then d.length = r.ty.size else lengthOk (key idx sub) r d.length = true)
    (hc : wholeCode (key idx sub) r d = 0) (ht : (r.take = .yes) = False) (hq : ∀ t, relationCode (key idx sub) t = 0)
    (h1 : (idx = 0x1010) = False) (h2 : (idx = 0x2140) = False) (h3 : (idx = 0x2141) = False) (hk : actsItself idx = true) :
    serve i .write (writeReq n idx sub d) s =
      finish i .write (writeReq n idx sub d) (codeRsp .write (writeReq n idx sub d) (objAction i idx sub d (wholeWrite i s)).1 d.length)
        (objAction i idx sub d (wholeWrite i s)).2 := by
  rw [write_whole ha hp hv hs he hw hr hl ht]
  exact writeWhole_acts (by rw [sessOf_wholeWrite]; exact hv) hc ht hq h1 h2 h3 hk

end Sys2Proof.Machine
end

