-- ==== Sys2Proof/Tests/Slice0.lean ====
section
/-!
SUPPORT. Tests/Slice0.lean: the author's tests. Ill-formed commands are refused; the worked examples and tables of the spec come out as it
prints them; and for every statement with hypotheses there are states and operands that meet them.
-/
namespace Sys2Proof.Machine

set_option linter.all false
set_option Elab.async false

/-! ### Small states -/

/-- The node running as a member with every domain on. -/
def Tests.live : State :=
  { State.reset with node := .member, pwr.dom := [0, 1, 2, 3, 4, 5, 6, 7, 8, 10, 11, 12, 16, 17].map (fun d => (d, { on := true })) }

/-- A member at position 1 of two whose consent holds. -/
def Tests.consenting : State :=
  { live with
    uid := 3, up := 800000000000, wak.sleepAllow := true, wak.consistAwake := false, ina.st := .stable
    ina.sheet := some { entries := [{ uid := 3, consist := 0, consistPos := 1 }, { uid := 7, consist := 0, consistPos := 2 }], csc := 5 } }

/-- The bridge enabled, with window 0 open on 64 KB of BAR2. -/
def Tests.window0 : Tab Val := [(key 0x2701 0, .num 1), (key 0x2740 1, .num 1), (key 0x2740 3, .num 16)]

open Tests

/-! ### Ill-formed commands -/

/-- A well-formed command of each kind with a check is accepted. -/
theorem test_wf_accepts :
    (Instr.macFrameReceive 0 { pcp := some 7 } {}).wf ∧ (Instr.neighbourReceive 0 {}).wf ∧ (Instr.read 2 {}).wf ∧ (Instr.write 2 { data := [1] }).wf
      ∧ (Instr.hostApertureWrite false 0 [1, 2]).wf ∧ (Instr.bulisAckReceive { type := 6 }).wf ∧ (Instr.ringFrameReceive {}).wf := by decide

/-- Frames: PCP and EtherType. -/
theorem test_wf_frame :
    ¬ (Instr.macFrameReceive 0 { pcp := some 8 } {}).wf ∧ ¬ (Instr.macFrameReceive 0 { etherType := 65536 } {}).wf
      ∧ ¬ (Instr.nicTailWrite 0 0 [] [{ frame := { pcp := some 8 }, queue := 0, irq := false }]).wf := by decide

/-- The header of a Bulis frame, field by field. -/
theorem test_wf_bulis :
    ¬ Bulis.wf { version := 256 } ∧ ¬ Bulis.wf { type := 256 } ∧ ¬ Bulis.wf { flags := 256 } ∧ ¬ Bulis.wf { stream := 256 }
      ∧ ¬ Bulis.wf { plen := 65536 } ∧ ¬ Bulis.wf { tag := 65536 } ∧ ¬ Bulis.wf { attempt := 256 } ∧ ¬ Bulis.wf { status := 256 } := by
  decide

/-- The commands that take a Bulis frame, and the types they take. -/
theorem test_wf_bulis_commands :
    ¬ (Instr.bulisFrameReceive 0 0 { version := 256 } false []).wf ∧ ¬ (Instr.bulisAckReceive { type := 6, tag := 65536 }).wf
      ∧ ¬ (Instr.bulisAckReceive { type := 1 }).wf ∧ ¬ (Instr.completionReceive { type := 4, status := 256 }).wf
      ∧ ¬ (Instr.completionReceive { type := 1 }).wf ∧ ¬ (Instr.damRequestReceive 0 0 { type := 0x10, flags := 256 }).wf
      ∧ ¬ (Instr.damRequestReceive 0 0 { type := 1 }).wf := by decide

/-- NEIGHBOUR and RECORD. -/
theorem test_wf_inauguration :
    ¬ (Instr.neighbourReceive 0 { node := 256 }).wf ∧ ¬ (Instr.neighbourReceive 0 { flags := 256 }).wf
      ∧ ¬ (Instr.recordReceive { node := 256 } 0).wf ∧ ¬ (Instr.recordReceive { pos := 256 } 0).wf
      ∧ ¬ (Instr.ttdpTopologyReceive 0 (List.replicate 65 default)).wf := by decide

/-- Sync and Announce. -/
theorem test_wf_time :
    ¬ (Instr.syncReceive 0 { domain := 256 }).wf ∧ ¬ (Instr.announceReceive 0 { domain := 256 }).wf
      ∧ ¬ GmData.wf { priority1 := 256 } ∧ ¬ GmData.wf { clockClass := 256 } ∧ ¬ GmData.wf { accuracy := 256 }
      ∧ ¬ GmData.wf { variance := 65536 } ∧ ¬ GmData.wf { priority2 := 256 } ∧ ¬ GmData.wf { steps := 65536 }
      ∧ ¬ GmData.wf { utc := some 65536 } ∧ ¬ (Instr.announceReceive 0 { gm := { steps := 65536 } }).wf := by decide

/-- Take messages and ring frames. -/
theorem test_wf_take_messages :
    ¬ TakeMsg.wf { kind := 256 } ∧ ¬ TakeMsg.wf { level := 256 } ∧ ¬ TakeMsg.wf { part := 65536 } ∧ ¬ TakeMsg.wf { parts := 65536 }
      ∧ ¬ TakeMsg.wf { shareLen := 2 ^ 32 } ∧ ¬ TakeMsg.wf { content := List.replicate 977 0 } ∧ ¬ TakeMsg.wf { vote := 256 }
      ∧ ¬ TakeMsg.wf { reason := 256 } ∧ ¬ TakeMsg.wf { firstIndex := 65536 } ∧ ¬ TakeMsg.wf { firstSub := 256 }
      ∧ ¬ (Instr.takePrintReceive { kind := 256 }).wf ∧ ¬ (Instr.takeScrapReceive { kind := 256 }).wf
      ∧ ¬ (Instr.takePrepareReceive 0 { kind := 256 }).wf ∧ ¬ (Instr.takeVoteReceive 0 { kind := 256 }).wf
      ∧ ¬ (Instr.takeQueryReceive 0 { kind := 256 }).wf ∧ ¬ (Instr.takeReplyReceive false { kind := 256 }).wf := by decide +kernel

/-- Ring frames. -/
theorem test_wf_ring :
    ¬ (Instr.ringFrameReceive { phase := 256 }).wf ∧ ¬ (Instr.ringFrameReceive { vetoCount := 256 }).wf
      ∧ ¬ (Instr.ringFrameReceive { firstReason := 256 }).wf ∧ ¬ (Instr.ringFrameReceive { firstPos := 256 }).wf := by decide

/-- Dictionary requests and what comes through an object. -/
theorem test_wf_requests :
    ¬ Req.wf { reqId := 2 ^ 32 } ∧ ¬ Req.wf { index := 65536 } ∧ ¬ Req.wf { sub := 256 } ∧ ¬ Req.wf { offset := 2 ^ 32 }
      ∧ ¬ Req.wf { total := 2 ^ 32 } ∧ ¬ (Instr.read 2 { sub := 256 }).wf ∧ ¬ (Instr.read 2 { data := [1] }).wf
      ∧ ¬ (Instr.write 2 { sub := 256 }).wf ∧ ¬ (Instr.inaRestart (.obj 2 (2 ^ 32))).wf
      ∧ ¬ (Instr.recTrigWrite (.obj 2 (2 ^ 32)) 0 0 0).wf ∧ ¬ (Instr.recorderClear (.obj 2 (2 ^ 32)) 0).wf
      ∧ ¬ (Instr.outCmdWrite (.obj 2 (2 ^ 32)) 0).wf := by decide

/-- SDO. -/
theorem test_wf_sdo :
    ¬ (Instr.sdoRequestReceive 0 { id := 0, req := .download 65536 0 [] }).wf ∧ ¬ (Instr.sdoRequestReceive 0 { id := 0, req := .download 0 256 [] }).wf
      ∧ ¬ (Instr.sdoRequestReceive 0 { id := 0, req := .downloadStart 65536 0 none }).wf ∧ ¬ (Instr.sdoRequestReceive 0 { id := 0, req := .downloadStart 0 256 none }).wf
      ∧ ¬ (Instr.sdoRequestReceive 0 { id := 0, req := .upload 65536 0 4 }).wf ∧ ¬ (Instr.sdoRequestReceive 0 { id := 0, req := .upload 0 256 4 }).wf := by decide

/-- Aperture accesses. -/
theorem test_wf_apertures :
    ¬ (Instr.hostApertureWrite false 0 []).wf ∧ ¬ (Instr.hostApertureWrite false 0 (List.replicate 4097 0)).wf
      ∧ ¬ (Instr.hostApertureRead false 0 0).wf ∧ ¬ (Instr.coreSpliceAccess 0 false 0 (.load 0)).wf
      ∧ ¬ (Instr.coreSpliceAccess 0 false 0 (.load 9)).wf ∧ ¬ (Instr.coreSpliceAccess 0 false 0 (.store [])).wf
      ∧ ¬ (Instr.coreSpliceAccess 0 false 0 (.store (List.replicate 9 0))).wf
      ∧ ¬ (Instr.coreSpliceAccess 0 false 0 (.amo .swap 0 0)).wf ∧ ¬ (Instr.coreSpliceAccess 0 false 0 (.amo .swap 9 0)).wf := by decide +kernel

/-- Legacy buses, process data, and the levels at dawn. -/
theorem test_wf_legacy :
    ¬ (Instr.canFrameReceive 0 false 2048 .data [] 0 0 0).wf
      ∧ ¬ (Instr.canFrameReceive 0 true 0 .fd (List.replicate 65 0) 0 0 0).wf ∧ ¬ (Instr.canFrameReceive 0 true 0 .data (List.replicate 9 0) 0 0 0).wf
      ∧ ¬ (Instr.mvbSinkReceive 0 (List.replicate 33 0) none).wf ∧ ¬ (Instr.dawnDomainsOn []).wf := by decide +kernel

/-- A process-data frame longer than a length field tells. -/
theorem test_wf_pd : ¬ (Instr.pdFrameReceive (List.replicate 65536 0)).wf := by
  simp only [Instr.wf, List.length_replicate]; decide

/-- A descriptor longer than the check engine takes. -/
theorem test_wf_chk : ¬ (Instr.chkDescriptorDone true (List.replicate 67108865 0)).wf := by
  simp only [Instr.wf, List.length_replicate]; decide

/-! ### The spec's tables and worked examples -/

/-- No word spells a command (log 11). -/
theorem test_no_words : decodeTableWord 32 0 = none := rfl

/-- Table 9.1: the check of "123456789" without a prefix. -/
theorem test_crc_catalogue : crc32c [0x31, 0x32, 0x33, 0x34, 0x35, 0x36, 0x37, 0x38, 0x39] = 0xE3069283 := by decide +kernel

/-- Table 9.6: the counting-byte run with its prefix. -/
theorem test_crc_prefix :
    checkOf 0x000102030405 0x060708090A0B 0x0C0D0E0F 0x10111213
      [0x14, 0x15, 0x16, 0x17, 0x18, 0x19, 0x1A, 0x1B, 0x1C, 0x1D, 0x1E, 0x1F] = 0x46DD794E := by decide +kernel

/-- Chapter 9: 32 zero bytes, the form in which DIGEST begins. -/
theorem test_crc_zeros : checkOf 0 0 0 0 (List.replicate 12 0) = 0x8A9136AA := by decide +kernel

/-- RFC 4231, test case 2: HMAC-SHA-256 (R295). -/
theorem test_hmac :
    beNat ((hmac [0x4A, 0x65, 0x66, 0x65] ([0x77, 0x68, 0x61, 0x74, 0x20, 0x64, 0x6F, 0x20, 0x79, 0x61, 0x20, 0x77, 0x61, 0x6E, 0x74, 0x20]
      ++ [0x66, 0x6F, 0x72, 0x20, 0x6E, 0x6F, 0x74, 0x68, 0x69, 0x6E, 0x67, 0x3F])).take 16)
      = 0x5BDCC146BF60754E6A042426089575C7 := by decide +kernel

/-- R89: the CSC after 0xFFFF_FFFE for k of 1, 2 and 3; after none. -/
theorem test_new_csc :
    newCsc 0xFFFFFFFE 1 = 0xFFFFFFFF ∧ newCsc 0xFFFFFFFE 2 = 1 ∧ newCsc 0xFFFFFFFE 3 = 2 ∧ newCsc 0 1 = 1 := by decide

/-- The RECORD of a node of the trains of Table 3.15. -/
def Tests.carRecord (u fore aft : Uid) (consist csc : Word) (pos : Nat) (cab : Bool) : Record :=
  { uid := u, fore := fore, aft := aft, consist := consist, csc := csc, pos := pos, cabFore := cab, aIn := true, bIn := true, node := 3 }

/-- The two coupled units of chapter 3, seen from X1. -/
def Tests.coupled : State :=
  let x (k : Nat) (f a : Uid) := carRecord (0x02417C001000 + BitVec.ofNat 48 k) f a 0xC11 0x131 k (k == 1)
  let y (k : Nat) (f a : Uid) := carRecord (0x02417C002000 + BitVec.ofNat 48 k) f a 0xC12 0xA2 k false
  let held (r : Record) : HeldRec := { rec_ := r, at_ := 0 }
  { State.reset with
    uid := 0x02417C001001, ina.own := x 1 0 0x02417C001002
    ina.recs := [x 2 0x02417C001001 0x02417C001003, x 3 0x02417C001002 0x02417C001004, x 4 0x02417C001003 0x02417C001005,
      x 5 0x02417C001004 0x02417C001006, x 6 0x02417C001005 0x02417C002006, y 6 0x02417C002005 0x02417C001006,
      y 5 0x02417C002004 0x02417C002006, y 4 0x02417C002003 0x02417C002005, y 3 0x02417C002002 0x02417C002004,
      y 2 0x02417C002001 0x02417C002003, y 1 0 0x02417C002002].map held }

/-- Table 3.17: the head of the new image, X1's entry and Y6's. -/
theorem test_coupled_image :
    (nativeProposal coupled).map (fun x => ((sheetBytes x).take 12, ((sheetBytes x).drop 32).take 12, ((sheetBytes x).drop 104).take 12,
        (sheetBytes x).length))
      = some ([1, 0x10, 0x0C, 2, 0, 0, 1, 0x32, 0, 0, 1, 0x31], [2, 0x41, 0x7C, 0, 0x10, 1, 1, 1, 1, 0x2C, 0, 0],
        [2, 0x41, 0x7C, 0, 0x20, 6, 7, 2, 1, 0x8C, 0, 0], 176) := by decide +kernel

/-- Chapter 3: the instant is the first frame boundary after B0 + 22.02 fr. -/
theorem test_next_frame : nextFrame (0x00000190A3F00000 + 23089643) = 0x00000190A5600000 := by decide

/-- Chapter 15: the thresholds of the 110 V loop at 137 V and at 77 V. -/
theorem test_loop_thresholds :
    (setPoints 44000 60 40 { hiKnown := true, hiEst := 54800 * 128, loEst := 200 * 128 }).th = some (32960, 22040)
      ∧ (setPoints 44000 60 40 { hiKnown := true, hiEst := 30800 * 128, loEst := 200 * 128 }).th = some (18560, 12440) := by decide

/-- Chapter 5: 1.7 × 10^18 ns lies on a perf boundary, and one tick more does not (R16). -/
theorem test_base_time :
    offBoundary (key 0x2527 1) (.num 1700000000000000000) = false ∧ offBoundary (key 0x2527 1) (.num 1700000000000000001) = true := by decide

/-- The entries of Table 5.11. -/
def Tests.doorEntries : List (BitVec 8 × Nat) :=
  [9702, 9701, 9702, 9702, 9701, 9702, 9701, 9702].flatMap (fun n => [(0xC0, 64), (0xFF, n)])

/-- Table 5.11: the schedule of sixteen entries is valid. -/
theorem test_door_schedule :
    schedValid { base := 1700000000000000000, cycle := 78125, entries := doorEntries } = true := by
  decide +kernel

/-- Chapter 11: the channel descriptor of the laptop's session. -/
theorem test_descriptor :
    descriptor { State.reset with od.sess := [(3, { uid := 0x020000A1B207, client := 1, used := true })] } 3
      = [2, 0, 2, 0, 0, 0xA1, 0xB2, 7, 0, 1] := by decide

/-- Chapter 19: the addresses of MAX_LEN of port 7 and of WIN_DOORBELL of window 5 are registers; between them lies none. -/
theorem test_register_addresses : regExists 0x17048 = true ∧ regExists 0x51160 = true ∧ regExists 0x51168 = false := by decide +kernel

/-- Table 19.8: port 10 leaves UP: its bit of IRQ_LINK_PORTS, and cause bit 0. -/
theorem test_link_loss_irq :
    (match exec (.linkLost 10 false none) { live with bb.links := [(10, { st := .upStd })] } with
      | .next t => t.irq.linkPorts == 0x400 && t.irq.cause.getLsbD 0
      | _ => false) = true := by decide +kernel

/-- Table 19.8: W1C of bit 0 while bit 11 of IRQ_LINK_PORTS stands sets the bit again at once. -/
theorem test_held_cause :
    (match exec (.irqCauseClear 1) { live with irq.cause := 1, irq.linkPorts := 0x800 } with
      | .next t => t.irq.cause == 1
      | _ => false) = true := by decide +kernel

/-- Table 19.4: the first register reads the device identity. -/
theorem test_reset_identity : regRead State.reset 0x0 = 0x4B465832 := by decide +kernel

/-! ### States and operands that meet the hypotheses of the statements -/

/-- States and operands that meet the hypotheses of each clause of LinkTrainingCompletes. -/
theorem witness_LinkTrainingCompletes : (∃ (p : Fin 17) (mode : Fin 8) (ext native : Bool) (s : State), ((linkSt s p.val).st = .training) ∧ ((linkSt s p.val).reacqBy = none) ∧ (maskAllows p.val (modeMask s p.val) mode.val (ext && decide (p.val < 4)) = true) ∧ ((ext && decide (p.val < 4)) = true → mode.val = 1 ∧ native = true ∧ linkCfg s 0x2202 p.val ≠ 2) ∧ (p.val < 4 → (mode.val = 5 ↔ (linkSt s p.val).clause28 = true))) ∧
    (∃ (p : Fin 17) (s : State) (t : Nat), ((linkSt s p.val).attemptBy = some t)) ∧
    (∃ (p : Fin 17) (phyFault : Bool) (energy : Option (BitVec 32)) (s : State), (portUp s p.val = true) ∧ (p.val < 4 → ∀ e, energy = some e → 2 * fr < e.toNat)) ∧
    (∃ (p : Fin 17) (phyFault : Bool) (e : BitVec 32) (s : State), (portUp s p.val = true) ∧ (p.val < 4 ∧ e.toNat ≤ 2 * fr)) ∧
    (∃ (p : Fin 4) (s : State) (t : Nat), ((linkSt s p.val).reacqBy = some t) ∧ ((linkSt s p.val).st = .training ∧ s.up ≤ t ∧ runAllowed s p.val (linkSt s p.val).mode (linkSt s p.val).ext = true)) ∧
    (∃ (p : Fin 4) (s : State) (t : Nat), ((linkSt s p.val).reacqBy = some t)) ∧
    (∃ (p : Fin 4) (margin : Byte) (saturated : Bool) (s : State), (portUp s p.val = true)) ∧
    (∃ (p : Fin 4) (s : State) (t : Nat), ((linkSt s p.val).lowFrom = some t) ∧ ((linkSt s p.val).marginLow = false)) ∧
    (∃ (p : Fin 17) (s : State), (reaches s .host = true) ∧ (portUp s p.val = true)) :=
  ⟨⟨0, 1, false, true, { State.reset with bb.links := [(0, { st := .training })] }, by decide +kernel⟩,
   ⟨0, { State.reset with bb.links := [(0, { st := .training, attemptBy := some 5 })] }, 5, by decide +kernel⟩,
   ⟨0, true, none, { State.reset with bb.links := [(0, { st := .upStd })] }, by (refine ⟨by decide +kernel, by intro _ e h; cases h⟩)⟩,
   ⟨0, true, 5, { State.reset with bb.links := [(0, { st := .upStd })] }, by decide +kernel⟩,
   ⟨0, { State.reset with bb.links := [(0, { st := .training, mode := 1, reacqBy := some 5 })] }, 5, by decide +kernel⟩,
   ⟨0, { State.reset with bb.links := [(0, { st := .training, reacqBy := some 5 })] }, 5, by decide +kernel⟩,
   ⟨0, 5, true, { State.reset with bb.links := [(0, { st := .upStd })] }, by decide +kernel⟩,
   ⟨0, { State.reset with bb.links := [(0, { st := .upStd, lowFrom := some 5 })] }, 5, by decide +kernel⟩,
   ⟨0, { live with node := .member, bb.links := [(0, { st := .upStd })] }, by decide +kernel⟩⟩

/-- States and operands that meet the hypotheses of each clause of LineInsertionCompletes. -/
theorem witness_LineInsertionCompletes : (∃ (l : Line) (s : State), ((lineSt s l).checking = true ∧ (lineSt s l).energised = false)) ∧
    (∃ (l : Line) (s : State), ((lineSt s l).checking = true ∧ (lineSt s l).energised = false)) ∧
    (∃ (l : Line) (s : State) (t : Nat), ((lineSt s l).insertBy = some t) ∧ (lineIn (passTo t s) l = false) ∧ (switchReady (passTo t s) l false = true ∧ switchedLately (passTo t s) (other l) = false) ∧ (s.bb.seq = .insertFirst l)) ∧
    (∃ (s : State) (l : Line) (t : Nat) (both own : Bool), (s.bb.seq = .releaseNext l t both own)) ∧
    (∃ (s : State) (l : Line) (t : Nat), (s.bb.seq = .insertNext l t) ∧ (mayInsert (passTo t s) l = true) ∧ (s.node ≠ .joining)) ∧
    (∃ (l : Line) (s : State), ((lineSt s l).single = true ∧ (lineSt s l).energised = false ∧ (lineSt s l).insertBy = none) ∧ (mayInsert s l = true ∧ lineEnergised s (other l) = true ∧ s.bb.deferred = []) ∧ (s.node = .joining → isMemberUid s s.uid = true)) ∧
    (∃ (l : Line) (s : State), ((lineSt s l).single = true ∧ (lineSt s l).energised = false ∧ (lineSt s l).insertBy = none) ∧ (mayInsert s l = true ∧ lineEnergised s (other l) = true ∧ s.bb.deferred = []) ∧ (s.node = .joining ∧ isMemberUid s s.uid = false ∧ s.bb.seq = .none)) ∧
    (∃ (s : State) (d : Deferred) (r : List Deferred), (s.bb.deferred = d :: r)) ∧
    (∃ (s : State) (d : Deferred) (r : List Deferred), (s.bb.deferred = d :: r) ∧ (switchReady s d.line d.own = true)) ∧
    (∃ (s : State) (t : Nat), (s.bb.joinRetryAt = some t) ∧ (s.bb.seq = .none)) ∧
    (∃ (l : Line) (s : State), (reaches s .host = true) ∧ ((lineSt s l).contactFault = true)) ∧
    (∃ (s : State), (s.bb.a.contactFault = true ∧ s.bb.b.contactFault = true)) ∧
    (∃ (s : State) (t : Nat), (s.bb.bApplyAt = some t) ∧ (((waitedPorts (passTo t s) .a).all (portUp (passTo t s))) = true)) :=
  ⟨⟨.a, { State.reset with bb.a := { checking := true } }, by decide +kernel⟩,
   ⟨.b, { State.reset with bb.b := { checking := true } }, by decide +kernel⟩,
   ⟨.a, { State.reset with bb.a := { energised := true, insertBy := some 5 }, bb.seq := .insertFirst .a, tln.cs := [(0, { logical := true }), (1, { logical := true })] }, 5, by decide +kernel⟩,
   ⟨{ State.reset with bb.seq := .releaseNext .b 9 false true }, .b, 9, false, true, by decide +kernel⟩,
   ⟨{ State.reset with node := .member, bb.seq := .insertNext .b 9, bb.b := { loopOk := true }, pwr.dom := [(4, { on := true }), (6, { on := true }), (17, { on := true })] }, .b, 9, by decide +kernel⟩,
   ⟨.b, { State.reset with bb.a := { energised := true }, bb.b := { single := true, loopOk := true }, pwr.dom := [(4, { on := true }), (6, { on := true }), (17, { on := true })] }, by decide +kernel⟩,
   ⟨.b, { State.reset with node := .joining, uid := 3, bb.a := { energised := true }, bb.b := { single := true, loopOk := true }, pwr.dom := [(4, { on := true }), (6, { on := true }), (17, { on := true })] }, by decide +kernel⟩,
   ⟨{ State.reset with bb.deferred := [{ line := .a, why := .release false, by_ := 7 }] }, { line := .a, why := .release false, by_ := 7 }, [], by decide +kernel⟩,
   ⟨{ State.reset with bb.deferred := [{ line := .a, why := .release false, by_ := 7 }] }, { line := .a, why := .release false, by_ := 7 }, [], by decide +kernel⟩,
   ⟨{ State.reset with bb.joinRetryAt := some 3 }, 3, by decide +kernel⟩,
   ⟨.a, { live with node := .member, bb.a := { contactFault := true } }, by decide +kernel⟩,
   ⟨{ State.reset with bb.a := { contactFault := true }, bb.b := { contactFault := true } }, by decide +kernel⟩,
   ⟨{ State.reset with bb.bApplyAt := some 3 }, 3, by decide +kernel⟩⟩

/-- States and operands that meet the hypotheses of each clause of CouplerAndDuplicatorComplete. -/
theorem witness_CouplerAndDuplicatorComplete : (∃ (p : Fin 4) (s : State) (t : Nat), ((linkSt s p.val).classifyAt = some t)) ∧
    (∃ (c : Fin 4) (m : SenseIn) (s : State), (domOn s .d1 = true) ∧ ((m.above = false ∨ (csSt s c.val).overvolt = false) ∧ m.settled = true) ∧ (senseLevel s m.res.toNat (csSt s c.val).closed ≠ (csSt s c.val).logical)) ∧
    (∃ (c : Fin 4) (m : SenseIn) (s : State), (domOn s .d1 = true) ∧ (m.above = true ∧ (csSt s c.val).overvolt = true)) ∧
    (∃ (s : State) (t : Nat), (s.ina.errFore = some t)) ∧
    (∃ (s : State) (t : Nat), (s.ina.errAft = some t)) ∧
    (∃ (m : Mac) (s : State) (r : TxSrc), (tfind s.net.tx m.toNat = some r)) ∧
    (∃ (m : Mac) (s : State) (r : RxSrc), (tfind s.net.rx m.toNat = some r)) ∧
    (∃ (s : State), (dupEnabled s = false) ∧ (trailersHeld s = false)) :=
  ⟨⟨0, { State.reset with bb.links := [(0, { st := .training, classifyAt := some 5 })] }, 5, by decide +kernel⟩,
   ⟨1, { res := 100 }, { State.reset with pwr.dom := [(1, { on := true })] }, by decide +kernel⟩,
   ⟨1, { res := 100, above := true }, { State.reset with pwr.dom := [(1, { on := true })], tln.cs := [(1, { overvolt := true })] }, by decide +kernel⟩,
   ⟨{ State.reset with ina.errFore := some 4 }, 4, by decide +kernel⟩,
   ⟨{ State.reset with ina.errAft := some 4 }, 4, by decide +kernel⟩,
   ⟨5, { State.reset with net.tx := [(5, { next := 7, lastUse := 0 })] }, { next := 7, lastUse := 0 }, by decide +kernel⟩,
   ⟨5, { State.reset with net.rx := [(5, { h := 7, seen := [], lastSeen := 0 })] }, { h := 7, seen := [], lastSeen := 0 }, by decide +kernel⟩,
   ⟨{ State.reset with od.applied := [(0x1001401, .num 0)] }, by decide +kernel⟩⟩

/-- States and operands that meet the hypotheses of each clause of FlowControlCompletes. -/
theorem witness_FlowControlCompletes : (∃ (p : Fin 17) (f : Frame) (r : RxInfo) (s : State), (portUp s p.val = true ∧ rxEnabled s p.val = true ∧ r.mm = .express) ∧ (r.fcs = .good ∧ r.codeErr = false ∧ r.full = false ∧ 64 ≤ f.len) ∧ (memoryFull (countMac p.val 23 f.len s) p.val { f with sec := none } = false) ∧ (f.len ≤ rxLimit s p.val f ∧ secMode s p.val = 0 ∧ (4 ≤ p.val → f.rct = none)) ∧ (f.etherType ≠ etMacCtrl ∧ (4 ≤ p.val → f.dst.toNat ≠ cfg s 0x2912 0))) ∧
    (∃ (p : Fin 17) (f : Frame) (r : RxInfo) (s : State), (portUp s p.val = true ∧ rxEnabled s p.val = true ∧ r.mm = .express) ∧ (r.fcs ≠ .good ∧ r.codeErr = false ∧ 64 ≤ f.len ∧ f.len ≤ rxLimit s p.val f)) ∧
    (∃ (p : Fin 17) (s : State) (w : Wire), (onWire s p.val = some w)) ∧
    (∃ (p : Fin 17) (time : BitVec 16) (s : State), (portUp s p.val = true ∧ rxEnabled s p.val = true) ∧ (rxLimit s p.val { dst := 0x0180C2000001, etherType := 0x8808, payload := [], len := 64 } ≥ 64 ∧ secMode s p.val = 0) ∧ (memoryFull (countMac p.val 23 64 s) p.val { dst := 0x0180C2000001, etherType := 0x8808, payload := [], len := 64 } = false)) ∧
    (∃ (p : Fin 17) (s : State) (u : Nat), ((macSt (settleWire p.val s) p.val).pauseUntil = some u)) ∧
    (∃ (p : Fin 17) (s : State) (t : Nat), ((macSt s p.val).xoffAt = some t)) ∧
    (∃ (p : Fin 17) (s : State) (t : Nat), ((macSt (settleWire p.val s) p.val).wdFrom = some t)) ∧
    (∃ (p : Fin 17) (s : State) (t : Nat), ((macSt (settleWire p.val s) p.val).idleFrom = some t)) ∧
    (∃ (p : Fin 17) (s : State) (t : Nat), ((macSt s p.val).ignoreUntil = some t)) ∧
    (∃ (p : Fin 17) (s : State), (reaches s .host = true)) ∧
    (∃ (p : Fin 17) (s : State), (rxEnabled s p.val = false)) ∧
    (∃ (p : Fin 17) (s : State), (txEnabled s p.val = false ∧ (macSt s p.val).wire = none ∧ (macSt s p.val).rest = none)) :=
  ⟨⟨4, { dst := 0x02, etherType := 0x0800, payload := [], len := 64 }, {}, { State.reset with bb.links := [(4, { st := .upStd })], od.applied := [(key 0x10013 5, .num 1)] }, by decide +kernel⟩,
   ⟨4, { dst := 0x02, etherType := 0x0800, payload := [], len := 64 }, { fcs := .bad }, { State.reset with bb.links := [(4, { st := .upStd })], od.applied := [(key 0x10013 5, .num 1)] }, by decide +kernel⟩,
   ⟨4, { State.reset with net.macs := [(4, { wire := some { q := { id := 1, frame := { dst := 0x02, etherType := 0x0800, payload := [], len := 64 }, ingress := 20 }, queue := 0, express := false, startAt := 0, endAt := 9 } })] }, { q := { id := 1, frame := { dst := 0x02, etherType := 0x0800, payload := [], len := 64 }, ingress := 20 }, queue := 0, express := false, startAt := 0, endAt := 9 }, by decide +kernel⟩,
   ⟨4, 9, { State.reset with bb.links := [(4, { st := .upStd })], od.applied := [(key 0x10013 5, .num 1)] }, by decide +kernel⟩,
   ⟨4, { State.reset with net.macs := [(4, { pauseUntil := some 9 })] }, 9, by decide +kernel⟩,
   ⟨4, { State.reset with net.macs := [(4, { xoffAt := some 9 })] }, 9, by decide +kernel⟩,
   ⟨4, { State.reset with net.macs := [(4, { wdFrom := some 9 })] }, 9, by decide +kernel⟩,
   ⟨4, { State.reset with net.macs := [(4, { idleFrom := some 9 })] }, 9, by decide +kernel⟩,
   ⟨4, { State.reset with net.macs := [(4, { ignoreUntil := some 9 })] }, 9, by decide +kernel⟩,
   ⟨4, live, by decide +kernel⟩,
   ⟨4, { State.reset with od.applied := [(key 0x10013 5, .num 0)] }, by decide +kernel⟩,
   ⟨4, { State.reset with od.applied := [(key 0x10012 5, .num 0)] }, by decide +kernel⟩⟩

/-- States and operands that meet the hypotheses of each clause of PreemptionAndGatesComplete. -/
theorem witness_PreemptionAndGatesComplete : (∃ (p : Fin 17) (q : Fin 8) (s : State) (x : QFrame) (r : List QFrame), ((macSt s p.val).wire = none ∧ (macSt s p.val).rest = none ∧ queueOf s p.val q.val = x :: r) ∧ (portUp s p.val = true ∧ paused s p.val = false ∧ txEnabled s p.val = true) ∧ (higherReady s p.val q.val = false ∧ mayStart s p.val q.val x = true) ∧ (secBlocks s p.val x.frame = false ∧ secExhausted s p.val = false)) ∧
    (∃ (p : Fin 17) (q : Fin 8) (s : State) (x : QFrame) (r : List QFrame), ((macSt s p.val).wire = none ∧ (macSt s p.val).rest = none ∧ queueOf s p.val q.val = x :: r) ∧ (portUp s p.val = true ∧ paused s p.val = false ∧ txEnabled s p.val = true) ∧ (higherReady s p.val q.val = false ∧ mayStart s p.val q.val x = false) ∧ (secBlocks s p.val x.frame = false ∧ secExhausted s p.val = false)) ∧
    (∃ (p : Fin 17) (q : Fin 8) (s : State) (x : QFrame) (r : List QFrame), ((macSt s p.val).wire = none ∧ (macSt s p.val).rest = none ∧ queueOf s p.val q.val = x :: r) ∧ (portUp s p.val = true ∧ paused s p.val = false ∧ txEnabled s p.val = true) ∧ (higherReady s p.val q.val = false ∧ (secBlocks s p.val x.frame = true ∨ secExhausted s p.val = true))) ∧
    (∃ (p : Fin 17) (q : Fin 8) (s : State) (w : Wire) (x : QFrame) (r : List QFrame), (onWire s p.val = some w ∧ queueOf s p.val q.val = x :: r) ∧ (w.express = false ∧ schedMode s p.val = 1 ∧ isExpress s p.val q.val = true ∧ paused s p.val = false) ∧ (higherReady s p.val q.val = false) ∧ (max s.up (w.startAt + octetTicks s p.val (minFragment s p.val + 4)) + octetTicks s p.val 76 ≤ w.endAt)) ∧
    (∃ (p : Fin 17) (s : State), (portUp s p.val = true)) ∧
    (∃ (p : Fin 17) (s : State), ((schedSt s p.val).ver = 2)) ∧
    (∃ (p : Fin 17) (s : State) (t : Nat), ((schedSt s p.val).ver = 2 ∧ (schedSt s p.val).verAt = some t)) ∧
    (∃ (p : Fin 17) (s : State), (reaches s .host = true) ∧ (portUp s p.val = true ∧ (schedSt s p.val).ver = 4 ∧ cfg s 0x2501 (p.val + 1) ≠ 1)) ∧
    (∃ (p : Fin 17) (s : State), ((schedSt s p.val).ver = 2)) ∧
    (∃ (ingress o : Fin 17) (s : State) (w : Wire), (onWire s o.val = some w ∧ w.q.cut = true ∧ w.q.ingress = ingress.val) ∧ (schedMode s o.val = 1 ∧ w.express = false ∧ w.startAt + octetTicks s o.val (minFragment s o.val + 4) ≤ s.up)) ∧
    (∃ (ingress o : Fin 17) (s : State) (w : Wire), (onWire s o.val = some w ∧ w.q.cut = true ∧ w.q.ingress = ingress.val) ∧ (schedMode s o.val ≠ 1)) ∧
    (∃ (i : Nat) (o : Fin 17) (s : State) (x : QFrame) (q : Nat), ((macSt s o.val).resend = [(x, q)] ∧ x.id = i)) ∧
    (∃ (p : Fin 17) (s : State), ((schedSt s p.val).oper.entries ≠ [])) ∧
    (∃ (p : Fin 17) (s : State) (g : GateList) (t : Instant), ((schedSt s p.val).next = some (g, t))) :=
  ⟨⟨4, 0, { State.reset with bb.links := [(4, { st := .upStd })], od.applied := [(key 0x10012 5, .num 1)], net.macs := [(4, { queues := [(0, [{ id := 1, frame := { dst := 0x02, etherType := 0x0800, payload := [], len := 64 }, ingress := 20 }])] })] }, { id := 1, frame := { dst := 0x02, etherType := 0x0800, payload := [], len := 64 }, ingress := 20 }, [], by decide +kernel⟩,
   ⟨4, 0, { State.reset with bb.links := [(4, { st := .upStd })], od.applied := [(key 0x2501 5, .num 1), (key 0x10012 5, .num 1)], net.sched := [(4, { oper := { base := 0, cycle := 4, entries := [(0, 4)] } })], net.macs := [(4, { queues := [(0, [{ id := 1, frame := { dst := 0x02, etherType := 0x0800, payload := [], len := 64 }, ingress := 20 }])] })] }, { id := 1, frame := { dst := 0x02, etherType := 0x0800, payload := [], len := 64 }, ingress := 20 }, [], by decide +kernel⟩,
   ⟨0, 0, { State.reset with bb.links := [(0, { st := .upStd })], od.applied := [(key 0x10012 1, .num 1), (key 0x2C30 1, .num 1)], net.macs := [(0, { queues := [(0, [{ id := 1, frame := { dst := 0x02, etherType := 0x0800, payload := [], len := 64 }, ingress := 20 }])] })] }, { id := 1, frame := { dst := 0x02, etherType := 0x0800, payload := [], len := 64 }, ingress := 20 }, [], by decide +kernel⟩,
   ⟨4, 7, { State.reset with bb.links := [(4, { st := .upStd })], net.sched := [(4, { ver := 3 })], net.macs := [(4, { queues := [(7, [{ id := 2, frame := { dst := 0x02, etherType := 0x0800, payload := [], len := 64 }, ingress := 20 }])], wire := some { q := { id := 1, frame := { dst := 0x02, etherType := 0x0800, payload := [], len := 1500 }, ingress := 20 }, queue := 0, express := false, startAt := 0, endAt := 900000 } })] }, { q := { id := 1, frame := { dst := 0x02, etherType := 0x0800, payload := [], len := 1500 }, ingress := 20 }, queue := 0, express := false, startAt := 0, endAt := 900000 }, { id := 2, frame := { dst := 0x02, etherType := 0x0800, payload := [], len := 64 }, ingress := 20 }, [], by decide +kernel⟩,
   ⟨4, { State.reset with bb.links := [(4, { st := .upStd })] }, by decide +kernel⟩,
   ⟨4, { State.reset with net.sched := [(4, { ver := 2 })] }, by decide +kernel⟩,
   ⟨4, { State.reset with net.sched := [(4, { ver := 2, verAt := some 9 })] }, 9, by decide +kernel⟩,
   ⟨4, { live with bb.links := [(4, { st := .upStd })], net.sched := [(4, { ver := 4 })], od.applied := [(key 0x2501 5, .num 2)] }, by decide +kernel⟩,
   ⟨4, { State.reset with net.sched := [(4, { ver := 2 })] }, by decide +kernel⟩,
   ⟨5, 4, { State.reset with up := 4000000, bb.links := [(4, { st := .upStd })], net.sched := [(4, { ver := 3 })], net.macs := [(4, { wire := some { q := { id := 1, frame := { dst := 0x02, etherType := 0x0800, payload := [], len := 1500 }, ingress := 5, cut := true }, queue := 0, express := false, startAt := 0, endAt := 9000000 } })] }, { q := { id := 1, frame := { dst := 0x02, etherType := 0x0800, payload := [], len := 1500 }, ingress := 5, cut := true }, queue := 0, express := false, startAt := 0, endAt := 9000000 }, by decide +kernel⟩,
   ⟨5, 4, { State.reset with bb.links := [(4, { st := .upStd })], net.sched := [(4, { ver := 4 })], net.macs := [(4, { wire := some { q := { id := 1, frame := { dst := 0x02, etherType := 0x0800, payload := [], len := 1500 }, ingress := 5, cut := true }, queue := 0, express := false, startAt := 0, endAt := 9000000 } })] }, { q := { id := 1, frame := { dst := 0x02, etherType := 0x0800, payload := [], len := 1500 }, ingress := 5, cut := true }, queue := 0, express := false, startAt := 0, endAt := 9000000 }, by decide +kernel⟩,
   ⟨1, 4, { State.reset with net.macs := [(4, { resend := [({ id := 1, frame := { dst := 0x02, etherType := 0x0800, payload := [], len := 1500 }, ingress := 5 }, 0)] })] }, { id := 1, frame := { dst := 0x02, etherType := 0x0800, payload := [], len := 1500 }, ingress := 5 }, 0, by decide +kernel⟩,
   ⟨4, { State.reset with net.sched := [(4, { oper := { base := 0, cycle := 4, entries := [(0, 4)] } })] }, by decide +kernel⟩,
   ⟨4, { State.reset with net.sched := [(4, { next := some ({ base := 0, cycle := 4, entries := [(0, 4)] }, 9) })] }, { base := 0, cycle := 4, entries := [(0, 4)] }, 9, by decide +kernel⟩⟩

/-- States and operands that meet the hypotheses of each clause of JunctionMessagesComplete. -/
theorem witness_JunctionMessagesComplete : (∃ (p : Fin 4) (s : State), (portUp s p.val = true ∧ (nbSt s p.val).legacy = false)) ∧
    (∃ (p : Fin 4) (s : State), (portUp s p.val = true ∧ (nbSt s p.val).heard = true ∧ (nbSt s p.val).legacy = false ∧ (nbSt s p.val).gone = false)) ∧
    (∃ (p : Fin 4) (mac : Mac) (s : State) (t : Nat), (portUp s p.val = true ∧ (linkSt s p.val).native = false ∧ cfgOn s 0x2420 0 = true) ∧ (((nbSt s p.val).heard && !(nbSt s p.val).legacy) = false ∧ junctionUp s (endOf p.val) = some t)) ∧
    (∃ (p : Fin 4) (s : State), (portUp s p.val = true ∧ (nbSt s p.val).legacy = true ∧ cfgOn s 0x2420 0 = true)) ∧
    (∃ (numbering : List (Uid × Bool × Bool)) (s : State), (s.ina.st = .legacy) ∧ (s.ina.etb ≠ Config.etbCounter numbering ∨ s.ina.ttdp ≠ numbering)) ∧
    (∃ (etb : Word) (numbering : List (Uid × Bool × Bool)) (s : State), (s.ina.st = .legacy ∧ etb ≠ Config.etbCounter numbering)) ∧
    (∃ (s : State), (s.ina.st = .legacy ∧ s.ina.etbSame = false)) ∧
    (∃ (u : Uid) (s : State) (h : HeldRec), (s.ina.recs.find? (fun h => h.rec_.uid = u) = some h)) :=
  ⟨⟨0, { State.reset with bb.links := [(0, { st := .upStd })] }, by decide +kernel⟩,
   ⟨0, { State.reset with bb.links := [(0, { st := .upStd })], ina.nbs := [(0, { heard := true })] }, by decide +kernel⟩,
   ⟨0, 7, { State.reset with bb.links := [(0, { st := .upStd })], od.applied := [(key 0x2420 0, .num 1)] }, 0, by decide +kernel⟩,
   ⟨0, { State.reset with bb.links := [(0, { st := .upStd })], ina.nbs := [(0, { legacy := true })], od.applied := [(key 0x2420 0, .num 1)] }, by decide +kernel⟩,
   ⟨[(5, false, true)], { State.reset with ina.st := .legacy }, by exact ⟨rfl, Or.inr (by decide)⟩⟩,
   ⟨Config.etbCounter [] + 1, [], { State.reset with ina.st := .legacy }, by exact ⟨rfl, by bv_omega⟩⟩,
   ⟨{ State.reset with ina.st := .legacy, ina.etbSame := false }, by decide +kernel⟩,
   ⟨5, { State.reset with ina.recs := [{ rec_ := { uid := 5 }, at_ := 0 }] }, { rec_ := { uid := 5 }, at_ := 0 }, by decide +kernel⟩⟩

/-- States and operands that meet the hypotheses of each clause of CollectionCompletes. -/
theorem witness_CollectionCompletes : (∃ (s : State) (t : Nat), (s.ina.settleBy = some t)) ∧
    (∃ (s : State) (t : Nat), (s.ina.quietAt = some t) ∧ (s.ina.st = .collect ∨ s.ina.st = .legacy)) ∧
    (∃ (s : State) (t : Nat), (s.ina.lossFore = some t)) ∧
    (∃ (s : State) (t : Nat), (s.ina.lossAft = some t)) ∧
    (∃ (s : State) (t : Nat) (x : Sheet), (s.ina.joinWaitBy = some t) ∧ (s.node = .joining ∧ (List.range 4).any (portUp s) = false) ∧ (aloneSheet { passTo t s with ina.joinWaitBy := none } = some x)) ∧
    (∃ (v : Bool) (s : State), (reaches s .host = true)) :=
  ⟨⟨{ State.reset with ina.settleBy := some 4 }, 4, by decide +kernel⟩,
   ⟨{ State.reset with ina.st := .collect, ina.quietAt := some 4 }, 4, by decide +kernel⟩,
   ⟨{ State.reset with ina.lossFore := some 4 }, 4, by decide +kernel⟩,
   ⟨{ State.reset with ina.lossAft := some 4 }, 4, by decide +kernel⟩,
   ⟨{ State.reset with node := .joining, ina.joinWaitBy := some 0 }, 0, (aloneSheet { State.reset with node := .joining }).getD {}, by decide +kernel⟩,
   ⟨true, live, by decide +kernel⟩⟩

/-- States and operands that meet the hypotheses of each clause of TimeMessagesComplete. -/
theorem witness_TimeMessagesComplete : (∃ (p : Fin 4) (m : SyncIn) (s : State), (ptpRuns s p.val = true ∧ ptpDiscards s p.val m.domain m.id m.malformed = false) ∧ (heldPort s p.val = false ∧ s.tim.isGm = false)) ∧
    (∃ (p : Fin 4) (m : SyncIn) (s : State), (s.tim.haveGm = true → m.id = s.tim.gm.id)) ∧
    (∃ (s : State), (s.tim.isGm = true ∨ s.tim.viaRef = true)) ∧
    (∃ (p : Fin 17) (s : State), (4 ≤ p.val ∧ ptpRuns s p.val = true ∧ isRefPort s p.val = false)) ∧
    (∃ (s : State), (s.tim.haveGm = true ∨ s.tim.isGm = true ∨ cfgOn s 0x2602 0 = false)) ∧
    (∃ (s : State), (s.tim.haveGm = false ∧ s.tim.isGm = false ∧ cfgOn s 0x2602 0 = true)) ∧
    (∃ (p : Fin 17) (m : AnnounceIn) (s : State), (ptpRuns s p.val = true ∧ ptpDiscards s p.val m.domain m.gm.id m.malformed = true)) ∧
    (∃ (p : Fin 17) (m : AnnounceIn) (s : State), (ptpRuns s p.val = true ∧ ptpDiscards s p.val m.domain m.gm.id m.malformed = false) ∧ (4 ≤ p.val ∧ isRefPort s p.val = true)) ∧
    (∃ (p : Fin 17) (s : State), (measures s p.val = true)) ∧
    (∃ (p : Fin 17) (delay nrr : BitVec 32) (s : State), (measures s p.val = true ∧ (ptpSt s p.val).waiting = true)) :=
  ⟨⟨0, { domain := 0, id := 5, origin := 0, malformed := false }, { State.reset with bb.links := [(0, { st := .upStd })], ina.nbs := [(0, { heard := true, partner := some 9 })], ina.sheet := some { entries := [{ uid := 9, consist := 1, consistPos := 1 }] } }, by decide +kernel⟩,
   ⟨0, { domain := 0, id := 5, origin := 0, malformed := false }, State.reset, by intro h; exact absurd h (by decide)⟩,
   ⟨{ State.reset with tim.isGm := true }, by decide +kernel⟩,
   ⟨4, { State.reset with bb.links := [(4, { st := .upStd })], od.applied := [(key 0x2630 5, .num 1)] }, by decide +kernel⟩,
   ⟨{ State.reset with tim.isGm := true }, by decide +kernel⟩,
   ⟨{ State.reset with od.applied := [(key 0x2602 0, .num 1)] }, by decide +kernel⟩,
   ⟨0, { domain := 0, gm := {}, malformed := true }, { State.reset with bb.links := [(0, { st := .upStd })] }, by decide +kernel⟩,
   ⟨4, { domain := 0, gm := {}, malformed := false }, { State.reset with bb.links := [(4, { st := .upStd })], od.applied := [(key 0x2604 0, .num 1), (key 0x2605 0, .num 4), (key 0x2630 5, .num 1)] }, by decide +kernel⟩,
   ⟨0, { State.reset with bb.links := [(0, { st := .upStd })] }, by decide +kernel⟩,
   ⟨0, 5, 0, { State.reset with bb.links := [(0, { st := .upStd })], tim.ptp := [(0, { waiting := true })] }, by decide +kernel⟩⟩

/-- States and operands that meet the hypotheses of each clause of ServoAndPulsesComplete. -/
theorem witness_ServoAndPulsesComplete : (∃ (s : State) (l : Line) (p : Nat), (activeLine s = some l ∧ syncPort s l = some p)) ∧
    (∃ (s : State), (s.tim.isGm = false)) ∧
    (∃ (s : State), (s.tim.isGm = false ∧ ∀ p ∈ List.range 17, (ptpSt s p).lastSync = none)) ∧
    (∃ (s : State) (t : Nat), (s.tim.servo = .stepSuspect ∧ s.tim.suspectAt = some t) ∧ (requalifies (passTo (t + 2 * rl) s) = false)) ∧
    (∃ (s : State) (t : Nat), (s.tim.servo = .stepSuspect ∧ s.tim.suspectAt = some t) ∧ (let u := passTo (t + 2 * rl) s
    requalifies u = true ∧ aboveLimit u (mean u.tim.hist) = false)) ∧
    (∃ (s : State), (s.tim.servo = .holdover) ∧ (s.tim.holdLimit = true)) ∧
    (∃ (s : State), (s.tim.slewing = true)) ∧
    (∃ (k : Fin 4) (s : State), ((ppsSt s k.val).armed = true ∧ domOn s .d2 = true) ∧ (let u := passToInstant (ppsSt s k.val).next s
    ppsMode u k.val ≠ 2 ∧ (cfgOn u (0x2610 + k.val) 6 = false ∨ timeValid u = true))) ∧
    (∃ (k : Fin 4) (rising : Bool) (s : State), (cfgOn s (0x2614 + k.val) 1 = true ∧ (cfg s (0x2614 + k.val) 2).testBit (if rising then 0 else 1) = true) ∧ ((capSt s k.val).fifo.length < 16 ∧ (∀ t, (capSt s k.val).lastEdge = some t → t + 64 ≤ s.up))) ∧
    (∃ (who : Requester) (k : Fin 4) (s : State), (reaches s who = true ∧ featDenied s who 3 = false)) :=
  ⟨⟨{ State.reset with tim.line := 0, tim.ptp := [(0, { lastSync := some 3 })] }, .a, 0, by decide +kernel⟩,
   ⟨State.reset, by decide +kernel⟩,
   ⟨State.reset, by decide +kernel⟩,
   ⟨{ State.reset with tim.servo := .stepSuspect, tim.suspectAt := some 3 }, 3, by decide +kernel⟩,
   ⟨{ State.reset with tim.servo := .stepSuspect, tim.suspectAt := some 0, tim.hist := List.replicate 16 5 }, 0, by decide +kernel⟩,
   ⟨{ State.reset with tim.servo := .holdover, tim.holdLimit := true }, by decide +kernel⟩,
   ⟨{ State.reset with tim.slewing := true }, by decide +kernel⟩,
   ⟨0, { State.reset with tim.isGm := true, od.applied := [(key 0x2610 1, .num 1)], tim.pulses := [(0, { armed := true })], pwr.dom := [(2, { on := true })] }, by decide +kernel⟩,
   ⟨0, true, { State.reset with od.applied := [(key 0x2614 1, .num 1), (key 0x2614 2, .num 1)] }, by refine ⟨by decide +kernel, by decide +kernel, ?_⟩; intro t h; exact absurd (show (none : Option Nat) = some t from h) (by simp)⟩,
   ⟨.host, 0, live, by decide +kernel⟩⟩

/-- States and operands that meet the hypotheses of each clause of ApertureAccessesComplete. -/
theorem witness_ApertureAccessesComplete : (∃ (bar4 : Bool) (a : BitVec 30) (d : List Byte) (s : State) (w : Nat), (reaches s .host = true ∧ winAt s bar4 a.toNat = some w) ∧ (d ≠ [] ∧ a.toNat - winCfg s w 2 + d.length ≤ 2 ^ winCfg s w 3)) ∧
    (∃ (bar4 : Bool) (a : BitVec 30) (d : List Byte) (s : State) (w : Nat), (reaches s .host = true ∧ winAt s bar4 a.toNat = some w) ∧ (d ≠ [] ∧ 2 ^ winCfg s w 3 < a.toNat - winCfg s w 2 + d.length)) ∧
    (∃ (bar4 : Bool) (a : BitVec 30) (d : List Byte) (s : State), (reaches s .host = true ∧ winAt s bar4 a.toNat = none) ∧ (d ≠ [] ∧ a.toNat % 4096 + d.length ≤ 4096)) ∧
    (∃ (bar4 : Bool) (a : BitVec 30) (len : Fin 4097) (s : State), (reaches s .host = true)) ∧
    (∃ (bar4 : Bool) (a : BitVec 30) (op : Fin 3) (wide : Bool) (operand compare : BitVec 64) (s : State) (w : Nat), (reaches s .host = true ∧ winAt s bar4 a.toNat = some w)) ∧
    (∃ (hart : Fin 8) (ecc bar4 : Bool) (a : BitVec 56) (n o : Nat) (s : State) (w : Nat), (domOn s .d8 = true ∧ s.cpu.running.getLsbD hart.val = true ∧ domOn s .d10 = true) ∧ (coreSize n = true ∧ coreArea s a.toNat n = some (.aperture bar4, o) ∧ o % n = 0 ∧ winAt s bar4 o = some w)) ∧
    (∃ (hart : Fin 8) (ecc bar4 : Bool) (a : BitVec 56) (d : List Byte) (o : Nat) (s : State) (w : Nat), (domOn s .d8 = true ∧ s.cpu.running.getLsbD hart.val = true ∧ domOn s .d10 = true) ∧ (coreSize d.length = true ∧ coreArea s a.toNat d.length = some (.aperture bar4, o) ∧ o % d.length = 0 ∧ winAt s bar4 o = some w)) ∧
    (∃ (hart : Fin 8) (ecc bar4 : Bool) (a : BitVec 56) (op : AmoOp) (n : Nat) (x : BitVec 64) (o : Nat) (s : State) (w : Nat), (domOn s .d8 = true ∧ s.cpu.running.getLsbD hart.val = true ∧ domOn s .d10 = true) ∧ (coreSize n = true ∧ coreArea s a.toNat n = some (.aperture bar4, o) ∧ o % n = 0 ∧ winAt s bar4 o = some w)) ∧
    (∃ (hart : Fin 8) (ecc bar4 : Bool) (a : BitVec 56) (o : Nat) (s : State) (w : Nat), (domOn s .d8 = true ∧ s.cpu.running.getLsbD hart.val = true ∧ domOn s .d10 = true) ∧ (coreArea s a.toNat 4 = some (.aperture bar4, o) ∧ winAt s bar4 o = some w)) ∧
    (∃ (hart : Fin 8) (ecc bar4 : Bool) (a : BitVec 56) (x : CoreAccess) (o : Nat) (s : State), (domOn s .d8 = true ∧ s.cpu.running.getLsbD hart.val = true) ∧ (coreSize (accessSize x) = true ∧ coreArea s a.toNat (accessSize x) = some (.aperture bar4, o) ∧ o % accessSize x ≠ 0)) ∧
    (∃ (hart : Fin 8) (ecc : Bool) (a : BitVec 56) (x : CoreAccess) (s : State), (domOn s .d8 = true ∧ s.cpu.running.getLsbD hart.val = true) ∧ (coreArea s a.toNat (accessSize x) = none)) ∧
    (∃ (hart : Fin 8) (a : BitVec 56) (x : CoreAccess) (o : Nat) (s : State), (domOn s .d8 = true ∧ s.cpu.running.getLsbD hart.val = true ∧ domOn s .d10 = true) ∧ (coreSize (accessSize x) = true ∧ coreArea s a.toNat (accessSize x) = some (.dram, o))) ∧
    (∃ (hart : Fin 8) (a : BitVec 56) (x : CoreAccess) (o : Nat) (s : State), (domOn s .d8 = true ∧ s.cpu.running.getLsbD hart.val = true ∧ domOn s .d10 = true) ∧ (coreSize (accessSize x) = true ∧ coreArea s a.toNat (accessSize x) = some (.dram, o) ∧ accessReads x = true)) ∧
    (∃ (hart : Fin 8) (ecc : Bool) (a : BitVec 56) (x : CoreAccess) (o : Nat) (s : State), (domOn s .d8 = true ∧ s.cpu.running.getLsbD hart.val = true ∧ domOn s .d10 = true) ∧ (coreSize (accessSize x) = true ∧ coreArea s a.toNat (accessSize x) = some (.exports, o))) ∧
    (∃ (hart : Fin 8) (ecc : Bool) (a : BitVec 56) (x : CoreAccess) (o : Nat) (s : State), (domOn s .d8 = true ∧ s.cpu.running.getLsbD hart.val = true) ∧ (coreSize (accessSize x) = true ∧ coreArea s a.toNat (accessSize x) = some (.regs, o) ∧ o % accessSize x = 0)) ∧
    (∃ (hart h : Fin 8) (ecc : Bool) (d : List Byte) (s : State), (domOn s .d8 = true ∧ s.cpu.running.getLsbD hart.val = true) ∧ (d.length = 8)) ∧
    (∃ (who : Requester) (w : Fin 64) (v : Word) (s : State), (reaches s who = true ∧ winOpen s w.val = true)) ∧
    (∃ (who : Requester) (w : Fin 64) (s : State), (reaches s who = true ∧ winOpen s w.val = true)) ∧
    (∃ (who : Requester) (w : Fin 64) (s : State), (reaches s who = true ∧ winOpen s w.val = true)) :=
  ⟨⟨false, 0, [1], { live with od.applied := window0 }, 0, by decide +kernel⟩,
   ⟨false, 0xFFFF, [1, 2], { live with od.applied := window0 }, 0, by decide +kernel⟩,
   ⟨false, 0, [1], live, by decide +kernel⟩,
   ⟨false, 0, 4, live, by decide +kernel⟩,
   ⟨false, 0, 0, true, 1, 1, { live with od.applied := window0 }, 0, by decide +kernel⟩,
   ⟨0, false, false, 0x2000000000, 4, 0, { live with cpu.running := 1, od.applied := window0 }, 0, by decide +kernel⟩,
   ⟨0, false, false, 0x2000000000, [1], 0, { live with cpu.running := 1, od.applied := window0 }, 0, by decide +kernel⟩,
   ⟨0, false, false, 0x2000000000, .max, 2, 1, 0, { live with cpu.running := 1, od.applied := window0 }, 0, by decide +kernel⟩,
   ⟨0, false, false, 0x2000000000, 0, { live with cpu.running := 1, od.applied := window0 }, 0, by decide +kernel⟩,
   ⟨0, false, false, 0x2000000001, .load 4, 1, { live with cpu.running := 1, od.applied := window0 }, by decide +kernel⟩,
   ⟨0, false, 0x1000, .load 4, { live with cpu.running := 1, od.applied := window0 }, by decide +kernel⟩,
   ⟨0, 0x800000000, .store [1, 2], 0, { live with cpu.running := 1, od.applied := window0 }, by decide +kernel⟩,
   ⟨0, 0x800000000, .load 4, 0, { live with cpu.running := 1, od.applied := window0 }, by decide +kernel⟩,
   ⟨0, false, 0x1000000000, .store [1, 2], 0, { live with cpu.running := 1, od.applied := window0 }, by decide +kernel⟩,
   ⟨0, false, 0x10090000, .load 4, 0x90000, { live with cpu.running := 1, od.applied := window0 }, by decide +kernel⟩,
   ⟨0, 1, false, [1, 2, 3, 4, 5, 6, 7, 8], { live with cpu.running := 1, od.applied := window0 }, by decide +kernel⟩,
   ⟨.host, 0, 5, { live with od.applied := window0 }, by decide +kernel⟩,
   ⟨.host, 0, { live with od.applied := window0 }, by decide +kernel⟩,
   ⟨.host, 0, { live with od.applied := window0 }, by decide +kernel⟩⟩

/-- States and operands that meet the hypotheses of each clause of AnswersAndTimersComplete. -/
theorem witness_AnswersAndTimersComplete : (∃ (b : Bulis) (s : State) (o : Op), (b.type = 6 ∧ headerBad (unpad b) = false ∧ dstBad s (unpad b) = false) ∧ (s.spl.ops.find? (fun o => o.target = (unpad b).src && o.stream = (unpad b).stream && o.seq = some (unpad b).seq) = some o) ∧ (answerCheck (unpad b) o.cscs = true)) ∧
    (∃ (b : Bulis) (s : State) (o : Op), (b.type = 4 ∧ headerBad (unpad b) = false ∧ dstBad s (unpad b) = false) ∧ (s.spl.ops.find? (fun o => o.nonPosted && o.target = (unpad b).src && o.stream = (unpad b).stream && o.seq = some (unpad b).seq
      && o.tag = some (unpad b).tag) = some o) ∧ (answerCheck (unpad b) o.cscs = true ∧ o.expired = false)) ∧
    (∃ (u : Uid) (stream : Byte) (q : Word) (s : State) (o : Op), (opAt s u stream.toNat q = some o) ∧ (o.attempts < cfg s 0x2703 0 ∧ o.lastTx + cfg s 0x2702 0 * pf < o.firstTx + retryBudget s)) ∧
    (∃ (tag : BitVec 9) (s : State) (o : Op) (t : Nat), (s.spl.ops.find? (fun o => o.tag = some tag.toNat) = some o ∧ o.tryFrom = some t)) ∧
    (∃ (tag : BitVec 9) (s : State) (o : Op) (t : Nat), (s.spl.ops.find? (fun o => o.tag = some tag.toNat) = some o ∧ o.retryAt = some t)) ∧
    (∃ (tag : BitVec 9) (s : State) (o : Op) (t : Nat), (s.spl.ops.find? (fun o => o.tag = some tag.toNat) = some o ∧ o.tryFrom = some t ∧ o.seq = none)) ∧
    (∃ (n : Fin 64) (s : State) (x : Sem), (tfind s.spl.sems n.val = some x)) ∧
    (∃ (s : State) (x : Prefetched) (r : List Prefetched), (s.spl.fetched = x :: r)) ∧
    (∃ (u : Uid) (stream : Byte) (q : Word) (s : State) (k : Kept), (s.spl.kept.find? (fun k => k.uid = u && k.stream = stream.toNat && k.seq = q) = some k)) ∧
    (∃ (u : Uid) (stream : Byte) (s : State) (r : RecvSt), (s.spl.receivers.find? (recvOf u stream.toNat) = some r)) :=
  ⟨⟨(let b : Bulis := { type := 6, src := 9, dst := 0x02417C001003 }; { b with check := bulisSum b 0 }), { State.reset with spl.ops := [{ id := 0, kind := .write, who := .host, window := 0, stream := 0, target := 9, region := 0, offset := 0, woff := 0, len := 1, seq := some 0, cscs := [0] }] }, { id := 0, kind := .write, who := .host, window := 0, stream := 0, target := 9, region := 0, offset := 0, woff := 0, len := 1, seq := some 0, cscs := [0] }, by decide +kernel⟩,
   ⟨(let b : Bulis := { type := 4, src := 9, dst := 0x02417C001003, tag := 3 }; { b with check := bulisSum b 0 }), { State.reset with spl.ops := [{ id := 0, kind := .read, tag := some 3, who := .host, window := 0, stream := 0, target := 9, region := 0, offset := 0, woff := 0, len := 1, seq := some 0, cscs := [0] }] }, { id := 0, kind := .read, tag := some 3, who := .host, window := 0, stream := 0, target := 9, region := 0, offset := 0, woff := 0, len := 1, seq := some 0, cscs := [0] }, by decide +kernel⟩,
   ⟨9, 0, 0, { State.reset with spl.ops := [{ id := 0, kind := .write, who := .host, window := 0, stream := 0, target := 9, region := 0, offset := 0, woff := 0, len := 1, seq := some 0 }] }, { id := 0, kind := .write, who := .host, window := 0, stream := 0, target := 9, region := 0, offset := 0, woff := 0, len := 1, seq := some 0 }, by decide +kernel⟩,
   ⟨3, { State.reset with spl.ops := [{ id := 0, kind := .read, tag := some 3, tryFrom := some 0, who := .host, window := 0, stream := 0, target := 9, region := 0, offset := 0, woff := 0, len := 1 }] }, { id := 0, kind := .read, tag := some 3, tryFrom := some 0, who := .host, window := 0, stream := 0, target := 9, region := 0, offset := 0, woff := 0, len := 1 }, 0, by decide +kernel⟩,
   ⟨3, { State.reset with spl.ops := [{ id := 0, kind := .acquire, tag := some 3, retryAt := some 0, who := .host, window := 0, stream := 0, target := 9, region := 0, offset := 0, woff := 0, len := 1 }] }, { id := 0, kind := .acquire, tag := some 3, retryAt := some 0, who := .host, window := 0, stream := 0, target := 9, region := 0, offset := 0, woff := 0, len := 1 }, 0, by decide +kernel⟩,
   ⟨3, { State.reset with spl.ops := [{ id := 0, kind := .acquire, tag := some 3, tryFrom := some 0, who := .host, window := 0, stream := 0, target := 9, region := 0, offset := 0, woff := 0, len := 1 }] }, { id := 0, kind := .acquire, tag := some 3, tryFrom := some 0, who := .host, window := 0, stream := 0, target := 9, region := 0, offset := 0, woff := 0, len := 1 }, 0, by decide +kernel⟩,
   ⟨3, { State.reset with spl.sems := [(3, { uid := 9, stream := 0, since := 0 })] }, { uid := 9, stream := 0, since := 0 }, by decide +kernel⟩,
   ⟨{ State.reset with spl.fetched := [{ window := 0, stream := 0, offset := 0, data := [], seq := 0, arrived := 0, target := 9, region := 0, roff := 0 }] }, { window := 0, stream := 0, offset := 0, data := [], seq := 0, arrived := 0, target := 9, region := 0, roff := 0 }, [], by decide +kernel⟩,
   ⟨9, 0, 0, { State.reset with spl.kept := [{ uid := 9, stream := 0, seq := 0, until_ := 0, frame := {} }] }, { uid := 9, stream := 0, seq := 0, until_ := 0, frame := {} }, by decide +kernel⟩,
   ⟨9, 0, { State.reset with spl.receivers := [{ uid := 9, stream := 0, next := 0 }] }, { uid := 9, stream := 0, next := 0 }, by decide +kernel⟩⟩

/-- States and operands that meet the hypotheses of each clause of BridgeControlCompletes. -/
theorem witness_BridgeControlCompletes : (∃ (port : Fin 20) (mac : Mac) (b : Bulis) (ecc : List Word) (s : State), (domOn s .d2 = true) ∧ (headerBad (unpad b) = false ∧ dstBad s (unpad b) = false ∧ checkPasses s (unpad b) = true ∧ b.type ≠ 4 ∧ b.type ≠ 6) ∧ (b.type = 0x10 → damIngress s port.val = true)) ∧
    (∃ (port : Fin 20) (mac : Mac) (b : Bulis) (ecc : List Word) (s : State), (domOn s .d2 = true ∧ b.type = 0x10 ∧ damIngress s port.val = false) ∧ (headerBad (unpad b) = false ∧ dstBad s (unpad b) = false ∧ (checkPasses s (unpad b) = true ∨ checkStale s (unpad b) = true))) ∧
    (∃ (u : Uid) (stream : Byte) (q : Word) (s : State) (o : Op), (opAt s u stream.toNat q = some o ∧ o.nonPosted = false)) ∧
    (∃ (s : State), (cfgOn s 0x2701 0 = false ∧ splIdle s = true)) ∧
    (∃ (who : Requester) (s : State), (reaches s who = true ∧ featDenied s who 1 = false)) ∧
    (∃ (who : Requester) (s : State), (reaches s who = true ∧ featDenied s who 2 = false)) ∧
    (∃ (who : Requester) (s : State), (reaches s who = true ∧ featDenied s who 1 = true)) ∧
    (∃ (who : Requester) (s : State), (reaches s who = true ∧ featDenied s who 0 = false)) ∧
    (∃ (who : Requester) (mask : BitVec 16) (s : State), (reaches s who = true)) ∧
    (∃ (n : Fin 16) (s : State), (streamSt s n.val = .fenced ∧ tget s.spl.fencing n.val false = false ∧ streamBusy s n.val = false)) ∧
    (∃ (w : Fin 64) (s : State), (reaches s .host = true)) ∧
    (∃ (s : State), (reaches s .host = true)) ∧
    (∃ (w : Fin 64) (s : State), (reaches s .host = true)) ∧
    (∃ (n : Fin 16) (s : State), (reaches s .host = true)) :=
  ⟨⟨18, 7, (let b : Bulis := { type := 1, src := 9, dst := 0x02417C001003 }; { b with check := bulisSum b 0 }), [], live, by refine ⟨by decide +kernel, by decide +kernel, ?_⟩; intro h; exact absurd h (by decide)⟩,
   ⟨18, 7, (let b : Bulis := { type := 0x10, src := 9, dst := 0x02417C001003 }; { b with check := bulisSum b 0 }), [], { live with od.applied := [(key 0x2008 0, .num 0)] }, by decide +kernel⟩,
   ⟨9, 0, 0, { State.reset with spl.ops := [{ kind := .write, target := 9, seq := some 0 }] }, { kind := .write, target := 9, seq := some 0 }, by decide +kernel⟩,
   ⟨{ State.reset with od.applied := [(key 0x2701 0, .num 0)] }, by decide +kernel⟩,
   ⟨.host, live, by decide +kernel⟩,
   ⟨.host, live, by decide +kernel⟩,
   ⟨.core, { live with cpu.running := 1, od.applied := [(key 0x2C02 0, .num 0)] }, by decide +kernel⟩,
   ⟨.host, live, by decide +kernel⟩,
   ⟨.host, 3, live, by decide +kernel⟩,
   ⟨0, { State.reset with spl.streams := [(0, .fenced)] }, by decide +kernel⟩,
   ⟨0, live, by decide +kernel⟩,
   ⟨live, by decide +kernel⟩,
   ⟨0, live, by decide +kernel⟩,
   ⟨0, live, by decide +kernel⟩⟩

/-- States and operands that meet the hypotheses of each clause of CheckEngineCompletes. -/
theorem witness_CheckEngineCompletes : (∃ (who : Requester) (s : State), (reaches s who = true ∧ featDenied s who 5 = false ∧ s.chk.enable = true ∧ s.chk.run = .idle)) ∧
    (∃ (who : Requester) (v : Word) (s : State), (reaches s who = true ∧ featDenied s who 5 = false ∧ s.chk.enable = true ∧ s.chk.run = .stream)) ∧
    (∃ (who : Requester) (x : Byte) (s : State), (reaches s who = true ∧ featDenied s who 5 = false ∧ s.chk.enable = true ∧ s.chk.run = .stream)) ∧
    (∃ (who : Requester) (s : State), (reaches s who = true ∧ featDenied s who 5 = false ∧ s.chk.run = .stream)) ∧
    (∃ (who : Requester) (s : State), (reaches s who = true ∧ featDenied s who 5 = false ∧ s.chk.enable = true ∧ s.chk.run = .idle)) ∧
    (∃ (data : List Byte) (s : State), (s.chk.run = .descriptor ∧ domOn s .d10 = true)) ∧
    (∃ (data : List Byte) (s : State), (s.chk.run = .descriptor)) ∧
    (∃ (who : Requester) (s : State), (reaches s who = true ∧ featDenied s who 5 = false)) :=
  ⟨⟨.host, { live with chk.enable := true }, by decide +kernel⟩,
   ⟨.host, 5, { live with chk.enable := true, chk.run := .stream }, by decide +kernel⟩,
   ⟨.host, 5, { live with chk.enable := true, chk.run := .stream }, by decide +kernel⟩,
   ⟨.host, { live with chk.enable := true, chk.run := .stream }, by decide +kernel⟩,
   ⟨.host, { live with chk.enable := true }, by decide +kernel⟩,
   ⟨[1, 2], { live with chk.run := .descriptor }, by decide +kernel⟩,
   ⟨[1, 2], { live with chk.run := .descriptor }, by decide +kernel⟩,
   ⟨.host, live, by decide +kernel⟩⟩

/-- States and operands that meet the hypotheses of each clause of LegacyBusesComplete. -/
theorem witness_LegacyBusesComplete : (∃ (c : Fin 2) (ext : Bool) (id : BitVec 29) (kind : CanKind) (d : List Byte) (errs : Byte) (tec : BitVec 9) (rec_ : Byte) (s : State) (i : Nat), (pdbActive s = true ∧ (canSt s c.val).state < 2) ∧ (kind ≠ .remote ∧ (kind = .fd → cfg s 0x2803 (c.val + 1) ≠ 0) ∧ pdLen s c.val i ≤ d.length) ∧ ((List.range 64).find? (canHit s c.val ext id) = some i)) ∧
    (∃ (c : Fin 2) (ext : Bool) (id : BitVec 29) (d : List Byte) (errs : Byte) (tec : BitVec 9) (rec_ : Byte) (s : State), ((canSt s c.val).state < 2 ∧ cfg s 0x2803 (c.val + 1) = 0)) ∧
    (∃ (c : Fin 2) (s : State), ((canSt s c.val).state ≠ 2)) ∧
    (∃ (c : Fin 2) (s : State), (cfgOn s 0x2805 (c.val + 1) = false)) ∧
    (∃ (mask : BitVec 2) (s : State), (reaches s .host = true)) ∧
    (∃ (addr : BitVec 12) (poll : MvbPoll) (s : State) (i : Nat), (cfg s 0x2808 0 ≠ 0 ∧ pdbActive s = true ∧ poll.fcode.val ≠ 15) ∧ ((List.range 64).find? (fun i => sinkEnabled s 2 i && mvbEntry s i % 2 ^ 12 = addr.toNat && mvbEntry s i / 2 ^ 16 % 8 = poll.fcode.val) = some i)) ∧
    (∃ (addr : BitVec 12) (d : List Byte) (bad : Option (Fin 2)) (s : State) (i : Nat), (cfg s 0x2808 0 ≠ 0 ∧ pdbActive s = true) ∧ ((List.range 64).find? (fun i => srcEnabled s (128 + i) && mvbEntry s i % 2 ^ 12 = addr.toNat) = some i)) ∧
    (∃ (s : State), (cfg s 0x2808 0 ≠ 0 ∧ s.pdb.silent = false)) ∧
    (∃ (kind : Fin 5) (i : Fin 64) (s : State) (t : Nat), (kind.val ≠ 2 ∧ kind.val ≠ 3 ∧ sinkEnabled s kind.val i.val = true ∧ pdbActive s = true) ∧ (sinkDue s kind.val i.val = some t)) ∧
    (∃ (n : Fin 256) (s : State), ((srcSt s n.val).fresh = true ∧ srcLimit s n.val ≠ 0 ∧ srcEnabled s n.val = true)) ∧
    (∃ (b : List Byte) (s : State), (pdbActive s = true ∧ b.getD 0 0 = 1) ∧ ((List.range 64).filter (fun k => cfg s 0x2838 (k + 1) ≠ 0 && cfg s 0x2838 (k + 1) = beNat ((b.drop 4).take 4)) ≠ [])) ∧
    (∃ (s : State), (reaches s .host = true)) ∧
    (∃ (s : State), (cfgOn s 0x2801 0 = false)) ∧
    (∃ (c : Fin 2) (m : SdoIn) (s : State), (sdoRuns s c.val = true ∧ m.ext = false ∧ m.id.toNat = 0x600 + cfg s 0x2009 (c.val + 1)) ∧ (m.usdo = true → cfg s 0x2803 (c.val + 1) ≠ 0)) ∧
    (∃ (c : Fin 2) (s : State) (x : Sdo), (tfind s.od.sdo c.val = some x)) ∧
    (∃ (c : Fin 2) (s : State), (cfg s 0x1017 0 ≠ 0 ∧ sdoRuns s c.val = true)) :=
  ⟨⟨0, false, 0, .data, [], 0, 0, 0, { live with od.applied := [(key 0x2801 0, .num 1), (key 0x2810 1, .num 0x80000000), (key 0x2812 1, .num 0)], pdb.cans := [(0, { state := 0 })] }, 0, by decide +kernel⟩,
   ⟨0, false, 0, [], 0, 0, 0, { live with od.applied := [(key 0x2803 1, .num 0)], pdb.cans := [(0, { state := 0 })] }, by decide +kernel⟩,
   ⟨0, State.reset, by decide +kernel⟩,
   ⟨0, { State.reset with od.applied := [(key 0x2805 1, .num 0)] }, by decide +kernel⟩,
   ⟨1, live, by decide +kernel⟩,
   ⟨5, { fcode := 3 }, { live with od.applied := [(key 0x2801 0, .num 1), (key 0x2808 0, .num 1), (key 0x2820 1, .num 0xC0030005)] }, 0, by decide +kernel⟩,
   ⟨5, [1], none, { live with od.applied := [(key 0x2801 0, .num 1), (key 0x2808 0, .num 1), (key 0x2820 1, .num 0x80030005)] }, 0, by decide +kernel⟩,
   ⟨{ State.reset with od.applied := [(key 0x2808 0, .num 1)] }, by decide +kernel⟩,
   ⟨4, 0, { live with od.applied := [(key 0x2801 0, .num 1), (key 0x2830 1, .num 7)], pdb.updates := 1 }, 0, by decide +kernel⟩,
   ⟨0, { live with od.applied := [(key 0x2801 0, .num 1), (key 0x2810 1, .num 0x80000000), (key 0x2815 1, .num 5)], pdb.srcs := [(0, { fresh := true })] }, by decide +kernel⟩,
   ⟨[1, 0, 0, 0, 0, 0, 0, 7], { live with od.applied := [(key 0x2801 0, .num 1), (key 0x2838 1, .num 7)] }, by decide +kernel⟩,
   ⟨live, by decide +kernel⟩,
   ⟨{ State.reset with od.applied := [(key 0x2801 0, .num 0)] }, by decide +kernel⟩,
   ⟨0, { id := 0x605, req := .abort }, { live with pdb.cans := [(0, { state := 0 })], od.applied := [(key 0x2009 1, .num 5)] }, by refine ⟨by decide +kernel, ?_⟩; intro h; exact absurd h (by decide)⟩,
   ⟨0, { State.reset with od.sdo := [(0, { download := true, index := 0x2000, sub := 0 })] }, { download := true, index := 0x2000, sub := 0 }, by decide +kernel⟩,
   ⟨0, { live with pdb.cans := [(0, { state := 0 })], od.applied := [(key 0x2009 1, .num 5), (key 0x1017 0, .num 5)] }, by decide +kernel⟩⟩

/-- States and operands that meet the hypotheses of each clause of ClusterAndKeysComplete. -/
theorem witness_ClusterAndKeysComplete : (∃ (who : Requester) (s : State), (reaches s who = true)) ∧
    (∃ (s : State), (cfgOn s 0x2C01 0 = false ∧ coreSpliceIdle s = true)) ∧
    (∃ (hart : Fin 8) (cmp : BitVec 64) (s : State), (domOn s .d8 = true) ∧ (tfind s.cpu.mtimecmp hart.val = none ∨ tfind s.cpu.mtimecmp hart.val = some cmp)) ∧
    (∃ (core : Fin 8) (tail : Word) (rx : List NicRx) (tx : List NicTx) (s : State), (reaches s .core = true)) ∧
    (∃ (pair : Fin 2) (s : State), (domOn s .d2 = true)) ∧
    (∃ (pair member : Fin 2) (s : State), (domOn s .d2 = true)) ∧
    (∃ (p : Fin 4) (x : MkaIn) (s : State), (mkaRuns s p.val = true ∧ x.cakOk = true) ∧ (x.newSak = false ∧ (x.keyServer = false ∨ (msSt s p.val).rxSa = true) ∧ x.peerRx = false)) ∧
    (∃ (p : Fin 4) (x : MkaIn) (s : State), (mkaRuns s p.val = true ∧ x.cakOk = false)) ∧
    (∃ (s : State), ([0, 1, 2, 3].any (mkaRuns s) = true)) ∧
    (∃ (p : Fin 4) (s : State), (mkaRuns s p.val = true ∧ (msSt s p.val).keyServer = true ∧ (msSt s p.val).txSa = true ∧ (msSt s p.val).rekeying = false) ∧ (0xC0000000 ≤ (msSt s p.val).txPn.toNat)) ∧
    (∃ (p : Fin 4) (s : State), ((msSt s p.val).txSa = true ∧ (msSt s p.val).exhausted = false ∧ (msSt s p.val).txPn = 0xFFFFFFFF)) ∧
    (∃ (p : Fin 4) (s : State) (t : Nat), ((msSt s p.val).mkaAt = some t)) :=
  ⟨⟨.host, live, by decide +kernel⟩,
   ⟨{ State.reset with od.applied := [(key 0x2C01 0, .num 0)] }, by decide +kernel⟩,
   ⟨0, 5, live, by decide +kernel⟩,
   ⟨0, 0, [], [], { live with cpu.running := 1 }, by decide +kernel⟩,
   ⟨0, live, by decide +kernel⟩,
   ⟨0, 0, live, by decide +kernel⟩,
   ⟨0, { cakOk := true, newSak := false, keyServer := false, peerRx := false }, { State.reset with bb.links := [(0, { st := .upStd })], od.applied := [(key 0x2C30 1, .num 1)], cpu.macsec := [(0, { cak := [1] })] }, by decide +kernel⟩,
   ⟨0, { cakOk := false, newSak := false, keyServer := false, peerRx := false }, { State.reset with bb.links := [(0, { st := .upStd })], od.applied := [(key 0x2C30 1, .num 1)], cpu.macsec := [(0, { cak := [1] })] }, by decide +kernel⟩,
   ⟨{ State.reset with bb.links := [(0, { st := .upStd })], od.applied := [(key 0x2C30 1, .num 1)], cpu.macsec := [(0, { cak := [1] })] }, by decide +kernel⟩,
   ⟨0, { State.reset with bb.links := [(0, { st := .upStd })], od.applied := [(key 0x2C30 1, .num 1)], cpu.macsec := [(0, { cak := [1], keyServer := true, txSa := true, txPn := 0xC0000000 })] }, by decide +kernel⟩,
   ⟨0, { State.reset with cpu.macsec := [(0, { txSa := true, txPn := 0xFFFFFFFF })] }, by decide +kernel⟩,
   ⟨0, { State.reset with cpu.macsec := [(0, { mkaAt := some 3 })] }, 3, by decide +kernel⟩⟩

/-- States and operands that meet the hypotheses of each clause of DomainsComplete. -/
theorem witness_DomainsComplete : (∃ (d : Dom) (s : State), (d ≠ .d0 ∧ d ≠ .d2 ∧ s.node ≠ .asleep ∧ domOn s d = true)) ∧
    (∃ (s : State), (s.node ≠ .asleep ∧ domOn s .d2 = true)) ∧
    (∃ (d : Dom) (s : State) (t : Nat), ((domSt s d).retryAt = some t)) ∧
    (∃ (mask : Word) (s : State), (reaches s .host = true)) ∧
    (∃ (l : Line) (s : State), (s.pwr.returning.getLsbD (lineIx l) = true ∧ planeComplete s l = true ∧ (lineSt s l).checking = false)) ∧
    (∃ (l : Line) (s : State), (s.pwr.outPending.getLsbD (lineIx l) = true ∧ lineEnergised s l = false)) ∧
    (∃ (d : Dom) (s : State) (t : Nat), ((domSt s d).drainBy = some t)) ∧
    (∃ (s : State), (domOn s .d2 = true)) ∧
    (∃ (l : Line) (v : BitVec 16) (s : State), (lineEnergised s l = true) ∧ (v.toNat < 8 ∨ (if pullIn s l then 130 else 70) < v.toNat)) ∧
    (∃ (l : Line) (v : BitVec 16) (s : State), (8 ≤ v.toNat ∧ v.toNat ≤ 70)) :=
  ⟨⟨.d3, live, by decide +kernel⟩,
   ⟨live, by decide +kernel⟩,
   ⟨.d3, { State.reset with pwr.dom := [(3, { retryAt := some 4 })] }, 4, by decide +kernel⟩,
   ⟨8, live, by decide +kernel⟩,
   ⟨.a, { live with pwr.returning := 1 }, by decide +kernel⟩,
   ⟨.a, { live with pwr.outPending := 1 }, by decide +kernel⟩,
   ⟨.d8, { State.reset with pwr.dom := [(8, { on := true, drainBy := some 4 })] }, 4, by decide +kernel⟩,
   ⟨live, by decide +kernel⟩,
   ⟨.a, 7, { live with bb.a := { energised := true } }, by decide +kernel⟩,
   ⟨.a, 40, live, by decide +kernel⟩⟩

/-- States and operands that meet the hypotheses of each clause of SupplyComplete. -/
theorem witness_SupplyComplete : (∃ (m : Supply) (s : State), (s.pwr.holdupOn = false ∧ s.node ≠ .off) ∧ (inputOf m < 140000)) ∧
    (∃ (m : Supply) (s : State), (140000 ≤ inputOf m)) ∧
    (∃ (m : Supply) (s : State), (155000 < inputOf m)) ∧
    (∃ (m : Supply) (s : State), (s.node ≠ .off ∧ s.node ≠ .asleep) ∧ (m.bus.toNat < 9500)) ∧
    (∃ (m : Supply) (s : State), (s.node ≠ .off ∧ s.node ≠ .asleep) ∧ (9500 ≤ m.bus.toNat)) ∧
    (∃ (input bus : Bool) (m : Supply) (s : State), (s.node ≠ .off ∧ (input && inputSags m s || bus && busSags m) = true ∧ s.pwr.sag = false)) ∧
    (∃ (m : Supply) (s : State), (s.pwr.sag = true ∧ s.cpu.imageWait = none ∧ supplyHigh m s = true)) ∧
    (∃ (m : Supply) (s : State), (s.pwr.sag = true ∧ supplyHigh m s = false)) ∧
    (∃ (t : BitVec 16) (s : State), (s.node ≠ .off ∧ s.pwr.tempOut = false) ∧ (t.toInt < -110 ∨ 250 < t.toInt)) ∧
    (∃ (t : BitVec 16) (s : State), (s.node ≠ .off ∧ s.node ≠ .fault ∧ 270 < t.toInt)) ∧
    (∃ (who : Requester) (s : State), (reaches s who = true)) ∧
    (∃ (who : Requester) (k : Fin 8) (s : State), (reaches s who = true)) ∧
    (∃ (who : Requester) (p : Fin 4) (s : State), (reaches s who = true)) :=
  ⟨⟨{}, live, by decide +kernel⟩,
   ⟨{ input := 5600 }, live, by decide +kernel⟩,
   ⟨{ input := 6201 }, live, by decide +kernel⟩,
   ⟨{}, live, by decide +kernel⟩,
   ⟨{ bus := 9500 }, live, by decide +kernel⟩,
   ⟨true, false, {}, live, by decide +kernel⟩,
   ⟨{ input := 0xFFFF, bus := 12000 }, { live with pwr.sag := true }, by decide +kernel⟩,
   ⟨{}, { live with pwr.sag := true }, by decide +kernel⟩,
   ⟨300, live, by decide +kernel⟩,
   ⟨300, live, by decide +kernel⟩,
   ⟨.host, live, by decide +kernel⟩,
   ⟨.host, 0, live, by decide +kernel⟩,
   ⟨.host, 0, live, by decide +kernel⟩⟩

/-- States and operands that meet the hypotheses of each clause of LoopsComplete. -/
theorem witness_LoopsComplete : (∃ (k : Fin 8) (occ : Fin 101) (completions : Word) (floorV : BitVec 10) (s : State), (domOn s (loopDom k.val) = true ∧ cfg s 0x2110 (k.val + 1) = 2)) ∧
    (∃ (k : Fin 8) (s : State) (t : Nat), ((loopSt s k.val).satSince = some t ∧ (loopSt s k.val).satCounted = false ∧ domOn s (loopDom k.val) = true)) ∧
    (∃ (k : Fin 4) (s : State) (t : Nat), ((loopSt s k.val).satSince = some t ∧ (loopSt s k.val).satNoted = false ∧ domOn s (loopDom k.val) = true)) :=
  ⟨⟨0, 5, 7, 900, { live with od.applied := [(key 0x2110 1, .num 2)] }, by decide +kernel⟩,
   ⟨0, { live with pwr.loops := [(0, { satSince := some 4 })] }, 4, by decide +kernel⟩,
   ⟨0, { live with pwr.loops := [(0, { satSince := some 4 })] }, 4, by decide +kernel⟩⟩

/-- States and operands that meet the hypotheses of each clause of StartAndResetComplete. -/
theorem witness_StartAndResetComplete : (∃ (handleLocked : Bool) (s : State), (s.node = .off)) ∧
    (∃ (s : State), (s.node = .dawn ∧ s.hpl.boot = .started)) ∧
    (∃ (active other : ImageCheck) (s : State), (s.node = .dawn ∧ s.hpl.boot = .busInRange ∧ imageAccepted s (slotCheck s s.cpu.activeSlot active) = true)) ∧
    (∃ (active other : ImageCheck) (s : State), (s.node = .dawn ∧ s.hpl.boot = .busInRange ∧ imageAccepted s (slotCheck s s.cpu.activeSlot active) = false) ∧ (imageAccepted s (slotCheck s (!s.cpu.activeSlot) other) = true)) ∧
    (∃ (active other : ImageCheck) (s : State), (s.node = .dawn ∧ s.hpl.boot = .busInRange) ∧ (imageAccepted s (slotCheck s s.cpu.activeSlot active) = false ∧ imageAccepted s (slotCheck s (!s.cpu.activeSlot) other) = false)) ∧
    (∃ (s : State), (s.node = .dawn ∧ s.hpl.boot = .verified)) ∧
    (∃ (s : State), (s.hpl.boot = .dawned ∧ domOn s .d8 = true)) ∧
    (∃ (s : State), (s.hpl.boot = .dawned ∧ domOn s .d8 = true ∧ s.cpu.appKey = true)) ∧
    (∃ (s : State) (t : Nat), (s.hpl.lampTestBy = some t)) ∧
    (∃ (c : ResetCause) (s : State), (s.node ≠ .off)) ∧
    (∃ (s : State), (s.node ≠ .off ∧ s.node ≠ .asleep)) ∧
    (∃ (s : State) (t : Nat), (s.hpl.faultRecoverBy = some t ∧ s.node = .fault ∧ s.pwr.thermal = false)) ∧
    (∃ (t : BitVec 16) (s : State), (s.node = .fault ∧ s.hpl.waitCool = true ∧ t.toInt < 250)) :=
  ⟨⟨true, { State.reset with node := .off }, by decide +kernel⟩,
   ⟨{ State.reset with hpl.boot := .started }, by decide +kernel⟩,
   ⟨{ signatureOk := true, key := List.replicate 48 1, version := 3 }, { signatureOk := false, key := [], version := 0 }, { State.reset with hpl.boot := .busInRange }, by decide +kernel⟩,
   ⟨{ signatureOk := false, key := [], version := 0 }, { signatureOk := true, key := List.replicate 48 1, version := 3 }, { State.reset with hpl.boot := .busInRange }, by decide +kernel⟩,
   ⟨{ signatureOk := false, key := [], version := 0 }, { signatureOk := false, key := [], version := 0 }, { State.reset with hpl.boot := .busInRange }, by decide +kernel⟩,
   ⟨{ State.reset with hpl.boot := .verified }, by decide +kernel⟩,
   ⟨{ live with hpl.boot := .dawned }, by decide +kernel⟩,
   ⟨{ live with hpl.boot := .dawned, cpu.appKey := true }, by decide +kernel⟩,
   ⟨{ State.reset with hpl.lampTestBy := some 4 }, 4, by decide +kernel⟩,
   ⟨.host, live, by decide +kernel⟩,
   ⟨live, by decide +kernel⟩,
   ⟨{ State.reset with node := .fault, hpl.faultRecoverBy := some 4 }, 4, by decide +kernel⟩,
   ⟨3, { State.reset with node := .fault, hpl.waitCool := true }, by decide +kernel⟩⟩

/-- States and operands that meet the hypotheses of each clause of ExitPathCompletes. -/
theorem witness_ExitPathCompletes : (∃ (s : State), (s.node ≠ .off ∧ s.node ≠ .exit ∧ s.node ≠ .asleep ∧ s.node ≠ .fault ∧ s.hpl.safeToRemove = false)) ∧
    (∃ (s : State), (s.node ≠ .asleep)) ∧
    (∃ (s : State), (reaches s .host = true ∧ s.node ≠ .off ∧ s.node ≠ .exit ∧ s.node ≠ .asleep ∧ s.node ≠ .fault ∧ s.hpl.safeToRemove = false)) ∧
    (∃ (s : State), (s.node ≠ .off ∧ s.node ≠ .exit ∧ s.hpl.safeToRemove = false)) ∧
    (∃ (s : State), (s.node = .exit ∧ s.hpl.exit = .warned)) ∧
    (∃ (s : State) (t : Nat), (s.bb.seq = .relDone t ∧ s.node = .exit ∧ s.hpl.exit = .releasing)) ∧
    (∃ (s : State) (t : Nat), (s.hpl.recDrainBy = some t)) ∧
    (∃ (s : State), (reaches s .host = true ∧ s.hpl.hostHold = true)) ∧
    (∃ (s : State) (t : Nat), (s.hpl.hostHoldBy = some t)) ∧
    (∃ (s : State) (t : Nat), (s.hpl.lockedFrom = some t ∧ s.hpl.exit = .hostGone)) ∧
    (∃ (s : State), (reaches s .host = true ∧ s.node = .member)) ∧
    (∃ (s : State), (domOn s .d12 = true ∧ s.hpl.hostHold = false)) :=
  ⟨⟨live, by decide +kernel⟩,
   ⟨live, by decide +kernel⟩,
   ⟨live, by decide +kernel⟩,
   ⟨live, by decide +kernel⟩,
   ⟨{ live with node := .exit, hpl.exit := .warned }, by decide +kernel⟩,
   ⟨{ live with node := .exit, hpl.exit := .releasing, bb.seq := .relDone 4 }, 4, by decide +kernel⟩,
   ⟨{ live with hpl.recDrainBy := some 4 }, 4, by decide +kernel⟩,
   ⟨{ live with hpl.hostHold := true }, by decide +kernel⟩,
   ⟨{ live with hpl.hostHoldBy := some 4 }, 4, by decide +kernel⟩,
   ⟨{ live with hpl.lockedFrom := some 4, hpl.exit := .hostGone }, 4, by decide +kernel⟩,
   ⟨live, by decide +kernel⟩,
   ⟨live, by decide +kernel⟩⟩

/-- States and operands that meet the hypotheses of each clause of InterruptsComplete. -/
theorem witness_InterruptsComplete : (∃ (mask : Word) (s : State), (reaches s .host = true) ∧ (∀ b, b < 23 → bitOf mask b = true → s.irq.cause.getLsbD b = true → heldCond s b = false)) ∧
    (∃ (b : Fin 23) (s : State), (reaches s .host = true ∧ s.irq.cause.getLsbD b.val = true ∧ heldCond s b.val = true)) ∧
    (∃ (v : Word) (s : State), (reaches s .host = true) ∧ (∀ b, b < 23 → bitOf v b = true → s.irq.mask.getLsbD b = false → s.irq.cause.getLsbD b = false)) ∧
    (∃ (b : Fin 23) (s : State), (reaches s .host = true ∧ s.irq.mask = 0 ∧ s.irq.cause.getLsbD b.val = true)) ∧
    (∃ (b : Fin 23) (v : Fin 64) (s : State), (reaches s .host = true)) ∧
    (∃ (s : State), (s.hpl.boot = .dawned ∧ domOn s .d12 = true)) ∧
    (∃ (bar4 : Bool) (a : BitVec 30) (n : Fin 4097) (k : Fin 4) (s : State), (domOn s .d12 = true ∧ s.irq.d3hot = true)) ∧
    (∃ (on toD0 : Bool) (s : State), (domOn s .d12 = true ∧ s.irq.retryStatus = false)) ∧
    (∃ (s : State), (domOn s .d12 = true ∧ s.irq.retryStatus = false)) ∧
    (∃ (on funcMask : Bool) (s : State), (domOn s .d12 = true ∧ s.irq.retryStatus = false)) :=
  ⟨⟨4, live, by decide +kernel⟩,
   ⟨16, { live with irq.cause := 0x10000, pwr.dom := (3, { fault := true }) :: live.pwr.dom }, by decide +kernel⟩,
   ⟨4, live, by decide +kernel⟩,
   ⟨4, { live with irq.cause := 0x10 }, by decide +kernel⟩,
   ⟨4, 5, live, by decide +kernel⟩,
   ⟨{ live with hpl.boot := .dawned }, by decide +kernel⟩,
   ⟨true, 0, 4, 0, { live with irq.d3hot := true }, by decide +kernel⟩,
   ⟨true, true, { live with irq.retryStatus := false }, by decide +kernel⟩,
   ⟨{ live with irq.retryStatus := false }, by decide +kernel⟩,
   ⟨true, false, { live with irq.retryStatus := false }, by decide +kernel⟩⟩

/-- States and operands that meet the hypotheses of each clause of RecorderWritingCompletes. -/
theorem witness_RecorderWritingCompletes : (∃ (who : Requester) (source : BitVec 6) (sev : Fin 8) (data : BitVec 64) (s : State), (reaches s who = true ∧ 56 ≤ source.toNat ∧ recLatching s = true ∧ s.log.queue.length < 64) ∧ (s.log.queue.any (coalesces source.toNat sev.val s.up) = false ∧ (who = .host ∨ sev.val < 7))) ∧
    (∃ (e : RecEntry) (q : List RecEntry) (s : State), (s.log.queue = e :: q ∧ s.log.writing = none ∧ nandReady s = true ∧ entryPages e ≤ freePages s ∧ e.seq = none ∧ s.log.clear = none)) ∧
    (∃ (e : RecEntry) (q : List RecEntry) (s : State), (s.log.queue = e :: q ∧ s.log.writing = none ∧ nandReady s = true ∧ makeRoom e.sev (entryPages e) s = none)) ∧
    (∃ (ok : Bool) (e : RecEntry) (q : List RecEntry) (n : Nat) (s : State), (s.log.queue = e :: q ∧ s.log.writing = some (.page n) ∧ s.log.forceStop = false ∧ s.pwr.sag = false ∧ n + 1 < entryPages e)) ∧
    (∃ (e : RecEntry) (q : List RecEntry) (n : Nat) (s : State), (s.log.queue = e :: q ∧ s.log.writing = some (.page n) ∧ s.log.forceStop = false ∧ s.pwr.sag = false ∧ n + 1 = entryPages e)) ∧
    (∃ (e : RecEntry) (q : List RecEntry) (s : State), (s.log.queue = e :: q ∧ s.log.writing = some .mark ∧ s.log.clear = none ∧ e.sev < cfg s 0x2A06 0)) ∧
    (∃ (s : State), (s.log.writing = none ∧ nandReady s = true)) ∧
    (∃ (e : RecEntry) (s : State), (s.pwr.sag = true ∧ s.log.lastWordsDone = false ∧ s.log.lastWordsLost = false ∧ recLatching s = true ∧ s.pwr.holdupLow = true ∧ s.log.queue = [] ∧ s.log.writing = none) ∧ (e = { latchEntry 1 6 [] s with
      data := [0, 0] ++ beBytes 2 (min s.log.lost 65535) ++ beBytes 4 0
      underSag := true
      seq := some s.log.nextSeq
      lost := s.log.lost
      refused := s.log.refusedCount }) ∧ (entryPages e ≤ freePages s)) ∧
    (∃ (s : State), (s.pwr.sag = true ∧ s.log.lastWordsDone = false ∧ s.log.lastWordsLost = false ∧ recLatching s = false ∧ s.pwr.holdupLow = true)) :=
  ⟨⟨.host, 56, 3, 0, { live with od.applied := [(key 0x2A01 0, .num 1)] }, by decide +kernel⟩,
   ⟨latchEntry 56 3 [] live, [], { live with log.queue := [latchEntry 56 3 [] live] }, by decide +kernel⟩,
   ⟨latchEntry 56 3 [] live, [], { live with log.queue := [latchEntry 56 3 [] live], log.store := [{ entry := { latchEntry 56 7 [] live with seq := some 1 }, pages := capPages }] }, by decide +kernel⟩,
   ⟨true, { latchEntry 56 3 [] live with items := List.replicate 600 (0, [0]) }, [], 0, { live with log.queue := [{ latchEntry 56 3 [] live with items := List.replicate 600 (0, [0]) }], log.writing := some (.page 0) }, by decide +kernel⟩,
   ⟨latchEntry 56 3 [] live, [], 0, { live with log.queue := [latchEntry 56 3 [] live], log.writing := some (.page 0) }, by decide +kernel⟩,
   ⟨latchEntry 56 0 [] live, [], { live with log.queue := [latchEntry 56 0 [] live], log.writing := some .mark }, by decide +kernel⟩,
   ⟨live, by decide +kernel⟩,
   ⟨{ latchEntry 1 6 [] { live with od.applied := [(key 0x2A01 0, .num 1)], pwr.sag := true, pwr.holdupLow := true } with data := [0, 0] ++ beBytes 2 0 ++ beBytes 4 0, underSag := true, seq := some 0 }, { live with od.applied := [(key 0x2A01 0, .num 1)], pwr.sag := true, pwr.holdupLow := true }, by decide +kernel⟩,
   ⟨{ live with od.applied := [(key 0x2A01 0, .num 0)], pwr.sag := true, pwr.holdupLow := true }, by decide +kernel⟩⟩

/-- States and operands that meet the hypotheses of each clause of RecorderReadingCompletes. -/
theorem witness_RecorderReadingCompletes : (∃ (minSev : Fin 8) (page : Fin 16) (e : RecEntry) (s : State), (reaches s .host = true ∧ domOn s .d11 = true ∧ ((existing s).filter (fun x => decide (minSev.val ≤ x.sev))).head? = some e)) ∧
    (∃ (minSev : Fin 8) (page : Fin 16) (e : RecEntry) (s : State), (reaches s .host = true ∧ domOn s .d11 = true ∧ ((existing s).filter (fun x => decide (minSev.val ≤ x.sev))).getLast? = some e)) ∧
    (∃ (minSev : Fin 8) (page : Fin 16) (e : RecEntry) (s : State), (reaches s .host = true ∧ domOn s .d11 = true) ∧ (((existing s).filter (fun x => decide (minSev.val ≤ x.sev))).find? (fun x => decide (cursorSeq s < (seqOf x).toNat)) = some e)) ∧
    (∃ (minSev : Fin 8) (page : Fin 16) (e : RecEntry) (s : State), (reaches s .host = true ∧ domOn s .d11 = true) ∧ ((((existing s).filter (fun x => decide (minSev.val ≤ x.sev))).filter (fun x => decide ((seqOf x).toNat < cursorSeq s))).getLast? = some e)) ∧
    (∃ (minSev : Fin 8) (page : Fin 16) (e : RecEntry) (s : State), (reaches s .host = true ∧ domOn s .d11 = true) ∧ (((existing s).filter (fun x => decide (minSev.val ≤ x.sev))).find? (fun x => decide (s.log.curSeq.toNat ≤ (seqOf x).toNat)) = some e)) ∧
    (∃ (minSev : Fin 8) (page : Fin 16) (s : State), (reaches s .host = true ∧ domOn s .d11 = true ∧ existing s = [])) ∧
    (∃ (page : Fin 16) (e : RecEntry) (s : State), (reaches s .host = true ∧ domOn s .d11 = true ∧ s.log.cur = some e ∧ page.val < entryPages e)) ∧
    (∃ (c : Fin 8) (s : State), (reaches s .host = true ∧ c.val < 7 ∧ 2 ≤ (sessOf s hostSession).level ∧ clearAllowed s = true)) ∧
    (∃ (c : Nat) (e : RecEntry) (q : List RecEntry) (s : State), (reaches s .host = true ∧ s.log.clear = some c ∧ s.log.queue = e :: q ∧ e.source = 31 ∧ s.log.writing = none)) ∧
    (∃ (s : State), (reaches s .host = true ∧ s.log.clear = none ∧ s.log.clrResult = 1)) ∧
    (∃ (s : State), (reaches s .host = true ∧ s.log.writing = none)) ∧
    (∃ (e : RecEntry) (q : List RecEntry) (n : Nat) (s : State), (s.log.forceStop = true ∧ s.log.queue = e :: q ∧ s.log.writing = some (.page n))) :=
  ⟨⟨0, 0, { latchEntry 56 3 [] live with seq := some 1 }, { live with log.store := [{ entry := { latchEntry 56 3 [] live with seq := some 1 }, pages := 1 }] }, by decide +kernel⟩,
   ⟨0, 0, { latchEntry 56 3 [] live with seq := some 1 }, { live with log.store := [{ entry := { latchEntry 56 3 [] live with seq := some 1 }, pages := 1 }] }, by decide +kernel⟩,
   ⟨0, 0, { latchEntry 56 3 [] live with seq := some 1 }, { live with log.store := [{ entry := { latchEntry 56 3 [] live with seq := some 1 }, pages := 1 }] }, by decide +kernel⟩,
   ⟨0, 0, { latchEntry 56 3 [] live with seq := some 1 }, { live with log.curSeq := 4, log.store := [{ entry := { latchEntry 56 3 [] live with seq := some 1 }, pages := 1 }] }, by decide +kernel⟩,
   ⟨0, 0, { latchEntry 56 3 [] live with seq := some 1 }, { live with log.store := [{ entry := { latchEntry 56 3 [] live with seq := some 1 }, pages := 1 }] }, by decide +kernel⟩,
   ⟨0, 0, live, by decide +kernel⟩,
   ⟨0, latchEntry 56 3 [] live, { live with log.cur := some (latchEntry 56 3 [] live) }, by decide +kernel⟩,
   ⟨3, { live with od.applied := [(key 0x2A01 0, .num 1)] }, by decide +kernel⟩,
   ⟨3, latchEntry 31 6 [] live, [], { live with log.clear := some 3, log.queue := [latchEntry 31 6 [] live] }, by decide +kernel⟩,
   ⟨{ live with log.clrResult := 1 }, by decide +kernel⟩,
   ⟨live, by decide +kernel⟩,
   ⟨latchEntry 56 3 [] live, [], 0, { live with log.forceStop := true, log.queue := [latchEntry 56 3 [] live], log.writing := some (.page 0) }, by decide +kernel⟩⟩

/-- States and operands that meet the hypotheses of each clause of TakeMemberCompletes. -/
theorem witness_TakeMemberCompletes : (∃ (src : Uid) (m : TakeMsg) (t : Tab Val) (s : State), (m.kind = 1 ∧ m.parts = 1 ∧ m.part = 0 ∧ m.shareLen = m.content.length ∧ s.tak.parts = [] ∧ s.now.toNat ≤ m.voteBy.toNat) ∧ (s.tak.seen.contains (1, m.coord, m.num, 0x20) = false ∧ memberReason src m.bodyCsc m.instant s = 0 ∧ judgeShare m.level m.content s = (0, 0, 0, t))) ∧
    (∃ (src : Uid) (m : TakeMsg) (r : Nat) (s : State), (m.kind = 1 ∧ s.tak.seen.contains (1, m.coord, m.num, 0x20) = false ∧ memberReason src m.bodyCsc m.instant s = r ∧ r ≠ 0)) ∧
    (∃ (m : TakeMsg) (s : State), (m.kind = 1 ∧ s.tak.seen.contains (1, m.coord, m.num, 0x22) = false) ∧ (s.tak.user.state = .prepared ∧ s.tak.user.isCoord = false ∧ s.tak.user.coord = m.coord ∧ s.tak.user.num = m.num)) ∧
    (∃ (m : TakeMsg) (s : State), (m.kind = 1 ∧ s.tak.seen.contains (1, m.coord, m.num, 0x23) = false) ∧ (s.tak.user.state = .prepared ∧ s.tak.user.isCoord = false ∧ s.tak.user.coord = m.coord ∧ s.tak.user.num = m.num)) ∧
    (∃ (s : State), (s.tak.user.state = .prepared ∧ s.tak.user.isCoord = false ∧ s.tak.user.doubt = false)) ∧
    (∃ (s : State), (s.tak.sys.state = .prepared ∧ s.tak.sys.doubt = true) ∧ ((passTo (s.tak.sys.sentAt + 256 * pf) s).now.toNat < (framesAfter s.tak.sys.instant 16).toNat)) ∧
    (∃ (src : Uid) (m : TakeMsg) (o : Outcome) (s : State), (s.tak.outcomes.find? (fun x => x.kind = m.kind && x.coord = m.coord && x.num = m.num && decide (s.up < x.at_ + 16 * rl)) = some o) ∧ (s.tak.seen.contains (m.kind, m.coord, m.num, 0x21 + 256 * src.toNat) = false ∧ o.scrap = none)) ∧
    (∃ (m : TakeMsg) (s : State), (m.kind = 1 ∧ s.tak.user.state = .prepared ∧ s.tak.user.doubt = true ∧ s.tak.user.coord = m.coord ∧ s.tak.user.num = m.num)) ∧
    (∃ (s : State), (s.tak.user.state = .prepared ∧ s.tak.user.doubt = true)) :=
  ⟨⟨7, { instant := 0x5DC00000 }, [], { live with ina.sheet := some { entries := [{ uid := 7, consist := 0, consistPos := 1 }], csc := 0 } }, by decide +kernel⟩,
   ⟨7, {}, 3, live, by decide +kernel⟩,
   ⟨{}, { live with tak.user := { state := .prepared } }, by decide +kernel⟩,
   ⟨{}, { live with tak.user := { state := .prepared } }, by decide +kernel⟩,
   ⟨{ live with tak.user := { state := .prepared } }, by decide +kernel⟩,
   ⟨{ live with tak.sys := { state := .prepared, doubt := true } }, by decide +kernel⟩,
   ⟨7, {}, { kind := 1, coord := 0, num := 0, instant := 0, scrap := none, at_ := 0 }, { live with tak.outcomes := [{ kind := 1, coord := 0, num := 0, instant := 0, scrap := none, at_ := 0 }] }, by decide +kernel⟩,
   ⟨{}, { live with tak.user := { state := .prepared, doubt := true } }, by decide +kernel⟩,
   ⟨{ live with tak.user := { state := .prepared, doubt := true } }, by decide +kernel⟩⟩

/-- States and operands that meet the hypotheses of each clause of TakeCoordinatorCompletes. -/
theorem witness_TakeCoordinatorCompletes : (∃ (src : Uid) (m : TakeMsg) (s : State), (m.coord = s.uid ∧ m.kind = 1 ∧ s.tak.user.isCoord = true ∧ s.tak.user.state = .prepared ∧ s.tak.user.num = m.num ∧ s.tak.user.members.contains src = true) ∧ (m.vote = 1 ∧ s.now.toNat ≤ s.tak.user.voteBy.toNat)) ∧
    (∃ (src : Uid) (m : TakeMsg) (s : State), (m.coord = s.uid ∧ m.kind = 1 ∧ s.tak.user.isCoord = true ∧ s.tak.user.state = .prepared ∧ s.tak.user.num = m.num ∧ s.tak.user.members.contains src = true) ∧ (m.vote = 2)) ∧
    (∃ (s : State), (s.tak.user.isCoord = true ∧ s.tak.user.state = .prepared)) ∧
    (∃ (s : State), (s.tak.sys.isCoord = true ∧ s.tak.sys.state = .prepared)) ∧
    (∃ (s : State), (s.tak.user.isCoord = true ∧ s.tak.user.state = .printed ∧ (passTo (s.tak.user.sentAt + 256 * pf) s).now.toNat < s.tak.user.instant.toNat)) ∧
    (∃ (x : ScrapRun) (s : State), (s.tak.userScrap = some x)) ∧
    (∃ (kind : Fin 4) (coord : Uid) (num : Word) (o : Outcome) (s : State), (s.tak.outcomes.find? (fun o => o.kind = kind.val && o.coord = coord && o.num = num) = some o)) :=
  ⟨⟨7, { vote := 1 }, { live with uid := 0, tak.user := { state := .prepared, isCoord := true, members := [7] } }, by decide +kernel⟩,
   ⟨7, { vote := 2 }, { live with uid := 0, tak.user := { state := .prepared, isCoord := true, members := [7] } }, by decide +kernel⟩,
   ⟨{ live with tak.user := { state := .prepared, isCoord := true } }, by decide +kernel⟩,
   ⟨{ live with tak.sys := { state := .prepared, isCoord := true } }, by decide +kernel⟩,
   ⟨{ live with tak.user := { state := .printed, isCoord := true, instant := 0x5DC00000 } }, by decide +kernel⟩,
   ⟨{ kind := 1, num := 0, instant := 0, reason := 1, left := 2, sentAt := 0 }, { live with tak.userScrap := some { kind := 1, num := 0, instant := 0, reason := 1, left := 2, sentAt := 0 } }, by decide +kernel⟩,
   ⟨1, 0, 0, { kind := 1, coord := 0, num := 0, instant := 0, scrap := none, at_ := 0 }, { live with tak.outcomes := [{ kind := 1, coord := 0, num := 0, instant := 0, scrap := none, at_ := 0 }] }, by decide +kernel⟩⟩

/-- States and operands that meet the hypotheses of each clause of TakeInstantsComplete. -/
theorem witness_TakeInstantsComplete : (∃ (s : State), (s.tak.user.state = .printed)) ∧
    (∃ (s : State), (s.tak.user.state = .open_)) ∧
    (∃ (s : State), (s.tak.sys.kind = 2 ∧ s.tak.sys.state = .printed)) ∧
    (∃ (t : Instant) (s : State), (s.wak.duskAt = some t ∧ s.node = .dusk)) :=
  ⟨⟨{ live with tak.user := { state := .printed } }, by decide +kernel⟩,
   ⟨{ live with tak.user := { state := .open_ } }, by decide +kernel⟩,
   ⟨{ live with tak.sys := { state := .printed, kind := 2 } }, by decide +kernel⟩,
   ⟨5, { live with node := .dusk, wak.duskAt := some 5 }, by decide +kernel⟩⟩

/-- States and operands that meet the hypotheses of each clause of TrainLineInputsComplete. -/
theorem witness_TrainLineInputsComplete : (∃ (i : Fin 16) (above : Bool) (ts : Word) (level : BitVec 16) (s : State), (inActive s i.val = true ∧ (inSt s i.val).high ≠ (above != cfgOn s 0x2B09 (i.val + 1)))) ∧
    (∃ (i : Fin 16) (samples : List (BitVec 16)) (s : State), (domOn (toFrame s) .d1 = true ∧ inActive (toFrame s) i.val = true ∧ samples ≠ [])) ∧
    (∃ (i : Fin 16) (samples : List (BitVec 16)) (s : State), (domOn (toFrame s) .d1 = true ∧ inActive (toFrame s) i.val = true ∧ samples ≠ [])) ∧
    (∃ (i : Fin 16) (samples : List (BitVec 16)) (whole : Bool) (s : State), (domOn (toFrame s) .d1 = true ∧ inActive (toFrame s) i.val = false ∧ samples ≠ [])) ∧
    (∃ (i : Fin 16) (s : State) (t : Nat), (inActive s i.val = true ∧ (inSt s i.val).swingLow = false ∧ (inSt s i.val).swingFrom = some t)) ∧
    (∃ (i : Fin 16) (level : BitVec 16) (s : State), (domOn s .d1 = true) ∧ (64000 < level.toNat)) ∧
    (∃ (c : Fin 4) (s : State), (domOn s .d1 = true)) ∧
    (∃ (who : Requester) (x : EdgeEv) (q : List EdgeEv) (s : State), (reaches s who = true ∧ featDenied s who 4 = false ∧ s.tln.fifo = x :: q)) :=
  ⟨⟨0, true, 5, 9, { live with od.applied := [(key 0x10010 1, .num 1), (key 0x2B01 1, .num 1)] }, by decide +kernel⟩,
   ⟨0, [5, 7], { live with od.applied := [(key 0x10010 1, .num 1), (key 0x2B01 1, .num 1)] }, by decide +kernel⟩,
   ⟨0, [5], { live with od.applied := [(key 0x10010 1, .num 1), (key 0x2B01 1, .num 1), (key 0x2B04 1, .num 1)] }, by decide +kernel⟩,
   ⟨0, [5], true, { live with od.applied := [(key 0x10010 1, .num 0)] }, by decide +kernel⟩,
   ⟨0, { live with od.applied := [(key 0x10010 1, .num 1), (key 0x2B01 1, .num 1)], tln.ins := [(0, { swingFrom := some 4 })] }, 4, by decide +kernel⟩,
   ⟨0, 64001, live, by decide +kernel⟩,
   ⟨0, live, by decide +kernel⟩,
   ⟨.host, { input := 0, rising := true, ts := 5 }, [], { live with tln.fifo := [{ input := 0, rising := true, ts := 5 }] }, by decide +kernel⟩⟩

/-- States and operands that meet the hypotheses of each clause of TrainLineOutputsComplete. -/
theorem witness_TrainLineOutputsComplete : (∃ (v : Byte) (s : State), (reaches s .host = true ∧ s.tln.linkLost = false)) ∧
    (∃ (k : Fin 8) (current : BitVec 16) (s : State), (outDriven s k.val = true ∧ (outSt s k.val).trips + 1 < 3 ∧ cfg s 0x2B17 (k.val + 1) ≠ 0) ∧ ((outSt s k.val).clean + (s.up - cfg s 0x2B16 (k.val + 1) * fr - (outSt s k.val).cleanFrom) < rl)) ∧
    (∃ (k : Fin 8) (current : BitVec 16) (s : State), (outDriven s k.val = true ∧ cfg s 0x2B17 (k.val + 1) = 0) ∧ (rl ≤ (outSt s k.val).clean + (s.up - cfg s 0x2B16 (k.val + 1) * fr - (outSt s k.val).cleanFrom))) ∧
    (∃ (k : Fin 8) (s : State) (t : Nat), ((outSt s k.val).retryAt = some t)) ∧
    (∃ (k : Fin 8) (s : State), (reaches s .host = true ∧ (outSt s k.val).latched = true)) ∧
    (∃ (k : Fin 8) (s : State), (reaches s .host = true ∧ (outSt s k.val).latched = false)) ∧
    (∃ (k : Fin 8) (current : BitVec 16) (s : State), (outDriven s k.val = true ∧ current.toNat < cfg s 0x2B18 (k.val + 1))) ∧
    (∃ (k : Fin 8) (current : BitVec 16) (s : State), (domOn s .d1 = true ∧ outDriven s k.val = false ∧ outOrdered s k.val = false ∧ cfg s 0x2B18 (k.val + 1) < current.toNat)) ∧
    (∃ (k : Fin 8) (r : Bool) (t : Nat) (s : State), ((outSt s k.val).followNext = some (r, t))) ∧
    (∃ (s : State), (domOn s .d1 = true ∧ s.tln.linkLost = false)) ∧
    (∃ (s : State), (s.tln.linkLost = true)) ∧
    (∃ (s : State), (reaches s .host = true)) :=
  ⟨⟨5, live, by decide +kernel⟩,
   ⟨0, 9, { live with od.applied := [(key 0x10010 2, .num 1), (key 0x2B10 1, .num 1), (key 0x2B17 1, .num 1)], tln.outCmd := 1 }, by decide +kernel⟩,
   ⟨0, 9, { live with od.applied := [(key 0x10010 2, .num 1), (key 0x2B10 1, .num 1), (key 0x2B17 1, .num 0)], tln.outCmd := 1, up := 800000000000 }, by decide +kernel⟩,
   ⟨0, { live with tln.outs := [(0, { retryAt := some 4 })] }, 4, by decide +kernel⟩,
   ⟨0, { live with tln.outs := [(0, { latched := true })] }, by decide +kernel⟩,
   ⟨0, live, by decide +kernel⟩,
   ⟨0, 9, { live with od.applied := [(key 0x10010 2, .num 1), (key 0x2B10 1, .num 1), (key 0x2B18 1, .num 10)], tln.outCmd := 1 }, by decide +kernel⟩,
   ⟨0, 11, { live with od.applied := [(key 0x2B18 1, .num 10)] }, by decide +kernel⟩,
   ⟨0, true, 4, { live with tln.outs := [(0, { followNext := some (true, 4) })] }, by decide +kernel⟩,
   ⟨live, by decide +kernel⟩,
   ⟨{ live with tln.linkLost := true }, by decide +kernel⟩,
   ⟨live, by decide +kernel⟩⟩

/-- States and operands that meet the hypotheses of each clause of RingAndDuskComplete. -/
theorem witness_RingAndDuskComplete : (∃ (u : Uid) (s : State), (s.wak.ringStart = none ∧ ownPosition s = 1 ∧ s.wak.lastRing = none ∧ consent s = true) ∧ (memberAtPos s 2 = some u)) ∧
    (∃ (m : RingMsg) (p : Nat) (u : Uid) (s : State), (m.origin ≠ s.uid ∧ ownPosition s = p ∧ 2 ≤ p ∧ p ≠ callSheetLen s ∧ m.phase = 1 ∧ ringVeto s m.csc = 0) ∧ (memberAtPos s (p + 1) = some u)) ∧
    (∃ (s : State) (t : Nat), (s.wak.ringStart = some t)) ∧
    (∃ (ring : Word) (i : Instant) (s : State), (s.wak.duskDue = some (ring, i)) ∧ (ownPosition { passToInstant i s with wak.duskDue := none } = 1 ∧ consent { passToInstant i s with wak.duskDue := none } = true)) ∧
    (∃ (s : State), (s.tak.sys.kind = 3 ∧ s.tak.sys.state = .prepared ∧ s.tak.sys.withdrawn = false ∧ consentForDusk s = false)) ∧
    (∃ (i : Instant) (s : State), (s.wak.duskAt = some i ∧ s.node = .dusk ∧ s.wak.duskOneOff = false)) ∧
    (∃ (s : State), (s.node = .dusk ∧ s.wak.sleepInd = .dusk ∧ duskDrained s = true ∧ s.up ≤ s.wak.sleepIndBy)) ∧
    (∃ (s : State), (s.node = .dusk ∧ s.wak.sleepInd = .dusk)) ∧
    (∃ (s : State), (consistRuns s = true ∧ s.wak.consistAwake = true ∧ s.wak.sleepInd = .none) ∧ (linkHeld s = false)) ∧
    (∃ (s : State), (s.wak.sleepInd = .consist ∧ consistRuns s = true)) :=
  ⟨⟨7, consenting, by decide +kernel⟩,
   ⟨{ origin := 9, csc := 5 }, 2, 8, { consenting with uid := 7, ina.sheet := some { entries := [{ uid := 3, consist := 0, consistPos := 1 }, { uid := 7, consist := 0, consistPos := 2 }, { uid := 8, consist := 0, consistPos := 3 }], csc := 5 } }, by decide +kernel⟩,
   ⟨{ live with wak.ringStart := some 4 }, 4, by decide +kernel⟩,
   ⟨1, 0x10000, { consenting with wak.duskDue := some (1, 0x10000) }, by decide +kernel⟩,
   ⟨{ live with tak.sys := { state := .prepared, kind := 3 } }, by decide +kernel⟩,
   ⟨0x1000000, { live with node := .dusk, wak.duskAt := some 0x1000000 }, by decide +kernel⟩,
   ⟨{ live with node := .dusk, wak.sleepInd := .dusk }, by decide +kernel⟩,
   ⟨{ live with node := .dusk, wak.sleepInd := .dusk }, by decide +kernel⟩,
   ⟨{ State.reset with node := .member, wak.consistAwake := true }, by decide +kernel⟩,
   ⟨{ live with wak.sleepInd := .consist }, by decide +kernel⟩⟩

/-- States and operands that meet the hypotheses of each clause of WakeAndDawnComplete. -/
theorem witness_WakeAndDawnComplete : (∃ (p : Fin 17) (s : State), (4 ≤ p.val ∧ s.wak.consistAwake = false ∧ cfgOn s 0x2913 (p.val + 1) = true ∧ s.node ≠ .asleep ∧ s.node ≠ .off)) ∧
    (∃ (s : State), (reaches s .host = true ∧ s.node = .dusk)) ∧
    (∃ (s : State), (reaches s .host = true ∧ s.node = .member ∧ s.wak.sleepInd = .consist)) ∧
    (∃ (cause : Fin 7) (src : BitVec 5) (s : State), (wakeValid s cause.val src.toNat = true)) ∧
    (∃ (s : State) (t : Nat), (s.wak.timerAt = some t ∧ s.node = .asleep)) ∧
    (∃ (level : BitVec 16) (s : State), (s.node ≠ .off ∧ domOn s .d1 = false ∧ watchedInputs s ≠ [] ∧ watchThreshold s < level.toNat)) ∧
    (∃ (s : State), (s.node = .asleep)) ∧
    (∃ (levels : List (BitVec 16)) (s : State), (s.node = .dawn ∧ s.hpl.boot = .waking ∧ s.wak.watched = false)) ∧
    (∃ (s : State) (t : Nat), (s.wak.pulseBy = some t)) ∧
    (∃ (s : State), (s.node = .asleep ∧ domOn s .d1 = false)) ∧
    (∃ (e : End) (s : State), (s.node = .member ∧ domOn s .d1 = false ∧ endCode ((portsAt e).foldl (fun s p => portEnable p s) s) e ≠ 2)) ∧
    (∃ (e : End) (s : State), (domOn s .d1 = true)) :=
  ⟨⟨5, { live with wak.consistAwake := false, od.applied := [(key 0x2913 6, .num 1)] }, by decide +kernel⟩,
   ⟨{ live with node := .dusk }, by decide +kernel⟩,
   ⟨{ live with wak.sleepInd := .consist }, by decide +kernel⟩,
   ⟨4, 1, live, by decide +kernel⟩,
   ⟨{ live with node := .asleep, wak.timerAt := some 4 }, 4, by decide +kernel⟩,
   ⟨60000, { State.reset with node := .asleep, pwr.dom := [(0, { on := true })], od.applied := [(key 0x2905 0, .num 1)] }, by decide +kernel⟩,
   ⟨{ State.reset with node := .asleep }, by decide +kernel⟩,
   ⟨[], { live with node := .dawn, hpl.boot := .waking }, by decide +kernel⟩,
   ⟨{ live with wak.pulseBy := some 4 }, 4, by decide +kernel⟩,
   ⟨{ State.reset with node := .asleep, pwr.dom := [(0, { on := true })] }, by decide +kernel⟩,
   ⟨.fore, { State.reset with node := .member, pwr.dom := [(0, { on := true })] }, by decide +kernel⟩,
   ⟨.fore, live, by decide +kernel⟩⟩

/-- States and operands that meet the hypotheses of each clause of RequestsComplete. -/
theorem witness_RequestsComplete : (∃ (i : Session) (q : Req) (s : State), (readyFor s i = true ∧ readCode i q = 0 ∧ q.offset = 0)) ∧
    (∃ (i : Session) (q : Req) (s : State), (readyFor s i = true ∧ readCode i q ≠ 0)) ∧
    (∃ (i : Session) (q : Req) (r : Obj) (s : State), (readyFor s i = true ∧ (sessOf s i).partialV = none ∧ accessCode i q (requested i s) = 0) ∧ (objRow q.index q.sub = some r ∧ q.offset = 0 ∧ q.total = q.data.length) ∧ ((if r.ty.isScalar then q.data.length = r.ty.size else lengthOk (key q.index q.sub) r q.total = true)) ∧ (wholeCode (key q.index q.sub) r q.data = 0 ∧ r.take = .no ∧ actsItself q.index = false ∧ ¬ (q.index = 0x1010 ∨ q.index = 0x2140 ∨ q.index = 0x2141)) ∧ (relationCode (key q.index q.sub) (applyVals [(key q.index q.sub, valOfBytes r q.data)] (relationState (wholeWrite i s))) = 0)) ∧
    (∃ (i : Session) (reqId : Word) (s : State), (readyFor s i = true ∧ 1 ≤ (sessOf s i).level ∧ s.node ≠ .fault ∧ s.node ≠ .exit ∧ (sessOf s i).scrapUntold = false ∧ slotFree s = true)) ∧
    (∃ (i : Session) (reqId : Word) (s : State), (readyFor s i = true ∧ (sessOf s i).scrapUntold = false ∧ ownsOpen i s = true) ∧ (tfind s.tak.user.staged (key 0x2F10 0) = none ∧ firstBroken s.tak.user.staged { requested i s with
      tak.user.lastReq := s.up
      od.unanswered := [{ sess := i, op := .print, req := { reqId := reqId.toNat } }] } = none)) ∧
    (∃ (i : Session) (reqId : Word) (s : State), (readyFor s i = true ∧ (sessOf s i).scrapUntold = false ∧ ownsOpen i s = true)) ∧
    (∃ (i : Session) (reqId : Word) (s : State), (readyFor s i = true)) :=
  ⟨⟨2, { reqId := 1, index := 0x1000, total := 4 }, live, by decide +kernel⟩,
   ⟨2, { reqId := 1, index := 0x5000, total := 4 }, live, by decide +kernel⟩,
   ⟨2, { reqId := 1, index := 0x2F05, sub := 0, total := 4, data := [0, 0, 0, 9] }, ⟨0x2f05, 0x2f05, 0x0, 0x0, .uint 4, .rw, 2, 2, 256, 8, .no, []⟩, live, by decide +kernel⟩,
   ⟨2, 5, live, by decide +kernel⟩,
   ⟨2, 5, { live with tak.user := { state := .open_, owner := 3 } }, by decide +kernel⟩,
   ⟨2, 5, { live with tak.user := { state := .open_, owner := 3 } }, by decide +kernel⟩,
   ⟨2, 5, live, by decide +kernel⟩⟩

/-- States and operands that meet the hypotheses of each clause of SessionsComplete. -/
theorem witness_SessionsComplete : (∃ (i : Session) (reqId : Word) (s : State), (readyFor s i = true)) ∧
    (∃ (i : Session) (reqId : Word) (level : Byte) (s : State), (readyFor s i = true ∧ (sessOf s i).partialV = none ∧ writeState s 0x2002 2 = 0) ∧ (1 ≤ level.toNat ∧ level.toNat ≤ 3 ∧ (levelKey s level.toNat).isSome = true)) ∧
    (∃ (i : Session) (reqId : Word) (response : BitVec 128) (s : State), (readyFor s i = true ∧ (sessOf s i).partialV = none ∧ writeState s 0x2002 3 = 0)) ∧
    (∃ (i : Session) (reqId : Word) (maintainer : Bool) (k : BitVec 256) (s : State), (readyFor s i = true ∧ (sessOf s i).partialV = none ∧ 2 ≤ (sessOf s i).level) ∧ (writeState s 0x2003 (if maintainer then 2 else 1) = 0)) ∧
    (∃ (i : Session) (s : State), (sessLive s i = true ∧ (sessOf s i).level ≠ fallenLevel i)) ∧
    (∃ (i : Session) (t : Nat) (s : State), ((sessOf s i).lockUntil = some t)) ∧
    (∃ (t : Nat) (s : State), (s.od.nodeLock = some t)) ∧
    (∃ (i : Session) (x : Snapshot) (s : State), ((sessOf s i).snap = some x)) ∧
    (∃ (i : Session) (reqId : Word) (r : Remembered) (s : State), ((sessOf s i).remembered = [r] ∧ r.req.reqId = reqId.toNat)) :=
  ⟨⟨2, 5, live, by decide +kernel⟩,
   ⟨2, 5, 3, live, by decide +kernel⟩,
   ⟨2, 5, 9, live, by decide +kernel⟩,
   ⟨2, 5, true, 9, live, by decide +kernel⟩,
   ⟨0, { live with od.sess := [(0, { level := 2 })] }, by decide +kernel⟩,
   ⟨0, 4, { live with od.sess := [(0, { lockUntil := some 4 })] }, by decide +kernel⟩,
   ⟨4, { live with od.nodeLock := some 4 }, by decide +kernel⟩,
   ⟨0, { key := 0, data := [], lastRead := 4 }, { live with od.sess := [(0, { snap := some { key := 0, data := [], lastRead := 4 } })] }, by decide +kernel⟩,
   ⟨3, 5, { op := .read, req := { reqId := 5 }, rsp := { op := .read }, at_ := 4 }, { live with od.sess := [(3, { used := true, remembered := [{ op := .read, req := { reqId := 5 }, rsp := { op := .read }, at_ := 4 }] })] }, by decide +kernel⟩⟩

/-- States and operands that meet the hypotheses of each clause of ActingObjectsComplete. -/
theorem witness_ActingObjectsComplete : (∃ (i : Session) (reqId : Word) (sub : Byte) (s : State), (readyFor s i = true ∧ (sessOf s i).partialV = none ∧ 2 ≤ (sessOf s i).level ∧ writeState s 0x1010 sub.toNat = 0) ∧ ((sub = 1 ∨ sub = 2 ∨ sub = 3) ∧ s.pwr.sag = false)) ∧
    (∃ (x : Storing) (s : State), (s.od.storing = some x)) ∧
    (∃ (x : Storing) (s : State), (s.od.storing = some x)) ∧
    (∃ (i : Session) (reqId : Word) (sub : Byte) (s : State), (readyFor s i = true ∧ (sessOf s i).partialV = none ∧ 2 ≤ (sessOf s i).level ∧ writeState s 0x1011 sub.toNat = 0) ∧ (sub = 1 ∨ sub = 2 ∨ sub = 3)) ∧
    (∃ (i : Session) (reqId : Word) (s : State), (readyFor s i = true ∧ (sessOf s i).partialV = none ∧ 2 ≤ (sessOf s i).level)) ∧
    (∃ (i : Session) (reqId : Word) (s : State), (readyFor s i = true ∧ (sessOf s i).partialV = none ∧ 2 ≤ (sessOf s i).level)) ∧
    (∃ (i : Session) (reqId : Word) (s : State), (readyFor s i = true ∧ (sessOf s i).partialV = none ∧ 2 ≤ (sessOf s i).level ∧ writeState s 0x2C21 0 = 0)) ∧
    (∃ (i : Session) (reqId : Word) (k : List Byte) (s : State), (readyFor s i = true ∧ (sessOf s i).partialV = none ∧ 3 ≤ (sessOf s i).level ∧ writeState s 0x2C10 0 = 0 ∧ k.length = 97) ∧ (k.headD 0 = 4)) ∧
    (∃ (i : Session) (reqId : Word) (k : List Byte) (s : State), (readyFor s i = true ∧ (sessOf s i).partialV = none ∧ 3 ≤ (sessOf s i).level ∧ writeState s 0x2C10 0 = 0 ∧ k.length = 97) ∧ (k.headD 0 ≠ 4)) ∧
    (∃ (i : Session) (reqId : Word) (p : Fin 4) (k : List Byte) (s : State), (readyFor s i = true ∧ (sessOf s i).partialV = none ∧ 2 ≤ (sessOf s i).level ∧ writeState s 0x2C31 (p.val + 1) = 0 ∧ 33 ≤ k.length ∧ k.length ≤ 64)) ∧
    (∃ (i : Session) (reqId : Word) (image : List Byte) (check : ImageCheck) (s : State), (readyFor s i = true ∧ (sessOf s i).partialV = none ∧ 2 ≤ (sessOf s i).level ∧ writeState s 0x2C20 0 = 0 ∧ image.length ≤ 67108864)) ∧
    (∃ (s : State), (reaches s .host = true ∧ s.tak.sys.kind = 2 ∧ s.tak.sys.state = .prepared ∧ s.tak.sys.isCoord = false)) ∧
    (∃ (port : Fin 20) (mac : Mac) (b : Bulis) (s : State), (domOn s .d2 = true ∧ b.type = 0x10 ∧ damIngress s port.val = true) ∧ (headerBad (unpad b) = false ∧ dstBad s (unpad b) = false ∧ checkPasses s (unpad b) = true)) :=
  ⟨⟨2, 5, 1, live, by decide +kernel⟩,
   ⟨{ sess := 2, req := { sub := 1 }, values := [] }, { live with od.storing := some { sess := 2, req := { sub := 1 }, values := [] } }, by decide +kernel⟩,
   ⟨{ sess := 2, req := {}, values := [] }, { live with od.storing := some { sess := 2, req := {}, values := [] } }, by decide +kernel⟩,
   ⟨2, 5, 1, live, by decide +kernel⟩,
   ⟨2, 5, live, by decide +kernel⟩,
   ⟨2, 5, live, by decide +kernel⟩,
   ⟨2, 5, live, by decide +kernel⟩,
   ⟨2, 5, 4 :: List.replicate 96 0, { live with od.sess := [(2, { level := 3 })] }, by decide +kernel⟩,
   ⟨2, 5, List.replicate 97 0, { live with od.sess := [(2, { level := 3 })] }, by decide +kernel⟩,
   ⟨2, 5, 0, List.replicate 33 0, live, by decide +kernel⟩,
   ⟨2, 5, [], { signatureOk := true, key := List.replicate 48 1, version := 3 }, live, by decide +kernel⟩,
   ⟨{ live with tak.sys := { state := .prepared, kind := 2 } }, by decide +kernel⟩,
   ⟨0, 7, (let b : Bulis := { type := 0x10, src := 9, dst := 0x02417C001003 }; { b with check := bulisSum b 0 }), live, by decide +kernel⟩⟩

/-- States and operands that meet the hypotheses of each clause of RegisterWritesComplete. -/
theorem witness_RegisterWritesComplete : (∃ (a : BitVec 20) (v : Word) (s : State), (reaches s .host = true ∧ byteArray a.toNat = false ∧ regExists a.toNat = true ∧ a.toNat % 4 = 0 ∧ rwtFields a.toNat = [])) ∧
    (∃ (who : Requester) (a : BitVec 20) (be : BitVec 4) (v : Word) (s : State), (reaches s who = true ∧ (who = .core → coreMayWrite a.toNat = true) ∧ byteArray a.toNat = false) ∧ (regExists (a.toNat / 4 * 4) = true ∧ (a.toNat % 4 ≠ 0 ∨ be ≠ 0xF))) ∧
    (∃ (a : BitVec 20) (be : BitVec 4) (v : Word) (s : State), (reaches s .host = true ∧ byteArray a.toNat = false ∧ regExists (a.toNat / 4 * 4) = false)) ∧
    (∃ (a : BitVec 20) (be : BitVec 4) (v : Word) (s : State), (reaches s .core = true ∧ coreMayWrite a.toNat = false)) ∧
    (∃ (v : Word) (s : State), (reaches s .host = true)) ∧
    (∃ (a : BitVec 20) (v : Word) (s : State), (reaches s .host = true ∧ byteArray a.toNat = false ∧ regExists a.toNat = true ∧ a.toNat % 4 = 0 ∧ rwtFields a.toNat ≠ []) ∧ (ownsOpen hostSession s = false)) ∧
    (∃ (a : BitVec 20) (v : Word) (s : State), (reaches s .host = true ∧ byteArray a.toNat = false ∧ regExists a.toNat = true ∧ a.toNat % 4 = 0 ∧ rwtFields a.toNat ≠ []) ∧ (ownsOpen hostSession s = true ∧ (rwtFields a.toNat).all (fieldOk (mergeFields (rwtFields a.toNat) v s)) = true ∧ withinLimits (mergeFields (rwtFields a.toNat) v s) = true)) ∧
    (∃ (a : BitVec 20) (v : Word) (s : State), (reaches s .host = true ∧ byteArray a.toNat = false ∧ regExists a.toNat = true ∧ a.toNat % 4 = 0 ∧ rwtFields a.toNat ≠ []) ∧ (ownsOpen hostSession s = true ∧ ((rwtFields a.toNat).all (fieldOk (mergeFields (rwtFields a.toNat) v s)) && withinLimits (mergeFields (rwtFields a.toNat) v s)) = false)) :=
  ⟨⟨0x24, 5, live, by decide +kernel⟩,
   ⟨.host, 0x24, 3, 5, live, by decide +kernel⟩,
   ⟨0x30, 15, 5, live, by decide +kernel⟩,
   ⟨0x24, 15, 5, { live with cpu.running := 1 }, by decide +kernel⟩,
   ⟨5, live, by decide +kernel⟩,
   ⟨0x70000, 5, live, by decide +kernel⟩,
   ⟨0x70000, 1, { live with tak.user := { state := .open_, owner := 3 } }, by decide +kernel⟩,
   ⟨0x10008, 0xFFFFFFFF, { live with tak.user := { state := .open_, owner := 3 } }, by decide +kernel⟩⟩

/-- A state that meets the hypotheses of EveryStepKeepsTheBounds, with a command that acts. -/
theorem witness_EveryStepKeepsTheBounds : ∃ s t : State, Inv s ∧ step s = .next t :=
  ⟨{ live with pending := [.domainFault .d8] }, domainFault .d8 { live with pending := [] },
   ⟨by decide, by decide, by decide, by decide, by decide, by decide, by decide, by decide, by decide⟩, rfl⟩



/-- A state that meets the hypothesis of the second clause of StepTakesTheFrontCommand. -/
theorem witness_StepTakesTheFrontCommand : State.reset.pending = [] := rfl

/-- States and operands that meet the hypotheses of each clause of BinaryBoundaries. -/
theorem witness_BinaryBoundaries : (∃ (t : Instant), (t.toNat + fr < 2 ^ 64)) ∧
    (∃ (t : Instant), (t.toNat + pf < 2 ^ 64)) ∧
    (∃ (d part : Nat) (s : State), (s.now.toNat + 1 < 2 ^ 64 ∧ s.node ≠ .off)) :=
  ⟨⟨5, by decide +kernel⟩,
   ⟨5, by decide +kernel⟩,
   ⟨1, 0, live, by decide +kernel⟩⟩

/-- States and operands that meet the hypotheses of each clause of SerialArithmetic. -/
theorem witness_SerialArithmetic : (∃ (n a b : Nat), (1 ≤ n ∧ a < 2 ^ n ∧ b < 2 ^ n)) ∧
    (∃ (n : Nat) (l : List Nat), (l ≠ [])) :=
  ⟨⟨32, 5, 0xFFFFFFFF, by decide +kernel⟩,
   ⟨32, [5, 9], by decide +kernel⟩⟩

/-- States and operands that meet the hypotheses of each clause of InterruptMessages. -/
theorem witness_InterruptMessages : (∃ (b : Nat) (s : State), (b < 23)) ∧
    (∃ (v : Nat) (s : State), (v < 64) ∧ (msixSendable s.irq v = true)) ∧
    (∃ (v : Nat) (s : State), (v < 64) ∧ (s.irq.msixOn = false ∨ s.irq.funcMask = true ∨ bitOf (tget s.irq.table (4 * v + 3) 1) 0 = true)) ∧
    (∃ (b : Fin 23) (m : Word) (s : State), (reaches s .host = true) ∧ (s.irq.cause.getLsbD b.val = true ∧ s.irq.mask.getLsbD b.val = false ∧ m.setWidth 23 = putBit s.irq.mask b.val true)) ∧
    (∃ (b : Fin 23) (v : Fin 64) (s : State), (reaches s .host = true)) ∧
    (∃ (on fm : Bool) (v : Nat) (s : State), (v < 64) ∧ (configServed s = true ∧ s.irq.pba = putBit 0 v true ∧ msixSendable { s.irq with msixOn := on, funcMask := fm } v = true)) :=
  ⟨⟨4, live, by decide +kernel⟩,
   ⟨4, { live with irq.msixOn := true, irq.busMaster := true, irq.table := [(19, 0)] }, by decide +kernel⟩,
   ⟨4, live, by decide +kernel⟩,
   ⟨4, 16, { live with irq.cause := 16 }, by decide +kernel⟩,
   ⟨4, 5, live, by decide +kernel⟩,
   ⟨true, false, 4, { live with irq.retryStatus := false, irq.busMaster := true, irq.table := [(19, 0)], irq.pba := 16 }, by decide +kernel⟩⟩

/-- States and operands that meet the hypotheses of each clause of AbortOfAClear. -/
theorem witness_AbortOfAClear : (∃ (s : State), (reaches s .host = true ∧ s.log.clear = none ∧ s.log.clrResult = 1)) ∧
    (∃ (c : Nat) (s : State), (reaches s .host = true ∧ s.log.clear = some c) ∧ ((s.log.queue.filter (fun e => e.source == 31)).length ≤ 1)) :=
  ⟨⟨{ live with log.clrResult := 1 }, by decide +kernel⟩,
   ⟨3, { live with log.clear := some 3, log.queue := [latchEntry 31 6 [] live] }, by decide +kernel⟩⟩


/-- States and operands that meet the hypotheses of each clause of NodeStatesLimitTheDictionary. -/
theorem witness_NodeStatesLimitTheDictionary : (∃ (i : Session) (q : Req) (s : State), (s.node = .asleep ∨ s.node = .off)) ∧
    (∃ (i : Session) (q : Req) (s : State), (readyFor s i = true ∧ (s.node = .fault ∨ s.node = .exit) ∧ exitWrite q = false)) ∧
    (∃ (i : Session) (n : Word) (s : State), (readyFor s i = true ∧ (s.node = .fault ∨ s.node = .exit)) ∧ (2 ≤ (sessOf s i).level ∧ (sessOf s i).partialV = none)) ∧
    (∃ (c : ResetCause) (s : State), (s.node = .exit ∧ s.hpl.safeToRemove = false)) ∧
    (∃ (i : Session) (q : Req) (s : State), (readyFor s i = true ∧ (s.node = .fault ∨ s.node = .exit ∨ s.node = .dusk)) ∧ (readCode i q = 0 ∧ q.offset = 0)) ∧
    (∃ (i : Session) (q : Req) (s : State), (readyFor s i = true ∧ s.node = .dusk ∧ ((objRow q.index q.sub).map (·.take)) = some .yes ∧ exitWrite q = false)) ∧
    (∃ (s : State) (x y : Nat), (s.node = .dusk ∧ ((objRow x y).map (·.take)) ≠ some .yes)) :=
  ⟨⟨2, {}, { live with node := .asleep }, by decide +kernel⟩,
   ⟨2, { index := 0x2F05 }, { live with node := .fault }, by decide +kernel⟩,
   ⟨2, 5, { live with node := .fault }, by decide +kernel⟩,
   ⟨.host, { live with node := .exit }, by decide +kernel⟩,
   ⟨2, { reqId := 1, index := 0x1000, total := 4 }, { live with node := .fault }, by decide +kernel⟩,
   ⟨2, { index := 0x2102 }, { live with node := .dusk }, by decide +kernel⟩,
   ⟨{ live with node := .dusk }, 0x2F05, 0, by decide +kernel⟩⟩

/-- States and operands that meet the hypotheses of each clause of PrintedTakeGuardsItsRelations. -/
theorem witness_PrintedTakeGuardsItsRelations : (∃ (i : Session) (q : Req) (r : Obj) (s : State), (readyFor s i = true ∧ (sessOf s i).partialV = none ∧ accessCode i q (requested i s) = 0) ∧ (objRow q.index q.sub = some r ∧ q.offset = 0 ∧ q.total = q.data.length) ∧ ((if r.ty.isScalar then q.data.length = r.ty.size else lengthOk (key q.index q.sub) r q.total = true)) ∧ (wholeCode (key q.index q.sub) r q.data = 0 ∧ r.take ≠ .yes ∧ s.tak.user.state = .printed) ∧ (relationCode (key q.index q.sub) (applyVals [(key q.index q.sub, valOfBytes r q.data)] (applyVals s.tak.user.staged (wholeWrite i s))) = aRelationBroken)) ∧
    (∃ (i : Session) (q : Req) (r : Obj) (s : State), (readyFor s i = true ∧ (sessOf s i).partialV = none ∧ accessCode i q (requested i s) = 0) ∧ (objRow q.index q.sub = some r ∧ q.offset = 0 ∧ q.total = q.data.length) ∧ ((if r.ty.isScalar then q.data.length = r.ty.size else lengthOk (key q.index q.sub) r q.total = true)) ∧ (wholeCode (key q.index q.sub) r q.data = 0 ∧ r.take = .no ∧ actsItself q.index = false ∧ ¬ (q.index = 0x1010 ∨ q.index = 0x2140 ∨ q.index = 0x2141)) ∧ (s.tak.user.state ≠ .printed ∧ relationCode (key q.index q.sub) (applyVals [(key q.index q.sub, valOfBytes r q.data)] (wholeWrite i s)) = 0)) :=
  ⟨⟨2, { reqId := 1, index := 0x2704, sub := 0, total := 4, data := [0, 0, 0, 1] }, ⟨0x2704, 0x2704, 0, 0, .uint 4, .rw, 2, 0, 2048, 512, .nextReset, []⟩, { live with tak.user := { state := .printed, staged := [(key 0x2780 1, .num 1), (key 0x2780 2, .num 0x200000), (key 0x2780 3, .num 0x10000)] } }, by decide +kernel⟩,
   ⟨2, { reqId := 1, index := 0x2F05, sub := 0, total := 4, data := [0, 0, 0, 9] }, ⟨0x2f05, 0x2f05, 0x0, 0x0, .uint 4, .rw, 2, 2, 256, 8, .no, []⟩, live, by decide +kernel⟩⟩

/-- States and operands that meet the hypotheses of each clause of TakeStaging. -/
theorem witness_TakeStaging : (∃ (i : Session) (q : Req) (r : Obj) (s : State), (readyFor s i = true ∧ (sessOf s i).partialV = none ∧ accessCode i q (requested i s) = 0) ∧ (objRow q.index q.sub = some r ∧ q.offset = 0 ∧ q.total = q.data.length) ∧ ((if r.ty.isScalar then q.data.length = r.ty.size else lengthOk (key q.index q.sub) r q.total = true)) ∧ (wholeCode (key q.index q.sub) r q.data = 0 ∧ r.take = .yes ∧ ownsOpen i s = true ∧ (sessOf s i).scrapUntold = false) ∧ (key q.index q.sub ≠ key 0x2F10 0)) :=
  ⟨2, { reqId := 1, index := 0x2102, sub := 0, total := 1, data := [70] }, ⟨0x2102, 0x2102, 0, 0, .uint 1, .rw, 2, 50, 80, 60, .yes, []⟩, { live with tak.user := { state := .open_, owner := 3 } }, by decide +kernel⟩

/-- States and operands that meet the hypotheses of each clause of TriggerQueue. -/
theorem witness_TriggerQueue : (∃ (src sev : Nat) (d : List Byte) (s : State), (recLatching s = false)) ∧
    (∃ (src sev : Nat) (d : List Byte) (e : RecEntry) (a b : List RecEntry) (s : State), (recLatching s = true ∧ s.log.queue = a ++ e :: b) ∧ (coalesces src sev s.up e = true ∧ (∀ x ∈ a, coalesces src sev s.up x = false))) ∧
    (∃ (src sev : Nat) (d : List Byte) (s : State), (recLatching s = true ∧ s.log.queue.any (coalesces src sev s.up) = false ∧ s.log.queue.length < 64)) ∧
    (∃ (src sev : Nat) (d : List Byte) (s : State), (recLatching s = true ∧ s.log.queue.any (coalesces src sev s.up) = false ∧ s.log.queue.length = 64) ∧ (sev ≤ 7 ∧ (∀ x ∈ s.log.queue, x.sev ≤ 7) ∧ (∀ x ∈ s.log.queue, x.seq = none → sev ≤ x.sev))) ∧
    (∃ (src sev : Nat) (d : List Byte) (e : RecEntry) (a b : List RecEntry) (s : State), (recLatching s = true ∧ s.log.queue.any (coalesces src sev s.up) = false ∧ s.log.queue.length = 64 ∧ s.log.queue = a ++ e :: b) ∧ (e.seq = none ∧ e.sev < sev ∧ sev ≤ 7 ∧ (∀ x ∈ s.log.queue, x.seq = none → e.sev ≤ x.sev) ∧ (∀ x ∈ b, x.seq = none → x.sev ≠ e.sev))) :=
  ⟨⟨5, 6, [], { live with pwr.dom := [] }, by decide +kernel⟩,
   ⟨5, 6, [], latchEntry 5 6 [] live, [], [], { live with log.queue := [latchEntry 5 6 [] live] }, by decide +kernel⟩,
   ⟨5, 6, [], live, by decide +kernel⟩,
   ⟨5, 3, [], { live with log.queue := List.replicate 64 (latchEntry 6 3 [] live) }, by decide +kernel⟩,
   ⟨5, 6, [], latchEntry 6 3 [] live, List.replicate 63 (latchEntry 6 3 [] live), [], { live with log.queue := List.replicate 64 (latchEntry 6 3 [] live) }, by decide +kernel⟩⟩

/-- States and operands that meet the hypotheses of each clause of ExportMemoryReadsAndWrites. -/
theorem witness_ExportMemoryReadsAndWrites : (∃ (m : List Host.Cell) (k : Nat) (l : List Byte), (Memory.wf m = true)) ∧
    (∃ (m n : List Host.Cell), (Memory.wf m = true ∧ Memory.wf n = true) ∧ (∀ a, memGet m a = memGet n a)) :=
  ⟨⟨[(3, 5)], 2, [1, 0], by decide +kernel⟩,
   ⟨[(3, 5)], [(3, 5)], by refine ⟨⟨by decide +kernel, by decide +kernel⟩, fun _ => rfl⟩⟩⟩

/-- States and operands that meet the hypotheses of each clause of InboundOperationsStayInTheirRegion. -/
theorem witness_InboundOperationsStayInTheirRegion : (∃ (u : Uid) (n : Nat) (h : OpHead) (d : List Byte) (ecc : Bool) (s : State), (Memory.wf s.spl.mem = true)) ∧
    (∃ (u : Uid) (n : Nat) (h : OpHead) (d : List Byte) (ecc : Bool) (s : State), (regCfg s h.region 1 ≠ 1 ∨ (opWrites h = true ∧ regCfg s h.region 5 ≠ 1) ∨ (regCfg s h.region 6 ≠ 0 ∧ regCfg s h.region 6 ≠ u.toNat))) :=
  ⟨⟨7, 1, { region := 0, op := 1, len := 4, offset := 0 }, [1, 2, 3, 4], false, live, by decide +kernel⟩,
   ⟨7, 1, { region := 0, op := 1, len := 4, offset := 0 }, [1, 2, 3, 4], false, live, by decide +kernel⟩⟩

/-- States and operands that meet the hypotheses of each clause of KeysAreNeverRead. -/
theorem witness_KeysAreNeverRead : (∃ (i : Session) (q : Req) (s : State), (readyFor s i = true ∧ readTotalOk i q = true) ∧ ((q.index = 0x2003 ∧ (q.sub = 1 ∨ q.sub = 2)) ∨ (q.index = 0x2C31 ∧ 1 ≤ q.sub ∧ q.sub ≤ 4) ∨ (q.index = 0x2C10 ∧ q.sub = 0))) :=
  ⟨2, { reqId := 1, index := 0x2C31, sub := 4, total := 64 }, live, by decide +kernel⟩

/-- A state that meets the hypothesis of HostAccessesEndWithTheLink. -/
theorem witness_HostAccessesEndWithTheLink : reaches State.reset .host = false := by decide +kernel


/-- States that meet the hypotheses of each clause of TimePasses. -/
theorem witness_TimePasses : (5 ≤ { live with up := 5 }.up) ∧ live.up < 5 ∧ live.node ≠ .off ∧ live.tim.freq = 0 ∧ live.frac < 1000000000000 ∧
      (live.now + BitVec.ofNat 64 (rl - live.up)).toNat / rl ≠ live.now.toNat / rl := by decide +kernel

end Sys2Proof.Machine
end

section
/-!
PROOFS. The frame of every command, and a step as its effect.
-/
namespace Sys2Proof.Machine

/-- Every command answers a next state within its frame that keeps the bounds: one law per command, and its frame is the one listed. -/
theorem exec_answers (c : Instr) (s : State) : Answers (frameOf c) s (exec c s) := by
  cases c with
  | registerWrite => exact execRegisterWrite_answers ..
  | couplerSenseChange => exact execCouplerSenseChange_answers ..
  | senseErrorPersist => exact execSenseErrorPersist_answers ..
  | d0CouplerClose => exact execD0CouplerClose_answers ..
  | commonFabricFault => exact execCommonFabricFault_answers ..
  | planeRejoin => exact execPlaneRejoin_answers ..
  | domainFault => exact execDomainFault_answers ..
  | domainRetry => exact execDomainRetry_answers ..
  | domFaultClear => exact execDomFaultClear_answers ..
  | linkTrainingDone => exact execLinkTrainingDone_answers ..
  | anAttemptTimeout => exact execAnAttemptTimeout_answers ..
  | linkLost => exact execLinkLost_answers ..
  | reacquisitionDone => exact execReacquisitionDone_answers ..
  | reacquisitionTimeout => exact execReacquisitionTimeout_answers ..
  | eqLoopSample => exact execEqLoopSample_answers ..
  | marginLow => exact execMarginLow_answers ..
  | linkRestart => exact execLinkRestart_answers ..
  | loopCheckDone => exact execLoopCheckDone_answers ..
  | insertionTimeout => exact execInsertionTimeout_answers ..
  | relayStaggerExpiry => exact execRelayStaggerExpiry_answers ..
  | singleLineInsert => exact execSingleLineInsert_answers ..
  | relDoneTimer => exact execRelDoneTimer_answers ..
  | relayDeferExpiry => exact execRelayDeferExpiry_answers ..
  | deferredSwitchResume => exact execDeferredSwitchResume_answers ..
  | linkLossClassify => exact execLinkLossClassify_answers ..
  | contactFaultClear => exact execContactFaultClear_answers ..
  | modeMaskLineBApply => exact execModeMaskLineBApply_answers ..
  | macFrameReceive => exact execMacFrameReceive_answers ..
  | dupTxSrcEvict => exact execDupTxSrcEvict_answers ..
  | dupRxSrcForget => exact execDupRxSrcForget_answers ..
  | supervisionFrameSend => exact execSupervisionFrameSend_answers ..
  | dupDrained => exact execDupDrained_answers ..
  | transmitUnderrun => exact execTransmitUnderrun_answers ..
  | pauseReceive => exact execPauseReceive_answers ..
  | pauseTimerExpiry => exact execPauseTimerExpiry_answers ..
  | pauseRefreshTimer => exact execPauseRefreshTimer_answers ..
  | pauseWatchdogExpiry => exact execPauseWatchdogExpiry_answers ..
  | pauseWatchdogReset => exact execPauseWatchdogReset_answers ..
  | wdIgnoringExpiry => exact execWdIgnoringExpiry_answers ..
  | macForceStop => exact execMacForceStop_answers ..
  | macDrained => exact execMacDrained_answers ..
  | frameTransmitStart => exact execFrameTransmitStart_answers ..
  | expressPreempt => exact execExpressPreempt_answers ..
  | verifyMpacketReceive => exact execVerifyMpacketReceive_answers ..
  | verifyRespondReceive => exact execVerifyRespondReceive_answers ..
  | verifyTimer => exact execVerifyTimer_answers ..
  | verifyRestart => exact execVerifyRestart_answers ..
  | preemptTlvReceive => exact execPreemptTlvReceive_answers ..
  | cutThroughIngressPreempt => exact execCutThroughIngressPreempt_answers ..
  | gateEntryBoundary => exact execGateEntryBoundary_answers ..
  | scheduleSwitch => exact execScheduleSwitch_answers ..
  | neighbourSendTimer => exact execNeighbourSendTimer_answers ..
  | neighbourReceive => exact execNeighbourReceive_answers ..
  | neighbourPartnerTimeout => exact execNeighbourPartnerTimeout_answers ..
  | ttdpHelloReceive => exact execTtdpHelloReceive_answers ..
  | settleTimeExpiry => exact execSettleTimeExpiry_answers ..
  | recordReceive => exact execRecordReceive_answers ..
  | recordRefreshTimer => exact execRecordRefreshTimer_answers ..
  | recordForget => exact execRecordForget_answers ..
  | quietTimeExpiry => exact execQuietTimeExpiry_answers ..
  | callSheetActivation => exact execCallSheetActivation_answers ..
  | uncouplingWaitExpiry => exact execUncouplingWaitExpiry_answers ..
  | joinWaitExpiry => exact execJoinWaitExpiry_answers ..
  | joinRetryTimer => exact execJoinRetryTimer_answers ..
  | inhibitWrite => exact execInhibitWrite_answers ..
  | inaRestart => exact execInaRestart_answers ..
  | reelWrap => exact execReelWrap_answers ..
  | syncReceive => exact execSyncReceive_answers ..
  | syncOriginate => exact execSyncOriginate_answers ..
  | announceSend => exact execAnnounceSend_answers ..
  | announceReceive => exact execAnnounceReceive_answers ..
  | pdelayRequestTimer => exact execPdelayRequestTimer_answers ..
  | pdelayResponseReceive => exact execPdelayResponseReceive_answers ..
  | timeLineFail => exact execTimeLineFail_answers ..
  | syncLossHoldover => exact execSyncLossHoldover_answers ..
  | stepSuspectExpiry => exact execStepSuspectExpiry_answers ..
  | holdEstimateUpdate => exact execHoldEstimateUpdate_answers ..
  | slewDone => exact execSlewDone_answers ..
  | pulseEdge => exact execPulseEdge_answers ..
  | captureEdge => exact execCaptureEdge_answers ..
  | capTsRead => exact execCapTsRead_answers ..
  | hostApertureWrite => exact execHostApertureWrite_answers ..
  | hostApertureRead => exact execHostApertureRead_answers ..
  | hostAtomicOp => exact execHostAtomicOp_answers ..
  | coreSpliceAccess => exact execCoreSpliceAccess_answers ..
  | winDoorbellWrite => exact execWinDoorbellWrite_answers ..
  | winSemAcquire => exact execWinSemAcquire_answers ..
  | winSemRelease => exact execWinSemRelease_answers ..
  | bulisFrameReceive => exact execBulisFrameReceive_answers ..
  | bulisAckReceive => exact execBulisAckReceive_answers ..
  | completionReceive => exact execCompletionReceive_answers ..
  | bulisAckTimeout => exact execBulisAckTimeout_answers ..
  | retryBudgetExpiry => exact execRetryBudgetExpiry_answers ..
  | completionTimeout => exact execCompletionTimeout_answers ..
  | semRetryTimer => exact execSemRetryTimer_answers ..
  | semAcquireTimeout => exact execSemAcquireTimeout_answers ..
  | semHoldLimit => exact execSemHoldLimit_answers ..
  | prefetchLifetimeExpiry => exact execPrefetchLifetimeExpiry_answers ..
  | completionRetentionExpiry => exact execCompletionRetentionExpiry_answers ..
  | bulisRxForget => exact execBulisRxForget_answers ..
  | spliceDrained => exact execSpliceDrained_answers ..
  | cePop => exact execCePop_answers ..
  | dbValueRead => exact execDbValueRead_answers ..
  | stmFence => exact execStmFence_answers ..
  | fenceFramesSend => exact execFenceFramesSend_answers ..
  | pwfPop => exact execPwfPop_answers ..
  | abortGo => exact execAbortGo_answers ..
  | splForceDisable => exact execSplForceDisable_answers ..
  | winForceDisable => exact execWinForceDisable_answers ..
  | stmForceDisable => exact execStmForceDisable_answers ..
  | chkStart => exact execChkStart_answers ..
  | chkData => exact execChkData_answers ..
  | chkData8 => exact execChkData8_answers ..
  | chkFinish => exact execChkFinish_answers ..
  | chkGo => exact execChkGo_answers ..
  | chkDescriptorDone => exact execChkDescriptorDone_answers ..
  | chkDisable => exact execChkDisable_answers ..
  | canFrameReceive => exact execCanFrameReceive_answers ..
  | canBusOff => exact execCanBusOff_answers ..
  | canBusOffRecovery => exact execCanBusOffRecovery_answers ..
  | canRecover => exact execCanRecover_answers ..
  | mvbPoll => exact execMvbPoll_answers ..
  | mvbSinkReceive => exact execMvbSinkReceive_answers ..
  | mvbSilence => exact execMvbSilence_answers ..
  | sinkEmission => exact execSinkEmission_answers ..
  | sourceStale => exact execSourceStale_answers ..
  | pdFrameReceive => exact execPdFrameReceive_answers ..
  | pdbForceStop => exact execPdbForceStop_answers ..
  | pdbDrained => exact execPdbDrained_answers ..
  | damRequestReceive => exact execDamRequestReceive_answers ..
  | sdoRequestReceive => exact execSdoRequestReceive_answers ..
  | sdoSegmentTimeout => exact execSdoSegmentTimeout_answers ..
  | heartbeatProduce => exact execHeartbeatProduce_answers ..
  | read => exact execRead_answers ..
  | write => exact execWrite_answers ..
  | slate => exact execSlate_answers ..
  | print => exact execPrint_answers ..
  | scrap => exact execScrap_answers ..
  | close => exact execClose_answers ..
  | challengeRead => exact execChallengeRead_answers ..
  | levelRequest => exact execLevelRequest_answers ..
  | responseWrite => exact execResponseWrite_answers ..
  | keyWrite => exact execKeyWrite_answers ..
  | storeParameters => exact execStoreParameters_answers ..
  | storeDone => exact execStoreDone_answers ..
  | restoreDefaults => exact execRestoreDefaults_answers ..
  | sessionIdleExpiry => exact execSessionIdleExpiry_answers ..
  | authLockExpiry => exact execAuthLockExpiry_answers ..
  | snapshotExpiry => exact execSnapshotExpiry_answers ..
  | reqIdExpiry => exact execReqIdExpiry_answers ..
  | takeIdleExpiry => exact execTakeIdleExpiry_answers ..
  | takeApply => exact execTakeApply_answers ..
  | planeDomainsOff => exact execPlaneDomainsOff_answers ..
  | takePrepareReceive => exact execTakePrepareReceive_answers ..
  | takeVoteReceive => exact execTakeVoteReceive_answers ..
  | takeVoteWindowExpiry => exact execTakeVoteWindowExpiry_answers ..
  | takePrintRepeat => exact execTakePrintRepeat_answers ..
  | takeScrapRepeat => exact execTakeScrapRepeat_answers ..
  | takePrintReceive => exact execTakePrintReceive_answers ..
  | takeScrapReceive => exact execTakeScrapReceive_answers ..
  | takeDoubtTimer => exact execTakeDoubtTimer_answers ..
  | takeQueryRepeat => exact execTakeQueryRepeat_answers ..
  | takeQueryReceive => exact execTakeQueryReceive_answers ..
  | takeReplyReceive => exact execTakeReplyReceive_answers ..
  | takeDoubtExpiry => exact execTakeDoubtExpiry_answers ..
  | takeOutcomeExpiry => exact execTakeOutcomeExpiry_answers ..
  | ringStart => exact execRingStart_answers ..
  | ringFrameReceive => exact execRingFrameReceive_answers ..
  | ringTimeout => exact execRingTimeout_answers ..
  | duskPrepareSend => exact execDuskPrepareSend_answers ..
  | consentLost => exact execConsentLost_answers ..
  | duskSecondLineRelease => exact execDuskSecondLineRelease_answers ..
  | duskInstant => exact execDuskInstant_answers ..
  | sleepReady => exact execSleepReady_answers ..
  | forcedSleep => exact execForcedSleep_answers ..
  | stayAwake => exact execStayAwake_answers ..
  | consistIdleExpiry => exact execConsistIdleExpiry_answers ..
  | consistSleep => exact execConsistSleep_answers ..
  | consistWake => exact execConsistWake_answers ..
  | wakeEvent => exact execWakeEvent_answers ..
  | wakeTimerExpiry => exact execWakeTimerExpiry_answers ..
  | wakePulseEnd => exact execWakePulseEnd_answers ..
  | dawnDomainsOn => exact execDawnDomainsOn_answers ..
  | d0WakeWatch => exact execD0WakeWatch_answers ..
  | recTrigWrite => exact execRecTrigWrite_answers ..
  | entryWriteStart => exact execEntryWriteStart_answers ..
  | pageProgramDone => exact execPageProgramDone_answers ..
  | markProgramDone => exact execMarkProgramDone_answers ..
  | reclamation => exact execReclamation_answers ..
  | lastWords => exact execLastWords_answers ..
  | cursorFirst => exact execCursorFirst_answers ..
  | cursorLast => exact execCursorLast_answers ..
  | cursorNext => exact execCursorNext_answers ..
  | cursorPrev => exact execCursorPrev_answers ..
  | cursorSeek => exact execCursorSeek_answers ..
  | cursorPage => exact execCursorPage_answers ..
  | recorderClear => exact execRecorderClear_answers ..
  | recAbort => exact execRecAbort_answers ..
  | recForceStop => exact execRecForceStop_answers ..
  | recDrained => exact execRecDrained_answers ..
  | debounceRunComplete => exact execDebounceRunComplete_answers ..
  | thresholdUpdate => exact execThresholdUpdate_answers ..
  | swingLowTimer => exact execSwingLowTimer_answers ..
  | inputOverrange => exact execInputOverrange_answers ..
  | csOvervolt => exact execCsOvervolt_answers ..
  | outputTrip => exact execOutputTrip_answers ..
  | outputRetry => exact execOutputRetry_answers ..
  | tripClear => exact execTripClear_answers ..
  | openLoad => exact execOpenLoad_answers ..
  | stuckOn => exact execStuckOn_answers ..
  | outCmdWrite => exact execOutCmdWrite_answers ..
  | followDelayExpiry => exact execFollowDelayExpiry_answers ..
  | isoLinkLost => exact execIsoLinkLost_answers ..
  | isoLinkReturn => exact execIsoLinkReturn_answers ..
  | forceSafe => exact execForceSafe_answers ..
  | resume => exact execResume_answers ..
  | evtTsRead => exact execEvtTsRead_answers ..
  | mtimecmpMatch => exact execMtimecmpMatch_answers ..
  | nicTailWrite => exact execNicTailWrite_answers ..
  | pairMismatch => exact execPairMismatch_answers ..
  | pairSelfCheck => exact execPairSelfCheck_answers ..
  | firmwareVerified => exact execFirmwareVerified_answers ..
  | firmwareImageWrite => exact execFirmwareImageWrite_answers ..
  | slotActivate => exact execSlotActivate_answers ..
  | appKeyEnrol => exact execAppKeyEnrol_answers ..
  | appImageVerified => exact execAppImageVerified_answers ..
  | mkaFrameReceive => exact execMkaFrameReceive_answers ..
  | cakWrite => exact execCakWrite_answers ..
  | rekeyTrigger => exact execRekeyTrigger_answers ..
  | pnExhausted => exact execPnExhausted_answers ..
  | mkaLifetimeExpiry => exact execMkaLifetimeExpiry_answers ..
  | cpuForceStop => exact execCpuForceStop_answers ..
  | cpuDrained => exact execCpuDrained_answers ..
  | holdupSwitchClose => exact execHoldupSwitchClose_answers ..
  | holdupSwitchOpen => exact execHoldupSwitchOpen_answers ..
  | bankOk => exact execBankOk_answers ..
  | holdupLow => exact execHoldupLow_answers ..
  | busLow => exact execBusLow_answers ..
  | sagBegin => exact execSagBegin_answers ..
  | sagEnd => exact execSagEnd_answers ..
  | loopUpdate => exact execLoopUpdate_answers ..
  | loopSaturation => exact execLoopSaturation_answers ..
  | loopSatLong => exact execLoopSatLong_answers ..
  | tempExcursion => exact execTempExcursion_answers ..
  | thermalFault => exact execThermalFault_answers ..
  | powerOn => exact execPowerOn_answers ..
  | busInRange => exact execBusInRange_answers ..
  | poweronDawn => exact execPoweronDawn_answers ..
  | nodeReset => exact execNodeReset_answers ..
  | ejectOpen => exact execEjectOpen_answers ..
  | exitReq => exact execExitReq_answers ..
  | exitRequestObject => exact execExitRequestObject_answers ..
  | seatedOpen => exact execSeatedOpen_answers ..
  | exitReleaseStart => exact execExitReleaseStart_answers ..
  | recorderDrainLimit => exact execRecorderDrainLimit_answers ..
  | hostDone => exact execHostDone_answers ..
  | hostHoldExpiry => exact execHostHoldExpiry_answers ..
  | exitCancel => exact execExitCancel_answers ..
  | nodeResetRequest => exact execNodeResetRequest_answers ..
  | nodeResetObject => exact execNodeResetObject_answers ..
  | faultRecoveryExpiry => exact execFaultRecoveryExpiry_answers ..
  | pair0WatchdogExpiry => exact execPair0WatchdogExpiry_answers ..
  | pcieReset => exact execPcieReset_answers ..
  | endpointReady => exact execEndpointReady_answers ..
  | busMasterEnable => exact execBusMasterEnable_answers ..
  | irqCauseClear => exact execIrqCauseClear_answers ..
  | irqMaskWrite => exact execIrqMaskWrite_answers ..
  | irqVecWrite => exact execIrqVecWrite_answers ..
  | lampTestEnd => exact execLampTestEnd_answers ..
  | relayCoilFault => exact execRelayCoilFault_answers ..
  | d0SupplyLost => exact execD0SupplyLost_answers ..
  | thermalResetCooled => exact execThermalResetCooled_answers ..
  | consistSyncSend => exact execConsistSyncSend_answers ..
  | mkaHelloSend => exact execMkaHelloSend_answers ..
  | ttdpHelloSend => exact execTtdpHelloSend_answers ..
  | ttdpTopologyReceive => exact execTtdpTopologyReceive_answers ..
  | d3hotEntry => exact execD3hotEntry_answers ..
  | msixEnable => exact execMsixEnable_answers ..
  | ejectClose => exact execEjectClose_answers ..
  | opTimeReelTick => exact execOpTimeReelTick_answers ..
  | eqStatusRead => exact execEqStatusRead_answers ..
  | tempStatusRead => exact execTempStatusRead_answers ..
  | loopStatusRead => exact execLoopStatusRead_answers ..
  | domainOffDrainTimeout => exact execDomainOffDrainTimeout_answers ..

/-- Settles O36: the frame that exec_answers gives each command. -/
theorem everyCommandKeepsItsFrame : Obligations.EveryCommandKeepsItsFrame := by
  intro c s
  obtain ⟨t, hnext, htouches⟩ := exec_answers c s
  exact ⟨t, hnext, htouches.toOnlyChanges⟩

theorem step_of_pending_nil {s : State} (h : s.pending = []) : step s = .next (passTo (s.up + 1) s) := by
  simp only [step, h]

/-- Settles O38: both clauses are the two branches of step. -/
theorem stepTakesTheFrontCommand : Obligations.StepTakesTheFrontCommand :=
  ⟨fun _ _ _ => rfl, fun _ => step_of_pending_nil⟩

end Sys2Proof.Machine
end

section
/-!
PROOFS. Serial arithmetic (R500).
-/
namespace Sys2Proof.Machine

/-- The difference that laterThan judges is the difference modulo 2^n. -/
theorem cast_serial_difference {m a b : Nat} (h : b < m) : (((a + m - b % m) % m : Nat) : Int) = ((a : Int) - b) % m := by
  have hsub : ((a + m - b : Nat) : Int) = ((a : Int) - b) + m := by omega
  rw [Nat.mod_eq_of_lt h, Int.natCast_emod, hsub, Int.add_emod_right]

theorem cast_two_pow (n : Nat) : ((2 ^ n : Nat) : Int) = 2 ^ n := Int.natCast_pow 2 n

theorem laterThan_iff {n a b : Nat} (hb : b < 2 ^ n) :
    laterThan n a b = true ↔ 1 ≤ ((a : Int) - b) % 2 ^ n ∧ ((a : Int) - b) % 2 ^ n ≤ 2 ^ (n - 1) - 1 := by
  have hd := cast_serial_difference (a := a) hb
  have hpos : 0 < 2 ^ (n - 1) := Nat.two_pow_pos _
  rw [cast_two_pow] at hd
  simp only [laterThan, decide_eq_true_eq]
  rw [← hd, ← cast_two_pow]
  omega

/-- What is half of p modulo p is its own negative there. -/
theorem neg_emod_of_half {p h x : Int} (hp : p = h * 2) (hpos : 0 < h) (hx : x % p = h) : -x % p = h := by
  have hdiv := Int.mul_ediv_add_emod x p
  have hneg : -x = h + p * (-(x / p) - 1) := by rw [Int.mul_sub, Int.mul_neg, Int.mul_one]; omega
  rw [hneg, Int.add_mul_emod_self_left]
  exact Int.emod_eq_of_lt (by omega) (by omega)

/-- Half the range is its own negative modulo the range. -/
theorem half_range_symm {n a b : Nat} (hn : 1 ≤ n) (h : ((a : Int) - b) % 2 ^ n = 2 ^ (n - 1)) :
    ((b : Int) - a) % 2 ^ n = 2 ^ (n - 1) := by
  have hpow : (2 : Int) ^ (n - 1 + 1) = 2 ^ (n - 1) * 2 := Int.pow_succ 2 (n - 1)
  rw [Nat.sub_add_cancel hn] at hpow
  rw [← Int.neg_sub]
  exact neg_emod_of_half hpow (Int.pow_pos (by decide)) h

theorem not_laterThan_of_half_range {n a b : Nat} (hb : b < 2 ^ n) (h : ((a : Int) - b) % 2 ^ n = 2 ^ (n - 1)) :
    laterThan n a b = false := by
  rw [← Bool.not_eq_true, laterThan_iff hb, h]
  omega

theorem mem_filter_unsurpassed {n a : Nat} {l : List Nat} :
    a ∈ l.filter (fun a => !l.any (fun b => laterThan n b a)) ↔ a ∈ l ∧ ∀ b ∈ l, laterThan n b a = false := by
  simp

theorem foldl_max_spec {l : List Nat} (h : l ≠ []) : l.foldl max 0 ∈ l ∧ ∀ a ∈ l, a ≤ l.foldl max 0 := by
  obtain ⟨x, r, rfl⟩ := List.exists_cons_of_ne_nil h
  exact List.max?_eq_some_iff.mp (by rw [List.max?_cons', List.foldl_cons, Nat.zero_max])

/-- Where some value has none later, the latest is the highest of those. -/
theorem latestOf_unsurpassed {n : Nat} {l : List Nat} (h : ∃ a ∈ l, ∀ b ∈ l, laterThan n b a = false) :
    (latestOf n l ∈ l ∧ ∀ b ∈ l, laterThan n b (latestOf n l) = false) ∧
      ∀ a ∈ l, (∀ b ∈ l, laterThan n b a = false) → a ≤ latestOf n l := by
  obtain ⟨a, ha⟩ := h
  have hne := List.ne_nil_of_mem (mem_filter_unsurpassed.mpr ha)
  have htop := foldl_max_spec hne
  simp only [latestOf]
  rw [if_neg (by simpa using hne)]
  exact ⟨mem_filter_unsurpassed.mp htop.1, fun a hm hl => htop.2 a (mem_filter_unsurpassed.mpr ⟨hm, hl⟩)⟩

/-- Where each value has a later one, the latest is the highest of all. -/
theorem latestOf_surpassed {n : Nat} {l : List Nat} (h : ¬ ∃ a ∈ l, ∀ b ∈ l, laterThan n b a = false) :
    latestOf n l = l.foldl max 0 := by
  have hnil : l.filter (fun a => !l.any (fun b => laterThan n b a)) = [] :=
    List.eq_nil_iff_forall_not_mem.mpr fun a ha => h ⟨a, mem_filter_unsurpassed.mp ha⟩
  simp only [latestOf]
  rw [hnil]; rfl

/-- Settles O40: laterThan judges the difference modulo 2^n, and the latest is the highest of the values than which none is later. -/
theorem serialArithmetic : Obligations.SerialArithmetic := by
  refine ⟨fun n a b ⟨hn, ha, hb⟩ => ⟨laterThan_iff hb, fun h => ?_⟩, fun n l hl => ?_⟩
  · exact ⟨not_laterThan_of_half_range hb h, not_laterThan_of_half_range ha (half_range_symm hn h)⟩
  · by_cases h : ∃ a ∈ l, ∀ b ∈ l, laterThan n b a = false
    · obtain ⟨⟨hmem, hlate⟩, hmax⟩ := latestOf_unsurpassed h
      exact ⟨hmem, fun _ => ⟨hlate, hmax⟩, fun hnot => absurd h hnot⟩
    · rw [latestOf_surpassed h]
      exact ⟨(foldl_max_spec hl).1, fun hex => absurd hex h, fun _ => (foldl_max_spec hl).2⟩

end Sys2Proof.Machine
end

section
/-!
PROOFS. Time (R14, R15, R162, R163, R371): boundaries, the interrupt cause of a reel, and time that passes.
-/
namespace Sys2Proof.Machine

/-! ### Boundaries -/

theorem extractLsb'_zero_eq_zero_iff {w : Nat} (n : Nat) (t : BitVec w) : t.extractLsb' 0 n = 0 ↔ 2 ^ n ∣ t.toNat := by
  rw [BitVec.toNat_eq, Nat.dvd_iff_mod_eq_zero]
  simp

/-- The first multiple of m above t is m times one more than the quotient. -/
theorem next_multiple_le {m t u : Nat} (h : t < u) (hu : m ∣ u) : (t / m + 1) * m ≤ u := by
  obtain ⟨k, rfl⟩ := hu
  rw [Nat.mul_comm]
  exact Nat.mul_le_mul_left m (Nat.div_lt_of_lt_mul h)

/-- The first boundary of 2^n ticks after t. -/
theorem nextBoundary_spec (n m : Nat) (hm : m = 2 ^ n) (t : Instant) (h : t.toNat + m < 2 ^ 64) :
    let b : Instant := BitVec.ofNat 64 ((t.toNat / m + 1) * m)
    t.toNat < b.toNat ∧ b.extractLsb' 0 n = 0 ∧
      ∀ u : Instant, t.toNat < u.toNat → u.extractLsb' 0 n = 0 → b.toNat ≤ u.toNat := by
  have hpos : 0 < m := hm ▸ Nat.two_pow_pos n
  have hle : (t.toNat / m + 1) * m ≤ t.toNat + m := by
    rw [Nat.succ_mul]; exact Nat.add_le_add_right (Nat.div_mul_le_self ..) m
  have hb : (BitVec.ofNat 64 ((t.toNat / m + 1) * m)).toNat = (t.toNat / m + 1) * m :=
    BitVec.toNat_ofNat .. |>.trans (Nat.mod_eq_of_lt (by omega))
  simp only [extractLsb'_zero_eq_zero_iff, ← hm, hb]
  exact ⟨by rw [Nat.mul_comm]; exact Nat.lt_mul_div_succ _ hpos, Nat.dvd_mul_left .., fun u => next_multiple_le⟩

/-! ### An event sets the bit of its cause -/

theorem getLsbD_putBit_true {n i : Nat} (v : BitVec n) (h : i < n) : (putBit v i true).getLsbD i = true := by
  rw [putBit, if_pos rfl, BitVec.getLsbD_or, BitVec.getLsbD_ofNat, Nat.testBit_two_pow_self, decide_eq_true h]
  simp

@[simp] theorem msixDue_cause (v : Nat) (s : State) : (msixDue v s).irq.cause = s.irq.cause := by
  unfold msixDue
  split
  · rw [bump_irq, emit_irq]
  · rfl

/-- After an event of cause b, its bit is set, whether or not it was before. -/
theorem riseCause_sets {b : Nat} (s : State) (hb : b < 23) : (riseCause b s).irq.cause.getLsbD b = true := by
  by_cases h : s.irq.cause.getLsbD b = true
  · rw [riseCause, if_pos h]; exact h
  · simp only [riseCause, if_neg h]
    split
    · rw [msixDue_cause]; exact getLsbD_putBit_true _ hb
    · exact getLsbD_putBit_true _ hb

theorem raiseIrq_sets {b : Nat} (s : State) (hb : b < 23) : (raiseIrq b s).irq.cause.getLsbD b = true := riseCause_sets _ hb

/-! ### Time that passes -/

theorem setNow_same_reel {t : Instant} {s : State} (h : t.toNat / rl = s.now.toNat / rl) : setNow t s = { s with now := t } :=
  if_neg (not_not_intro h)

theorem setNow_new_reel {t : Instant} {s : State} (h : t.toNat / rl ≠ s.now.toNat / rl) :
    setNow t s = raiseIrq 4 { s with now := t } :=
  if_pos h

@[simp] theorem setNow_now (t : Instant) (s : State) : (setNow t s).now = t := by
  by_cases h : t.toNat / rl = s.now.toNat / rl
  · rw [setNow_same_reel h]
  · rw [setNow_new_reel h, raiseIrq_now]

@[simp] theorem setNow_frac (t : Instant) (s : State) : (setNow t s).frac = s.frac := by
  by_cases h : t.toNat / rl = s.now.toNat / rl
  · rw [setNow_same_reel h]
  · rw [setNow_new_reel h, raiseIrq_frac]

@[simp] theorem passBy_now (d k part : Nat) (s : State) : (passBy d k part s).now = s.now + BitVec.ofNat 64 k := setNow_now ..

@[simp] theorem passBy_up (d k part : Nat) (s : State) : (passBy d k part s).up = s.up + d := setNow_up ..

@[simp] theorem passBy_frac (d k part : Nat) (s : State) : (passBy d k part s).frac = part := setNow_frac ..

/-- OP_TIME counts the reel boundaries crossed while D0 is powered (R371). -/
theorem passBy_opTime (d k part : Nat) {s : State} (h : s.node ≠ .off) :
    (passBy d k part s).log.opTime = s.log.opTime + BitVec.ofNat 40 ((s.now.toNat + k) / rl - s.now.toNat / rl) := by
  simp only [passBy, setNow_log, if_neg h]

theorem passBy_new_reel (d k part : Nat) {s : State} (h : (s.now + BitVec.ofNat 64 k).toNat / rl ≠ s.now.toNat / rl) :
    (passBy d k part s).irq.cause.getLsbD 4 = true := by
  simp only [passBy]
  rw [setNow_new_reel (by exact h)]
  exact raiseIrq_sets _ (by decide)

theorem passBy_same_reel (d k part : Nat) {s : State} (h : (s.now + BitVec.ofNat 64 k).toNat / rl = s.now.toNat / rl) :
    (passBy d k part s).irq = s.irq ∧ (passBy d k part s).out = s.out := by
  simp only [passBy]
  rw [setNow_same_reel (by exact h)]
  exact ⟨rfl, rfl⟩

/-- Settles O39: the two next boundaries are nextBoundary_spec at 20 and 10 bits, and a tick crosses a reel where rl divides the instant
it reaches. -/
theorem binaryBoundaries : Obligations.BinaryBoundaries := by
  refine ⟨fun t => nextBoundary_spec 20 fr rfl t, fun t => nextBoundary_spec 10 pf rfl t, fun d part s h => ?_⟩
  obtain ⟨hlt, hon⟩ := h
  have hnow : (s.now + 1).toNat = s.now.toNat + 1 := by
    rw [BitVec.toNat_add]; exact Nat.mod_eq_of_lt hlt
  have hreel : (s.now + 1).extractLsb' 0 32 = 0 ↔ rl ∣ s.now.toNat + 1 := hnow ▸ extractLsb'_zero_eq_zero_iff 32 _
  rw [passBy_opTime _ _ _ hon, Nat.succ_div]
  by_cases hd : rl ∣ s.now.toNat + 1
  · rw [if_pos hd, if_pos (hreel.mpr hd)]; simp
  · rw [if_neg hd, if_neg (mt hreel.mp hd)]; simp

theorem passTo_reached {u : Nat} {s : State} (h : u ≤ s.up) : passTo u s = s := if_pos h

theorem passTo_ahead {u : Nat} {s : State} (h : s.up < u) :
    passTo u s = passBy (u - s.up) (ticksIn s (u - s.up)) (advanceIn s (u - s.up) % 1000000000000) s :=
  if_neg (Nat.not_le.mpr h)

theorem rate_of_freq_zero {s : State} (h : s.tim.freq = 0) : rate s = 1000000000000 := by
  rw [rate, h]; rfl

/-- With FREQ_ADJ 0, a tick of the TCXO is a tick of local time. -/
theorem advanceIn_of_freq_zero {s : State} (h : s.tim.freq = 0) (d : Nat) : advanceIn s d = s.frac + 1000000000000 * d := by
  rw [advanceIn, rate_of_freq_zero h]; omega

/-- Settles O53: where time passes, passTo is passBy by the ticks of the TCXO that are left. -/
theorem timePasses : Obligations.TimePasses := by
  refine fun u s => ⟨passTo_reached, fun h => ?_⟩
  rw [passTo_ahead h]
  refine ⟨?_, passBy_now .., passBy_frac .., fun hf hp => ?_, passBy_new_reel _ _ _, passBy_same_reel _ _ _, passBy_opTime _ _ _⟩
  · rw [passBy_up]; omega
  · have hx := advanceIn_of_freq_zero hf (u - s.up)
    constructor
    · change advanceIn s (u - s.up) / 1000000000000 = _
      rw [hx]; omega
    · rw [passBy_frac, hx]; omega

end Sys2Proof.Machine
end

section
/-!
PROOFS. Memory as cells in canonical form (R197), and numbers laid out in bytes (R4).
-/
namespace Sys2Proof.Machine

/-! ### Cells -/

theorem memGet_cons_self (a : Nat) (b : Byte) (r : List Host.Cell) : memGet ((a, b) :: r) a = b := if_pos rfl

theorem memGet_cons_ne {a k : Nat} (b : Byte) (r : List Host.Cell) (h : a ≠ k) : memGet ((a, b) :: r) k = memGet r k := if_neg h

theorem memAbove_cons {lo a : Nat} {b : Byte} {r : List Host.Cell} :
    memAbove lo ((a, b) :: r) = true ↔ lo ≤ a ∧ b ≠ 0 ∧ memAbove (a + 1) r = true := by
  simp [memAbove, and_assoc]

theorem memGet_memPut_other {k a : Nat} (m : List Host.Cell) (v : Byte) (h : a ≠ k) : memGet (memPut m k v) a = memGet m a := by
  induction m with
  | nil => unfold memPut; split <;> simp [memGet, h.symm]
  | cons c r ih =>
    obtain ⟨x, y⟩ := c
    simp only [memPut]
    split
    · split <;> simp [memGet, h.symm]
    · split
      · next he => subst he; split <;> simp [memGet, h.symm]
      · simp only [memGet, ih]

theorem memGet_memPut_same {lo : Nat} {m : List Host.Cell} (k : Nat) (v : Byte) (h : memAbove lo m = true) :
    memGet (memPut m k v) k = v := by
  induction m generalizing lo with
  | nil => unfold memPut; split <;> simp_all [memGet]
  | cons c r ih =>
    obtain ⟨x, y⟩ := c
    obtain ⟨-, -, hr⟩ := memAbove_cons.mp h
    simp only [memPut]
    split
    · next hlt =>
      split
      · next hv => rw [hv, memGet_cons_ne _ _ (by omega)]; exact memGet_above hr (by omega)
      · exact memGet_cons_self ..
    · split
      · next he =>
        split
        · next hv => rw [hv]; exact memGet_above hr (by omega)
        · exact memGet_cons_self ..
      · next hne => rw [memGet_cons_ne _ _ (Ne.symm hne)]; exact ih hr

theorem memGet_memWrite_other {k a : Nat} (m : List Host.Cell) (l : List Byte) (h : a < k ∨ k + l.length ≤ a) :
    memGet (memWrite m k l) a = memGet m a := by
  induction l generalizing m k with
  | nil => rfl
  | cons b r ih =>
    rw [List.length_cons] at h
    rw [memWrite, ih _ (by omega), memGet_memPut_other _ _ (by omega)]

theorem memRead_memWrite {m : List Host.Cell} (k : Nat) (l : List Byte) (h : Memory.wf m = true) :
    memRead (memWrite m k l) k l.length = l := by
  induction l generalizing m k with
  | nil => rfl
  | cons b r ih =>
    rw [List.length_cons, memRead, memWrite, ih (k + 1) (memPut_wf k b h), memGet_memWrite_other _ _ (.inl k.lt_succ_self),
      memGet_memPut_same k b h]

/-- A memory in canonical form that reads at the first address of another as the other does begins no later. -/
theorem head_address_le {a b lo : Nat} {x y : Byte} {r t : List Host.Cell} (hm : memAbove lo ((a, x) :: r) = true)
    (hn : memAbove lo ((b, y) :: t) = true) (h : memGet ((a, x) :: r) a = memGet ((b, y) :: t) a) : b ≤ a := by
  obtain ⟨-, hx, -⟩ := memAbove_cons.mp hm
  obtain ⟨-, -, ht⟩ := memAbove_cons.mp hn
  refine Nat.le_of_not_lt fun hlt => hx ?_
  rwa [memGet_cons_self, memGet_cons_ne _ _ (by omega), memGet_above ht (by omega)] at h

/-- A memory in canonical form that holds a cell reads other than the empty one. -/
theorem memGet_cons_ne_nil {a lo : Nat} {x : Byte} {r : List Host.Cell} (hm : memAbove lo ((a, x) :: r) = true) :
    memGet ((a, x) :: r) a ≠ memGet [] a := by
  obtain ⟨-, hx, -⟩ := memAbove_cons.mp hm
  rwa [memGet_cons_self]

/-- The canonical form is unique: memories that read alike are the same list. -/
theorem memAbove_ext {lo : Nat} {m n : List Host.Cell} (hm : memAbove lo m = true) (hn : memAbove lo n = true)
    (h : ∀ a, memGet m a = memGet n a) : m = n := by
  induction m generalizing lo n with
  | nil =>
    cases n with
    | nil => rfl
    | cons d t => exact absurd (h d.1).symm (memGet_cons_ne_nil hn)
  | cons c r ih =>
    obtain ⟨a, x⟩ := c
    cases n with
    | nil => exact absurd (h a) (memGet_cons_ne_nil hm)
    | cons d t =>
      obtain ⟨b, y⟩ := d
      have hab : a = b := Nat.le_antisymm (head_address_le hn hm (h b).symm) (head_address_le hm hn (h a))
      subst hab
      have hxy : x = y := by simpa only [memGet_cons_self] using h a
      obtain ⟨-, -, hr⟩ := memAbove_cons.mp hm
      obtain ⟨-, -, ht⟩ := memAbove_cons.mp hn
      have htail : r = t := ih hr ht fun k => by
        by_cases hk : k ≤ a
        · rw [memGet_above hr (by omega), memGet_above ht (by omega)]
        · have hne : a ≠ k := by omega
          simpa only [memGet_cons_ne _ _ hne] using h k
      rw [hxy, htail]

/-! ### Numbers as bytes -/

theorem toNat_byte (n : Nat) : (BitVec.ofNat 8 n).toNat = n % 256 := BitVec.toNat_ofNat ..

theorem byte_add_mul (c n : Nat) : BitVec.ofNat 8 (c * 256 + n) = BitVec.ofNat 8 n := by
  apply BitVec.eq_of_toNat_eq
  rw [toNat_byte, toNat_byte]; omega

/-- The digits above the k low ones, of a number whose k low digits lie under c. -/
theorem high_digits (k c n : Nat) : (c * 256 ^ k + n) / 256 ^ k = c + n / 256 ^ k := by
  rw [Nat.mul_comm c, Nat.mul_add_div (Nat.pow_pos (by decide))]

theorem beBytes_length (k n : Nat) : (beBytes k n).length = k := by
  induction k with
  | zero => rfl
  | succ k ih => rw [beBytes, List.length_cons, ih]

theorem foldl_beNat (l : List Byte) (c : Nat) :
    l.foldl (fun acc b => acc * 256 + b.toNat) c = c * 256 ^ l.length + beNat l := by
  induction l generalizing c with
  | nil => simp [beNat]
  | cons b r ih =>
    rw [beNat, List.foldl_cons, List.foldl_cons, ih, ih (0 * 256 + b.toNat), List.length_cons, Nat.pow_succ', Nat.zero_mul,
      Nat.zero_add, Nat.add_mul, Nat.mul_assoc, Nat.add_assoc]

theorem beNat_cons (b : Byte) (r : List Byte) : beNat (b :: r) = b.toNat * 256 ^ r.length + beNat r := by
  rw [beNat, List.foldl_cons, foldl_beNat, Nat.zero_mul, Nat.zero_add]

theorem beNat_beBytes (k n : Nat) : beNat (beBytes k n) = n % 256 ^ k := by
  induction k with
  | zero => rw [Nat.pow_zero, Nat.mod_one]; rfl
  | succ k ih =>
    rw [beBytes, beNat_cons, beBytes_length, ih, toNat_byte, Nat.mod_pow_succ (b := 256), Nat.add_comm (n % 256 ^ k),
      Nat.mul_comm (256 ^ k)]

/-- Digits above the k low ones do not show in k bytes. -/
theorem beBytes_add_mul (k c n : Nat) : beBytes k (c * 256 ^ k + n) = beBytes k n := by
  induction k generalizing c with
  | zero => rfl
  | succ k ih =>
    have hc : c * 256 ^ (k + 1) + n = c * 256 * 256 ^ k + n := by rw [Nat.pow_succ', Nat.mul_assoc]
    rw [beBytes, beBytes, hc, ih, high_digits, byte_add_mul]

theorem beNat_lt (l : List Byte) : beNat l < 256 ^ l.length := by
  induction l with
  | nil => exact Nat.one_pos
  | cons b r ih =>
    rw [beNat_cons, List.length_cons]
    calc b.toNat * 256 ^ r.length + beNat r < b.toNat * 256 ^ r.length + 256 ^ r.length := Nat.add_lt_add_left ih _
      _ = (b.toNat + 1) * 256 ^ r.length := (Nat.succ_mul ..).symm
      _ ≤ 256 * 256 ^ r.length := Nat.mul_le_mul_right _ b.isLt
      _ = 256 ^ (r.length + 1) := Nat.pow_succ'.symm

theorem beBytes_beNat (l : List Byte) : beBytes l.length (beNat l) = l := by
  induction l with
  | nil => rfl
  | cons b r ih =>
    rw [List.length_cons, beBytes, beNat_cons, high_digits, Nat.div_eq_of_lt (beNat_lt r), Nat.add_zero, beBytes_add_mul, ih,
      BitVec.ofNat_toNat, BitVec.setWidth_eq]

theorem leNat_leBytes {k n : Nat} (h : n < 256 ^ k) : leNat (leBytes k n) = n := by
  induction k generalizing n with
  | zero => exact (Nat.lt_one_iff.mp h).symm
  | succ k ih =>
    have hdiv : n / 256 < 256 ^ k := Nat.div_lt_of_lt_mul (by rwa [Nat.pow_succ'] at h)
    rw [leBytes, leNat, ih hdiv, toNat_byte, Nat.mod_add_div]

theorem leBytes_leNat (l : List Byte) : leBytes l.length (leNat l) = l := by
  induction l with
  | nil => rfl
  | cons b r ih =>
    have hb : b.toNat < 256 := b.isLt
    have hdiv : (b.toNat + 256 * leNat r) / 256 = leNat r := by omega
    rw [List.length_cons, leBytes, leNat, hdiv, ih, Nat.add_comm, Nat.mul_comm, byte_add_mul, BitVec.ofNat_toNat, BitVec.setWidth_eq]

/-- Settles O48: a read goes cell by cell through what a write put there, and the canonical form is unique. -/
theorem exportMemoryReadsAndWrites : Obligations.ExportMemoryReadsAndWrites := by
  refine ⟨fun m k l h => ⟨memRead_memWrite k l h, fun a ha => memGet_memWrite_other m l ha⟩,
    fun m n ⟨hm, hn⟩ h => memAbove_ext hm hn h, fun k n l => ⟨fun h => ⟨?_, leNat_leBytes h⟩, beBytes_beNat l, leBytes_leNat l⟩⟩
  rw [beNat_beBytes, Nat.mod_eq_of_lt h]

end Sys2Proof.Machine
end

section
/-!
PROOFS. Writes to BAR0 (R6 to R8, R321, R408, R472 to R474).
-/
namespace Sys2Proof.Machine

theorem exec_registerWrite {who : Requester} {s : State} (h : reaches s who = true) (a : BitVec 20) (be : BitVec 4) (v : Word) :
    exec (.registerWrite who a be v) s = .next (regWrite who a.toNat be v s) :=
  if_pos h

theorem regWrite_core_denied {a : Nat} (be : BitVec 4) (v : Word) (s : State) (h : coreMayWrite a = false) :
    regWrite .core a be v s = coreDenied s := by
  simp [regWrite, h]

section
variable {who : Requester} {a : Nat} {be : BitVec 4} (v : Word) (s : State)
  (hmay : who = .core → coreMayWrite a = true) (harr : byteArray a = false)
include hmay harr

/-- Past the checks of the requester and of the byte arrays, whether the register exists and the access is whole decides. -/
theorem regWrite_checked :
    regWrite who a be v s =
      if regExists (a / 4 * 4) = true then (if a % 4 ≠ 0 ∨ be ≠ 0xF then bump 0x40 s else writeReg who a v s) else s := by
  have hcore : ¬ (who = .core && !coreMayWrite a) = true := by simpa using hmay
  rw [regWrite, if_neg hcore, harr]
  cases regExists (a / 4 * 4) <;> simp

theorem regWrite_no_register (h : regExists (a / 4 * 4) = false) : regWrite who a be v s = s := by
  rw [regWrite_checked v s hmay harr, if_neg (by simp [h])]

theorem regWrite_partial (h : regExists (a / 4 * 4) = true) (hp : a % 4 ≠ 0 ∨ be ≠ 0xF) : regWrite who a be v s = bump 0x40 s := by
  rw [regWrite_checked v s hmay harr, if_pos h, if_pos hp]

theorem regWrite_whole (h : regExists a = true) (ha : a % 4 = 0) : regWrite who a 0xF v s = writeReg who a v s := by
  have haligned : a / 4 * 4 = a := by omega
  rw [regWrite_checked v s hmay harr, haligned, if_pos h, if_neg (by simp [ha])]

end

theorem writeReg_of_no_fields {a : Nat} (who : Requester) (v : Word) (s : State) (h : rwtFields a = []) :
    writeReg who a v s = writeFields who a v s := by
  rw [writeReg, h]; rfl

section
variable {l : List RwtField} (v : Word) {s : State} (hl : l ≠ [])
include hl

/-- Fields of a take without an OPEN take of the Host session are left, and reported. -/
theorem rwtWrite_without_take (ho : ownsOpen hostSession s = false) :
    rwtWrite .host l v s = bump 0x9058 { s with tak.rwtReject := true } := by
  simp [rwtWrite, hl, ho]

theorem rwtWrite_with_take (ho : ownsOpen hostSession s = true) :
    rwtWrite .host l v s =
      let t := mergeFields l v s
      let u := setSess hostSession { sessOf s hostSession with lastReq := s.up } s
      let r := { u with tak.user.lastReq := u.up }
      if l.all (fieldOk t) && withinLimits t then { r with tak.user.staged := t } else bump 0x9058 { r with tak.rwtReject := true } := by
  have hr : ∀ x, renewTake hostSession (setSess hostSession x s) =
      { setSess hostSession x s with tak.user.lastReq := (setSess hostSession x s).up } := fun x => if_pos ho
  simp [rwtWrite, hl, ho, hr]

end

/-- A write by the host of a whole register, past the checks of the access. -/
theorem exec_hostWrite_whole {a : BitVec 20} (v : Word) {s : State}
    (h : reaches s .host = true ∧ byteArray a.toNat = false ∧ regExists a.toNat = true ∧ a.toNat % 4 = 0) :
    exec (.registerWrite .host a 0xF v) s = .next (writeReg .host a.toNat v s) := by
  obtain ⟨hs, harr, hex, hal⟩ := h
  rw [exec_registerWrite hs, regWrite_whole v s (by simp) harr hex hal]

/-- Settles O34: the branches of regWrite, one clause each; a field of a take goes by rwtWrite. -/
theorem registerWritesComplete : Obligations.RegisterWritesComplete := by
  refine ⟨?_, ?_, ?_, ?_, ?_, ?_, ?_, ?_⟩
  · rintro a v s ⟨hs, harr, hex, hal, hf⟩
    rw [exec_hostWrite_whole v ⟨hs, harr, hex, hal⟩, writeReg_of_no_fields _ _ _ hf]
  · rintro who a be v s ⟨hs, hmay, harr⟩ ⟨hex, hp⟩
    rw [exec_registerWrite hs, regWrite_partial v s hmay harr hex hp]
  · rintro a be v s ⟨hs, harr, hex⟩
    rw [exec_registerWrite hs, regWrite_no_register v s (by simp) harr hex]
  · rintro a be v s ⟨hs, hmay⟩
    rw [exec_registerWrite hs, regWrite_core_denied _ _ _ hmay]
  · intro v s hs
    rw [exec_hostWrite_whole v ⟨hs, by decide, by decide, by decide⟩, writeReg_of_no_fields _ _ _ (by decide)]
    rfl
  · rintro a v s ⟨hs, harr, hex, hal, hf⟩ ho
    rw [exec_hostWrite_whole v ⟨hs, harr, hex, hal⟩, writeReg, rwtWrite_without_take v hf ho]
  · rintro a v s ⟨hs, harr, hex, hal, hf⟩ ⟨ho, hok, hlim⟩
    rw [exec_hostWrite_whole v ⟨hs, harr, hex, hal⟩, writeReg, rwtWrite_with_take v hf ho]
    simp only [hok, hlim]; rfl
  · rintro a v s ⟨hs, harr, hex, hal, hf⟩ ⟨ho, hbad⟩
    rw [exec_hostWrite_whole v ⟨hs, harr, hex, hal⟩, writeReg, rwtWrite_with_take v hf ho]
    simp only [hbad]; rfl

end Sys2Proof.Machine
end

section
/-!
PROOFS. The application cluster, the supervisor pairs and MACsec keys (R36, R408 to R425).
-/
namespace Sys2Proof.Machine

@[simp] theorem msSt_setMs_same (p : Nat) (x : MacsecSt) (s : State) : msSt (setMs p x s) p = x := tget_tset_same ..

/-! ### The cluster (R412, R413, R425) -/

theorem exec_cpuForceStop {who : Requester} {s : State} (h : reaches s who = true) :
    exec (.cpuForceStop who) s = .next (cpuForceStop s) :=
  if_pos h

/-- The cluster is drained once it is disabled, whether or not D8 waits for it. -/
theorem exec_cpuDrained_of_disabled {s : State} (hoff : cfgOn s 0x2C01 0 = false) (hidle : coreSpliceIdle s = true) :
    exec .cpuDrained s = .next (drainCheck .d8 { s with cpu.drained := true }) :=
  if_neg (by simp [hoff, hidle])

/-- A value matches where mtimecmp holds no other one. -/
theorem exec_mtimecmpMatch_of_held {hart : Fin 8} {cmp : BitVec 64} {s : State} (hon : domOn s .d8 = true)
    (hheld : tfind s.cpu.mtimecmp hart.val = none ∨ tfind s.cpu.mtimecmp hart.val = some cmp) :
    exec (.mtimecmpMatch hart cmp) s =
      let u := passToInstant cmp { s with cpu.mtimecmp := tset s.cpu.mtimecmp hart.val cmp }
      .next { u with cpu.timerIrq := putBit u.cpu.timerIrq hart.val true } := by
  have hmatch : (tfind s.cpu.mtimecmp hart.val == none || tfind s.cpu.mtimecmp hart.val == some cmp) = true := by
    rwa [Bool.or_eq_true, beq_iff_eq, beq_iff_eq]
  exact if_neg (by rw [hon, hmatch]; decide)

/-! ### MACsec keys (R419 to R424) -/

section
variable {p : Fin 4} {x : MkaIn} {s : State}

theorem exec_mkaFrameReceive_of_wrong_cak (hruns : mkaRuns s p.val = true) (hcak : x.cakOk = false) :
    exec (.mkaFrameReceive p x) s = .next (securityEvent 4 p.val s) := by
  change execMkaFrameReceive p x s = _
  simp [execMkaFrameReceive, hruns, hcak]

/-- Past the CAK, a frame is heard; a new SAK installs the receive SA, and a peer that has its own brings the transmit SA. -/
theorem exec_mkaFrameReceive_of_cak (hruns : mkaRuns s p.val = true) (hcak : x.cakOk = true) :
    exec (.mkaFrameReceive p x) s =
      let u := setMs p.val { msSt s p.val with mkaAt := some s.up, keyServer := x.keyServer } s
      let v := if x.newSak || (x.keyServer && !(msSt s p.val).rxSa) then installRx p.val u else u
      .next (if x.peerRx && (msSt v p.val).rekeying then installTx p.val v else v) := by
  change execMkaFrameReceive p x s = _
  simp [execMkaFrameReceive, hruns, hcak]

/-- A frame that brings no SAK, to a port that has its receive SA or is no key server, from a peer without its own, installs nothing. -/
theorem exec_mkaFrameReceive_of_nothing_new (hruns : mkaRuns s p.val = true) (hcak : x.cakOk = true) (hsak : x.newSak = false)
    (hrx : x.keyServer = false ∨ (msSt s p.val).rxSa = true) (hpeer : x.peerRx = false) :
    exec (.mkaFrameReceive p x) s = .next (setMs p.val { msSt s p.val with mkaAt := some s.up, keyServer := x.keyServer } s) := by
  have hkeep : (x.newSak || (x.keyServer && !(msSt s p.val).rxSa)) = false := by
    rcases hrx with h | h <;> simp [hsak, h]
  rw [exec_mkaFrameReceive_of_cak hruns hcak, hkeep, hpeer]
  rfl

end

/-- At its threshold the packet number rekeys at once; below it the interval of 0x2C33 is waited for. -/
theorem exec_rekeyTrigger_of_threshold {p : Fin 4} {s : State}
    (hready : mkaRuns s p.val = true ∧ (msSt s p.val).keyServer = true ∧ (msSt s p.val).txSa = true ∧ (msSt s p.val).rekeying = false)
    (hpn : 0xC0000000 ≤ (msSt s p.val).txPn.toNat) :
    exec (.rekeyTrigger p) s = .next (mkaSend p.val (installRx p.val s)) := by
  obtain ⟨hruns, hserver, htx, hidle⟩ := hready
  change execRekeyTrigger p s = _
  simp [execRekeyTrigger, hruns, hserver, htx, hidle, hpn]

theorem exec_mkaLifetimeExpiry_of_heard {p : Fin 4} {s : State} {t : Nat} (h : (msSt s p.val).mkaAt = some t) :
    exec (.mkaLifetimeExpiry p) s =
      let u := passTo (t + 3 * cfg s 0x2C32 0 * fr) s
      .next (securityEvent 3 p.val (setMs p.val { msSt u p.val with mkaAt := none, rxSa := false, txSa := false, rekeying := false } u)) := by
  change execMkaLifetimeExpiry p s = _
  rw [execMkaLifetimeExpiry, h]

/-- Settles O15: the hypotheses of each clause pass its command's guards; an MKA frame that is heard installs no SA. -/
theorem clusterAndKeysComplete : Obligations.ClusterAndKeysComplete := by
  refine ⟨?cpuForceStop, ?cpuDrained, ?mtimecmpMatch, ?nicTailWrite, ?pairMismatch, ?pairSelfCheck, ?mkaHeard, ?wrongCak, ?mkaHello, ?rekey,
    ?pnExhausted, ?mkaLifetime⟩
  case cpuForceStop => intro who s hs; exact exec_cpuForceStop hs
  case cpuDrained => rintro s ⟨hoff, hidle⟩; exact exec_cpuDrained_of_disabled hoff hidle
  case mtimecmpMatch => intro hart cmp s hon hheld; exact exec_mtimecmpMatch_of_held hon hheld
  case nicTailWrite => intro core tail rx tx s hs; exact if_neg (by simp [hs])
  case pairMismatch => intro pair s hon; exact if_neg (by simp [hon])
  case pairSelfCheck => intro pair member s hon; exact if_neg (by simp [hon])
  case mkaHeard => rintro p x s ⟨hruns, hcak⟩ ⟨hsak, hrx, hpeer⟩; exact exec_mkaFrameReceive_of_nothing_new hruns hcak hsak hrx hpeer
  case wrongCak => rintro p x s ⟨hruns, hcak⟩; exact exec_mkaFrameReceive_of_wrong_cak hruns hcak
  case mkaHello => intro s hany; exact if_neg (by simp [hany])
  case rekey => intro p s hready hpn; exact exec_rekeyTrigger_of_threshold hready hpn
  case pnExhausted => rintro p s ⟨htx, hnew, hlast⟩; exact if_neg (by simp [htx, hnew, hlast])
  case mkaLifetime => intro p s t ht; exact exec_mkaLifetimeExpiry_of_heard ht

end Sys2Proof.Machine
end

section
/-!
PROOFS. Power domains and planes, and the relay coils (R25, R37, R53, R59, R437 to R439, R489).
-/
namespace Sys2Proof.Machine

/-! ### Domains -/

/-- The fault of a domain that is on, with the node awake: of D2 it is a node reset as well (log 58). -/
theorem exec_domainFault_of_on {d : Dom} {s : State} (h0 : d ≠ .d0) (hawake : s.node ≠ .asleep) (hon : domOn s d = true) :
    exec (.domainFault d) s = .next (if d = .d2 then resetNode 2 (faultDomain .d2 s) else faultDomain d s) := by
  change Host.Outcome.next (domainFault d s) = _
  rw [domainFault, if_neg h0, if_neg hawake, if_neg (by simp [hon])]

theorem exec_domainRetry_of_armed {d : Dom} {s : State} {t : Nat} (h : (domSt s d).retryAt = some t) :
    exec (.domainRetry d) s = let u := passTo t s; .next (powerFollow (setDom d { domSt u d with retryAt := none } u)) := by
  change execDomainRetry d s = _
  rw [execDomainRetry, h]

theorem exec_domainOffDrainTimeout_of_armed {d : Dom} {s : State} {t : Nat} (h : (domSt s d).drainBy = some t) :
    exec (.domainOffDrainTimeout d) s = let u := passTo t s; .next (powerFollow (setDom d { domSt u d with drainBy := none } u)) := by
  change execDomainOffDrainTimeout d s = _
  rw [execDomainOffDrainTimeout, h]

/-! ### Relay coils (Table 20.4) -/

theorem coilBad_iff {s : State} {l : Line} {current : Nat} :
    coilBad s l current = true ↔ current < 8 ∨ (if pullIn s l then 130 else 70) < current := by
  simp [coilBad]

/-- What is within the limits of hold is within those of pull-in too. -/
theorem coilBad_of_within_hold {l : Line} {current : Nat} (s : State) (hlow : 8 ≤ current) (hhigh : current ≤ 70) :
    coilBad s l current = false := by
  rw [← Bool.not_eq_true, coilBad_iff]
  split <;> omega

/-- Settles O16: the hypotheses of each clause pass its command's guards; the limits of a coil are those of coilBad. -/
theorem domainsComplete : Obligations.DomainsComplete := by
  refine ⟨?domainFault, ?faultOfD2, ?domainRetry, ?domFaultClear, ?planeRejoin, ?planeDomainsOff, ?drainTimeout, ?commonFabric, ?coilFault,
    ?coilWithinLimits⟩
  case domainFault =>
    rintro d s ⟨h0, h2, hawake, hon⟩
    rw [exec_domainFault_of_on h0 hawake hon, if_neg h2]
  case faultOfD2 =>
    rintro s ⟨hawake, hon⟩
    rw [exec_domainFault_of_on (by decide) hawake hon, if_pos rfl]
  case domainRetry => intro d s t ht; exact exec_domainRetry_of_armed ht
  case domFaultClear => intro mask s hs; exact if_pos hs
  case planeRejoin => rintro l s ⟨hreturning, hplane, hchecked⟩; exact if_neg (by simp [hreturning, hplane, hchecked])
  case planeDomainsOff => rintro l s ⟨hpending, hreleased⟩; exact if_neg (by simp [hpending, hreleased])
  case drainTimeout => intro d s t ht; exact exec_domainOffDrainTimeout_of_armed ht
  case commonFabric => intro s hon; exact if_pos hon
  case coilFault =>
    intro l v s hline hout
    have hbad : coilBad s l v.toNat = true := coilBad_iff.mpr hout
    exact if_neg (by simp [hline, hbad])
  case coilWithinLimits =>
    rintro l v s ⟨hlow, hhigh⟩
    have hgood : coilBad s l v.toNat = false := coilBad_of_within_hold s hlow hhigh
    exact if_pos (by simp [hgood])

end Sys2Proof.Machine
end

section
/-!
PROOFS. Wake events and DAWN, STAY_AWAKE, and the coupler that D0 senses (R29, R342, R353, R357 to R359, R396).
-/
namespace Sys2Proof.Machine

/-! ### Wake events (R342, R358, R396) -/

theorem wakeEvent_of_asleep {s : State} (h : s.node = .asleep) (cause src : Nat) : wakeEvent cause src s = dawn cause src s := if_pos h

theorem exec_wakeTimerExpiry_of_asleep {s : State} {t : Nat} (ht : s.wak.timerAt = some t) (hs : s.node = .asleep) :
    exec .wakeTimerExpiry s = .next (dawn 5 0 (passTo t s)) := by
  change execWakeTimerExpiry s = _
  rw [execWakeTimerExpiry, ht]
  exact if_pos hs

theorem exec_d0WakeWatch_of_above {level : BitVec 16} {s : State} (hnode : s.node ≠ .off) (hoff : domOn s .d1 = false)
    (hinputs : watchedInputs s ≠ []) (habove : watchThreshold s < level.toNat) :
    exec (.d0WakeWatch level) s = .next (wakeEvent 0 0 s) :=
  if_neg (by simp [hnode, hoff, hinputs, habove])

theorem exec_wakePulseEnd_of_driven {s : State} {t : Nat} (h : s.wak.pulseBy = some t) :
    exec .wakePulseEnd s = let u := passTo t s; .next (noteDriven u { u with wak.pulseBy := none }) := by
  change execWakePulseEnd s = _
  rw [execWakePulseEnd, h]

/-! ### DAWN (R342, R353, R359) -/

/-- With the cause known, what D1 has measured is not looked at. -/
theorem exec_dawnDomainsOn_of_known_cause {s : State} (levels : List (BitVec 16)) (hnode : s.node = .dawn) (hboot : s.hpl.boot = .waking)
    (hknown : s.wak.watched = false) :
    exec (.dawnDomainsOn levels) s =
      let u := canStart (powerFollow { s with hpl.boot := .dawned, wak.consistAwake := true, wak.idleFrom := s.up, wak.lastKeepAlive := [] })
      let v := if u.wak.forcedNote then fire 24 4 (beBytes 4 (tget u.reg 0x4058 0).toNat) { u with wak.forcedNote := false } else u
      .next (startInsertion (setNode .joining (driveWakeLine v))) := by
  change execDawnDomainsOn levels s = _
  rw [execDawnDomainsOn, if_neg (by simp [hnode, hboot]), if_neg (by simp [hknown])]

/-! ### STAY_AWAKE (R353) -/

theorem exec_stayAwake {s : State} (h : reaches s .host = true) : exec .stayAwake s = .next (stayAwake s) := if_pos h

theorem stayAwake_of_dusk {s : State} (h : s.node = .dusk) :
    stayAwake s = noteWake 6 0 (if s.wak.consistAwake then s else consistAwake s) := by
  rw [stayAwake, h]

theorem stayAwake_of_consist_indication {s : State} (hnode : s.node = .member) (hind : s.wak.sleepInd = .consist) :
    stayAwake s = { s with wak.sleepInd := .none, wak.idleFrom := s.up } := by
  rw [stayAwake, hnode]
  exact if_pos hind

/-! ### The coupler at D0 (R29) -/

theorem exec_d0CouplerClose_of_d1 {s : State} (e : End) (hon : domOn s .d1 = true) : exec (.d0CouplerClose e) s = .next s := if_pos hon

/-- The source of a wake of cause 4 is the end (Table 13.4). -/
theorem exec_d0CouplerClose_of_asleep {s : State} (hoff : domOn s .d1 = false) (hnode : s.node = .asleep) :
    exec (.d0CouplerClose .fore) s = .next (dawn 4 0 s) ∧ exec (.d0CouplerClose .aft) s = .next (dawn 4 1 s) := by
  change execD0CouplerClose .fore s = _ ∧ execD0CouplerClose .aft s = _
  simp [execD0CouplerClose, hoff, hnode]

/-- In MEMBER the end's PHYs are powered, and the end trains unless D1 knew it mated already. -/
theorem exec_d0CouplerClose_of_member {s : State} (e : End) (hoff : domOn s .d1 = false) (hnode : s.node = .member) :
    exec (.d0CouplerClose e) s =
      let u := (portsAt e).foldl (fun s p => portEnable p s) s
      if endCode u e = 2 then .next u else .next (endTrain e u) := by
  change execD0CouplerClose e s = _
  simp [execD0CouplerClose, hoff, hnode]

/-- Settles O30: the hypotheses of each clause pass its command's guards, and name the node state that selects the branch. -/
theorem wakeAndDawnComplete : Obligations.WakeAndDawnComplete := by
  refine ⟨?consistWake, ?stayAwakeInDusk, ?stayAwakeInMember, ?wakeEvent, ?wakeTimer, ?wakeWatch, ?openCause, ?dawnDomainsOn, ?wakePulseEnd,
    ?closeAsleep, ?closeInMember, ?closeWithD1⟩
  case consistWake =>
    rintro p s ⟨hport, hsleeps, henabled, hawake, hon⟩
    exact if_neg (by simp [hport, hsleeps, henabled, hawake, hon])
  case stayAwakeInDusk =>
    rintro s ⟨hs, hdusk⟩
    rw [exec_stayAwake hs, stayAwake_of_dusk hdusk]
  case stayAwakeInMember =>
    rintro s ⟨hs, hmember, hind⟩
    rw [exec_stayAwake hs, stayAwake_of_consist_indication hmember hind]
  case wakeEvent => intro cause src s hvalid; exact if_pos hvalid
  case wakeTimer => rintro s t ⟨ht, hasleep⟩; exact exec_wakeTimerExpiry_of_asleep ht hasleep
  case wakeWatch => rintro level s ⟨hnode, hoff, hinputs, habove⟩; exact exec_d0WakeWatch_of_above hnode hoff hinputs habove
  case openCause => intro s hasleep; exact wakeEvent_of_asleep hasleep 0 0
  case dawnDomainsOn => rintro levels s ⟨hnode, hboot, hknown⟩; exact exec_dawnDomainsOn_of_known_cause levels hnode hboot hknown
  case wakePulseEnd => intro s t ht; exact exec_wakePulseEnd_of_driven ht
  case closeAsleep => rintro s ⟨hasleep, hoff⟩; exact exec_d0CouplerClose_of_asleep hoff hasleep
  case closeInMember =>
    rintro e s ⟨hmember, hoff, hnew⟩
    rw [exec_d0CouplerClose_of_member e hoff hmember]
    exact if_neg hnew
  case closeWithD1 => intro e s hon; exact exec_d0CouplerClose_of_d1 e hon

end Sys2Proof.Machine
end

section
/-!
PROOFS. Training of a link, its loss and its re-acquisition (R43, R44, R46, R47, R50, R116).
-/
namespace Sys2Proof.Machine

/-- Clause 28 brings 100BASE-TX and Clause 98 the others, at a backbone port (R43). -/
theorem attemptBrings_iff {k : LinkSt} {p mode : Nat} :
    attemptBrings k p mode = true ↔ (p < 4 → (mode = 5 ↔ k.clause28 = true)) := by
  rw [attemptBrings, Bool.or_eq_true, decide_eq_true_eq, beq_iff_eq, Bool.eq_iff_iff, decide_eq_true_eq, ← Nat.not_lt]
  exact Decidable.imp_iff_not_or.symm

theorem exec_linkTrainingDone_of_brought {p : Fin 17} {mode : Fin 8} {ext native : Bool} {s : State}
    (hst : (linkSt s p.val).st = .training) (hreacq : (linkSt s p.val).reacqBy = none)
    (hmask : maskAllows p.val (modeMask s p.val) mode.val (ext && decide (p.val < 4)) = true)
    (hext : (ext && decide (p.val < 4)) = true → mode.val = 1 ∧ native = true ∧ linkCfg s 0x2202 p.val ≠ 2)
    (hclause : attemptBrings (linkSt s p.val) p.val mode.val = true) :
    exec (.linkTrainingDone p mode ext native) s =
      .next (linkUp p.val mode.val (ext && decide (p.val < 4)) (native && decide (p.val < 4)) s) := by
  have hextOk : ((ext && decide (p.val < 4)) && (mode.val ≠ 1 || !native || linkCfg s 0x2202 p.val = 2)) = false := by
    cases hx : (ext && decide (p.val < 4)) with
    | false => rfl
    | true =>
      obtain ⟨hmode, hnative, hcfg⟩ := hext hx
      simp [hmode, hnative, hcfg]
  change execLinkTrainingDone p mode ext native s = _
  simp only [execLinkTrainingDone, hst, hreacq, hclause, hmask, hextOk]
  rfl

section
variable {s : State} {t : Nat}

theorem exec_anAttemptTimeout_of_armed {p : Fin 17} (h : (linkSt s p.val).attemptBy = some t) :
    exec (.anAttemptTimeout p) s =
      let u := if p.val < 4 then bump (prt p.val 0x18) (passTo t s) else passTo t s
      .next (setLink p.val { linkSt u p.val with
        clause28 := decide (p.val < 4) && maskAllows p.val (modeMask u p.val) 5 false && !(linkSt s p.val).clause28,
        attemptBy := some (u.up + cfg u 0x2204 0 * fr) } u) := by
  change execAnAttemptTimeout p s = _
  rw [execAnAttemptTimeout, h]

theorem exec_reacquisitionDone_of_allowed {p : Fin 4} (h : (linkSt s p.val).reacqBy = some t)
    (hst : (linkSt s p.val).st = .training) (hup : s.up ≤ t)
    (hrun : runAllowed s p.val (linkSt s p.val).mode (linkSt s p.val).ext = true) :
    exec (.reacquisitionDone p) s =
      .next (linkUp p.val (linkSt s p.val).mode (linkSt s p.val).ext (linkSt s p.val).native (bump (prt p.val 0x14) s)) := by
  change execReacquisitionDone p s = _
  rw [execReacquisitionDone, h]
  exact if_neg (by simp [hst, hrun, hup])

theorem exec_reacquisitionTimeout_of_armed {p : Fin 4} (h : (linkSt s p.val).reacqBy = some t) :
    exec (.reacquisitionTimeout p) s =
      let u := passTo t s
      .next (setLink p.val { linkSt u p.val with
        reacqBy := none, attemptBy := some (u.up + cfg u 0x2204 0 * fr), clause28 := false } u) := by
  change execReacquisitionTimeout p s = _
  rw [execReacquisitionTimeout, h]

theorem exec_marginLow_of_low {p : Fin 4} (h : (linkSt s p.val).lowFrom = some t) (hnew : (linkSt s p.val).marginLow = false) :
    exec (.marginLow p) s =
      let u := passTo (t + fr) s
      .next (bump (prt p.val 0x1C) (setLink p.val { linkSt u p.val with marginLow := true } u)) := by
  change execMarginLow p s = _
  rw [execMarginLow, h]
  exact if_neg (by simp [hnew])

end

section
variable {p : Fin 17} {s : State} (hup : portUp s p.val = true)
include hup

/-- Where energy stays away, or is away too long for a backbone port, the port trains from the start (R46, R47). -/
theorem exec_linkLost_without_energy {energy : Option (BitVec 32)} (phyFault : Bool)
    (hlate : p.val < 4 → ∀ e, energy = some e → 2 * fr < e.toNat) :
    exec (.linkLost p phyFault energy) s =
      .next (startTraining p.val (bump (prt p.val 0x10) (leaveUp p.val (if phyFault then 4 else 3) s))) := by
  change execLinkLost p phyFault energy s = _
  rw [execLinkLost, if_neg (by simp [hup])]
  cases energy with
  | none => rfl
  | some e =>
    refine if_neg ?_
    rw [Bool.and_eq_true, decide_eq_true_eq, decide_eq_true_eq]
    exact fun ⟨hp, he⟩ => absurd he (Nat.not_le_of_lt (hlate hp e rfl))

theorem exec_linkLost_with_energy {e : BitVec 32} (phyFault : Bool) (hp : p.val < 4) (he : e.toNat ≤ 2 * fr) :
    exec (.linkLost p phyFault (some e)) s =
      let u := startTraining p.val (bump (prt p.val 0x10) (leaveUp p.val (if phyFault then 4 else 3) s))
      .next (setLink p.val { linkSt u p.val with attemptBy := none, reacqBy := some (u.up + e.toNat + 5 * fr) } u) := by
  change execLinkLost p phyFault (some e) s = _
  rw [execLinkLost, if_neg (by simp [hup])]
  exact if_pos (by simp [hp, he])

theorem retrain_of_up (cause : Nat) : retrain p.val cause s = startTraining p.val (leaveUp p.val cause s) :=
  if_pos hup

end

/-- Settles O1: the hypotheses of each clause pass its command's guards; a lost link turns on whether energy is back within 2 fr. -/
theorem linkTrainingCompletes : Obligations.LinkTrainingCompletes := by
  refine ⟨?trainingDone, ?attemptTimeout, ?lost, ?lostWithEnergy, ?reacquired, ?reacquisitionTimeout, ?loopSample, ?marginLow, ?restart⟩
  case trainingDone =>
    intro p mode ext native s hst hreacq hmask hext hclause
    exact exec_linkTrainingDone_of_brought hst hreacq hmask hext (attemptBrings_iff.mpr hclause)
  case attemptTimeout => intro p s t ht; exact exec_anAttemptTimeout_of_armed ht
  case lost => intro p phyFault energy s hup hlate; exact exec_linkLost_without_energy hup phyFault hlate
  case lostWithEnergy => rintro p phyFault e s hup ⟨hp, he⟩; exact exec_linkLost_with_energy hup phyFault hp he
  case reacquired => rintro p s t ht ⟨hst, hup, hrun⟩; exact exec_reacquisitionDone_of_allowed ht hst hup hrun
  case reacquisitionTimeout => intro p s t ht; exact exec_reacquisitionTimeout_of_armed ht
  case loopSample => intro p margin saturated s hup; exact (if_neg (by simp [hup])).trans (by simp only [decide_eq_true_eq])
  case marginLow => intro p s t ht hnew; exact exec_marginLow_of_low ht hnew
  case restart =>
    intro p s hs hup
    exact (if_pos hs).trans (congrArg Host.Outcome.next (retrain_of_up hup 8))

end Sys2Proof.Machine
end

section
/-!
PROOFS. Insertion of a line: loop check, stagger, timeout and deferral (R53 to R58, R105, R505, R506).
-/
namespace Sys2Proof.Machine

/-! ### The state of a line -/

@[simp] theorem lineSt_setLine_same (l : Line) (x : LineSt) (s : State) : lineSt (setLine l x s) l = x := by cases l <;> rfl

@[simp] theorem lineSt_setLine_other (l : Line) (x : LineSt) (s : State) : lineSt (setLine l x s) (other l) = lineSt s (other l) := by
  cases l <;> rfl

@[simp] theorem setLine_bb_seq (l : Line) (x : LineSt) (s : State) : (setLine l x s).bb.seq = s.bb.seq := by cases l <;> rfl

/-! ### The loop check (R53) -/

theorem exec_loopCheckDone_of_checking {l : Line} (ok : Bool) {s : State} (hcheck : (lineSt s l).checking = true)
    (hreleased : (lineSt s l).energised = false) :
    exec (.loopCheckDone l ok) s =
      let v := setLine l { lineSt s l with checking := false, loopOk := ok, single := (lineSt s l).single && ok } s
      let u := if ok then v else reportLine l v
      .next (if u.bb.a.checking || u.bb.b.checking then u else startInsertion u) := by
  change execLoopCheckDone l ok s = _
  rw [execLoopCheckDone, if_neg (by simp [hcheck, hreleased])]
  exact (apply_ite Host.Outcome.next ..).symm

/-! ### Controlled switches (R54, R58) -/

/-- A controlled switch is made where the lines allow it and the other line has not switched lately; else it waits (Table 2.17). -/
theorem controlled_eq (l : Line) (why : SwitchWhy) (own : Bool) (s : State) :
    controlled l why own s =
      if switchReady s l own = true ∧ switchedLately s (other l) = false then makeSwitch l why s else deferSwitch l why own s := by
  simp only [controlled, Bool.and_eq_true, Bool.not_eq_true']

theorem controlled_of_ready {l : Line} (why : SwitchWhy) {own : Bool} {s : State} (hready : switchReady s l own = true)
    (hquiet : switchedLately s (other l) = false) : controlled l why own s = makeSwitch l why s := by
  rw [controlled_eq, if_pos ⟨hready, hquiet⟩]

/-- What is said of line l itself weighs on a switch of l only where its own state is looked at. -/
theorem switchReady_setLine (l : Line) (x : LineSt) (s : State) : switchReady (setLine l x s) l false = switchReady s l false := by
  simp [switchReady, linePasses]

theorem switchedLately_setLine_other (l : Line) (x : LineSt) (s : State) :
    switchedLately (setLine l x s) (other l) = switchedLately s (other l) := by
  simp [switchedLately]

theorem exec_relayDeferExpiry_of_deferred {s : State} {d : Deferred} {r : List Deferred} (h : s.bb.deferred = d :: r) :
    exec .relayDeferExpiry s =
      let u := passTo d.by_ s
      .next (resumeSwitch d (if switchReady u d.line d.own then u else bump 0xB0040 u)) := by
  change execRelayDeferExpiry s = _
  rw [execRelayDeferExpiry, h]

/-- The switch deferred first is the one that is made, where the lines allow it. -/
theorem exec_deferredSwitchResume_of_ready {s : State} {d : Deferred} {r : List Deferred} (h : s.bb.deferred = d :: r)
    (hready : switchReady s d.line d.own = true) : exec .deferredSwitchResume s = .next (resumeSwitch d s) := by
  have hfound : s.bb.deferred.find? (fun d => switchReady s d.line d.own) = some d := by
    rw [h]; exact List.find?_cons_of_pos hready
  change execDeferredSwitchResume s = _
  rw [execDeferredSwitchResume, hfound]

/-! ### The insertion of both lines (R55) -/

theorem insertWithout_of_first (l : Line) (s : State) :
    insertWithout (.insertFirst l) l s =
      { s with bb.seq := if insertBarred s (other l) then .none else .insertNext (other l) (s.up + cfg s 0x2305 0 * fr) } :=
  if_pos rfl

/-- A first line whose ports have not come UP is released, and the other line follows after the long stagger. -/
theorem exec_insertionTimeout_of_first {l : Line} {s : State} {t : Nat} (ht : (lineSt s l).insertBy = some t)
    (hout : lineIn (passTo t s) l = false) (hready : switchReady (passTo t s) l false = true)
    (hquiet : switchedLately (passTo t s) (other l) = false) (hseq : s.bb.seq = .insertFirst l) :
    exec (.insertionTimeout l) s =
      let v := relaySwitch l false (setLine l { lineSt (passTo t s) l with insertBy := none } (passTo t s))
      let u := reportLine l (setLine l { lineSt v l with contactFault := true, insertBy := none, single := false } v)
      .next (resumeInsert { u with bb.seq := if insertBarred u (other l) then .none else .insertNext (other l) (u.up + cfg u 0x2305 0 * fr) }) := by
  change execInsertionTimeout l s = _
  rw [execInsertionTimeout, ht]
  dsimp only
  rw [if_neg (by simp [hout]), controlled_of_ready .failed (by rwa [switchReady_setLine]) (by rwa [switchedLately_setLine_other]),
    makeSwitch, insertFailed, setLine_bb_seq, passTo_bb, hseq, insertWithout_of_first]
  rfl

/-! ### The stagger (R56, R105) -/

theorem exec_relayStaggerExpiry_of_release {s : State} {l : Line} {t : Nat} {both own : Bool} (h : s.bb.seq = .releaseNext l t both own) :
    exec .relayStaggerExpiry s = .next (resumeInsert (controlled l (.release both) own { passTo t s with bb.seq := .none })) := by
  change execRelayStaggerExpiry s = _
  rw [execRelayStaggerExpiry, h]

theorem joinHolds_of_not_joining {s : State} (l : Line) (h : s.node ≠ .joining) : joinHolds s l = false := by
  simp [joinHolds, h]

theorem exec_relayStaggerExpiry_of_insert {s : State} {l : Line} {t : Nat} (h : s.bb.seq = .insertNext l t)
    (hmay : mayInsert (passTo t s) l = true) (hnode : s.node ≠ .joining) :
    exec .relayStaggerExpiry s = .next (resumeInsert (controlled l .insert false { passTo t s with bb.seq := .insertSecond l })) := by
  have hfree : joinHolds (passTo t s) l = false := joinHolds_of_not_joining l (by rwa [passTo_node])
  change execRelayStaggerExpiry s = _
  rw [execRelayStaggerExpiry, h]
  dsimp only
  rw [if_neg (by simp [hfree]), if_pos hmay]

/-! ### The insertion of one line (R506), and of both again (R105) -/

section
variable {l : Line} {s : State}
  (hline : (lineSt s l).single = true ∧ (lineSt s l).energised = false ∧ (lineSt s l).insertBy = none)
  (hother : mayInsert s l = true ∧ lineEnergised s (other l) = true ∧ s.bb.deferred = [])
include hline hother

/-- Beside an energised line, whether the node must wait for a Call Sheet that lists it decides (R105). -/
theorem exec_singleLineInsert_of_second :
    exec (.singleLineInsert l) s =
      if joinHolds s l then .next (if s.bb.seq = .none then joinHold l (setLine l { lineSt s l with single := false } s) else s)
      else .next (controlled l .single false (toFrame (spaced l s))) := by
  obtain ⟨hsingle, hreleased, hnew⟩ := hline
  obtain ⟨hmay, hon, hnone⟩ := hother
  change execSingleLineInsert l s = _
  rw [execSingleLineInsert, if_neg (by simp [hsingle, hreleased, hnew, hmay, hnone]), if_neg (by simp [hon])]

theorem exec_singleLineInsert_of_listed (hlisted : s.node = .joining → isMemberUid s s.uid = true) :
    exec (.singleLineInsert l) s = .next (controlled l .single false (toFrame (spaced l s))) := by
  have hfree : joinHolds s l = false := by
    by_cases hn : s.node = .joining
    · simp [joinHolds, hlisted hn]
    · exact joinHolds_of_not_joining l hn
  rw [exec_singleLineInsert_of_second hline hother, if_neg (by simp [hfree])]

theorem exec_singleLineInsert_of_unlisted (hnode : s.node = .joining) (hunlisted : isMemberUid s s.uid = false) (hseq : s.bb.seq = .none) :
    exec (.singleLineInsert l) s = .next (joinHold l (setLine l { lineSt s l with single := false } s)) := by
  have hholds : joinHolds s l = true := by
    obtain ⟨-, hon, -⟩ := hother
    simp [joinHolds, hnode, hon, hunlisted]
  rw [exec_singleLineInsert_of_second hline hother, if_pos hholds, if_pos hseq]

end

/-- With no sequence of relays under way the insertion is tried again as it stands. -/
theorem exec_joinRetryTimer_of_idle {s : State} {t : Nat} (ht : s.bb.joinRetryAt = some t) (hseq : s.bb.seq = .none) :
    exec .joinRetryTimer s = .next (startInsertion { passTo t s with bb.joinRetryAt := none }) := by
  change execJoinRetryTimer s = _
  rw [execJoinRetryTimer, ht]
  simp only [passTo_bb, hseq]

/-! ### CONTACT_FAULT (R505) -/

theorem clearContacts_of_one {l : Line} {s : State} (h : (lineSt s l).contactFault = true) :
    clearContacts [l] s = insertLine l (setLine l { lineSt s l with contactFault := false } s) := by
  simp [clearContacts, h]

/-- Both bits are cleared before either line is inserted. -/
theorem clearContacts_of_both {s : State} (ha : s.bb.a.contactFault = true) (hb : s.bb.b.contactFault = true) :
    clearContacts [.a, .b] s = insertLine .b (insertLine .a { s with bb.a.contactFault := false, bb.b.contactFault := false }) := by
  simp [clearContacts, lineSt, setLine, ha, hb]

/-! ### Link parameters of line B (R60) -/

theorem exec_modeMaskLineBApply_of_in {s : State} {t : Nat} (ht : s.bb.bApplyAt = some t)
    (hup : (waitedPorts (passTo t s) .a).all (portUp (passTo t s)) = true) :
    exec .modeMaskLineBApply s = .next (linkParams 3 (linkParams 2 { passTo t s with bb.bOld := [], bb.bApplyAt := none })) := by
  change execModeMaskLineBApply s = _
  rw [execModeMaskLineBApply, ht]
  exact if_pos hup

/-- Settles O2: the hypotheses of each clause pass its command's guards; a switch goes by controlled_eq. -/
theorem lineInsertionCompletes : Obligations.LineInsertionCompletes := by
  refine ⟨?checkPassed, ?checkFailed, ?insertionTimeout, ?staggerRelease, ?staggerInsert, ?singleListed, ?singleUnlisted, ?controlled,
    ?deferExpiry, ?deferResume, ?joinRetry, ?contactClear, ?contactsClear, ?lineBApply⟩
  case checkPassed =>
    rintro l s ⟨hcheck, hreleased⟩
    rw [exec_loopCheckDone_of_checking true hcheck hreleased, Bool.and_true]
    rfl
  case checkFailed =>
    rintro l s ⟨hcheck, hreleased⟩
    rw [exec_loopCheckDone_of_checking false hcheck hreleased, Bool.and_false]
    rfl
  case insertionTimeout =>
    rintro l s t ht hout ⟨hready, hquiet⟩ hseq
    exact exec_insertionTimeout_of_first ht hout hready hquiet hseq
  case staggerRelease => intro s l t both own hseq; exact exec_relayStaggerExpiry_of_release hseq
  case staggerInsert => intro s l t hseq hmay hnode; exact exec_relayStaggerExpiry_of_insert hseq hmay hnode
  case singleListed => intro l s hline hother hlisted; exact exec_singleLineInsert_of_listed hline hother hlisted
  case singleUnlisted =>
    rintro l s hline hother ⟨hnode, hunlisted, hseq⟩
    exact exec_singleLineInsert_of_unlisted hline hother hnode hunlisted hseq
  case controlled => exact controlled_eq
  case deferExpiry => intro s d r hd; exact exec_relayDeferExpiry_of_deferred hd
  case deferResume => intro s d r hd hready; exact exec_deferredSwitchResume_of_ready hd hready
  case joinRetry => intro s t ht hseq; exact exec_joinRetryTimer_of_idle ht hseq
  case contactClear =>
    intro l s hs hfault
    exact (if_pos hs).trans (congrArg Host.Outcome.next (clearContacts_of_one hfault))
  case contactsClear => rintro s ⟨ha, hb⟩; exact clearContacts_of_both ha hb
  case lineBApply => intro s t ht hup; exact exec_modeMaskLineBApply_of_in ht hup

end Sys2Proof.Machine
end

section
/-!
PROOFS. Coupler sense and loss classification, and the duplicator's timers (R63, R65, R68, R70, R72, R79, R80).
-/
namespace Sys2Proof.Machine

/-! ### Loss classification and coupler sense (R72, R79) -/

theorem exec_linkLossClassify_of_armed {p : Fin 4} {s : State} {t : Nat} (h : (linkSt s p.val).classifyAt = some t) :
    exec (.linkLossClassify p) s =
      let u := setLink p.val { linkSt (passTo t s) p.val with classifyAt := none } (passTo t s)
      .next (if portUp u p.val || endMated u (endOf p.val) then u else lossRecognised (endOf p.val) u) := by
  change execLinkLossClassify p s = _
  rw [execLinkLossClassify, h]
  simp only
  generalize setLink p.val _ (passTo t s) = u
  cases portUp u p.val <;> cases endMated u (endOf p.val) <;> rfl

section
variable {c : Fin 4} {m : SenseIn} {s : State} (hon : domOn s .d1 = true)
include hon

/-- While an overvoltage goes on, the level before debounce holds (log 133). -/
theorem exec_couplerSenseChange_of_overvolt (habove : m.above = true) (hover : (csSt s c.val).overvolt = true) :
    exec (.couplerSenseChange c m) s = .next (setCs c.val { csSt s c.val with res := m.res.toNat } s) := by
  have hgoes : (m.above && (csSt s c.val).overvolt) = true := by rw [habove, hover]; rfl
  have hkeep : { csSt s c.val with res := m.res.toNat, overvolt := true } = { csSt s c.val with res := m.res.toNat } := by rw [← hover]
  change execCouplerSenseChange c m s = _
  rw [execCouplerSenseChange, if_neg (by simp [hon])]
  simp only [hgoes]
  rw [← hkeep]; rfl

/-- Without an overvoltage that goes on, a settled level other than the logical state becomes it, and the end follows. -/
theorem exec_couplerSenseChange_of_new_level (hover : m.above = false ∨ (csSt s c.val).overvolt = false) (hsettled : m.settled = true)
    (hnew : senseLevel s m.res.toNat (csSt s c.val).closed ≠ (csSt s c.val).logical) :
    exec (.couplerSenseChange c m) s =
      let e := if c.val < 2 then End.fore else .aft
      let lv := senseLevel s m.res.toNat (csSt s c.val).closed
      let u := setCs c.val { csSt s c.val with res := m.res.toNat, closed := lv, overvolt := false } s
      .next (endFollow e (endCode u e) (setCs c.val { csSt u c.val with logical := lv } u)) := by
  have hends : (m.above && (csSt s c.val).overvolt) = false := Bool.and_eq_false_iff.mpr hover
  change execCouplerSenseChange c m s = _
  rw [execCouplerSenseChange, if_neg (by simp [hon])]
  simp only [hends]
  exact if_neg (by simp [hsettled, hnew])

end

theorem exec_senseErrorPersist_fore {s : State} {t : Nat} (h : s.ina.errFore = some t) :
    exec (.senseErrorPersist .fore) s = .next (raiseIrq 14 { passTo (t + fr) s with ina.foreFault := true, ina.errFore := none }) := by
  change execSenseErrorPersist .fore s = _
  rw [execSenseErrorPersist, h]

theorem exec_senseErrorPersist_aft {s : State} {t : Nat} (h : s.ina.errAft = some t) :
    exec (.senseErrorPersist .aft) s = .next (raiseIrq 14 { passTo (t + fr) s with ina.aftFault := true, ina.errAft := none }) := by
  change execSenseErrorPersist .aft s = _
  rw [execSenseErrorPersist, h]

/-! ### The duplicator's timers (R63, R65) -/

theorem exec_dupTxSrcEvict_of_used {m : Mac} {s : State} {r : TxSrc} (h : tfind s.net.tx m.toNat = some r) :
    exec (.dupTxSrcEvict m) s = .next { passTo (r.lastUse + 17 * rl) s with net.tx := tdel s.net.tx m.toNat } := by
  change execDupTxSrcEvict m s = _
  rw [execDupTxSrcEvict, h]
  simp only [passTo_net]

theorem exec_dupRxSrcForget_of_seen {m : Mac} {s : State} {r : RxSrc} (h : tfind s.net.rx m.toNat = some r) :
    exec (.dupRxSrcForget m) s = .next { passTo (r.lastSeen + 16 * rl) s with net.rx := tdel s.net.rx m.toNat } := by
  change execDupRxSrcForget m s = _
  rw [execDupRxSrcForget, h]
  simp only [passTo_net]

/-- Settles O3: the hypotheses of each clause pass its command's guards; a sense change turns on whether an overvoltage goes on. -/
theorem couplerAndDuplicatorComplete : Obligations.CouplerAndDuplicatorComplete := by
  refine ⟨?classify, ?newLevel, ?overvolt, ?errorFore, ?errorAft, ?txEvict, ?rxForget, ?supervision, ?drained⟩
  case classify => intro p s t ht; exact exec_linkLossClassify_of_armed ht
  case newLevel => rintro c m s hon ⟨hover, hsettled⟩ hnew; exact exec_couplerSenseChange_of_new_level hon hover hsettled hnew
  case overvolt => rintro c m s hon ⟨habove, hover⟩; exact exec_couplerSenseChange_of_overvolt hon habove hover
  case errorFore => intro s t ht; exact exec_senseErrorPersist_fore ht
  case errorAft => intro s t ht; exact exec_senseErrorPersist_aft ht
  case txEvict => intro m s r hr; exact exec_dupTxSrcEvict_of_used hr
  case rxForget => intro m s r hr; exact exec_dupRxSrcForget_of_seen hr
  case supervision => intro s; rfl
  case drained => intro s hoff hnone; exact if_neg (by simp [hoff, hnone])

end Sys2Proof.Machine
end

section
/-!
PROOFS. The supply, its bank and sag, the temperature, and the reads that clear peaks (R59, R304, R431 to R435, R441, R445, R475).
-/
namespace Sys2Proof.Machine

/-! ### What a measurement leaves as it was, and the bank (R432, R433) -/

@[simp] theorem takeSupply_node (m : Supply) (s : State) : (takeSupply m s).node = s.node := rfl

@[simp] theorem takeSupply_cpu (m : Supply) (s : State) : (takeSupply m s).cpu = s.cpu := rfl

@[simp] theorem takeSupply_pwr_sag (m : Supply) (s : State) : (takeSupply m s).pwr.sag = s.pwr.sag := rfl

@[simp] theorem takeSupply_pwr_holdupOn (m : Supply) (s : State) : (takeSupply m s).pwr.holdupOn = s.pwr.holdupOn := rfl

@[simp] theorem supplyHigh_takeSupply (m : Supply) (s : State) : supplyHigh m (takeSupply m s) = supplyHigh m s := rfl

theorem takeSupply_bankOk_iff {m : Supply} {s : State} : (takeSupply m s).pwr.bankOk = true ↔ 15000 < m.bank.toNat :=
  decide_eq_true_iff

theorem takeSupply_holdupLow_iff {m : Supply} {s : State} : (takeSupply m s).pwr.holdupLow = true ↔ m.bank.toNat < 6400 :=
  decide_eq_true_iff

/-! ### The bus (R434) -/

/-- In a node neither OFF nor ASLEEP, 9.5 V of the bus decides. -/
theorem exec_busLow_of_running {m : Supply} {s : State} (hoff : s.node ≠ .off) (hasleep : s.node ≠ .asleep) :
    exec (.busLow m) s = .next (if 9500 ≤ m.bus.toNat then takeSupply m s else resetNode 2 (takeSupply m s)) := by
  change execBusLow m s = _
  rw [execBusLow, if_neg (by simp [hoff, hasleep])]
  split <;> rfl

/-! ### Sag (R435) -/

theorem exec_sagBegin_of_new {input bus : Bool} {m : Supply} {s : State} (hnode : s.node ≠ .off)
    (hsags : (input && inputSags m s || bus && busSags m) = true) (hnew : s.pwr.sag = false) :
    exec (.sagBegin input bus m) s =
      let v := takeSupply m s
      let u := { v with pwr.sagInput := v.pwr.sagInput || input && inputSags m s, pwr.sagBus := v.pwr.sagBus || bus && busSags m }
      .next (storeStopped (fire 26 4 [if input && inputSags m s then 1 else 2] (bump 0x2040 (raiseIrq 15
        { u with pwr.sag := true, pwr.sagAt := u.up, log.lastWordsDone := false, log.lastWordsLost := false })))) := by
  change execSagBegin input bus m s = _
  simp only [execSagBegin, takeSupply_node, takeSupply_pwr_sag, hsags, hnode, hnew]
  rfl

theorem exec_sagEnd_of_low {m : Supply} {s : State} (hlow : supplyHigh m s = false) : exec (.sagEnd m) s = .next (takeSupply m s) :=
  if_pos (by simp [hlow])

/-- Above both limits the sag ends, and without an image held back nothing else is done. -/
theorem exec_sagEnd_of_high {m : Supply} {s : State} (hsag : s.pwr.sag = true) (himage : s.cpu.imageWait = none)
    (hhigh : supplyHigh m s = true) :
    exec (.sagEnd m) s =
      let u := takeSupply m s
      .next (raiseFuse (raiseIrq 15 { u with pwr.sag := false, pwr.sagInput := false, pwr.sagBus := false, cpu.imageWait := none })) := by
  change execSagEnd m s = _
  simp only [execSagEnd, takeSupply_pwr_sag, takeSupply_cpu, supplyHigh_takeSupply, hsag, hhigh, himage]
  rfl

/-! ### Temperature (R445) -/

/-- The first temperature out of -55 to 125 °C fires TEMP. -/
theorem takeTemp_of_first_out {t : BitVec 16} {s : State} (hnew : s.pwr.tempOut = false) (hout : t.toInt < -110 ∨ 250 < t.toInt) :
    takeTemp t s = fire 30 4 (beBytes 2 t.toNat) { setTemp t.toInt s with pwr.tempOut := true } := by
  have hnew' : (setTemp t.toInt s).pwr.tempOut = false := hnew
  exact if_pos (by simp [hout, hnew'])

theorem takeTemp_node (t : BitVec 16) (s : State) : (takeTemp t s).node = s.node := (takeTemp_touches ..).node.resolve_left (by decide)

theorem exec_thermalFault_of_hot {t : BitVec 16} {s : State} (hoff : s.node ≠ .off) (hfault : s.node ≠ .fault) (hhot : 270 < t.toInt) :
    exec (.thermalFault t) s = .next (enterFault (bump 0x204C { takeTemp t s with pwr.thermal := true })) := by
  change execThermalFault t s = _
  rw [execThermalFault, if_neg (by simp [hoff, hhot])]
  exact if_neg (by rw [takeTemp_node]; exact hfault)

/-! ### Reads that clear peaks (R441, R475) -/

section
variable {who : Requester} {s : State} (h : reaches s who = true)
include h

theorem exec_tempStatusRead : exec (.tempStatusRead who) s = .next { emit (.readData who 0x2018 (tempWord s)) s with pwr.tempMax := none } :=
  if_neg (by simp [h])

theorem exec_loopStatusRead (k : Fin 8) :
    exec (.loopStatusRead who k) s =
      .next (setLoop k.val { loopSt s k.val with hi := 0, lo := 0 } (emit (.readData who (0x2104 + 0x10 * k.val) (loopWord s k.val)) s)) :=
  if_neg (by simp [h])

theorem exec_eqStatusRead (p : Fin 4) :
    exec (.eqStatusRead who p) s =
      .next (setLink p.val { linkSt s p.val with marginMin := none } (emit (.readData who (prt p.val 0x0C) (eqStatusWord s p.val)) s)) :=
  if_neg (by simp [h])

end

/-- Settles O17: the hypotheses of each clause pass its command's guards, which a measurement taken first leaves as they are. -/
theorem supplyComplete : Obligations.SupplyComplete := by
  refine ⟨?close, ?closeWithInput, ?open_, ?bankOk, ?holdupLow, ?bank, ?busLow, ?busHigh, ?lost, ?sagBegin, ?sagEnd, ?sagGoesOn,
    ?tempExcursion, ?thermalFault, ?tempRead, ?loopRead, ?eqRead⟩
  case close =>
    rintro m s ⟨hopen, hnode⟩ hlow
    exact if_neg (by simp [hopen, hnode, hlow])
  case closeWithInput => intro m s hhigh; exact if_pos (by simp [hhigh])
  case open_ => intro m s hhigh; exact if_neg (Nat.not_le_of_lt hhigh)
  case bankOk => intro m s; rfl
  case holdupLow => intro m s; rfl
  case bank => intro m s; exact ⟨takeSupply_bankOk_iff, takeSupply_holdupLow_iff⟩
  case busLow => rintro m s ⟨hoff, hasleep⟩ hlow; rw [exec_busLow_of_running hoff hasleep, if_neg (Nat.not_le_of_lt hlow)]
  case busHigh => rintro m s ⟨hoff, hasleep⟩ hhigh; rw [exec_busLow_of_running hoff hasleep, if_pos hhigh]
  case lost => intro s; rfl
  case sagBegin => rintro input bus m s ⟨hnode, hsags, hnew⟩; exact exec_sagBegin_of_new hnode hsags hnew
  case sagEnd => rintro m s ⟨hsag, himage, hhigh⟩; exact exec_sagEnd_of_high hsag himage hhigh
  case sagGoesOn => rintro m s ⟨-, hlow⟩; exact exec_sagEnd_of_low hlow
  case tempExcursion =>
    rintro t s ⟨hnode, hnew⟩ hout
    exact (if_neg hnode).trans (congrArg Host.Outcome.next (takeTemp_of_first_out hnew hout))
  case thermalFault => rintro t s ⟨hoff, hfault, hhot⟩; exact exec_thermalFault_of_hot hoff hfault hhot
  case tempRead => intro who s hs; exact exec_tempStatusRead hs
  case loopRead => intro who k s hs; exact exec_loopStatusRead hs k
  case eqRead => intro who p s hs; exact exec_eqStatusRead hs p

end Sys2Proof.Machine
end

section
/-!
PROOFS. Removal warnings and the exit path (R56, R59, R458 to R460, R462, R463).
-/
namespace Sys2Proof.Machine

/-! ### Removal warnings (R59, R458) -/

/-- In DAWN, JOINING, MEMBER or DUSK a warning starts the exit path. -/
theorem warn_of_running {src : Nat} {s : State} (hoff : s.node ≠ .off) (hexit : s.node ≠ .exit) (hasleep : s.node ≠ .asleep)
    (hfault : s.node ≠ .fault) (hsafe : s.hpl.safeToRemove = false) :
    warn src s =
      let u := { s with hpl.warn := true, hpl.warnSrc := src, hpl.warnAt := s.up }
      startExit (fire 27 4 [] (raiseIrq 17 (bump 0x3040 u))) := by
  rw [warn, if_neg hoff, if_neg (by simp [hexit, hsafe])]
  dsimp only
  split
  · next hn => exact absurd (by simpa using hn) hasleep
  · next hn => exact absurd (by simpa using hn) hfault
  · rfl

/-- Without an earlier warning the contacts that open release both relays at once. -/
theorem exec_seatedOpen_of_unwarned {s : State} (hoff : s.node ≠ .off) (hexit : s.node ≠ .exit) (hsafe : s.hpl.safeToRemove = false) :
    exec (.seatedOpen true) s = .next (releaseBoth { s with hpl.seatedHv := false, hpl.lockedFrom := none, hpl.warnSrc := 4 }) :=
  if_neg (by simp [hoff, hexit, hsafe])

/-! ### The exit path (Table 18.4), the host hold (R463) and the cancel (R459) -/

theorem exec_relDoneTimer_of_releasing {s : State} {t : Nat} (hseq : s.bb.seq = .relDone t) (hnode : s.node = .exit)
    (hexit : s.hpl.exit = .releasing) :
    exec .relDoneTimer s = .next (exitReleased { passTo t s with bb.seq := .none, bb.relDone := true }) := by
  change execRelDoneTimer s = _
  rw [execRelDoneTimer, hseq]
  exact if_pos (by simp [hnode, hexit])

theorem exitDrained_of_empty {s : State} {t : Nat} (h : s.hpl.recDrainBy = some t) (hq : s.log.queue.isEmpty = true) :
    exitDrained s = reachSafe s :=
  if_pos (by rw [h, hq]; rfl)

/-- Where the recorder has drained, the limit is not waited for. -/
theorem exec_recorderDrainLimit_of_armed {s : State} {t : Nat} (h : s.hpl.recDrainBy = some t) :
    exec .recorderDrainLimit s = .next (if s.log.queue.isEmpty then reachSafe s else reachSafe (passTo t s)) := by
  change execRecorderDrainLimit s = _
  rw [execRecorderDrainLimit, h]
  by_cases hq : s.log.queue.isEmpty = true
  · rw [if_pos hq, ← exitDrained_of_empty h hq]
    exact if_pos hq
  · rw [if_neg hq]
    exact if_neg hq

theorem exec_hostDone_of_hold {s : State} (hs : reaches s .host = true) (hhold : s.hpl.hostHold = true) :
    exec .hostDone s = .next (endHostHold s) :=
  (if_pos hs).trans (congrArg Host.Outcome.next (if_pos hhold))

theorem exec_hostHoldExpiry_of_armed {s : State} {t : Nat} (h : s.hpl.hostHoldBy = some t) :
    exec .hostHoldExpiry s = .next (endHostHold (passTo t s)) := by
  change execHostHoldExpiry s = _
  rw [execHostHoldExpiry, h]

theorem exec_exitCancel_of_locked {s : State} {t : Nat} (hlocked : s.hpl.lockedFrom = some t) (hexit : s.hpl.exit = .hostGone) :
    exec .exitCancel s = .next (resetNode 7 (passTo (t + 16 * fr) s)) := by
  change execExitCancel s = _
  rw [execExitCancel, hlocked]
  exact if_neg (by simp [hexit])

/-! ### Resets that the host asks for (R459, R462) -/

theorem askReset_of_member {s : State} (c : ResetCause) (h : s.node = .member) :
    askReset c s = startExit { s with hpl.resetAsked := some c } := by
  rw [askReset, h]

/-- What the reset of the endpoint closes leaves the exit path as it was. -/
theorem endpointReset_after_close_hpl (sel : Op → Bool) (s : State) :
    (endpointReset (fencesGoOn (forceClose sel s))).hpl = s.hpl := by
  calc (endpointReset (fencesGoOn (forceClose sel s))).hpl
      = (fencesGoOn (forceClose sel s)).hpl := (endpointReset_touches ..).hpl.resolve_left (by decide)
    _ = (forceClose sel s).hpl := (fencesGoOn_touches ..).hpl.resolve_left (by decide)
    _ = s.hpl := (forceClose_touches ..).hpl.resolve_left (by decide)

theorem exec_pcieReset_without_hold {s : State} (hon : domOn s .d12 = true) (hhold : s.hpl.hostHold = false) :
    exec .pcieReset s =
      let u := endpointReset (fencesGoOn (forceClose (fun o => o.who = .host) s))
      .next { u with hpl.noHold := u.hpl.noHold || u.node = .exit } := by
  change execPcieReset s = _
  rw [execPcieReset, if_neg (by simp [hon])]
  exact if_neg (by simp [endpointReset_after_close_hpl, hhold])

/-- Settles O20: the hypotheses of each clause pass its command's guards; the warnings go by warn_of_running. -/
theorem exitPathCompletes : Obligations.ExitPathCompletes := by
  refine ⟨?ejectOpen, ?ejectClose, ?exitReq, ?seatedOpen, ?releaseStart, ?relDone, ?drainLimit, ?hostDone, ?holdExpiry, ?exitCancel,
    ?resetRequest, ?pcieReset⟩
  case ejectOpen =>
    rintro s ⟨hoff, hexit, hasleep, hfault, hsafe⟩
    exact congrArg Host.Outcome.next (warn_of_running hoff hexit hasleep hfault hsafe)
  case ejectClose => intro s hnode; exact if_neg hnode
  case exitReq =>
    rintro s ⟨hs, hoff, hexit, hasleep, hfault, hsafe⟩
    exact (if_pos (by simp [hs])).trans (congrArg Host.Outcome.next (warn_of_running hoff hexit hasleep hfault hsafe))
  case seatedOpen => rintro s ⟨hoff, hexit, hsafe⟩; exact exec_seatedOpen_of_unwarned hoff hexit hsafe
  case releaseStart => rintro s ⟨hnode, hwarned⟩; exact if_neg (by simp [hnode, hwarned])
  case relDone => rintro s t ⟨hseq, hnode, hexit⟩; exact exec_relDoneTimer_of_releasing hseq hnode hexit
  case drainLimit => intro s t ht; exact exec_recorderDrainLimit_of_armed ht
  case hostDone => rintro s ⟨hs, hhold⟩; exact exec_hostDone_of_hold hs hhold
  case holdExpiry => intro s t ht; exact exec_hostHoldExpiry_of_armed ht
  case exitCancel => rintro s t ⟨hlocked, hexit⟩; exact exec_exitCancel_of_locked hlocked hexit
  case resetRequest =>
    rintro s ⟨hs, hmember⟩
    exact (if_pos (by simp [hs])).trans (congrArg Host.Outcome.next (askReset_of_member .host hmember))
  case pcieReset => rintro s ⟨hon, hhold⟩; exact exec_pcieReset_without_hold hon hhold

end Sys2Proof.Machine
end

section
/-!
PROOFS. The junctions: NEIGHBOUR, TTDP and RECORD (R83, R84, R91, R95, R109, R110).
-/
namespace Sys2Proof.Machine

section
variable {p : Fin 4} {s : State} (hup : portUp s p.val = true)
include hup

theorem exec_neighbourSendTimer_of_native (hnative : (nbSt s p.val).legacy = false) :
    exec (.neighbourSendTimer p) s = .next (neighbourSend p.val (passTo ((nbSt s p.val).sentAt + neighbourTicks s p.val) s)) :=
  if_neg (by simp [hup, hnative])

theorem exec_neighbourPartnerTimeout_of_partner (hheard : (nbSt s p.val).heard = true) (hnative : (nbSt s p.val).legacy = false)
    (hgone : (nbSt s p.val).gone = false) :
    exec (.neighbourPartnerTimeout p) s =
      let u := passTo ((nbSt s p.val).lastAt + 3 * cfg s 0x240A 0 * fr) s
      .next (recordChanged (setNb p.val { nbSt u p.val with gone := true } u)) :=
  if_neg (by simp [hup, hheard, hnative, hgone])

/-- HELLO makes a legacy partner where no NEIGHBOUR has been heard and the junction has a link-up to count 1 fr from (R95, R109). -/
theorem exec_ttdpHelloReceive_of_unheard (mac : Mac) {t : Nat} (hnative : (linkSt s p.val).native = false)
    (hallow : cfgOn s 0x2420 0 = true) (hunheard : ((nbSt s p.val).heard && !(nbSt s p.val).legacy) = false)
    (hjunction : junctionUp s (endOf p.val) = some t) :
    exec (.ttdpHelloReceive p mac) s =
      let u := passTo (t + fr) s
      .next (legacyCheck (recordChanged (setNb p.val
        { nbSt u p.val with legacy := true, heard := true, partner := some mac, lastAt := u.up } u))) := by
  change execTtdpHelloReceive p mac s = _
  have hguard : (!portUp s p.val || (linkSt s p.val).native || !cfgOn s 0x2420 0
      || ((nbSt s p.val).heard && !(nbSt s p.val).legacy)) = false := by
    rw [hunheard]; simp [hup, hnative, hallow]
  simp only [execTtdpHelloReceive, hguard, hjunction]
  rfl

theorem exec_ttdpHelloSend_of_legacy (hlegacy : (nbSt s p.val).legacy = true) (hallow : cfgOn s 0x2420 0 = true) :
    exec (.ttdpHelloSend p) s =
      .next (pairSend p.val { dst := linkLocalMac, src := s.baseMac + BitVec.ofNat 48 p.val, etherType := etLldp } s) :=
  if_neg (by simp [hup, hlegacy, hallow])

end

/-! ### Collection in LEGACY (R110) -/

section
variable {s : State} (hst : s.ina.st = .legacy)
include hst

/-- A topology other than the one held is collected, whether or not a proposal or a quiet time of the old one stands. -/
theorem exec_ttdpTopologyReceive_of_own_counter {numbering : List (Uid × Bool × Bool)}
    (hnew : s.ina.etb ≠ Config.etbCounter numbering ∨ s.ina.ttdp ≠ numbering) :
    exec (.ttdpTopologyReceive (Config.etbCounter numbering) numbering) s =
      .next (collect { s with ina.etb := Config.etbCounter numbering, ina.ttdp := numbering, ina.etbSame := true }) := by
  have hheld : ¬ (s.ina.etb = Config.etbCounter numbering ∧ s.ina.ttdp = numbering) := fun ⟨he, ht⟩ =>
    hnew.elim (absurd he) (absurd ht)
  change execTtdpTopologyReceive _ _ s = _
  rw [execTtdpTopologyReceive, if_neg (not_not_intro hst), if_neg (not_not_intro rfl)]
  refine if_neg fun h => hheld ?_
  simp only [Bool.and_eq_true, decide_eq_true_eq] at h
  obtain ⟨⟨⟨-, he⟩, ht⟩, -⟩ := h
  exact ⟨he, ht⟩

theorem exec_ttdpTopologyReceive_of_other_counter {etb : Word} {numbering : List (Uid × Bool × Bool)}
    (hetb : etb ≠ Config.etbCounter numbering) :
    exec (.ttdpTopologyReceive etb numbering) s =
      .next (collect { s with ina.etb := Config.etbCounter numbering, ina.ttdp := numbering, ina.etbSame := false }) :=
  (if_neg (not_not_intro hst)).trans (if_pos hetb)

theorem quietRuns_of_legacy : quietRuns s = s.ina.etbSame := if_pos hst

theorem collect_st_of_legacy : (collect s).ina.st = .legacy := if_pos hst

end

theorem collect_quietAt_of_not_quietRuns {s : State} (h : quietRuns s = false) : (collect s).ina.quietAt = none :=
  if_neg (by simp [h])

/-! ### Records (R84) -/

theorem exec_recordForget_of_held {u : Uid} {s : State} {h : HeldRec} (hheld : s.ina.recs.find? (fun h => h.rec_.uid = u) = some h) :
    exec (.recordForget u) s =
      let v := passTo (h.at_ + 3 * cfg s 0x240B 0 * fr) s
      let w := { v with ina.recs := v.ina.recs.filter (fun x => x.rec_.uid ≠ u) }
      .next (if (chain v).1.any (fun r => r.uid = u) then chainChanged w else legacyCheck w) := by
  change execRecordForget u s = _
  rw [execRecordForget, hheld]

/-- Settles O6: the hypotheses of each clause pass its command's guards; in LEGACY a collection's quiet time goes by etbSame. -/
theorem junctionMessagesComplete : Obligations.JunctionMessagesComplete := by
  refine ⟨?sendTimer, ?neighbour, ?partnerTimeout, ?hello, ?helloSend, ?newTopology, ?otherCounter, ?legacyCollection, ?record, ?refresh,
    ?forget⟩
  case sendTimer => rintro p s ⟨hup, hnative⟩; exact exec_neighbourSendTimer_of_native hup hnative
  case neighbour => exact fun _ _ _ => rfl
  case partnerTimeout =>
    rintro p s ⟨hup, hheard, hnative, hgone⟩
    exact exec_neighbourPartnerTimeout_of_partner hup hheard hnative hgone
  case hello =>
    rintro p mac s t ⟨hup, hnative, hallow⟩ ⟨hunheard, hjunction⟩
    exact exec_ttdpHelloReceive_of_unheard hup mac hnative hallow hunheard hjunction
  case helloSend => rintro p s ⟨hup, hlegacy, hallow⟩; exact exec_ttdpHelloSend_of_legacy hup hlegacy hallow
  case newTopology => intro numbering s hst hnew; exact exec_ttdpTopologyReceive_of_own_counter hst hnew
  case otherCounter => rintro etb numbering s ⟨hst, hetb⟩; exact exec_ttdpTopologyReceive_of_other_counter hst hetb
  case legacyCollection =>
    rintro s ⟨hst, hsame⟩
    exact ⟨collect_st_of_legacy hst, collect_quietAt_of_not_quietRuns ((quietRuns_of_legacy hst).trans hsame)⟩
  case record => exact fun _ _ _ => rfl
  case refresh => exact fun _ => rfl
  case forget => intro u s h hheld; exact exec_recordForget_of_held hheld

end Sys2Proof.Machine
end

section
/-!
PROOFS. The waits of the inauguration, and INHIBIT (R85, R91, R96, R98, R104, R106).
-/
namespace Sys2Proof.Machine

theorem portUp_of_bb {s s' : State} (h : s'.bb = s.bb) : portUp s' = portUp s := by
  funext p
  rw [portUp, portUp, linkSt, linkSt, h]

section
variable {s : State} {t : Nat}

theorem exec_settleTimeExpiry_of_armed (h : s.ina.settleBy = some t) : exec .settleTimeExpiry s = .next (endSettle (passTo t s)) := by
  change execSettleTimeExpiry s = _
  rw [execSettleTimeExpiry, h]

theorem exec_quietTimeExpiry_of_armed (h : s.ina.quietAt = some t) (hst : s.ina.st = .collect ∨ s.ina.st = .legacy) :
    exec .quietTimeExpiry s = .next (decideProposal { passTo t s with ina.quietAt := none }) := by
  change execQuietTimeExpiry s = _
  rw [execQuietTimeExpiry, h]
  refine if_neg ?_
  rw [Bool.and_eq_true, decide_eq_true_eq, decide_eq_true_eq]
  exact fun ⟨hcollect, hlegacy⟩ => hst.elim hcollect hlegacy

theorem exec_uncouplingWaitExpiry_fore (h : s.ina.lossFore = some t) :
    exec (.uncouplingWaitExpiry .fore) s = .next (lossRecognised .fore (passTo t s)) := by
  change execUncouplingWaitExpiry .fore s = _
  simp only [execUncouplingWaitExpiry, h]

theorem exec_uncouplingWaitExpiry_aft (h : s.ina.lossAft = some t) :
    exec (.uncouplingWaitExpiry .aft) s = .next (lossRecognised .aft (passTo t s)) := by
  change execUncouplingWaitExpiry .aft s = _
  simp only [execUncouplingWaitExpiry, h]

/-- Time that passes brings neither a port UP nor a node out of JOINING: the node's own Call Sheet decides. -/
theorem exec_joinWaitExpiry_of_alone {x : Sheet} (h : s.ina.joinWaitBy = some t) (hjoining : s.node = .joining)
    (hdown : (List.range 4).any (portUp s) = false) (hsheet : aloneSheet { passTo t s with ina.joinWaitBy := none } = some x) :
    exec .joinWaitExpiry s =
      let u := { passTo t s with ina.joinWaitBy := none }
      .next (activateSheet { x with instant := u.now } false u) := by
  have hports : portUp { passTo t s with ina.joinWaitBy := none } = portUp s := portUp_of_bb (passTo_bb t s)
  have hwaits : ¬ (({ passTo t s with ina.joinWaitBy := none } : State).node ≠ .joining
      || (List.range 4).any (portUp { passTo t s with ina.joinWaitBy := none })) = true := by
    rw [hports, hdown, passTo_node, hjoining]; decide
  change execJoinWaitExpiry s = _
  rw [execJoinWaitExpiry, h]
  refine (if_neg hwaits).trans ?_
  rw [hsheet]

end

/-- Settles O7: the hypotheses of each clause arm its command's timer; the join wait turns on what time leaves as it was. -/
theorem collectionCompletes : Obligations.CollectionCompletes := by
  refine ⟨?settle, ?quiet, ?fore, ?aft, ?join, ?inhibit⟩
  case settle => intro s t ht; exact exec_settleTimeExpiry_of_armed ht
  case quiet => intro s t ht hst; exact exec_quietTimeExpiry_of_armed ht hst
  case fore => intro s t ht; exact exec_uncouplingWaitExpiry_fore ht
  case aft => intro s t ht; exact exec_uncouplingWaitExpiry_aft ht
  case join => rintro s t x ht ⟨hjoining, hdown⟩ hsheet; exact exec_joinWaitExpiry_of_alone ht hjoining hdown hsheet
  case inhibit => intro v s hs; exact if_pos hs

end Sys2Proof.Machine
end

section
/-!
PROOFS. The coordinator of a take (R93, R332, R334).
-/
namespace Sys2Proof.Machine

/-- What voteIn does with a vote for the user take that this node coordinates, from a member it asked (R332). -/
theorem voteIn_of_user {src : Uid} {m : TakeMsg} {s : State} (hcoord : m.coord = s.uid) (hkind : m.kind = 1)
    (hown : s.tak.user.isCoord = true) (hprepared : s.tak.user.state = .prepared) (hnum : s.tak.user.num = m.num)
    (hasked : s.tak.user.members.contains src = true) :
    voteIn src m s =
      if m.vote = 2 then coordScrap 1 7 s
      else if m.vote = 1 ∧ s.now.toNat ≤ s.tak.user.voteBy.toNat then
        userPrintIfAll { s with tak.user.votes := src :: s.tak.user.votes.filter (· ≠ src) }
      else s := by
  have hpass : (s.tak.user.isCoord && s.tak.user.state = .prepared && s.tak.user.num = m.num && s.tak.user.members.contains src) = true := by
    rw [hown, hasked]; simp [hprepared, hnum]
  rw [voteIn, if_neg (not_not_intro hcoord), if_pos hkind, if_neg (by rw [hpass]; decide)]
  simp only [Bool.and_eq_true, decide_eq_true_eq]

section
variable {s : State}

theorem exec_takePrintRepeat_of_printed (hown : s.tak.user.isCoord = true) (hprinted : s.tak.user.state = .printed)
    (hbefore : (nextSend s.tak.user.sentAt s).now.toNat < s.tak.user.instant.toNat) :
    exec (.takePrintRepeat .user) s =
      let u := nextSend s.tak.user.sentAt s
      .next (takeGroup 0x22 { kind := 1, coord := s.uid, num := s.tak.user.num, instant := s.tak.user.instant }
        { u with tak.user.sentAt := u.up }) :=
  if_pos (by simp [hown, hprinted, hbefore])

theorem exec_takeScrapRepeat_of_left {x : ScrapRun} (h : s.tak.userScrap = some x) :
    exec (.takeScrapRepeat .user) s =
      let u := nextSend x.sentAt s
      .next (scrapAgain x { u with tak.userScrap := scrapLeft u.up x }) := by
  change execTakeScrapRepeat .user s = _
  rw [execTakeScrapRepeat, h]

theorem exec_takeOutcomeExpiry_of_kept {kind : Fin 4} {coord : Uid} {num : Word} {o : Outcome}
    (h : s.tak.outcomes.find? (fun o => o.kind = kind.val && o.coord = coord && o.num = num) = some o) :
    exec (.takeOutcomeExpiry kind coord num) s =
      let u := passTo (o.at_ + 16 * rl) s
      .next { u with tak.outcomes := u.tak.outcomes.filter (fun o => !(o.kind = kind.val && o.coord = coord && o.num = num)) } := by
  change execTakeOutcomeExpiry kind coord num s = _
  simp only [execTakeOutcomeExpiry, h]

end

/-- Settles O25: a vote goes by voteIn_of_user; the other hypotheses pass their commands' guards. -/
theorem takeCoordinatorCompletes : Obligations.TakeCoordinatorCompletes := by
  refine ⟨?yes, ?no, ?userWindow, ?sysWindow, ?printRepeat, ?scrapRepeat, ?outcome⟩
  case yes =>
    rintro src m s ⟨hcoord, hkind, hown, hprepared, hnum, hasked⟩ ⟨hvote, hby⟩
    refine congrArg Host.Outcome.next ((voteIn_of_user hcoord hkind hown hprepared hnum hasked).trans ?_)
    rw [if_neg (by simp [hvote]), if_pos ⟨hvote, hby⟩]
  case no =>
    rintro src m s ⟨hcoord, hkind, hown, hprepared, hnum, hasked⟩ hvote
    exact congrArg Host.Outcome.next ((voteIn_of_user hcoord hkind hown hprepared hnum hasked).trans (if_pos hvote))
  case userWindow => rintro s ⟨hown, hprepared⟩; exact if_pos (by simp [hown, hprepared])
  case sysWindow => rintro s ⟨hown, hprepared⟩; exact if_pos (by simp [hown, hprepared])
  case printRepeat => rintro s ⟨hown, hprinted, hbefore⟩; exact exec_takePrintRepeat_of_printed hown hprinted hbefore
  case scrapRepeat => intro x s hx; exact exec_takeScrapRepeat_of_left hx
  case outcome => intro kind coord num o s ho; exact exec_takeOutcomeExpiry_of_kept ho

end Sys2Proof.Machine
end

section
/-!
PROOFS. The instants of takes, Call Sheets and DUSK (R99, R322, R325, R327, R352, R353).
-/
namespace Sys2Proof.Machine

theorem exec_duskInstant_of_dusk {s : State} {t : Instant} (h : s.wak.duskAt = some t) (hdusk : s.node = .dusk) :
    exec .duskInstant s =
      let u := if s.wak.duskOneOff then s else releaseSecond (passToInstant (t - BitVec.ofNat 64 (8 * fr)) s)
      .next (duskInstant (userDue t (passToInstant t u))) := by
  change execDuskInstant s = _
  rw [execDuskInstant, h]
  exact if_neg (not_not_intro hdusk)

/-- Settles O26: the hypotheses of each clause pass its command's guards. -/
theorem takeInstantsComplete : Obligations.TakeInstantsComplete := by
  refine ⟨?apply, ?idle, ?callSheet, ?dusk⟩
  case apply => intro s hprinted; exact if_neg (not_not_intro hprinted)
  case idle => intro s hopen; exact if_neg (not_not_intro hopen)
  case callSheet => rintro s ⟨hkind, hprinted⟩; exact if_neg (by simp [hkind, hprinted])
  case dusk => rintro t s ⟨hat, hdusk⟩; exact exec_duskInstant_of_dusk hat hdusk

end Sys2Proof.Machine
end

section
/-!
PROOFS. Flow control: what ends at a MAC, PAUSE with its timers and its watchdog, and the stop of a MAC (R120, R122,
R124 to R129).
-/
namespace Sys2Proof.Machine

/-! ### A whole frame ends at a MAC (R120, R125) -/

@[simp] theorem cfg_countMac (p i n : Nat) (s : State) (a b : Nat) : cfg (countMac p i n s) a b = cfg s a b :=
  cfg_of_od ((countMac_touches ..).od.resolve_left (by decide)) a b

@[simp] theorem cfg_countRx (p : Nat) (f : Frame) (s : State) (a b : Nat) : cfg (countRx p f s) a b = cfg s a b :=
  cfg_of_od ((countRx_touches ..).od.resolve_left (by decide)) a b

@[simp] theorem secMode_countMac (p i n j : Nat) (s : State) : secMode (countMac p i n s) j = secMode s j := by
  rw [secMode, secMode, cfg_countMac]

/-- Reassembly passes an express frame: it ends at the MAC as it is. -/
theorem frameEnds_of_express {p : Nat} {f : Frame} {r : RxInfo} {s : State} (h : r.mm = .express) :
    frameEnds p f r s = frameReceive p { f with sec := none } r s := by
  simp [frameEnds, ofAwaited, reassemble, h]

theorem macReceive_of_enabled {p : Nat} {f : Frame} {r : RxInfo} {s : State} (hup : portUp s p = true) (hrx : rxEnabled s p = true)
    (hexpress : r.mm = .express) : macReceive p f r s = frameReceive p { f with sec := none } r s := by
  rw [macReceive, if_neg (by simp [hup]), if_pos hrx, frameEnds_of_express hexpress]

section
variable {p : Nat} {f : Frame} {r : RxInfo} {s : State} (hcode : r.codeErr = false) (hmin : 64 ≤ f.len) (hmax : f.len ≤ rxLimit s p f)
include hcode hmin hmax

/-- A good frame of legal length on a port without MACsec is counted, and its kind decides what it does (R120, R125, R355). -/
theorem frameReceive_of_good (hgood : r.fcs = .good) (hfull : r.full = false)
    (hroom : memoryFull (countMac p 23 f.len s) p f = false) (hplain : secMode s p = 0) :
    frameReceive p f r s =
      let u := countRx p f (countMac p 23 f.len s)
      if 4 ≤ p && f.rct.isSome then bump 0xB0034 u
      else if f.etherType = etMacCtrl then macControlIn p f u
      else if 4 ≤ p && f.dst.toNat = cfg u 0x2912 0 then keepAlive p u
      else frameIn p 0 f u := by
  simp [frameReceive, secReceive, hcode, hgood, hfull, hroom, hplain, Nat.not_lt.mpr hmin, Nat.not_lt.mpr hmax]

theorem frameReceive_of_bad (hbad : r.fcs ≠ .good) :
    frameReceive p f r s = badIn p 1 f (countMac p (if r.fcs = .marked then 20 else 19) 1 (countMac p 23 f.len s)) := by
  simp [frameReceive, hcode, hbad, Nat.not_lt.mpr hmin, Nat.not_lt.mpr hmax]

/-- A good frame that is data on its port enters the node unmarked: it ends in no trailer, and is no control or keep-alive frame. -/
theorem frameReceive_of_data (hgood : r.fcs = .good) (hfull : r.full = false)
    (hroom : memoryFull (countMac p 23 f.len s) p f = false) (hplain : secMode s p = 0) (htrailer : 4 ≤ p → f.rct = none)
    (hcontrol : f.etherType ≠ etMacCtrl) (halive : 4 ≤ p → f.dst.toNat ≠ cfg s 0x2912 0) :
    frameReceive p f r s = frameIn p 0 f (countRx p f (countMac p 23 f.len s)) := by
  rw [frameReceive_of_good hcode hmin hmax hgood hfull hroom hplain]
  simp only [cfg_countRx, cfg_countMac]
  rw [if_neg (by simpa using htrailer), if_neg hcontrol, if_neg (by simpa using halive)]

end

theorem exec_macFrameReceive_of_enabled {p : Fin 17} {f : Frame} {r : RxInfo} {s : State} (hup : portUp s p.val = true)
    (hrx : rxEnabled s p.val = true) (hexpress : r.mm = .express) :
    exec (.macFrameReceive p f r) s = .next (frameReceive p.val { f with sec := none } r s) :=
  congrArg Host.Outcome.next (macReceive_of_enabled hup hrx hexpress)

/-! ### A PAUSE frame (R125) -/

/-- The PAUSE frame that PAUSE_RECEIVE brings: opcode 1 and its time. -/
def pauseFrame (time : Nat) : Frame :=
  { dst := 0x0180C2000001, etherType := etMacCtrl, payload := beBytes 2 1 ++ beBytes 2 time, len := 64 }

theorem pauseFrame_opcode (time : Nat) : beNat ((pauseFrame time).payload.take 2) = 1 := by
  rw [pauseFrame, List.take_left' (beBytes_length 2 1)]
  exact (beNat_beBytes 2 1).trans (Nat.mod_eq_of_lt (by decide))

theorem pauseFrame_time (time : BitVec 16) : beNat (((pauseFrame time.toNat).payload.drop 2).take 2) = time.toNat := by
  rw [pauseFrame, List.drop_left' (beBytes_length 2 1), List.take_of_length_le (Nat.le_of_eq (beBytes_length 2 _))]
  exact (beNat_beBytes 2 time.toNat).trans (Nat.mod_eq_of_lt time.isLt)

theorem macControlIn_pauseFrame (p : Nat) (time : BitVec 16) (s : State) :
    macControlIn p (pauseFrame time.toNat) s = pauseIn p time.toNat s := by
  rw [macControlIn, pauseFrame_opcode, pauseFrame_time]
  exact if_pos (by simp)

theorem exec_pauseReceive_of_plain {p : Fin 17} (time : BitVec 16) {s : State} (hup : portUp s p.val = true)
    (hrx : rxEnabled s p.val = true) (hlimit : 64 ≤ rxLimit s p.val (pauseFrame time.toNat)) (hplain : secMode s p.val = 0)
    (hroom : memoryFull (countMac p.val 23 64 s) p.val (pauseFrame time.toNat) = false) :
    exec (.pauseReceive p time) s =
      .next (pauseIn p.val time.toNat (countRx p.val (pauseFrame time.toNat) (countMac p.val 23 64 s))) := by
  have hreceive := frameReceive_of_good (r := {}) (f := pauseFrame time.toNat) rfl (Nat.le_refl 64) hlimit rfl rfl hroom hplain
  change Host.Outcome.next (macReceive p.val (pauseFrame time.toNat) {} s) = _
  refine congrArg Host.Outcome.next ((macReceive_of_enabled hup hrx rfl).trans (hreceive.trans ?_))
  exact (if_neg (by simp [pauseFrame])).trans ((if_pos rfl).trans (macControlIn_pauseFrame ..))

/-! ### The frame on the wire -/

theorem exec_transmitUnderrun_of_onWire {p : Fin 17} {s : State} {w : Wire} (h : onWire s p.val = some w) :
    exec (.transmitUnderrun p) s =
      .next (if w.q.mark = 2 ∧ w.startAt + octetTicks s p.val (w.q.frame.len + 4) ≤ s.up then s
        else wireMark p.val (countMac p.val 47 1 s)) := by
  change execTransmitUnderrun p s = _
  simp only [execTransmitUnderrun, h]
  by_cases hended : w.q.mark = 2 ∧ truncatedAt s p.val w ≤ s.up
  · exact (if_pos (by simpa using hended)).trans (congrArg Host.Outcome.next (if_pos hended).symm)
  · exact (if_neg (by simpa using hended)).trans (congrArg Host.Outcome.next (if_neg hended).symm)

/-! ### The timers of PAUSE, and its watchdog (R124, R126, R128) -/

section
variable {p : Fin 17} {s : State} {t : Nat}

theorem exec_pauseTimerExpiry_of_armed (h : (macSt (settleWire p.val s) p.val).pauseUntil = some t) :
    exec (.pauseTimerExpiry p) s = .next (pauseEnd p.val (passTo t (settleWire p.val s))) := by
  change execPauseTimerExpiry p s = _
  simp only [execPauseTimerExpiry, h]

/-- A MAC that may no longer send PAUSE sends none, and XOFF ends; one that may repeats XOFF above the XON threshold (R124). -/
theorem exec_pauseRefreshTimer_of_armed (h : (macSt s p.val).xoffAt = some t) :
    exec (.pauseRefreshTimer p) s =
      let u := passTo t s
      .next (if cfgOn u 0x2212 (p.val + 1) = false then setMac p.val { macSt u p.val with xoffAt := none, pauseTx := none } u
        else pauseSend p.val (if cfg u 0x2215 (p.val + 1) * 1024 ≤ occupancy u p.val then cfg u 0x2213 (p.val + 1) else 0) u) := by
  change execPauseRefreshTimer p s = _
  simp only [execPauseRefreshTimer, h]
  cases hsends : cfgOn (passTo t s) 0x2212 (p.val + 1) with
  | false => rw [flowApply, hsends]; rfl
  | true =>
    by_cases hover : cfg (passTo t s) 0x2215 (p.val + 1) * 1024 ≤ occupancy (passTo t s) p.val
    · simp only [if_pos hover]; rfl
    · simp only [if_neg hover]; rfl

theorem exec_pauseWatchdogExpiry_of_armed (h : (macSt (settleWire p.val s) p.val).wdFrom = some t) :
    exec (.pauseWatchdogExpiry p) s =
      let w := settleWire p.val s
      let u := pauseEnd p.val (passTo (t + cfg w 0x2216 (p.val + 1) * fr) w)
      let v := setMac p.val { macSt u p.val with ignoreUntil := some (u.up + rl), wdFrom := none, idleFrom := none } u
      .next (fire 9 3 [BitVec.ofNat 8 p.val] (raiseIrq 2
        { countMac p.val 50 1 v with irq.pwdPorts := putBit v.irq.pwdPorts p.val true })) := by
  change execPauseWatchdogExpiry p s = _
  simp only [execPauseWatchdogExpiry, h]

theorem exec_pauseWatchdogReset_of_armed (h : (macSt (settleWire p.val s) p.val).idleFrom = some t) :
    exec (.pauseWatchdogReset p) s =
      let u := passTo (t + fr) (settleWire p.val s)
      .next (setMac p.val { macSt u p.val with wdFrom := none, idleFrom := none } u) := by
  change execPauseWatchdogReset p s = _
  simp only [execPauseWatchdogReset, h]

theorem exec_wdIgnoringExpiry_of_armed (h : (macSt s p.val).ignoreUntil = some t) :
    exec (.wdIgnoringExpiry p) s =
      let u := passTo t s
      .next (setMac p.val { macSt u p.val with ignoreUntil := none } u) := by
  change execWdIgnoringExpiry p s = _
  simp only [execWdIgnoringExpiry, h]

end

/-! ### The stop of a MAC (R129) -/

section
variable {p : Fin 17} {s : State}

theorem exec_macForceStop_of_reached (h : reaches s .host = true) : exec (.macForceStop p) s = .next (macForceStop p.val s) := if_pos h

theorem exec_macDrained_of_receiver_off (h : rxEnabled s p.val = false) :
    exec (.macDrained p false) s = .next (setMac p.val { macSt s p.val with rxDrained := true } s) :=
  if_neg (by simp [h])

theorem exec_macDrained_of_transmitter_off (hoff : txEnabled s p.val = false) (hwire : (macSt s p.val).wire = none)
    (hrest : (macSt s p.val).rest = none) :
    exec (.macDrained p true) s = .next (setMac p.val { macSt s p.val with txDrained := true } s) := by
  change execMacDrained p true s = _
  simp [execMacDrained, txDrain, hoff, hwire, hrest]

end

/-- Settles O4: the hypotheses of each clause pass its command's guards; what ends at a MAC goes by frameReceive_of_data
or frameReceive_of_bad. -/
theorem flowControlCompletes : Obligations.FlowControlCompletes := by
  refine ⟨?good, ?bad, ?marked, ?underrun, ?pause, ?timer, ?refresh, ?send, ?watchdog, ?reset, ?ignoring, ?stop, ?rxDrained, ?txDrained⟩
  case good =>
    rintro p f r s ⟨hup, hrx, hexpress⟩ ⟨hgood, hcode, hfull, hmin⟩ hroom ⟨hmax, hplain, htrailer⟩ ⟨hcontrol, halive⟩
    exact (exec_macFrameReceive_of_enabled hup hrx hexpress).trans (congrArg Host.Outcome.next
      (frameReceive_of_data hcode hmin hmax hgood hfull hroom hplain htrailer hcontrol halive))
  case bad =>
    rintro p f r s ⟨hup, hrx, hexpress⟩ ⟨hbad, hcode, hmin, hmax⟩
    exact (exec_macFrameReceive_of_enabled hup hrx hexpress).trans (congrArg Host.Outcome.next
      (frameReceive_of_bad hcode hmin hmax hbad))
  case marked => exact fun _ _ _ _ => rfl
  case underrun => intro p s w hw; exact exec_transmitUnderrun_of_onWire hw
  case pause =>
    rintro p time s ⟨hup, hrx⟩ ⟨hlimit, hplain⟩ hroom
    exact exec_pauseReceive_of_plain time hup hrx hlimit hplain hroom
  case timer => intro p s t ht; exact exec_pauseTimerExpiry_of_armed ht
  case refresh => intro p s t ht; exact exec_pauseRefreshTimer_of_armed ht
  case send => exact fun _ _ _ => rfl
  case watchdog => intro p s t ht; exact exec_pauseWatchdogExpiry_of_armed ht
  case reset => intro p s t ht; exact exec_pauseWatchdogReset_of_armed ht
  case ignoring => intro p s t ht; exact exec_wdIgnoringExpiry_of_armed ht
  case stop => intro p s hs; exact exec_macForceStop_of_reached hs
  case rxDrained => intro p s hoff; exact exec_macDrained_of_receiver_off hoff
  case txDrained => rintro p s ⟨hoff, hwire, hrest⟩; exact exec_macDrained_of_transmitter_off hoff hwire hrest

end Sys2Proof.Machine
end

section
/-!
PROOFS. Transmission, preemption, verification and schedules (R126, R141, R142, R144, R147, R150, R151, R155).
-/
namespace Sys2Proof.Machine

/-! ### What time and the update of a MAC leave of verification and of the schedules -/

@[simp] theorem schedMode_setMac (p j : Nat) (m : MacSt) (s : State) : schedMode (setMac p m s) j = schedMode s j := rfl

@[simp] theorem leastSent_setMac (p j : Nat) (m : MacSt) (w : Wire) (s : State) : leastSent (setMac p m s) j w = leastSent s j w := rfl

@[simp] theorem txEnabled_setMac (p j : Nat) (m : MacSt) (s : State) : txEnabled (setMac p m s) j = txEnabled s j := rfl

@[simp] theorem schedSt_passToInstant (t : Instant) (s : State) (p : Nat) : schedSt (passToInstant t s) p = schedSt s p := by
  rw [schedSt, schedSt, passToInstant_net]

/-! ### The head of a queue (R137, R141, R151, R421, R422) -/

section
variable {p : Fin 17} {q : Fin 8} {s : State} {x : QFrame} {r : List QFrame}

section
variable (hhead : queueOf s p.val q.val = x :: r) (hon : txEnabled s p.val = true) (hfirst : higherReady s p.val q.val = false)
include hhead hon hfirst

/-- What comes of the head of a queue that no queue goes before. -/
theorem startQueue_of_head :
    startQueue p.val q.val s =
      let u := setMac p.val { macSt s p.val with queues := tset (macSt s p.val).queues q.val r } s
      if secBlocks s p.val x.frame then flowCheck x.ingress (bump (0xA0118 + 0x40 * p.val) u)
      else if secExhausted s p.val then flowCheck x.ingress (countMac p.val 52 1 u)
      else if mayStart s p.val q.val x then wireStart p.val q.val (isExpress s p.val q.val) x u
      else countHold p.val x s := by
  simp only [startQueue, hhead]
  exact if_neg (by simp [hon, hfirst])

theorem startQueue_of_held_by_macsec (hheld : secBlocks s p.val x.frame = true ∨ secExhausted s p.val = true) :
    startQueue p.val q.val s =
      let u := setMac p.val { macSt s p.val with queues := tset (macSt s p.val).queues q.val r } s
      flowCheck x.ingress (if secBlocks s p.val x.frame then bump (0xA0118 + 0x40 * p.val) u else countMac p.val 52 1 u) := by
  rw [startQueue_of_head hhead hon hfirst]
  by_cases hblocks : secBlocks s p.val x.frame = true
  · simp only [if_pos hblocks]
  · simp only [if_neg hblocks, if_pos (hheld.resolve_left hblocks)]

section
variable (hsa : secBlocks s p.val x.frame = false) (hpn : secExhausted s p.val = false)
include hsa hpn

theorem startQueue_of_may_start (hmay : mayStart s p.val q.val x = true) :
    startQueue p.val q.val s = wireStart p.val q.val (isExpress s p.val q.val) x
      (setMac p.val { macSt s p.val with queues := tset (macSt s p.val).queues q.val r } s) := by
  rw [startQueue_of_head hhead hon hfirst]
  simp [hsa, hpn, hmay]

theorem startQueue_of_held_by_gate (hheld : mayStart s p.val q.val x = false) : startQueue p.val q.val s = countHold p.val x s := by
  rw [startQueue_of_head hhead hon hfirst]
  simp [hsa, hpn, hheld]

end
end

/-- On a free wire, with no remainder and no pause, the head of the queue decides. -/
theorem exec_frameTransmitStart_of_free (hwire : (macSt s p.val).wire = none) (hrest : (macSt s p.val).rest = none)
    (hup : portUp s p.val = true) (hpause : paused s p.val = false) :
    exec (.frameTransmitStart p q) s = .next (startQueue p.val q.val s) := by
  change execFrameTransmitStart p q s = _
  simp [execFrameTransmitStart, hwire, hrest, hup, hpause]

end

/-! ### The fragments of a preemptable frame (R126, R141) -/

theorem leastSent_eq (s : State) (p : Nat) (w : Wire) : leastSent s p w = w.startAt + octetTicks s p (minFragment s p + 4) := by
  rw [leastSent, show 8 + minFragment s p - 4 = minFragment s p + 4 by omega]

/-- A preemptable frame may be stopped after its least fragment where enough of it remains. -/
theorem fragmentEnd_of_enough {p : Nat} {w : Wire} {s : State} (hpreemptable : w.express = false) (hinsert : schedMode s p = 1)
    (henough : max s.up (leastSent s p w) + octetTicks s p 76 ≤ w.endAt) : fragmentEnd s p w = some (max s.up (leastSent s p w)) :=
  if_neg (by simp [hpreemptable, hinsert, henough])

theorem headReady_of_may_start {p q : Nat} {s : State} {x : QFrame} {r : List QFrame} (hhead : queueOf s p q = x :: r)
    (hmay : mayStart s p q x = true) : headReady s p q = true := by
  simp only [headReady, hhead, List.head?_cons, hmay]

/-- In INSERT no gate holds a frame back. -/
theorem mayStart_of_insert {p q : Nat} {s : State} {x : QFrame} (hinsert : schedMode s p = 1) (hpause : paused s p = false) :
    mayStart s p q x = true := by
  simp [mayStart, hinsert, hpause]

theorem exec_expressPreempt_of_ready {p : Fin 17} {q : Fin 8} {s : State} {w : Wire} {t : Nat} (hwire : onWire s p.val = some w)
    (hexpress : isExpress s p.val q.val = true) (hready : headReady s p.val q.val = true) (hfirst : higherReady s p.val q.val = false)
    (hend : fragmentEnd s p.val w = some t) :
    exec (.expressPreempt p q) s =
      let u := fragment p.val w (passTo t s)
      .next (if paused u p.val then u else startQueue p.val q.val u) := by
  change execExpressPreempt p q s = _
  simp only [execExpressPreempt, hwire, hexpress, hready, hfirst, hend]
  cases paused (fragment p.val w (passTo t s)) p.val <;> rfl

/-! ### Verification (R142, R144) -/

section
variable {p : Fin 17} {s : State}

theorem exec_verifyMpacketReceive_of_up (hup : portUp s p.val = true) :
    exec (.verifyMpacketReceive p) s = .next (emit (.mpacket p.val true) s) :=
  congrArg Host.Outcome.next (if_pos hup)

theorem exec_verifyRespondReceive_of_verifying (hver : (schedSt s p.val).ver = 2) :
    exec (.verifyRespondReceive p) s = .next (setSched p.val { schedSt s p.val with ver := 3, verAt := none, heldIds := [] } s) :=
  congrArg Host.Outcome.next (if_pos hver)

theorem exec_verifyTimer_of_armed {t : Nat} (hver : (schedSt s p.val).ver = 2) (ht : (schedSt s p.val).verAt = some t) :
    exec (.verifyTimer p) s =
      let u := passTo t s
      .next (if (schedSt u p.val).verSent < cfg u 0x2507 (p.val + 1) then verifySend p.val u else verifyFail p.val u) := by
  change execVerifyTimer p s = _
  simp only [execVerifyTimer, hver, ht]

theorem exec_verifyRestart_of_failed (hs : reaches s .host = true) (hup : portUp s p.val = true) (hver : (schedSt s p.val).ver = 4)
    (hmode : cfg s 0x2501 (p.val + 1) ≠ 1) :
    exec (.verifyRestart p) s = .next (verifySend p.val (setSched p.val { schedSt s p.val with verSent := 0 } s)) :=
  (if_pos hs).trans (congrArg Host.Outcome.next (if_pos (by simp [hup, hver, hmode])))

theorem exec_preemptTlvReceive_without_support (hver : (schedSt s p.val).ver = 2) :
    exec (.preemptTlvReceive p false) s = .next (verifyFail p.val s) :=
  congrArg Host.Outcome.next (if_pos (by simp [hver]))

end

/-! ### A frame that is preempted at its ingress (R147) -/

section
variable {ingress o : Fin 17} {s : State} {w : Wire} (hwire : onWire s o.val = some w) (hcut : w.q.cut = true)
  (hingress : w.q.ingress = ingress.val)
include hwire hcut hingress

theorem exec_cutThroughIngressPreempt_of_fragmentable (hinsert : schedMode s o.val = 1) (hpreemptable : w.express = false)
    (hleast : leastSent s o.val w ≤ s.up) :
    exec (.cutThroughIngressPreempt ingress o) s =
      .next (fragment o.val w (setMac ingress.val { macSt s ingress.val with awaited := some w.q.id } s)) := by
  change execCutThroughIngressPreempt ingress o s = _
  simp [execCutThroughIngressPreempt, hwire, hcut, hingress, hinsert, hpreemptable, hleast]

theorem exec_cutThroughIngressPreempt_outside_insert (hmode : schedMode s o.val ≠ 1) :
    exec (.cutThroughIngressPreempt ingress o) s =
      let u := setMac ingress.val { macSt s ingress.val with awaited := some w.q.id } s
      let v := if txEnabled s o.val then
          setMac o.val { macSt u o.val with resend := (macSt u o.val).resend ++ [({ w.q with cut := false }, w.queue)] } u
        else countMac o.val 52 1 u
      .next (wireMark o.val (countMac o.val 47 1 v)) := by
  change execCutThroughIngressPreempt ingress o s = _
  simp [execCutThroughIngressPreempt, hwire, hcut, hingress, hmode]

end

/-- The one copy that waits for its last fragment goes ahead of its queue. -/
theorem resendFrom_of_one {o q : Nat} {s : State} {x : QFrame} (h : (macSt s o).resend = [(x, q)]) :
    resendFrom x.id s o =
      let u := setMac o { macSt s o with resend := [] } s
      bump (prt o 0x248) (setMac o { macSt u o with queues := tset (macSt u o).queues q (x :: queueOf u o q) } u) := by
  simp [resendFrom, h]

/-! ### Schedules (R150, R155) -/

section
variable {p : Fin 17} {s : State}

theorem exec_gateEntryBoundary_of_list (h : (schedSt s p.val).oper.entries ≠ []) :
    exec (.gateEntryBoundary p) s =
      let u := passToInstant (BitVec.ofNat 64 (gateNow s p.val s.now.toNat).2.2) s
      .next (setSched p.val { schedSt u p.val with heldIds := [] } u) :=
  if_neg (by simp [h])

theorem scheduleSwitch_of_pending {p : Nat} {g : GateList} {t : Instant} (h : (schedSt s p).next = some (g, t)) :
    scheduleSwitch p s =
      raiseIrq 11 (bump (prt p 0x240) (setSched p { schedSt s p with oper := g, next := none, heldIds := [] } s)) := by
  simp only [scheduleSwitch, h]

theorem exec_scheduleSwitch_of_pending {g : GateList} {t : Instant} (h : (schedSt s p.val).next = some (g, t)) :
    exec (.scheduleSwitch p) s = .next (scheduleSwitch p.val (passToInstant t s)) := by
  change execScheduleSwitch p s = _
  simp only [execScheduleSwitch, h]

end

/-- Settles O5: the hypotheses of each clause pass its command's guards; a head that may go goes by startQueue_of_head. -/
theorem preemptionAndGatesComplete : Obligations.PreemptionAndGatesComplete := by
  refine ⟨?start, ?held, ?macsec, ?preempt, ?mpacket, ?respond, ?timer, ?restart, ?tlv, ?fragmented, ?cutShort, ?resend, ?boundary,
    ?switch⟩
  case start =>
    rintro p q s x r ⟨hwire, hrest, hhead⟩ ⟨hup, hpause, hon⟩ ⟨hfirst, hmay⟩ ⟨hsa, hpn⟩
    rw [exec_frameTransmitStart_of_free hwire hrest hup hpause, startQueue_of_may_start hhead hon hfirst hsa hpn hmay]
  case held =>
    rintro p q s x r ⟨hwire, hrest, hhead⟩ ⟨hup, hpause, hon⟩ ⟨hfirst, hheld⟩ ⟨hsa, hpn⟩
    rw [exec_frameTransmitStart_of_free hwire hrest hup hpause, startQueue_of_held_by_gate hhead hon hfirst hsa hpn hheld]
  case macsec =>
    rintro p q s x r ⟨hwire, hrest, hhead⟩ ⟨hup, hpause, hon⟩ ⟨hfirst, hheld⟩
    rw [exec_frameTransmitStart_of_free hwire hrest hup hpause, startQueue_of_held_by_macsec hhead hon hfirst hheld]
  case preempt =>
    rintro p q s w x r ⟨hwire, hhead⟩ ⟨hpreemptable, hinsert, hexpress, hpause⟩ hfirst henough
    rw [← leastSent_eq] at henough ⊢
    exact exec_expressPreempt_of_ready hwire hexpress (headReady_of_may_start hhead (mayStart_of_insert hinsert hpause)) hfirst
      (fragmentEnd_of_enough hpreemptable hinsert henough)
  case mpacket => intro p s hup; exact exec_verifyMpacketReceive_of_up hup
  case respond => intro p s hver; exact exec_verifyRespondReceive_of_verifying hver
  case timer => rintro p s t ⟨hver, ht⟩; exact exec_verifyTimer_of_armed hver ht
  case restart => rintro p s hs ⟨hup, hver, hmode⟩; exact exec_verifyRestart_of_failed hs hup hver hmode
  case tlv => intro p s hver; exact exec_preemptTlvReceive_without_support hver
  case fragmented =>
    rintro ingress o s w ⟨hwire, hcut, hingress⟩ ⟨hinsert, hpreemptable, hleast⟩
    rw [← leastSent_eq] at hleast
    exact exec_cutThroughIngressPreempt_of_fragmentable hwire hcut hingress hinsert hpreemptable hleast
  case cutShort =>
    rintro ingress o s w ⟨hwire, hcut, hingress⟩ hmode
    exact exec_cutThroughIngressPreempt_outside_insert hwire hcut hingress hmode
  case resend => rintro _ o s x q ⟨hone, rfl⟩; exact resendFrom_of_one hone
  case boundary => intro p s hlist; exact exec_gateEntryBoundary_of_list hlist
  case switch =>
    intro p s g t hnext
    rw [exec_scheduleSwitch_of_pending hnext, scheduleSwitch_of_pending (by rw [schedSt_passToInstant, hnext])]

end Sys2Proof.Machine
end

section
/-!
PROOFS. The bounds of the logs, FIFOs and memories (R188, R197, R207, R236, R249, R257, R374, R402): reset meets them and every step keeps
them.
-/
namespace Sys2Proof.Machine

/-- The bounds say nothing of the commands that wait. -/
theorem inv_of_other_pending {s : State} (h : Inv s) (l : List Instr) : Inv { s with pending := l } :=
  { mem := h.mem, apps := h.apps, failures := h.failures, completionErrors := h.completionErrors, doorbells := h.doorbells,
    discards := h.discards, triggers := h.triggers, changes := h.changes, captures := h.captures }

/-- The frame of each command keeps the bounds, so its one answer does. -/
theorem exec_keeps_inv {c : Instr} {s t : State} (h : Inv s) (hexec : exec c s = .next t) : Inv t := by
  obtain ⟨u, hnext, htouches⟩ := exec_answers c s
  obtain rfl : u = t := Host.Outcome.next.inj (hnext.symm.trans hexec)
  exact htouches.inv h

theorem passTo_keeps_inv {s : State} (h : Inv s) (u : Nat) : Inv (passTo u s) := (passTo_touches u s).inv h

/-- Settles O35: a step is the front command on the rest of the queue, or the tick of time of an empty queue. -/
theorem everyStepKeepsTheBounds : Obligations.EveryStepKeepsTheBounds := by
  intro s t h hstep
  cases hq : s.pending with
  | nil =>
    obtain rfl : passTo (s.up + 1) s = t := Host.Outcome.next.inj ((step_of_pending_nil hq).symm.trans hstep)
    exact passTo_keeps_inv h _
  | cons c rest =>
    rw [step, hq] at hstep
    exact exec_keeps_inv (inv_of_other_pending h rest) hstep

/-- Settles O37: at reset both memories, the logs and the FIFOs are empty and the ring's head is 0. -/
theorem resetMeetsTheBounds : Obligations.ResetMeetsTheBounds where
  mem := rfl
  apps := rfl
  failures := Nat.zero_le _
  completionErrors := Nat.zero_le _
  doorbells := Nat.zero_le _
  discards := Nat.zero_lt_succ _
  triggers := Nat.zero_le _
  changes := Nat.zero_le _
  captures := List.forall_mem_nil _

end Sys2Proof.Machine
end

section
/-!
PROOFS. Time messages: Sync, Announce and peer delay (R167 to R170, R173, R174, R176).
-/
namespace Sys2Proof.Machine

/-! ### What counting and passing time leave of PTP's guards -/

@[simp] theorem ptpDiscards_bump (a : Nat) (s : State) (p d : Nat) (id : BitVec 64) (m : Bool) :
    ptpDiscards (bump a s) p d id m = ptpDiscards s p d id m := rfl

@[simp] theorem heldPort_bump (a : Nat) (s : State) (p : Nat) : heldPort (bump a s) p = heldPort s p := rfl

@[simp] theorem isRefPort_bump (a : Nat) (s : State) (p : Nat) : isRefPort (bump a s) p = isRefPort s p := rfl

/-! ### The port by which a line delivers Sync (R174) -/

@[simp] theorem ptpSt_setPtp_same (p : Nat) (x : PtpSt) (s : State) : ptpSt (setPtp p x s) p = x := tget_tset_same ..

theorem ptpSt_setPtp_other {p j : Nat} (x : PtpSt) (s : State) (h : p ≠ j) : ptpSt (setPtp p x s) j = ptpSt s j :=
  tget_tset_other _ _ _ _ _ h

/-- What noteSync does at each port of the line of p: a port other than p delivers no Sync any more. -/
def loseSyncBut (p : Nat) (s : State) (q : Nat) : State :=
  if q ≠ p && (ptpSt s q).lastSync.isSome then setPtp q { ptpSt s q with lastSync := none } s else s

theorem noteSync_of_gm {p : Nat} {m : SyncIn} {s : State} (h : s.tim.haveGm = true → m.id = s.tim.gm.id) :
    noteSync p m s =
      let u := (portsOf (lineOf p)).foldl (loseSyncBut p) s
      setPtp p { ptpSt u p with lastSync := some u.up } u :=
  if_neg (by simpa using h)

theorem lastSync_loseSyncBut_self {p q : Nat} (s : State) (h : q ≠ p) : (ptpSt (loseSyncBut p s q) q).lastSync = none := by
  unfold loseSyncBut
  split
  · rw [ptpSt_setPtp_same]
  · next hnone => simpa [h] using hnone

theorem ptpSt_loseSyncBut_other {p q j : Nat} (s : State) (h : q ≠ j) : ptpSt (loseSyncBut p s q) j = ptpSt s j := by
  unfold loseSyncBut
  split
  · exact ptpSt_setPtp_other _ _ h
  · rfl

theorem ptpSt_foldl_loseSyncBut {p j : Nat} {l : List Nat} (s : State) (h : j ∉ l) :
    ptpSt (l.foldl (loseSyncBut p) s) j = ptpSt s j := by
  induction l generalizing s with
  | nil => rfl
  | cons q r ih =>
    obtain ⟨hq, hr⟩ := not_or.mp (mt List.mem_cons.mpr h)
    exact (ih _ hr).trans (ptpSt_loseSyncBut_other s (Ne.symm hq))

theorem lastSync_foldl_loseSyncBut {p j : Nat} {l : List Nat} (s : State) (hj : j ≠ p) (h : j ∈ l) :
    (ptpSt (l.foldl (loseSyncBut p) s) j).lastSync = none := by
  induction l generalizing s with
  | nil => exact absurd h List.not_mem_nil
  | cons q r ih =>
    by_cases hr : j ∈ r
    · exact ih _ hr
    · obtain rfl := (List.mem_cons.mp h).resolve_right hr
      exact (congrArg PtpSt.lastSync (ptpSt_foldl_loseSyncBut _ hr)).trans (lastSync_loseSyncBut_self s hj)

section
variable {p : Nat} {m : SyncIn} {s : State} (hgm : s.tim.haveGm = true → m.id = s.tim.gm.id)
include hgm

/-- Of the ports of its line, a Sync marks the one it came on and no other. -/
theorem noteSync_marks_only {q : Nat} (hq : q ∈ portsOf (lineOf p)) :
    (ptpSt (noteSync p m s) q).lastSync.isSome = decide (q = p) := by
  rw [noteSync_of_gm hgm]
  by_cases h : q = p
  · subst h
    simp only [ptpSt_setPtp_same, Option.isSome_some, decide_true]
  · rw [ptpSt_setPtp_other _ _ (Ne.symm h), lastSync_foldl_loseSyncBut s h hq]
    simp [h]

theorem noteSync_leaves {q : Nat} (hp : p ∈ portsOf (lineOf p)) (hq : q ∉ portsOf (lineOf p)) :
    ptpSt (noteSync p m s) q = ptpSt s q := by
  have hne : p ≠ q := fun h => hq (h ▸ hp)
  rw [noteSync_of_gm hgm, ptpSt_setPtp_other _ _ hne, ptpSt_foldl_loseSyncBut s hq]

end

/-- Predicates that agree on a list find the same in it (the head of what each keeps). -/
theorem find?_of_agreeing {α : Type} {f g : α → Bool} {l : List α} (h : ∀ x ∈ l, f x = g x) : l.find? f = l.find? g := by
  rw [← List.head?_filter, List.filter_congr h, List.head?_filter]

theorem mem_portsOf_lineOf (p : Fin 4) : p.val ∈ portsOf (lineOf p.val) := by decide +revert

theorem not_mem_portsOf_lineOf (p : Fin 4) : ∀ q ∈ portsOf (other (lineOf p.val)), q ∉ portsOf (lineOf p.val) := by decide +revert

theorem find?_portsOf_lineOf (p : Fin 4) : (portsOf (lineOf p.val)).find? (fun q => decide (q = p.val)) = some p.val := by
  decide +revert

section
variable {p : Fin 4} {m : SyncIn} {s : State}

theorem syncPort_noteSync_same (hgm : s.tim.haveGm = true → m.id = s.tim.gm.id) :
    syncPort (noteSync p.val m s) (lineOf p.val) = some p.val :=
  (find?_of_agreeing fun _ hq => noteSync_marks_only hgm hq).trans (find?_portsOf_lineOf p)

theorem syncPort_noteSync_other (hgm : s.tim.haveGm = true → m.id = s.tim.gm.id) :
    syncPort (noteSync p.val m s) (other (lineOf p.val)) = syncPort s (other (lineOf p.val)) :=
  find?_of_agreeing fun q hq => by
    rw [noteSync_leaves hgm (mem_portsOf_lineOf p) (not_mem_portsOf_lineOf p q hq)]

/-! ### Sync and Announce -/

theorem exec_syncReceive_of_usable (hruns : ptpRuns s p.val = true) (huse : ptpDiscards s p.val m.domain m.id m.malformed = false)
    (hfree : heldPort s p.val = false) (hslave : s.tim.isGm = false) :
    exec (.syncReceive (p.castLE (by decide)) m) s =
      let u := bump (prt p.val 0x314) s
      .next (stepDues s (syncServo p.val m (forwardSync p.val m (noteSync p.val m u)))) := by
  change Host.Outcome.next (stepDues s (syncIn p.val m s)) = _
  have hbackbone : ¬ 4 ≤ p.val := Nat.not_le.mpr p.isLt
  simp [syncIn, hruns, huse, hfree, hslave, hbackbone]

end

section
variable {s : State}

theorem exec_syncOriginate_of_master (h : s.tim.isGm = true ∨ s.tim.viaRef = true) :
    exec .syncOriginate s =
      let u := passTo (ptpSt s 0).nextSync s
      let v := [0, 1, 2, 3].foldl (fun s p =>
        if portUp s p then
          ptpSend p (.sync s.tim.gm.id s.now (logInterval (cfg s 0x2607 0)) false) s
        else s) u
      .next (setPtp 0 { ptpSt v 0 with nextSync := v.up + syncTicks v } v) := by
  have hmaster : (s.tim.isGm || s.tim.viaRef) = true := (Bool.or_eq_true ..).mpr h
  exact if_neg (by rw [hmaster]; decide)

theorem exec_announceSend_of_known (h : s.tim.haveGm = true ∨ s.tim.isGm = true ∨ cfgOn s 0x2602 0 = false) :
    exec .announceSend s =
      let u := passTo (ptpSt s 0).nextAnnounce s
      .next (announceAll (setPtp 0 { ptpSt u 0 with nextAnnounce := u.up + cfg u 0x2608 0 * fr } u)) := by
  change execAnnounceSend s = _
  have hknown : (!s.tim.haveGm && !s.tim.isGm && cfgOn s 0x2602 0) = false := by
    rcases h with h | h | h <;> simp [h]
  simp only [execAnnounceSend, passTo_tim, cfgOn_passTo, hknown]
  rfl

theorem exec_announceSend_of_unknown (hnone : s.tim.haveGm = false) (hslave : s.tim.isGm = false) (hcapable : cfgOn s 0x2602 0 = true) :
    exec .announceSend s =
      let u := becomeGm (passTo (ptpSt s 0).nextAnnounce s)
      .next (announceAll (setPtp 0 { ptpSt u 0 with nextAnnounce := u.up + cfg u 0x2608 0 * fr } u)) := by
  change execAnnounceSend s = _
  simp [execAnnounceSend, hnone, hslave, hcapable]

variable {p : Fin 17} {m : AnnounceIn} (hruns : ptpRuns s p.val = true)
include hruns

theorem exec_announceReceive_of_unusable (hdiscard : ptpDiscards s p.val m.domain m.gm.id m.malformed = true) :
    exec (.announceReceive p m) s = .next (bump (prt p.val 0x328) (bump (prt p.val 0x324) s)) := by
  change Host.Outcome.next (announceIn p.val m s) = _
  simp [announceIn, hruns, hdiscard]

theorem exec_announceReceive_of_reference (huse : ptpDiscards s p.val m.domain m.gm.id m.malformed = false)
    (hconsist : 4 ≤ p.val) (href : isRefPort s p.val = true) :
    exec (.announceReceive p m) s = .next (bmca m.gm true (bump (prt p.val 0x324) s)) := by
  change Host.Outcome.next (announceIn p.val m s) = _
  simp [announceIn, hruns, huse, hconsist, href]

end

/-- Settles O8: the hypotheses of each clause pass its command's guards; the Sync port of a line goes by what noteSync marks. -/
theorem timeMessagesComplete : Obligations.TimeMessagesComplete := by
  refine ⟨?sync, ?syncPort, ?originate, ?consistSync, ?announce, ?becomeGm, ?discard, ?reference, ?request, ?response⟩
  case sync => rintro p m s ⟨hruns, huse⟩ ⟨hfree, hslave⟩; exact exec_syncReceive_of_usable hruns huse hfree hslave
  case syncPort => intro p m s hgm; exact ⟨syncPort_noteSync_same hgm, syncPort_noteSync_other hgm⟩
  case originate => intro s hmaster; exact exec_syncOriginate_of_master hmaster
  case consistSync => rintro p s ⟨hconsist, hruns, href⟩; exact if_neg (by simp [Nat.not_lt.mpr hconsist, hruns, href])
  case announce => intro s h; exact exec_announceSend_of_known h
  case becomeGm => rintro s ⟨hnone, hslave, hcapable⟩; exact exec_announceSend_of_unknown hnone hslave hcapable
  case discard => rintro p m s ⟨hruns, hdiscard⟩; exact exec_announceReceive_of_unusable hruns hdiscard
  case reference => rintro p m s ⟨hruns, huse⟩ ⟨hconsist, href⟩; exact exec_announceReceive_of_reference hruns huse hconsist href
  case request => intro p s hmeasures; exact if_neg (by simp [hmeasures])
  case response => rintro p delay nrr s ⟨hmeasures, hwaiting⟩; exact if_neg (by simp [hmeasures, hwaiting])

end Sys2Proof.Machine
end

section
/-!
PROOFS. The servo's timers, the wrap of a reel, pulses and captures (R163, R174, R177, R179 to R181, R185, R188, R189, R409).
-/
namespace Sys2Proof.Machine

@[simp] theorem domOn_passToInstant (t : Instant) (s : State) (d : Dom) : domOn (passToInstant t s) d = domOn s d := by
  rw [domOn, domOn, domSt, domSt, passToInstant_pwr]

@[simp] theorem ppsSt_passToInstant (t : Instant) (s : State) (k : Nat) : ppsSt (passToInstant t s) k = ppsSt s k := by
  rw [ppsSt, ppsSt, passToInstant_tim]

section
variable {s : State}

/-! ### The loss of Sync (R174, R177) -/

theorem exec_timeLineFail_of_active {l : Line} {p : Nat} (hline : activeLine s = some l) (hport : syncPort s l = some p) :
    exec .timeLineFail s = .next (syncPortLost p (passTo ((ptpSt s p).lastSync.getD 0 + syncLossTicks s p) s)) := by
  change execTimeLineFail s = _
  simp only [execTimeLineFail, hline, hport]

/-- Where no port has Sync to lose, what SYNC_LOSS_HOLDOVER does at each port leaves the state as it is. -/
theorem exec_syncLossHoldover_without_sync (hslave : s.tim.isGm = false) (hnone : ∀ p ∈ List.range 17, (ptpSt s p).lastSync = none) :
    exec (.syncLossHoldover false) s = .next (enterHoldover (forgetLine .b (forgetLine .a s))) := by
  change execSyncLossHoldover false s = _
  simp only [execSyncLossHoldover, hslave, Bool.false_eq_true, if_false]
  refine congrArg (fun u => Host.Outcome.next (enterHoldover (forgetLine .b (forgetLine .a u)))) ?_
  refine List.foldlRecOn (motive := fun u => u = s) _ _ rfl ?_
  rintro _ rfl p hp
  rw [hnone p hp]

/-! ### STEP-SUSPECT, the estimate of HOLDOVER, and slews (R177, R179 to R181) -/

theorem suspectEnd_without_requalification (h : requalifies s = false) :
    suspectEnd s = bump 0x40048 { s with tim.suspectAt := some s.up } :=
  if_neg (by simp [h])

theorem suspectEnd_of_requalification (h : requalifies s = true) (hmean : aboveLimit s (mean s.tim.hist) = false) :
    suspectEnd s = lockSlewing (mean s.tim.hist) s := by
  rw [suspectEnd, if_pos h]
  exact if_pos (by simp [hmean])

theorem exec_stepSuspectExpiry_of_armed {t : Nat} (hservo : s.tim.servo = .stepSuspect) (hat : s.tim.suspectAt = some t) :
    exec .stepSuspectExpiry s = .next (stepDues (passTo (t + 2 * rl) s) (suspectEnd (passTo (t + 2 * rl) s))) := by
  change execStepSuspectExpiry s = _
  simp only [execStepSuspectExpiry, hservo, hat]

theorem exec_holdEstimateUpdate_of_limit_set (hservo : s.tim.servo = .holdover) (hlimit : s.tim.holdLimit = true) :
    exec .holdEstimateUpdate s =
      let u := toFrame s
      let t := u.up - u.tim.holdAt
      .next { u with tim.holdErr := u.tim.e0 + cfg u 0x260E 1 * t / rl + cfg u 0x260E 2 * t * t / (rl * rl) } := by
  change execHoldEstimateUpdate s = _
  simp [execHoldEstimateUpdate, hservo, hlimit]

theorem exec_slewDone_of_slewing (h : s.tim.slewing = true) :
    exec .slewDone s =
      .next { passTo s.tim.slewEnd s with tim.slewing := false, tim.slewOff := 0, tim.freq := s.tim.settled } :=
  if_neg (by simp [h])

/-! ### Pulses and captures (R185, R188, R189, R409) -/

variable {k : Fin 4}

theorem exec_pulseEdge_of_once (harmed : (ppsSt s k.val).armed = true) (hon : domOn s .d2 = true)
    (honce : ppsMode (passToInstant (ppsSt s k.val).next s) k.val ≠ 2)
    (hvalid : cfgOn (passToInstant (ppsSt s k.val).next s) (0x2610 + k.val) 6 = false ∨
      timeValid (passToInstant (ppsSt s k.val).next s) = true) :
    exec (.pulseEdge k) s =
      let u := passToInstant (ppsSt s k.val).next s
      .next (emit (.pulse k.val (cfg u (0x2610 + k.val) 4))
        (setPps k.val { ppsSt u k.val with armed := false, suppressed := false, lastEdge := some u.up } u)) := by
  change execPulseEdge k s = _
  have hfree : (cfgOn (passToInstant (ppsSt s k.val).next s) (0x2610 + k.val) 6
      && !timeValid (passToInstant (ppsSt s k.val).next s)) = false := by
    rcases hvalid with h | h <;> simp only [h, Bool.false_and, Bool.not_true, Bool.and_false]
  simp only [execPulseEdge, harmed, domOn_passToInstant, hon, honce, hfree]
  rfl

theorem exec_captureEdge_of_room {rising : Bool} (hon : cfgOn s (0x2614 + k.val) 1 = true)
    (hsel : (cfg s (0x2614 + k.val) 2).testBit (if rising then 0 else 1) = true) (hroom : (capSt s k.val).fifo.length < 16)
    (hapart : ∀ t, (capSt s k.val).lastEdge = some t → t + 64 ≤ s.up) :
    exec (.captureEdge k rising) s =
      let x := capSt s k.val
      let u := bump (0x40214 + 0x20 * k.val)
        (setCap k.val { x with fifo := x.fifo ++ [(rising, timeNs s)], lastEdge := some s.up } s)
      .next (if x.fifo.isEmpty then raiseIrq 6 u else u) := by
  change execCaptureEdge k rising s = _
  have hedge : (if rising then (cfg s (0x2614 + k.val) 2).testBit 0 else (cfg s (0x2614 + k.val) 2).testBit 1) = true := by
    cases rising <;> exact hsel
  have hfull : ¬ 16 ≤ (capSt s k.val).fifo.length := Nat.not_le.mpr hroom
  refine (if_neg (by rw [hon, hedge]; decide)).trans (if_neg ?_)
  cases hlast : (capSt s k.val).lastEdge with
  | none => simp [hfull]
  | some t => simp [hfull, hapart t hlast]

theorem exec_capTsRead_of_granted {who : Requester} (hreaches : reaches s who = true) (hmay : featDenied s who 3 = false) :
    exec (.capTsRead who k) s =
      let x := capSt s k.val
      .next (emit (.readData who (0x40208 + 0x20 * k.val) ((x.fifo.head?.map (·.2)).getD 0))
        (setCap k.val { x with fifo := x.fifo.tail } s)) := by
  change execCapTsRead who k s = _
  rw [execCapTsRead, if_neg (by simp [hreaches]), if_neg (by simp [hmay])]

end

/-- Settles O9: the hypotheses of each clause pass its command's guards, which time that passes leaves as they were. -/
theorem servoAndPulsesComplete : Obligations.ServoAndPulsesComplete := by
  refine ⟨?lineFail, ?gmLost, ?noSync, ?suspectAgain, ?suspectLock, ?estimate, ?slewDone, ?wrap, ?pulse, ?capture, ?read⟩
  case lineFail => rintro s l p ⟨hline, hport⟩; exact exec_timeLineFail_of_active hline hport
  case gmLost => intro s hslave; exact (if_neg (by simp [hslave])).trans (if_pos rfl)
  case noSync => rintro s ⟨hslave, hnone⟩; exact exec_syncLossHoldover_without_sync hslave hnone
  case suspectAgain =>
    rintro s t ⟨hservo, hat⟩ hagain
    rw [exec_stepSuspectExpiry_of_armed hservo hat, suspectEnd_without_requalification hagain]
  case suspectLock =>
    rintro s t ⟨hservo, hat⟩ ⟨hpass, hmean⟩
    rw [exec_stepSuspectExpiry_of_armed hservo hat, suspectEnd_of_requalification hpass hmean]
  case estimate => intro s hservo hlimit; exact exec_holdEstimateUpdate_of_limit_set hservo hlimit
  case slewDone => intro s hslewing; exact exec_slewDone_of_slewing hslewing
  case wrap => intro s; rfl
  case pulse => rintro k s ⟨harmed, hon⟩ ⟨honce, hvalid⟩; exact exec_pulseEdge_of_once harmed hon honce hvalid
  case capture => rintro k rising s ⟨hon, hsel⟩ ⟨hroom, hapart⟩; exact exec_captureEdge_of_room hon hsel hroom hapart
  case read => rintro who k s ⟨hreaches, hmay⟩; exact exec_capTsRead_of_granted hreaches hmay

end Sys2Proof.Machine
end

section
/-!
PROOFS. Operations from other nodes at the exported memory: the region's bounds and its rights (R197, R198, R200, R210, R213).
-/
namespace Sys2Proof.Machine

@[simp] theorem countRegion_spl (r code : Nat) (s : State) : (countRegion r code s).spl = s.spl :=
  (countRegion_touches ..).spl.resolve_left (by decide)

theorem leBytes_length (k n : Nat) : (leBytes k n).length = k := by
  induction k generalizing n with
  | zero => rfl
  | succ k ih => rw [leBytes, List.length_cons, ih]

section
variable {u : Uid} {n : Nat} {h : OpHead} {d : List Byte} {ecc : Bool} {s : State}

/-- An operation that passes the checks of Table 7.1 ends within its region. -/
theorem fits_of_targetCheck (hpass : targetCheck s u h ecc = 0) : h.offset + h.len ≤ regCfg s h.region 3 := by
  refine Nat.le_of_not_lt fun hlong => absurd hpass ?_
  rw [targetCheck, if_pos hlong]
  split
  · decide
  · split
    · decide
    · split <;> decide

/-- A closed region, a node its filter keeps out, and a write without the right to write each fail the checks of Table 7.1. -/
theorem targetCheck_of_forbidden
    (hforbid : regCfg s h.region 1 ≠ 1 ∨ (opWrites h = true ∧ regCfg s h.region 5 ≠ 1) ∨
      (regCfg s h.region 6 ≠ 0 ∧ regCfg s h.region 6 ≠ u.toNat)) :
    targetCheck s u h ecc ≠ 0 := by
  rw [targetCheck]
  rcases hforbid with hclosed | ⟨hwrites, hright⟩ | hkept
  · rw [if_pos hclosed]
    decide
  · have hdenied : (opReads h && decide (regCfg s h.region 4 ≠ 1) || opWrites h && decide (regCfg s h.region 5 ≠ 1)) = true := by
      simp [hwrites, hright]
    rw [if_pos hdenied]
    split
    · decide
    · split <;> decide
  · have hfiltered : (decide (regCfg s h.region 6 ≠ 0) && decide (regCfg s h.region 6 ≠ u.toNat)) = true := by simpa using hkept
    rw [if_pos hfiltered]
    split <;> decide

/-- An operation that is turned away before it is applied: by the supply of the memory (Table 17.1) or by the checks of Table 7.1. -/
theorem targetOp_of_check_failed (hfail : targetCheck s u h ecc ≠ 0) :
    (targetOp u n h d ecc s).1 ≠ 0 ∧ (targetOp u n h d ecc s).2.1 = [] ∧ (targetOp u n h d ecc s).2.2.spl = s.spl := by
  by_cases hoff : (!domOn s .d10 && (opReads h || opWrites h)) = true
  · simp [targetOp, hoff]
  · simp [targetOp, hoff, hfail]

/-- What an operation may leave in the exported memory: it as it was, or bytes that begin at the operation's address and are no more than
its length. -/
theorem targetOp_mem (u : Uid) (n : Nat) (h : OpHead) (d : List Byte) (ecc : Bool) (s : State) :
    (targetOp u n h d ecc s).2.2.spl.mem = s.spl.mem ∨
      targetCheck s u h ecc = 0 ∧ ∃ l : List Byte, l.length ≤ h.len ∧
        (targetOp u n h d ecc s).2.2.spl.mem = memWrite s.spl.mem (exportAddr s h) l := by
  by_cases hpass : targetCheck s u h ecc = 0
  case neg => exact .inl (congrArg SplSt.mem (targetOp_of_check_failed hpass).2.2)
  rw [targetOp]
  dsimp only
  split
  · exact .inl rfl
  rw [if_neg (not_not_intro hpass)]
  split
  · exact .inr ⟨hpass, d.take h.len, List.length_take_le .., by rw [countRegion_spl]⟩
  · exact .inl (by rw [countRegion_spl])
  · split
    · exact .inl rfl
    · split <;> exact .inl (by rw [countRegion_spl])
  · split
    · exact .inl (by rw [countRegion_spl])
    · split
      · exact .inl (by rw [countRegion_spl])
      · exact .inl rfl
  · split
    · exact .inl rfl
    · split
      · exact .inl rfl
      · exact .inr ⟨hpass, leBytes h.len _, Nat.le_of_eq (leBytes_length ..), by rw [countRegion_spl]⟩

theorem memGet_targetOp_outside {a : Nat}
    (houtside : a < regCfg s h.region 2 ∨ regCfg s h.region 2 + regCfg s h.region 3 ≤ a) :
    memGet (targetOp u n h d ecc s).2.2.spl.mem a = memGet s.spl.mem a := by
  obtain hsame | ⟨hpass, l, hlength, hwrite⟩ := targetOp_mem u n h d ecc s
  · rw [hsame]
  · have hfits := fits_of_targetCheck hpass
    rw [hwrite]
    refine memGet_memWrite_other _ _ ?_
    rw [exportAddr]
    omega

end

/-- Settles O49: what an operation writes lies where Table 7.1 has checked that its region reaches, and a forbidden one fails that check. -/
theorem inboundOperationsStayInTheirRegion : Obligations.InboundOperationsStayInTheirRegion :=
  ⟨fun _ _ _ _ _ _ _ _ => memGet_targetOp_outside,
    fun _ _ _ _ _ _ hforbid => targetOp_of_check_failed (targetCheck_of_forbidden hforbid)⟩

end Sys2Proof.Machine
end

section
/-!
PROOFS. Accesses to the splice apertures, to what the cores see, to doorbells and to semaphores (R196, R200, R201, R207, R210, R211,
R213, R406 to R408, R410, R412).
-/
namespace Sys2Proof.Machine

/-! ### Host writes, window by window (R196, R200) -/

section
variable {bar4 : Bool} {n a : Nat} {d : List Byte} {s : State} {w : Nat}

@[simp] theorem writeFrom_nil (bar4 : Bool) (n a : Nat) (s : State) : writeFrom bar4 n a [] s = s := by
  cases n <;> rfl

theorem writeFrom_of_window (hd : d ≠ []) (hw : winAt s bar4 a = some w) :
    writeFrom bar4 (n + 1) a d s =
      let k := min d.length (2 ^ winCfg s w 3 - (a - winCfg s w 2))
      writeFrom bar4 n (a + k) (d.drop k) (writeAccess w (a - winCfg s w 2) (d.take k) .host s) := by
  simp [writeFrom, hd, hw]

theorem writeFrom_within_window (hd : d ≠ []) (hw : winAt s bar4 a = some w)
    (hfits : a - winCfg s w 2 + d.length ≤ 2 ^ winCfg s w 3) :
    writeFrom bar4 (n + 1) a d s = writeAccess w (a - winCfg s w 2) d .host s := by
  have hall : min d.length (2 ^ winCfg s w 3 - (a - winCfg s w 2)) = d.length :=
    Nat.min_eq_left (Nat.le_sub_of_add_le' hfits)
  simp [writeFrom_of_window hd hw, hall]

theorem writeFrom_past_window (hd : d ≠ []) (hw : winAt s bar4 a = some w)
    (hpast : 2 ^ winCfg s w 3 < a - winCfg s w 2 + d.length) :
    writeFrom bar4 (n + 1) a d s =
      let k := 2 ^ winCfg s w 3 - (a - winCfg s w 2)
      writeFrom bar4 n (a + k) (d.drop k) (writeAccess w (a - winCfg s w 2) (d.take k) .host s) := by
  rw [writeFrom_of_window hd hw, Nat.min_eq_right (Nat.sub_le_iff_le_add'.mpr (Nat.le_of_lt hpast))]

/-- Within 4 KB that lie in no window, nothing is written and the write is counted. -/
theorem writeFrom_outside (hd : d ≠ []) (hw : winAt s bar4 a = none) (hpage : a % 4096 + d.length ≤ 4096) :
    writeFrom bar4 (n + 1) a d s = bump 0x50068 s := by
  have hall : min d.length (4096 - a % 4096) = d.length := Nat.min_eq_left (Nat.le_sub_of_add_le' hpage)
  simp [writeFrom, hd, hw, hall, unmapped]

end

section
variable {bar4 : Bool} {a : BitVec 30} {s : State} (hreach : reaches s .host = true)
include hreach

theorem exec_hostApertureWrite_of_reached (d : List Byte) :
    exec (.hostApertureWrite bar4 a d) s = .next (writeFrom bar4 (d.length + 1) a.toNat d s) :=
  if_neg (by simp [hreach])

theorem exec_hostApertureRead_of_reached (len : Fin 4097) :
    exec (.hostApertureRead bar4 a len) s =
      .next (pump (closeRead s.spl.nextOp (readFrom s.spl.nextOp bar4 (len.val + 1) a.toNat len.val (openRead bar4 a.toNat s)))) :=
  if_neg (by simp [hreach])

theorem exec_hostAtomicOp_of_window {w : Nat} (op : Fin 3) (wide : Bool) (operand compare : BitVec 64)
    (hw : winAt s bar4 a.toNat = some w) :
    exec (.hostAtomicOp bar4 a op wide operand compare) s =
      .next (pump (acceptOp (atomicOp s w (a.toNat - winCfg s w 2) (op.val + 3) (if wide then 8 else 4) operand compare .host) s)) := by
  change execHostAtomicOp bar4 a op wide operand compare s = _
  simp [execHostAtomicOp, hreach, hw]

end

/-! ### Accesses of the cores, by area of Table 16.1 (R406 to R410) -/

theorem not_bnot_of_true {b : Bool} (h : b = true) : ¬ (!b) = true := by
  rw [h]
  decide

/-- A hart that runs while D8 is on passes the first guard of its access. -/
theorem core_runs {hart : Nat} {s : State} (hon : domOn s .d8 = true) (hrun : s.cpu.running.getLsbD hart = true) :
    ¬ (!domOn s .d8 || !s.cpu.running.getLsbD hart) = true := by
  rw [hon, hrun]
  decide

/-- What an aligned access of a core through an open window does. -/
def windowAccess (w woff : Nat) (x : CoreAccess) (s : State) : State :=
  match x with
  | .load n => pump (coreRead w woff n s)
  | .store d => writeAccess w woff d .core s
  | .amo op n operand => pump (acceptOp (atomicOp s w woff (amoNumber op) n operand 0 .core) s)
  | .lrSc => emit .coreFault s

theorem coreAperture_of_window {bar4 : Bool} {a w : Nat} {x : CoreAccess} {s : State} (haligned : a % accessSize x = 0)
    (hon : domOn s .d10 = true) (hw : winAt s bar4 a = some w) :
    coreAperture bar4 a (accessSize x) x s = windowAccess w (a - winCfg s w 2) x s := by
  rw [coreAperture, if_neg (not_not_intro haligned), if_pos hon, hw]
  cases x <;> rfl

section
variable {hart : Fin 8} {ecc : Bool} {a : BitVec 56} {x : CoreAccess} {o : Nat} {s : State}
  (hon : domOn s .d8 = true) (hrun : s.cpu.running.getLsbD hart.val = true)
include hon hrun

theorem exec_coreSpliceAccess_outside (harea : coreArea s a.toNat (accessSize x) = none) :
    exec (.coreSpliceAccess hart ecc a x) s = .next (emit .coreFault s) := by
  change execCoreSpliceAccess hart ecc a x s = _
  rw [execCoreSpliceAccess, if_neg (core_runs hon hrun)]
  split
  · rfl
  · simp only [harea]

section
variable (hsize : coreSize (accessSize x) = true)
include hsize

section
variable {bar4 : Bool} (harea : coreArea s a.toNat (accessSize x) = some (.aperture bar4, o))
include harea

theorem exec_coreSpliceAccess_of_aperture :
    exec (.coreSpliceAccess hart ecc a x) s = .next (coreAperture bar4 o (accessSize x) x s) := by
  change execCoreSpliceAccess hart ecc a x s = _
  rw [execCoreSpliceAccess, if_neg (core_runs hon hrun), if_neg (not_bnot_of_true hsize)]
  simp only [harea]

theorem exec_coreSpliceAccess_of_window {w : Nat} (hmem : domOn s .d10 = true) (haligned : o % accessSize x = 0)
    (hw : winAt s bar4 o = some w) :
    exec (.coreSpliceAccess hart ecc a x) s = .next (windowAccess w (o - winCfg s w 2) x s) := by
  rw [exec_coreSpliceAccess_of_aperture hon hrun hsize harea, coreAperture_of_window haligned hmem hw]

theorem exec_coreSpliceAccess_misaligned (hmisaligned : o % accessSize x ≠ 0) :
    exec (.coreSpliceAccess hart ecc a x) s = .next (emit .coreFault s) := by
  rw [exec_coreSpliceAccess_of_aperture hon hrun hsize harea, coreAperture, if_pos hmisaligned]

end

theorem exec_coreSpliceAccess_of_regs (harea : coreArea s a.toNat (accessSize x) = some (.regs, o)) (haligned : o % accessSize x = 0) :
    exec (.coreSpliceAccess hart ecc a x) s = .next (coreRegs o x s) := by
  change execCoreSpliceAccess hart ecc a x s = _
  rw [execCoreSpliceAccess, if_neg (core_runs hon hrun), if_neg (not_bnot_of_true hsize)]
  simp only [harea]
  exact if_neg (not_not_intro haligned)

theorem exec_coreSpliceAccess_of_dram (hmem : domOn s .d10 = true) (harea : coreArea s a.toNat (accessSize x) = some (.dram, o)) :
    exec (.coreSpliceAccess hart ecc a x) s =
      .next (if ecc && accessReads x then emit .coreFault (bump 0x9004C s) else dramAccess hart.val o x s) := by
  change execCoreSpliceAccess hart ecc a x s = _
  rw [execCoreSpliceAccess, if_neg (core_runs hon hrun), if_neg (not_bnot_of_true hsize)]
  simp only [harea]
  rw [if_neg (not_bnot_of_true hmem)]
  split <;> rfl

theorem exec_coreSpliceAccess_of_exports (hmem : domOn s .d10 = true)
    (harea : coreArea s a.toNat (accessSize x) = some (.exports, o)) :
    exec (.coreSpliceAccess hart ecc a x) s = .next (exportAccess hart.val o x s) := by
  change execCoreSpliceAccess hart ecc a x s = _
  rw [execCoreSpliceAccess, if_neg (core_runs hon hrun), if_neg (not_bnot_of_true hsize)]
  simp only [harea]
  exact if_neg (not_bnot_of_true hmem)

end

/-! ### mtimecmp (R412) -/

theorem exec_coreSpliceAccess_of_aclint_store {d : List Byte} (hsize : coreSize (accessSize (.store d)) = true)
    (harea : coreArea s a.toNat (accessSize (.store d)) = some (.aclint, o)) (haligned : o % accessSize (.store d) = 0) :
    exec (.coreSpliceAccess hart ecc a (.store d)) s =
      .next (aclintWrite (o / 8 * 8) (spliceBytes (aclintRead s (o / 8 * 8)) (o % 8) d) s) := by
  change execCoreSpliceAccess hart ecc a (.store d) s = _
  rw [execCoreSpliceAccess, if_neg (core_runs hon hrun), if_neg (not_bnot_of_true hsize)]
  simp only [harea]
  exact if_neg (not_not_intro haligned)

end

/-- Eight bytes written at the first of eight leave nothing of the old number. -/
theorem spliceBytes_whole (old : Nat) {d : List Byte} (hd : d.length = 8) : spliceBytes old 0 d = leNat d := by
  have hrest : (leBytes 8 old).drop (0 + d.length) = [] := List.drop_eq_nil_of_le (by simp only [leBytes_length, hd, Nat.zero_add, Nat.le_refl])
  rw [spliceBytes, hrest, List.take_zero, List.nil_append, List.append_nil]

section
variable (h : Fin 8)

theorem coreArea_of_mtimecmp (s : State) :
    coreArea s (BitVec.ofNat 56 (0x02004000 + 8 * h.val)).toNat 8 = some (.aclint, 0x4000 + 8 * h.val) := by
  have hbound := h.isLt
  have haddr : (BitVec.ofNat 56 (0x02004000 + 8 * h.val)).toNat = 0x02004000 + 8 * h.val := by
    rw [BitVec.toNat_ofNat]
    exact Nat.mod_eq_of_lt (by omega)
  have hoffset : 0x02004000 + 8 * h.val - 0x02000000 = 0x4000 + 8 * h.val := by omega
  rw [haddr, coreArea, if_pos (decide_eq_true ⟨by omega, by omega⟩), hoffset]

theorem aclintWrite_of_mtimecmp (v : Nat) (s : State) :
    aclintWrite (0x4000 + 8 * h.val) v s = mtimecmpWrite h.val (BitVec.ofNat 64 v) s := by
  have hbound := h.isLt
  have hindex : (0x4000 + 8 * h.val - 0x4000) / 8 = h.val := by omega
  rw [aclintWrite, if_neg (by omega), if_pos ⟨by omega, by omega⟩, hindex]

theorem exec_coreSpliceAccess_of_mtimecmp {hart : Fin 8} (ecc : Bool) {d : List Byte} {s : State} (hon : domOn s .d8 = true)
    (hrun : s.cpu.running.getLsbD hart.val = true) (hd : d.length = 8) :
    exec (.coreSpliceAccess hart ecc (BitVec.ofNat 56 (0x02004000 + 8 * h.val)) (.store d)) s =
      .next (mtimecmpWrite h.val (BitVec.ofNat 64 (leNat d)) s) := by
  have hbytes : accessSize (.store d) = 8 := hd
  have hword : (0x4000 + 8 * h.val) / 8 * 8 = 0x4000 + 8 * h.val := by omega
  have hfirst : (0x4000 + 8 * h.val) % 8 = 0 := by omega
  rw [exec_coreSpliceAccess_of_aclint_store hon hrun (by rw [hbytes]; decide)
      (by rw [hbytes]; exact coreArea_of_mtimecmp h s) (by rw [hbytes]; exact hfirst),
    hword, hfirst, spliceBytes_whole _ hd, aclintWrite_of_mtimecmp]

end

/-! ### Doorbells and semaphores (R207, R210, R211) -/

section
variable {who : Requester} {w : Fin 64} {s : State} (hreach : reaches s who = true) (hopen : winOpen s w.val = true)
include hreach hopen

theorem exec_winDoorbellWrite_of_open (v : Word) :
    exec (.winDoorbellWrite who w v) s =
      .next (pump (acceptOp { winOp s w.val 0 4 .doorbell who with offset := 0, data := beBytes 4 v.toNat } s)) :=
  (if_pos hreach).trans (congrArg Host.Outcome.next (if_neg (by simp [hopen])))

theorem exec_winSemAcquire_of_open :
    exec (.winSemAcquire who w) s =
      .next (pump (acceptOp (winOp s w.val 0 1 .acquire who) { s with spl.semState := tset s.spl.semState w.val 1 })) :=
  (if_pos hreach).trans (congrArg Host.Outcome.next (if_neg (by simp [hopen])))

theorem exec_winSemRelease_of_open :
    exec (.winSemRelease who w) s =
      .next (pump (acceptOp (winOp s w.val 0 1 .release who) { s with spl.semState := tdel s.spl.semState w.val })) :=
  (if_pos hreach).trans (congrArg Host.Outcome.next (if_neg (by simp [hopen])))

end

/-- Settles O10: the hypotheses of each clause pass its command's guards; a host write goes window by window, a core's access by its
area of Table 16.1. -/
theorem apertureAccessesComplete : Obligations.ApertureAccessesComplete := by
  refine ⟨?within, ?past, ?unmapped, ?read, ?atomic, ?load, ?store, ?amo, ?lrSc, ?misaligned, ?outside, ?dram, ?dramError, ?exports, ?regs,
    ?mtimecmp, ?doorbell, ?acquire, ?release⟩
  case within =>
    rintro bar4 a d s w ⟨hreach, hw⟩ ⟨hd, hfits⟩
    rw [exec_hostApertureWrite_of_reached hreach, writeFrom_within_window hd hw hfits]
  case past =>
    rintro bar4 a d s w ⟨hreach, hw⟩ ⟨hd, hpast⟩
    rw [exec_hostApertureWrite_of_reached hreach, writeFrom_past_window hd hw hpast]
  case unmapped =>
    rintro bar4 a d s ⟨hreach, hw⟩ ⟨hd, hpage⟩
    rw [exec_hostApertureWrite_of_reached hreach, writeFrom_outside hd hw hpage]
  case read => intro bar4 a len s hreach; exact exec_hostApertureRead_of_reached hreach len
  case atomic =>
    rintro bar4 a op wide operand compare s w ⟨hreach, hw⟩
    exact exec_hostAtomicOp_of_window hreach op wide operand compare hw
  case load =>
    rintro hart ecc bar4 a n o s w ⟨hon, hrun, hmem⟩ ⟨hsize, harea, haligned, hw⟩
    rw [exec_coreSpliceAccess_of_window (x := .load n) hon hrun hsize harea hmem haligned hw, windowAccess]
  case store =>
    rintro hart ecc bar4 a d o s w ⟨hon, hrun, hmem⟩ ⟨hsize, harea, haligned, hw⟩
    rw [exec_coreSpliceAccess_of_window (x := .store d) hon hrun hsize harea hmem haligned hw, windowAccess]
  case amo =>
    rintro hart ecc bar4 a op n x o s w ⟨hon, hrun, hmem⟩ ⟨hsize, harea, haligned, hw⟩
    rw [exec_coreSpliceAccess_of_window (x := .amo op n x) hon hrun hsize harea hmem haligned hw, windowAccess]
  case lrSc =>
    rintro hart ecc bar4 a o s w ⟨hon, hrun, hmem⟩ ⟨harea, hw⟩
    by_cases haligned : o % accessSize .lrSc = 0
    · exact exec_coreSpliceAccess_of_window hon hrun rfl harea hmem haligned hw
    · exact exec_coreSpliceAccess_misaligned hon hrun rfl harea haligned
  case misaligned =>
    rintro hart ecc bar4 a x o s ⟨hon, hrun⟩ ⟨hsize, harea, hmisaligned⟩
    exact exec_coreSpliceAccess_misaligned hon hrun hsize harea hmisaligned
  case outside => rintro hart ecc a x s ⟨hon, hrun⟩ harea; exact exec_coreSpliceAccess_outside hon hrun harea
  case dram =>
    rintro hart a x o s ⟨hon, hrun, hmem⟩ ⟨hsize, harea⟩
    exact exec_coreSpliceAccess_of_dram hon hrun hsize hmem harea
  case dramError =>
    rintro hart a x o s ⟨hon, hrun, hmem⟩ ⟨hsize, harea, hreads⟩
    rw [exec_coreSpliceAccess_of_dram hon hrun hsize hmem harea, hreads]
    rfl
  case exports =>
    rintro hart ecc a x o s ⟨hon, hrun, hmem⟩ ⟨hsize, harea⟩
    exact exec_coreSpliceAccess_of_exports hon hrun hsize hmem harea
  case regs =>
    rintro hart ecc a x o s ⟨hon, hrun⟩ ⟨hsize, harea, haligned⟩
    exact exec_coreSpliceAccess_of_regs hon hrun hsize harea haligned
  case mtimecmp => rintro hart h ecc d s ⟨hon, hrun⟩ hd; exact exec_coreSpliceAccess_of_mtimecmp h ecc hon hrun hd
  case doorbell => rintro who w v s ⟨hreach, hopen⟩; exact exec_winDoorbellWrite_of_open hreach hopen v
  case acquire => rintro who w s ⟨hreach, hopen⟩; exact exec_winSemAcquire_of_open hreach hopen
  case release => rintro who w s ⟨hreach, hopen⟩; exact exec_winSemRelease_of_open hreach hopen

end Sys2Proof.Machine
end

section
/-!
PROOFS. Answers of the splice bridge and its timers (R210, R212, R215, R225 to R228, R233, R234).
-/
namespace Sys2Proof.Machine

/-! ### Answers (R222, R226, R233) -/

section
variable {b : Bulis} {s : State} {o : Op}

/-- An ACK that answers an operation acts on it. -/
theorem ackIn_of_answer (hhead : headerBad (unpad b) = false) (hdst : dstBad s (unpad b) = false)
    (hop : s.spl.ops.find? (fun o => o.target = (unpad b).src && o.stream = (unpad b).stream && o.seq = some (unpad b).seq) = some o)
    (hcheck : answerCheck (unpad b) o.cscs = true) :
    ackIn b s = fencesGoOn (pump (ackApply (unpad b) o s)) := by
  simp [ackIn, hhead, hdst, hop, hcheck]

/-- A COMPLETION of an operation that has not timed out closes it: there is no late grant to release. -/
theorem completionIn_of_answer (hhead : headerBad (unpad b) = false) (hdst : dstBad s (unpad b) = false)
    (hop : s.spl.ops.find? (fun o => o.nonPosted && o.target = (unpad b).src && o.stream = (unpad b).stream &&
      o.seq = some (unpad b).seq && o.tag = some (unpad b).tag) = some o)
    (hcheck : answerCheck (unpad b) o.cscs = true) (htime : o.expired = false) :
    completionIn b s = fencesGoOn (pump (answerNp o (unpad b).status
      (if (unpad b).status = 0 then ((unpad b).payload.drop 8).take (opHead (unpad b).payload).len else []) s)) := by
  simp [completionIn, hhead, hdst, hop, hcheck, htime]

end

/-! ### Timers of operations (R210, R227, R234) -/

section
variable {s : State} {o : Op}

theorem exec_bulisAckTimeout_of_budget {u : Uid} {stream : Byte} {q : Word} (hop : opAt s u stream.toNat q = some o)
    (hlimit : o.attempts < cfg s 0x2703 0) (hbudget : o.lastTx + cfg s 0x2702 0 * pf < o.firstTx + retryBudget s) :
    exec (.bulisAckTimeout u stream q) s =
      .next (resendOp { o with attempts := o.attempts + 1 } (passTo (o.lastTx + cfg s 0x2702 0 * pf) s)) := by
  change execBulisAckTimeout u stream q s = _
  simp only [execBulisAckTimeout, hop]
  exact if_neg (by simp [Nat.not_le.mpr hlimit, Nat.not_le.mpr hbudget])

section
variable {tag : BitVec 9} {t : Nat} (hop : s.spl.ops.find? (fun o => o.tag = some tag.toNat) = some o)
include hop

theorem exec_completionTimeout_of_tried (htried : o.tryFrom = some t) :
    exec (.completionTimeout tag) s =
      .next (fencesGoOn (pump (closeOne o cTimeout false [] (passTo (t + winCfg s o.window 0x0A * pf) s)))) := by
  change execCompletionTimeout tag s = _
  simp only [execCompletionTimeout, hop, htried]

theorem exec_semRetryTimer_of_due (hretry : o.retryAt = some t) :
    exec (.semRetryTimer tag) s = .next (pump (passTo t s)) := by
  change execSemRetryTimer tag s = _
  simp only [execSemRetryTimer, hop, hretry]

theorem exec_semAcquireTimeout_between_tries (htried : o.tryFrom = some t) (hquiet : o.seq = none) :
    exec (.semAcquireTimeout tag) s =
      .next (fencesGoOn (pump (closeOne o cSemTimeout true [] (passTo (t + cfg s 0x2705 0 * pf) s)))) := by
  change execSemAcquireTimeout tag s = _
  simp only [execSemAcquireTimeout, hop, htried]
  exact if_neg (by simp [hquiet])

end

end

/-! ### Timers of what the bridge holds (R212, R215, R225, R228) -/

section
variable {s : State}

theorem exec_semHoldLimit_of_held {n : Fin 64} {x : Sem} (hheld : tfind s.spl.sems n.val = some x) :
    exec (.semHoldLimit n) s =
      let u := passTo (x.since + cfg s 0x2706 0 * fr) s
      let v := passToInstant (nextPerf u.now) u
      .next (fire 15 4 ([BitVec.ofNat 8 n.val, 0] ++ beBytes 6 x.uid.toNat) (bump 0x50070 { v with spl.sems := tdel v.spl.sems n.val })) := by
  change execSemHoldLimit n s = _
  simp only [execSemHoldLimit, hheld]

theorem exec_prefetchLifetimeExpiry_of_fetched {x : Prefetched} {r : List Prefetched} (hfetched : s.spl.fetched = x :: r) :
    exec .prefetchLifetimeExpiry s = .next (discardFetched x (passTo (x.arrived + cfg s 0x2708 0 * pf) s)) := by
  change execPrefetchLifetimeExpiry s = _
  simp only [execPrefetchLifetimeExpiry, hfetched]

variable {u : Uid} {stream : Byte}

theorem exec_completionRetentionExpiry_of_kept {q : Word} {k : Kept}
    (hkept : s.spl.kept.find? (fun k => k.uid = u && k.stream = stream.toNat && k.seq = q) = some k) :
    exec (.completionRetentionExpiry u stream q) s =
      let v := passTo k.until_ s
      .next { v with spl.kept := v.spl.kept.filter (fun x => x ≠ k) } := by
  change execCompletionRetentionExpiry u stream q s = _
  simp only [execCompletionRetentionExpiry, hkept]

theorem exec_bulisRxForget_of_receiver {r : RecvSt} (hrecv : s.spl.receivers.find? (recvOf u stream.toNat) = some r) :
    exec (.bulisRxForget u stream) s =
      let v := passTo (r.lastAt + 16 * rl) s
      .next { v with spl.receivers := v.spl.receivers.filter (fun x => !(recvOf u stream.toNat x && decide (x.lastAt + 16 * rl ≤ v.up))) } := by
  change execBulisRxForget u stream s = _
  simp only [execBulisRxForget, hrecv]

end

/-- Settles O11: the hypotheses of each clause pass its command's guards and name what its answer or its timer is about. -/
theorem answersAndTimersComplete : Obligations.AnswersAndTimersComplete := by
  refine ⟨?ack, ?completion, ?ackTimeout, ?completionTimeout, ?semRetry, ?semTimeout, ?semHold, ?prefetch, ?retention, ?forget⟩
  case ack =>
    rintro b s o ⟨htype, hhead, hdst⟩ hop hcheck
    exact (if_pos htype).trans (congrArg Host.Outcome.next (ackIn_of_answer hhead hdst hop hcheck))
  case completion =>
    rintro b s o ⟨htype, hhead, hdst⟩ hop ⟨hcheck, htime⟩
    exact (if_pos htype).trans (congrArg Host.Outcome.next (completionIn_of_answer hhead hdst hop hcheck htime))
  case ackTimeout => rintro u stream q s o hop ⟨hlimit, hbudget⟩; exact exec_bulisAckTimeout_of_budget hop hlimit hbudget
  case completionTimeout => rintro tag s o t ⟨hop, htried⟩; exact exec_completionTimeout_of_tried hop htried
  case semRetry => rintro tag s o t ⟨hop, hretry⟩; exact exec_semRetryTimer_of_due hop hretry
  case semTimeout => rintro tag s o t ⟨hop, htried, hquiet⟩; exact exec_semAcquireTimeout_between_tries hop htried hquiet
  case semHold => intro n s x hheld; exact exec_semHoldLimit_of_held hheld
  case prefetch => intro s x r hfetched; exact exec_prefetchLifetimeExpiry_of_fetched hfetched
  case retention => intro u stream q s k hkept; exact exec_completionRetentionExpiry_of_kept hkept
  case forget => intro u stream s r hrecv; exact exec_bulisRxForget_of_receiver hrecv

end Sys2Proof.Machine
end

section
/-!
PROOFS. Frames, drains, logs, fences, aborts and forced disables of the splice bridge (R207, R222, R227, R236, R237, R245, R249, R253,
R255, R256, R409).
-/
namespace Sys2Proof.Machine

/-! ### Frames (R222, R223, R308) -/

section
variable {port : Nat} {mac : Mac} {b : Bulis} {ecc : List Word} {s : State} (hhead : headerBad (unpad b) = false)
  (hdst : dstBad s (unpad b) = false)
include hhead hdst

/-- A request or message whose header and check are good, and which its port may bring, is accepted. -/
theorem bulisIn_of_good (hpasses : checkPasses s (unpad b) = true) (hcompletion : b.type ≠ 4) (hack : b.type ≠ 6)
    (hport : b.type = 0x10 → damIngress s port = true) :
    bulisIn port mac b true ecc s = acceptedFrame port mac ecc (unpad b) s := by
  have htype : (unpad b).type = b.type := rfl
  have hopen : ¬ (b.type = 0x10 ∧ damIngress s port = false) := fun ⟨hdam, hclosed⟩ => by simp [hport hdam] at hclosed
  simp [bulisIn, hhead, hdst, htype, hpasses, hcompletion, hack, hopen]

/-- A dictionary request on a port that takes none is discarded, whatever Call Sheet it names. -/
theorem bulisIn_of_refused_dam (hdam : b.type = 0x10) (hclosed : damIngress s port = false)
    (hpasses : checkPasses s (unpad b) = true ∨ checkStale s (unpad b) = true) :
    bulisIn port mac b true ecc s = bumpOd 6 s := by
  have htype : (unpad b).type = 0x10 := hdam
  rcases hpasses with hpass | hpass <;> simp [bulisIn, hhead, hdst, htype, hclosed, hpass]

end

theorem exec_bulisFrameReceive_of_on {s : State} (hon : domOn s .d2 = true) (port : Fin 20) (mac : Mac) (b : Bulis) (agree : Bool)
    (ecc : List Word) : exec (.bulisFrameReceive port mac b agree ecc) s = .next (bulisIn port.val mac b agree ecc s) :=
  if_pos hon

/-! ### The retry budget and drains (R227, R237) -/

theorem exec_retryBudgetExpiry_of_posted {u : Uid} {stream : Byte} {q : Word} {s : State} {o : Op}
    (hop : opAt s u stream.toNat q = some o) (hposted : o.nonPosted = false) :
    exec (.retryBudgetExpiry u stream (some q)) s =
      .next (fencesGoOn (pump (budgetEnd o cTimeout (passTo (o.firstTx + retryBudget s) s)))) := by
  change execRetryBudgetExpiry u stream (some q) s = _
  simp only [execRetryBudgetExpiry, hop]
  exact if_neg (by simp [hposted])

theorem spliceDrained_bridge {s : State} (hoff : cfgOn s 0x2701 0 = false) (hidle : splIdle s = true) :
    spliceDrained .bridge s = { s with spl.drained := true } :=
  if_pos (by simp [hoff, hidle])

/-! ### Logs (R207, R236, R249, R409) -/

section
variable {who : Requester} {n : Nat} {s : State} (hreach : reaches s who = true)
include hreach

theorem popBy_of_owner (f : State → State) (hmay : featDenied s who n = false) : popBy who n f s = f s := by
  simp [popBy, hreach, hmay]

theorem popBy_of_non_owner (f : State → State) (hdenied : featDenied s who n = true) : popBy who n f s = bump 0x90044 s := by
  simp [popBy, hreach, hdenied]

theorem exec_dbValueRead_of_owner (hmay : featDenied s who 0 = false) :
    exec (.dbValueRead who) s =
      .next (emit (.readData who 0x5310C ((s.spl.db.head?.map (·.value)).getD 0)) { s with spl.db := s.spl.db.tail }) := by
  change execDbValueRead who s = _
  simp [execDbValueRead, hreach, hmay]

end

/-! ### Fences (R245, R246) -/

theorem fenceSend_of_idle {n : Nat} {s : State} (hfenced : streamSt s n = .fenced) (hnot : tget s.spl.fencing n false = false)
    (hidle : streamBusy s n = false) :
    fenceSend n s =
      let mine := s.spl.senders.filter (fun x => x.stream = n && !x.first)
      let u := { s with
        spl.fencing := tset s.spl.fencing n true
        spl.senders := s.spl.senders.filter (fun x => x.stream ≠ n || targetPresent s x.uid) }
      fenceCheck n ((mine.filter (fun x => targetPresent s x.uid)).foldl (fenceFrame n) u) :=
  if_neg (by simp [hfenced, hnot, hidle])

/-- Settles O12: the hypotheses of each clause pass its command's guards; a frame goes by bulisIn, a pop by popBy. -/
theorem bridgeControlCompletes : Obligations.BridgeControlCompletes := by
  refine ⟨?frame, ?refusedDam, ?budget, ?drained, ?cePop, ?pwfPop, ?deniedPop, ?doorbell, ?fence, ?fenceFrames, ?abort, ?bridge, ?window,
    ?stream⟩
  case frame =>
    rintro port mac b ecc s hon ⟨hhead, hdst, hpasses, hcompletion, hack⟩ hport
    rw [exec_bulisFrameReceive_of_on hon, bulisIn_of_good hhead hdst hpasses hcompletion hack hport]
  case refusedDam =>
    rintro port mac b ecc s ⟨hon, hdam, hclosed⟩ ⟨hhead, hdst, hpasses⟩
    rw [exec_bulisFrameReceive_of_on hon, bulisIn_of_refused_dam hhead hdst hdam hclosed hpasses]
  case budget => rintro u stream q s o ⟨hop, hposted⟩; exact exec_retryBudgetExpiry_of_posted hop hposted
  case drained =>
    rintro s ⟨hoff, hidle⟩
    exact congrArg (fun u => Host.Outcome.next (drainCheck .d12 (drainCheck .d8 u))) (spliceDrained_bridge hoff hidle)
  case cePop => rintro who s ⟨hreach, hmay⟩; exact congrArg Host.Outcome.next (popBy_of_owner hreach cePop hmay)
  case pwfPop => rintro who s ⟨hreach, hmay⟩; exact congrArg Host.Outcome.next (popBy_of_owner hreach pwfPop hmay)
  case deniedPop => rintro who s ⟨hreach, hdenied⟩; exact congrArg Host.Outcome.next (popBy_of_non_owner hreach cePop hdenied)
  case doorbell => rintro who s ⟨hreach, hmay⟩; exact exec_dbValueRead_of_owner hreach hmay
  case fence => intro who mask s hreach; exact if_pos hreach
  case fenceFrames => rintro n s ⟨hfenced, hnot, hidle⟩; exact congrArg Host.Outcome.next (fenceSend_of_idle hfenced hnot hidle)
  case abort => intro w s hreach; exact if_pos hreach
  case bridge => intro s hreach; exact if_pos hreach
  case window => intro w s hreach; exact if_pos hreach
  case stream => intro n s hreach; exact if_pos hreach

end Sys2Proof.Machine
end

section
/-!
PROOFS. The software engine of the check unit (R267, R268, R270, R409).
-/
namespace Sys2Proof.Machine

/-! ### Writes by the owner (R409) -/

theorem chkBy_of_owner {who : Requester} {s : State} (hreach : reaches s who = true) (hmay : featDenied s who 5 = false)
    (f : State → State) : chkBy who f s = f s := by
  simp [chkBy, hreach, hmay]

/-! ### Opening a run (R267) -/

section
variable {s : State} (hon : s.chk.enable = true) (hidle : s.chk.run = .idle)
include hon hidle

theorem chkStart_of_idle : chkStart s = { s with chk.run := .stream, chk.crc := chkLoad s, chk.count := 0 } := by
  simp [chkStart, hon, hidle]

theorem chkGo_of_idle : chkGo s = { s with chk.run := .descriptor, chk.crc := chkLoad s, chk.count := 0 } := by
  simp [chkGo, hon, hidle]

end

/-! ### A streaming run (R267) -/

theorem chkData_of_stream {s : State} (hon : s.chk.enable = true) (hstream : s.chk.run = .stream) (l : List Byte) :
    chkData l s = { s with chk.crc := crcBytes s.chk.crc l, chk.count := (s.chk.count + l.length) % 2 ^ 27 } := by
  simp [chkData, hon, hstream]

theorem chkFinish_of_stream {s : State} (hstream : s.chk.run = .stream) : chkFinish s = chkResult s.chk.crc s :=
  if_pos hstream

/-! ### The end of a descriptor run (R267, R270) -/

section
variable {s : State} (hrun : s.chk.run = .descriptor) (data : List Byte)
include hrun

theorem exec_chkDescriptorDone_of_read (hmem : domOn s .d10 = true) :
    exec (.chkDescriptorDone false data) s =
      let l := padTo s.chk.len data
      .next (chkResult (crcBytes s.chk.crc l) { s with chk.count := l.length % 2 ^ 27 }) := by
  change execChkDescriptorDone false data s = _
  simp [execChkDescriptorDone, hrun, hmem]

theorem exec_chkDescriptorDone_of_eccError :
    exec (.chkDescriptorDone true data) s = .next (chkFail (min data.length s.chk.len) s) := by
  change execChkDescriptorDone true data s = _
  simp [execChkDescriptorDone, hrun]

end

/-- Settles O13: the owner's write goes through chkBy, and the state of the run selects the branch that each command takes. The bytes and
the ECC error of a descriptor run are the command's operands (log 23), and COUNT at ERR gives those bytes (log 204). -/
theorem checkEngineCompletes : Obligations.CheckEngineCompletes := by
  refine ⟨?start, ?data, ?data8, ?finish, ?go, ?descriptorRead, ?descriptorError, ?disable⟩
  case start =>
    rintro who s ⟨hreach, hmay, hon, hidle⟩
    exact congrArg Host.Outcome.next ((chkBy_of_owner hreach hmay chkStart).trans (chkStart_of_idle hon hidle))
  case data =>
    rintro who v s ⟨hreach, hmay, hon, hstream⟩
    have htaken := chkData_of_stream hon hstream (leBytes 4 v.toNat)
    rw [leBytes_length] at htaken
    exact congrArg Host.Outcome.next ((chkBy_of_owner hreach hmay _).trans htaken)
  case data8 =>
    rintro who x s ⟨hreach, hmay, hon, hstream⟩
    exact congrArg Host.Outcome.next ((chkBy_of_owner hreach hmay _).trans (chkData_of_stream hon hstream [x]))
  case finish =>
    rintro who s ⟨hreach, hmay, hstream⟩
    exact congrArg Host.Outcome.next ((chkBy_of_owner hreach hmay chkFinish).trans (chkFinish_of_stream hstream))
  case go =>
    rintro who s ⟨hreach, hmay, hon, hidle⟩
    exact congrArg Host.Outcome.next ((chkBy_of_owner hreach hmay chkGo).trans (chkGo_of_idle hon hidle))
  case descriptorRead => rintro data s ⟨hrun, hmem⟩; exact exec_chkDescriptorDone_of_read hrun data hmem
  case descriptorError => intro data s hrun; exact exec_chkDescriptorDone_of_eccError hrun data
  case disable => rintro who s ⟨hreach, hmay⟩; exact congrArg Host.Outcome.next (chkBy_of_owner hreach hmay chkDisable)

end Sys2Proof.Machine
end

section
/-!
PROOFS. Legacy buses, the SDO server and the process-data bridge (R273 to R286, R305 to R307).
-/
namespace Sys2Proof.Machine

/-! ### What the configuration of the bridge rests on (R273, R275, R278, R284) -/

section
variable {s t : State} (hod : t.od = s.od)
include hod

theorem canObj_of_od (idx c i : Nat) : canObj t idx c i = canObj s idx c i := cfg_of_od hod ..

theorem mvbEntry_of_od (i : Nat) : mvbEntry t i = mvbEntry s i := cfg_of_od hod ..

theorem pdLen_of_od (kind i : Nat) : pdLen t kind i = pdLen s kind i := by
  simp only [pdLen, canObj_of_od hod, mvbEntry_of_od hod, cfg_of_od hod]

theorem srcEnabled_of_od (n : Nat) : srcEnabled t n = srcEnabled s n := by
  simp only [srcEnabled, canObj_of_od hod, mvbEntry_of_od hod, cfg_of_od hod]

theorem sinkEnabled_of_od (kind i : Nat) : sinkEnabled t kind i = sinkEnabled s kind i := by
  simp only [sinkEnabled, canObj_of_od hod, mvbEntry_of_od hod, cfg_of_od hod]

theorem canHit_of_od (c : Nat) (ext : Bool) (id : BitVec 29) : canHit t c ext id = canHit s c ext id := by
  funext i
  simp only [canHit, canObj_of_od hod]

end

theorem domOn_of_pwr {s t : State} (hpwr : t.pwr = s.pwr) (d : Dom) : domOn t d = domOn s d := by
  rw [domOn, domOn, domSt, domSt, hpwr]

theorem planeComplete_of_pwr {s t : State} (hpwr : t.pwr = s.pwr) (l : Line) : planeComplete t l = planeComplete s l := by
  cases l <;> simp only [planeComplete, domOn_of_pwr hpwr]

theorem pdbThere_of_pwr {s t : State} (hpwr : t.pwr = s.pwr) : pdbThere t = pdbThere s := by
  simp only [pdbThere, domOn_of_pwr hpwr, planeComplete_of_pwr hpwr]

theorem pdbActive_of_od_pwr {s t : State} (hod : t.od = s.od) (hpwr : t.pwr = s.pwr) : pdbActive t = pdbActive s := by
  rw [pdbActive, pdbActive, cfgOn_of_od hod, pdbThere_of_pwr hpwr]

theorem pdbThere_of_active {s : State} (hactive : pdbActive s = true) : pdbThere s = true :=
  (Bool.and_eq_true_iff.mp hactive).2

/-! ### CAN frames (R273, R274) -/

section
variable (c errs : Nat) (tec : BitVec 9) (rec_ : Byte) (s : State)

theorem canErrors_od : (canErrors c errs tec rec_ s).od = s.od := (canErrors_touches ..).od.resolve_left (by decide)

theorem canErrors_pwr : (canErrors c errs tec rec_ s).pwr = s.pwr := (canErrors_touches ..).pwr.resolve_left (by decide)

end

section
variable {c : Fin 2} {s : State} (hup : (canSt s c.val).state < 2)
include hup

theorem exec_canFrameReceive_of_hit {ext : Bool} {id : BitVec 29} {kind : CanKind} {d : List Byte} {i : Nat} (hactive : pdbActive s = true)
    (hkind : kind ≠ .remote) (hfd : kind = .fd → cfg s 0x2803 (c.val + 1) ≠ 0) (hlong : pdLen s c.val i ≤ d.length)
    (hhit : (List.range 64).find? (canHit s c.val ext id) = some i) (errs : Byte) (tec : BitVec 9) (rec_ : Byte) :
    exec (.canFrameReceive c ext id kind d errs tec rec_) s =
      let u := canErrors c.val errs.toNat tec rec_ s
      .next (srcArrive (64 * c.val + i) (d.take (pdLen s c.val i)) u.now (bump (canReg c.val 0) u)) := by
  change execCanFrameReceive c ext id kind d errs tec rec_ s = _
  have hod := canErrors_od c.val errs.toNat tec rec_ s
  have hformed : ¬ (kind = .fd ∧ cfg s 0x2803 (c.val + 1) = 0) := fun ⟨h, hoff⟩ => hfd h hoff
  simp [execCanFrameReceive, Nat.not_le.mpr hup, cfg_of_od hod, hformed, pdbActive_of_od_pwr hod (canErrors_pwr ..), hactive, hkind,
    canHit_of_od hod, hhit, pdLen_of_od hod, Nat.not_lt.mpr hlong]

theorem exec_canFrameReceive_of_formError (hoff : cfg s 0x2803 (c.val + 1) = 0) (ext : Bool) (id : BitVec 29) (d : List Byte) (errs : Byte)
    (tec : BitVec 9) (rec_ : Byte) :
    exec (.canFrameReceive c ext id .fd d errs tec rec_) s =
      .next (bump (canReg c.val 8) (canErrors c.val errs.toNat tec rec_ s)) := by
  change execCanFrameReceive c ext id .fd d errs tec rec_ s = _
  simp [execCanFrameReceive, Nat.not_le.mpr hup, cfg_of_od (canErrors_od ..), hoff]

end

/-! ### MVB (R275, R279) -/

section
variable (bad : Option (Fin 2)) (s : State)

/-- A master or slave frame leaves the dictionary as it was. -/
theorem mvbLines_mvbSeen_od : (mvbLines bad (mvbSeen s)).od = s.od := (mvbLines_touches ..).od.resolve_left (by decide)

theorem mvbLines_mvbSeen_pwr : (mvbLines bad (mvbSeen s)).pwr = s.pwr := (mvbLines_touches ..).pwr.resolve_left (by decide)

theorem pdbActive_mvbLines_mvbSeen : pdbActive (mvbLines bad (mvbSeen s)) = pdbActive s :=
  pdbActive_of_od_pwr (mvbLines_mvbSeen_od bad s) (mvbLines_mvbSeen_pwr bad s)

end

section
variable {addr : BitVec 12} {s : State} {i : Nat} (hunit : cfg s 0x2808 0 ≠ 0) (hactive : pdbActive s = true)
include hunit hactive

theorem exec_mvbPoll_of_sink {poll : MvbPoll} (hdata : poll.fcode.val ≠ 15)
    (hsink : (List.range 64).find? (fun i =>
      sinkEnabled s 2 i && mvbEntry s i % 2 ^ 12 = addr.toNat && mvbEntry s i / 2 ^ 16 % 8 = poll.fcode.val) = some i) :
    exec (.mvbPoll addr poll) s =
      let u := mvbLines poll.bad (mvbSeen s)
      .next (bump 0x68084 (emit (.mvb i (padTo (pdLen u 2 i) (sinkSt u (sinkNo 2 i)).data)) u)) := by
  change execMvbPoll addr poll s = _
  have hod := mvbLines_mvbSeen_od poll.bad s
  have hthen : pdbActive (mvbLines poll.bad (mvbSeen s)) = true := (pdbActive_mvbLines_mvbSeen ..).trans hactive
  simp only [execMvbPoll, hunit, pdbThere_of_active hthen, hthen, hdata, sinkEnabled_of_od hod, mvbEntry_of_od hod, hsink, Bool.not_true,
    Bool.false_eq_true, if_false]

theorem exec_mvbSinkReceive_of_source
    (hsource : (List.range 64).find? (fun i => srcEnabled s (128 + i) && mvbEntry s i % 2 ^ 12 = addr.toNat) = some i) (d : List Byte)
    (bad : Option (Fin 2)) :
    exec (.mvbSinkReceive addr d bad) s =
      let u := mvbLines bad (mvbSeen s)
      .next (srcArrive (128 + i) (padTo (pdLen u 2 i) d) u.now (bump 0x68080 u)) := by
  change execMvbSinkReceive addr d bad s = _
  have hod := mvbLines_mvbSeen_od bad s
  simp only [execMvbSinkReceive, hunit, pdbActive_mvbLines_mvbSeen, hactive, srcEnabled_of_od hod, mvbEntry_of_od hod, hsource,
    Bool.not_true, Bool.false_eq_true, if_false]

end

/-! ### Emission and staleness (R278, R280) -/

theorem exec_sinkEmission_of_due {kind : Fin 5} {i : Fin 64} {s : State} {t : Nat} (hnotMvb : kind.val ≠ 2)
    (hnotSubscribed : kind.val ≠ 3) (hon : sinkEnabled s kind.val i.val = true) (hactive : pdbActive s = true)
    (hdue : sinkDue s kind.val i.val = some t) :
    exec (.sinkEmission kind i) s =
      let u := passTo t s
      .next (if kind.val = 4 then emitSink 4 i.val u else (canDue u kind.val).foldl (fun s j => emitSink kind.val j s) u) := by
  change execSinkEmission kind i s = _
  simp only [execSinkEmission, hnotMvb, hnotSubscribed, hon, hactive, hdue]
  exact (apply_ite Host.Outcome.next ..).symm

theorem exec_sourceStale_of_fresh {n : Fin 256} {s : State} (hfresh : (srcSt s n.val).fresh = true) (hlimit : srcLimit s n.val ≠ 0)
    (hon : srcEnabled s n.val = true) :
    exec (.sourceStale n) s =
      let u := passTo ((srcSt s n.val).lastAt + srcLimit s n.val * fr) s
      .next (srcStale n.val (passToInstant (nextPerf u.now) u)) :=
  if_neg (by simp [hfresh, hlimit, hon])

/-! ### Process-data frames (R283) -/

theorem exec_pdFrameReceive_of_subscribed {b : List Byte} {s : State} (hactive : pdbActive s = true) (hversion : b.getD 0 0 = 1)
    (hsubs : (List.range 64).filter (fun k => cfg s 0x2838 (k + 1) ≠ 0 && cfg s 0x2838 (k + 1) = beNat ((b.drop 4).take 4)) ≠ []) :
    exec (.pdFrameReceive b) s =
      .next (((List.range 64).filter (fun k => cfg s 0x2838 (k + 1) ≠ 0 && cfg s 0x2838 (k + 1) = beNat ((b.drop 4).take 4))).foldl
        (pdSub b) s) := by
  have hshut : ¬ ((!pdbActive s) = true) := by simp [hactive]
  exact (if_neg hshut).trans (if_neg (by rw [hversion]; simpa using hsubs))

/-! ### The SDO server and the heartbeat (R305 to R307) -/

theorem sdoTakes_of_request {s : State} {c : Nat} {m : SdoIn} (hruns : sdoRuns s c = true) (hstandard : m.ext = false)
    (hid : m.id.toNat = 0x600 + cfg s 0x2009 (c + 1)) (husdo : m.usdo = true → cfg s 0x2803 (c + 1) ≠ 0) : sdoTakes s c m = true := by
  cases hform : m.usdo <;> simp [sdoTakes, hruns, hstandard, hid, hform]
  exact husdo hform

theorem exec_sdoSegmentTimeout_of_transfer {c : Fin 2} {s : State} {x : Sdo} (hopen : tfind s.od.sdo c.val = some x) :
    exec (.sdoSegmentTimeout c) s = .next (sdoAbort c x.index x.sub aSdoTimeout (bumpOd 7 (passTo x.deadline s))) := by
  change execSdoSegmentTimeout c s = _
  simp only [execSdoSegmentTimeout, hopen]

/-- Settles O14: the hypotheses of each clause pass its command's guards. A received frame leaves the dictionary and the domains as they
were, so what the state before it selects is what the command finds; canFallOff sets the port it reads (log 205).
The first emission and the heartbeat's times are those of log 181 and 182. -/
theorem legacyBusesComplete : Obligations.LegacyBusesComplete := by
  refine ⟨?frame, ?formError, ?busOff, ?queue, ?recovery, ?recover, ?poll, ?sinkFrame, ?silence, ?emission, ?stale, ?pdFrame, ?forceStop,
    ?drained, ?sdo, ?sdoTimeout, ?heartbeat⟩
  case frame =>
    rintro c ext id kind d errs tec rec_ s i ⟨hactive, hup⟩ ⟨hkind, hfd, hlong⟩ hhit
    exact exec_canFrameReceive_of_hit hup hactive hkind hfd hlong hhit errs tec rec_
  case formError =>
    rintro c ext id d errs tec rec_ s ⟨hup, hoff⟩
    exact exec_canFrameReceive_of_formError hup hoff ext id d errs tec rec_
  case busOff => intro c s honBus; exact if_neg honBus
  case queue => intro c s; exact tget_tset_same ..
  case recovery => intro c s hauto; exact if_neg (by simp [hauto])
  case recover => intro mask s hreach; exact if_pos hreach
  case poll => rintro addr poll s i ⟨hunit, hactive, hdata⟩ hsink; exact exec_mvbPoll_of_sink hunit hactive hdata hsink
  case sinkFrame => rintro addr d bad s i ⟨hunit, hactive⟩ hsource; exact exec_mvbSinkReceive_of_source hunit hactive hsource d bad
  case silence => rintro s ⟨hunit, hheard⟩; exact if_neg (by simp [hunit, hheard])
  case emission =>
    rintro kind i s t ⟨hnotMvb, hnotSubscribed, hon, hactive⟩ hdue
    exact exec_sinkEmission_of_due hnotMvb hnotSubscribed hon hactive hdue
  case stale => rintro n s ⟨hfresh, hlimit, hon⟩; exact exec_sourceStale_of_fresh hfresh hlimit hon
  case pdFrame => rintro b s ⟨hactive, hversion⟩ hsubs; exact exec_pdFrameReceive_of_subscribed hactive hversion hsubs
  case forceStop => intro s hreach; exact if_pos hreach
  case drained => intro s hoff; exact if_neg (by simp [hoff])
  case sdo => rintro c m s ⟨hruns, hstandard, hid⟩ husdo; exact if_pos (sdoTakes_of_request hruns hstandard hid husdo)
  case sdoTimeout => intro c s x hopen; exact exec_sdoSegmentTimeout_of_transfer hopen
  case heartbeat => rintro c s ⟨hon, hruns⟩; exact if_neg (by simp [hon, hruns])

end Sys2Proof.Machine
end

section
/-!
PROOFS. The rows of the dictionary, and what the checks of one access let pass (R311, Table 11.4).
-/
namespace Sys2Proof.Machine

/-! ### Rows -/

section
variable {idx sub : Nat} {r : Obj} (hrow : objRow idx sub = some r)
include hrow

theorem covers_of_row : r ∈ objRows ∧ r.idxLo ≤ idx ∧ idx ≤ r.idxHi ∧ r.subLo ≤ sub ∧ sub ≤ r.subHi := by
  have hcovers : r.covers idx sub = true := by
    have h := List.find?_some hrow
    exact h
  exact ⟨List.mem_of_find?_eq_some hrow, of_decide_eq_true hcovers⟩

/-- Checks 1 and 2 let pass what has a row below the register-only fields. -/
theorem existCode_of_row (hidx : idx < 0x10000) : existCode idx sub = 0 := by
  obtain ⟨hmem, hlo, hhi, -, -⟩ := covers_of_row hrow
  have hexists : indexExists idx = true := by
    simp only [indexExists, Bool.and_eq_true, decide_eq_true_eq, List.any_eq_true]
    exact ⟨hidx, r, hmem, hlo, hhi⟩
  simp [existCode, hexists, hrow]

theorem readRight_of_row : readRight idx sub = if r.acc = .wo then aWriteOnly else 0 := by
  rw [readRight, hrow]

theorem writeRight_of_row (hacc : r.acc ≠ .ro) : writeRight idx sub = 0 := by
  simp only [writeRight, hrow, if_neg hacc]

/-- But for a software trigger and a clear, a write needs its entry's level whatever it writes. -/
theorem levelNeeded_of_row (d : List Byte) (htrigger : idx ≠ 0x2A10) (hclear : idx ≠ 0x2A20) : levelNeeded idx sub d = r.level := by
  simp [levelNeeded, hrow, htrigger, hclear]

end

theorem row_store {sub : Nat} (h : sub = 1 ∨ sub = 2 ∨ sub = 3) :
    objRow 0x1010 sub = some ⟨0x1010, 0x1010, 1, 3, .uint 4, .rw, 2, 0, 4294967295, 1, .no, []⟩ := by
  rcases h with rfl | rfl | rfl <;> decide +kernel

theorem row_restore {sub : Nat} (h : sub = 1 ∨ sub = 2 ∨ sub = 3) :
    objRow 0x1011 sub = some ⟨0x1011, 0x1011, 1, 3, .uint 4, .rw, 2, 0, 4294967295, 1, .no, []⟩ := by
  rcases h with rfl | rfl | rfl <;> decide +kernel

theorem row_challenge : objRow 0x2002 1 = some ⟨0x2002, 0x2002, 1, 1, .oct 16, .ro, 0, 0, 0, 0, .no, []⟩ := by decide +kernel

theorem row_wanted_level : objRow 0x2002 2 = some ⟨0x2002, 0x2002, 2, 2, .uint 1, .wo, 0, 0, 3, 0, .no, []⟩ := by decide +kernel

theorem row_response : objRow 0x2002 3 = some ⟨0x2002, 0x2002, 3, 3, .oct 16, .wo, 0, 0, 0, 0, .no, []⟩ := by decide +kernel

theorem row_level_key {sub : Nat} (h : sub = 1 ∨ sub = 2) :
    objRow 0x2003 sub = some ⟨0x2003, 0x2003, sub, sub, .oct 32, .wo, 2, 0, 0, 0, .no, []⟩ := by
  rcases h with rfl | rfl <;> decide +kernel

/-- The row of an exit request and that of a node reset, but for the index alike. -/
def exitRow (idx : Nat) : Obj := ⟨idx, idx, 0, 0, .uint 1, .wo, 2, 1, 1, 0, .no, []⟩

theorem row_exit {idx : Nat} (h : idx = 0x2140 ∨ idx = 0x2141) : objRow idx 0 = some (exitRow idx) := by
  rcases h with rfl | rfl <;> decide +kernel

theorem row_app_key : objRow 0x2C10 0 = some ⟨0x2C10, 0x2C10, 0, 0, .oct 97, .wo, 3, 0, 0, 0, .nextReset, []⟩ := by decide +kernel

theorem row_image : objRow 0x2C20 0 = some ⟨0x2C20, 0x2C20, 0, 0, .dom 67108864, .wo, 2, 0, 0, 0, .no, []⟩ := by decide +kernel

theorem row_slot : objRow 0x2C21 0 = some ⟨0x2C21, 0x2C21, 0, 0, .uint 1, .wo, 2, 1, 1, 0, .nextReset, []⟩ := by decide +kernel

theorem row_cak {sub : Nat} (hlo : 1 ≤ sub) (hhi : sub ≤ 4) :
    objRow 0x2C31 sub = some ⟨0x2C31, 0x2C31, 1, 4, .dom 64, .wo, 2, 0, 0, 0, .no, []⟩ := by
  obtain rfl | rfl | rfl | rfl : sub = 1 ∨ sub = 2 ∨ sub = 3 ∨ sub = 4 := by omega
  all_goals decide +kernel

/-! ### Whole values (checks 6 to 8) -/

theorem lengthFits_of_scalar {r : Obj} (hscalar : r.ty.isScalar = true) (n : Nat) : lengthFits r n = decide (n = r.ty.size) := by
  unfold lengthFits
  split
  · next hty => simp [hty, Ty.isScalar] at hscalar
  · next hty => simp [hty, Ty.isScalar] at hscalar
  · rfl

/-- A length that fits passes check 6 on a value written in one piece. -/
theorem length_of_lengthOk {k n : Nat} {r : Obj} (h : lengthOk k r n = true) :
    if r.ty.isScalar then n = r.ty.size else lengthOk k r n = true := by
  split
  · next hscalar =>
    obtain ⟨hfits, -⟩ := (Bool.and_eq_true_iff ..).mp h
    rwa [lengthFits_of_scalar hscalar, decide_eq_true_eq] at hfits
  · exact h

theorem lengthOk_of_wholeCode {k : Nat} {r : Obj} {d : List Byte} (h : wholeCode k r d = 0) : lengthOk k r d.length = true := by
  cases hlen : lengthOk k r d.length with
  | true => rfl
  | false =>
    rw [wholeCode, if_pos (by rw [hlen]; rfl)] at h
    exact absurd h (by decide)

@[simp] theorem offBoundary_bytes (k : Nat) (l : List Byte) : offBoundary k (.bytes l) = false := by
  simp [offBoundary, valNum]

theorem valueCode_bytes (k : Nat) (r : Obj) (l : List Byte) :
    valueCode k r (.bytes l) = if badBytes (k / 256) l then aBadValue else 0 := by
  simp [valueCode, rangeCode, rangeFault]

/-- A byte string has no range and no boundary: past its length, only its entry can refuse it. -/
theorem wholeCode_of_bytes {k : Nat} {r : Obj} {d : List Byte} (hbytes : r.ty.isScalar = false) (hlen : lengthOk k r d.length = true) :
    wholeCode k r d = if badBytes (k / 256) d then aBadValue else 0 := by
  have hval : valOfBytes r d = .bytes d := by simp [valOfBytes, hbytes]
  cases hbad : badBytes (k / 256) d <;> simp [wholeCode, hlen, hval, valueCode_bytes, hbad]

/-! ### Objects that act -/

theorem key_index {idx sub : Nat} (hsub : sub < 256) : key idx sub / 256 = idx := by
  unfold key; omega

/-- No relation of check 10 is about an object that acts. -/
theorem relationCode_of_acting {idx sub : Nat} (hacts : actsItself idx = true) (hsub : sub < 256) (t : State) :
    relationCode (key idx sub) t = 0 := by
  simp only [actsItself, List.contains_iff_mem, List.mem_cons, List.not_mem_nil, or_false] at hacts
  unfold relationCode
  rw [key_index hsub]
  obtain rfl | rfl | rfl | rfl | rfl | rfl | rfl | rfl | rfl | rfl | rfl | rfl | rfl | rfl | rfl | rfl | rfl | rfl | rfl | rfl := hacts
  all_goals rfl

theorem index_of_acting {idx : Nat} (hacts : actsItself idx = true) :
    idx < 0x10000 ∧ idx ≠ 0x1010 ∧ idx ≠ 0x2140 ∧ idx ≠ 0x2141 := by
  simp only [actsItself, List.contains_iff_mem, List.mem_cons, List.not_mem_nil, or_false] at hacts
  omega

/-! ### A whole value written to an object -/

theorem writeWhole_of_bad_value {i : Session} {q : Req} {r : Obj} {d : List Byte} {s : State}
    (hlevel : ¬ (sessOf s i).level < levelNeeded q.index q.sub d) (hbad : wholeCode (key q.index q.sub) r d ≠ 0) :
    writeWhole i q r d s = finish i .write q (codeRsp .write q (wholeCode (key q.index q.sub) r d) 0) s := by
  unfold writeWhole
  dsimp only
  rw [if_neg hlevel, if_pos hbad]

section
variable {i : Session} {n : Word} {idx sub : Nat} {d : List Byte} {r : Obj} {s : State} (hready : readyFor s i = true)
  (hnone : (sessOf s i).partialV = none) (hrow : objRow idx sub = some r) (hacc : r.acc ≠ .ro) (htake : r.take ≠ .yes)
  (hlevel : levelNeeded idx sub d ≤ (sessOf s i).level) (hstate : writeState s idx sub = 0)
include hready hnone hrow hacc htake hlevel hstate

/-- Past the checks of its access and its length, a whole value that no take governs goes by its value and its effect. -/
theorem serve_write_of_row (hidx : idx < 0x10000) (hlen : lengthOk (key idx sub) r d.length = true) :
    serve i .write (writeReq n idx sub d) s = writeWhole i (writeReq n idx sub d) r d (wholeWrite i s) :=
  write_whole hready hnone hlevel hstate (existCode_of_row hrow hidx) (writeRight_of_row hrow hacc) hrow (length_of_lengthOk hlen)
    (eq_false htake)

/-- A value that checks 6 to 8 refuse is answered with their code. -/
theorem serve_write_of_bad_value (hidx : idx < 0x10000) (hlen : lengthOk (key idx sub) r d.length = true)
    (hbad : wholeCode (key idx sub) r d ≠ 0) :
    serve i .write (writeReq n idx sub d) s =
      finish i .write (writeReq n idx sub d) (codeRsp .write (writeReq n idx sub d) (wholeCode (key idx sub) r d) 0) (wholeWrite i s) := by
  rw [serve_write_of_row hready hnone hrow hacc htake hlevel hstate hidx hlen]
  exact writeWhole_of_bad_value (by rw [sessOf_wholeWrite]; exact Nat.not_lt.mpr hlevel) hbad

/-- A value that passes every check goes by the object. -/
theorem serve_write_of_plain (hidx : idx < 0x10000) (hvalue : wholeCode (key idx sub) r d = 0) :
    serve i .write (writeReq n idx sub d) s = plainWrite i (writeReq n idx sub d) r (key idx sub) d (wholeWrite i s) := by
  rw [serve_write_of_row hready hnone hrow hacc htake hlevel hstate hidx (lengthOk_of_wholeCode hvalue)]
  exact writeWhole_plain (by rw [sessOf_wholeWrite]; exact Nat.not_lt.mpr hlevel) hvalue htake

/-- An object that acts does so with the value, and the write is answered with its code. -/
theorem serve_write_of_acting (hacts : actsItself idx = true) (hsub : sub < 256) (hvalue : wholeCode (key idx sub) r d = 0) :
    serve i .write (writeReq n idx sub d) s =
      finish i .write (writeReq n idx sub d) (codeRsp .write (writeReq n idx sub d) (objAction i idx sub d (wholeWrite i s)).1 d.length)
        (objAction i idx sub d (wholeWrite i s)).2 := by
  obtain ⟨hidx, hstore, hexit, hreset⟩ := index_of_acting hacts
  rw [serve_write_of_plain hready hnone hrow hacc htake hlevel hstate hidx hvalue]
  simp [plainWrite, writeReq, relationCode_of_acting hacts hsub, hstore, hexit, hreset, hacts]

end

end Sys2Proof.Machine
end

section
/-!
PROOFS. Reads and requests of a ready session, and what a node state leaves of them (R297, R301, R311, R423, R458, R459).
-/
namespace Sys2Proof.Machine

/-! ### Reads (R311) -/

section
variable {i : Session} {q : Req} {s : State} (hready : readyFor s i = true)
include hready

theorem exec_read_of_first (hcode : readCode i q = 0) (hoffset : q.offset = 0) :
    exec (.read i q) s = .next (readFirst i q (requested i s)) := by
  change Host.Outcome.next (serve i .read q s) = _
  rw [execute_read hready, doRead, if_neg (by simp [hcode]), if_pos hoffset]

theorem exec_read_of_refused (hcode : readCode i q ≠ 0) :
    exec (.read i q) s = .next (finish i .read q (codeRsp .read q (readCode i q) 0) (requested i s)) := by
  change Host.Outcome.next (serve i .read q s) = _
  rw [execute_read hready, doRead, if_pos hcode]

end

/-- A WO object that exists is refused to every reader. -/
theorem readCode_of_write_only {i : Session} {q : Req} {r : Obj} (htotal : readTotalOk i q = true) (hidx : q.index < 0x10000)
    (hrow : objRow q.index q.sub = some r) (hacc : r.acc = .wo) : readCode i q = aWriteOnly := by
  have hright : readRight q.index q.sub = aWriteOnly := by rw [readRight_of_row hrow, if_pos hacc]
  simp [readCode, htotal, existCode_of_row hrow hidx, hright]

/-- The keys of levels 1 and 2, the CAK and CKN of a port, and the enrolled application key are WO objects (Tables 11.13, 16.8). -/
theorem row_of_secret {idx sub : Nat}
    (h : (idx = 0x2003 ∧ (sub = 1 ∨ sub = 2)) ∨ (idx = 0x2C31 ∧ 1 ≤ sub ∧ sub ≤ 4) ∨ (idx = 0x2C10 ∧ sub = 0)) :
    ∃ r, objRow idx sub = some r ∧ r.acc = .wo ∧ idx < 0x10000 := by
  rcases h with ⟨rfl, hsub⟩ | ⟨rfl, hlo, hhi⟩ | ⟨rfl, rfl⟩
  · exact ⟨_, row_level_key hsub, rfl, by decide⟩
  · exact ⟨_, row_cak hlo hhi, rfl, by decide⟩
  · exact ⟨_, row_app_key, rfl, by decide⟩

/-- Settles O50: each of the secrets is a WO object, and check 3 comes before any byte is read. -/
theorem keysAreNeverRead : Obligations.KeysAreNeverRead := by
  rintro i q s ⟨hready, htotal⟩ hsecret
  obtain ⟨r, hrow, hacc, hidx⟩ := row_of_secret hsecret
  have hcode : readCode i q = aWriteOnly := readCode_of_write_only htotal hidx hrow hacc
  have hread := exec_read_of_refused hready (show readCode i q ≠ 0 by rw [hcode]; decide)
  rw [hcode] at hread
  exact ⟨hread, rfl⟩

/-! ### Node states in which nothing is served (R301) -/

theorem serve_of_unserved {s : State} (h : s.node = .asleep ∨ s.node = .off) (i : Session) (op : DictOp) (q : Req) :
    serve i op q s = s :=
  if_pos (by rcases h with h | h <;> simp [served, h])

/-! ### Writes that a node state refuses (R301, check 5) -/

theorem writeState_of_exit_path {s : State} (h : s.node = .fault ∨ s.node = .exit) (idx sub : Nat) :
    writeState s idx sub = aDeviceState := by
  rcases h with h | h <;> rw [writeState, h]

theorem writeState_of_dusk {s : State} (h : s.node = .dusk) (idx sub : Nat) :
    writeState s idx sub = if ((objRow idx sub).map (·.take)) = some .yes then aDeviceState else 0 := by
  rw [writeState, h]

/-- What the state does not allow is refused, by check 5 or by one before it. -/
theorem accessCode_of_refused_state {i : Session} {q : Req} {s : State} (hother : exitWrite q = false)
    (hstate : writeState s q.index q.sub ≠ 0) : accessCode i q s ≠ 0 := by
  unfold accessCode
  split
  · assumption
  split
  · assumption
  by_cases hlevel : (sessOf s i).level < levelNeeded q.index q.sub (if q.offset = 0 then q.data else [])
  · rw [if_pos hlevel]
    decide
  · rw [if_neg hlevel, if_neg (by simp [hother])]
    exact hstate

theorem exec_write_of_refused {i : Session} {q : Req} {s : State} (hready : readyFor s i = true)
    (hcode : accessCode i q (requested i s) ≠ 0) :
    exec (.write i q) s =
      .next (finish i .write q (codeRsp .write q (accessCode i q (requested i s)) 0) (wholeWrite i s)) := by
  change Host.Outcome.next (serve i .write q s) = _
  rw [execute_write hready, doWrite_refused hcode]

theorem exec_write_of_refused_state {i : Session} {q : Req} {s : State} (hready : readyFor s i = true) (hother : exitWrite q = false)
    (hstate : writeState s q.index q.sub ≠ 0) :
    ∃ c, c ≠ 0 ∧ exec (.write i q) s = .next (finish i .write q (codeRsp .write q c 0) (wholeWrite i s)) :=
  have hcode : accessCode i q (requested i s) ≠ 0 := accessCode_of_refused_state hother (by rwa [writeState_requested])
  ⟨_, hcode, exec_write_of_refused hready hcode⟩

/-! ### Exit requests and node resets (R301, R458, R459) -/

/-- The two writes that FAULT and EXIT allow pass check 5 in every state. -/
theorem accessCode_of_exit {i : Session} {n : Word} {idx : Nat} {s : State} (hexit : idx = 0x2140 ∨ idx = 0x2141)
    (hlevel : 2 ≤ (sessOf s i).level) : accessCode i (writeReq n idx 0 [1]) s = 0 := by
  have hallowed : exitWrite (writeReq n idx 0 [1]) = true := by rcases hexit with rfl | rfl <;> rfl
  have hexist : existCode idx 0 = 0 := existCode_of_row (row_exit hexit) (by omega)
  have hright : writeRight idx 0 = 0 := writeRight_of_row (row_exit hexit) (by simp [exitRow])
  have henough : ¬ (sessOf s i).level < levelNeeded idx 0 [1] := by
    rw [levelNeeded_of_row (row_exit hexit) [1] (by omega) (by omega)]
    exact Nat.not_lt.mpr hlevel
  calc accessCode i (writeReq n idx 0 [1]) s
      = if exitWrite (writeReq n idx 0 [1]) then 0 else writeState s idx 0 :=
        (if_neg (not_not_intro hexist)).trans ((if_neg (not_not_intro hright)).trans (if_neg henough))
    _ = 0 := if_pos hallowed

section
variable {i : Session} {n : Word} {s : State} (hready : readyFor s i = true) (hnone : (sessOf s i).partialV = none)
  (hlevel : 2 ≤ (sessOf s i).level)
include hready hnone hlevel

theorem serve_write_of_exit {idx : Nat} (hexit : idx = 0x2140 ∨ idx = 0x2141) :
    serve i .write (writeReq n idx 0 [1]) s =
      plainWrite i (writeReq n idx 0 [1]) (exitRow idx) (key idx 0) [1] (wholeWrite i s) := by
  have hcode : accessCode i (writeReq n idx 0 [1]) (requested i s) = 0 := accessCode_of_exit hexit (by rwa [sessOf_requested])
  have hvalue : wholeCode (key idx 0) (exitRow idx) [1] = 0 := by rcases hexit with rfl | rfl <;> decide
  rw [execute_write hready, doWrite_whole hnone hcode (row_exit hexit) rfl rfl rfl]
  exact writeWhole_plain (level_of_access rfl hcode) hvalue (by simp [exitRow])

/-- It is answered before it acts: the channel may go with it. -/
theorem serve_write_exit_request :
    serve i .write (writeReq n 0x2140 0 [1]) s =
      warn 3 (finish i .write (writeReq n 0x2140 0 [1]) (codeRsp .write (writeReq n 0x2140 0 [1]) 0 1) (wholeWrite i s)) := by
  rw [serve_write_of_exit hready hnone hlevel (.inl rfl)]
  rfl

theorem serve_write_node_reset :
    serve i .write (writeReq n 0x2141 0 [1]) s =
      askReset .dictionary
        (finish i .write (writeReq n 0x2141 0 [1]) (codeRsp .write (writeReq n 0x2141 0 [1]) 0 1) (wholeWrite i s)) := by
  rw [serve_write_of_exit hready hnone hlevel (.inr rfl)]
  rfl

end

/-- In EXIT a node reset waits for SAFE_TO_REMOVE. -/
theorem askReset_of_exit {s : State} (h : s.node = .exit) (c : ResetCause) :
    askReset c s = if s.hpl.safeToRemove then resetNode (resetCode c) s else { s with hpl.resetAsked := some c } := by
  rw [askReset, h]

/-- Settles O44: check 5 refuses what the state does not allow, but for the two writes of serve_write_of_exit; reads pass no check of
the state. -/
theorem nodeStatesLimitTheDictionary : Obligations.NodeStatesLimitTheDictionary := by
  refine ⟨?unserved, ?exitPathRefuses, ?exitPathAllows, ?resetWaits, ?reads, ?duskRefuses, ?duskAllows⟩
  case unserved =>
    intro i q s hnode
    have hnext (op : DictOp) (q : Req) : (Host.Outcome.next (serve i op q s) : Ans) = .next s := by rw [serve_of_unserved hnode]
    exact ⟨hnext .read q, hnext .write q, fun n => ⟨hnext .slate _, hnext .scrap _, hnext .close _, fun t => hnext .print _⟩⟩
  case exitPathRefuses =>
    rintro i q s ⟨hready, hnode, hother⟩
    exact exec_write_of_refused_state hready hother (by rw [writeState_of_exit_path hnode]; decide)
  case exitPathAllows =>
    rintro i n s ⟨hready, -⟩ ⟨hlevel, hnone⟩
    exact ⟨congrArg Host.Outcome.next (serve_write_exit_request hready hnone hlevel),
      congrArg Host.Outcome.next (serve_write_node_reset hready hnone hlevel)⟩
  case resetWaits =>
    rintro c s ⟨hexit, hunsafe⟩
    refine ⟨?_, fun t hexit hsafe => ?_⟩
    · rw [askReset_of_exit hexit, if_neg (by simp [hunsafe])]
    · rw [askReset_of_exit hexit, if_pos hsafe]
  case reads => rintro i q s ⟨hready, -⟩ ⟨hcode, hoffset⟩; exact exec_read_of_first hready hcode hoffset
  case duskRefuses =>
    rintro i q s ⟨hready, hdusk, htake, hother⟩
    exact exec_write_of_refused_state hready hother (by rw [writeState_of_dusk hdusk, if_pos htake]; decide)
  case duskAllows => rintro s x y ⟨hdusk, htake⟩; rw [writeState_of_dusk hdusk, if_neg htake]

end Sys2Proof.Machine
end

section
/-!
PROOFS. Whole values written by WRITE: what a take stages, and what is applied at once (R289, R290, R319, R320, R322).
-/
namespace Sys2Proof.Machine

/-! ### What the start of a request and of a write leaves as it was -/

theorem requested_touches (i : Session) (s : State) : Touches [.od] s (requested i s) :=
  (bumpOd_touches ..).after (by decide) ((setSess_touches ..).after (by decide) (setSess_touches ..))

theorem requested_now (i : Session) (s : State) : (requested i s).now = s.now := (requested_touches i s).now.resolve_left (by decide)
theorem requested_up (i : Session) (s : State) : (requested i s).up = s.up := (requested_touches i s).up.resolve_left (by decide)
theorem requested_tak (i : Session) (s : State) : (requested i s).tak = s.tak := (requested_touches i s).tak.resolve_left (by decide)

theorem requested_unanswered (i : Session) (s : State) : (requested i s).od.unanswered = s.od.unanswered := rfl

theorem wholeWrite_touches (i : Session) (s : State) : Touches [.od, .tak] s (wholeWrite i s) :=
  (setSess_touches ..).after (by decide) ((renewTake_touches ..).after (by decide) ((requested_touches i s).wider (by decide)))

/-! ### A WRITE of a whole value -/

section
variable {i : Session} {q : Req} {r : Obj} {s : State} (hready : readyFor s i = true) (hnone : (sessOf s i).partialV = none)
  (hcode : accessCode i q (requested i s) = 0) (hrow : objRow q.index q.sub = some r) (hoffset : q.offset = 0)
  (htotal : q.total = q.data.length)
  (hlen : if r.ty.isScalar then q.data.length = r.ty.size else lengthOk (key q.index q.sub) r q.total = true)
  (hvalue : wholeCode (key q.index q.sub) r q.data = 0)
include hready hnone hcode hrow hoffset htotal hlen hvalue

/-- Past checks 1 to 8, a value goes by the Take column of its object. -/
theorem exec_write_of_whole :
    exec (.write i q) s =
      .next (if r.take = .yes then takeWrite i q (key q.index q.sub) (valOfBytes r q.data) q.data.length (wholeWrite i s)
        else plainWrite i q r (key q.index q.sub) q.data (wholeWrite i s)) := by
  have hlevel := level_of_access hoffset hcode
  change Host.Outcome.next (serve i .write q s) = _
  rw [execute_write hready, doWrite_whole hnone hcode hrow hoffset htotal hlen, writeWhole,
    if_neg hlevel, if_neg (not_not_intro hvalue)]

end

/-! ### The take of a session (R319, R320, R322) -/

theorem tellScrap_of_told {i : Session} {s : State} (h : (sessOf s i).scrapUntold = false) : tellScrap i s = (false, s) := by
  simp [tellScrap, h]

theorem ownsOpen_iff {i : Session} {s : State} :
    ownsOpen i s = true ↔ s.tak.user.state = .open_ ∧ s.tak.user.owner = ownerCode i := by
  simp [ownsOpen]

@[simp] theorem ownsOpen_wholeWrite (i : Session) (s : State) : ownsOpen i (wholeWrite i s) = ownsOpen i s := by
  simp [ownsOpen]

theorem wholeWrite_up (i : Session) (s : State) : (wholeWrite i s).up = s.up := (wholeWrite_touches i s).up.resolve_left (by decide)

/-- The owner of the OPEN take stages a value within the limits of R320; that train-wide content notes its level too is left aside. -/
theorem takeWrite_of_owner {i : Session} {q : Req} {k len : Nat} {v : Val} {s : State} (htold : (sessOf s i).scrapUntold = false)
    (hown : ownsOpen i s = true) (hlocal : k ≠ key 0x2F10 0) :
    takeWrite i q k v len s =
      let t := tset s.tak.user.staged k v
      if withinLimits t then finish i .write q (codeRsp .write q 0 len) { s with tak.user.staged := t, tak.user.lastReq := s.up }
      else finish i .write q (codeRsp .write q aTakeFull 0) s := by
  simp only [takeWrite, tellScrap_of_told htold, hown, stageIn, if_neg hlocal]
  cases withinLimits (tset s.tak.user.staged k v) <;> simp

/-- Settles O46: a value past its checks reaches takeWrite; a write that is refused has renewed the take all the same. -/
theorem takeStaging : Obligations.TakeStaging := by
  refine ⟨?staged, ?replaced⟩
  case staged =>
    rintro i q r s ⟨hready, hnone, hcode⟩ ⟨hrow, hoffset, htotal⟩ hlen ⟨hvalue, htake, hown, htold⟩ hlocal
    rw [exec_write_of_whole hready hnone hcode hrow hoffset htotal hlen hvalue, if_pos htake,
      takeWrite_of_owner (by rwa [sessOf_wholeWrite]) (by rwa [ownsOpen_wholeWrite]) hlocal]
    simp only [wholeWrite_owned hown]
    simp only [wholeWrite_staged, wholeWrite_up]
  case replaced =>
    intro t k j v x d
    exact ⟨tget_tset_same .., fun hne => tget_tset_other _ _ _ _ _ hne.symm⟩

/-! ### An object that no take governs (R289) -/

/-- Past its relations, a value of an object without an effect of its own is applied at once. -/
theorem plainWrite_of_value {i : Session} {q : Req} {r : Obj} {k : Nat} {d : List Byte} {s : State}
    (hrelation : relationCode k (applyVals [(k, valOfBytes r d)] (relationState s)) = 0) (htake : r.take = .no)
    (hacts : actsItself q.index = false) (hvalue : ¬ (q.index = 0x1010 ∨ q.index = 0x2140 ∨ q.index = 0x2141)) :
    plainWrite i q r k d s = finish i .write q (codeRsp .write q 0 d.length) (applyVals [(k, valOfBytes r d)] s) := by
  obtain ⟨hstore, hexit, hreset⟩ : q.index ≠ 0x1010 ∧ q.index ≠ 0x2140 ∧ q.index ≠ 0x2141 := by simpa using hvalue
  simp [plainWrite, hrelation, hstore, hexit, hreset, hacts, htake]

end Sys2Proof.Machine
end

section
/-!
PROOFS. The requests of a ready session: READ, WRITE, SLATE, PRINT, SCRAP and CLOSE (R294, R299, R310, R311, R319, R323, R326).
-/
namespace Sys2Proof.Machine

/-! ### The take requests, once they execute (R319, R322, R323, R326) -/

section
variable {i : Session} {q : Req} {s : State}

@[simp] theorem ownsOpen_requested (i : Session) (s : State) : ownsOpen i (requested i s) = ownsOpen i s := by
  simp [ownsOpen, requested_tak]

@[simp] theorem slotFree_requested (i : Session) (s : State) : slotFree (requested i s) = slotFree s := by
  simp [slotFree, requested_tak]

theorem renewTake_of_owner (hown : ownsOpen i s = true) : renewTake i s = { s with tak.user.lastReq := s.up } := if_pos hown

theorem renewTake_of_free_slot (hfree : slotFree s = true) : renewTake i s = s := by
  have hclosed : s.tak.user.state ≠ .open_ := by
    intro hopen
    simp [slotFree, hopen] at hfree
  exact if_neg (by simp [ownsOpen_iff, hclosed])

variable (htold : (sessOf s i).scrapUntold = false)
include htold

theorem doSlate_of_free (hlevel : 1 ≤ (sessOf s i).level) (hfault : s.node ≠ .fault) (hexit : s.node ≠ .exit)
    (hfree : slotFree s = true) : doSlate i q s = finish i .slate q (codeRsp .slate q 0 0) (slateFor i s) := by
  have henough : ¬ (sessOf s i).level < 1 := Nat.not_lt.mpr hlevel
  rw [doSlate, renewTake_of_free_slot hfree, if_neg henough, if_neg (by simp [hfault, hexit]), tellScrap_of_told htold]
  simp [hfree]

theorem doScrap_of_owner (hown : ownsOpen i s = true) :
    doScrap i q s = finish i .scrap q (codeRsp .scrap q 0 0) (scrapUser 3 s) := by
  obtain ⟨hopen, howner⟩ := ownsOpen_iff.mp hown
  simp [doScrap, tellScrap_of_told htold, hopen, howner]

end

/-- A local take whose values keep every relation is PRINTED for the next frame boundary. -/
theorem printOpen_of_kept {s : State} (hlocal : tfind s.tak.user.staged (key 0x2F10 0) = none)
    (hkept : firstBroken s.tak.user.staged s = none) :
    printOpen none s = .done { s with tak.user.state := .printed, tak.user.instant := nextFrame s.now } := by
  simp [printOpen, hlocal, hkept]

/-- PRINT of the session's OPEN take, without an apply instant, waits for no one else. -/
theorem doPrint_of_kept {i : Session} {q : Req} {s : State} (htold : (sessOf s i).scrapUntold = false) (hown : ownsOpen i s = true)
    (hnow : q.data = []) (hidle : s.od.unanswered = []) (hlocal : tfind s.tak.user.staged (key 0x2F10 0) = none)
    (hkept : firstBroken s.tak.user.staged { s with
      tak.user.lastReq := s.up, od.unanswered := [{ sess := i, op := .print, req := q }] } = none) :
    doPrint i q s =
      answerWaiting 0 { s with
        tak.user := { s.tak.user with state := .printed, instant := nextFrame s.now, lastReq := s.up }
        od.unanswered := [{ sess := i, op := .print, req := q }] } := by
  have hinstant : printInstant q = some none := by simp [printInstant, hnow]
  have htoldNow : (sessOf ({ s with tak.user.lastReq := s.up } : State) i).scrapUntold = false := htold
  have hownNow : ownsOpen i { s with tak.user.lastReq := s.up } = true := hown
  have hwaits : waitAnswer i q { s with tak.user.lastReq := s.up } =
      { s with tak.user.lastReq := s.up, od.unanswered := [{ sess := i, op := .print, req := q }] } := by
    simp [waitAnswer, hidle]
  simp [doPrint, renewTake_of_owner hown, hinstant, tellScrap_of_told htoldNow, hownNow, hwaits, printOpen_of_kept, hlocal, hkept]

/-! ### The commands -/

section
variable {i : Session} {reqId : Word} {s : State} (hready : readyFor s i = true)
include hready

theorem unanswered_of_ready : s.od.unanswered = [] := by
  simp only [readyFor, Bool.and_eq_true, List.isEmpty_iff] at hready
  exact hready.2

theorem exec_close_of_ready :
    exec (.close i reqId) s =
      let q : Req := { reqId := reqId.toNat }
      .next (dropSession i (finish i .close q (codeRsp .close q 0 0) (requested i s))) := by
  change Host.Outcome.next (serve i .close { reqId := reqId.toNat } s) = _
  rw [execute_close hready]
  rfl

variable (htold : (sessOf s i).scrapUntold = false)
include htold

theorem exec_slate_of_free (hlevel : 1 ≤ (sessOf s i).level) (hfault : s.node ≠ .fault) (hexit : s.node ≠ .exit)
    (hfree : slotFree s = true) :
    exec (.slate i reqId) s =
      let q : Req := { reqId := reqId.toNat }
      .next (finish i .slate q (codeRsp .slate q 0 0) (slateFor i (requested i s))) := by
  change Host.Outcome.next (serve i .slate { reqId := reqId.toNat } s) = _
  rw [execute_slate hready, doSlate_of_free (s := requested i s) (by rwa [sessOf_requested]) (by rwa [sessOf_requested]) hfault hexit
    (by rwa [slotFree_requested])]

theorem exec_scrap_of_owner (hown : ownsOpen i s = true) :
    exec (.scrap i reqId) s =
      let q : Req := { reqId := reqId.toNat }
      .next (finish i .scrap q (codeRsp .scrap q 0 0) (scrapUser 3 (requested i s))) := by
  change Host.Outcome.next (serve i .scrap { reqId := reqId.toNat } s) = _
  rw [execute_scrap hready, doScrap_of_owner (s := requested i s) (by rwa [sessOf_requested]) (by rwa [ownsOpen_requested])]

theorem exec_print_of_kept (hown : ownsOpen i s = true) (hlocal : tfind s.tak.user.staged (key 0x2F10 0) = none)
    (hkept : firstBroken s.tak.user.staged { requested i s with
      tak.user.lastReq := s.up
      od.unanswered := [{ sess := i, op := .print, req := { reqId := reqId.toNat } }] } = none) :
    exec (.print i reqId none) s =
      .next (answerWaiting 0 { requested i s with
        tak.user := { s.tak.user with state := .printed, instant := nextFrame s.now, lastReq := s.up }
        od.unanswered := [{ sess := i, op := .print, req := { reqId := reqId.toNat } }] }) := by
  have hnone : (requested i s).od.unanswered = [] := by rw [requested_unanswered, unanswered_of_ready hready]
  change Host.Outcome.next (serve i .print { reqId := reqId.toNat } s) = _
  have hprint := doPrint_of_kept (i := i) (q := { reqId := reqId.toNat }) (s := requested i s) (by rwa [sessOf_requested])
    (by rwa [ownsOpen_requested]) rfl hnone
  simp only [requested_tak, requested_up, requested_now] at hprint hkept ⊢
  rw [execute_print hready, hprint hlocal hkept]

end

/-- Settles O31: a request of a ready session executes at once, and the hypotheses of each clause pass its guards. -/
theorem requestsComplete : Obligations.RequestsComplete := by
  refine ⟨?readFirst, ?readRefused, ?write, ?slate, ?print, ?scrap, ?close⟩
  case readFirst => rintro i q s ⟨hready, hcode, hoffset⟩; exact exec_read_of_first hready hcode hoffset
  case readRefused => rintro i q s ⟨hready, hcode⟩; exact exec_read_of_refused hready hcode
  case write =>
    rintro i q r s ⟨hready, hnone, hcode⟩ ⟨hrow, hoffset, htotal⟩ hlen ⟨hvalue, htake, hacts, hplain⟩ hrelation
    rw [exec_write_of_whole hready hnone hcode hrow hoffset htotal hlen hvalue, if_neg (by simp [htake]),
      plainWrite_of_value hrelation htake hacts hplain]
  case slate =>
    rintro i reqId s ⟨hready, hlevel, hfault, hexit, htold, hfree⟩
    exact exec_slate_of_free hready htold hlevel hfault hexit hfree
  case print => rintro i reqId s ⟨hready, htold, hown⟩ ⟨hlocal, hkept⟩; exact exec_print_of_kept hready htold hown hlocal hkept
  case scrap => rintro i reqId s ⟨hready, htold, hown⟩; exact exec_scrap_of_owner hready htold hown
  case close => rintro i reqId s hready; exact exec_close_of_ready hready

end Sys2Proof.Machine
end

section
/-!
PROOFS. Sessions: their levels, keys, locks and timers, and the requests they remember (R295 to R298, R311, R312).
-/
namespace Sys2Proof.Machine

/-! ### What the objects of a session do (R295 to R297) -/

theorem objAction_wanted_level (i : Session) (d : List Byte) (s : State) : objAction i 0x2002 2 d s = requestLevel i (beNat d) s := rfl

theorem objAction_response (i : Session) (d : List Byte) (s : State) : objAction i 0x2002 3 d s = respond i d s := rfl

theorem objAction_level_key (i : Session) (sub : Nat) (d : List Byte) (s : State) :
    objAction i 0x2003 sub d s = (0, { s with od.keys := tset s.od.keys sub d }) := rfl

theorem beNat_byte (b : Byte) : beNat [b] = b.toNat := by simp [beNat]

theorem wholeWrite_keys (i : Session) (s : State) : (wholeWrite i s).od.keys = s.od.keys := by
  unfold wholeWrite renewTake; split <;> rfl

theorem levelKey_wholeWrite (i : Session) (s : State) (n : Nat) : levelKey (wholeWrite i s) n = levelKey s n := by
  simp only [levelKey, wholeWrite_keys]

/-- A level whose key is set is the level asked for. -/
theorem requestLevel_of_key {i : Session} {n : Nat} {s : State} (hlevel : 1 ≤ n) (hkey : (levelKey s n).isSome = true) :
    requestLevel i n s = (0, setSess i { sessOf s i with want := n } s) := by
  rw [requestLevel, if_neg (by omega), if_neg (by simpa [Option.isSome_iff_ne_none] using hkey)]

/-! ### Requests (R295 to R297) -/

section
variable {i : Session} {reqId : Word} {s : State} (hready : readyFor s i = true)
include hready

/-- The challenge is a byte string, which 16 bytes are enough to read on every channel. -/
theorem exec_challengeRead_of_ready :
    exec (.challengeRead i reqId) s =
      let q : Req := { reqId := reqId.toNat, index := 0x2002, sub := 1, total := 16 }
      .next (readFirst i q (requested i s)) := by
  have htotal : readTotalOk i { reqId := reqId.toNat, index := 0x2002, sub := 1, total := 16 } = true := by
    by_cases hhost : i = hostSession
    · simp [readTotalOk, readLimit, hhost]
    · by_cases hdam : 3 ≤ i.val <;> simp [readTotalOk, readLimit, hhost, hdam]
  have hcode : readCode i { reqId := reqId.toNat, index := 0x2002, sub := 1, total := 16 } = 0 := by
    simp [readCode, htotal, existCode_of_row row_challenge, readRight_of_row row_challenge, readsScalar, row_challenge, Ty.isScalar]
  exact exec_read_of_first hready hcode rfl

variable (hnone : (sessOf s i).partialV = none)
include hnone

theorem exec_levelRequest_of_key {level : Byte} (hstate : writeState s 0x2002 2 = 0) (hlow : 1 ≤ level.toNat) (hhigh : level.toNat ≤ 3)
    (hkey : (levelKey s level.toNat).isSome = true) :
    exec (.levelRequest i reqId level) s =
      let w := wholeWrite i s
      let q := writeReq reqId 0x2002 2 [level]
      .next (finish i .write q (codeRsp .write q 0 1) (setSess i { sessOf w i with want := level.toNat } w)) := by
  have hvalue : wholeCode (key 0x2002 2) ⟨0x2002, 0x2002, 2, 2, .uint 1, .wo, 0, 0, 3, 0, .no, []⟩ [level] = 0 := by
    have hrange : ¬ (3 : Int) < level.toNat := by omega
    simp [wholeCode, lengthOk, lengthFits, Ty.size, valOfBytes, Ty.isScalar, valueCode, rangeCode, rangeFault, signedOf, offBoundary,
      badNumber, key, beNat_byte, hrange]
  have hrequest := requestLevel_of_key (i := i) (s := wholeWrite i s) hlow (by rwa [levelKey_wholeWrite])
  change Host.Outcome.next (serve i .write (writeReq reqId 0x2002 2 [level]) s) = _
  rw [serve_write_of_acting hready hnone row_wanted_level (by decide) (by decide) (by simp [levelNeeded_of_row row_wanted_level]) hstate rfl
    (by decide) hvalue, objAction_wanted_level, beNat_byte, hrequest]
  rfl

theorem exec_responseWrite_of_ready (response : BitVec 128) (hstate : writeState s 0x2002 3 = 0) :
    exec (.responseWrite i reqId response) s =
      let q := writeReq reqId 0x2002 3 (beBytes 16 response.toNat)
      let r := respond i (beBytes 16 response.toNat) (wholeWrite i s)
      .next (finish i .write q (codeRsp .write q r.1 16) r.2) := by
  have hvalue : wholeCode (key 0x2002 3) ⟨0x2002, 0x2002, 3, 3, .oct 16, .wo, 0, 0, 0, 0, .no, []⟩ (beBytes 16 response.toNat) = 0 := by
    rw [wholeCode_of_bytes rfl (by rw [beBytes_length]; rfl)]
    simp [badBytes, key]
  change Host.Outcome.next (serve i .write (writeReq reqId 0x2002 3 (beBytes 16 response.toNat)) s) = _
  rw [serve_write_of_acting hready hnone row_response (by decide) (by decide) (by simp [levelNeeded_of_row row_response]) hstate rfl
    (by decide) hvalue, objAction_response, beBytes_length]

theorem exec_keyWrite_of_maintainer {maintainer : Bool} (k : BitVec 256) (hlevel : 2 ≤ (sessOf s i).level)
    (hstate : writeState s 0x2003 (if maintainer then 2 else 1) = 0) :
    exec (.keyWrite i reqId maintainer k) s =
      let w := wholeWrite i s
      let q := writeReq reqId 0x2003 (if maintainer then 2 else 1) (beBytes 32 k.toNat)
      .next (finish i .write q (codeRsp .write q 0 32)
        { w with od.keys := tset w.od.keys (if maintainer then 2 else 1) (beBytes 32 k.toNat) }) := by
  change Host.Outcome.next (serve i .write (writeReq reqId 0x2003 (if maintainer then 2 else 1) (beBytes 32 k.toNat)) s) = _
  have hsub : (if maintainer then 2 else 1) = 1 ∨ (if maintainer then 2 else 1) = 2 := by cases maintainer <;> simp
  generalize (if maintainer then 2 else 1) = sub at hstate hsub ⊢
  have hrow := row_level_key hsub
  have hvalue : wholeCode (key 0x2003 sub) ⟨0x2003, 0x2003, sub, sub, .oct 32, .wo, 2, 0, 0, 0, .no, []⟩ (beBytes 32 k.toNat) = 0 := by
    rw [wholeCode_of_bytes rfl (by rw [beBytes_length]; rcases hsub with rfl | rfl <;> rfl), key_index (by omega)]
    simp [badBytes]
  rw [serve_write_of_acting hready hnone hrow (by simp) (by simp) (by simpa [levelNeeded_of_row hrow] using hlevel) hstate rfl
    (by omega) hvalue, objAction_level_key, beBytes_length]

end

/-! ### Timers (R296, R298, R311, R312) -/

section
variable {i : Session} {s : State}

theorem exec_sessionIdleExpiry_of_raised (hlive : sessLive s i = true) (hraised : (sessOf s i).level ≠ fallenLevel i) :
    exec (.sessionIdleExpiry i) s =
      let u := passTo ((sessOf s i).lastReq + cfg s 0x2005 0 * rl) s
      .next (setSess i { sessOf u i with level := fallenLevel i } u) :=
  if_neg (by simp [hlive, hraised])

theorem exec_authLockExpiry_of_session {t : Nat} (h : (sessOf s i).lockUntil = some t) :
    exec (.authLockExpiry (some i)) s =
      let u := passTo t s
      .next (setSess i { sessOf u i with lockUntil := none } u) := by
  change execAuthLockExpiry (some i) s = _
  simp only [execAuthLockExpiry, h]

theorem exec_authLockExpiry_of_node {t : Nat} (h : s.od.nodeLock = some t) :
    exec (.authLockExpiry none) s = .next { passTo t s with od.nodeLock := none } := by
  change execAuthLockExpiry none s = _
  simp only [execAuthLockExpiry, h]

theorem exec_snapshotExpiry_of_held {x : Snapshot} (h : (sessOf s i).snap = some x) :
    exec (.snapshotExpiry i) s =
      let u := passTo (x.lastRead + 16 * fr) s
      .next (setSess i { sessOf u i with snap := none } u) := by
  change execSnapshotExpiry i s = _
  simp only [execSnapshotExpiry, h]

theorem sessOf_passTo (u : Nat) (s : State) (i : Session) : sessOf (passTo u s) i = sessOf s i := by
  rw [sessOf, sessOf, passTo_od]

theorem exec_reqIdExpiry_of_only {reqId : Word} {r : Remembered} (honly : (sessOf s i).remembered = [r])
    (hid : r.req.reqId = reqId.toNat) :
    exec (.reqIdExpiry i reqId) s =
      let u := passTo (r.at_ + 16 * fr) s
      .next (setSess i { sessOf u i with remembered := [] } u) := by
  change execReqIdExpiry i reqId s = _
  simp [execReqIdExpiry, honly, hid, sessOf_passTo]

end

/-- Settles O32: each object of a session passes its checks as its row says, and each timer is armed. -/
theorem sessionsComplete : Obligations.SessionsComplete := by
  refine ⟨?challenge, ?level, ?response, ?key, ?idle, ?sessionLock, ?nodeLock, ?snapshot, ?remembered⟩
  case challenge => intro i reqId s hready; exact exec_challengeRead_of_ready hready
  case level =>
    rintro i reqId level s ⟨hready, hnone, hstate⟩ ⟨hlow, hhigh, hkey⟩
    exact exec_levelRequest_of_key hready hnone hstate hlow hhigh hkey
  case response => rintro i reqId response s ⟨hready, hnone, hstate⟩; exact exec_responseWrite_of_ready hready hnone response hstate
  case key =>
    rintro i reqId maintainer k s ⟨hready, hnone, hlevel⟩ hstate
    exact exec_keyWrite_of_maintainer hready hnone k hlevel hstate
  case idle => rintro i s ⟨hlive, hraised⟩; exact exec_sessionIdleExpiry_of_raised hlive hraised
  case sessionLock => intro i t s h; exact exec_authLockExpiry_of_session h
  case nodeLock => intro t s h; exact exec_authLockExpiry_of_node h
  case snapshot => intro i x s h; exact exec_snapshotExpiry_of_held h
  case remembered => rintro i reqId r s ⟨honly, hid⟩; exact exec_reqIdExpiry_of_only honly hid

end Sys2Proof.Machine
end

section
/-!
PROOFS. The objects that act: store, restore, exit and reset requests, slots, images and keys (R301 to R303, R416 to R418, R423, R458,
R459), and INA_RESTART and DAM requests (R308, R503).
-/
namespace Sys2Proof.Machine

/-! ### What the objects do (R289) -/

theorem objAction_restore {i : Session} {sub : Nat} {d : List Byte} {s : State} (hsignature : beNat d = 0x64616F6C) :
    objAction i 0x1011 sub d s = (0, restoreDefaults sub s) := if_pos hsignature

theorem objAction_image (i : Session) (d : List Byte) (s : State) : objAction i 0x2C20 0 d s = (0, imageFree d s) := rfl

theorem objAction_slot (i : Session) (d : List Byte) (s : State) :
    objAction i 0x2C21 0 d s = (0, { s with cpu.nextSlot := some (!s.cpu.activeSlot) }) := rfl

theorem objAction_cak (i : Session) (sub : Nat) (d : List Byte) (s : State) :
    objAction i 0x2C31 sub d s = (0, setMs (sub - 1) { msSt s (sub - 1) with cak := d } s) := rfl

/-- What is not applied before the next reset is saved for it. -/
theorem plainWrite_of_next_reset {i : Session} {q : Req} {r : Obj} {k : Nat} {d : List Byte} {s : State}
    (hvalue : q.index ≠ 0x1010 ∧ q.index ≠ 0x2140 ∧ q.index ≠ 0x2141 ∧ actsItself q.index = false)
    (hrelation : ∀ t, relationCode k t = 0) (htake : r.take = .nextReset) :
    plainWrite i q r k d s = finish i .write q (codeRsp .write q 0 d.length) { s with od.saved := tset s.od.saved k (valOfBytes r d) } := by
  obtain ⟨hstore, hexit, hreset, hacts⟩ := hvalue
  simp [plainWrite, hrelation, hstore, hexit, hreset, hacts, htake]

/-- The key is a point where it begins with 04h (Table 16.8, log 220). -/
theorem wholeCode_of_app_key {k : List Byte} (hlen : k.length = 97) :
    wholeCode (key 0x2C10 0) ⟨0x2C10, 0x2C10, 0, 0, .oct 97, .wo, 3, 0, 0, 0, .nextReset, []⟩ k = if k.headD 0 = 4 then 0 else aBadValue := by
  have hbad : badBytes 0x2C10 k = !decide (k.headD 0 = 4) := by simp [badBytes]
  rw [wholeCode_of_bytes rfl (by rw [hlen]; rfl), key_index (by decide), hbad]
  simp only [Bool.not_eq_true', decide_eq_false_iff_not, ite_not]

/-! ### Store and restore (R302, R303) -/

/-- A store without sag takes the values of its group, into the copy that is not current. -/
theorem storeStart_of_supplied {i : Session} {q : Req} {s : State} (hsag : s.pwr.sag = false) :
    storeStart i q s =
      setCopy (currentIsA s) (fun c => { c with mark := false })
        { s with od.storing := some { sess := i, req := q, values := groupValues s q.sub } } :=
  if_neg (by simp [hsag])

theorem storeEnd_of_storing {x : Storing} {s : State} (h : s.od.storing = some x) (ok : Bool) :
    storeEnd ok s =
      let u := { s with od.storing := none, free := s.free + 1 }
      let kept := (storedNow u).filter (fun e => !inGroup x.req.sub e.1)
      let new := storedValues s.free x.values (groupValues u x.req.sub)
      if ok then
        storeAnswer x (codeRsp .write x.req 0 4)
          (setCopy (currentIsA u) (fun _ => validCopy (storeCount u + 1) (new.foldl (fun t e => tset t e.1 e.2) kept)) u)
      else storeAnswer x (codeRsp .write x.req aNotStored 0) u := by
  rw [storeEnd, h]
  rfl

/-- The signature starts a store. -/
theorem plainWrite_of_store {i : Session} {q : Req} {r : Obj} {k : Nat} {d : List Byte} {s : State} (hindex : q.index = 0x1010)
    (hrelation : ∀ t, relationCode k t = 0) (hsignature : valNum (valOfBytes r d) = 0x65766173) :
    plainWrite i q r k d s = storeStart i q s := by
  simp [plainWrite, hrelation, hindex, hsignature]

section
variable {i : Session} {reqId : Word} {s : State} (hready : readyFor s i = true) (hnone : (sessOf s i).partialV = none)
include hready hnone

theorem exec_storeParameters_of_supplied {sub : Byte} (hlevel : 2 ≤ (sessOf s i).level) (hstate : writeState s 0x1010 sub.toNat = 0)
    (hgroup : sub = 1 ∨ sub = 2 ∨ sub = 3) (hsag : s.pwr.sag = false) :
    exec (.storeParameters i reqId sub 0x65766173) s =
      let w := wholeWrite i s
      let run : Storing := { sess := i, req := writeReq reqId 0x1010 sub.toNat (beBytes 4 0x65766173), values := groupValues w sub.toNat }
      .next (setCopy (currentIsA w) (fun c => { c with mark := false }) { w with od.storing := some run }) := by
  have hsub : sub.toNat = 1 ∨ sub.toNat = 2 ∨ sub.toNat = 3 := by rcases hgroup with rfl | rfl | rfl <;> decide
  have hrow := row_store hsub
  have hvalue : wholeCode (key 0x1010 sub.toNat) ⟨0x1010, 0x1010, 1, 3, .uint 4, .rw, 2, 0, 4294967295, 1, .no, []⟩
      (beBytes 4 0x65766173) = 0 := by
    rcases hsub with h | h | h <;> rw [h] <;> decide
  have hrelation (t : State) : relationCode (key 0x1010 sub.toNat) t = 0 := by rcases hsub with h | h | h <;> rw [h] <;> rfl
  have hsupplied : (wholeWrite i s).pwr.sag = false := by rwa [(wholeWrite_touches i s).pwr.resolve_left (by decide)]
  change Host.Outcome.next (serve i .write (writeReq reqId 0x1010 sub.toNat (beBytes 4 0x65766173)) s) = _
  rw [serve_write_of_plain hready hnone hrow (by decide) (by decide) (by simpa [levelNeeded_of_row hrow] using hlevel) hstate (by decide)
    hvalue, plainWrite_of_store rfl hrelation (by decide), storeStart_of_supplied hsupplied]
  rfl

theorem exec_restoreDefaults_of_maintainer {sub : Byte} (hlevel : 2 ≤ (sessOf s i).level) (hstate : writeState s 0x1011 sub.toNat = 0)
    (hgroup : sub = 1 ∨ sub = 2 ∨ sub = 3) :
    exec (.restoreDefaults i reqId sub 0x64616F6C) s =
      let q := writeReq reqId 0x1011 sub.toNat (beBytes 4 0x64616F6C)
      .next (finish i .write q (codeRsp .write q 0 4) (restoreDefaults sub.toNat (wholeWrite i s))) := by
  have hsub : sub.toNat = 1 ∨ sub.toNat = 2 ∨ sub.toNat = 3 := by rcases hgroup with rfl | rfl | rfl <;> decide
  have hrow := row_restore hsub
  have hvalue : wholeCode (key 0x1011 sub.toNat) ⟨0x1011, 0x1011, 1, 3, .uint 4, .rw, 2, 0, 4294967295, 1, .no, []⟩
      (beBytes 4 0x64616F6C) = 0 := by
    rcases hsub with h | h | h <;> rw [h] <;> decide
  change Host.Outcome.next (serve i .write (writeReq reqId 0x1011 sub.toNat (beBytes 4 0x64616F6C)) s) = _
  rw [serve_write_of_acting hready hnone hrow (by decide) (by decide) (by simpa [levelNeeded_of_row hrow] using hlevel) hstate rfl
    sub.isLt hvalue, objAction_restore (by decide)]
  rfl

/-! ### Slots, images and keys (R416 to R418, R423) -/

theorem exec_slotActivate_of_maintainer (hlevel : 2 ≤ (sessOf s i).level) (hstate : writeState s 0x2C21 0 = 0) :
    exec (.slotActivate i reqId) s =
      let w := wholeWrite i s
      let q := writeReq reqId 0x2C21 0 [1]
      .next (finish i .write q (codeRsp .write q 0 1) { w with cpu.nextSlot := some (!w.cpu.activeSlot) }) := by
  change Host.Outcome.next (serve i .write (writeReq reqId 0x2C21 0 [1]) s) = _
  rw [serve_write_of_acting hready hnone row_slot (by decide) (by decide) (by simpa [levelNeeded_of_row row_slot] using hlevel) hstate rfl
    (by decide) (by decide), objAction_slot]
  rfl

theorem exec_cakWrite_of_maintainer {p : Fin 4} {k : List Byte} (hlevel : 2 ≤ (sessOf s i).level)
    (hstate : writeState s 0x2C31 (p.val + 1) = 0) (hleast : 33 ≤ k.length) (hmost : k.length ≤ 64) :
    exec (.cakWrite i reqId p k) s =
      let w := wholeWrite i s
      let q := writeReq reqId 0x2C31 (p.val + 1) k
      .next (finish i .write q (codeRsp .write q 0 k.length) (setMs p.val { msSt w p.val with cak := k } w)) := by
  have hrow := row_cak (sub := p.val + 1) (by omega) (by omega)
  have hvalue : wholeCode (key 0x2C31 (p.val + 1)) ⟨0x2C31, 0x2C31, 1, 4, .dom 64, .wo, 2, 0, 0, 0, .no, []⟩ k = 0 := by
    rw [wholeCode_of_bytes rfl (by simp [lengthOk, lengthFits, hleast, hmost]), key_index (by omega)]
    simp [badBytes]
  change Host.Outcome.next (serve i .write (writeReq reqId 0x2C31 (p.val + 1) k) s) = _
  rw [serve_write_of_acting hready hnone hrow (by decide) (by decide) (by simpa [levelNeeded_of_row hrow] using hlevel) hstate rfl
    (by omega) hvalue, objAction_cak]
  rfl

/-- The image that is written, and what its check finds, take the place of what a plain WRITE would have put there. -/
theorem exec_firmwareImageWrite_of_maintainer {image : List Byte} {check : ImageCheck} (hlevel : 2 ≤ (sessOf s i).level)
    (hstate : writeState s 0x2C20 0 = 0) (hsize : image.length ≤ 67108864) :
    exec (.firmwareImageWrite i reqId image check) s =
      let q := writeReq reqId 0x2C20 0 image
      .next (imageWrite { image := image, check := check }
        (finish i .write q (codeRsp .write q 0 image.length) (imageFree image (wholeWrite i s)))) := by
  have hvalue : wholeCode (key 0x2C20 0) ⟨0x2C20, 0x2C20, 0, 0, .dom 67108864, .wo, 2, 0, 0, 0, .no, []⟩ image = 0 := by
    rw [wholeCode_of_bytes rfl (by simp [lengthOk, lengthFits, hsize, key]), key_index (by decide)]
    simp [badBytes]
  have hserves : (served s && sessLive s i && s.od.storing.isNone) = true := by
    simp only [readyFor, Bool.and_eq_true] at hready ⊢
    obtain ⟨⟨⟨hlive, -⟩, hstoring⟩, -⟩ := hready
    exact ⟨hlive, hstoring⟩
  change execFirmwareImageWrite i reqId image check s = _
  rw [execFirmwareImageWrite, serve_write_of_acting hready hnone row_image (by decide) (by decide)
    (by simpa [levelNeeded_of_row row_image] using hlevel) hstate rfl (by decide) hvalue, objAction_image]
  simp [hserves, hlevel, hsize, hnone, hstate]

section
variable {k : List Byte} (hlevel : 3 ≤ (sessOf s i).level) (hstate : writeState s 0x2C10 0 = 0) (hlen : k.length = 97)
include hlevel hstate hlen

/-- An uncompressed point is saved for the next reset. -/
theorem exec_appKeyEnrol_of_point (hpoint : k.headD 0 = 4) :
    exec (.appKeyEnrol i reqId k) s =
      let w := wholeWrite i s
      let q := writeReq reqId 0x2C10 0 k
      .next (finish i .write q (codeRsp .write q 0 97) { w with od.saved := tset w.od.saved (key 0x2C10 0) (.bytes k) }) := by
  have hvalue := (wholeCode_of_app_key hlen).trans (if_pos hpoint)
  change Host.Outcome.next (serve i .write (writeReq reqId 0x2C10 0 k) s) = _
  rw [serve_write_of_plain hready hnone row_app_key (by decide) (by decide) (by simpa [levelNeeded_of_row row_app_key] using hlevel) hstate
    (by decide) hvalue, plainWrite_of_next_reset (by simp [writeReq, actsItself]) (fun t => rfl) rfl, hlen]
  rfl

theorem exec_appKeyEnrol_of_no_point (hpoint : k.headD 0 ≠ 4) :
    exec (.appKeyEnrol i reqId k) s =
      let q := writeReq reqId 0x2C10 0 k
      .next (finish i .write q (codeRsp .write q aBadValue 0) (wholeWrite i s)) := by
  have hvalue := (wholeCode_of_app_key hlen).trans (if_neg hpoint)
  change Host.Outcome.next (serve i .write (writeReq reqId 0x2C10 0 k) s) = _
  rw [serve_write_of_bad_value hready hnone row_app_key (by decide) (by decide) (by simpa [levelNeeded_of_row row_app_key] using hlevel)
    hstate (by decide) (by rw [hlen]; rfl) (by rw [hvalue]; decide), hvalue]

end

end

/-! ### INA_RESTART (R503) -/

/-- A member that has voted withdraws, and collects again. -/
theorem inaRestart_of_voted {s : State} (hkind : s.tak.sys.kind = 2) (hstate : s.tak.sys.state = .prepared)
    (hmember : s.tak.sys.isCoord = false) :
    inaRestart s =
      let u := s.tak.sys
      (0, collect (takeTo u.coord 0x21 { kind := 2, coord := u.coord, num := u.num, instant := u.instant, vote := 2, reason := 4 }
        { s with tak.sys.withdrawn := true })) := by
  simp [inaRestart, hkind, hstate, hmember]

theorem exec_inaRestart_of_host {s : State} (h : reaches s .host = true) : exec (.inaRestart (.reg .host)) s = .next (inaRestart s).2 :=
  congrArg Host.Outcome.next (if_pos h)

/-! ### DAM_REQUEST_RECEIVE (R308) -/

theorem exec_damRequestReceive_of_on {s : State} (hon : domOn s .d2 = true) (port : Fin 20) (mac : Mac) {b : Bulis} (hdam : b.type = 0x10) :
    exec (.damRequestReceive port mac b) s = .next (bulisIn port.val mac b true [] s) :=
  if_pos (by simp [hon, hdam])

/-- Settles O33: each write passes its checks as its object's row says; the exit and reset requests go by serve_write_of_exit. What a
written image's check finds, the layout of a stored copy, and the point judged by its first byte are those of log 97, 210 and 220. -/
theorem actingObjectsComplete : Obligations.ActingObjectsComplete := by
  refine ⟨?store, ?storeDone, ?storeAnswer, ?storeFailed, ?restore, ?exit, ?reset, ?slot, ?point, ?noPoint, ?cak, ?image, ?inaRestart, ?dam⟩
  case store =>
    rintro i reqId sub s ⟨hready, hnone, hlevel, hstate⟩ ⟨hgroup, hsag⟩
    exact exec_storeParameters_of_supplied hready hnone hlevel hstate hgroup hsag
  case storeDone => intro x s h; exact congrArg Host.Outcome.next (storeEnd_of_storing h true)
  case storeAnswer => intro x r s; rfl
  case storeFailed => intro x s h; exact congrArg Host.Outcome.next (storeEnd_of_storing h false)
  case restore =>
    rintro i reqId sub s ⟨hready, hnone, hlevel, hstate⟩ hgroup
    exact exec_restoreDefaults_of_maintainer hready hnone hlevel hstate hgroup
  case exit =>
    rintro i reqId s ⟨hready, hnone, hlevel⟩
    exact congrArg Host.Outcome.next (serve_write_exit_request hready hnone hlevel)
  case reset =>
    rintro i reqId s ⟨hready, hnone, hlevel⟩
    exact congrArg Host.Outcome.next (serve_write_node_reset hready hnone hlevel)
  case slot => rintro i reqId s ⟨hready, hnone, hlevel, hstate⟩; exact exec_slotActivate_of_maintainer hready hnone hlevel hstate
  case point =>
    rintro i reqId k s ⟨hready, hnone, hlevel, hstate, hlen⟩ hpoint
    exact exec_appKeyEnrol_of_point hready hnone hlevel hstate hlen hpoint
  case noPoint =>
    rintro i reqId k s ⟨hready, hnone, hlevel, hstate, hlen⟩ hpoint
    exact exec_appKeyEnrol_of_no_point hready hnone hlevel hstate hlen hpoint
  case cak =>
    rintro i reqId p k s ⟨hready, hnone, hlevel, hstate, hleast, hmost⟩
    exact exec_cakWrite_of_maintainer hready hnone hlevel hstate hleast hmost
  case image =>
    rintro i reqId image check s ⟨hready, hnone, hlevel, hstate, hsize⟩
    exact exec_firmwareImageWrite_of_maintainer hready hnone hlevel hstate hsize
  case inaRestart =>
    rintro s ⟨hreach, hkind, hstate, hmember⟩
    rw [exec_inaRestart_of_host hreach, inaRestart_of_voted hkind hstate hmember]
  case dam =>
    rintro port mac b s ⟨hon, hdam, hopen⟩ ⟨hhead, hdst, hpasses⟩
    rw [exec_damRequestReceive_of_on hon port mac hdam,
      bulisIn_of_good hhead hdst hpasses (by simp [hdam]) (by simp [hdam]) (fun _ => hopen)]

end Sys2Proof.Machine
end

section
/-!
PROOFS. Start-up and node resets: the supply, the bus, secure boot, DAWN, the application image and the causes of a reset (R302, R416 to
R418, R424, R450 to R453, R459, R493).
-/
namespace Sys2Proof.Machine

/-! ### Supply and bus (R450 to R453) -/

theorem exec_powerOn_of_off {s : State} (handleLocked : Bool) (hoff : s.node = .off) :
    exec (.powerOn handleLocked) s = .next ({ State.reset with
        pending := s.pending, up := s.up, free := s.free, out := s.out, uid := s.uid, baseMac := s.baseMac, serial := s.serial
        hwRev := s.hwRev, fwVersion := s.fwVersion
        hpl := { seatedHv := true, seatedLv := true, handleLocked := handleLocked, warnSrc := s.hpl.warnSrc, boot := .started
                 t0 := s.up, lampTestBy := some (s.up + 68 * fr) }
        log := { recKept s with powerCycle := s.log.powerCycle + 1, prevLastWords := s.log.prevLastWords }
        od := odKept s, cpu := cpuKept s, bb.a.lastSwitch := s.bb.a.lastSwitch, bb.b.lastSwitch := s.bb.b.lastSwitch }) :=
  if_neg (by simp [hoff])

theorem exec_busInRange_of_started {s : State} (hdawn : s.node = .dawn) (hboot : s.hpl.boot = .started) :
    exec .busInRange s = .next (powerFollow { s with hpl.boot := .busInRange }) :=
  if_neg (by simp [hdawn, hboot])

/-! ### Secure boot (R416, R424) -/

section
variable {active other : ImageCheck} {s : State} (hdawn : s.node = .dawn) (hboot : s.hpl.boot = .busInRange)
include hdawn hboot

theorem exec_firmwareVerified_of_active (hgood : imageAccepted s (slotCheck s s.cpu.activeSlot active) = true) :
    exec (.firmwareVerified active other) s =
      .next { s with hpl.boot := .verified, cpu.runVersion := (slotCheck s s.cpu.activeSlot active).version.val } := by
  change execFirmwareVerified active other s = _
  rw [execFirmwareVerified, if_neg (by simp [hdawn, hboot]), if_pos hgood]

variable (hbad : imageAccepted s (slotCheck s s.cpu.activeSlot active) = false)
include hbad

/-- Only the other slot can run: it is the active one from now on, and the event names it. -/
theorem exec_firmwareVerified_of_other (hgood : imageAccepted s (slotCheck s (!s.cpu.activeSlot) other) = true) :
    exec (.firmwareVerified active other) s =
      .next (securityEvent 1 (if s.cpu.activeSlot then 0 else 1)
        { s with
          hpl.boot := .verified, cpu.runVersion := (slotCheck s (!s.cpu.activeSlot) other).version.val, cpu.fallback := true
          cpu.activeSlot := !s.cpu.activeSlot }) := by
  have hslot : (if !s.cpu.activeSlot then 1 else 0) = if s.cpu.activeSlot then 0 else 1 := by cases s.cpu.activeSlot <;> rfl
  change execFirmwareVerified active other s = _
  rw [execFirmwareVerified, if_neg (by simp [hdawn, hboot]), if_neg (by simp [hbad]), if_pos hgood]
  dsimp only
  rw [hslot]

theorem exec_firmwareVerified_of_none (hnone : imageAccepted s (slotCheck s (!s.cpu.activeSlot) other) = false) :
    exec (.firmwareVerified active other) s =
      .next { enterFault { s with cpu.bootFail := true } with hpl.faultRecoverBy := none } := by
  change execFirmwareVerified active other s = _
  rw [execFirmwareVerified, if_neg (by simp [hdawn, hboot]), if_neg (by simp [hbad]), if_neg (by simp [hnone])]

end

/-! ### DAWN, the application image, the lamp test (R302, R418, R453, R493) -/

theorem exec_poweronDawn_of_verified {s : State} (hdawn : s.node = .dawn) (hboot : s.hpl.boot = .verified) :
    exec .poweronDawn s =
      let u := powerFollow { restoreStored s with hpl.boot := .dawned, wak.consistAwake := true, wak.idleFrom := s.up, wak.lastKeepAlive := [] }
      let v := canStart (startConfigured (reportReplaced (storedNow s ++ s.od.saved) u))
      .next (fire 0 2 ([if v.log.prevLastWords then 1 else 0, 0, 0, 0] ++ beBytes 4 (highestSeq v).toNat) v) := by
  change execPoweronDawn s = _
  rw [execPoweronDawn, if_neg (by simp [hdawn, hboot]), noteStart, comeUp]

section
variable {s : State} (hboot : s.hpl.boot = .dawned) (hon : domOn s .d8 = true)
include hboot hon

theorem exec_appImageVerified_of_good :
    exec (.appImageVerified true) s = .next { s with cpu.imgOk := true, cpu.running := if cfgOn s 0x2C01 0 then 0xFF else 0 } :=
  (if_neg (by simp [hboot, hon])).trans (if_neg (by simp))

theorem exec_appImageVerified_of_rejected (hkey : s.cpu.appKey = true) :
    exec (.appImageVerified false) s =
      .next (securityEvent 2 0 (powerFollow (setDom .d8 { domSt s .d8 with heldOff := true } s))) :=
  (if_neg (by simp [hboot, hon])).trans (if_pos (by simp [hkey]))

end

theorem exec_lampTestEnd_of_running {s : State} {t : Nat} (h : s.hpl.lampTestBy = some t) :
    exec .lampTestEnd s = .next { passTo t s with hpl.lampTestBy := none } := by
  change execLampTestEnd s = _
  rw [execLampTestEnd, h]

/-! ### The causes of a node reset (R450, R451) -/

/-- Only a FAULT caused by temperature waits for the case to cool. -/
theorem exec_faultRecoveryExpiry_of_fault {s : State} {t : Nat} (ht : s.hpl.faultRecoverBy = some t) (hfault : s.node = .fault)
    (hthermal : s.pwr.thermal = false) :
    exec .faultRecoveryExpiry s = .next (resetNode 8 { passTo t s with hpl.faultRecoverBy := none }) := by
  change execFaultRecoveryExpiry s = _
  rw [execFaultRecoveryExpiry, ht]
  simp [hfault, hthermal]

theorem exec_thermalResetCooled_of_cool {s : State} {t : BitVec 16} (hfault : s.node = .fault) (hwaits : s.hpl.waitCool = true)
    (hcool : t.toInt < 250) : exec (.thermalResetCooled t) s = .next (resetNode 8 (takeTemp t s)) :=
  if_neg (by simp [hfault, hwaits, hcool])

/-- Settles O19: the hypotheses of each clause pass its command's guards. That each POWERON_DAWN writes its POWER_ON entry is log 57, and
what stands through a node reset is log 63. -/
theorem startAndResetComplete : Obligations.StartAndResetComplete := by
  refine ⟨?powerOn, ?busInRange, ?activeRuns, ?otherRuns, ?noneRuns, ?dawn, ?goodImage, ?rejectedImage, ?lampTest, ?reset, ?watchdog,
    ?recovery, ?cooled⟩
  case powerOn => intro handleLocked s hoff; exact exec_powerOn_of_off handleLocked hoff
  case busInRange => rintro s ⟨hdawn, hboot⟩; exact exec_busInRange_of_started hdawn hboot
  case activeRuns => rintro active other s ⟨hdawn, hboot, hgood⟩; exact exec_firmwareVerified_of_active hdawn hboot hgood
  case otherRuns => rintro active other s ⟨hdawn, hboot, hbad⟩ hgood; exact exec_firmwareVerified_of_other hdawn hboot hbad hgood
  case noneRuns => rintro active other s ⟨hdawn, hboot⟩ ⟨hbad, hnone⟩; exact exec_firmwareVerified_of_none hdawn hboot hbad hnone
  case dawn => rintro s ⟨hdawn, hboot⟩; exact exec_poweronDawn_of_verified hdawn hboot
  case goodImage => rintro s ⟨hboot, hon⟩; exact exec_appImageVerified_of_good hboot hon
  case rejectedImage => rintro s ⟨hboot, hon, hkey⟩; exact exec_appImageVerified_of_rejected hboot hon hkey
  case lampTest => intro s t h; exact exec_lampTestEnd_of_running h
  case reset => intro c s hon; exact if_neg hon
  case watchdog => rintro s ⟨hon, hawake⟩; exact if_neg (by simp [hon, hawake])
  case recovery => rintro s t ⟨ht, hfault, hthermal⟩; exact exec_faultRecoveryExpiry_of_fault ht hfault hthermal
  case cooled => rintro t s ⟨hfault, hwaits, hcool⟩; exact exec_thermalResetCooled_of_cool hfault hwaits hcool

end Sys2Proof.Machine
end

section
/-!
PROOFS. The relations that a PRINTED take guards (R328).
-/
namespace Sys2Proof.Machine

/-- Only the values that a PRINTED take has staged count beside the applied ones. -/
theorem relationState_of_printed {s : State} (h : s.tak.user.state = .printed) : relationState s = applyVals s.tak.user.staged s := if_pos h

theorem relationState_of_not_printed {s : State} (h : s.tak.user.state ≠ .printed) : relationState s = s := if_neg h

theorem plainWrite_of_broken_relation {i : Session} {q : Req} {r : Obj} {k : Nat} {d : List Byte} {s : State}
    (h : relationCode k (applyVals [(k, valOfBytes r d)] (relationState s)) = aRelationBroken) :
    plainWrite i q r k d s = finish i .write q (codeRsp .write q aRelationBroken 0) s := by
  rw [plainWrite, h]
  exact if_pos (by decide)

/-- Settles O45: a value past checks 1 to 8 reaches plainWrite, whose check 10 is made over relationState. -/
theorem printedTakeGuardsItsRelations : Obligations.PrintedTakeGuardsItsRelations := by
  refine ⟨?printed, ?ended⟩
  case printed =>
    rintro i q r s ⟨hready, hnone, hcode⟩ ⟨hrow, hoffset, htotal⟩ hlen ⟨hvalue, htake, hprinted⟩ hbroken
    have hrelation : relationState (wholeWrite i s) = applyVals s.tak.user.staged (wholeWrite i s) := by
      rw [relationState_of_printed (by rwa [wholeWrite_userState]), wholeWrite_staged]
    rw [exec_write_of_whole hready hnone hcode hrow hoffset htotal hlen hvalue, if_neg htake,
      plainWrite_of_broken_relation (by rwa [hrelation])]
  case ended =>
    rintro i q r s ⟨hready, hnone, hcode⟩ ⟨hrow, hoffset, htotal⟩ hlen ⟨hvalue, htake, hacts, hplain⟩ ⟨hended, hkept⟩
    have hrelation : relationState (wholeWrite i s) = wholeWrite i s :=
      relationState_of_not_printed (by rwa [wholeWrite_userState])
    rw [exec_write_of_whole hready hnone hcode hrow hoffset htotal hlen hvalue, if_neg (by simp [htake]),
      plainWrite_of_value (by rwa [hrelation]) htake hacts hplain]

end Sys2Proof.Machine
end

section
/-!
PROOFS. The member of a take: its vote, PRINT, SCRAP and its doubt (R331, R333, R334, R336, R337).
-/
namespace Sys2Proof.Machine

/-! ### The first frame of a take message (R337) -/

theorem firstSeen_of_new {type : Nat} {m : TakeMsg} {s : State} (h : s.tak.seen.contains (m.kind, m.coord, m.num, type) = false) :
    firstSeen type m s = (true, { s with tak.seen := ((m.kind, m.coord, m.num, type) :: s.tak.seen).take 64 }) :=
  if_neg (ne_true_of_eq_false h)

/-! ### The vote of a member (R331) -/

/-- A PREPARE that arrives in one part, none of it being there before, is whole. -/
theorem addPart_of_only {src : Uid} {m : TakeMsg} {s : State} (hparts : m.parts = 1) (hpart : m.part = 0) (hnone : s.tak.parts = []) :
    (addPart src m s).received = [(0, m.content)] ∧ (addPart src m s).count = 1 ∧ (addPart src m s).shareLen = m.shareLen := by
  simp [addPart, hparts, hpart, hnone, tset]

section
variable {src : Uid} {m : TakeMsg} {s : State} (hkind : m.kind = 1) (hnew : s.tak.seen.contains (1, m.coord, m.num, 0x20) = false)
include hkind hnew

theorem exec_takePrepareReceive_of_refused (hreason : memberReason src m.bodyCsc m.instant s ≠ 0) :
    exec (.takePrepareReceive src m) s = .next (userVote m (memberReason src m.bodyCsc m.instant s) 0 0 s) := by
  change Host.Outcome.next (prepareIn src m s) = _
  rw [prepareIn, if_pos hkind, userPrepareIn, if_neg (ne_true_of_eq_false hnew), if_pos hreason]

theorem exec_takePrepareReceive_of_only_part (hreason : memberReason src m.bodyCsc m.instant s = 0)
    (hby : s.now.toNat ≤ m.voteBy.toNat) (hparts : m.parts = 1) (hpart : m.part = 0) (hlen : m.shareLen = m.content.length)
    (hnone : s.tak.parts = []) : exec (.takePrepareReceive src m) s = .next (voteShare m m.content s) := by
  obtain ⟨hreceived, hcount, hshare⟩ := addPart_of_only (src := src) hparts hpart hnone
  change Host.Outcome.next (prepareIn src m s) = _
  rw [prepareIn, if_pos hkind, userPrepareIn, if_neg (ne_true_of_eq_false hnew), if_neg (by simp [hreason]), if_neg (Nat.not_lt.mpr hby)]
  simp [hreceived, hcount, hshare, hlen]

end

theorem voteShare_of_valid {m : TakeMsg} {share : List Byte} {t : Tab Val} {s : State} (h : judgeShare m.level share s = (0, 0, 0, t)) :
    voteShare m share s = userVote m 0 0 0 { s with
      tak.user := { state := .prepared, kind := 2, owner := 20, num := m.num, coord := m.coord, instant := m.instant, staged := t
                    level := m.level, voteBy := m.voteBy, lastReq := s.up } } := by
  simp only [voteShare, h]

/-! ### The end of a PREPARED user take (R333) -/

section
variable {m : TakeMsg} {s : State} (hkind : m.kind = 1) (hprepared : s.tak.user.state = .prepared)
  (hcoord : s.tak.user.coord = m.coord) (hnum : s.tak.user.num = m.num)
include hkind hprepared hcoord hnum

section
variable (hmember : s.tak.user.isCoord = false)
include hmember

theorem exec_takePrintReceive_of_prepared (hnew : s.tak.seen.contains (1, m.coord, m.num, 0x22) = false) :
    exec (.takePrintReceive m) s =
      .next (userDue s.now (keepOutcome
        { kind := 1, coord := m.coord, num := m.num, instant := s.tak.user.instant, scrap := none, at_ := s.up }
        { s with
          tak.seen := ((1, m.coord, m.num, 0x22) :: s.tak.seen).take 64
          tak.user.state := .printed
          tak.user.doubt := false })) := by
  change Host.Outcome.next (printIn m s) = _
  rw [printIn, firstSeen_of_new (by rwa [hkind])]
  simp [hkind, hprepared, hmember, hcoord, hnum]

theorem exec_takeScrapReceive_of_prepared (hnew : s.tak.seen.contains (1, m.coord, m.num, 0x23) = false) :
    exec (.takeScrapReceive m) s =
      .next (scrapUser (scrapResult m.reason) (keepOutcome
        { kind := 1, coord := m.coord, num := m.num, instant := s.tak.user.instant, scrap := some m.reason, at_ := s.up }
        { s with tak.seen := ((1, m.coord, m.num, 0x23) :: s.tak.seen).take 64 })) := by
  change Host.Outcome.next (scrapIn m s) = _
  rw [scrapIn, firstSeen_of_new (by rwa [hkind])]
  simp [hkind, hprepared, hmember, hcoord, hnum]

end

/-! ### Doubt (R334) -/

/-- The first reply decides the doubt of the user take. -/
theorem exec_takeReplyReceive_of_doubt (print : Bool) (hdoubt : s.tak.user.doubt = true) :
    exec (.takeReplyReceive print m) s = .next (if print then doubtApply .user s else doubtScrap .user (some m.reason) s) := by
  change Host.Outcome.next (replyIn print m s) = _
  rw [replyIn, if_pos hkind, if_pos (by simp [hprepared, hdoubt, hcoord, hnum])]

end

theorem doubtApply_user {m : TakeMsg} {s : State} (hcoord : s.tak.user.coord = m.coord) (hnum : s.tak.user.num = m.num) :
    doubtApply .user s = applyUser 2 (keepOutcome
      { kind := 1, coord := m.coord, num := m.num, instant := s.tak.user.instant, scrap := none, at_ := s.up } (bump 0x904C s)) := by
  rw [← hcoord, ← hnum]
  rfl

theorem exec_takeDoubtTimer_of_prepared {s : State} (hprepared : s.tak.user.state = .prepared) (hmember : s.tak.user.isCoord = false)
    (hnew : s.tak.user.doubt = false) :
    exec (.takeDoubtTimer .user) s =
      let u := passToInstant (framesAfter s.tak.user.instant 8) s
      .next (querySend 1 s.tak.user.coord s.tak.user.num s.tak.user.instant { u with tak.user.doubt := true, tak.user.sentAt := u.up }) :=
  if_neg (by simp [hprepared, hmember, hnew])

theorem exec_takeQueryRepeat_of_sys_doubt {s : State} (hprepared : s.tak.sys.state = .prepared) (hdoubt : s.tak.sys.doubt = true)
    (hbefore : (nextSend s.tak.sys.sentAt s).now.toNat < (framesAfter s.tak.sys.instant 16).toNat) :
    exec (.takeQueryRepeat .sys) s =
      let u := nextSend s.tak.sys.sentAt s
      .next (querySend s.tak.sys.kind s.tak.sys.coord s.tak.sys.num s.tak.sys.instant { u with tak.sys.sentAt := u.up }) :=
  if_pos (by simp [hprepared, hdoubt, hbefore])

/-- The first QUERY of a sender is answered from the outcome that is kept. -/
theorem exec_takeQueryReceive_of_print {src : Uid} {m : TakeMsg} {o : Outcome} {s : State}
    (hkept : s.tak.outcomes.find? (fun x => x.kind = m.kind && x.coord = m.coord && x.num = m.num && decide (s.up < x.at_ + 16 * rl))
      = some o)
    (hnew : s.tak.seen.contains (m.kind, m.coord, m.num, 0x21 + 256 * src.toNat) = false) (hprint : o.scrap = none) :
    exec (.takeQueryReceive src m) s =
      .next (takeTo src 0x22 { kind := o.kind, reply := true, coord := o.coord, num := o.num, instant := o.instant }
        { s with tak.seen := ((m.kind, m.coord, m.num, 0x21 + 256 * src.toNat) :: s.tak.seen).take 64 }) := by
  change Host.Outcome.next (queryIn src m s) = _
  rw [queryIn, hkept]
  simp only [firstSeen_of_new hnew, hprint]
  rfl

/-- Settles O24: the hypotheses of each clause pass its command's guards. That a PRINT whose instant has come applies the take at once at
a PREPARED member is log 178. -/
theorem takeMemberCompletes : Obligations.TakeMemberCompletes := by
  refine ⟨?yes, ?no, ?print, ?scrap, ?doubt, ?queryRepeat, ?query, ?reply, ?expiry⟩
  case yes =>
    rintro src m t s ⟨hkind, hparts, hpart, hlen, hnone, hby⟩ ⟨hnew, hreason, hvalid⟩
    rw [exec_takePrepareReceive_of_only_part hkind hnew hreason hby hparts hpart hlen hnone, voteShare_of_valid hvalid]
  case no =>
    rintro src m r s ⟨hkind, hnew, rfl, hreason⟩
    exact exec_takePrepareReceive_of_refused hkind hnew hreason
  case print =>
    rintro m s ⟨hkind, hnew⟩ ⟨hprepared, hmember, hcoord, hnum⟩
    exact exec_takePrintReceive_of_prepared hkind hprepared hcoord hnum hmember hnew
  case scrap =>
    rintro m s ⟨hkind, hnew⟩ ⟨hprepared, hmember, hcoord, hnum⟩
    exact exec_takeScrapReceive_of_prepared hkind hprepared hcoord hnum hmember hnew
  case doubt => rintro s ⟨hprepared, hmember, hnew⟩; exact exec_takeDoubtTimer_of_prepared hprepared hmember hnew
  case queryRepeat => rintro s ⟨hprepared, hdoubt⟩ hbefore; exact exec_takeQueryRepeat_of_sys_doubt hprepared hdoubt hbefore
  case query => rintro src m o s hkept ⟨hnew, hprint⟩; exact exec_takeQueryReceive_of_print hkept hnew hprint
  case reply =>
    rintro m s ⟨hkind, hprepared, hdoubt, hcoord, hnum⟩
    have hreply (print : Bool) := exec_takeReplyReceive_of_doubt hkind hprepared hcoord hnum print hdoubt
    exact ⟨(hreply true).trans (congrArg Host.Outcome.next (doubtApply_user hcoord hnum)), hreply false⟩
  case expiry => rintro s ⟨hprepared, hdoubt⟩; exact if_pos (by simp [hprepared, hdoubt])

end Sys2Proof.Machine
end

section
/-!
PROOFS. Counter registers and the Device Serial Number (R468, R477).
-/
namespace Sys2Proof.Machine

theorem tget_bump_same (a : Nat) (s : State) : tget (bump a s).reg a 0 = tget s.reg a 0 + 1 := tget_tset_same ..

theorem tget_bump_other {a b : Nat} (s : State) (h : b ≠ a) : tget (bump a s).reg b 0 = tget s.reg b 0 :=
  tget_tset_other _ _ _ _ _ h.symm

/-- A register that no computed value and no field of a take stands behind reads as it stands. -/
theorem regRead_stored {s : State} {a : Nat} (hfields : rwtFields a = []) (hstored : readComputed s a = none) :
    regRead s a = tget s.reg a 0 := by
  rw [regRead, rwtWord, hfields, hstored]
  exact BitVec.zero_or

/-- Settles O52: a counter is one entry of the table of registers, and adding 1 to a word wraps. -/
theorem countersWrap : Obligations.CountersWrap := by
  intro a s
  refine ⟨tget_bump_same a s, fun hfull => ?_, fun b hb => tget_bump_other s hb, regRead_stored rfl rfl⟩
  rw [tget_bump_same, hfull]
  rfl

theorem beBytes_append (j k n : Nat) : beBytes (j + k) n = beBytes j (n / 256 ^ k) ++ beBytes k n := by
  induction j with
  | zero => rw [Nat.zero_add]; rfl
  | succ j ih => rw [Nat.succ_add, beBytes, beBytes, ih, Nat.div_div_eq_div_mul, ← Nat.pow_add, Nat.add_comm k j]; rfl

theorem beBytes_mod (k n : Nat) : beBytes k (n % 256 ^ k) = beBytes k n := by
  rw [← beBytes_add_mul k (n / 256 ^ k), Nat.div_add_mod']

theorem clockId_toNat (u : Uid) : (clockId u).toNat = u.toNat / 2 ^ 24 * 2 ^ 40 + 0xFFFE * 2 ^ 24 + u.toNat % 2 ^ 24 := by
  have hlow : u.toNat % 2 ^ 24 < 2 ^ 24 := Nat.mod_lt _ (by decide)
  have hu : u.toNat / 2 ^ 24 % 2 ^ 24 = u.toNat / 2 ^ 24 := Nat.mod_eq_of_lt (by omega)
  simp only [clockId, BitVec.toNat_append, BitVec.extractLsb'_toNat, Nat.shiftRight_eq_div_pow, Nat.pow_zero, Nat.div_one, hu]
  rw [← Nat.shiftLeft_add_eq_or_of_lt hlow, ← Nat.shiftLeft_add_eq_or_of_lt (by decide)]
  simp only [Nat.shiftLeft_eq, show (0xFFFE : BitVec 16).toNat = 0xFFFE from rfl]
  omega

theorem beBytes_clockId (u : Uid) :
    beBytes 8 (clockId u).toNat = (beBytes 6 u.toNat).take 3 ++ [0xFF, 0xFE] ++ (beBytes 6 u.toNat).drop 3 := by
  have hhigh : (clockId u).toNat / 256 ^ 5 = u.toNat / 256 ^ 3 := by rw [clockId_toNat]; omega
  have hmid : (clockId u).toNat / 256 ^ 3 = u.toNat / 256 ^ 3 * 256 ^ 2 + 0xFFFE := by rw [clockId_toNat]; omega
  have hlow : beBytes 3 (clockId u).toNat = beBytes 3 u.toNat := by
    rw [← beBytes_mod, ← beBytes_mod 3 u.toNat, clockId_toNat]
    congr 1
    omega
  rw [beBytes_append 3 5, beBytes_append 2 3, beBytes_append 3 3 u.toNat, hhigh, hmid, hlow, beBytes_add_mul]
  rfl

/-- Settles O43: the Device Serial Number and the clockIdentity are both clockId of the UID, whose bytes beBytes_clockId gives. -/
theorem deviceSerialNumber : Obligations.DeviceSerialNumber := fun s => ⟨beBytes_clockId s.uid, rfl⟩

end Sys2Proof.Machine
end

section
/-!
PROOFS. Interrupt causes, their messages and the endpoint (R371, R461, R469, R482 to R484).
-/
namespace Sys2Proof.Machine

/-! ### Folds over the causes and the vectors -/

theorem foldl_of_fixed {α β : Type} {f : β → α → β} {l : List α} {s : β} (h : ∀ x ∈ l, f s x = s) : l.foldl f s = s :=
  List.foldlRecOn (motive := fun u => u = s) l f rfl fun u hu x hx => by rw [hu]; exact h x hx

/-- Where all but one element leave both what stands before it and what it makes, the fold is that element's step. -/
theorem foldl_of_only {α β : Type} {f : β → α → β} {l : List α} {s t : β} {b : α} (hnodup : l.Nodup) (hb : b ∈ l)
    (hstep : f s b = t) (hbefore : ∀ x ∈ l, x ≠ b → f s x = s) (hafter : ∀ x ∈ l, x ≠ b → f t x = t) : l.foldl f s = t := by
  obtain ⟨p, q, rfl⟩ := List.append_of_mem hb
  obtain ⟨-, hq, hdisjoint⟩ := List.nodup_append.mp hnodup
  have hp : ∀ x ∈ p, x ≠ b := fun x hx => hdisjoint x hx b (by simp)
  have hq : ∀ x ∈ q, x ≠ b := fun x hx h => (List.nodup_cons.mp hq).1 (h ▸ hx)
  rw [List.foldl_append, List.foldl_cons, foldl_of_fixed fun x hx => hbefore x (by simp [hx]) (hp x hx), hstep,
    foldl_of_fixed fun x hx => hafter x (by simp [hx]) (hq x hx)]

/-! ### Bits of causes, masks and the PBA -/

theorem bitOf_two_pow {b : Nat} (hb : b < 32) (x : Nat) : bitOf (BitVec.ofNat 32 (2 ^ b)) x = decide (b = x) := by
  rw [bitOf, BitVec.getLsbD_ofNat, Nat.testBit_two_pow]
  by_cases h : b = x
  · simp [← h, hb]
  · simp [h]

theorem getLsbD_putBit_other {n i j : Nat} (v : BitVec n) (on : Bool) (h : j ≠ i) : (putBit v i on).getLsbD j = v.getLsbD j := by
  have hbit : (BitVec.ofNat n (2 ^ i)).getLsbD j = false := by
    rw [BitVec.getLsbD_ofNat, Nat.testBit_two_pow_of_ne h.symm, Bool.and_false]
  by_cases hj : j < n
  · cases on
    · rw [putBit, if_neg Bool.false_ne_true, BitVec.getLsbD_and, BitVec.getLsbD_not, hbit]
      simp [hj]
    · rw [putBit, if_pos rfl, BitVec.getLsbD_or, hbit, Bool.or_false]
  · rw [BitVec.getLsbD_of_ge _ _ (Nat.le_of_not_lt hj), BitVec.getLsbD_of_ge _ _ (Nat.le_of_not_lt hj)]

theorem putBit_zero_cleared {n : Nat} (i : Nat) : putBit (putBit (0 : BitVec n) i true) i false = 0 := by simp [putBit]

/-! ### A cause rises (R482) -/

theorem riseCause_of_unmasked {b : Nat} {s : State} (hclear : s.irq.cause.getLsbD b = false) (hmask : s.irq.mask.getLsbD b = true) :
    riseCause b s = msixDue (vecOf s.irq b) { s with irq.cause := putBit s.irq.cause b true } :=
  (if_neg (by simp [hclear])).trans (if_pos hmask)

theorem riseCause_of_masked {b : Nat} {s : State} (hclear : s.irq.cause.getLsbD b = false) (hmask : s.irq.mask.getLsbD b = false) :
    riseCause b s = { s with irq.cause := putBit s.irq.cause b true } :=
  (if_neg (by simp [hclear])).trans (if_neg (by simp [hmask]))

theorem riseCause_of_set {b : Nat} {s : State} (hset : s.irq.cause.getLsbD b = true) : riseCause b s = s := if_pos hset

/-! ### A message that is due is sent or held (R482, R484) -/

theorem msixDue_of_sendable {v : Nat} {s : State} (h : msixSendable s.irq v = true) :
    msixDue v s = bump 0x1040 (emit (.msix v (tget s.irq.table (4 * v) 0) (tget s.irq.table (4 * v + 1) 0)
      (tget s.irq.table (4 * v + 2) 0)) s) := if_pos h

theorem msixDue_of_held {v : Nat} {s : State} (h : msixSendable s.irq v = false) :
    msixDue v s = { s with irq.pba := putBit s.irq.pba v true } := if_neg (by simp [h])

theorem msixDue_sent_irq {v : Nat} {s : State} (h : msixSendable s.irq v = true) : (msixDue v s).irq = s.irq := by
  rw [msixDue_of_sendable h, bump_irq, emit_irq]

theorem msixSendable_of_masked {q : IrqSt} {v : Nat}
    (h : q.msixOn = false ∨ q.funcMask = true ∨ bitOf (tget q.table (4 * v + 3) 1) 0 = true) : msixSendable q v = false := by
  rcases h with h | h | h <;> rw [msixSendable, h] <;> simp

/-- One message is held, and may be sent now: it is what goes out. -/
theorem flushPba_of_one {v : Nat} {s : State} (hv : v < 64) (hpba : s.irq.pba = putBit 0 v true) (h : msixSendable s.irq v = true) :
    flushPba s = msixDue v { s with irq.pba := 0 } := by
  have hset : s.irq.pba.getLsbD v = true := by rw [hpba]; exact getLsbD_putBit_true 0 hv
  have hothers : ∀ x ≠ v, s.irq.pba.getLsbD x = false := fun x hx => by rw [hpba, getLsbD_putBit_other 0 true hx]; simp
  have hsent : (msixDue v { s with irq.pba := 0 }).irq.pba = 0 := by
    rw [msixDue_sent_irq (s := { s with irq.pba := 0 }) h]
  refine foldl_of_only List.nodup_range (List.mem_range.mpr hv) ?step
    (fun x _ hx => if_neg (by rw [hothers x hx]; exact Bool.false_ne_true)) (fun x _ _ => if_neg (by rw [hsent]; simp))
  rw [if_pos (by rw [hset, h]; rfl), hpba, putBit_zero_cleared]

/-! ### IRQ_CAUSE, IRQ_MASK and IRQ_VEC (R482, R483) -/

theorem causeClear_of_not_held {mask : Word} {s : State}
    (h : ∀ b, b < 23 → bitOf mask b = true → s.irq.cause.getLsbD b = true → heldCond s b = false) :
    causeClear mask s = { s with irq.cause := w1c s.irq.cause mask.toNat } := by
  refine foldl_of_fixed fun b hb => if_neg fun hagain => ?_
  simp only [Bool.and_eq_true] at hagain
  obtain ⟨⟨hmask, hset⟩, hheld⟩ := hagain
  exact absurd hheld (by simp [h b (List.mem_range.mp hb) hmask hset])

theorem causeClear_of_held {b : Nat} {s : State} (hb : b < 23) (hset : s.irq.cause.getLsbD b = true) (hheld : heldCond s b = true) :
    causeClear (BitVec.ofNat 32 (2 ^ b)) s = riseCause b { s with irq.cause := w1c s.irq.cause (2 ^ b) } := by
  have hbit := bitOf_two_pow (b := b) (by omega)
  have hmask : (BitVec.ofNat 32 (2 ^ b)).toNat = 2 ^ b := Nat.mod_eq_of_lt (Nat.pow_lt_pow_right (by decide) (by omega))
  have hothers (x : Nat) (hx : x ≠ b) : (decide (b = x) && s.irq.cause.getLsbD x && heldCond s x) ≠ true := by simp [hx.symm]
  simp only [causeClear, hbit, hmask]
  exact foldl_of_only List.nodup_range (List.mem_range.mpr hb) (if_pos (by simp [hset, hheld])) (fun x _ hx => if_neg (hothers x hx))
    (fun x _ hx => if_neg (hothers x hx))

theorem maskWrite_of_none_opened {v : Word} {s : State}
    (h : ∀ b, b < 23 → bitOf v b = true → s.irq.mask.getLsbD b = false → s.irq.cause.getLsbD b = false) :
    maskWrite v s = { s with irq.mask := BitVec.ofNat 23 v.toNat } := by
  refine foldl_of_fixed fun b hb => if_neg fun hopened => ?_
  simp only [Bool.and_eq_true, Bool.not_eq_true'] at hopened
  obtain ⟨⟨hbit, hmask⟩, hset⟩ := hopened
  exact absurd hset (by simp [h b (List.mem_range.mp hb) hbit hmask])

/-- The write opens one set cause: its message falls due. -/
theorem maskWrite_of_one_opened {b : Nat} {v : Word} {s : State} (hb : b < 23) (hset : s.irq.cause.getLsbD b = true)
    (hopens : bitOf v b = true ∧ s.irq.mask.getLsbD b = false)
    (honly : ∀ x, x < 23 → x ≠ b → bitOf v x = true → s.irq.mask.getLsbD x = true) :
    maskWrite v s = msixDue (vecOf s.irq b) { s with irq.mask := BitVec.ofNat 23 v.toNat } := by
  obtain ⟨hbit, hmask⟩ := hopens
  have hothers (x : Nat) (hx : x ∈ causes) (hne : x ≠ b) (on : Bool) : (bitOf v x && !s.irq.mask.getLsbD x && on) ≠ true := by
    intro hopened
    simp only [Bool.and_eq_true, Bool.not_eq_true'] at hopened
    obtain ⟨⟨hbit, hmasked⟩, -⟩ := hopened
    simp [honly x (List.mem_range.mp hx) hne hbit] at hmasked
  exact foldl_of_only List.nodup_range (List.mem_range.mpr hb) (if_pos (by simp [hbit, hmask, hset]))
    (fun x hx hne => if_neg (hothers x hx hne _)) (fun x hx hne => if_neg (hothers x hx hne _))

theorem exec_irqMaskWrite {s : State} (h : reaches s .host = true) (v : Word) : exec (.irqMaskWrite v) s = .next (maskWrite v s) :=
  if_pos h

theorem exec_irqVecWrite {s : State} (h : reaches s .host = true) (b : Fin 23) (v : Fin 64) :
    exec (.irqVecWrite b v) s = .next (vecWrite b.val v.val s) :=
  if_pos h

theorem exec_irqCauseClear {s : State} (h : reaches s .host = true) (mask : Word) :
    exec (.irqCauseClear mask) s = .next (causeClear mask s) :=
  if_pos h

theorem exec_msixEnable {s : State} (h : configServed s = true) (on funcMask : Bool) :
    exec (.msixEnable on funcMask) s = .next (flushPba { s with irq.msixOn := on, irq.funcMask := funcMask }) :=
  if_pos h

theorem configServed_of_on {s : State} (hon : domOn s .d12 = true) (hnormal : s.irq.retryStatus = false) : configServed s = true := by
  simp [configServed, hon, hnormal]

/-- Settles O41: the causes that a write leaves as they are are fixed points of its fold, and so are the vectors that hold nothing. -/
theorem interruptMessages : Obligations.InterruptMessages := by
  refine ⟨?rise, ?sent, ?held, ?opened, ?vector, ?released⟩
  case rise =>
    exact fun b s hb => ⟨riseCause_of_unmasked, riseCause_of_masked, riseCause_of_set, riseCause_sets s hb⟩
  case sent => intro v s _ h; exact msixDue_of_sendable h
  case held =>
    intro v s hv h
    have hdue := msixDue_of_held (msixSendable_of_masked h)
    exact ⟨hdue, by rw [hdue]; exact getLsbD_putBit_true _ hv⟩
  case opened =>
    rintro b m s hreach ⟨hset, hmask, hm⟩
    have hbit (x : Nat) (hx : x < 23) : bitOf m x = (putBit s.irq.mask b.val true).getLsbD x := by
      rw [← hm, BitVec.getLsbD_setWidth, bitOf]
      simp [hx]
    rw [exec_irqMaskWrite hreach, maskWrite_of_one_opened b.isLt hset, BitVec.ofNat_toNat, hm]
    · exact ⟨(hbit b b.isLt).trans (getLsbD_putBit_true _ b.isLt), hmask⟩
    · intro x hx hne h
      rwa [hbit x hx, getLsbD_putBit_other _ _ hne] at h
  case vector =>
    intro b v s hreach
    rw [exec_irqVecWrite hreach, vecWrite]
    simp [and_assoc]
  case released =>
    rintro on fm v s hv ⟨hserved, hpba, hsend⟩
    rw [exec_msixEnable hserved, flushPba_of_one (s := { s with irq.msixOn := on, irq.funcMask := fm }) hv hpba hsend]

/-! ### The endpoint (R461, R469, R484) -/

theorem reaches_of_d3hot {s : State} (h : s.irq.d3hot = true) : reaches s .host = false := by simp [reaches, h]

theorem turnedAway_of_d3hot {s : State} (hon : domOn s .d12 = true) (h : s.irq.d3hot = true) : turnedAway .host s = emit .unsupported s :=
  if_pos (by simp [hon, h])

/-- Settles O21: the register writes go by the fold over the causes, and what does not reach the host's function is turned away. -/
theorem interruptsComplete : Obligations.InterruptsComplete := by
  refine ⟨?cleared, ?heldAgain, ?mask, ?opened, ?vector, ?ready, ?turned, ?busMaster, ?d3hot, ?msix, ?reel⟩
  case cleared => intro mask s hreach h; rw [exec_irqCauseClear hreach, causeClear_of_not_held h]
  case heldAgain => rintro b s ⟨hreach, hset, hheld⟩; rw [exec_irqCauseClear hreach, causeClear_of_held b.isLt hset hheld]
  case mask => intro v s hreach h; rw [exec_irqMaskWrite hreach, maskWrite_of_none_opened h]
  case opened =>
    rintro b s ⟨hreach, hmask, hset⟩
    have hbit := bitOf_two_pow (b := b.val) (by omega)
    have hword : (BitVec.ofNat 32 (2 ^ b.val)).toNat = 2 ^ b.val :=
      Nat.mod_eq_of_lt (Nat.pow_lt_pow_right (by decide) (by omega))
    rw [exec_irqMaskWrite hreach, maskWrite_of_one_opened b.isLt hset, hword]
    · exact ⟨(hbit b).trans (decide_eq_true rfl), by rw [hmask]; simp⟩
    · intro x _ hne h
      exact absurd (of_decide_eq_true ((hbit x).symm.trans h)) hne.symm
  case vector => intro b v s hreach; exact exec_irqVecWrite hreach b v
  case ready => rintro s ⟨hboot, hon⟩; exact if_neg (by simp [hboot, hon])
  case turned =>
    rintro bar4 a n k s ⟨hon, hd3hot⟩
    have haway : Host.Outcome.next (φ := Fault) (ρ := Refusal) (turnedAway .host s) = .next (emit .unsupported s) :=
      congrArg _ (turnedAway_of_d3hot hon hd3hot)
    have hout : (!reaches s .host) = true := by rw [reaches_of_d3hot hd3hot]; rfl
    exact ⟨(if_pos hout).trans haway, (if_pos hout).trans haway, (if_pos hout).trans haway, (if_pos hout).trans haway,
      (if_pos hout).trans haway⟩
  case busMaster =>
    rintro on toD0 s ⟨hon, hnormal⟩
    exact if_neg (by simp [configServed_of_on hon hnormal])
  case d3hot => rintro s ⟨hon, hnormal⟩; exact if_pos (configServed_of_on hon hnormal)
  case msix => rintro on funcMask s ⟨hon, hnormal⟩; exact exec_msixEnable (configServed_of_on hon hnormal) on funcMask
  case reel => intro s; rfl

end Sys2Proof.Machine
end

section
/-!
PROOFS. Core-voltage loops (R441, R443).
-/
namespace Sys2Proof.Machine

/-- In mode 2 the loop moves toward 0.80 V, whatever its occupancy and its floor are. -/
theorem nextVolt_of_fixed (vmin target occ fv : Nat) (x : LoopSt) (n : Nat) : nextVolt 2 vmin target occ fv x n = moveVolt x.now 1600 := rfl

theorem exec_loopUpdate_of_fixed {k : Fin 8} {s : State} (hon : domOn s (loopDom k.val) = true) (hfixed : cfg s 0x2110 (k.val + 1) = 2)
    (occ : Fin 101) (completions : Word) (floorV : BitVec 10) :
    exec (.loopUpdate k occ completions floorV) s =
      let x := loopSt s k.val
      let v := moveVolt x.now 1600
      .next (setLoop k.val { x with
        now := v, hi := max x.hi v, lo := if x.lo = 0 then v else min x.lo v, rate := completions.toNat
        floor := false, satSince := none, satCounted := false, satNoted := false } { s with free := s.free + 1 }) := by
  change execLoopUpdate k occ completions floorV s = _
  have hmode : cfg { s with free := s.free + 1 } 0x2110 (k.val + 1) = 2 := hfixed
  rw [execLoopUpdate, if_neg (by simp [hon])]
  simp only [nextFree, hmode, nextVolt_of_fixed, ne_eq, not_true_eq_false, decide_false, Bool.and_false]
  rfl

theorem exec_loopSaturation_of_uncounted {k : Fin 8} {s : State} {t : Nat} (hsince : (loopSt s k.val).satSince = some t)
    (hfirst : (loopSt s k.val).satCounted = false) (hon : domOn s (loopDom k.val) = true) :
    exec (.loopSaturation k) s =
      let u := passTo (t + fr) s
      .next (bump (0x210C + 0x10 * k.val) (setLoop k.val { loopSt s k.val with satHigh := true, satCounted := true }
        (passToInstant (nextPerf u.now) u))) := by
  change execLoopSaturation k s = _
  simp only [execLoopSaturation, hsince]
  exact if_neg (by simp [hfirst, hon])

theorem exec_loopSatLong_of_unnoted {k : Fin 4} {s : State} {t : Nat} (hsince : (loopSt s k.val).satSince = some t)
    (hfirst : (loopSt s k.val).satNoted = false) (hon : domOn s (loopDom k.val) = true) :
    exec (.loopSatLong k) s = .next (fire 2 4 [BitVec.ofNat 8 (domNumber (loopDom k.val)), planeByte (loopDom k.val)]
      (setLoop k.val { loopSt s k.val with satNoted := true } (passTo (t + rl) s))) := by
  change execLoopSatLong k s = _
  simp only [execLoopSatLong, hsince]
  exact if_neg (by simp [hfirst, hon])

/-- Settles O18: the hypotheses of each clause pass its command's guards; in mode 2 the loop neither has a floor nor saturates. -/
theorem loopsComplete : Obligations.LoopsComplete := by
  refine ⟨?update, ?saturation, ?long⟩
  case update => rintro k occ completions floorV s ⟨hon, hfixed⟩; exact exec_loopUpdate_of_fixed hon hfixed occ completions floorV
  case saturation => rintro k s t ⟨hsince, hfirst, hon⟩; exact exec_loopSaturation_of_uncounted hsince hfirst hon
  case long => rintro k s t ⟨hsince, hfirst, hon⟩; exact exec_loopSatLong_of_unnoted hsince hfirst hon

end Sys2Proof.Machine
end

section
/-!
PROOFS. The queue of triggers and the writing of entries (R366 to R382).
-/
namespace Sys2Proof.Machine

/-! ### The queue of triggers (R374 to R377) -/

theorem coalesceFirst_append {p : RecEntry → Bool} {e : RecEntry} {a : List RecEntry} (b : List RecEntry) (he : p e = true)
    (hbefore : ∀ x ∈ a, p x = false) :
    coalesceFirst p (a ++ e :: b) = a ++ { e with coalesced := min (e.coalesced + 1) 65535 } :: b := by
  induction a with
  | nil => exact if_pos he
  | cons x a ih =>
    rw [List.cons_append, coalesceFirst, if_neg (by simp [hbefore x (List.mem_cons_self ..)]),
      ih fun y hy => hbefore y (List.mem_cons_of_mem _ hy)]
    rfl

theorem dropLast_append {p : RecEntry → Bool} {e : RecEntry} (a : List RecEntry) {b : List RecEntry} (he : p e = true)
    (hafter : ∀ x ∈ b, ¬ p x = true) : dropLast p (a ++ e :: b) = a ++ b := by
  rw [dropLast, List.reverse_append, List.reverse_cons, List.append_assoc,
    List.eraseP_append_right _ fun x hx => hafter x (List.mem_reverse.mp hx), List.singleton_append, List.eraseP_cons_of_pos he]
  simp

theorem foldl_lowest_le {e : RecEntry} {l : List RecEntry} (m : Nat) (he : e ∈ l) (hnew : e.seq = none) :
    l.foldl (fun m e => if e.seq.isNone then min m e.sev else m) m ≤ e.sev := by
  induction l generalizing m with
  | nil => simp at he
  | cons x l ih =>
    rcases List.mem_cons.mp he with rfl | he
    · rw [List.foldl_cons, hnew, Option.isNone_none, if_pos rfl]
      exact (foldl_min_le ..).trans (Nat.min_le_right ..)
    · exact ih _ he

theorem lowestSev_le {e : RecEntry} {l : List RecEntry} (he : e ∈ l) (hnew : e.seq = none) : lowestSev l ≤ e.sev :=
  foldl_lowest_le 8 he hnew

/-- Below 8, which stands for none, the lowest severity is that of an entry not yet begun. -/
theorem exists_of_lowestSev_ne {l : List RecEntry} (h : lowestSev l ≠ 8) : ∃ e ∈ l, e.seq = none ∧ e.sev = lowestSev l := by
  have hle : lowestSev l ≤ 8 := foldl_min_le ..
  obtain ⟨e, he, hnew, hsev⟩ := lowestSev_mem l 8 (Nat.lt_of_le_of_ne hle h)
  exact ⟨e, he, Option.isNone_iff_eq_none.mp hnew, hsev⟩

theorem lowestSev_eq {e : RecEntry} {l : List RecEntry} (he : e ∈ l) (hnew : e.seq = none) (hsev : e.sev < 8)
    (hleast : ∀ x ∈ l, x.seq = none → e.sev ≤ x.sev) : lowestSev l = e.sev := by
  have hle := lowestSev_le he hnew
  obtain ⟨x, hx, hxnew, hxsev⟩ := exists_of_lowestSev_ne (l := l) (by omega)
  have := hleast x hx hxnew
  omega

theorem fire_of_not_latching {s : State} (h : recLatching s = false) (src sev : Nat) (d : List Byte) : fire src sev d s = loseN 1 s :=
  if_pos (by simp [h])

section
variable {src sev : Nat} {s : State} (hlatching : recLatching s = true)
include hlatching

theorem fire_of_coalescing {e : RecEntry} {a b : List RecEntry} (hqueue : s.log.queue = a ++ e :: b)
    (he : coalesces src sev s.up e = true) (hbefore : ∀ x ∈ a, coalesces src sev s.up x = false) (d : List Byte) :
    fire src sev d s = bump 0x70044 { s with log.queue := a ++ { e with coalesced := min (e.coalesced + 1) 65535 } :: b } := by
  rw [fire, if_neg (by simp [hlatching]), if_pos (by simp [hqueue, he]), hqueue, coalesceFirst_append b he hbefore]

variable (hnew : s.log.queue.any (coalesces src sev s.up) = false) (d : List Byte)
include hnew

theorem fire_of_room (hroom : s.log.queue.length < 64) :
    fire src sev d s = { s with log.queue := s.log.queue ++ [latchEntry src sev d s] } := by
  rw [fire, if_neg (by simp [hlatching]), if_neg (by simp [hnew]), if_pos hroom]

theorem fire_of_full (hfull : s.log.queue.length = 64) :
    fire src sev d s =
      let low := lowestSev s.log.queue
      if low = 8 ∨ sev ≤ low then loseN 1 s
      else clearLost (loseN 1 { s with
        log.queue := dropLast (fun e => e.seq.isNone && e.sev == low) s.log.queue ++ [latchEntry src sev d s] }) := by
  rw [fire, if_neg (by simp [hlatching]), if_neg (by simp [hnew]), if_neg (by omega)]

theorem fire_of_none_lower (hfull : s.log.queue.length = 64) (hleast : ∀ x ∈ s.log.queue, x.seq = none → sev ≤ x.sev) :
    fire src sev d s = loseN 1 s := by
  rw [fire_of_full hlatching hnew d hfull]
  refine if_pos ?_
  by_cases hlow : lowestSev s.log.queue = 8
  · exact .inl hlow
  · obtain ⟨x, hx, hxnew, hxsev⟩ := exists_of_lowestSev_ne hlow
    exact .inr (hxsev ▸ hleast x hx hxnew)

theorem fire_of_last_lowest {e : RecEntry} {a b : List RecEntry} (hfull : s.log.queue.length = 64) (hqueue : s.log.queue = a ++ e :: b)
    (henew : e.seq = none) (hlower : e.sev < sev) (hsev : sev ≤ 7) (hleast : ∀ x ∈ s.log.queue, x.seq = none → e.sev ≤ x.sev)
    (hlast : ∀ x ∈ b, x.seq = none → x.sev ≠ e.sev) :
    fire src sev d s = clearLost (loseN 1 { s with log.queue := a ++ b ++ [latchEntry src sev d s] }) := by
  have hlow : lowestSev s.log.queue = e.sev := lowestSev_eq (by simp [hqueue]) henew (by omega) hleast
  rw [fire_of_full hlatching hnew d hfull]
  simp only [hlow]
  rw [if_neg (by omega), hqueue, dropLast_append a (by simp [henew]) (by simpa using hlast)]

end

theorem loseN_one (s : State) : loseN 1 s = raiseIrq 13 (bump 0x70048 { s with log.lost := s.log.lost + 1, log.lostBit := true }) := rfl

theorem loseN_one_log (s : State) : (loseN 1 s).log = { s.log with lost := s.log.lost + 1, lostBit := true } := by
  rw [loseN_one, raiseIrq_log, bump_log]

/-- Settles O47: the branches of fire, one clause each. -/
theorem triggerQueue : Obligations.TriggerQueue := by
  refine ⟨?lost, ?coalesced, ?latched, ?noneLower, ?dropped⟩
  case lost => intro src sev d s h; exact ⟨fire_of_not_latching h src sev d, by rw [loseN_one_log], by rw [loseN_one_log]⟩
  case coalesced =>
    rintro src sev d e a b s ⟨hlatching, hqueue⟩ ⟨he, hbefore⟩
    exact fire_of_coalescing hlatching hqueue he hbefore d
  case latched => rintro src sev d s ⟨hlatching, hnew, hroom⟩; exact fire_of_room hlatching hnew d hroom
  case noneLower =>
    rintro src sev d s ⟨hlatching, hnew, hfull⟩ ⟨-, -, hleast⟩
    exact fire_of_none_lower hlatching hnew d hfull hleast
  case dropped =>
    rintro src sev d e a b s ⟨hlatching, hnew, hfull, hqueue⟩ ⟨henew, hlower, hsev, hleast, hlast⟩
    exact fire_of_last_lowest hlatching hnew d hfull hqueue henew hlower hsev hleast hlast

/-! ### Software triggers (R366) -/

theorem trigBy_of_granted {who : Requester} {src sev : Nat} (s : State) (hwho : who = .host ∨ sev < 7) (hlow : 56 ≤ src)
    (hhigh : src ≤ 63) :
    trigBy who src sev s = fire src sev (trigData s) s := by
  have hmay : ¬ (who = .core && decide (sev = 7)) = true := by
    rcases hwho with rfl | hsev
    · simp
    · exact fun h => absurd (of_decide_eq_true (Bool.and_eq_true_iff.mp h).2) (Nat.ne_of_lt hsev)
  rw [trigBy, if_neg hmay, softTrigger, if_pos (by simp [hlow, hhigh])]

/-! ### The head is written (R370 to R373, R379, R381) -/

theorem makeRoom_of_free {need : Nat} {s : State} (v : Nat) (h : need ≤ freePages s) : makeRoom v need s = some s := if_pos h

theorem noteFull_of_same {before s : State} (h : s.log.fullNoted = before.log.fullNoted) : noteFull before s = s :=
  if_neg (by simp [h])

theorem startHead_of_new {e : RecEntry} {q : List RecEntry} {s : State} (hqueue : s.log.queue = e :: q) (hnew : e.seq = none)
    (hclear : s.log.clear = none) :
    startHead e s = { s with
      log.queue := { e with seq := some s.log.nextSeq, lost := s.log.lost, refused := s.log.refusedCount } :: q
      log.writing := some (.page 0)
      log.stopped := false
      log.nextSeq := s.log.nextSeq + 1
      log.lost := 0
      log.refusedCount := 0 } := by
  simp only [startHead, hnew, hclear, hqueue]
  rfl

theorem entryExists_log (e : RecEntry) (s : State) :
    (entryExists e s).log = { s.log with store := storeEntry { entry := e, pages := entryPages e } s.log.store } := by
  simp only [entryExists]
  split
  · rw [raiseIrq_log, bump_log]
  · rw [bump_log]

theorem entryExists_of_quiet {e : RecEntry} {s : State} (hsev : e.sev < cfg s 0x2A06 0) :
    entryExists e s = bump 0x70040 { s with log.store := storeEntry { entry := e, pages := entryPages e } s.log.store } := by
  have hcfg : cfg (bump 0x70040 { s with log.store := storeEntry { entry := e, pages := entryPages e } s.log.store }) 0x2A06 0 =
      cfg s 0x2A06 0 := cfg_bump ..
  exact if_neg (by rw [hcfg]; omega)

section
variable {e : RecEntry} {q : List RecEntry} {s : State} (hqueue : s.log.queue = e :: q)
include hqueue

theorem entryWriteStart_of_ready (hidle : s.log.writing = none) (hready : nandReady s = true) :
    entryWriteStart s =
      match makeRoom e.sev (entryPages e) s with
      | some s' => noteFull s (startHead e s')
      | none => noteFull s (refuseHead (ranOut s)) := by
  simp only [entryWriteStart, hqueue, hidle]
  exact if_pos hready

theorem pageDone_of_page {n : Nat} (hpage : s.log.writing = some (.page n)) (hgoes : s.log.forceStop = false) (hsag : s.pwr.sag = false)
    (ok : Bool) :
    pageDone ok s =
      if n + 1 < entryPages e then { s with log.writing := some (.page (n + 1)) }
      else if ok then { s with log.writing := some .mark }
      else bump 0x70058 { s with log.writing := some (.page 0), log.junkPages := s.log.junkPages + (n + 1) } := by
  simp only [pageDone, hqueue, hpage]
  rw [if_neg (by simp [hgoes]), if_neg (by simp [hsag])]

theorem markDone_of_no_clear (hmark : s.log.writing = some .mark) (hclear : s.log.clear = none) :
    markDone s = entryExists e { s with log.queue := q, log.writing := none, log.stopped := false, log.forceStop := false } := by
  have hkept : (entryExists e
      { s with log.queue := q, log.writing := none, log.stopped := false, log.forceStop := false }).log.clear = none := by
    rw [entryExists_log]; exact hclear
  simp only [markDone, hqueue, hmark, hkept]

end

/-! ### Last words (R382) -/

theorem toLastWords_of_low {s : State} (h : s.pwr.holdupLow = true) : toLastWords s = s := if_pos h

section
variable {s : State} (hsag : s.pwr.sag = true) (hdone : s.log.lastWordsDone = false) (hkept : s.log.lastWordsLost = false)
  (hlow : s.pwr.holdupLow = true)
include hsag hdone hkept hlow

theorem lastWords_of_not_latching (h : recLatching s = false) : lastWords s = loseN 1 { s with log.lastWordsLost := true } := by
  rw [lastWords, if_neg (by simp [hsag, hdone, hkept]), if_pos (by simp [h]), toLastWords_of_low hlow]

theorem lastWords_of_empty_queue {e : RecEntry} (hlatching : recLatching s = true) (hqueue : s.log.queue = [])
    (hidle : s.log.writing = none)
    (he : e = { latchEntry 1 6 [] s with
      data := [0, 0] ++ beBytes 2 (min s.log.lost 65535) ++ beBytes 4 0
      underSag := true
      seq := some s.log.nextSeq
      lost := s.log.lost
      refused := s.log.refusedCount })
    (hroom : entryPages e ≤ freePages s) :
    lastWords s = bump 0x70054 (entryExists e
      { s with log.nextSeq := s.log.nextSeq + 1, log.lost := 0, log.refusedCount := 0, log.lastWordsDone := true }) := by
  have hfinish : finishProgram s = s := by rw [finishProgram, hidle]
  rw [lastWords, if_neg (by simp [hsag, hdone, hkept]), if_neg (by simp [hlatching])]
  conv_lhs => simp only [toLastWords_of_low hlow, hfinish, hqueue, List.head?_nil]
  have hentry : e = { latchEntry 1 6 [] s with
      data := [BitVec.ofNat 8 ([] : List RecEntry).length, 0] ++ beBytes 2 (min s.log.lost 65535) ++ beBytes 4 (0 : Word).toNat
      underSag := true
      seq := some s.log.nextSeq
      lost := s.log.lost
      refused := s.log.refusedCount } := he
  rw [← hentry, makeRoom_of_free 6 hroom]
  dsimp only
  refine noteFull_of_same ?_
  rw [bump_log, entryExists_log]

end

/-- Settles O22: the hypotheses of each clause pass its command's guards; the head takes the pages that are free, and is refused where no
room can be made. -/
theorem recorderWritingCompletes : Obligations.RecorderWritingCompletes := by
  refine ⟨?trigger, ?start, ?refused, ?page, ?lastPage, ?mark, ?reclaimed, ?words, ?wordsLost⟩
  case trigger =>
    rintro who source sev data s ⟨hreach, hlow, hlatching, hroom⟩ ⟨hnew, hwho⟩
    have hhigh : source.toNat ≤ 63 := Nat.le_of_lt_succ source.isLt
    refine congrArg Host.Outcome.next ?_
    rw [if_pos hreach, trigBy_of_granted s hwho hlow hhigh, fire_of_room hlatching hnew _ hroom]
  case start =>
    rintro e q s ⟨hqueue, hidle, hready, hroom, hnew, hclear⟩
    refine congrArg Host.Outcome.next ?_
    rw [entryWriteStart_of_ready hqueue hidle hready, makeRoom_of_free _ hroom]
    dsimp only
    rw [startHead_of_new hqueue hnew hclear]
    exact noteFull_of_same rfl
  case refused =>
    rintro e q s ⟨hqueue, hidle, hready, hroom⟩
    refine congrArg Host.Outcome.next ?_
    rw [entryWriteStart_of_ready hqueue hidle hready, hroom]
  case page =>
    rintro ok e q n s ⟨hqueue, hpage, hgoes, hsag, hmore⟩
    exact congrArg Host.Outcome.next ((pageDone_of_page hqueue hpage hgoes hsag ok).trans (if_pos hmore))
  case lastPage =>
    rintro e q n s ⟨hqueue, hpage, hgoes, hsag, hlast⟩
    have hdone := pageDone_of_page hqueue hpage hgoes hsag
    have hnot : ¬ n + 1 < entryPages e := by omega
    exact ⟨congrArg Host.Outcome.next ((hdone true).trans (if_neg hnot)),
      congrArg Host.Outcome.next ((hdone false).trans (if_neg hnot))⟩
  case mark =>
    rintro e q s ⟨hqueue, hmark, hclear, hsev⟩
    refine congrArg Host.Outcome.next ((markDone_of_no_clear hqueue hmark hclear).trans ?_)
    exact entryExists_of_quiet hsev
  case reclaimed => rintro s ⟨hidle, hready⟩; exact if_neg (by simp [hidle, hready])
  case words =>
    rintro e s ⟨hsag, hdone, hkept, hlatching, hlow, hqueue, hidle⟩ he hroom
    exact congrArg Host.Outcome.next (lastWords_of_empty_queue hsag hdone hkept hlow hlatching hqueue hidle he hroom)
  case wordsLost =>
    rintro s ⟨hsag, hdone, hkept, hnot, hlow⟩
    exact congrArg Host.Outcome.next (lastWords_of_not_latching hsag hdone hkept hlow hnot)

end Sys2Proof.Machine
end

section
/-!
PROOFS. The cursor, clears and the forced stop of the recorder (R383 to R388).
-/
namespace Sys2Proof.Machine

/-! ### The cursor (R383) -/

section
variable {sel : List RecEntry → Option RecEntry} {minSev : Nat} {s : State}

theorem cursorTo_of_selected {e : RecEntry} (h : sel ((existing s).filter (fun x => decide (minSev ≤ x.sev))) = some e) (page : Nat) :
    cursorTo sel minSev page s = loadPage e page s := by
  rw [cursorTo, h]

theorem cursorTo_of_no_entry (hnone : existing s = []) (hsel : sel [] = none) (page : Nat) : cursorTo sel minSev page s = cursorEnd s := by
  rw [cursorTo, hnone, List.filter_nil, hsel]

end

theorem cursorPage_of_current {e : RecEntry} {page : Nat} {s : State} (hcur : s.log.cur = some e) (hpage : page < entryPages e) :
    cursorPage page s = { s with
      log.curReady := true
      log.curRange := false
      log.curPage := page
      log.window := ((entryBytes s e).drop (4096 * page)).take 4096 } := by
  simp only [cursorPage, hcur]
  exact if_pos hpage

section
variable {s : State} (hreach : reaches s .host = true) (hon : domOn s .d11 = true)
include hreach hon

theorem cursorReaches_of_host : cursorReaches s = true := by simp [cursorReaches, hreach, hon]

variable (minSev : Fin 8) (page : Fin 16)

theorem exec_cursorFirst : exec (.cursorFirst minSev page) s = .next (cursorTo (·.head?) minSev.val page.val s) :=
  if_pos (cursorReaches_of_host hreach hon)

theorem exec_cursorLast : exec (.cursorLast minSev page) s = .next (cursorTo (·.getLast?) minSev.val page.val s) :=
  if_pos (cursorReaches_of_host hreach hon)

theorem exec_cursorNext :
    exec (.cursorNext minSev page) s =
      .next (cursorTo (·.find? (fun x => decide (cursorSeq s < (seqOf x).toNat))) minSev.val page.val s) :=
  if_pos (cursorReaches_of_host hreach hon)

theorem exec_cursorPrev :
    exec (.cursorPrev minSev page) s =
      .next (cursorTo (fun l => (l.filter (fun x => decide ((seqOf x).toNat < cursorSeq s))).getLast?) minSev.val page.val s) :=
  if_pos (cursorReaches_of_host hreach hon)

theorem exec_cursorSeek :
    exec (.cursorSeek minSev page) s =
      .next (cursorTo (·.find? (fun x => decide (s.log.curSeq.toNat ≤ (seqOf x).toNat))) minSev.val page.val s) :=
  if_pos (cursorReaches_of_host hreach hon)

theorem exec_cursorPage : exec (.cursorPage page) s = .next (cursorPage page.val s) := if_pos (cursorReaches_of_host hreach hon)

end

/-! ### Clears and their abort (R386, R387) -/

theorem clearByRegister_of_allowed {c : Nat} {s : State} (hceiling : c < 7) (hlevel : 2 ≤ (sessOf s hostSession).level)
    (hallowed : clearAllowed s = true) : clearByRegister c s = clearStart c 3 s :=
  if_neg (by simp [hallowed, hceiling, Nat.not_lt.mpr hlevel])

theorem clearAbort_of_done {s : State} (hnone : s.log.clear = none) (hdone : s.log.clrResult = 1) :
    clearAbort s = { s with log.clrResult := 3 } := by
  simp only [clearAbort, hnone]
  exact if_pos hdone

/-- What an abort leaves of a clear that runs: no record of it at the head, where it may be written by now, and none behind it. -/
theorem clearAbort_of_running {c : Nat} {s : State} (h : s.log.clear = some c) :
    let u := { s with log.clear := none, log.clrDone := true, log.clrResult := 2 }
    (∃ e q n, s.log.queue = e :: q ∧ e.source = 31 ∧ clearAbort s = dropHead n u) ∨
      clearAbort s = { u with log.queue := s.log.queue.filter (fun x => x.source != 31) } := by
  cases hqueue : s.log.queue with
  | nil =>
    right
    simp only [clearAbort, h, hqueue, List.filter_nil]
  | cons e q =>
    by_cases he : e.source = 31
    · left
      simp only [clearAbort, h, hqueue, if_pos he]
      split
      all_goals exact ⟨e, q, _, rfl, he, rfl⟩
    · right
      simp only [clearAbort, h, hqueue, if_neg he]

theorem clearAbort_of_waiting_head {c : Nat} {e : RecEntry} {q : List RecEntry} {s : State} (h : s.log.clear = some c)
    (hqueue : s.log.queue = e :: q) (he : e.source = 31) (hidle : s.log.writing = none) :
    clearAbort s = { s with
      log.clear := none
      log.clrDone := true
      log.clrResult := 2
      log.writing := none
      log.stopped := false
      log.queue := q
      log.forceStop := false } := by
  simp only [clearAbort, h, hqueue, he, hidle, if_true, dropHead, List.tail_cons, Nat.add_zero]

theorem exec_recAbort {s : State} (h : reaches s .host = true) : exec .recAbort s = .next (clearAbort s) := if_pos h

/-- No other clear record is queued behind the one at the head. -/
theorem source_ne_of_one_clear {e x : RecEntry} {q : List RecEntry} (hone : ((e :: q).filter (fun x => x.source == 31)).length ≤ 1)
    (he : e.source = 31) (hx : x ∈ q) : x.source ≠ 31 := by
  intro hclear
  have hmem : x ∈ q.filter (fun x => x.source == 31) := List.mem_filter.mpr ⟨hx, by simp [hclear]⟩
  have hpos := List.length_pos_of_mem hmem
  rw [List.filter_cons_of_pos (by simp [he]), List.length_cons] at hone
  omega

/-- Settles O42: a running clear has one record at most, and clearAbort_of_running says where the abort takes it from. -/
theorem abortOfAClear : Obligations.AbortOfAClear := by
  refine ⟨?done, ?running⟩
  case done => rintro s ⟨hreach, hnone, hdone⟩; rw [exec_recAbort hreach, clearAbort_of_done hnone hdone]
  case running =>
    rintro c s ⟨hreach, hclear⟩ hone
    refine ⟨clearAbort s, exec_recAbort hreach, ?_⟩
    rcases clearAbort_of_running hclear with ⟨e, q, n, hqueue, he, habort⟩ | habort
    · rw [habort]
      rw [hqueue] at hone
      refine ⟨rfl, fun x hx => source_ne_of_one_clear hone he ?_, rfl, rfl⟩
      simpa [dropHead, hqueue] using hx
    · rw [habort]
      exact ⟨rfl, fun x hx => by simpa using (List.mem_filter.mp hx).2, rfl, rfl⟩

/-! ### The forced stop (R388) -/

theorem recForceStop_of_idle {s : State} (hidle : s.log.writing = none) :
    recForceStop s =
      let u := applyVals [(key 0x2A01 0, .num 0)] s
      clearLost (loseN s.log.queue.length { u with log.queue := [], log.stopped := false }) := by
  have hlog : (applyVals [(key 0x2A01 0, .num 0)] s).log = s.log := rfl
  simp only [recForceStop, hlog, hidle]

theorem recDrain_of_page {e : RecEntry} {q : List RecEntry} {n : Nat} {s : State} (hstop : s.log.forceStop = true)
    (hqueue : s.log.queue = e :: q) (hpage : s.log.writing = some (.page n)) : recDrain s = clearLost (dropHead (n + 1) s) := by
  simp only [recDrain, pageDone, hqueue, hpage, if_pos hstop]

/-- Settles O23: a cursor command takes what its selection finds among the entries that exist; the other hypotheses pass their commands'
guards. That a clear which a forced stop drops ends as one lost is log 51. -/
theorem recorderReadingCompletes : Obligations.RecorderReadingCompletes := by
  refine ⟨?first, ?last, ?next, ?prev, ?seek, ?none, ?page, ?clear, ?abort, ?tooLate, ?stop, ?drained⟩
  case first => rintro minSev page e s ⟨hreach, hon, hsel⟩; rw [exec_cursorFirst hreach hon, cursorTo_of_selected hsel]
  case last => rintro minSev page e s ⟨hreach, hon, hsel⟩; rw [exec_cursorLast hreach hon, cursorTo_of_selected hsel]
  case next => rintro minSev page e s ⟨hreach, hon⟩ hsel; rw [exec_cursorNext hreach hon, cursorTo_of_selected hsel]
  case prev => rintro minSev page e s ⟨hreach, hon⟩ hsel; rw [exec_cursorPrev hreach hon, cursorTo_of_selected hsel]
  case seek => rintro minSev page e s ⟨hreach, hon⟩ hsel; rw [exec_cursorSeek hreach hon, cursorTo_of_selected hsel]
  case none =>
    rintro minSev page s ⟨hreach, hon, hnone⟩
    rw [exec_cursorFirst hreach hon, exec_cursorLast hreach hon, exec_cursorNext hreach hon, exec_cursorPrev hreach hon,
      exec_cursorSeek hreach hon]
    have hend {sel : List RecEntry → Option RecEntry} (hsel : sel [] = none) :=
      congrArg (Host.Outcome.next (φ := Fault) (ρ := Refusal)) (cursorTo_of_no_entry (minSev := minSev.val) hnone hsel page.val)
    exact ⟨hend rfl, hend rfl, hend rfl, hend rfl, hend rfl⟩
  case page => rintro page e s ⟨hreach, hon, hcur, hpage⟩; rw [exec_cursorPage hreach hon, cursorPage_of_current hcur hpage]
  case clear =>
    rintro c s ⟨hreach, hceiling, hlevel, hallowed⟩
    exact congrArg Host.Outcome.next ((if_pos hreach).trans (clearByRegister_of_allowed hceiling hlevel hallowed))
  case abort =>
    rintro c e q s ⟨hreach, hclear, hqueue, he, hidle⟩
    rw [exec_recAbort hreach, clearAbort_of_waiting_head hclear hqueue he hidle]
  case tooLate => rintro s ⟨hreach, hnone, hdone⟩; rw [exec_recAbort hreach, clearAbort_of_done hnone hdone]
  case stop => rintro s ⟨hreach, hidle⟩; exact (if_pos hreach).trans (congrArg Host.Outcome.next (recForceStop_of_idle hidle))
  case drained =>
    rintro e q n s ⟨hstop, hqueue, hpage⟩
    exact congrArg (fun t => Host.Outcome.next (exitDrained (drainCheck .d11 t))) (recDrain_of_page hstop hqueue hpage)

end Sys2Proof.Machine
end

section
/-!
PROOFS. Train-line inputs (R392 to R395, R402, R409).
-/
namespace Sys2Proof.Machine

/-! ### States and thresholds of an input (R392 to R394) -/

theorem exec_debounceRunComplete_of_edge {i : Fin 16} {above : Bool} {s : State} (hactive : inActive s i.val = true)
    (hedge : (inSt s i.val).high ≠ (above != cfgOn s 0x2B09 (i.val + 1))) (ts : Word) (level : BitVec 16) :
    exec (.debounceRunComplete i above ts level) s =
      let new := above != cfgOn s 0x2B09 (i.val + 1)
      let u := setIn i.val { inSt s i.val with high := new, level := level.toNat, edges := ((inSt s i.val).edges + 1) % 65536 } s
      .next (recordChanged (followAll (inputFollows i.val (edgeEvent i.val new ts u)))) :=
  if_neg (by simp only [hactive, Bool.not_true, Bool.false_or, beq_iff_eq]; exact hedge.symm)

section
variable {i : Fin 16} {samples : List (BitVec 16)} {s : State} (hon : domOn (toFrame s) .d1 = true) (hsamples : samples ≠ [])
include hon hsamples

theorem exec_thresholdUpdate_of_inactive (hidle : inActive (toFrame s) i.val = false) (whole : Bool) :
    exec (.thresholdUpdate i whole samples) s =
      .next (setIn i.val { inSt (toFrame s) i.val with level := meanOf (samples.drop (samples.length - 16)) } (toFrame s)) :=
  (if_neg (by simp [hon, hsamples])).trans (if_pos (by rw [hidle]; rfl))

theorem exec_thresholdUpdate_of_active (hactive : inActive (toFrame s) i.val = true) (whole : Bool) :
    exec (.thresholdUpdate i whole samples) s =
      let u := toFrame s
      let x := { inSt u i.val with level := meanOf (samples.drop (samples.length - 16)) }
      let y := if whole then swingWatch (inUn u i.val) u.up (estimate x (x.high != cfgOn u 0x2B09 (i.val + 1)) (meanOf samples)) else x
      .next (setIn i.val (boundaryTh u i.val whole y) u) :=
  (if_neg (by simp [hon, hsamples])).trans (if_neg (by rw [hactive]; decide))

end

theorem exec_swingLowTimer_of_low {i : Fin 16} {s : State} {t : Nat} (hactive : inActive s i.val = true)
    (hnew : (inSt s i.val).swingLow = false) (hfrom : (inSt s i.val).swingFrom = some t) :
    exec (.swingLowTimer i false) s =
      let u := passTo (t + 64 * fr) s
      let x := { inSt u i.val with swingFrom := none }
      let v := setIn i.val { x with swingLow := true, fSwing := true, frozen := true, th := some (thOf u i.val) } u
      .next (fireTrainFault 1 (i.val + 1) (16 + i.val) x.level (bump 0x80048 v)) := by
  change execSwingLowTimer i false s = _
  rw [execSwingLowTimer, hfrom]
  exact (if_neg (by rw [hactive, hnew]; decide)).trans (if_neg Bool.false_ne_true)

/-! ### Faults and edge times (R392, R395, R402, R409) -/

theorem exec_inputOverrange_of_above {level : BitVec 16} {s : State} (i : Fin 16) (hon : domOn s .d1 = true)
    (habove : 64000 < level.toNat) :
    exec (.inputOverrange i level) s = .next (fireTrainFault 1 (i.val + 1) i.val level.toNat (bump 0x80048
      (setIn i.val { inSt s i.val with overrange := true, level := level.toNat } s))) :=
  if_neg (by simp [hon, habove])

theorem exec_evtTsRead_of_granted {who : Requester} {x : EdgeEv} {q : List EdgeEv} {s : State} (hreach : reaches s who = true)
    (hmay : featDenied s who 4 = false) (hfifo : s.tln.fifo = x :: q) :
    exec (.evtTsRead who) s = .next (emit (.readData who 0x80024 x.ts) { s with tln.fifo := q }) := by
  change execEvtTsRead who s = _
  rw [execEvtTsRead, if_neg (by simp [hreach]), if_neg (by simp [hmay]), hfifo]
  rfl

/-- Settles O27: the hypotheses of each clause pass its command's guards. IN_LEVEL between commands is log 132, and the channel numbers and
bytes 3 to 7 of TRAIN_LINE_FAULT are log 185. -/
theorem trainLineInputsComplete : Obligations.TrainLineInputsComplete := by
  refine ⟨?edge, ?held, ?whole, ?inactive, ?swing, ?overrange, ?overvolt, ?time⟩
  case edge => rintro i above ts level s ⟨hactive, hedge⟩; exact exec_debounceRunComplete_of_edge hactive hedge ts level
  case held => rintro i samples s ⟨hon, hactive, hsamples⟩; exact exec_thresholdUpdate_of_active hon hsamples hactive false
  case whole => rintro i samples s ⟨hon, hactive, hsamples⟩; exact exec_thresholdUpdate_of_active hon hsamples hactive true
  case inactive => rintro i samples whole s ⟨hon, hidle, hsamples⟩; exact exec_thresholdUpdate_of_inactive hon hsamples hidle whole
  case swing => rintro i s t ⟨hactive, hnew, hfrom⟩; exact exec_swingLowTimer_of_low hactive hnew hfrom
  case overrange => intro i level s hon habove; exact exec_inputOverrange_of_above i hon habove
  case overvolt => intro c s hon; exact if_neg (by simp [hon])
  case time => rintro who x q s ⟨hreach, hmay, hfifo⟩; exact exec_evtTsRead_of_granted hreach hmay hfifo

end Sys2Proof.Machine
end

section
/-!
PROOFS. Train-line outputs (R397 to R401).
-/
namespace Sys2Proof.Machine

/-! ### Trips of an output (R397) -/

/-- A trip of a driven output counts n, and latches where there is no retry interval or n is the third. -/
theorem exec_outputTrip_of_driven {k : Fin 8} {s : State} {n : Nat} {latch : Bool} (hdriven : outDriven s k.val = true)
    (hn : (if rl ≤ (outSt s k.val).clean + (s.up - cfg s 0x2B16 (k.val + 1) * fr - (outSt s k.val).cleanFrom) then 1
      else (outSt s k.val).trips + 1) = n)
    (hlatch : decide (cfg s 0x2B17 (k.val + 1) = 0 ∨ 3 ≤ n) = latch) (current : BitVec 16) :
    exec (.outputTrip k current) s = .next (outFaultReport k.val k.val 0x8004C (measureOut k.val current (setOut k.val
      { outSt s k.val with
        tripped := true
        fTripped := true
        trips := n
        clean := 0
        latched := latch
        retryAt := if latch then none else some (s.up + cfg s 0x2B17 (k.val + 1) * rl) } s))) := by
  subst hn hlatch
  exact if_neg (by rw [hdriven]; decide)

theorem exec_outputRetry_of_due {k : Fin 8} {s : State} {t : Nat} (h : (outSt s k.val).retryAt = some t) :
    exec (.outputRetry k) s =
      let u := passTo t s
      .next (setOut k.val { outSt u k.val with retryAt := none, tripped := false, cleanFrom := u.up } u) := by
  change execOutputRetry k s = _
  rw [execOutputRetry, h]

theorem exec_tripClear {s : State} (hreach : reaches s .host = true) (k : Fin 8) :
    exec (.tripClear k) s = .next (doTripClear k.val s) :=
  if_pos hreach

theorem doTripClear_of_latched {k : Nat} {s : State} (h : (outSt s k).latched = true) :
    doTripClear k s = noteDriven s (setOut k { outSt s k with tripped := false, latched := false, trips := 0, clean := 0 } s) :=
  if_pos h

theorem doTripClear_of_unlatched {k : Nat} {s : State} (h : (outSt s k).latched = false) : doTripClear k s = s := if_neg (by simp [h])

/-! ### Commands, rules and the isolation link (R399 to R401) -/

theorem setOutCmd_of_link {s : State} (hlink : s.tln.linkLost = false) (v : Byte) :
    setOutCmd v s = noteDriven s { s with tln.outCmd := v, tln.cmdPast := (s.up, s.tln.outCmd) :: recentWrites s } :=
  if_neg (by simp [hlink])

theorem exec_followDelayExpiry_of_due {k : Fin 8} {r : Bool} {s : State} {t : Nat} (h : (outSt s k.val).followNext = some (r, t)) :
    exec (.followDelayExpiry k) s =
      let u := passTo t s
      .next (noteDriven u (setOut k.val { outSt u k.val with follow := r, followNext := none } u)) := by
  change execFollowDelayExpiry k s = _
  rw [execFollowDelayExpiry, h]

/-- Settles O28: the hypotheses of each clause pass its command's guards; a trip goes by exec_outputTrip_of_driven. The writes lost with
the link are log 213, and the clean time and a TRIP_CLEAR of an unlatched trip are log 214. -/
theorem trainLineOutputsComplete : Obligations.TrainLineOutputsComplete := by
  refine ⟨?command, ?trip, ?latch, ?retry, ?clear, ?noClear, ?openLoad, ?stuckOn, ?follow, ?linkLost, ?linkReturn, ?safe⟩
  case command =>
    rintro v s ⟨hreach, hlink⟩
    exact congrArg Host.Outcome.next ((if_pos hreach).trans (setOutCmd_of_link hlink v))
  case trip =>
    rintro k current s ⟨hdriven, hcount, hretry⟩ hclean
    exact exec_outputTrip_of_driven hdriven (if_neg (Nat.not_le.mpr hclean)) (decide_eq_false (by omega)) current
  case latch =>
    rintro k current s ⟨hdriven, hretry⟩ hclean
    exact exec_outputTrip_of_driven hdriven (if_pos hclean) (decide_eq_true (.inl hretry)) current
  case retry => intro k s t h; exact exec_outputRetry_of_due h
  case clear => rintro k s ⟨hreach, hlatched⟩; rw [exec_tripClear hreach, doTripClear_of_latched hlatched]
  case noClear => rintro k s ⟨hreach, hunlatched⟩; rw [exec_tripClear hreach, doTripClear_of_unlatched hunlatched]
  case openLoad => rintro k current s ⟨hdriven, hlow⟩; exact if_neg (by simp [hdriven, hlow])
  case stuckOn => rintro k current s ⟨hon, hdriven, hordered, hhigh⟩; exact if_neg (by simp [hon, hdriven, hordered, hhigh])
  case follow => intro k r t s h; exact exec_followDelayExpiry_of_due h
  case linkLost => rintro s ⟨hon, hlink⟩; exact if_neg (by simp [hon, hlink])
  case linkReturn => intro s hlost; exact if_neg (by simp [hlost])
  case safe => intro s hreach; exact ⟨if_pos hreach, if_pos hreach⟩

end Sys2Proof.Machine
end

section
/-!
PROOFS. The consent ring, dusk and sleep (R345 to R357).
-/
namespace Sys2Proof.Machine

/-! ### The consent ring (R345 to R348) -/

theorem exec_ringStart_of_first {u : Uid} {s : State} (hnone : s.wak.ringStart = none) (hposition : ownPosition s = 1)
    (hfirst : s.wak.lastRing = none) (hconsent : consent s = true) (hnext : memberAtPos s 2 = some u) :
    exec .ringStart s =
      let n := s.wak.ringNext + 1
      let v := bump 0x4040 { s with wak.ringNext := n, wak.ringId := n, wak.lastRing := some s.up, wak.ringStart := some s.up }
      .next (ringSend u { origin := s.uid, ringId := n, csc := activeCsc v, consent := 1 } v) := by
  have hmember (n : Word) : memberAtPos (bump 0x4040 { s with
      wak.ringNext := n, wak.ringId := n, wak.lastRing := some s.up, wak.ringStart := some s.up }) 2 = some u := hnext
  change execRingStart s = _
  rw [execRingStart, if_neg (by simp [hnone, hposition])]
  simp only [hfirst, hconsent, hmember, bump_uid]
  rfl

/-- On the way out, a member before the last position that does not veto gives its consent, and the frame stays on its way out. -/
theorem ringMark_of_consent {p : Nat} {m : RingMsg} {s : State} (hphase : m.phase = 1) (hveto : ringVeto s m.csc = 0)
    (hlast : p ≠ callSheetLen s) :
    ringMark p m s =
      ({ m with consent := putBit m.consent (p - 1) true }, { s with wak.ringId := m.ringId, wak.consentOut := some m.ringId }) := by
  simp only [ringMark, hveto, if_pos hphase, if_neg hlast, ne_eq, not_true_eq_false, if_false]

theorem ringIn_of_outbound {m : RingMsg} {u : Uid} {s : State} (horigin : m.origin ≠ s.uid) (hposition : 2 ≤ ownPosition s)
    (hlast : ownPosition s ≠ callSheetLen s) (hphase : m.phase = 1) (hveto : ringVeto s m.csc = 0)
    (hnext : memberAtPos s (ownPosition s + 1) = some u) :
    ringIn m s = ringSend u { m with consent := putBit m.consent (ownPosition s - 1) true }
      { s with wak.ringId := m.ringId, wak.consentOut := some m.ringId } := by
  have hmember : memberAtPos { s with wak.ringId := m.ringId, wak.consentOut := some m.ringId } (ownPosition s + 1) = some u := hnext
  rw [ringIn, if_neg horigin, if_neg (by simp [Nat.not_lt.mpr hposition, hphase]), ringMark_of_consent hphase hveto hlast]
  simp only [if_pos hphase, hmember]

theorem exec_ringTimeout_of_running {s : State} {t : Nat} (h : s.wak.ringStart = some t) :
    exec .ringTimeout s = .next (ringEnd 3 0 0 0 (bump 0x4048 (passTo (t + cfg s 0x2904 0 * fr) s))) := by
  change execRingTimeout s = _
  rw [execRingTimeout, h]

/-! ### The dusk take (R349, R351) -/

theorem exec_duskPrepareSend_of_consent {ring : Word} {i : Instant} {s : State} (hdue : s.wak.duskDue = some (ring, i))
    (hposition : ownPosition { passToInstant i s with wak.duskDue := none } = 1)
    (hconsent : consent { passToInstant i s with wak.duskDue := none } = true) :
    exec .duskPrepareSend s =
      let u := { passToInstant i s with wak.duskDue := none }
      .next (sysPrintIfAll (sysPrepare 3 (framesAfter u.now 16) (framesAfter u.now 2) (activeCsc u)
        (beBytes 4 ring.toNat ++ [0, 0, 0, 0]) (callSheetUids u) u)) := by
  change execDuskPrepareSend s = _
  rw [execDuskPrepareSend, hdue]
  exact if_neg (by rw [hposition, hconsent]; decide)

theorem exec_consentLost_of_prepared {s : State} (hkind : s.tak.sys.kind = 3) (hstate : s.tak.sys.state = .prepared)
    (hvoted : s.tak.sys.withdrawn = false) (hlost : consentForDusk s = false) :
    exec .consentLost s = .next (if s.tak.sys.isCoord then sysCoordScrap 1 s else takeTo s.tak.sys.coord 0x21
      { kind := 3, coord := s.tak.sys.coord, num := s.tak.sys.num, instant := s.tak.sys.instant, vote := 2, reason := 4 }
      { s with tak.sys.withdrawn := true }) := by
  change execConsentLost s = _
  rw [execConsentLost, if_neg (by simp [hkind, hstate, hvoted, hlost])]
  cases s.tak.sys.isCoord <;> rfl

/-! ### Dusk and ASLEEP (R352, R353) -/

theorem exec_duskSecondLineRelease_of_dusk {i : Instant} {s : State} (hdusk : s.wak.duskAt = some i) (hnode : s.node = .dusk)
    (hlater : s.wak.duskOneOff = false) :
    exec .duskSecondLineRelease s = .next (releaseSecond (passToInstant (i - BitVec.ofNat 64 (8 * fr)) s)) := by
  change execDuskSecondLineRelease s = _
  rw [execDuskSecondLineRelease, hdusk]
  exact if_neg (by rw [hnode, hlater]; decide)

theorem exec_sleepReady_of_drained {s : State} (hnode : s.node = .dusk) (hind : s.wak.sleepInd = .dusk) (hdrained : duskDrained s = true)
    (hintime : s.up ≤ s.wak.sleepIndBy) : exec .sleepReady s = .next (fallAsleep false s) := by
  change execSleepReady s = _
  rw [execSleepReady, if_neg (by simp [hnode, hind]), if_neg (Nat.not_lt.mpr hintime), if_pos hdrained]

/-! ### The consist network (R356) -/

theorem exec_consistIdleExpiry_of_unheld {s : State} (hruns : consistRuns s = true) (hawake : s.wak.consistAwake = true)
    (hind : s.wak.sleepInd = .none) (hlink : linkHeld s = false) :
    exec .consistIdleExpiry s =
      let u := passTo (heldUntil s + cfg s 0x2911 0 * rl) s
      .next (raiseIrq 12 { u with wak.sleepInd := .consist, wak.sleepIndBy := u.up + 8 * fr }) :=
  if_neg (by rw [hruns, hawake, hind, hlink]; decide)

theorem exec_consistSleep_of_indicated {s : State} (hind : s.wak.sleepInd = .consist) (hruns : consistRuns s = true) :
    exec .consistSleep s =
      let u := bump 0x405C { passTo s.wak.sleepIndBy s with wak.sleepInd := .none, wak.consistAwake := false }
      .next ((List.range 13).foldl (fun s i => portDisable (i + 4) 2 s) u) :=
  if_neg (by rw [hind, hruns]; decide)

/-- Settles O29: the hypotheses of each clause pass its command's guards; an outbound ring frame goes by ringMark_of_consent. That the idle
time of the consist network counts from the end of the last hold is log 78. -/
theorem ringAndDuskComplete : Obligations.RingAndDuskComplete := by
  refine ⟨?start, ?frame, ?timeout, ?prepare, ?lost, ?second, ?asleep, ?forced, ?idle, ?consist⟩
  case start =>
    rintro u s ⟨hnone, hposition, hfirst, hconsent⟩ hnext
    exact exec_ringStart_of_first hnone hposition hfirst hconsent hnext
  case frame =>
    rintro m p u s ⟨horigin, rfl, hposition, hlast, hphase, hveto⟩ hnext
    exact congrArg Host.Outcome.next (ringIn_of_outbound horigin hposition hlast hphase hveto hnext)
  case timeout => intro s t h; exact exec_ringTimeout_of_running h
  case prepare => rintro ring i s hdue ⟨hposition, hconsent⟩; exact exec_duskPrepareSend_of_consent hdue hposition hconsent
  case lost => rintro s ⟨hkind, hstate, hvoted, hlost⟩; exact exec_consentLost_of_prepared hkind hstate hvoted hlost
  case second => rintro i s ⟨hdusk, hnode, hlater⟩; exact exec_duskSecondLineRelease_of_dusk hdusk hnode hlater
  case asleep => rintro s ⟨hnode, hind, hdrained, hintime⟩; exact exec_sleepReady_of_drained hnode hind hdrained hintime
  case forced => rintro s ⟨hnode, hind⟩; exact if_neg (by rw [hnode, hind]; decide)
  case idle => rintro s ⟨hruns, hawake, hind⟩ hlink; exact exec_consistIdleExpiry_of_unheld hruns hawake hind hlink
  case consist => rintro s ⟨hind, hruns⟩; exact exec_consistSleep_of_indicated hind hruns

end Sys2Proof.Machine
end
